-- ==== Sys2Proof/Word.lean ====
section
/-! DEFINITION. The word types and their plainest arithmetic, and the sparse table the state is made of. -/

namespace Sys2Proof

/-- One register lane, scalar or memory word (05, Table 5.7). -/
abbrev Word := BitVec 32

/-- One byte of memory (00, R3). -/
abbrev Byte := BitVec 8

/-- A set of lanes 0 to 95, bit l for lane l (06, R117). -/
abbrev LaneMask := BitVec 96

/-- A table keyed by number, keys strictly rising; a key not listed holds the table's default. -/
abbrev Tbl (α : Type) := List (Nat × α)

namespace Tbl

/-- The entry listed at `k`, if any. -/
def find? {α : Type} : Tbl α → Nat → Option α
  | [], _ => none
  | (i, v) :: t, k => if i = k then some v else find? t k

/-- The value at `k`, `d` where none is listed. -/
def getD {α : Type} (t : Tbl α) (k : Nat) (d : α) : α := (find? t k).getD d

/-- List `v` at `k`. -/
def set {α : Type} : Tbl α → Nat → α → Tbl α
  | [], k, v => [(k, v)]
  | (i, w) :: t, k, v =>
    if k < i then (k, v) :: (i, w) :: t
    else if i = k then (k, v) :: t
    else (i, w) :: set t k v

/-- Unlist `k`. -/
def erase {α : Type} : Tbl α → Nat → Tbl α
  | [], _ => []
  | (i, w) :: t, k => if i = k then erase t k else (i, w) :: erase t k

/-- Keys strictly rising, all above `lo`. -/
def sortedFrom {α : Type} : Nat → Tbl α → Bool
  | _, [] => true
  | lo, (i, _) :: t => decide (lo ≤ i) && sortedFrom (i + 1) t

/-- The listed keys. -/
def keys {α : Type} (t : Tbl α) : List Nat := t.map Prod.fst

/-- The listed values. -/
def values {α : Type} (t : Tbl α) : List α := t.map Prod.snd

/-- Every listed value changed by `f`. -/
def mapVals {α : Type} (f : Nat → α → α) (t : Tbl α) : Tbl α := t.map fun p => (p.1, f p.1 p.2)

end Tbl

/-- Bits `[hi:lo]` of a number (00, R3). -/
def bitsOf (x hi lo : Nat) : Nat := (x >>> lo) % 2 ^ (hi + 1 - lo)

/-- Bit `n` of a number. -/
def bitOf (x n : Nat) : Bool := (x >>> n) % 2 == 1

/-- A Boolean as the number 1 or 0. -/
def b2n (b : Bool) : Nat := if b then 1 else 0

/-- Bits `[hi:lo]` of `x` replaced by the low bits of `v`. -/
def putBits (x hi lo v : Nat) : Nat :=
  let w := hi + 1 - lo
  x % 2 ^ lo + (v % 2 ^ w) * 2 ^ lo + (x >>> (hi + 1)) * 2 ^ (hi + 1)

end Sys2Proof
end

