-- ==== Sys2Proof/Syntax.lean ====
section
/-! DEFINITION. The steps of the Bervel as syntax: one constructor per row of spec/opcode_table.json. An instruction of
the device's own code carries the fields of its 96-bit word; a device or host event carries the operands that say
which event it is. An event without operands comes about at one place (a core, stack, cluster, partition, launch or
line), the one that `State.focus` names; these stand last, since Lean's runtime numbers at most 245 constructors that
have operands. -/

namespace Sys2Proof

/-- The fields of a 96-bit instruction word other than OPC (05, Table 5.1). `grd` is NEG:PRED. -/
structure Fields where
  fn  : BitVec 12 := 0
  grd : BitVec 4 := 7
  d   : BitVec 16 := 0
  a   : BitVec 16 := 0
  b   : BitVec 16 := 0
  aux : BitVec 16 := 0
  la  : BitVec 4 := 0
  bh  : BitVec 2 := 0
  deriving DecidableEq, Repr, Inhabited

/-- An SPDM 1.3 request the physical function may send (01, R25). -/
inductive SpdmRequest where
  | certificate
  | challenge (nonce : Nat)
  | measurements (nonce : Nat)
  deriving DecidableEq, Repr, Inhabited

/-- A host read of `len` bytes by a function, at an offset of its BAR0, or of its BAR2 where `bar2` (03, R47). -/
structure HostRead where
  func   : Nat := 0
  bar2   : Bool := false
  offset : Nat
  len    : Nat := 8
  deriving DecidableEq, Repr, Inhabited

/-- A write of a function's VFCTL (16, R365). -/
structure VfctlWrite where
  func  : Nat
  value : Nat
  deriving DecidableEq, Repr, Inhabited

/-- The operation a network message carries (14, Table 14.4, field OP). -/
inductive NetOp where
  | put | get | atomic | send
  deriving DecidableEq, Repr, Inhabited

/-- The delivery mode of a packet (14, R310, R319). UUD is the mode the device discards. -/
inductive NetMode where
  | rud | rudi | rod | uud
  deriving DecidableEq, Repr, Inhabited

/-- A packet as it travels between devices (14, R319). -/
structure NetPacket where
  jobid  : Nat
  src    : Nat
  pid    : Nat
  queue  : Nat
  msg    : Nat
  pkt    : Nat
  mode   : NetMode
  op     : NetOp
  length : Nat
  psz    : Nat
  raddr  : Nat
  rctr   : Nat
  atop   : Nat
  atype  : Nat
  opnd   : Nat
  anew   : Nat
  data   : List Byte
  deriving DecidableEq, Repr, Inhabited

/-- A selective acknowledgement (14, R320, R322): the packets of one message that the target has placed, those it
reports missing, and whether it refused the message (R318, code 5). -/
structure NetAck where
  pid     : Nat
  queue   : Nat
  msg     : Nat
  placed  : List Nat
  missing : List Nat
  refused : Bool
  deriving DecidableEq, Repr, Inhabited

/-- A data packet of a get, or the old value of an atomic (14, R320). -/
structure NetResponse where
  pid   : Nat
  queue : Nat
  msg   : Nat
  pkt   : Nat
  data  : List Byte
  deriving DecidableEq, Repr, Inhabited

/-- The steps of the machine (spec/opcode_table.json). -/
inductive Instr where
  /-- SPDM_REQUEST (R25): An SPDM 1.3 request over PCIe DOE on the PF is answered with attestation data or signed measurement blocks. -/
  | spdmRequest (req : SpdmRequest)
  /-- MGMT_CORE_READ (R26): A management-window read of core-internal state returns the state if the core is halted, else zero and sets NOT_HALTED. -/
  | mgmtCoreRead (r : HostRead)
  /-- REGISTER_WRITE (R4): A host write to a register or table field that has no row of its own stores the value under the access codes and range rules. -/
  | registerWrite (func offset value : Nat)
  /-- PART_CTL_WRITE (R15): A write to PART_CTL changes a partition's cluster set or is refused with ERR set. -/
  | partCtlWrite (n value : Nat)
  /-- PCLK_CTL_WRITE (R22): A write to PCLK_CTL sets the token budget and requests a clock step change, and is ignored while PENDING is 1. -/
  | pclkCtlWrite (n value : Nat)
  /-- THERMAL_SAMPLE (R23): Every 1 ms the I/O die samples the hottest die sensor into TEMP. -/
  | thermalSample (temp : Nat)
  /-- THERM_CTL_WRITE (R21): A write to THERM_CTL sets the trip threshold and enable, and clears TRIPPED only below TRIP_C, resuming the partitions. -/
  | thermCtlWrite (value : Nat)
  /-- NOTIFY_WRITE (R52): A write to a queue notify slot is accepted, replacing PROD and evaluating the queue, or is discarded. -/
  | notifyWrite (func offset width value : Nat)
  /-- TAKE_RECORD (R42): The queue reads the launch record at TAKEN whole, applies the 0x0105 ASID check and the field checks, and advances TAKEN. -/
  | takeRecord (queue : Nat)
  /-- DEPENDENCE_WAIT (R45): A write to a dependence counter's line re-evaluates the waiting launch's waits, which may make it eligible. -/
  | dependenceWait (queue : Nat)
  /-- APERTURE_ACCESS (R48): A host access through BAR4 is translated by stage 2 and performed as a .sys access; a fault makes it return ones or drop. -/
  | apertureAccess (func offset len : Nat) (data : Option (List Byte))
  /-- QUEUE_ENABLE (R50): A write setting ENABLE zeroes the queue indices, then runs the error checks and records the first failure. -/
  | queueEnable (queue value : Nat)
  /-- QUEUE_DISABLE (R50): A write clearing ENABLE stops the queue taking records, while taken launches run on. -/
  | queueDisable (queue : Nat)
  /-- TLBI_CMD_VMID (R67): TLBI_CMD KIND 0 invalidates every cached translation of a VMID. -/
  | tlbiCmdVmid (func value : Nat)
  /-- TLBI_CMD_ASID (R67): TLBI_CMD KIND 1 invalidates all stage-1 translations of an ASID. -/
  | tlbiCmdAsid (func value : Nat)
  /-- TLBI_CMD_ASID_VA (R67): TLBI_CMD KIND 2 invalidates stage-1 translations of an ASID over a VA range. -/
  | tlbiCmdAsidVa (func value : Nat)
  /-- TLBI_CMD_S2_RANGE (R67): TLBI_CMD KIND 3 invalidates a stage-2 range of a VMID together with every stage-1 entry of the VMID. -/
  | tlbiCmdS2Range (func value : Nat)
  /-- TLBI_CMD_ALL (R67): TLBI_CMD KIND 4 from the PF invalidates everything. -/
  | tlbiCmdAll (func value : Nat)
  /-- TLBI_CMD_REFUSED (R67): A TLBI_CMD with KIND 5–7, KIND 4 from a VF, or a foreign ASID sets ERR and does nothing. -/
  | tlbiCmdRefused (func value : Nat)
  /-- TLBI_COMPLETE (R66): An invalidation completes once old translations are unused, MMA locks are released and copies are at chunk boundaries, and GO clears. -/
  | tlbiComplete (func : Nat)
  /-- WALK_COMPLETE (R65): A translation walk finishes and delivers its result or fault to every joined miss. -/
  | walkComplete (core asid page : Nat)
  /-- FQ_BASE_WRITE (R72): A write to FQ_BASE sets the fault ring base and retries pending record writes. -/
  | fqBaseWrite (func value : Nat)
  /-- FQ_CTL_WRITE (R68): A write to FQ_CTL sets the size and enable, zeroes FQ_PROD on enable, clears flags and retries pending records. -/
  | fqCtlWrite (func value : Nat)
  /-- FQ_CONS_WRITE (R72): A write to FQ_CONS frees ring space and retries waiting fault records. -/
  | fqConsWrite (func value : Nat)
  /-- FAULT_RECORD_WRITE (R69): A fault record is written whole to the function's ring, FQ_PROD advances and MSI-X vector 0 is sent, waiting for ring space if needed. -/
  | faultRecordWrite (func : Nat)
  /-- FQ_ACK_RETRY (R73): FQ_ACK action 0 reissues the held access for its faulting lanes, translating afresh. -/
  | fqAckRetry (func seq : Nat)
  /-- FQ_ACK_TRAP (R73): FQ_ACK action 1 enters the context's handler with the memory-fault trap. -/
  | fqAckTrap (func seq : Nat)
  /-- FQ_ACK_END (R73): FQ_ACK action 2 ends the launch with STATUS 0x0002. -/
  | fqAckEnd (func seq : Nat)
  /-- FQ_ACK_INVALID (R73): An FQ_ACK of action 3, or one naming no held fault, is ignored and sets ACK_ERR. -/
  | fqAckInvalid (func value : Nat)
  /-- ACTIVE_SET_ROTATE (R88): After 2,048 cycles without an entry, the longest-active group leaves the active set for the oldest ready pending group. -/
  | activeSetRotate (core sched : Nat)
  /-- INSTRUCTION_FETCH (R113): A 48-byte bundle is fetched through translation into the group's fetch stream, or faults. -/
  | instructionFetch (group : Nat) (slotB : Bool)
  /-- LONG_LATENCY_COMPLETE (R111): A long-latency instruction completes in every lane, and its lookahead window may close and deliver the shadowed names. -/
  | longLatencyComplete (group window : Nat)
  /-- STACK_SPILL_ACCESS (R121): A reconvergence-stack push or pop completes its access to the group's spill region. -/
  | stackSpillAccess (group : Nat)
  /-- YIELD_RELEASE (R144): A yielding slot becomes able to issue after the other active groups have had a turn or 64 cycles pass. -/
  | yieldRelease (group : Nat) (slotB : Bool)
  /-- TRAP_ENTRY (R336): Once its long-latency instructions have completed, a trapped group saves its trap frame and enters the handler. -/
  | trapEntry (group : Nat)
  /-- ASYNC_TRAP_DELIVER (R334): An asynchronous trap is taken at the group's next boundary, or ends the launch if the group has ended or is dormant. -/
  | asyncTrapDeliver (group : Nat)
  /-- GROUP_END (R141): A group with no lanes left ends once every long-latency instruction it issued has completed. -/
  | groupEnd (group : Nat)
  /-- TEAM_EXIT (R92): A team's last group ends, so its resources are released, its Silt lines merged, its windows written back and its locks released. -/
  | teamExit (team : Nat)
  /-- MMA_MULTIPLY_START (R211): After its pre-phase waits and reads, an MMA begins its uninterruptible multiply phase. -/
  | mmaMultiplyStart (group : Nat)
  /-- ACC_TILE_RELEASE (R203): A tile release by accz.rel takes effect once earlier queue entries on the tile have completed. -/
  | accTileRelease (core tile : Nat)
  /-- RANGE_ENABLE (R231): Setting ENABLE of an address range entry runs the range checks and records ERR. -/
  | rangeEnable (n value : Nat)
  /-- RANGE_DISABLE (R231): Clearing ENABLE of an address range entry is checked and takes the range out of use. -/
  | rangeDisable (n : Nat)
  /-- RANGE_REKEY (R240): A write of 1 to REKEY generates a new key and starts re-encrypting the range. -/
  | rangeRekey (n : Nat)
  /-- REKEY_COMPLETE (R240): The rekey ends: REKEY and EXHAUSTED clear, and the waiting writes proceed. -/
  | rekeyComplete (n : Nat)
  /-- BASE_DIE_REPLY (R233): A tagged base-die reply arrives at the requesting home or engine. -/
  | baseDieReply (stack tag : Nat)
  /-- HOME_WRITE_ARRIVE (R271): A write reaches a line's home slice, takes its place in coherence order and applies its invalidations. -/
  | homeWriteArrive (core line : Nat)
  /-- NARROW_HOLDER_PUBLISH (R275): An outside access to a line with a narrow-holder record waits until the holder writes back its released bytes. -/
  | narrowHolderPublish (core line : Nat)
  /-- SILT_MERGE (R236): A Silt line is merged at the home by its operation and freed. -/
  | siltMerge (core line : Nat)
  /-- INVALIDATION_RECEIVE (R376): A core receives an invalidation and drops its copy, acknowledging at once if it holds none. -/
  | invalidationReceive (core line : Nat)
  /-- LINE_FILL (R376): A fill answering a core's miss arrives from the home on the ordered channel. -/
  | lineFill (core line : Nat)
  /-- WINDOW_FILL (R235): The invalid words of a window sector are fetched from their homes and set valid. -/
  | windowFill (team word : Nat)
  /-- LOG_CTL_WRITE (R237): A write to LOG_CTL sets the log size and enable, zeroes LOG_PROD on enable and clears FULL. -/
  | logCtlWrite (func value : Nat)
  /-- LOG_RECORD_APPEND (R237): A displaced or released open write-range record is appended to the log, waiting for ring space if needed. -/
  | logRecordAppend (func : Nat)
  /-- WAITA_WAKE (R288): A write to a monitored line wakes a sleeping waita, which rereads the word and tests it. -/
  | waitaWake (group : Nat)
  /-- WAITA_TIMEOUT (R288): A waita's resident-cycle timeout expires and it writes 0 to D. -/
  | waitaTimeout (group : Nat)
  /-- VDN_COMMIT (R313): A write to bits [63:0] of a VDN entry commits the entry and increments GEN. -/
  | vdnCommit (n value : Nat)
  /-- NETCTX_ARM (R326): Writing ARM moves a stopped network context into forwarding and starts the T_fwd timer. -/
  | netctxArm (n : Nat)
  /-- NETCTX_INVALIDATE (R326): Writing VALID 0 frees a network context, clears its error state and appends its final report. -/
  | netctxInvalidate (n : Nat)
  /-- FORWARD_TIMER_EXPIRE (R326): The T_fwd timer expires and the context enters STATE 2 (moved). -/
  | forwardTimerExpire (n : Nat)
  /-- WR_START (R318): A work request starts: it is checked, its local addresses are translated and its packets are sent. -/
  | wrStart (pid queue : Nat)
  /-- PACKET_RECEIVE (R320): An arriving packet is placed, deduplicated, answered not ready or moved, or forwarded, and completed messages increment RCTR. -/
  | packetReceive (packet : NetPacket)
  /-- PACKET_ACK_RECEIVE (R323): A selective acknowledgement reaches the sender, which retransmits missing packets and may complete the request. -/
  | packetAckReceive (ack : NetAck)
  /-- RESPONSE_RECEIVE (R320): Get data or an atomic old value arrives at the sender and is placed at LADDR. -/
  | responseReceive (resp : NetResponse)
  /-- NOT_READY_RECEIVE (R322): A not-ready answer restarts the packet's retransmission timer. -/
  | notReadyReceive (pid queue msg pkt : Nat)
  /-- RETRANSMIT_TIMEOUT (R322): A packet unacknowledged for RTO_US is resent, and RETRY_MAX timeouts end the request with code 3. -/
  | retransmitTimeout (pid queue msg pkt : Nat)
  /-- MOVED_RECEIVE (R327): A MOVED answer makes the sender reread the VDN entry and retransmit if GEN changed, counting toward MOVED_MAX. -/
  | movedReceive (pid queue msg pkt : Nat)
  /-- MOVED_RECHECK (R327): After RTO_US the sender rereads the VDN entry after a MOVED and retransmits when GEN has changed. -/
  | movedRecheck (pid queue msg pkt : Nat)
  /-- EVICT_CMD (R344): A write to EVICT_CMD with GO evicts the resident preemptible teams of a named launch, optionally parking them. -/
  | evictCmd (func value : Nat)
  /-- TEAM_EVICT (R342): Once multiply phases, copies and long-latency work have drained, a chosen team is saved to its context image and its resources freed. -/
  | teamEvict (team : Nat)
  /-- TEAM_RESTORE (R343): A saved team is restored at its recorded position, and its windows, locks, copies and waits are resumed. -/
  | teamRestore (team : Nat)
  /-- MARL_COPY_ROUND (R363): MARL_CTL GO with MODE 0 runs a round copying the stack's dirty granules to DST_VDN. -/
  | marlCopyRound (stack value : Nat)
  /-- MARL_CLEAR_ROUND (R363): MARL_CTL GO with MODE 1 runs a round that only clears the dirty bits. -/
  | marlClearRound (stack value : Nat)
  /-- MARL_DRAIN_ROUND (R363): MARL_CTL GO with MODE 2 repeats copy passes after the quiesce until no dirty granule remains. -/
  | marlDrainRound (stack value : Nat)
  /-- VF_QUIESCE (R366): VFCTL command 1 stops the function's queues, admission, issue and network contexts. -/
  | vfQuiesce (w : VfctlWrite)
  /-- QUIESCE_COMPLETE (R366): The quiesce's waits and write-backs end, STATE becomes 1 and QCYC is written. -/
  | quiesceComplete (func : Nat)
  /-- VF_SAVE (R367): VFCTL command 2 evicts every team and writes the context images and queue blocks to the pool. -/
  | vfSave (w : VfctlWrite)
  /-- SAVE_COMPLETE (R367): The save ends and STATE becomes 2. -/
  | saveComplete (func : Nat)
  /-- VF_RESUME (R368): VFCTL command 3 restores a quiesced or saved function in place on the source. -/
  | vfResume (w : VfctlWrite)
  /-- VF_RESTORE (R368): VFCTL command 4 restores saved images on the destination, re-enabling queues and network contexts and re-recording held faults. -/
  | vfRestore (w : VfctlWrite)
  /-- VFCTL_REFUSED (R365): A VFCTL command given from the wrong state, or an unknown code, sets ERR. -/
  | vfctlRefused (func value : Nat)
  /-- PARTITION_RESET (R372): PRST_CTL GO, or an uncorrectable control error, resets one partition, clearing its state and ending its launches with 0x0003. -/
  | partitionReset (part cause : Nat)
  /-- SCRUB_ATOM (R374): The patrol scrubber reads an atom and writes back a corrected value unless a demand write intervened. -/
  | scrubAtom (stack atom : Nat)
  /-- ERR_CTL_WRITE (R378): A write to ERR_CTL sets the log size and options, zeroes ERR_PROD on enable and clears LOST. -/
  | errCtlWrite (value : Nat)
  /-- BANK_DROWSY (R377): A register bank whose groups have not issued for 4,096 cycles enters drowsy retention. -/
  | bankDrowsy (core bank : Nat)
  /-- RPT_CMD_LAUNCH (R385): RPT_CMD with KIND 0 signs an interim report of a launch or sets ERR. -/
  | rptCmdLaunch (value : Nat)
  /-- RPT_CMD_NETCTX (R385): RPT_CMD with KIND 1 signs an interim report of a network context or sets ERR. -/
  | rptCmdNetctx (value : Nat)
  /-- RPT_CMD_REFUSED (R383): RPT_CMD with KIND 2 or 3 is refused with ERR set, and nothing is signed. -/
  | rptCmdRefused (value : Nat)
  /-- JOB_CMD (R386): JOB_CMD with GO signs a job-formation record for a network context. -/
  | jobCmd (value : Nat)
  /-- RPT_CTL_WRITE (R383): A write to RPT_CTL sets the report ring and enable, zeroes RPT_PROD on enable and clears FULL. -/
  | rptCtlWrite (value : Nat)
  /-- PROF_CTL_WRITE (R387): A write to PROF_CTL sets the sample ring, zeroes PROF_PROD on enable and clears FULL. -/
  | profCtlWrite (func value : Nat)
  /-- TRC_CTL_WRITE (R388): A write to TRC_CTL sets the trace ring and enable, clears GAP, and enabling schedules a sync record. -/
  | trcCtlWrite (func value : Nat)
  /-- SAMPLE_TICK (R387): Every N cycles a scheduler samples the next occupied group slot into its function's profile ring. -/
  | sampleTick (core sched : Nat)
  /-- DBG_HALT (R391): DBG_CMD command 1 halts a group between two instructions. -/
  | dbgHalt (func value : Nat)
  /-- DBG_RESUME (R391): DBG_CMD command 2 ends a group's debug halt. -/
  | dbgResume (func value : Nat)
  /-- DBG_STEP (R391): DBG_CMD command 3 issues one instruction of a halted group and halts it again. -/
  | dbgStep (func value : Nat)
  /-- DBG_LANE_FOCUS (R392): DBG_CMD command 4 makes a divergence that runs one lane alone up to a join PC. -/
  | dbgLaneFocus (func value : Nat)
  /-- DBG_READ_RECORD (R391): DBG_CMD command 5 writes a halted, stable group's record to the DBG_ARG address. -/
  | dbgReadRecord (func value : Nat)
  /-- DBG_CMD_REFUSED (R390): A DBG_CMD with a foreign or missing target, an unknown code, or written while GO is set sets ERR. -/
  | dbgCmdRefused (func value : Nat)
  /-- CSTAT_WRITE (R394): A write to a core window's CSTAT.HALT halts or releases every group on the core. -/
  | cstatWrite (core value : Nat)
  /-- NOP (R135): OPC 0x001. Does nothing and counts as one issued instruction. -/
  | nop (f : Fields)
  /-- BRA (R136): OPC 0x002. Jumps the issuing slot to the target. -/
  | bra (f : Fields)
  /-- BRC (R137): OPC 0x003. A conditional branch that jumps, falls through or diverges under the guard. -/
  | brc (f : Fields)
  /-- BRX (R138): OPC 0x004. An indirect branch to per-lane targets, diverging as needed. -/
  | brx (f : Fields)
  /-- CALL (R139): OPC 0x005. Pushes a return entry and jumps to a label. -/
  | call (f : Fields)
  /-- CALLX (R139): OPC 0x006. Pushes a return entry and jumps to a uniform target. -/
  | callx (f : Fields)
  /-- RET (R140): OPC 0x007. Pops the slot's return entry and resumes after the call. -/
  | ret (f : Fields)
  /-- EXIT (R141): OPC 0x008. Exits the active lanes. -/
  | exit (f : Fields)
  /-- LOOP (R142): OPC 0x009. Opens a zero-overhead loop level or skips the body when the count is 0. -/
  | loop (f : Fields)
  /-- LBRK (R143): OPC 0x00A. Closes the innermost loop level when its guard is true in every active lane. -/
  | lbrk (f : Fields)
  /-- YIELD (R144): OPC 0x00B. Holds the issuing slot so that other active groups can issue. -/
  | yield (f : Fields)
  /-- SETFMT (R145): OPC 0x00C. Writes the issuing slot's format register. -/
  | setfmt (f : Fields)
  /-- GETFMT (R145): OPC 0x00D. Reads the issuing slot's format register into D. -/
  | getfmt (f : Fields)
  /-- WRMASK (R146): OPC 0x00E. Sets or ANDs the slot's active mask from a predicate. -/
  | wrmask (f : Fields)
  /-- IADD (R177): OPC 0x040. Wrapping integer addition. -/
  | iadd (f : Fields)
  /-- IADDC (R178): OPC 0x041. Addition with a carry predicate in and out. -/
  | iaddc (f : Fields)
  /-- ISUB (R177): OPC 0x042. Wrapping integer subtraction. -/
  | isub (f : Fields)
  /-- ISUBB (R178): OPC 0x043. Subtraction with a borrow predicate in and out. -/
  | isubb (f : Fields)
  /-- IMUL (R177): OPC 0x044. The low 32 bits of an integer product. -/
  | imul (f : Fields)
  /-- IMULH (R177): OPC 0x045. The high 32 bits of an exact product. -/
  | imulh (f : Fields)
  /-- IMAD (R177): OPC 0x046. Wrapping integer multiply-add. -/
  | imad (f : Fields)
  /-- IABS (R177): OPC 0x047. Integer absolute value, optionally saturating. -/
  | iabs (f : Fields)
  /-- INEG (R177): OPC 0x048. Integer negation, optionally saturating. -/
  | ineg (f : Fields)
  /-- IMIN (R177): OPC 0x049. Element-wise integer minimum. -/
  | imin (f : Fields)
  /-- IMAX (R177): OPC 0x04A. Element-wise integer maximum. -/
  | imax (f : Fields)
  /-- ADDSAT (R177): OPC 0x04B. Element-wise saturating addition. -/
  | addsat (f : Fields)
  /-- PMAD2 (R179): OPC 0x04C. A packed INT16 two-way multiply-accumulate, saturated once. -/
  | pmad2 (f : Fields)
  /-- RSHR (R180): OPC 0x04D. A rounding right shift with saturation to the type. -/
  | rshr (f : Fields)
  /-- DP4 (R181): OPC 0x04E. A four-way INT8 dot product with an accumulator. -/
  | dp4 (f : Fields)
  /-- AND (R182): OPC 0x050. Bitwise AND. -/
  | bitAnd (f : Fields)
  /-- OR (R182): OPC 0x051. Bitwise OR. -/
  | bitOr (f : Fields)
  /-- XOR (R182): OPC 0x052. Bitwise XOR. -/
  | bitXor (f : Fields)
  /-- NOT (R182): OPC 0x053. Bitwise complement. -/
  | bitNot (f : Fields)
  /-- SHL (R182): OPC 0x054. Logical shift left. -/
  | shl (f : Fields)
  /-- SHR (R182): OPC 0x055. Logical shift right. -/
  | shr (f : Fields)
  /-- SAR (R182): OPC 0x056. Arithmetic shift right. -/
  | sar (f : Fields)
  /-- ROT (R182): OPC 0x057. Rotate left. -/
  | rot (f : Fields)
  /-- BFE (R182): OPC 0x058. Bit-field extract. -/
  | bfe (f : Fields)
  /-- BFI (R182): OPC 0x059. Bit-field insert. -/
  | bfi (f : Fields)
  /-- POPC (R182): OPC 0x05A. Population count. -/
  | popc (f : Fields)
  /-- CLZ (R182): OPC 0x05B. Count of leading zeros. -/
  | clz (f : Fields)
  /-- BREV (R182): OPC 0x05C. Bit reversal. -/
  | brev (f : Fields)
  /-- ICMP (R183): OPC 0x060. Integer compare writing 1 or 0. -/
  | icmp (f : Fields)
  /-- SEL (R183): OPC 0x061. Selects A or B by bit 0 of C. -/
  | sel (f : Fields)
  /-- MOV (R183): OPC 0x062. Copies A to D. -/
  | mov (f : Fields)
  /-- MOVI (R183): OPC 0x063. Moves a 32-bit immediate to D. -/
  | movi (f : Fields)
  /-- FADD (R184): OPC 0x0C0. FP32 addition. -/
  | fadd (f : Fields)
  /-- FSUB (R184): OPC 0x0C1. FP32 subtraction. -/
  | fsub (f : Fields)
  /-- FMUL (R184): OPC 0x0C2. FP32 multiplication. -/
  | fmul (f : Fields)
  /-- FFMA (R184): OPC 0x0C3. Fused FP32 multiply-add. -/
  | ffma (f : Fields)
  /-- FMIN (R185): OPC 0x0C4. FP32 minimumNumber. -/
  | fmin (f : Fields)
  /-- FMAX (R185): OPC 0x0C5. FP32 maximumNumber. -/
  | fmax (f : Fields)
  /-- FCMP (R186): OPC 0x0C6. FP32 compare writing 1 or 0. -/
  | fcmp (f : Fields)
  /-- FCLASS (R187): OPC 0x0C7. Classifies an FP32 pattern into a one-hot mask. -/
  | fclass (f : Fields)
  /-- FROUND (R184): OPC 0x0C8. Rounds an FP32 value to an integral value. -/
  | fround (f : Fields)
  /-- HADD2 (R188): OPC 0x0D0. Packed BF16 or FP16 addition. -/
  | hadd2 (f : Fields)
  /-- HMUL2 (R188): OPC 0x0D1. Packed BF16 or FP16 multiplication. -/
  | hmul2 (f : Fields)
  /-- HFMA2 (R188): OPC 0x0D2. Packed fused BF16 or FP16 multiply-add. -/
  | hfma2 (f : Fields)
  /-- RCP (R189): OPC 0x0E0. Correctly rounded reciprocal. -/
  | rcp (f : Fields)
  /-- RSQRT (R189): OPC 0x0E1. Correctly rounded reciprocal square root. -/
  | rsqrt (f : Fields)
  /-- SQRT (R189): OPC 0x0E2. Correctly rounded square root. -/
  | sqrt (f : Fields)
  /-- EXP2 (R189): OPC 0x0E3. Correctly rounded base-2 exponential. -/
  | exp2 (f : Fields)
  /-- LOG2 (R189): OPC 0x0E4. Correctly rounded base-2 logarithm. -/
  | log2 (f : Fields)
  /-- SIN (R189): OPC 0x0E5. Correctly rounded sine. -/
  | sin (f : Fields)
  /-- COS (R189): OPC 0x0E6. Correctly rounded cosine. -/
  | cos (f : Fields)
  /-- CVT (R191): OPC 0x0F0. Converts between floating formats, with element placement. -/
  | cvt (f : Fields)
  /-- I2F (R191): OPC 0x0F1. Converts an integer to a floating format. -/
  | i2f (f : Fields)
  /-- F2I (R191): OPC 0x0F2. Converts a floating value to an integer, saturating. -/
  | f2i (f : Fields)
  /-- RAND (R193): OPC 0x0F3. Gives each lane one word of Philox output. -/
  | rand (f : Fields)
  /-- SHFL (R195): OPC 0x140. Reads A from a source lane computed from B. -/
  | shfl (f : Fields)
  /-- SLIDE (R196): OPC 0x141. Shifts the group's element sequence, filling from C. -/
  | slide (f : Fields)
  /-- VOTE (R197): OPC 0x142. Counts, tests a quota on, or compares values over the active lanes. -/
  | vote (f : Fields)
  /-- BALLOT (R197): OPC 0x143. Gathers bit 0 of A from a word of lanes. -/
  | ballot (f : Fields)
  /-- REDUX (R198): OPC 0x144. Reduces A over the active lanes in lane order. -/
  | redux (f : Fields)
  /-- SCAN (R198): OPC 0x145. Inclusive or exclusive prefix combination over the active lanes. -/
  | scan (f : Fields)
  /-- RDLANE (R199): OPC 0x146. Broadcasts one lane's value. -/
  | rdlane (f : Fields)
  /-- WRLANE (R199): OPC 0x147. Writes a uniform value into one lane. -/
  | wrlane (f : Fields)
  /-- PAND (R200): OPC 0x150. Predicate AND with optional negations. -/
  | pand (f : Fields)
  /-- POR (R200): OPC 0x151. Predicate OR with optional negations. -/
  | por (f : Fields)
  /-- PXOR (R200): OPC 0x152. Predicate XOR with optional negations. -/
  | pxor (f : Fields)
  /-- PNOT (R200): OPC 0x153. Predicate NOT. -/
  | pnot (f : Fields)
  /-- MMA_S (R218): OPC 0x180. Matrix multiply-accumulate with A from scratchpad. -/
  | mmaS (f : Fields)
  /-- MMA_V (R218): OPC 0x181. Matrix multiply-accumulate with A from vector registers. -/
  | mmaV (f : Fields)
  /-- MMA_G (R218): OPC 0x182. Matrix multiply-accumulate with A through a tensor record. -/
  | mmaG (f : Fields)
  /-- ACCZ (R220): OPC 0x188. Zeroes an accumulator tile and optionally releases it. -/
  | accz (f : Fields)
  /-- ACCRD (R221): OPC 0x189. Reads tile elements into a vector. -/
  | accrd (f : Fields)
  /-- ACCWR (R222): OPC 0x18A. Writes tile elements from a source. -/
  | accwr (f : Fields)
  /-- ACCST (R223): OPC 0x18B. Stores a whole tile to global memory. -/
  | accst (f : Fields)
  /-- QNT (R224): OPC 0x190. Quantises FP32 blocks to FP8 or FP4 with E8M0 scales. -/
  | qnt (f : Fields)
  /-- LDCB (R225): OPC 0x191. Loads a codebook register from lanes 0–7. -/
  | ldcb (f : Fields)
  /-- LD (R245): OPC 0x1C0. A global load per active lane. -/
  | ld (f : Fields)
  /-- ST (R246): OPC 0x1C1. A global store per active lane. -/
  | st (f : Fields)
  /-- LDS (R245): OPC 0x1C2. A scratchpad load per active lane. -/
  | lds (f : Fields)
  /-- STS (R246): OPC 0x1C3. A scratchpad store per active lane. -/
  | sts (f : Fields)
  /-- LD_TENSOR (R253): OPC 0x1C4. Loads one tensor element per lane through a shape record. -/
  | ldTensor (f : Fields)
  /-- ST_TENSOR (R253): OPC 0x1C5. Stores one tensor element per lane through a shape record. -/
  | stTensor (f : Fields)
  /-- TSET (R254): OPC 0x1C8. Writes one word of a tensor shape record. -/
  | tset (f : Fields)
  /-- PREF (R255): OPC 0x1C9. Prefetches lines without visible effect. -/
  | pref (f : Fields)
  /-- WMAP (R256): OPC 0x1D0. Registers a Loam window. -/
  | wmap (f : Fields)
  /-- WUNMAP (R257): OPC 0x1D1. Writes back and removes a window. -/
  | wunmap (f : Fields)
  /-- WSYNC (R257): OPC 0x1D2. Writes back a window's dirty words. -/
  | wsync (f : Fields)
  /-- WINV (R257): OPC 0x1D3. Invalidates a window's clean words. -/
  | winv (f : Fields)
  /-- CPY_G2S (R263): OPC 0x1E0. Queues a global-to-scratchpad copy. -/
  | cpyG2s (f : Fields)
  /-- CPY_S2G (R263): OPC 0x1E1. Queues a scratchpad-to-global copy. -/
  | cpyS2g (f : Fields)
  /-- CPY_G2K (R263): OPC 0x1E2. Queues a global-to-Kaolin copy. -/
  | cpyG2k (f : Fields)
  /-- CPY_S2K (R263): OPC 0x1E3. Queues a scratchpad-to-Kaolin copy. -/
  | cpyS2k (f : Fields)
  /-- CPY_S2S (R263): OPC 0x1E4. Queues a scratchpad-to-scratchpad copy. -/
  | cpyS2s (f : Fields)
  /-- CPY_GAT (R263): OPC 0x1E5. Queues an indexed gather of rows into scratchpad. -/
  | cpyGat (f : Fields)
  /-- CPY_SCT (R263): OPC 0x1E6. Queues an indexed scatter of rows to global memory. -/
  | cpySct (f : Fields)
  /-- FENCE (R282): OPC 0x240. Orders the path's accesses and makes neighbouring accesses releases or acquires. -/
  | fence (f : Fields)
  /-- ATOM (R284): OPC 0x241. An atomic read-modify-write returning the old value. -/
  | atom (f : Fields)
  /-- ATOMC (R284): OPC 0x242. Atomic compare-and-swap. -/
  | atomc (f : Fields)
  /-- RED (R284): OPC 0x243. A no-return reduction through Silt or at the scratchpad word. -/
  | red (f : Fields)
  /-- BAR_SYNC (R286): OPC 0x248. Arrives at a team barrier and waits for the phase. -/
  | barSync (f : Fields)
  /-- BAR_ARV (R286): OPC 0x249. Arrives at a team barrier without waiting. -/
  | barArv (f : Fields)
  /-- BAR_WT (R286): OPC 0x24A. Waits for the phase of the group's last arrival at a barrier. -/
  | barWt (f : Fields)
  /-- GBAR (R287): OPC 0x24B. Arrives at the launch barrier and waits. -/
  | gbar (f : Fields)
  /-- WAITA (R288): OPC 0x250. Sleeps until a memory word meets a condition or a timeout passes. -/
  | waita (f : Fields)
  /-- LKACQ (R290): OPC 0x258. Requests a lock and waits for the grant. -/
  | lkacq (f : Fields)
  /-- LKTRY (R290): OPC 0x259. Tries a lock once and reports the result. -/
  | lktry (f : Fields)
  /-- LKREL (R291): OPC 0x25A. Releases a lock at .sys and grants the next waiter. -/
  | lkrel (f : Fields)
  /-- RESAMPLE (R296): OPC 0x280. Arrives at a population resample with a target count and weights. -/
  | resample (f : Fields)
  /-- REORDER (R303): OPC 0x281. Deposits each lane's key and payload and ends the lane. -/
  | reorder (f : Fields)
  /-- POPQ (R306): OPC 0x282. Reads population state from the Tilth root. -/
  | popq (f : Fields)
  /-- LINEAGE (R307): OPC 0x283. Writes per-lane lineage values. -/
  | lineage (f : Fields)
  /-- NWR (R331): OPC 0x2A0. Posts a network work request after a .sys release. -/
  | nwr (f : Fields)
  /-- NFENCE (R332): OPC 0x2A1. Waits for earlier posted requests to complete. -/
  | nfence (f : Fields)
  /-- NSTAT (R333): OPC 0x2A2. Reads a send queue's state. -/
  | nstat (f : Fields)
  /-- TRAP (R350): OPC 0x2C0. Raises the software trap. -/
  | trap (f : Fields)
  /-- RTE (R338): OPC 0x2C1. Returns from the handler, acting on TRESUME. -/
  | rte (f : Fields)
  /-- BKPT (R350): OPC 0x2C2. Halts the group under debug, or raises the breakpoint trap. -/
  | bkpt (f : Fields)
  /-- RDSR (R352): OPC 0x2C3. Reads a trap register. -/
  | rdsr (f : Fields)
  /-- WRSR (R352): OPC 0x2C4. Writes TRESUME in a handler. -/
  | wrsr (f : Fields)
  /-- CWB (R353): OPC 0x2C8. Writes back dirty L1 bytes of a range. -/
  | cwb (f : Fields)
  /-- CINV (R353): OPC 0x2C9. Writes back and drops the L1 copies of a range. -/
  | cinv (f : Fields)
  /-- ICINV (R354): OPC 0x2CA. Invalidates the core's instruction cache and loop buffers. -/
  | icinv (f : Fields)
  /-- FBAR (R355): OPC 0x2CB. Waits for cache maintenance and refetches. -/
  | fbar (f : Fields)
  /-- LAUNCH (R356): OPC 0x2D0. Notifies a queue from device code after a .sys release. -/
  | launch (f : Fields)
  /-- MTRD (R357): OPC 0x2D8. Reads a 64-bit metering counter. -/
  | mtrd (f : Fields)
  /-- TMARK (R358): OPC 0x2D9. Emits a trace marker record. -/
  | tmark (f : Fields)
  /-- HALT (R359): OPC 0x2E0. Halts the group as a debug halt. -/
  | halt (f : Fields)
  /-- TLBI (R360): OPC 0x2E1. Issues a translation invalidation from VMID-0 device code and waits for it. -/
  | tlbi (f : Fields)
  /-- LOG_CONS_WRITE (R237): A write to LOG_CONS frees write-range log ring space, so writes to logged pages that were held by a full ring proceed and their records are appended. -/
  | logConsWrite (func value : Nat)
  /-- RPT_CONS_WRITE (R385): A write to RPT_CONS frees report ring slots, so a launch final state that waits on a full report ring appends its final report and proceeds to STATUS and signal. -/
  | rptConsWrite (value : Nat)
  /-- TRC_CONS_WRITE (R389): A write to TRC_CONS returns trace ring space after records were dropped, and a gap record followed by a sync record is then written. -/
  | trcConsWrite (func value : Nat)
  /-- BOOT (R24): At power-on or module reset the root of trust verifies and measures the firmware image and starts it, with every core at split 0. -/
  | boot
  /-- CLOCK_STEP_SWITCH (R19): Once multiply phases and copy chunks have drained, the partition's core clocks switch step and issue resumes. -/
  | clockStepSwitch
  /-- GOVERNOR_WINDOW (R213): The expiry of a cluster governor's 1,024-cycle window resets its count of granted tokens. -/
  | governorWindow
  /-- TOKEN_GRANT (R213): A waiting energy-token request is granted in arrival order when the window budget allows. -/
  | tokenGrant
  /-- HEAD_OFFER (R55): An eligible queue head is first offered to its partition by priority, and its header, tensor table and parameter block are read once. -/
  | headOffer
  /-- ADMISSION_DECISION (R78): When resources are freed or a head is offered, the partition places waiting teams and admits or rejects heads, one decision at a time. -/
  | admissionDecision
  /-- LAUNCH_FINAL (R44): A launch reaches its final state: the final report, the STATUS write, the signal-counter addition and the CONS advance. -/
  | launchFinal
  /-- SPILL_GROUPS (R91): After 256 cycles with no issue and an allocation wait, the core spills victim groups into the context image. -/
  | spillGroups
  /-- SPILL_RESTORE (R91): A spilled group is restored once the pool holds its count less its reservation. -/
  | spillRestore
  /-- REG_ALLOC_GRANT (R90): A waiting first write is granted physical registers from the pool, oldest waiter first. -/
  | regAllocGrant
  /-- MMA_COMPLETE (R211): The last accumulator write ends the multiply phase, releasing the A stage and page locks and adding counts. -/
  | mmaComplete
  /-- BASE_DIE_RD (R233): A base die receives an RD packet and replies with the data and per-atom poison. -/
  | baseDieRd
  /-- BASE_DIE_WR (R233): A base die receives a WR packet, writes the masked atoms and sets their granule dirty bits. -/
  | baseDieWr
  /-- BASE_DIE_ATOM (R233): A base die receives an ATOM packet, performs the operation and returns the old value. -/
  | baseDieAtom
  /-- BASE_DIE_DTC (R233): A base die receives a DTC packet and reads and clears a granule's dirty bit. -/
  | baseDieDtc
  /-- COPY_COMMAND_BEGIN (R262): A queued copy command begins and takes ownership of its destination lines and bytes. -/
  | copyCommandBegin
  /-- COPY_CHUNK (R259): The copy engine translates, reads and writes one chunk of the command, or holds on a fault. -/
  | copyChunk
  /-- COPY_COMPLETION (R264): After the last payload byte has landed, the engine writes the command's completion word. -/
  | copyCompletion
  /-- RESAMPLE_COMMIT (R297): When every live group has arrived, the commit checks its arguments and computes copy counts and placement. -/
  | resampleCommit
  /-- RESAMPLE_COMMIT_END (R301): The commit ends with its release: the ancestor buffer is written, the live count is set and the groups resume. -/
  | resampleCommitEnd
  /-- REORDER_PASS_CLOSE (R304): When every lane has exited or deposited, the engine sorts the deposits by key and relaunches the groups. -/
  | reorderPassClose
  /-- MARL_ROUND_END (R363): A Marl round ends when its messages complete, setting MARL_SENT and MARL_LEFT, or ERR on error. -/
  | marlRoundEnd
  /-- DIRECTORY_RECALL (R375): An uncorrectable directory entry holds the line's requests and broadcasts a recall to the partition. -/
  | directoryRecall
  /-- DIRECTORY_REBUILD (R375): With every recall acknowledgement in, the home rebuilds the entry empty and releases the held requests. -/
  | directoryRebuild
  /-- RECALL_TIMEOUT (R375): A recall not complete within 120,000 cycles resets the partition with CAUSE 1. -/
  | recallTimeout
  deriving DecidableEq, Repr, Inhabited

end Sys2Proof
end

