-- ==== Sys2Proof/Machine/Forms.lean ====
section
/-! DEFINITION. Which words are instructions: the conditions of Table 5.10 that raise the illegal-instruction trap, one
form per opcode, from each instruction's own encoding entry. -/

namespace Sys2Proof

namespace Fields

/-- FN[3:0] (05, R94). -/
def type (f : Fields) : Nat := f.fn.toNat % 16
/-- FN[5:4] (08, Table 8.1, MODE). -/
def mode (f : Fields) : Nat := bitsOf f.fn.toNat 5 4
/-- FN[9:6] (08, Table 8.1, SEL). -/
def sel (f : Fields) : Nat := bitsOf f.fn.toNat 9 6
/-- FN[10] (08, Table 8.1, X). -/
def x (f : Fields) : Bool := bitOf f.fn.toNat 10
/-- FN[11] (05, R94). -/
def imm32 (f : Fields) : Bool := bitOf f.fn.toNat 11
/-- FN[hi:lo]. -/
def fnBits (f : Fields) (hi lo : Nat) : Nat := bitsOf f.fn.toNat hi lo
/-- GRD = 0xF: the never-execute word (05, R95). -/
def never (f : Fields) : Bool := f.grd == 0xF
/-- The 32-bit immediate B·2^16 + AUX (05, R94). -/
def immediate (f : Fields) : Word := f.b ++ f.aux

end Fields

/-- Why a word is not an instruction (05, Table 5.10). -/
inductive FormError where
  | short          -- fewer than twelve bytes
  | unassigned     -- an OPC no row of Table 5.9 assigns
  | fnCombination  -- an FN combination the entry does not define, or a guard outside its column
  | lookahead      -- LA nonzero on a short-latency instruction
  | branchHint     -- BH nonzero on a non-branch
  | unusedField    -- a nonzero operand field that the entry does not use
  deriving DecidableEq, Repr

namespace Forms

/-- The permutation of a field is the lane broadcast, which names its lane in AUX (05, Table 5.6). -/
def isBc (x : BitVec 16) : Bool := bitsOf x.toNat 13 10 == 11

/-- Long-latency opcodes (05, Table 5.8). -/
def longLatency (opc : Nat) : Bool :=
  (opc == 0x1C0) || (opc == 0x1C2) || (opc == 0x1C4) || (opc == 0x241) || (opc == 0x242) || (opc == 0x259) ||
  (opc == 0x189) || (decide (0x0E0 ≤ opc) && decide (opc ≤ 0x0E6)) || (opc == 0x282) || (opc == 0x2A2) || (opc == 0x2D8)

/-- Opcodes that take a branch hint (05, R96). -/
def branch (opc : Nat) : Bool := decide (0x002 ≤ opc) && decide (opc ≤ 0x006)

/-- Opcodes whose guard must be 0x7 or 0xF (06, Table 6.5; 15, R351). -/
def plainGuard (opc : Nat) : Bool :=
  [0x002, 0x005, 0x006, 0x007, 0x009, 0x00C, 0x00D, 0x00E, 0x2C1].contains opc

/-- How a vector or scalar instruction uses FN and its operands (08, Table 8.1). -/
structure VForm where
  types : List Nat := []      -- the types it takes; none: TYPE is 0
  imm   : Bool := false       -- IMM32 is allowed
  rm    : Bool := false       -- MODE is a rounding mode
  x     : Bool := false       -- bit X is used
  srcs  : Nat := 2            -- how many of A, B, C it reads
  deriving DecidableEq, Repr

/-- Types of the integer minimum, maximum and saturating addition (08, Table 8.2). -/
def intTypes : List Nat := [0, 4, 1, 5, 2, 6]

/-- The plain forms of Tables 8.2 to 8.6, 8.9, 8.10 and 8.15, where SEL is 0. -/
def vform : Nat → Option VForm
  | 0x040 => some { types := [0, 4], imm := true }
  | 0x042 => some { types := [0, 4], imm := true }
  | 0x044 => some { types := [0, 4], imm := true }
  | 0x045 => some { types := [0, 4], imm := true }
  | 0x046 => some { types := [0, 4], srcs := 3 }
  | 0x047 => some { types := [0], x := true, srcs := 1 }
  | 0x048 => some { types := [0], x := true, srcs := 1 }
  | 0x049 => some { types := intTypes, imm := true }
  | 0x04A => some { types := intTypes, imm := true }
  | 0x04B => some { types := intTypes, imm := true }
  | 0x04C => some { types := [1], srcs := 3 }
  | 0x04D => some { types := [0, 1, 5, 2, 6], imm := true }
  | 0x04E => some { types := [2, 6], x := true, srcs := 3 }
  | 0x050 => some { imm := true }
  | 0x051 => some { imm := true }
  | 0x052 => some { imm := true }
  | 0x053 => some { srcs := 1 }
  | 0x054 => some { imm := true }
  | 0x055 => some { imm := true }
  | 0x056 => some { imm := true }
  | 0x057 => some { imm := true }
  | 0x058 => some { types := [4, 0], imm := true }
  | 0x059 => some { srcs := 3 }
  | 0x05A => some { srcs := 1 }
  | 0x05B => some { srcs := 1 }
  | 0x05C => some { srcs := 1 }
  | 0x061 => some { srcs := 3 }
  | 0x062 => some { srcs := 1 }
  | 0x0C0 => some { types := [8], imm := true, rm := true }
  | 0x0C1 => some { types := [8], imm := true, rm := true }
  | 0x0C2 => some { types := [8], imm := true, rm := true }
  | 0x0C3 => some { types := [8], rm := true, srcs := 3 }
  | 0x0C4 => some { types := [8], imm := true }
  | 0x0C5 => some { types := [8], imm := true }
  | 0x0C7 => some { types := [8], srcs := 1 }
  | 0x0C8 => some { types := [8], rm := true, srcs := 1 }
  | 0x0D0 => some { types := [9, 10], imm := true, rm := true }
  | 0x0D1 => some { types := [9, 10], imm := true, rm := true }
  | 0x0D2 => some { types := [9, 10], rm := true, srcs := 3 }
  | 0x0E0 => some { types := [8], rm := true, srcs := 1 }
  | 0x0E1 => some { types := [8], rm := true, srcs := 1 }
  | 0x0E2 => some { types := [8], rm := true, srcs := 1 }
  | 0x0E3 => some { types := [8], srcs := 1 }
  | 0x0E4 => some { types := [8], srcs := 1 }
  | 0x0E5 => some { types := [8], srcs := 1 }
  | 0x0E6 => some { types := [8], srcs := 1 }
  | 0x140 => some { rm := true }
  | 0x146 => some {}
  | 0x147 => some {}
  | 0x150 => some { rm := true }
  | 0x151 => some { rm := true }
  | 0x152 => some { rm := true }
  | 0x153 => some { srcs := 1 }
  | _ => none

/-- FN of a plain form: TYPE listed, and X, SEL, MODE and IMM32 zero where unused. -/
def vfn (v : VForm) (f : Fields) : Bool :=
  (if v.types.isEmpty then f.type == 0 else v.types.contains f.type) && (v.rm || f.mode == 0) && f.sel == 0 &&
  (v.x || !f.x) && (v.imm || !f.imm32)

/-- AUX is not used unless a source's permutation names its lane there (05, R102). -/
def auxFree (f : Fields) (bc : Bool) : Bool := bc || f.aux == 0

/-- Operand fields of an instruction that reads `n` of A, B, C, all other than D (05, R94, R97). -/
def srcFields (n : Nat) (f : Fields) : Bool :=
  if f.imm32 then true
  else match n with
    | 0 => f.a == 0 && f.b == 0 && f.aux == 0
    | 1 => f.b == 0 && auxFree f (isBc f.a)
    | 2 => auxFree f (isBc f.a || isBc f.b)
    | _ => true

/-- Element types with two, four or eight elements in a lane, else one (07, Table 7.2). -/
def perLane (t : Nat) : Nat :=
  if [1, 5, 9, 10].contains t then 2 else if [2, 6, 11, 12].contains t then 4 else if [13, 14].contains t then 8 else 1

/-- The element index of a conversion is below the ratio of elements per lane (08, R192), AUX[15:3] is 0. -/
def convIndex (f : Fields) : Bool :=
  let s := perLane f.sel
  let d := perLane f.type
  decide (f.aux.toNat < max s d / min s d)

/-- Floating types of a conversion (08, Table 8.12). -/
def floatTypes : List Nat := [8, 9, 10, 11, 12, 13]

/-- Memory element types (11, Table 11.1). -/
def memTypes : List Nat := [2, 6, 1, 5, 0, 4, 8]

/-- FN of an element load or store (11, Table 11.1, R248). -/
def memFn (f : Fields) (hint : Bool) : Bool :=
  !f.imm32 && f.fnBits 10 9 != 3 && (hint || f.fnBits 10 9 == 0) && decide (f.fnBits 8 6 ≤ 4) && f.fnBits 5 4 != 3 &&
  memTypes.contains f.type && (f.fnBits 5 4 == 0 || [0, 4, 8].contains f.type)

/-- OP and TYPE of an atomic (12, Table 12.5); `red` has no exchange. -/
def atomFn (f : Fields) (red : Bool) : Bool :=
  !f.imm32 && decide (f.fnBits 6 4 ≤ if red then 5 else 6) &&
  ([0, 4].contains f.type || (f.type == 8 && [0, 1, 2, 6].contains (f.fnBits 6 4))) && (!red || f.fnBits 10 7 == 0)

/-- FN and AUX of a copy (11, Table 11.4). -/
def copyFn (rows : Bool) (f : Fields) : Bool :=
  !f.imm32 && f.type == 0 && !(f.x && f.fnBits 9 9 == 0) && bitsOf f.aux.toNat 15 12 == 0 &&
  (if rows then decide (2 ≤ f.fnBits 8 4) && decide (f.fnBits 8 4 ≤ 16) else f.fnBits 8 4 == 0 && bitsOf f.aux.toNat 11 6 == 0) &&
  (f.fnBits 9 9 == 1 || bitsOf f.aux.toNat 5 0 == 0)

/-- The FN combination is one the entry of `opc` defines. `none`: the opcode is not assigned (05, Table 5.9). -/
def fnOk (opc : Nat) (f : Fields) : Option Bool :=
  match vform opc with
  | some v => some (vfn v f)
  | none =>
    match opc with
    | 0x009 => some (decide (f.fn.toNat < 3) && f.aux != 0)
    | 0x00C => some (f.fn == 0 || f.fn == 0x800)
    | 0x00E => some (decide (f.fn.toNat < 2))
    | 0x041 => some (f.type == 4 && f.mode == 0 && decide (f.sel < 7))
    | 0x043 => some (f.type == 4 && f.mode == 0 && decide (f.sel < 7))
    | 0x060 => some ([0, 4].contains f.type && f.mode == 0 && decide (f.sel < 6) && !f.x)
    | 0x063 => some (f.fn == 0x800)
    | 0x0C6 => some (f.type == 8 && f.mode == 0 && decide (f.sel < 8) && !f.x)
    | 0x0F0 => some (floatTypes.contains f.type && floatTypes.contains f.sel && f.type != f.sel && !f.x && !f.imm32 && convIndex f)
    | 0x0F1 => some ([8, 9, 10].contains f.type && intTypes.contains f.sel && !f.x && !f.imm32 && convIndex f)
    | 0x0F2 => some (intTypes.contains f.type && [8, 9, 10].contains f.sel && !f.x && !f.imm32 && convIndex f)
    | 0x0F3 => some (f.type == 0 && f.sel == 0 && !f.x)
    | 0x141 => some ([4, 5, 6].contains f.type && decide (f.mode < 2) && f.sel == 0 && !f.x && !f.imm32)
    | 0x142 => some (f.type == 0 && decide (f.mode < 3) && f.sel == 0 && !f.x && !f.imm32)
    | 0x143 => some (f.type == 0 && decide (f.mode < 3) && f.sel == 0 && !f.x && !f.imm32)
    | 0x144 => some ([0, 4, 8].contains f.type && decide (f.sel < if f.type = 8 then 3 else 6) &&
                (f.mode == 0 || (f.type == 8 && f.sel == 0)) && !f.x && !f.imm32)
    | 0x145 => some ([0, 4, 8].contains f.type && decide (f.sel < if f.type = 8 then 3 else 6) &&
                (f.mode == 0 || (f.type == 8 && f.sel == 0)) && !f.imm32)
    | 0x180 => some (!f.imm32)
    | 0x181 => some (!f.imm32)
    | 0x182 => some (!f.imm32)
    | 0x188 => some (decide (f.fn.toNat < 16))
    | 0x189 => some (decide (f.fn.toNat < 16))
    | 0x18A => some (decide (f.fn.toNat < 16))
    | 0x18B => some ([8, 9, 10, 0].contains f.type && decide (f.fn.toNat < 128))
    | 0x190 => some ([11, 12, 13].contains f.type && decide (f.fn.toNat < 128))
    | 0x191 => some (decide (f.fn.toNat < 4))
    | 0x1C0 => some (memFn f true)
    | 0x1C1 => some (memFn f true)
    | 0x1C2 => some (memFn f false)
    | 0x1C3 => some (memFn f false)
    | 0x1C4 => some (memTypes.contains f.type && f.fnBits 8 4 == 0 && !f.imm32 && f.fnBits 10 9 != 3)
    | 0x1C5 => some (memTypes.contains f.type && f.fnBits 8 4 == 0 && !f.imm32 && f.fnBits 10 9 != 3)
    | 0x1C8 => some (f.fnBits 10 8 == 0)
    | 0x1C9 => some (!f.imm32 && f.fnBits 5 0 == 0 && decide (f.fnBits 8 6 ≤ 4) && [0, 2].contains (f.fnBits 10 9))
    | 0x1D0 => some (decide (f.fn.toNat < 2))
    | 0x1D1 => some (f.fn == 0 || f.fn == 2)
    | 0x1D2 => some (f.fn == 0 || f.fn == 2)
    | 0x1D3 => some (f.fn == 0 || f.fn == 2)
    | 0x1E0 => some (copyFn false f)
    | 0x1E1 => some (copyFn false f)
    | 0x1E2 => some (copyFn false f)
    | 0x1E3 => some (copyFn false f)
    | 0x1E4 => some (copyFn false f)
    | 0x1E5 => some (copyFn true f)
    | 0x1E6 => some (copyFn true f)
    | 0x240 => some (!f.imm32 && f.fnBits 6 0 == 0 && f.fnBits 10 7 != 0)
    | 0x241 => some (atomFn f false)
    | 0x242 => some (!f.imm32 && f.fnBits 6 0 == 4)
    | 0x243 => some (atomFn f true)
    | 0x248 => some (decide (f.fn.toNat < 16))
    | 0x249 => some (decide (f.fn.toNat < 16))
    | 0x24A => some (decide (f.fn.toNat < 16))
    | 0x250 => some (decide (f.fn.toNat < 16))
    | 0x280 => some (decide (f.fn.toNat < 2))
    | 0x281 => some (decide (f.fn.toNat < 9))
    | 0x282 => some (decide (f.fn.toNat < 9))
    | 0x283 => some (decide (f.fn.toNat < 3))
    | 0x2A0 => some (decide (f.fn.toNat < 32))
    | 0x2A1 => some (decide (f.fn.toNat ≤ 16))
    | 0x2A2 => some (decide (f.fn.toNat < 64))
    | 0x2E1 => some (decide (f.fn.toNat < 5))
    | o =>
      if [0x001, 0x002, 0x003, 0x004, 0x005, 0x006, 0x007, 0x008, 0x00A, 0x00B, 0x00D, 0x24B, 0x258, 0x259, 0x25A, 0x2C0,
          0x2C1, 0x2C2, 0x2C3, 0x2C4, 0x2C8, 0x2C9, 0x2CA, 0x2CB, 0x2D0, 0x2D8, 0x2D9, 0x2E0].contains o
      then some (f.fn == 0) else none

/-- Every operand field that the entry of `opc` does not use is 0 (05, R97; Table 5.10). -/
def fieldsOk (opc : Nat) (f : Fields) : Bool :=
  match vform opc with
  | some v => srcFields v.srcs f
  | none =>
    match opc with
    | 0x002 => f.d == 0 && f.a == 0 && f.b == 0
    | 0x003 => f.d == 0 && f.a == 0
    | 0x004 => f.d == 0 && auxFree f (isBc f.a)
    | 0x005 => f.d == 0 && f.a == 0 && f.b == 0
    | 0x006 => f.d == 0 && f.b == 0 && f.aux == 0
    | 0x009 => f.d == 0 && f.b == 0
    | 0x00C => f.d == 0 && if f.imm32 then f.a == 0 else f.b == 0 && f.aux == 0
    | 0x00D => f.a == 0 && f.b == 0 && f.aux == 0
    | 0x00E => f.d == 0 && f.b == 0 && f.aux == 0
    | 0x041 => srcFields 2 f
    | 0x043 => srcFields 2 f
    | 0x060 => srcFields 2 f
    | 0x063 => f.a == 0
    | 0x0C6 => srcFields 2 f
    | 0x0F0 => f.b == 0
    | 0x0F1 => f.b == 0
    | 0x0F2 => f.b == 0
    | 0x0F3 => if f.imm32 then f.a == 0 else f.b == 0 && auxFree f (isBc f.a)
    | 0x142 => srcFields (if f.mode = 1 then 2 else 1) f
    | 0x143 => srcFields 1 f
    | 0x144 => srcFields 1 f
    | 0x145 => srcFields 1 f
    | 0x180 => bitsOf f.aux.toNat 15 12 == 0
    | 0x181 => bitsOf f.aux.toNat 15 12 == 0
    | 0x188 => f.d == 0 && f.a == 0 && f.b == 0 && f.aux == 0
    | 0x189 => f.a == 0 && f.aux == 0
    | 0x18A => f.d == 0 && auxFree f (isBc f.a)
    | 0x18B => f.d == 0 && f.aux == 0
    | 0x191 => f.d == 0 && f.b == 0 && auxFree f (isBc f.a)
    | 0x1C4 => f.b == 0 && decide (f.aux.toNat < 16)
    | 0x1C5 => f.b == 0 && decide (f.aux.toNat < 16)
    | 0x1C8 => f.d == 0 && if f.imm32 then f.a == 0 else f.b == 0 && f.aux == 0
    | 0x1C9 => f.d == 0
    | 0x1D0 => f.d == 0
    | 0x1D1 => f.d == 0 && f.b == 0 && f.aux == 0 && (f.fn == 0 || f.a == 0)
    | 0x1D2 => f.d == 0 && f.b == 0 && f.aux == 0 && (f.fn == 0 || f.a == 0)
    | 0x1D3 => f.d == 0 && f.b == 0 && f.aux == 0 && (f.fn == 0 || f.a == 0)
    | 0x240 => f.d == 0 && f.a == 0 && f.b == 0 && f.aux == 0
    | 0x248 => f.d == 0 && f.b == 0 && f.aux == 0
    | 0x249 => f.d == 0 && f.b == 0 && f.aux == 0
    | 0x24A => f.d == 0 && f.a == 0 && f.b == 0 && f.aux == 0
    | 0x258 => f.d == 0 && f.b == 0 && f.aux == 0
    | 0x259 => f.b == 0 && f.aux == 0
    | 0x25A => f.d == 0 && f.b == 0 && f.aux == 0
    | 0x280 => f.d == 0 && if f.fn == 1 then decide (f.aux.toNat < 64) else auxFree f (isBc f.b)
    | 0x281 => f.d == 0 && (f.fn != 0 || f.b == 0)
    | 0x282 => f.a == 0 && f.b == 0 && f.aux == 0
    | 0x283 => f.a == 0 && f.b == 0 && f.aux == 0
    | 0x2A0 => f.d == 0 && f.b == 0 && f.aux == 0
    | 0x2A1 => f.d == 0 && f.a == 0 && f.b == 0 && f.aux == 0
    | 0x2A2 => f.a == 0 && f.b == 0 && f.aux == 0
    | 0x2C0 => f.d == 0 && f.a == 0 && f.b == 0
    | 0x2C2 => f.d == 0 && f.a == 0 && f.b == 0
    | 0x2C3 => f.a == 0 && f.b == 0 && decide (f.aux.toNat < 256)
    | 0x2C4 => f.d == 0 && f.b == 0 && decide (f.aux.toNat < 256)
    | 0x2C8 => f.d == 0 && f.aux == 0
    | 0x2C9 => f.d == 0 && f.aux == 0
    | 0x2D0 => f.d == 0 && f.aux == 0
    | 0x2D8 => f.a == 0 && f.b == 0 && decide (f.aux.toNat < 64)
    | 0x2D9 => f.d == 0 && f.a == 0 && f.b == 0
    | 0x2E1 => f.d == 0
    | o =>
      if [0x141, 0x182, 0x190, 0x1C0, 0x1C1, 0x1C2, 0x1C3, 0x1E0, 0x1E1, 0x1E2, 0x1E3, 0x1E4, 0x1E5, 0x1E6, 0x241, 0x242,
          0x243, 0x250].contains o
      then true
      else f.d == 0 && f.a == 0 && f.b == 0 && f.aux == 0

/-- The first condition of Table 5.10 that makes a word with this OPC no instruction, if any (05, R109 step 1). -/
def check (opc : Nat) (f : Fields) : Option FormError :=
  match fnOk opc f with
  | none => some .unassigned
  | some fnGood =>
    if !fnGood || (plainGuard opc && f.grd != 7 && f.grd != 0xF) then some .fnCombination
    else if f.la != 0 && !longLatency opc then some .lookahead
    else if f.bh != 0 && !branch opc then some .branchHint
    else if !fieldsOk opc f then some .unusedField
    else none

/-- The OPC and the fields of the word of an instruction (05, Table 5.9); none for an event. -/
def wordOf : Instr → Option (Nat × Fields)
  | .nop f => some (0x001, f)
  | .bra f => some (0x002, f)
  | .brc f => some (0x003, f)
  | .brx f => some (0x004, f)
  | .call f => some (0x005, f)
  | .callx f => some (0x006, f)
  | .ret f => some (0x007, f)
  | .exit f => some (0x008, f)
  | .loop f => some (0x009, f)
  | .lbrk f => some (0x00A, f)
  | .yield f => some (0x00B, f)
  | .setfmt f => some (0x00C, f)
  | .getfmt f => some (0x00D, f)
  | .wrmask f => some (0x00E, f)
  | .iadd f => some (0x040, f)
  | .iaddc f => some (0x041, f)
  | .isub f => some (0x042, f)
  | .isubb f => some (0x043, f)
  | .imul f => some (0x044, f)
  | .imulh f => some (0x045, f)
  | .imad f => some (0x046, f)
  | .iabs f => some (0x047, f)
  | .ineg f => some (0x048, f)
  | .imin f => some (0x049, f)
  | .imax f => some (0x04A, f)
  | .addsat f => some (0x04B, f)
  | .pmad2 f => some (0x04C, f)
  | .rshr f => some (0x04D, f)
  | .dp4 f => some (0x04E, f)
  | .bitAnd f => some (0x050, f)
  | .bitOr f => some (0x051, f)
  | .bitXor f => some (0x052, f)
  | .bitNot f => some (0x053, f)
  | .shl f => some (0x054, f)
  | .shr f => some (0x055, f)
  | .sar f => some (0x056, f)
  | .rot f => some (0x057, f)
  | .bfe f => some (0x058, f)
  | .bfi f => some (0x059, f)
  | .popc f => some (0x05A, f)
  | .clz f => some (0x05B, f)
  | .brev f => some (0x05C, f)
  | .icmp f => some (0x060, f)
  | .sel f => some (0x061, f)
  | .mov f => some (0x062, f)
  | .movi f => some (0x063, f)
  | .fadd f => some (0x0C0, f)
  | .fsub f => some (0x0C1, f)
  | .fmul f => some (0x0C2, f)
  | .ffma f => some (0x0C3, f)
  | .fmin f => some (0x0C4, f)
  | .fmax f => some (0x0C5, f)
  | .fcmp f => some (0x0C6, f)
  | .fclass f => some (0x0C7, f)
  | .fround f => some (0x0C8, f)
  | .hadd2 f => some (0x0D0, f)
  | .hmul2 f => some (0x0D1, f)
  | .hfma2 f => some (0x0D2, f)
  | .rcp f => some (0x0E0, f)
  | .rsqrt f => some (0x0E1, f)
  | .sqrt f => some (0x0E2, f)
  | .exp2 f => some (0x0E3, f)
  | .log2 f => some (0x0E4, f)
  | .sin f => some (0x0E5, f)
  | .cos f => some (0x0E6, f)
  | .cvt f => some (0x0F0, f)
  | .i2f f => some (0x0F1, f)
  | .f2i f => some (0x0F2, f)
  | .rand f => some (0x0F3, f)
  | .shfl f => some (0x140, f)
  | .slide f => some (0x141, f)
  | .vote f => some (0x142, f)
  | .ballot f => some (0x143, f)
  | .redux f => some (0x144, f)
  | .scan f => some (0x145, f)
  | .rdlane f => some (0x146, f)
  | .wrlane f => some (0x147, f)
  | .pand f => some (0x150, f)
  | .por f => some (0x151, f)
  | .pxor f => some (0x152, f)
  | .pnot f => some (0x153, f)
  | .mmaS f => some (0x180, f)
  | .mmaV f => some (0x181, f)
  | .mmaG f => some (0x182, f)
  | .accz f => some (0x188, f)
  | .accrd f => some (0x189, f)
  | .accwr f => some (0x18A, f)
  | .accst f => some (0x18B, f)
  | .qnt f => some (0x190, f)
  | .ldcb f => some (0x191, f)
  | .ld f => some (0x1C0, f)
  | .st f => some (0x1C1, f)
  | .lds f => some (0x1C2, f)
  | .sts f => some (0x1C3, f)
  | .ldTensor f => some (0x1C4, f)
  | .stTensor f => some (0x1C5, f)
  | .tset f => some (0x1C8, f)
  | .pref f => some (0x1C9, f)
  | .wmap f => some (0x1D0, f)
  | .wunmap f => some (0x1D1, f)
  | .wsync f => some (0x1D2, f)
  | .winv f => some (0x1D3, f)
  | .cpyG2s f => some (0x1E0, f)
  | .cpyS2g f => some (0x1E1, f)
  | .cpyG2k f => some (0x1E2, f)
  | .cpyS2k f => some (0x1E3, f)
  | .cpyS2s f => some (0x1E4, f)
  | .cpyGat f => some (0x1E5, f)
  | .cpySct f => some (0x1E6, f)
  | .fence f => some (0x240, f)
  | .atom f => some (0x241, f)
  | .atomc f => some (0x242, f)
  | .red f => some (0x243, f)
  | .barSync f => some (0x248, f)
  | .barArv f => some (0x249, f)
  | .barWt f => some (0x24A, f)
  | .gbar f => some (0x24B, f)
  | .waita f => some (0x250, f)
  | .lkacq f => some (0x258, f)
  | .lktry f => some (0x259, f)
  | .lkrel f => some (0x25A, f)
  | .resample f => some (0x280, f)
  | .reorder f => some (0x281, f)
  | .popq f => some (0x282, f)
  | .lineage f => some (0x283, f)
  | .nwr f => some (0x2A0, f)
  | .nfence f => some (0x2A1, f)
  | .nstat f => some (0x2A2, f)
  | .trap f => some (0x2C0, f)
  | .rte f => some (0x2C1, f)
  | .bkpt f => some (0x2C2, f)
  | .rdsr f => some (0x2C3, f)
  | .wrsr f => some (0x2C4, f)
  | .cwb f => some (0x2C8, f)
  | .cinv f => some (0x2C9, f)
  | .icinv f => some (0x2CA, f)
  | .fbar f => some (0x2CB, f)
  | .launch f => some (0x2D0, f)
  | .mtrd f => some (0x2D8, f)
  | .tmark f => some (0x2D9, f)
  | .halt f => some (0x2E0, f)
  | .tlbi f => some (0x2E1, f)
  | .spdmRequest _ => none
  | .mgmtCoreRead _ => none
  | .registerWrite _ _ _ => none
  | .partCtlWrite _ _ => none
  | .pclkCtlWrite _ _ => none
  | .thermalSample _ => none
  | .thermCtlWrite _ => none
  | .notifyWrite _ _ _ _ => none
  | .takeRecord _ => none
  | .dependenceWait _ => none
  | .apertureAccess _ _ _ _ => none
  | .queueEnable _ _ => none
  | .queueDisable _ => none
  | .tlbiCmdVmid _ _ => none
  | .tlbiCmdAsid _ _ => none
  | .tlbiCmdAsidVa _ _ => none
  | .tlbiCmdS2Range _ _ => none
  | .tlbiCmdAll _ _ => none
  | .tlbiCmdRefused _ _ => none
  | .tlbiComplete _ => none
  | .walkComplete _ _ _ => none
  | .fqBaseWrite _ _ => none
  | .fqCtlWrite _ _ => none
  | .fqConsWrite _ _ => none
  | .faultRecordWrite _ => none
  | .fqAckRetry _ _ => none
  | .fqAckTrap _ _ => none
  | .fqAckEnd _ _ => none
  | .fqAckInvalid _ _ => none
  | .activeSetRotate _ _ => none
  | .instructionFetch _ _ => none
  | .longLatencyComplete _ _ => none
  | .stackSpillAccess _ => none
  | .yieldRelease _ _ => none
  | .trapEntry _ => none
  | .asyncTrapDeliver _ => none
  | .groupEnd _ => none
  | .teamExit _ => none
  | .mmaMultiplyStart _ => none
  | .accTileRelease _ _ => none
  | .rangeEnable _ _ => none
  | .rangeDisable _ => none
  | .rangeRekey _ => none
  | .rekeyComplete _ => none
  | .baseDieReply _ _ => none
  | .homeWriteArrive _ _ => none
  | .narrowHolderPublish _ _ => none
  | .siltMerge _ _ => none
  | .invalidationReceive _ _ => none
  | .lineFill _ _ => none
  | .windowFill _ _ => none
  | .logCtlWrite _ _ => none
  | .logRecordAppend _ => none
  | .waitaWake _ => none
  | .waitaTimeout _ => none
  | .vdnCommit _ _ => none
  | .netctxArm _ => none
  | .netctxInvalidate _ => none
  | .forwardTimerExpire _ => none
  | .wrStart _ _ => none
  | .packetReceive _ => none
  | .packetAckReceive _ => none
  | .responseReceive _ => none
  | .notReadyReceive _ _ _ _ => none
  | .retransmitTimeout _ _ _ _ => none
  | .movedReceive _ _ _ _ => none
  | .movedRecheck _ _ _ _ => none
  | .evictCmd _ _ => none
  | .teamEvict _ => none
  | .teamRestore _ => none
  | .marlCopyRound _ _ => none
  | .marlClearRound _ _ => none
  | .marlDrainRound _ _ => none
  | .vfQuiesce _ => none
  | .quiesceComplete _ => none
  | .vfSave _ => none
  | .saveComplete _ => none
  | .vfResume _ => none
  | .vfRestore _ => none
  | .vfctlRefused _ _ => none
  | .partitionReset _ _ => none
  | .scrubAtom _ _ => none
  | .errCtlWrite _ => none
  | .bankDrowsy _ _ => none
  | .rptCmdLaunch _ => none
  | .rptCmdNetctx _ => none
  | .rptCmdRefused _ => none
  | .jobCmd _ => none
  | .rptCtlWrite _ => none
  | .profCtlWrite _ _ => none
  | .trcCtlWrite _ _ => none
  | .sampleTick _ _ => none
  | .dbgHalt _ _ => none
  | .dbgResume _ _ => none
  | .dbgStep _ _ => none
  | .dbgLaneFocus _ _ => none
  | .dbgReadRecord _ _ => none
  | .dbgCmdRefused _ _ => none
  | .cstatWrite _ _ => none
  | .logConsWrite _ _ => none
  | .rptConsWrite _ => none
  | .trcConsWrite _ _ => none
  | .boot => none
  | .clockStepSwitch => none
  | .governorWindow => none
  | .tokenGrant => none
  | .headOffer => none
  | .admissionDecision => none
  | .launchFinal => none
  | .spillGroups => none
  | .spillRestore => none
  | .regAllocGrant => none
  | .mmaComplete => none
  | .baseDieRd => none
  | .baseDieWr => none
  | .baseDieAtom => none
  | .baseDieDtc => none
  | .copyCommandBegin => none
  | .copyChunk => none
  | .copyCompletion => none
  | .resampleCommit => none
  | .resampleCommitEnd => none
  | .reorderPassClose => none
  | .marlRoundEnd => none
  | .directoryRecall => none
  | .directoryRebuild => none
  | .recallTimeout => none

/-- A number fits in `w` bits. -/
def fits (w x : Nat) : Bool := decide (x < 2 ^ w)

/-- The operands of an event name things that exist: functions 0 to 255 (03, R46), partitions 0 to 15 (01, R14), queues
0 to 131,071 (03, R49), cores 0 to 1,535 (01, R12), clusters 0 to 31, stacks 0 to 7 (01, R11), ranges 0 to 15 (10,
R230), VDNs 0 to 4,095 (14, R312), network contexts 0 to 1,023 (14, R314); a register write carries 64 bits. -/
def eventOk : Instr → Bool
  | .spdmRequest _ => true
  | .mgmtCoreRead r => decide (r.func < 256) && decide (r.offset < if r.bar2 then 2 ^ 20 else 2 ^ 26) && decide (r.len ≤ 8)
  | .registerWrite func offset value => decide (func < 256) && decide (offset < 2 ^ 26) && decide (value < 2 ^ 64)
  | .partCtlWrite n value => decide (n < 16) && decide (value < 2 ^ 64)
  | .pclkCtlWrite n value => decide (n < 16) && decide (value < 2 ^ 64)
  | .thermalSample temp => decide (temp < 256)
  | .thermCtlWrite value => decide (value < 2 ^ 64)
  | .notifyWrite func offset _ value => decide (func < 256) && decide (offset < 2 ^ 20) && decide (value < 2 ^ 64)
  | .takeRecord queue => decide (queue < 131072)
  | .dependenceWait queue => decide (queue < 131072)
  | .apertureAccess func offset _ _ => decide (func < 256) && decide (offset < 2 ^ 36)
  | .queueEnable queue value => decide (queue < 131072) && decide (value < 2 ^ 64)
  | .queueDisable queue => decide (queue < 131072)
  | .tlbiCmdVmid func value => decide (func < 256) && decide (value < 2 ^ 64)
  | .tlbiCmdAsid func value => decide (func < 256) && decide (value < 2 ^ 64)
  | .tlbiCmdAsidVa func value => decide (func < 256) && decide (value < 2 ^ 64)
  | .tlbiCmdS2Range func value => decide (func < 256) && decide (value < 2 ^ 64)
  | .tlbiCmdAll func value => decide (func < 256) && decide (value < 2 ^ 64)
  | .tlbiCmdRefused func value => decide (func < 256) && decide (value < 2 ^ 64)
  | .tlbiComplete func => decide (func < 256)
  | .walkComplete core asid _ => decide (core < 1536) && decide (asid < 16384)
  | .fqBaseWrite func value => decide (func < 256) && decide (value < 2 ^ 64)
  | .fqCtlWrite func value => decide (func < 256) && decide (value < 2 ^ 64)
  | .fqConsWrite func value => decide (func < 256) && decide (value < 2 ^ 64)
  | .faultRecordWrite func => decide (func < 256)
  | .fqAckRetry func seq => decide (func < 256) && decide (seq < 2 ^ 62)
  | .fqAckTrap func seq => decide (func < 256) && decide (seq < 2 ^ 62)
  | .fqAckEnd func seq => decide (func < 256) && decide (seq < 2 ^ 62)
  | .fqAckInvalid func value => decide (func < 256) && decide (value < 2 ^ 64)
  | .activeSetRotate core sched => decide (core < 1536) && decide (sched < 2)
  | .instructionFetch _ _ => true
  | .longLatencyComplete _ _ => true
  | .stackSpillAccess _ => true
  | .yieldRelease _ _ => true
  | .trapEntry _ => true
  | .asyncTrapDeliver _ => true
  | .groupEnd _ => true
  | .teamExit _ => true
  | .mmaMultiplyStart _ => true
  | .accTileRelease core tile => decide (core < 1536) && decide (tile < 8)
  | .rangeEnable n value => decide (n < 16) && decide (value < 2 ^ 64)
  | .rangeDisable n => decide (n < 16)
  | .rangeRekey n => decide (n < 16)
  | .rekeyComplete n => decide (n < 16)
  | .baseDieReply stack tag => decide (stack < 8) && decide (tag < 4096)
  | .homeWriteArrive core _ => decide (core < 1536)
  | .narrowHolderPublish core _ => decide (core < 1536)
  | .siltMerge core _ => decide (core < 1536)
  | .invalidationReceive core _ => decide (core < 1536)
  | .lineFill core _ => decide (core < 1536)
  | .windowFill _ _ => true
  | .logCtlWrite func value => decide (func < 256) && decide (value < 2 ^ 64)
  | .logRecordAppend func => decide (func < 256)
  | .waitaWake _ => true
  | .waitaTimeout _ => true
  | .vdnCommit n value => decide (n < 4096) && decide (value < 2 ^ 64)
  | .netctxArm n => decide (n < 1024)
  | .netctxInvalidate n => decide (n < 1024)
  | .forwardTimerExpire n => decide (n < 1024)
  | .wrStart pid queue => decide (pid < 1024) && decide (queue < 18)
  | .packetReceive _ => true
  | .packetAckReceive _ => true
  | .responseReceive _ => true
  | .notReadyReceive pid queue _ _ => decide (pid < 1024) && decide (queue < 18)
  | .retransmitTimeout pid queue _ _ => decide (pid < 1024) && decide (queue < 18)
  | .movedReceive pid queue _ _ => decide (pid < 1024) && decide (queue < 18)
  | .movedRecheck pid queue _ _ => decide (pid < 1024) && decide (queue < 18)
  | .evictCmd func value => decide (func < 256) && decide (value < 2 ^ 64)
  | .teamEvict _ => true
  | .teamRestore _ => true
  | .marlCopyRound stack value => decide (stack < 8) && decide (value < 2 ^ 64)
  | .marlClearRound stack value => decide (stack < 8) && decide (value < 2 ^ 64)
  | .marlDrainRound stack value => decide (stack < 8) && decide (value < 2 ^ 64)
  | .vfQuiesce w => decide (w.func < 256) && decide (w.value < 2 ^ 64)
  | .quiesceComplete func => decide (func < 256)
  | .vfSave w => decide (w.func < 256) && decide (w.value < 2 ^ 64)
  | .saveComplete func => decide (func < 256)
  | .vfResume w => decide (w.func < 256) && decide (w.value < 2 ^ 64)
  | .vfRestore w => decide (w.func < 256) && decide (w.value < 2 ^ 64)
  | .vfctlRefused func value => decide (func < 256) && decide (value < 2 ^ 64)
  | .partitionReset part cause => decide (part < 16) && decide (cause < 256)
  | .scrubAtom stack _ => decide (stack < 8)
  | .errCtlWrite value => decide (value < 2 ^ 64)
  | .bankDrowsy core bank => decide (core < 1536) && decide (bank < 4)
  | .rptCmdLaunch value => decide (value < 2 ^ 64)
  | .rptCmdNetctx value => decide (value < 2 ^ 64)
  | .rptCmdRefused value => decide (value < 2 ^ 64)
  | .jobCmd value => decide (value < 2 ^ 64)
  | .rptCtlWrite value => decide (value < 2 ^ 64)
  | .profCtlWrite func value => decide (func < 256) && decide (value < 2 ^ 64)
  | .trcCtlWrite func value => decide (func < 256) && decide (value < 2 ^ 64)
  | .sampleTick core sched => decide (core < 1536) && decide (sched < 2)
  | .dbgHalt func value => decide (func < 256) && decide (value < 2 ^ 64)
  | .dbgResume func value => decide (func < 256) && decide (value < 2 ^ 64)
  | .dbgStep func value => decide (func < 256) && decide (value < 2 ^ 64)
  | .dbgLaneFocus func value => decide (func < 256) && decide (value < 2 ^ 64)
  | .dbgReadRecord func value => decide (func < 256) && decide (value < 2 ^ 64)
  | .dbgCmdRefused func value => decide (func < 256) && decide (value < 2 ^ 64)
  | .cstatWrite core value => decide (core < 1536) && decide (value < 2 ^ 64)
  | .logConsWrite func value => decide (func < 256) && decide (value < 2 ^ 64)
  | .rptConsWrite value => decide (value < 2 ^ 64)
  | .trcConsWrite func value => decide (func < 256) && decide (value < 2 ^ 64)
  | .boot => true
  | .clockStepSwitch => true
  | .governorWindow => true
  | .tokenGrant => true
  | .headOffer => true
  | .admissionDecision => true
  | .launchFinal => true
  | .spillGroups => true
  | .spillRestore => true
  | .regAllocGrant => true
  | .mmaComplete => true
  | .baseDieRd => true
  | .baseDieWr => true
  | .baseDieAtom => true
  | .baseDieDtc => true
  | .copyCommandBegin => true
  | .copyChunk => true
  | .copyCompletion => true
  | .resampleCommit => true
  | .resampleCommitEnd => true
  | .reorderPassClose => true
  | .marlRoundEnd => true
  | .directoryRecall => true
  | .directoryRebuild => true
  | .recallTimeout => true
  | .nop _ => true
  | .bra _ => true
  | .brc _ => true
  | .brx _ => true
  | .call _ => true
  | .callx _ => true
  | .ret _ => true
  | .exit _ => true
  | .loop _ => true
  | .lbrk _ => true
  | .yield _ => true
  | .setfmt _ => true
  | .getfmt _ => true
  | .wrmask _ => true
  | .iadd _ => true
  | .iaddc _ => true
  | .isub _ => true
  | .isubb _ => true
  | .imul _ => true
  | .imulh _ => true
  | .imad _ => true
  | .iabs _ => true
  | .ineg _ => true
  | .imin _ => true
  | .imax _ => true
  | .addsat _ => true
  | .pmad2 _ => true
  | .rshr _ => true
  | .dp4 _ => true
  | .bitAnd _ => true
  | .bitOr _ => true
  | .bitXor _ => true
  | .bitNot _ => true
  | .shl _ => true
  | .shr _ => true
  | .sar _ => true
  | .rot _ => true
  | .bfe _ => true
  | .bfi _ => true
  | .popc _ => true
  | .clz _ => true
  | .brev _ => true
  | .icmp _ => true
  | .sel _ => true
  | .mov _ => true
  | .movi _ => true
  | .fadd _ => true
  | .fsub _ => true
  | .fmul _ => true
  | .ffma _ => true
  | .fmin _ => true
  | .fmax _ => true
  | .fcmp _ => true
  | .fclass _ => true
  | .fround _ => true
  | .hadd2 _ => true
  | .hmul2 _ => true
  | .hfma2 _ => true
  | .rcp _ => true
  | .rsqrt _ => true
  | .sqrt _ => true
  | .exp2 _ => true
  | .log2 _ => true
  | .sin _ => true
  | .cos _ => true
  | .cvt _ => true
  | .i2f _ => true
  | .f2i _ => true
  | .rand _ => true
  | .shfl _ => true
  | .slide _ => true
  | .vote _ => true
  | .ballot _ => true
  | .redux _ => true
  | .scan _ => true
  | .rdlane _ => true
  | .wrlane _ => true
  | .pand _ => true
  | .por _ => true
  | .pxor _ => true
  | .pnot _ => true
  | .mmaS _ => true
  | .mmaV _ => true
  | .mmaG _ => true
  | .accz _ => true
  | .accrd _ => true
  | .accwr _ => true
  | .accst _ => true
  | .qnt _ => true
  | .ldcb _ => true
  | .ld _ => true
  | .st _ => true
  | .lds _ => true
  | .sts _ => true
  | .ldTensor _ => true
  | .stTensor _ => true
  | .tset _ => true
  | .pref _ => true
  | .wmap _ => true
  | .wunmap _ => true
  | .wsync _ => true
  | .winv _ => true
  | .cpyG2s _ => true
  | .cpyS2g _ => true
  | .cpyG2k _ => true
  | .cpyS2k _ => true
  | .cpyS2s _ => true
  | .cpyGat _ => true
  | .cpySct _ => true
  | .fence _ => true
  | .atom _ => true
  | .atomc _ => true
  | .red _ => true
  | .barSync _ => true
  | .barArv _ => true
  | .barWt _ => true
  | .gbar _ => true
  | .waita _ => true
  | .lkacq _ => true
  | .lktry _ => true
  | .lkrel _ => true
  | .resample _ => true
  | .reorder _ => true
  | .popq _ => true
  | .lineage _ => true
  | .nwr _ => true
  | .nfence _ => true
  | .nstat _ => true
  | .trap _ => true
  | .rte _ => true
  | .bkpt _ => true
  | .rdsr _ => true
  | .wrsr _ => true
  | .cwb _ => true
  | .cinv _ => true
  | .icinv _ => true
  | .fbar _ => true
  | .launch _ => true
  | .mtrd _ => true
  | .tmark _ => true
  | .halt _ => true
  | .tlbi _ => true

end Forms
end Sys2Proof
end

