-- ==== Sys2Proof/WellFormed.lean ====
section
/-! DEFINITION. Which terms of `Instr` are steps of the machine: an instruction whose word Table 5.10 does not make
illegal, an event whose operands name things that exist. -/

namespace Sys2Proof

/-- Well-formed steps (05, R116 for words; each event's rule for its operands). -/
def Instr.wellFormed (i : Instr) : Bool :=
  match Forms.wordOf i with
  | some (opc, f) => (Forms.check opc f).isNone
  | none => Forms.eventOk i

end Sys2Proof
end

