-- ==== Sys2Proof/Decode.lean ====
section
/-! DEFINITION. From the bytes of code to an instruction, total and rejecting by name (05, R93, R115, R116), and back:
the encoder, written from the same tables. -/

namespace Sys2Proof

/-- The constructor an OPC selects (05, Table 5.9; `ld` and `st` on a tensor operand have OPCs of their own). -/
def ofOpcode (opc : Nat) (f : Fields) : Option Instr :=
  match opc with
  | 0x001 => some (.nop f)
  | 0x002 => some (.bra f)
  | 0x003 => some (.brc f)
  | 0x004 => some (.brx f)
  | 0x005 => some (.call f)
  | 0x006 => some (.callx f)
  | 0x007 => some (.ret f)
  | 0x008 => some (.exit f)
  | 0x009 => some (.loop f)
  | 0x00A => some (.lbrk f)
  | 0x00B => some (.yield f)
  | 0x00C => some (.setfmt f)
  | 0x00D => some (.getfmt f)
  | 0x00E => some (.wrmask f)
  | 0x040 => some (.iadd f)
  | 0x041 => some (.iaddc f)
  | 0x042 => some (.isub f)
  | 0x043 => some (.isubb f)
  | 0x044 => some (.imul f)
  | 0x045 => some (.imulh f)
  | 0x046 => some (.imad f)
  | 0x047 => some (.iabs f)
  | 0x048 => some (.ineg f)
  | 0x049 => some (.imin f)
  | 0x04A => some (.imax f)
  | 0x04B => some (.addsat f)
  | 0x04C => some (.pmad2 f)
  | 0x04D => some (.rshr f)
  | 0x04E => some (.dp4 f)
  | 0x050 => some (.bitAnd f)
  | 0x051 => some (.bitOr f)
  | 0x052 => some (.bitXor f)
  | 0x053 => some (.bitNot f)
  | 0x054 => some (.shl f)
  | 0x055 => some (.shr f)
  | 0x056 => some (.sar f)
  | 0x057 => some (.rot f)
  | 0x058 => some (.bfe f)
  | 0x059 => some (.bfi f)
  | 0x05A => some (.popc f)
  | 0x05B => some (.clz f)
  | 0x05C => some (.brev f)
  | 0x060 => some (.icmp f)
  | 0x061 => some (.sel f)
  | 0x062 => some (.mov f)
  | 0x063 => some (.movi f)
  | 0x0C0 => some (.fadd f)
  | 0x0C1 => some (.fsub f)
  | 0x0C2 => some (.fmul f)
  | 0x0C3 => some (.ffma f)
  | 0x0C4 => some (.fmin f)
  | 0x0C5 => some (.fmax f)
  | 0x0C6 => some (.fcmp f)
  | 0x0C7 => some (.fclass f)
  | 0x0C8 => some (.fround f)
  | 0x0D0 => some (.hadd2 f)
  | 0x0D1 => some (.hmul2 f)
  | 0x0D2 => some (.hfma2 f)
  | 0x0E0 => some (.rcp f)
  | 0x0E1 => some (.rsqrt f)
  | 0x0E2 => some (.sqrt f)
  | 0x0E3 => some (.exp2 f)
  | 0x0E4 => some (.log2 f)
  | 0x0E5 => some (.sin f)
  | 0x0E6 => some (.cos f)
  | 0x0F0 => some (.cvt f)
  | 0x0F1 => some (.i2f f)
  | 0x0F2 => some (.f2i f)
  | 0x0F3 => some (.rand f)
  | 0x140 => some (.shfl f)
  | 0x141 => some (.slide f)
  | 0x142 => some (.vote f)
  | 0x143 => some (.ballot f)
  | 0x144 => some (.redux f)
  | 0x145 => some (.scan f)
  | 0x146 => some (.rdlane f)
  | 0x147 => some (.wrlane f)
  | 0x150 => some (.pand f)
  | 0x151 => some (.por f)
  | 0x152 => some (.pxor f)
  | 0x153 => some (.pnot f)
  | 0x180 => some (.mmaS f)
  | 0x181 => some (.mmaV f)
  | 0x182 => some (.mmaG f)
  | 0x188 => some (.accz f)
  | 0x189 => some (.accrd f)
  | 0x18A => some (.accwr f)
  | 0x18B => some (.accst f)
  | 0x190 => some (.qnt f)
  | 0x191 => some (.ldcb f)
  | 0x1C0 => some (.ld f)
  | 0x1C1 => some (.st f)
  | 0x1C2 => some (.lds f)
  | 0x1C3 => some (.sts f)
  | 0x1C4 => some (.ldTensor f)
  | 0x1C5 => some (.stTensor f)
  | 0x1C8 => some (.tset f)
  | 0x1C9 => some (.pref f)
  | 0x1D0 => some (.wmap f)
  | 0x1D1 => some (.wunmap f)
  | 0x1D2 => some (.wsync f)
  | 0x1D3 => some (.winv f)
  | 0x1E0 => some (.cpyG2s f)
  | 0x1E1 => some (.cpyS2g f)
  | 0x1E2 => some (.cpyG2k f)
  | 0x1E3 => some (.cpyS2k f)
  | 0x1E4 => some (.cpyS2s f)
  | 0x1E5 => some (.cpyGat f)
  | 0x1E6 => some (.cpySct f)
  | 0x240 => some (.fence f)
  | 0x241 => some (.atom f)
  | 0x242 => some (.atomc f)
  | 0x243 => some (.red f)
  | 0x248 => some (.barSync f)
  | 0x249 => some (.barArv f)
  | 0x24A => some (.barWt f)
  | 0x24B => some (.gbar f)
  | 0x250 => some (.waita f)
  | 0x258 => some (.lkacq f)
  | 0x259 => some (.lktry f)
  | 0x25A => some (.lkrel f)
  | 0x280 => some (.resample f)
  | 0x281 => some (.reorder f)
  | 0x282 => some (.popq f)
  | 0x283 => some (.lineage f)
  | 0x2A0 => some (.nwr f)
  | 0x2A1 => some (.nfence f)
  | 0x2A2 => some (.nstat f)
  | 0x2C0 => some (.trap f)
  | 0x2C1 => some (.rte f)
  | 0x2C2 => some (.bkpt f)
  | 0x2C3 => some (.rdsr f)
  | 0x2C4 => some (.wrsr f)
  | 0x2C8 => some (.cwb f)
  | 0x2C9 => some (.cinv f)
  | 0x2CA => some (.icinv f)
  | 0x2CB => some (.fbar f)
  | 0x2D0 => some (.launch f)
  | 0x2D8 => some (.mtrd f)
  | 0x2D9 => some (.tmark f)
  | 0x2E0 => some (.halt f)
  | 0x2E1 => some (.tlbi f)
  | _ => none

/-- The fields of a 96-bit word (05, Table 5.1). -/
def fieldsOf (w : BitVec 96) : Fields where
  fn := w.extractLsb' 10 12
  grd := w.extractLsb' 22 4
  d := w.extractLsb' 26 16
  a := w.extractLsb' 42 16
  b := w.extractLsb' 58 16
  aux := w.extractLsb' 74 16
  la := w.extractLsb' 90 4
  bh := w.extractLsb' 94 2

/-- The instruction a 96-bit word is, or the condition of Table 5.10 that makes it none. -/
def decodeWord (w : BitVec 96) : Except FormError Instr :=
  let opc := (w.extractLsb' 0 10).toNat
  let f := fieldsOf w
  match ofOpcode opc f with
  | none => .error .unassigned
  | some i =>
    match Forms.check opc f with
    | some e => .error e
    | none => .ok i

/-- A number from little-endian bytes (00, R3). -/
def ofBytes : List Byte → Nat
  | [] => 0
  | b :: t => b.toNat + 256 * ofBytes t

/-- The `n` little-endian bytes of a number (00, R3). -/
def toBytes : Nat → Nat → List Byte
  | 0, _ => []
  | n + 1, x => BitVec.ofNat 8 x :: toBytes n (x / 256)

/-- The instruction at the head of a byte string, three little-endian words with W0 first (05, R93), and the rest. -/
def decode (bytes : List Byte) : Except FormError (Instr × List Byte) :=
  if bytes.length < 12 then .error .short
  else
    match decodeWord (BitVec.ofNat 96 (ofBytes (bytes.take 12))) with
    | .ok i => .ok (i, bytes.drop 12)
    | .error e => .error e

/-- The 96-bit word of an OPC and fields (05, Table 5.1). -/
def wordBits (opc : Nat) (f : Fields) : BitVec 96 :=
  f.bh ++ f.la ++ f.aux ++ f.b ++ f.a ++ f.d ++ f.grd ++ f.fn ++ BitVec.ofNat 10 opc

/-- The word of an instruction; none for an event. -/
def encode (i : Instr) : Option (BitVec 96) := (Forms.wordOf i).map fun p => wordBits p.1 p.2

/-- The instruction's twelve bytes as memory holds them. -/
def encodeBytes (i : Instr) : Option (List Byte) := (encode i).map fun w => toBytes 12 w.toNat

/-- The instruction read from a word of the opcode table's numbering: W0, W1, W2 little-endian, the bits above `nbits`
zero. An instruction of this hardware is 96 bits. -/
def decodeTableWord (nbits w : Nat) : Option Instr :=
  if 96 < nbits then none
  else
    match decode (toBytes 12 w) with
    | .ok (i, _) => some i
    | .error _ => none

end Sys2Proof
end

