-- ==== Sys2Proof/Machine/Sha.lean ====
section
/-! DEFINITION. SHA-512, which the spec names and does not spell out (01, R24; 17, R384, R386): the function of FIPS 180-4 (PRESUMED: log 11). -/

namespace Sys2Proof.Machine

namespace Sha512

/-- A 64-bit word of the hash. -/
abbrev W := BitVec 64

/-- The first 80 primes. -/
def primes : List Nat :=
  [2, 3, 5, 7, 11, 13, 17, 19, 23, 29, 31, 37, 41, 43, 47, 53, 59, 61, 67, 71, 73, 79, 83, 89, 97, 101, 103, 107, 109, 113, 127, 131, 137, 139,
   149, 151, 157, 163, 167, 173] ++
  [179, 181, 191, 193, 197, 199, 211, 223, 227, 229, 233, 239, 241, 251, 257, 263, 269, 271, 277, 281, 283, 293, 307, 311, 313, 317, 331, 337,
   347, 349, 353, 359, 367, 373, 379, 383, 389, 397, 401, 409]

/-- The largest `r` with `r ^ k` at most `x`, found bit by bit from bit `n - 1`. -/
def root (k x : Nat) : Nat → Nat → Nat
  | 0, r => r
  | n + 1, r => root k x n (if (r + 2 ^ n) ^ k ≤ x then r + 2 ^ n else r)

/-- The first 64 bits of the fraction of the `k`-th root of a prime. -/
def fraction (k p : Nat) : W := BitVec.ofNat 64 (root k (p * 2 ^ (64 * k)) 72 0)

/-- The constants of the rounds and the hash of no block. -/
def rounds : List W := primes.map (fraction 3)
def start : List W := (primes.take 8).map (fraction 2)

def sum0 (x : W) : W := x.rotateRight 28 ^^^ x.rotateRight 34 ^^^ x.rotateRight 39
def sum1 (x : W) : W := x.rotateRight 14 ^^^ x.rotateRight 18 ^^^ x.rotateRight 41
def mix0 (x : W) : W := x.rotateRight 1 ^^^ x.rotateRight 8 ^^^ (x >>> 7)
def mix1 (x : W) : W := x.rotateRight 19 ^^^ x.rotateRight 61 ^^^ (x >>> 6)

/-- The message schedule: `n` further words behind those there are, the latest first. -/
def schedule : Nat → List W → List W
  | 0, ws => ws
  | n + 1, ws => schedule n ((mix1 (ws.getD 1 0) + ws.getD 6 0 + mix0 (ws.getD 14 0) + ws.getD 15 0) :: ws)

/-- A round on the eight working variables. -/
def round (v : List W) (k w : W) : List W :=
  match v with
  | [a, b, c, d, e, f, g, h] =>
    let t1 := h + sum1 e + ((e &&& f) ^^^ (~~~e &&& g)) + k + w
    let t2 := sum0 a + ((a &&& b) ^^^ (a &&& c) ^^^ (b &&& c))
    [t1 + t2, a, b, c, d + t1, e, f, g]
  | v => v

/-- A block of sixteen words joins the hash. -/
def block (h ws : List W) : List W :=
  let v := ((rounds.zip (schedule 64 ws.reverse).reverse)).foldl (fun v x => round v x.1 x.2) h
  (h.zip v).map fun x => x.1 + x.2

/-- Bytes as a big-endian number. -/
def bigEndian (bs : List Byte) : Nat := bs.foldl (fun n b => n * 256 + b.toNat) 0

/-- The message padded to whole blocks: a bit 1, zeros, and its length in bits. -/
def padded (bs : List Byte) : List Byte :=
  bs ++ [0x80] ++ List.replicate ((240 - (bs.length + 1) % 128) % 128) 0 ++ (toBytes 16 (8 * bs.length)).reverse

/-- The blocks of a padded message join the hash, `n` of them. -/
def blocks : Nat → List Byte → List W → List W
  | 0, _, h => h
  | n + 1, bs, h => blocks n (bs.drop 128) (block h ((List.range 16).map fun i => BitVec.ofNat 64 (bigEndian ((bs.drop (8 * i)).take 8))))

end Sha512

/-- SHA-512 of a byte string, as a 512-bit number whose most significant byte is the digest's first. -/
def sha512 (bs : List Byte) : Nat :=
  let p := Sha512.padded bs
  ((Sha512.blocks (p.length / 128) p Sha512.start).foldl (fun n w => n * 2 ^ 64 + w.toNat) 0) % 2 ^ 512

end Sys2Proof.Machine
end

