-- ==== Sys2Proof/Config.lean ====
section
/-! DEFINITION. What the model leaves free. Every constant here is opaque: nothing in Lean can evaluate it, so a
statement that holds of the model holds whatever its value is. -/

namespace Sys2Proof

/-- An error of storage (16, R373): a bit of an HBM atom flips, the only one or one of several; an SRAM word of a core or of an L2 slice has an error that is corrected; or
one that is not, of a lane of a vector name, a scalar register, a scratchpad word, an accumulator element, a Kaolin word, an entry of a
core's TLB, of a cluster's or of the walkers of a compute die, a clean line of an L1, a word that an L1 holds dirty, or a line of an L2 slice. -/
inductive Upset where
  | atom (pa : Nat) (single : Bool)
  | corrected (core : Nat)
  | correctedSlice (slice : Nat)
  | name (group n lane : Nat)
  | scalar (group n : Nat)
  | scratch (core off : Nat)
  | tile (core tile elem : Nat)
  | kaolin (core off : Nat)
  | tlb (core n : Nat)
  | ctlb (cluster n : Nat)
  | walk (die n : Nat)
  | line (core line : Nat)
  | dirty (core word : Nat)
  | slice (line : Nat)
  deriving DecidableEq, Repr, Inhabited

/-- Who moves next: a resident group issues, a device or host event comes about at a place, core cycles pass, another firmware
image with its security version comes into the module flash (01, R24), or storage has an error (16, R373). -/
inductive Turn where
  | issue (group : Nat)
  | event (step : Instr) (place : Nat)
  | elapse (cycles : Nat)
  | flash (image : List (List Byte)) (version : Nat)
  | upset (error : Upset)
  deriving DecidableEq, Repr, Inhabited

namespace Config

/-- The order in which independent agents move (12, R273: every allowed interleaving can occur). Free. -/
opaque turn : Nat → Turn

/-- RSASSA-PSS signature by key `k` (0 identity, 1 attestation, 2 metering) (01, R25). The private keys never leave
the root of trust, so the signature is a value the spec does not give; the Nat is the signature's salt draw. -/
opaque sign : Nat → Nat → List Byte → Nat

/-- Whether a firmware image's signature verifies against the vendor key fused into the die (01, R24). -/
opaque firmwareVerifies : List Byte → Bool

/-- The fused minimum security version number (01, R24). -/
opaque minSecurityVersion : Nat

/-- The certificate chain of the identity and attestation keys (01, R25). -/
opaque certificateChain : List Byte

/-- The identity public key (01, R25; 17, R384). -/
opaque identityKey : List Byte

/-- The n-th key the root of trust generates for a confidential range (10, R238, R240). -/
opaque rangeKey : Nat → Nat

/-- The key that the root of trust has put into a key slot at power-on, before any rekey of it (10, R238). -/
opaque slotKey : Nat → Nat

/-- What a byte of storage reads as, at a place, by the key it was written under and the key it is read under (0: none), where the two
differ: the ciphertext is AES-256 under keys that are never readable (10, R238). Free. -/
opaque garbled : Nat → Nat → Nat → BitVec 8 → BitVec 8

/-- Whether the n-th counted write of a range since it was keyed brings a node counter of its integrity tree to the maximum
(10, R238, R239): the spec does not say when the tree's nodes count. Free. -/
opaque treeFull : Nat → Nat → Bool

/-- The device sequence number kept over power loss (17, Table 17.2): its value at this power-on. -/
opaque devSeqAtPowerOn : Nat

/-- Whether in a cycle a group's next instruction waits for a short-latency result of an earlier one, and whether for a second read of a
register bank that its sources share: interlocks are timing alone, and a sample shows them (05, R103; 06, R118, R133). Free. -/
opaque interlocked : Nat → Nat → Bool
opaque bankBusy : Nat → Nat → Bool

/-- The port that spraying takes for the n-th packet that leaves, among those that may carry it (14, R310, R319). Free. -/
opaque spray : Nat → Nat

end Config

end Sys2Proof
end

