-- ==== Sys2Proof/Machine/State.lean ====
section
/-! DEFINITION. Everything the spec gives the machine, as plain data, and the machine right after reset. -/

namespace Sys2Proof.Machine

/-! ## One group -/

/-- Whose stack entry it is (06, Table 6.2, TAG). -/
inductive Tag where
  | slotA | slotB | group
  deriving DecidableEq, Repr, Inhabited

/-- What a stack entry is (06, Table 6.2, KIND). -/
inductive EntryKind where
  | pending | join | ret
  deriving DecidableEq, Repr, Inhabited

/-- A reconvergence stack entry (06, Table 6.2). -/
structure StackEntry where
  kind : EntryKind
  tag  : Tag
  fmt  : Word
  rpc  : Word
  pc   : Word
  mask : LaneMask
  deriving DecidableEq, Repr, Inhabited

/-- A PC slot (06, R117). It is live when `owned` is nonempty. `stream` holds the words fetched and not yet issued, by
PC (05, R113); `yieldAt` is the cycle at which a `yield` began to hold the slot (06, R144) and `yieldFor` the active
groups that have not issued since. -/
structure PcSlot where
  pc       : Word := 0
  rpc      : Word := 0xFFFFFFFF
  fmt      : Word := 0
  active   : LaneMask := 0
  owned    : LaneMask := 0
  join     : Bool := false
  yieldAt  : Option Nat := none
  yieldFor : List Nat := []
  stream   : Tbl (BitVec 96) := []
  deriving DecidableEq, Repr, Inhabited

/-- A value as a source reads it: one word, or one word per lane, each with its poison bit (15, R341). -/
structure Value where
  vec    : Bool
  vals   : List Word
  poison : LaneMask
  deriving DecidableEq, Repr, Inhabited

/-- A mapped main vector name: a word and a poison bit per lane (05, R105; 15, R341). -/
structure VReg where
  vals   : List Word
  poison : LaneMask
  deriving DecidableEq, Repr, Inhabited

/-- A latch entry h0 to h2 and how many more instructions of its slot may read it (05, R106). -/
structure LatchEntry where
  value : Value
  age   : Nat
  slotB : Bool
  deriving DecidableEq, Repr, Inhabited

/-- A destination of a long-latency instruction. -/
inductive DName where
  | v (n : Nat) | s (n : Nat) | p (n : Nat) | special (n : Nat)
  deriving DecidableEq, Repr, Inhabited

/-- What an open window will deliver to one name: the lanes delivered, their words and poison (05, R111). The register
file keeps the name's old value, its shadow, until the window closes. -/
structure WinDest where
  name   : DName
  lanes  : LaneMask
  vals   : List Word
  poison : LaneMask
  deriving DecidableEq, Repr, Inhabited

/-- An open lookahead window (05, R111, R112): how many more instructions each slot may issue, whether the instruction
has completed in every lane, the lanes still held by a fault, the names it delivers and the names a LAST frees when
it closes (R105). `frozen`: a handler runs and its instructions do not count (15, R336). `tally`: what it adds to
metering counters when it completes (17, R382). `id` names it for its held and
its network accesses; `pend`: the lanes that wait for the network (14, R325). -/
structure Window where
  opc     : Nat
  remA    : Option Nat
  remB    : Option Nat
  done    : Bool
  held    : LaneMask
  dests   : List WinDest
  frees   : List Nat
  frozen  : Bool := false
  tally   : List (Nat × Nat) := []
  id      : Nat := 0
  pend    : LaneMask := 0
  deriving DecidableEq, Repr, Inhabited

/-- A zero-overhead loop level (06, R130). -/
structure LoopLevel where
  opened : Bool := false
  count  : Word := 0
  start  : Word := 0
  stop   : Word := 0
  depth  : Nat := 0
  deriving DecidableEq, Repr, Inhabited

/-- One lane of a held instruction: its lane number, address and data as read at issue (15, R340). -/
structure ReplayLane where
  lane : Nat
  addr : Nat
  data : List Word
  deriving DecidableEq, Repr, Inhabited

/-- What an instruction read as it issued first (15, R338, R340): its slot, its active lanes and its operands by `Opnd.key`. -/
structure Capture where
  slotB : Bool
  act   : LaneMask
  vals  : Tbl Value
  deriving DecidableEq, Repr, Inhabited

/-- The replay entry (15, R340). With `whole` the instruction has had no effect and reissues as a whole, with the operands it captured. `tally`: what its completed lanes
add to counters once the instruction retires (12, R285). `resumed`: an `rte` has brought it back, and it has not been reissued since (R335). -/
structure Replay where
  opc    : Nat
  fields : Fields
  pc     : Word
  slotB  : Bool
  whole  : Bool
  seq    : Nat
  lanes  : List ReplayLane
  win    : Nat := 0
  tally  : List (Nat × Nat) := []
  capture : Option Capture := none
  resumed : Bool := false
  deriving DecidableEq, Repr, Inhabited

/-- What a trap reports (15, Table 15.2). `atPc`: TPC is `pc` although the trap is asynchronous. -/
structure TrapInfo where
  code   : Nat
  field  : Nat := 0
  cause  : Nat := 0
  access : Nat := 0
  pc     : Word := 0
  info   : Word := 0
  addr   : Nat := 0
  mask   : LaneMask := 0
  slotB  : Bool := false
  async  : Bool := false
  atPc   : Bool := false
  deriving DecidableEq, Repr, Inhabited

/-- What a trap saves (15, R336). -/
structure TrapFrame where
  slotA : PcSlot
  slotB : PcSlot
  latch : List LatchEntry
  q0    : Option Value
  q1    : Option Value
  depth : Nat
  replay : Option Replay := none
  capture : Option Capture := none
  deriving DecidableEq, Repr, Inhabited

/-- A sleeping `waita` (12, R288): the word (`sp`: scratchpad) by address and by place, and what ends the sleep. -/
structure WaitaWait where
  sp      : Bool
  addr    : Nat
  place   : Nat
  notify  : Bool
  wide    : Bool
  cond    : Nat
  cmp     : Nat
  timeout : Nat
  woken   : Bool
  deriving DecidableEq, Repr, Inhabited

/-- A lock held or asked for: the virtual address of its record and its guarded ranges, base and length (12, R289), with the device
physical address of the record and the guarded physical intervals found at the request (R292). -/
structure Holding where
  record : Nat
  ranges : List (Nat × Nat)
  place  : Nat := 0
  guards : List (Nat × Nat) := []
  deriving DecidableEq, Repr, Inhabited

/-- Why a group waits (04, R87; 15, Table 15.5, WAITK). `again`: its instruction has not gone through and will be tried again; what it waits
for is told by its stall reason. -/
inductive Wait where
  | none
  | barrier (id : Nat) (phase : Bool)
  | barrierNext (id : Nat)
  | gbar
  | waita (w : WaitaWait)
  | lock (h : Holding)
  | resample
  | fault (seq : Nat)
  | dormant
  | alloc
  | mma
  | again
  | nfence (queue : Option Nat)
  deriving DecidableEq, Repr, Inhabited

/-- A request of the spill region of the reconvergence stack (06, R121). -/
inductive SpillReq where
  | none | wanted | granted
  deriving DecidableEq, Repr, Inhabited

/-- A group: its registers (05, Table 5.7), path state (06), trap state (15) and place (04, R75). `need`: the physical
registers that its waiting first write asks for; `granted`: those set aside for it (04, R90). `issued`: an instruction issued since the last
sample; `issuedAt`: the cycle of the last one; `went`: its latest issue turn came to an instruction's issue or to a trap; `deepKinds`: what the
core wrote to the spill region, the topmost first (06, R126); `resumed`: the group was resumed or stepped since its core was halted (17, R391,
R394); `capture`: the operands of the instruction that a slot reissues whole (15, R338, R340); `triedA`, `triedB`: the PC at which the slot was last tried and did not
issue, and why (06, R133). -/
structure Group where
  team     : Nat
  grpid    : Nat
  width    : Nat
  core     : Nat
  sched    : Nat
  units    : List Nat
  placedAt : Nat := 0
  slotA    : PcSlot := {}
  slotB    : PcSlot := {}
  lastB    : Bool := true
  exited   : LaneMask := 0
  vregs    : Tbl VReg := []
  sregs    : Tbl Word := []
  spoison  : BitVec 64 := 0
  preds    : List LaneMask := []
  loops    : List LoopLevel := []
  cbs      : Tbl Nat := []
  latch    : List LatchEntry := []
  q0       : Option Value := none
  q1       : Option Value := none
  windows  : List Window := []
  stack    : List StackEntry := []
  deep     : Nat := 0
  deepKinds : List EntryKind := []
  spill    : SpillReq := .none
  sat      : Bool := false
  uflow    : Word := 0
  mflush   : Word := 0
  mwrap    : Word := 0
  cycle    : Nat := 0
  lin      : Tbl Nat := []
  par      : Tbl Nat := []
  ord      : Tbl Nat := []
  slotNo   : Tbl Nat := []
  oslot    : Tbl Nat := []
  dormFmt  : Option Word := none
  wait     : Wait := .none
  waitOpc  : Nat := 0
  waitWord : Fields := {}
  waitB    : Bool := false
  stall    : Nat := 0x15
  triedA   : Option (Word × Nat) := none
  triedB   : Option (Word × Nat) := none
  halted   : Bool := false
  resumed  : Bool := false
  stepOnce : Bool := false
  spilled  : Option (Tbl VReg) := none
  inh      : Bool := false
  trapRegs : List Word := []
  frame    : Option TrapFrame := none
  trap     : Option TrapInfo := none
  asyncs   : List TrapInfo := []
  replay   : Option Replay := none
  capture  : Option Capture := none
  ended    : Bool := false
  issued   : Bool := false
  issuedAt : Option Nat := none
  went     : Bool := false
  locks    : List Holding := []
  need     : Nat := 0
  granted  : Nat := 0
  deriving DecidableEq, Repr, Inhabited

/-! ## Teams and launches -/

/-- A team barrier (12, R286). -/
structure Barrier where
  mask  : Nat := 0
  count : Nat := 0
  phase : Bool := false
  deriving DecidableEq, Repr, Inhabited

/-- A Loam window (10, R234, R235): scratchpad address, virtual base, length, mode, the device physical address of each
word, per word its valid and dirty bit, the words that a waiting read has asked for, and per
word of a logged page its stage-2 address. -/
structure LoamWindow where
  sp       : Nat
  gb       : Nat
  len      : Nat
  writable : Bool
  place    : List Nat
  valid    : List Bool
  dirty    : List Bool
  want     : List Nat := []
  log      : List (Option Nat) := []
  deriving DecidableEq, Repr, Inhabited

/-- A team (02, R29; 04, R75, R76): its core and ranges while resident, and its image. `imaged`: the Kaolin slices that the latest save left
in the image, each with its byte there (09, R207). -/
structure Team where
  launch   : Nat
  teamid   : Nat
  resident : Bool := false
  placed   : Bool := false
  evicted  : Bool := false
  parked   : Bool := false
  exited   : Bool := false
  stopping : Bool := false
  core     : Nat := 0
  split    : Nat := 0
  spOff0   : Nat := 0
  spOff1   : Nat := 0
  spLen    : Nat := 0
  windows  : List LoamWindow := []
  barriers : Tbl Barrier := []
  trecs    : Tbl Nat := []
  image    : Option (Nat × Nat) := none
  imaged   : Tbl Nat := []
  deriving DecidableEq, Repr, Inhabited

/-- What an evicted team's record holds beside its groups (15, R346): scratchpad bytes by offset, with the poisoned words, owned tiles and
Kaolin slices with their poisoned words, each numbered, with 2^19 (bytes) or 2^16 (tiles and slices) added for the second core. `bytes`: the
record as it was written. -/
structure SavedCore where
  scratch : List Host.Cell
  spoison : List Nat := []
  tiles   : Tbl (Tbl Word × List Nat)
  slices  : Tbl (List Host.Cell)
  kpoison : List Nat := []
  bytes   : List Byte := []
  deriving DecidableEq, Repr, Inhabited

/-- A lane's reorder deposit (13, R303). -/
structure Deposit where
  key     : Nat
  payload : List Word
  q       : Nat
  lin     : Nat
  par     : Nat
  ord     : Nat
  slotNo  : Nat
  deriving DecidableEq, Repr, Inhabited

/-- A group's arrival at a resample (13, R296): N′, PC, ANC and ancestor address, and the weight of each live lane. -/
structure Arrival where
  target  : Nat
  pc      : Word
  anc     : Bool
  address : Nat
  weights : Tbl Nat
  deriving DecidableEq, Repr, Inhabited

/-- A commit that has begun and not ended (13, R297, R298); `place` is the ancestor buffer as translated: physical start,
length and, where the page is logged, stage-2 start of each piece. -/
structure Commit where
  target  : Nat
  anc     : Bool
  address : Nat
  weights : Tbl Nat
  total   : Nat
  off     : Nat
  pc      : Word
  place   : List (Nat × Nat × Option Nat) := []
  halted  : List Nat := []
  deriving DecidableEq, Repr, Inhabited

/-- Population state at the Tilth root (13, R293). -/
structure Population where
  live  : Nat := 0
  seq   : Nat := 0
  total : Nat := 0
  off   : Nat := 0
  surv  : Nat := 0
  deriving DecidableEq, Repr, Inhabited

/-- The launch record's fields as read (02, Table 2.5). -/
structure LaunchRec where
  fmtInit : Word := 0
  tag     : Nat := 0
  sigInc  : Nat := 0
  sigAddr : Nat := 0
  wait1V  : Nat := 0
  wait1A  : Nat := 0
  wait0V  : Nat := 0
  wait0A  : Nat := 0
  key     : Nat := 0
  popCap  : Nat := 0
  stackN  : Nat := 0
  stackA  : Nat := 0
  spad    : Nat := 0
  teams   : Nat := 1
  param   : Nat := 0
  handler : Word := 0
  entry   : Word := 0
  kimg    : Nat := 0
  vfloor  : Nat := 0
  vregs   : Nat := 1
  slots   : Nat := 1
  split   : Nat := 0
  preempt : Bool := false
  pop     : Bool := false
  coop    : Bool := false
  span    : Bool := false
  width   : Nat := 1
  format  : Nat := 1
  deriving DecidableEq, Repr, Inhabited

/-- Where a taken launch stands (02, R43–R45; 03, R54). -/
inductive Stage where
  | taken (reserved : Bool)  -- read, not yet checked; whether a reserved bit was nonzero
  | waiting     -- its dependence waits are not both satisfied
  | eligible    -- offered, its image not yet read
  | offered     -- its image and parameters have been read
  | admitted
  | finishing (status : Nat)
  | final (status : Nat)
  deriving DecidableEq, Repr, Inhabited

/-- Which of the final state's writes comes next (02, R44; 17, R385). -/
inductive FinalStep where
  | report | status | signal | done
  deriving DecidableEq, Repr, Inhabited

/-- A chain of signed records; `closed` once its last one, with FINAL, has been made (17, R384, R385). -/
structure Chain where
  seq  : Nat := 0
  hash : Nat := 0
  closed : Bool := false
  deriving DecidableEq, Repr, Inhabited

/-- A launch from the moment its record is taken. `got0`, `got1`: its dependence waits satisfied once and for all; `place0`, `place1`:
where their counters lie, as last read (02, R45). -/
structure Launch where
  queue   : Nat
  index   : Nat
  recAddr : Nat := 0
  record  : LaunchRec
  asid    : Nat
  vmid    : Nat
  part    : Nat
  prio    : Nat
  stage   : Stage := .waiting
  got0    : Bool := false
  got1    : Bool := false
  place0  : Option Nat := none
  place1  : Option Nat := none
  order   : Nat := 0
  params  : List Word := []
  trecs   : Tbl Nat := []
  next    : Nat := 0
  finalAt : FinalStep := .report
  gbar    : List Nat := []
  gphase  : Nat := 0
  pop     : Population := {}
  arrived : Tbl Arrival := []
  commit  : Option Commit := none
  ancHold : Bool := false
  deposit : List Deposit := []
  passPc  : Word := 0
  passP   : Nat := 0
  passOn  : Bool := false
  ctrs    : Tbl Nat := []
  chain   : Chain := {}
  image   : Option (Nat × Nat) := none
  deriving DecidableEq, Repr, Inhabited

/-! ## Cores -/

/-- A Silt line (10, R236): line, operation, type, valid words with their partial values, and the teams whose reductions it holds; the
list of a core's lines stands in order of use, the least recently used last. -/
structure SiltLine where
  line  : Nat
  op    : Nat
  float : Bool
  signed : Bool
  words : Tbl Word
  owners : List Nat
  deriving DecidableEq, Repr, Inhabited

/-- An accumulator tile (09, R203): the owning team, the elements that are not +0, and the poisoned elements. -/
structure Tile where
  owner   : Option Nat := none
  elems   : Tbl Word := []
  poison  : List Nat := []
  deriving DecidableEq, Repr, Inhabited

/-- An entry of the matrix queue (09, R204): an MMA (R211), an `accst` held by a fault (R223), or an `accz.rel` whose turn has not come
(R220). `stage`: it holds an A stage; `loaded`: its operands stand there, `a` the A patterns by row; `bytes` the bytes of A read from global
memory, `pages` the pages it locks. -/
structure MqEntry where
  serial : Nat := 0
  group  : Nat
  launch : Nat
  opc    : Nat
  tile   : Nat
  zero   : Bool := false
  k      : Nat := 0
  afmt   : Nat := 0
  bfmt   : Nat := 0
  scaled : Bool := false
  row    : Nat := 0
  abook  : Nat := 0
  bbook  : Nat := 0
  a      : List (List Nat) := []
  apoison : List Bool := []
  xa     : List (List Nat) := []
  xb     : List (List Nat) := []
  multiplying : Bool := false
  stage  : Bool := false
  loaded : Bool := false
  pages  : List Nat := []
  bytes  : Nat := 0
  deriving DecidableEq, Repr, Inhabited

/-- The copy forms (11, Table 11.3). -/
inductive CopyForm where
  | g2s | s2g | g2k | s2k | s2s | gat | sct
  deriving DecidableEq, Repr, Inhabited

/-- A copy command (11, R259–R265) with the word that asked for it. -/
structure CopyCmd where
  form   : CopyForm
  word   : Nat := 0
  group  : Nat
  team   : Nat
  pc     : Word
  dst    : Nat
  src    : Nat
  len    : Nat
  rl     : Nat
  index  : List Nat
  cwe    : Bool
  cw64   : Bool
  cwAddr : Nat
  cwVal  : Nat
  serial : Nat := 0
  begun  : Bool := false
  chunk  : Nat := 0
  held   : Option Nat := none
  deriving DecidableEq, Repr, Inhabited

/-- A cached translation (03, R65): both stages' leaves joined, for the smaller of their two pages, of `2 ^ shift` bytes. -/
structure TlbEntry where
  asid  : Nat
  vmid  : Nat
  shift : Nat
  page  : Nat
  pa    : Nat
  kind  : Nat
  vdn   : Nat
  w1    : Bool
  x1    : Bool
  l1    : Nat
  w2    : Bool
  x2    : Bool
  l2    : Nat
  log   : Bool
  ipa   : Nat
  deriving DecidableEq, Repr, Inhabited

/-- A table entry of level 0 to 2 that the walkers of a compute die cache (03, R65): its stage, the address space (0 for stage 2), the
VMID, its level, the address bits above those the level leaves to its next table, and the entry. -/
structure WalkEntry where
  stage  : Nat
  asid   : Nat
  vmid   : Nat
  level  : Nat
  prefix_ : Nat
  entry  : Nat
  deriving DecidableEq, Repr, Inhabited

/-- A group in the active set and the cycle it entered (04, R86, R88). -/
structure Seat where
  group : Nat
  since : Nat
  deriving DecidableEq, Repr, Inhabited

/-- A scheduler of a core (04, R86): `last` is the slot of the group that issued last, `tried` the groups that tried to issue at cycle
`triedAt` and could not; `loopBuf` holds words of the loop buffer by device physical address (05, R114); the slot sampled last is
`sampled`, and the next sample falls due at cycle `sampleAt` (17, R387). `due`: the events of rows 2 to 4 of Table 4.2 that have come about in this
cycle, each with its row and its group; they are applied in row order as the cycle ends (R88). -/
structure Sched where
  active  : List Seat := []
  pending : List Seat := []
  last    : Nat := 23
  tried   : List Nat := []
  triedAt : Nat := 0
  entry   : Nat := 0
  due     : List (Nat × Nat) := []
  loopBuf : Tbl Word := []
  sampled : Nat := 23
  sampleAt : Nat := 0
  deriving DecidableEq, Repr, Inhabited

/-- A core and what is bonded to it. `l1` holds the dirty bytes of the L1 by device physical address, `l1Poison` their poisoned words by
address / 4 (16, R373), `lines` the lines it holds, `misses` the lines whose fill is pending, both oldest first, `invals` the invalidations the home has sent it (16, R376),
`logs` the function and stage-2 address of the lines last written through a logged page (10, R237), `narrow` the lines
dirty at the latest narrow release, `holds` those for which the home names it a narrow holder (12, R275), and `spHolds` the scratchpad
words, each with its core, that it wrote while its L1 was pending (12, R272). -/
structure Core where
  split   : Nat := 0
  s0      : Sched := {}
  s1      : Sched := {}
  scratch : List Host.Cell := []
  spoison : List Nat := []
  l1      : List Host.Cell := []
  l1Poison : List Nat := []
  lines   : List Nat := []
  misses  : List Nat := []
  invals  : List Nat := []
  logs    : Tbl (Nat × Nat) := []
  narrow  : List Nat := []
  holds   : List Nat := []
  spHolds : List (Nat × Nat) := []
  silt    : List SiltLine := []
  tiles   : Tbl Tile := []
  kaolin  : List Host.Cell := []
  kpoison : List Nat := []
  slices  : Tbl (Option Nat × Bool) := []
  mq      : List MqEntry := []
  copies  : List CopyCmd := []
  icache  : Tbl (List Byte) := []
  tlb     : List TlbEntry := []
  drowsy  : List Nat := []
  issueAt : Nat := 0
  halt    : Bool := false
  csel    : Nat := 0
  deriving DecidableEq, Repr, Inhabited

/-- Leave that a group has been given and not yet used: its tokens, and the start of the window they count in (09, R213). -/
structure Leave where
  group  : Nat
  tokens : Nat
  since  : Nat
  deriving DecidableEq, Repr

/-- A cluster's power governor (09, R213): tokens granted in the window, and the requests waiting, oldest first. -/
structure Governor where
  granted : Nat := 0
  since   : Nat := 0
  waiting : List (Nat × Nat) := []
  leave   : List Leave := []
  deriving DecidableEq, Repr, Inhabited

/-! ## Host-facing registers -/

/-- A queue descriptor and its notify slot (03, Table 3.3, R51). `finals`: the indices at or above CONS whose STATUS is
final (R54); `epoch`: launches with a greater key were taken since the queue was enabled; `todo`: the records that the latest evaluation of
R53 has still to read. -/
structure Queue where
  taken    : Nat := 0
  cons     : Nat := 0
  ring     : Nat := 0
  asid     : Nat := 0
  vmid     : Nat := 0
  part     : Nat := 0
  size     : Nat := 0
  error    : Nat := 0
  prio     : Nat := 0
  devsub   : Bool := false
  enable   : Bool := false
  prod     : Nat := 0
  held     : Option Nat := none
  finals   : List Nat := []
  epoch    : Nat := 0
  todo     : Nat := 0
  deriving DecidableEq, Repr, Inhabited

/-- Where a group would stand (04, R75). -/
structure Berth where
  grpid : Nat
  core  : Nat
  sched : Nat
  units : List Nat
  deriving DecidableEq, Repr

/-- Where a team would stand (04, R74–R76, R83). -/
structure Spot where
  core   : Nat
  cores  : List Nat
  split  : Nat
  groups : List Berth
  offs   : List Nat
  len    : Nat
  deriving DecidableEq, Repr

/-- What a decision of a partition places, and where its cursor then stands (04, R77): a team never placed, an admitted head with the teams
that start with it, or an evicted team. -/
inductive Placing where
  | place (l teamid : Nat) (sp : Spot) (cursor : Nat)
  | admits (l : Nat) (sps : List Spot) (cursor : Nat)
  | restore (team : Nat) (sp : Spot) (cursor : Nat)
  deriving DecidableEq, Repr

/-- A decision whose evictions are being made: the teams that go, and what is placed once they have gone (04, R77, R79–R81). -/
structure Claim where
  gone : List Nat
  act  : Placing
  deriving DecidableEq, Repr

/-- A partition's registers and its placement state (01, R15, R22; 04, R77, R83; 03, R55; 16, R371; 17, R383). -/
structure Part where
  clusters : Nat := 0
  err      : Bool := false
  budget   : Nat := 0xFF
  pending  : Bool := false
  step     : Nat := 0
  asked    : Nat := 0
  cursor   : Nat := 0
  claim    : Option Claim := none
  last     : List Nat := [131071, 131071, 131071, 131071]
  admitted : Nat := 0
  rstGo    : Bool := false
  rstNext  : Nat := 0
  rstAuto  : Bool := false
  rstCause : Nat := 0
  rstCount : Nat := 0
  period   : Nat := 0
  deriving DecidableEq, Repr, Inhabited

/-- An address space entry (03, Table 3.4). -/
structure AsEntry where
  root  : Nat := 0
  vmid  : Nat := 0
  valid : Bool := false
  deriving DecidableEq, Repr, Inhabited

/-- A VMID entry (03, Table 3.5). -/
structure VmEntry where
  root  : Nat := 0
  func  : Nat := 0
  part  : Nat := 0
  valid : Bool := false
  deriving DecidableEq, Repr, Inhabited

/-- An address range entry (10, Table 10.2). -/
structure RangeEntry where
  limit  : Nat := 0
  base   : Nat := 0
  dramOff : Nat := 0
  keySlot : Nat := 0
  conf   : Bool := false
  part   : Nat := 0
  sliceLog : Nat := 0
  sliceBase : Nat := 0
  chLog  : Nat := 0
  chBase : Nat := 0
  stackLog : Nat := 0
  stackBase : Nat := 0
  gran   : Nat := 0
  err    : Nat := 0
  rekey  : Bool := false
  exhausted : Bool := false
  enable : Bool := false
  deriving DecidableEq, Repr, Inhabited

/-- A fault record (03, Table 3.10). -/
structure FaultRec where
  addr   : Nat := 0
  ipa    : Nat := 0
  lanes  : Nat := 0
  tag    : Nat := 0
  pc     : Nat := 0
  core   : Nat := 0
  gslot  : Nat := 0
  lane   : Nat := 0
  asid   : Nat := 0
  vmid   : Nat := 0
  seq    : Nat := 0
  level  : Nat := 15
  stage  : Nat := 0
  access : Nat := 0
  replay : Bool := false
  cause  : Nat := 0
  deriving DecidableEq, Repr, Inhabited

/-- An open write-range record (10, R237): block, first and last byte written. -/
structure OpenRange where
  block : Nat
  lo    : Nat
  hi    : Nat
  deriving DecidableEq, Repr, Inhabited

/-- The function block of one function; `vfPending`: an accepted save has still to be made (03, Table 3.2; 10, Table 10.6; 15, R344, R345; 16, R365; 17, R387–R390). -/
structure Func where
  tlbiAddr : Nat := 0
  tlbiAsid : Nat := 0
  tlbiVmid : Nat := 0
  tlbiCount : Nat := 0
  tlbiKind : Nat := 0
  tlbiErr  : Bool := false
  tlbiGo   : Bool := false
  fqBase   : Nat := 0
  fqSize   : Nat := 6
  fqAckErr : Bool := false
  fqFull   : Bool := false
  fqEnable : Bool := false
  fqProd   : Nat := 0
  fqCons   : Nat := 0
  fqSeq    : Nat := 0
  fqWait   : List FaultRec := []
  fqBlocked : Bool := false
  aperture : Nat := 0
  logBase  : Nat := 0
  logSize  : Nat := 6
  logFull  : Bool := false
  logEnable : Bool := false
  logProd  : Nat := 0
  logCons  : Nat := 0
  logOpen  : List OpenRange := []
  logQueue : List OpenRange := []
  evGo     : Bool := false
  evErr    : Bool := false
  evPark   : Bool := false
  evQueue  : Nat := 0
  evIndex  : Nat := 0
  ctxPool  : Nat := 0
  ctxPoolSz : Nat := 0
  profBase : Nat := 0
  profSize : Nat := 6
  profFull : Bool := false
  profEnable : Bool := false
  profProd : Nat := 0
  profCons : Nat := 0
  profDrop : Nat := 0
  trcBase  : Nat := 0
  trcSize  : Nat := 2
  trcGap   : Bool := false
  trcEnable : Bool := false
  trcProd  : Nat := 0
  trcCons  : Nat := 0
  trcSel0  : Nat := 0
  trcSel1  : Nat := 0
  trcSync  : Bool := false
  trcSince : Nat := 0
  trcLost  : Nat := 0
  dbgEn    : Bool := false
  dbgGo    : Bool := false
  dbgErr   : Bool := false
  dbgCmd   : Nat := 0
  dbgCore  : Nat := 0
  dbgGslot : Nat := 0
  dbgSlot  : Bool := false
  dbgLane  : Nat := 0
  dbgArg   : Nat := 0
  dbgReleased : Bool := false
  vfGo     : Bool := false
  vfErr    : Bool := false
  vfCmd    : Nat := 0
  vfState  : Nat := 0
  vfQcyc   : Nat := 0
  vfSince  : Nat := 0
  vfPending : Bool := false
  deriving DecidableEq, Repr, Inhabited

/-- The function runs or is being restored: neither quiesced, nor saved, nor on its way to that (16, R365, R366). -/
def Func.runs (f : Func) : Bool := f.vfState == 3 || (f.vfState == 0 && !f.vfGo)

/-- The function is quiesced or saved (16, R366, R367). -/
def Func.stopped (f : Func) : Bool := f.vfState == 1 || f.vfState == 2

/-! ## Faults held for the host -/

/-- What a held fault stands at (03, R71, R73). -/
inductive HeldAt where
  | group (g : Nat)
  | copy (team : Nat)
  | ring (queue : Nat)
  | dependence (launch : Nat)
  | status (launch : Nat)
  | signal (launch : Nat)
  | ancestor (launch : Nat)
  | send (pid queue : Nat)
  | target (pid page : Nat)
  | restore (team : Nat)
  deriving DecidableEq, Repr, Inhabited

/-- A held fault: the function that may acknowledge it, its number and record, and where it stands. -/
structure Held where
  func   : Nat
  seq    : Nat
  record : FaultRec
  at_    : HeldAt
  ack    : Option Nat := none
  deriving DecidableEq, Repr, Inhabited

/-! ## Base dies -/

/-- A request on its way to a base die (10, Table 10.4). Addresses are device physical. -/
inductive BdReq where
  | rd (pa : Nat) (atoms : Nat)
  | wr (cells : List Host.Cell)
  | atom (pa : Nat) (op : Nat) (float signed : Bool) (x : Word)
  | dtc (granule : Nat)
  deriving DecidableEq, Repr, Inhabited

/-- A request with its compute die (8 for the Marl engines), its stack and its 12-bit tag; none while all tags of the die and the stack
are out, so that the request has not been sent yet (10, R233). `bad`: the atoms that a write brings poisoned (16, R373). -/
structure BdPacket where
  die   : Nat := 0
  stack : Nat
  tag   : Option Nat
  req   : BdReq
  marl  : Bool := false
  bad   : List Nat := []
  deriving DecidableEq, Repr, Inhabited

/-- A base die's reply (10, Table 10.4). -/
structure BdReply where
  die    : Nat := 0
  stack  : Nat
  tag    : Nat
  data   : List Byte
  poison : List Nat
  granule : Nat
  dirty  : Bool
  marl   : Bool
  deriving DecidableEq, Repr, Inhabited

/-- A stack's Marl block (16, Tables 16.1 and 16.2) and its round (R363): the granules of the present summary bit still to visit, the
address from which the next one is looked for, the granule being copied and what is still to be read of it, the run of bytes not yet
sent with its granules, whether this pass found a dirty granule and whether a message failed; the stack's dirty granules
(channel · 2^22 + byte in the channel / 512, R361); and its scrubber's read in flight, with whether a demand write has cancelled it
(R374). -/
structure Stack where
  go     : Bool := false
  err    : Bool := false
  mode   : Nat := 0
  dstVdn : Nat := 0
  mctx   : Nat := 0
  src    : Nat := 0
  lim    : Nat := 0
  dst    : Nat := 0
  sent   : Nat := 0
  left   : Nat := 0
  dirty  : List Nat := []
  visit  : List Nat := []
  from_  : Nat := 0
  granule : Nat := 0
  reading : List (Nat × Nat) := []
  run    : Option (Nat × List Byte × List Nat) := none
  found  : Bool := false
  failed : Bool := false
  scrub  : Option (Nat × Bool) := none
  deriving DecidableEq, Repr, Inhabited

/-- Counters of one 4 KiB block of a confidential range (10, R238): major, and the minor counters that are not 0. -/
structure ConfBlock where
  major : Nat := 0
  minor : Tbl Nat := []
  deriving DecidableEq, Repr, Inhabited

/-- A line that its L2 slice holds (10, R229), with the atoms that the base die delivered poisoned. -/
structure L2Line where
  line   : Nat
  poison : List Nat := []
  deriving DecidableEq, Repr, Inhabited

/-- A recall of a lost directory entry (16, R375): the cores still to acknowledge and the cycle it began. -/
structure Recall where
  cores : List Nat
  since : Nat
  part  : Nat
  deriving DecidableEq, Repr, Inhabited

/-! ## The network engine -/

/-- A packet as sent (14, R319, R322). -/
structure SentPkt where
  pkt   : Nat
  data  : List Byte
  acked : Bool
  gen   : Nat
  at_   : Nat
  tries : Nat
  moved : Nat
  recheck : Option Nat
  deriving DecidableEq, Repr, Inhabited

/-- The lane of a load, store or atomic whose access became a network operation (14, R325). -/
structure PeerLane where
  lane   : Nat
  win    : Nat
  opc    : Nat
  fields : Fields
  slotB  : Bool
  addr   : Nat
  data   : List Word
  deriving DecidableEq, Repr, Inhabited

/-- A work request in a send queue (14, R316–R323), posted by `nwr`, made of one lane's access to a peer's page, or sent by a Marl
engine: its stack and the granules it carries (16, R363). `place`: the core and the group slot of the `nwr` (R323). `ending`: it has completed (0) or ended in an error code, and its counter
or its lane's fault is still to come. -/
structure WorkReq where
  raw     : Nat
  group   : Nat
  launch  : Nat
  pc      : Word
  serial  : Nat
  started : Bool := false
  msg     : Nat := 0
  pkts    : List SentPkt := []
  got     : List Nat := []
  stalled : Option Nat := none
  ending  : Option Nat := none
  peer    : Option PeerLane := none
  marl    : Option (Nat × List Nat) := none
  place   : Option (Nat × Nat) := none
  deriving DecidableEq, Repr, Inhabited

/-- A send queue (14, R316, R333). -/
structure SendQueue where
  reqs    : List WorkReq := []
  nextMsg : Nat := 0
  serial  : Nat := 0
  code    : Nat := 0
  errors  : Nat := 0
  deriving DecidableEq, Repr, Inhabited

/-- What the target keeps of one message (14, R320); `pages`: the pages of the faults that hold it (R321). -/
structure RxMsg where
  jobid  : Nat
  src    : Nat
  queue  : Nat
  msg    : Nat
  placed : List Nat
  total  : Nat
  counted : Bool
  refused : Bool
  slot   : Option Nat
  spot   : Nat := 0
  answer : Option Word
  pages  : List Nat := []
  deriving DecidableEq, Repr, Inhabited

/-- A network context (14, Table 14.3) with its send queues, receive state and counters. -/
structure NetCtx where
  fwdFep  : Nat := 0
  fwdPid  : Nat := 0
  rxProd  : Nat := 0
  rxBase  : Nat := 0
  rxSlot  : Nat := 0
  rxSize  : Nat := 0
  jobid   : Nat := 0
  selfVdn : Nat := 0
  asid    : Nat := 0
  state   : Nat := 0
  valid   : Bool := false
  armedAt : Nat := 0
  queues  : Tbl SendQueue := []
  rx      : List RxMsg := []
  ctrs    : Tbl Nat := []
  chain   : Chain := {}
  deriving DecidableEq, Repr, Inhabited

/-- A VDN entry (14, Table 14.2): the words the host writes, and the entry as last committed (R313). -/
structure VdnEntry where
  fep   : Nat := 0
  jobid : Nat := 0
  pid   : Nat := 0
  ports : Nat := 0
  gen   : Nat := 0
  vmid  : Nat := 0
  valid : Bool := false
  cFep  : Nat := 0
  cJob  : Nat := 0
  cPid  : Nat := 0
  cPorts : Nat := 0
  deriving DecidableEq, Repr, Inhabited

/-! ## What the package sends out -/

/-- An answer that arrives for a request and that its context's new home is to have (14, R326). -/
inductive Answer where
  | ack (a : NetAck)
  | resp (r : NetResponse)
  | notReady (queue msg pkt : Nat)
  | moved (queue msg pkt : Nat)
  deriving DecidableEq, Repr, Inhabited

/-- What leaves the package, oldest first. -/
inductive Out where
  | msix (func vector : Nat)
  | management (cause : Nat)
  | hostRead (data : List Byte)
  | spdm (body : List Byte) (signature : Nat)
  | packet (port fep : Nat) (p : NetPacket)
  | ackOut (port src : Nat) (jobid : Nat) (a : NetAck)
  | respOut (port src : Nat) (jobid : Nat) (r : NetResponse)
  | notReady (port src queue msg pkt : Nat)
  | moved (port src queue msg pkt : Nat)
  | sentOn (port fep pid : Nat) (a : Answer)
  deriving DecidableEq, Repr, Inhabited

/-- The root of trust (01, R24, R25): the flash image's components, its signature and version, whether the firmware
runs or the package is in recovery mode, and the measurements of its components. -/
structure Root where
  flash    : List (List Byte) := []
  version  : Nat := 0
  running  : Bool := false
  recovery : Bool := false
  measured : List Nat := []
  draws    : Nat := 0
  deriving DecidableEq, Repr, Inhabited

/-- A record that waits to be signed and appended to the report ring (17, R385, R386); `go`: 1 for one that RPT_CMD asked
for, 2 for one of JOB_CMD. -/
structure ReportReq where
  kind   : Nat
  final  : Bool
  launch : Nat
  pid    : Nat
  vmid   : Nat
  ctrs   : Tbl Nat
  words  : List Nat := []
  go     : Nat := 0
  deriving DecidableEq, Repr, Inhabited

/-- Registers of the package that stand alone, and by die the corrected errors it has counted: compute dies 0 to 7, base dies from 8 on (16,
R373): THERM_CTL (01, Table 1.5), NET_CTL (14, Table 14.1), the error log
(16, R378), the scrubber (R374), the metering block (17, R383) and WSTAT (17, Table 17.6). -/
structure PkgRegs where
  temp     : Nat := 0
  tripC    : Nat := 0x69
  tripped  : Bool := false
  tripEn   : Bool := true
  movedMax : Nat := 8
  rtoUs    : Nat := 100
  retryMax : Nat := 16
  errBase  : Nat := 0
  errSize  : Nat := 6
  errCe    : Bool := false
  errLost  : Bool := false
  errEnable : Bool := false
  errProd  : Nat := 0
  errCons  : Nat := 0
  errSeq   : Nat := 0
  ceCount  : Nat := 0
  dieCe    : Tbl Nat := []
  scrubDays : Nat := 1
  rptBase  : Nat := 0
  rptSize  : Nat := 4
  rptFull  : Bool := false
  rptEnable : Bool := false
  rptProd  : Nat := 0
  rptCons  : Nat := 0
  rptGo    : Bool := false
  rptErr   : Bool := false
  rptCmd   : Nat := 0
  jobGo    : Bool := false
  jobErr   : Bool := false
  jobPid   : Nat := 0
  rptWait  : List ReportReq := []
  notifyDrop : Nat := 0
  signed   : Nat := 0
  notHalted : Bool := false
  sprayed : Nat := 0
  deriving DecidableEq, Repr, Inhabited

/-- The machine. `mem`: the bytes of enabled ranges by device physical address; `cold`: what lies in the storage of no enabled range, by
place, each a byte and the key it is encrypted under (10, R231, R232, R238); `l2`: the lines of each L2 slice, the oldest first (R229).
`atomFlipped`: atoms with a correctable error; `atomBad`: atoms with an uncorrectable one that no read has met yet;
`atomPoison`: atoms marked poisoned; `macBad`: 64 B chunks whose MAC or tree check fails (10, R238; 16, R373). `treeCount`: per confidential range the writes that its integrity tree
has counted since the range was keyed, in place of the tree's node counters (10, R238). `agenda` says who moves next, `tick` how many free turns were drawn, `now` how many core cycles have
passed; `savedQueues`: the queues as a save left them (16, R367); `cur` and `curB` name the group and slot that issue, `focus` the place of the event that comes about. -/
structure State where
  agenda   : List Turn := []
  tick     : Nat := 0
  now      : Nat := 0
  cur      : Nat := 0
  curB     : Bool := false
  focus    : Nat := 0
  mem      : List Host.Cell := []
  cold     : Tbl (Nat × Byte) := []
  l2       : Tbl (List L2Line) := []
  bdq      : List BdPacket := []
  replies  : List BdReply := []
  atomPoison : List Nat := []
  atomFlipped : List Nat := []
  atomBad  : List Nat := []
  macBad   : List Nat := []
  confs    : Tbl ConfBlock := []
  treeCount : Tbl Nat := []
  recalls  : Tbl Recall := []
  dies     : Tbl Stack := []
  root     : Root := {}
  pkg      : PkgRegs := {}
  parts    : Tbl Part := []
  clusters : Tbl Governor := []
  ctlb     : Tbl (List TlbEntry) := []
  walkers  : Tbl (List WalkEntry) := []
  ranges   : Tbl RangeEntry := []
  keys     : Tbl Nat := []
  spaces   : Tbl AsEntry := []
  vmids    : Tbl VmEntry := []
  vdns     : Tbl VdnEntry := []
  nets     : Tbl NetCtx := []
  funcs    : Tbl Func := []
  queues   : Tbl Queue := []
  launches : Tbl Launch := []
  teams    : Tbl Team := []
  groups   : Tbl Group := []
  cores    : Tbl Core := []
  saved    : Tbl SavedCore := []
  savedCopies : Tbl (List CopyCmd) := []
  savedQueues : Tbl Queue := []
  lockq    : Tbl (List Nat) := []
  held     : List Held := []
  out      : List Out := []
  serial   : Nat := 0
  deriving DecidableEq, Repr, Inhabited

/-- What stops the machine: nothing. Every condition the spec describes is a trap, a held fault, an error code or a
refusal in a status register, and the machine goes on with it. No meaning raises one, so the question of safe or
unsafe does not arise. -/
inductive Fault where
  deriving DecidableEq, Repr

/-- Why an instruction has no meaning. -/
inductive Refusal where
  /-- The instruction has no meaning yet. Raised by an arm of `exec` alone. Safe: nothing can be proved of a run past
  it. -/
  | notModelled (mnemonic : String)
  deriving DecidableEq, Repr

/-- The machine right after reset (each field's rule stands in INVENTORY.md): every register at the default of its
structure, memory with nothing listed, no partition formed, no work resident, the firmware not yet started. -/
def State.reset : State := {}

end Sys2Proof.Machine
end

