-- ==== Sys2Proof/Machine/Codec.lean ====
section
/-! DEFINITION. Plain data as 32-bit words and back: the parts of a context image to which R346 to R348 give no form (15; log 30). -/

namespace Sys2Proof.Machine

/-- How values of a type are written as words, and read back from the front of some words. -/
structure Codec (α : Type) where
  put : α → List Nat
  get : List Nat → Option (α × List Nat)

namespace Codec

/-- A number: how many words, then the words, lowest first. -/
def nat : Codec Nat where
  put n := let k := if n = 0 then 0 else Nat.log2 n / 32 + 1
           k :: (List.range k).map fun i => n / 2 ^ (32 * i) % 2 ^ 32
  get
    | [] => none
    | k :: ws => if ws.length < k then none else some ((ws.take k).foldr (fun w acc => w + 2 ^ 32 * acc) 0, ws.drop k)

/-- The same words for another type. -/
def map {α β : Type} (c : Codec α) (f : α → β) (g : β → α) : Codec β where
  put x := c.put (g x)
  get ws := (c.get ws).map fun r => (f r.1, r.2)

/-- One value and then another. -/
def and {α β : Type} (a : Codec α) (b : Codec β) : Codec (α × β) where
  put x := a.put x.1 ++ b.put x.2
  get ws := (a.get ws).bind fun r => (b.get r.2).map fun t => ((r.1, t.1), t.2)

/-- A value that may be absent. -/
def opt {α : Type} (c : Codec α) : Codec (Option α) where
  put
    | none => [0]
    | some x => 1 :: c.put x
  get
    | [] => none
    | k :: ws => if k = 0 then some (none, ws) else (c.get ws).map fun r => (some r.1, r.2)

/-- `n` values. -/
def getN {α : Type} (c : Codec α) : Nat → List Nat → Option (List α × List Nat)
  | 0, ws => some ([], ws)
  | n + 1, ws => (c.get ws).bind fun r => (getN c n r.2).map fun t => (r.1 :: t.1, t.2)

/-- A list: its length, then its values. -/
def list {α : Type} (c : Codec α) : Codec (List α) where
  put xs := xs.length :: xs.flatMap c.put
  get
    | [] => none
    | n :: ws => if ws.length < n then none else c.getN n ws

def bool : Codec Bool := nat.map (· != 0) b2n
def bits (w : Nat) : Codec (BitVec w) := nat.map (BitVec.ofNat w) BitVec.toNat
def tbl {α : Type} (c : Codec α) : Codec (Tbl α) := list (nat.and c)
def nats : Codec (List Nat) := list nat
def pairs : Codec (List (Nat × Nat)) := list (nat.and nat)
def words : Codec (List Word) := list (bits 32)

/-! ## The structures that groups, teams and requests are made of -/

def fields : Codec Fields := (bits 96).map fieldsOf (wordBits 0)

def value : Codec Value :=
  (bool.and (words.and (bits 96))).map (fun (a, b, c) => ⟨a, b, c⟩) fun x => (x.vec, x.vals, x.poison)

def dname : Codec DName :=
  (nat.and nat).map (fun (t, n) => match t with | 0 => .v n | 1 => .s n | 2 => .p n | _ => .special n)
    fun | .v n => (0, n) | .s n => (1, n) | .p n => (2, n) | .special n => (3, n)

def dest : Codec WinDest :=
  (dname.and ((bits 96).and (words.and (bits 96)))).map (fun (a, b, c, d) => ⟨a, b, c, d⟩) fun x => (x.name, x.lanes, x.vals, x.poison)

def window : Codec Window :=
  (nat.and ((opt nat).and ((opt nat).and (bool.and ((bits 96).and ((list dest).and (nats.and (bool.and (pairs.and (nat.and (bits 96))))))))))).map
    (fun (opc, remA, remB, done, held, dests, frees, frozen, tally, id, pend) => ⟨opc, remA, remB, done, held, dests, frees, frozen, tally, id, pend⟩)
    fun x => (x.opc, x.remA, x.remB, x.done, x.held, x.dests, x.frees, x.frozen, x.tally, x.id, x.pend)

def replayLane : Codec ReplayLane := (nat.and (nat.and words)).map (fun (a, b, c) => ⟨a, b, c⟩) fun x => (x.lane, x.addr, x.data)

def capture : Codec Capture := (bool.and ((bits 96).and (tbl value))).map (fun (a, b, c) => ⟨a, b, c⟩) fun x => (x.slotB, x.act, x.vals)

def replay : Codec Replay :=
  (nat.and (fields.and ((bits 32).and (bool.and (bool.and (nat.and ((list replayLane).and (nat.and (pairs.and ((opt capture).and bool)))))))))).map
    (fun (opc, f, pc, b, whole, seq, lanes, win, tally, capture, resumed) => ⟨opc, f, pc, b, whole, seq, lanes, win, tally, capture, resumed⟩)
    fun x => (x.opc, x.fields, x.pc, x.slotB, x.whole, x.seq, x.lanes, x.win, x.tally, x.capture, x.resumed)

def trapInfo : Codec TrapInfo :=
  (nat.and (nat.and (nat.and (nat.and ((bits 32).and ((bits 32).and (nat.and ((bits 96).and (bool.and (bool.and bool)))))))))).map
    (fun (code, field, cause, access, pc, info, addr, mask, b, async, atPc) => ⟨code, field, cause, access, pc, info, addr, mask, b, async, atPc⟩)
    fun x => (x.code, x.field, x.cause, x.access, x.pc, x.info, x.addr, x.mask, x.slotB, x.async, x.atPc)

def waita : Codec WaitaWait :=
  (bool.and (nat.and (nat.and (bool.and (bool.and (nat.and (nat.and (nat.and bool)))))))).map
    (fun (sp, addr, place, notify, wide, cond, cmp, timeout, woken) => ⟨sp, addr, place, notify, wide, cond, cmp, timeout, woken⟩)
    fun x => (x.sp, x.addr, x.place, x.notify, x.wide, x.cond, x.cmp, x.timeout, x.woken)

/-- A holding by its virtual addresses alone: its places are found again (15, R346). -/
def holding : Codec Holding := (nat.and pairs).map (fun (r, rs) => { record := r, ranges := rs }) fun x => (x.record, x.ranges)

def wait : Codec Wait :=
  (nat.and (nat.and (bool.and ((opt waita).and (opt holding))))).map
    (fun (t, n, p, w, h) => match t with
      | 0 => .none | 1 => .barrier n p | 2 => .barrierNext n | 3 => .gbar | 4 => .waita (w.getD default) | 5 => .lock (h.getD default)
      | 6 => .resample | 7 => .fault n | 8 => .dormant | 9 => .alloc | 10 => .mma | 11 => .again | _ => .nfence (if p then some n else none))
    fun
      | .none => (0, 0, false, none, none) | .barrier n p => (1, n, p, none, none) | .barrierNext n => (2, n, false, none, none)
      | .gbar => (3, 0, false, none, none) | .waita w => (4, 0, false, some w, none) | .lock h => (5, 0, false, none, some h)
      | .resample => (6, 0, false, none, none) | .fault n => (7, n, false, none, none) | .dormant => (8, 0, false, none, none)
      | .alloc => (9, 0, false, none, none) | .mma => (10, 0, false, none, none) | .again => (11, 0, false, none, none)
      | .nfence q => (12, q.getD 0, q.isSome, none, none)

def entryKind : Codec EntryKind :=
  nat.map (fun | 0 => .pending | 1 => .join | _ => .ret) fun | .pending => 0 | .join => 1 | .ret => 2

def faultRec : Codec FaultRec :=
  (nat.and (nat.and (nat.and (nat.and (nat.and (nat.and (nat.and (nat.and (nat.and (nat.and (nat.and (nat.and (nat.and (nat.and (bool.and nat))))))))))))))).map
    (fun (addr, ipa, lanes, tag, pc, core, gslot, lane, asid, vmid, seq, level, stage, access, replay, cause) =>
      ⟨addr, ipa, lanes, tag, pc, core, gslot, lane, asid, vmid, seq, level, stage, access, replay, cause⟩)
    fun x => (x.addr, x.ipa, x.lanes, x.tag, x.pc, x.core, x.gslot, x.lane, x.asid, x.vmid, x.seq, x.level, x.stage, x.access, x.replay, x.cause)

def heldAt : Codec HeldAt :=
  (nat.and (nat.and nat)).map
    (fun (t, a, b) => match t with
      | 0 => .group a | 1 => .copy a | 2 => .ring a | 3 => .dependence a | 4 => .status a | 5 => .signal a | 6 => .ancestor a | 7 => .send a b
      | 8 => .target a b | _ => .restore a)
    fun
      | .group a => (0, a, 0) | .copy a => (1, a, 0) | .ring a => (2, a, 0) | .dependence a => (3, a, 0) | .status a => (4, a, 0)
      | .signal a => (5, a, 0) | .ancestor a => (6, a, 0) | .send a b => (7, a, b) | .target a b => (8, a, b) | .restore a => (9, a, 0)

def held : Codec Held :=
  (nat.and (nat.and (faultRec.and (heldAt.and (opt nat))))).map (fun (f, n, r, p, a) => ⟨f, n, r, p, a⟩) fun x => (x.func, x.seq, x.record, x.at_, x.ack)

def arrival : Codec Arrival :=
  (nat.and ((bits 32).and (bool.and (nat.and (tbl nat))))).map (fun (t, pc, anc, a, ws) => ⟨t, pc, anc, a, ws⟩)
    fun x => (x.target, x.pc, x.anc, x.address, x.weights)

/-- A packet without its data, which are read again (log 97). -/
def sentPkt : Codec SentPkt :=
  (nat.and (bool.and (nat.and (nat.and (nat.and (nat.and (opt nat))))))).map
    (fun (pkt, acked, gen, at_, tries, moved, re) => ⟨pkt, [], acked, gen, at_, tries, moved, re⟩)
    fun x => (x.pkt, x.acked, x.gen, x.at_, x.tries, x.moved, x.recheck)

def peerLane : Codec PeerLane :=
  (nat.and (nat.and (nat.and (fields.and (bool.and (nat.and words)))))).map (fun (l, w, o, f, b, a, d) => ⟨l, w, o, f, b, a, d⟩)
    fun x => (x.lane, x.win, x.opc, x.fields, x.slotB, x.addr, x.data)

/-- A request: its packets, what it has got and where it stands. Its 64 B stand in the image, its group by number (15, R346). -/
def workReq : Codec WorkReq :=
  (nat.and (nat.and ((bits 32).and (nat.and (bool.and (nat.and ((list sentPkt).and (nats.and ((opt nat).and ((opt nat).and ((opt peerLane).and
      (opt (nat.and nat))))))))))))).map
    (fun (raw, group, pc, serial, started, msg, pkts, got, stalled, ending, peer, place) =>
      { raw := raw, group := group, launch := 0, pc := pc, serial := serial, started := started, msg := msg, pkts := pkts, got := got,
        stalled := stalled, ending := ending, peer := peer, place := place })
    fun x => (x.raw, x.group, x.pc, x.serial, x.started, x.msg, x.pkts, x.got, x.stalled, x.ending, x.peer, x.place)

def rxMsg : Codec RxMsg :=
  (nat.and (nat.and (nat.and (nat.and (nats.and (nat.and (bool.and (bool.and ((opt nat).and (nat.and ((opt (bits 32)).and nats))))))))))).map
    (fun (job, src, q, msg, placed, total, counted, refused, slot, spot, answer, pages) =>
      ⟨job, src, q, msg, placed, total, counted, refused, slot, spot, answer, pages⟩)
    fun x => (x.jobid, x.src, x.queue, x.msg, x.placed, x.total, x.counted, x.refused, x.slot, x.spot, x.answer, x.pages)

def stage : Codec Stage :=
  (nat.and nat).map
    (fun (t, n) => match t with
      | 0 => .taken (n != 0) | 1 => .waiting | 2 => .eligible | 3 => .offered | 4 => .admitted | 5 => .finishing n | _ => .final n)
    fun
      | .taken r => (0, b2n r) | .waiting => (1, 0) | .eligible => (2, 0) | .offered => (3, 0) | .admitted => (4, 0) | .finishing n => (5, n)
      | .final n => (6, n)

def finalStep : Codec FinalStep :=
  nat.map (fun | 0 => .report | 1 => .status | 2 => .signal | _ => .done) fun | .report => 0 | .status => 1 | .signal => 2 | .done => 3

end Codec

/-- Bytes of a value in a codec, after how many words it takes. -/
def tailBytes {α : Type} (c : Codec α) (x : α) : List Byte := let ws := c.put x; toBytes 4 ws.length ++ ws.flatMap (toBytes 4)

/-- The words of some bytes. -/
def wordsOfBytes : List Byte → List Nat
  | a :: b :: c :: d :: bs => ofBytes [a, b, c, d] :: wordsOfBytes bs
  | _ => []

/-- A value in a codec, from the front of some bytes. -/
def readTail {α : Type} (c : Codec α) (bs : List Byte) : Option α :=
  let n := ofBytes (bs.take 4)
  if bs.length < 4 + 4 * n then none else (c.get (wordsOfBytes ((bs.drop 4).take (4 * n)))).map Prod.fst

end Sys2Proof.Machine
end

