-- ==== Sys2Proof/Machine/Float.lean ====
section
/-! DEFINITION. Number formats and rounding (07): exact values, `round_mode`, and the floating operations on patterns. -/

namespace Sys2Proof.Float

/-- Rounding modes (07, Table 7.6). -/
inductive Mode where
  | rne | rz | rdn | rup
  deriving DecidableEq, Repr

/-- The mode of a 2-bit RM field. -/
def Mode.ofBits : Nat → Mode
  | 0 => .rne
  | 1 => .rz
  | 2 => .rdn
  | _ => .rup

/-- The exact value of a pattern: NaN, an infinity, or ±man·2^exp, a zero keeping its sign (07, R152). -/
inductive FVal where
  | nan
  | inf (neg : Bool)
  | fin (neg : Bool) (man : Nat) (exp : Int)
  deriving DecidableEq, Repr, Inhabited

/-- A floating format (07, Table 7.3): field widths, bias, the pattern of the largest finite magnitude, and its special
patterns. `nanPat` is the canonical NaN (Table 7.5); E2M1, which has none, takes +0 (R159). -/
structure Format where
  ebits  : Nat
  mbits  : Nat
  bias   : Nat
  maxPat : Nat
  ieee   : Bool
  nanPat : Nat
  deriving DecidableEq, Repr

def f32 : Format := { ebits := 8, mbits := 23, bias := 127, maxPat := 0x7F7FFFFF, ieee := true, nanPat := 0x7FC00000 }
def bf16 : Format := { ebits := 8, mbits := 7, bias := 127, maxPat := 0x7F7F, ieee := true, nanPat := 0x7FC0 }
def f16 : Format := { ebits := 5, mbits := 10, bias := 15, maxPat := 0x7BFF, ieee := true, nanPat := 0x7E00 }
def e4m3 : Format := { ebits := 4, mbits := 3, bias := 7, maxPat := 0x7E, ieee := false, nanPat := 0x7F }
def e5m2 : Format := { ebits := 5, mbits := 2, bias := 15, maxPat := 0x7B, ieee := true, nanPat := 0x7E }
def e2m1 : Format := { ebits := 2, mbits := 1, bias := 1, maxPat := 0x7, ieee := false, nanPat := 0 }

/-- The format of a type code of Table 5.2. -/
def ofType : Nat → Format
  | 0x8 => f32
  | 0x9 => bf16
  | 0xA => f16
  | 0xB => e4m3
  | 0xC => e5m2
  | _ => e2m1

/-- Width in bits. -/
def Format.width (f : Format) : Nat := 1 + f.ebits + f.mbits

/-- Overflow saturates in every mode (07, Table 7.7, second row). -/
def Format.saturates (f : Format) : Bool := decide (f.width ≤ 8)

/-- The value of a pattern (07, R151, R152). -/
def value (f : Format) (x : Nat) : FVal :=
  let neg := bitOf x (f.width - 1)
  let e := bitsOf x (f.width - 2) f.mbits
  let m := x % 2 ^ f.mbits
  if f.ieee && e == 2 ^ f.ebits - 1 then if m == 0 then .inf neg else .nan
  else if f == e4m3 && x % 128 == 127 then .nan
  else if e == 0 then .fin neg m (1 - (f.bias : Int) - f.mbits)
  else .fin neg (2 ^ f.mbits + m) ((e : Int) - f.bias - f.mbits)

/-- A sign on a magnitude pattern. -/
def signed (f : Format) (neg : Bool) (mag : Nat) : Nat := mag + b2n neg * 2 ^ (f.width - 1)

/-- The result of an overflow (07, Table 7.7). -/
def overflow (f : Format) (mode : Mode) (neg : Bool) : Nat :=
  let toInf := !f.saturates && (match mode with | .rne => true | .rz => false | .rdn => neg | .rup => !neg)
  signed f neg (if toInf then f.maxPat + 1 else f.maxPat)

/-- Whether a truncated magnitude steps up: `rem` of `2^k` was dropped, and something below it where `sticky`. -/
def roundsUp (mode : Mode) (neg odd : Bool) (rem k : Nat) (sticky : Bool) : Bool :=
  let some := rem != 0 || sticky
  match mode with
  | .rne => decide (2 ^ k < 2 * rem) || (2 * rem == 2 ^ k && (sticky || odd))
  | .rz => false
  | .rdn => neg && some
  | .rup => !neg && some

/-- `round_mode` of ±man·2^exp, or of a value strictly between that and ±(man+1)·2^exp where `sticky` (07, R157). A
zero takes the sign given. Where `sticky`, the caller gives enough bits that the quantum exceeds 2^exp. -/
def round (mode : Mode) (f : Format) (neg : Bool) (man : Nat) (exp : Int) (sticky : Bool := false) : Nat :=
  if man == 0 && !sticky then signed f neg 0
  else
    let top : Int := exp + Nat.log2 man
    let emin : Int := 1 - f.bias
    let q : Int := max top emin - f.mbits
    let n :=
      if q ≤ exp then man * 2 ^ (exp - q).toNat
      else
        let k := (q - exp).toNat
        let t := man >>> k
        if roundsUp mode neg (t % 2 == 1) (man % 2 ^ k) k sticky then t + 1 else t
    let (n, q) := if n == 2 ^ (f.mbits + 1) then (2 ^ f.mbits, q + 1) else (n, q)
    let mag := if n < 2 ^ f.mbits then n else ((q + f.mbits + f.bias).toNat) * 2 ^ f.mbits + (n - 2 ^ f.mbits)
    if f.maxPat < mag then overflow f mode neg else signed f neg mag

/-- `round_mode` of a value; a NaN is the canonical NaN, an infinity keeps its sign or saturates (07, R153, R159). -/
def roundVal (mode : Mode) (f : Format) : FVal → Nat
  | .nan => f.nanPat
  | .inf neg => if f.saturates && f.width == 8 && f.ieee then signed f neg (f.maxPat + 1)
                else if f.saturates then signed f neg f.maxPat else signed f neg (f.maxPat + 1)
  | .fin neg man exp => round mode f neg man exp

/-- ±man as an integer. -/
def toInt (neg : Bool) (man : Nat) : Int := if neg then -(man : Int) else man

/-- Two exact values on the smaller exponent. -/
def align (n1 : Bool) (m1 : Nat) (e1 : Int) (n2 : Bool) (m2 : Nat) (e2 : Int) : Int × Int × Int :=
  let e := min e1 e2
  (toInt n1 (m1 * 2 ^ (e1 - e).toNat), toInt n2 (m2 * 2 ^ (e2 - e).toNat), e)

/-- The exact sum, an exact zero signed by R158. -/
def add (mode : Mode) : FVal → FVal → FVal
  | .nan, _ => .nan
  | _, .nan => .nan
  | .inf a, .inf b => if a = b then .inf a else .nan
  | .inf a, _ => .inf a
  | _, .inf b => .inf b
  | .fin n1 m1 e1, .fin n2 m2 e2 =>
    let (x, y, e) := align n1 m1 e1 n2 m2 e2
    let s := x + y
    if s = 0 then
      if m1 == 0 && m2 == 0 && n1 == n2 then .fin n1 0 0 else .fin (mode == .rdn) 0 0
    else .fin (decide (s < 0)) s.natAbs e

/-- The same value with the other sign. -/
def neg : FVal → FVal
  | .nan => .nan
  | .inf a => .inf (!a)
  | .fin n m e => .fin (!n) m e

/-- The exact product; 0 × ∞ is NaN (08, R184). -/
def mul : FVal → FVal → FVal
  | .nan, _ => .nan
  | _, .nan => .nan
  | .inf a, .inf b => .inf (xor a b)
  | .inf a, .fin n m _ => if m = 0 then .nan else .inf (xor a n)
  | .fin n m _, .inf a => if m = 0 then .nan else .inf (xor a n)
  | .fin n1 m1 e1, .fin n2 m2 e2 => .fin (xor n1 n2) (m1 * m2) (e1 + e2)

/-- The exact x·y + z (08, R184). -/
def fma (mode : Mode) (x y z : FVal) : FVal := add mode (mul x y) z

/-- The pattern is a NaN of the format. -/
def isNan (f : Format) (x : Nat) : Bool := value f x == .nan

/-- x < y, x = y as numbers; none where either is a NaN (08, R186). -/
def compare : FVal → FVal → Option Ordering
  | .nan, _ => none
  | _, .nan => none
  | .inf a, .inf b => some (if a = b then .eq else if a then .lt else .gt)
  | .inf a, _ => some (if a then .lt else .gt)
  | _, .inf b => some (if b then .gt else .lt)
  | .fin n1 m1 e1, .fin n2 m2 e2 =>
    let (x, y, _) := align n1 m1 e1 n2 m2 e2
    some (Ord.compare x y)

/-- fadd on patterns of `f` (08, R184). -/
def addPat (mode : Mode) (f : Format) (a b : Nat) : Nat := roundVal mode f (add mode (value f a) (value f b))
/-- fsub (08, R184). -/
def subPat (mode : Mode) (f : Format) (a b : Nat) : Nat := roundVal mode f (add mode (value f a) (neg (value f b)))
/-- fmul (08, R184). -/
def mulPat (mode : Mode) (f : Format) (a b : Nat) : Nat := roundVal mode f (mul (value f a) (value f b))
/-- ffma (08, R184). -/
def fmaPat (mode : Mode) (f : Format) (a b c : Nat) : Nat :=
  roundVal mode f (fma mode (value f a) (value f b) (value f c))

/-- Strictly less, with −0 below +0 (08, R185). -/
def lessPat (f : Format) (a b : Nat) : Bool :=
  match compare (value f a) (value f b) with
  | some .lt => true
  | some .eq => bitOf a (f.width - 1) && !bitOf b (f.width - 1)
  | _ => false

/-- minimumNumber (08, R185). -/
def minPat (f : Format) (a b : Nat) : Nat :=
  if isNan f a then if isNan f b then f.nanPat else b
  else if isNan f b then a
  else if lessPat f b a then b else a

/-- maximumNumber (08, R185). -/
def maxPat (f : Format) (a b : Nat) : Nat :=
  if isNan f a then if isNan f b then f.nanPat else b
  else if isNan f b then a
  else if lessPat f a b then b else a

/-- The condition codes of Table 8.7. -/
def condPat (f : Format) (cc a b : Nat) : Bool :=
  match cc, compare (value f a) (value f b) with
  | 0, o => o == some .eq
  | 1, o => o != some .eq
  | 2, o => o == some .lt
  | 3, o => o == some .lt || o == some .eq
  | 4, o => o == some .gt
  | 5, o => o == some .gt || o == some .eq
  | 6, o => o.isSome
  | _, o => o.isNone

/-- ±man·2^exp to an integer by mode, as a magnitude. -/
def integral (mode : Mode) (neg : Bool) (man : Nat) (exp : Int) : Nat :=
  if 0 ≤ exp then man * 2 ^ exp.toNat
  else
    let k := (-exp).toNat
    let t := man >>> k
    if roundsUp mode neg (t % 2 == 1) (man % 2 ^ k) k false then t + 1 else t

/-- fround (08, R184): the sign is kept. -/
def roundPat (mode : Mode) (f : Format) (a : Nat) : Nat :=
  match value f a with
  | .nan => f.nanPat
  | .inf _ => a
  | .fin neg man exp => if 0 ≤ exp then a else round .rne f neg (integral mode neg man exp) 0

/-- fclass (08, Table 8.8). -/
def classPat (a : Nat) : Nat :=
  let neg := bitOf a 31
  let e := bitsOf a 30 23
  let m := a % 2 ^ 23
  if e == 255 then
    if m == 0 then (if neg then 1 else 0x80) else (if bitOf a 22 then 0x200 else 0x100)
  else if e == 0 then
    if m == 0 then (if neg then 8 else 0x10) else (if neg then 4 else 0x20)
  else if neg then 2 else 0x40

/-- A conversion between floating formats (07, R159). -/
def convert (mode : Mode) (g f : Format) (a : Nat) : Nat := roundVal mode f (value g a)

/-- A conversion from an integer (07, R159). -/
def ofInt (mode : Mode) (f : Format) (x : Int) : Nat := round mode f (decide (x < 0)) x.natAbs 0

/-- `cvt_f2i` (07, R160): the integer and whether SAT is set. -/
def toInteger (mode : Mode) (v : FVal) (lo hi : Int) : Int × Bool :=
  match v with
  | .nan => (0, true)
  | .inf neg => (if neg then lo else hi, true)
  | .fin neg man exp =>
    let n := toInt neg (integral mode neg man exp)
    if n < lo then (lo, true) else if hi < n then (hi, true) else (n, false)

/-- ⌊log₂⌋ of a positive value. -/
def floorLog (man : Nat) (exp : Int) : Int := exp + Nat.log2 man

/-! ## Quantisation (07, R167, R168) -/

/-- `emax` of R167. -/
def emax (f : Format) : Int := if f == e4m3 then 8 else if f == e5m2 then 15 else 2

/-- `mx_scale` (07, R167) of FP32 patterns. -/
def mxScale (vs : List Nat) (f : Format) : Nat :=
  let vals := vs.map (value f32)
  if vals.any (fun v => match v with | .fin .. => false | _ => true) then 0xFF
  else
    let logs := vals.filterMap fun v => match v with | .fin _ m e => if m = 0 then none else some (floorLog m e) | _ => none
    match logs with
    | [] => 0
    | l :: ls => (max (min (ls.foldl max l - emax f) 127) (-127) + 127).toNat

/-- One element divided by the scale 2^(x − 127). -/
def scaled (v x : Nat) : FVal :=
  match value f32 v with
  | .fin n m e => .fin n m (e - ((x : Int) - 127))
  | w => w

/-- The quantised element (07, R168). -/
def quantElem (f : Format) (x v : Nat) : Nat := if x = 0xFF then 0 else roundVal .rne f (scaled v x)

/-- Nonzero elements that quantise to a zero (07, R168). -/
def underflows (f : Format) (x : Nat) (vs : List Nat) : Nat :=
  if x = 0xFF then 0
  else (vs.filter fun v => v % 2 ^ 31 != 0 && quantElem f x v % 2 ^ (f.width - 1) == 0).length

/-- Elements above the largest finite value (07, R168). -/
def saturations (f : Format) (x : Nat) (vs : List Nat) : Nat :=
  if x = 0xFF then 0
  else (vs.filter fun v =>
    match scaled v x, value f f.maxPat with
    | .fin _ m e, .fin _ M E => compare (.fin false m e) (.fin false M E) == some .gt
    | _, _ => false).length

/-! ## The fixed matrix order (07, R164, R165) -/

/-- A block's exact sum: NaN, an infinity, or an exact value; an exact zero is −0 only when every product is −0. -/
def blockSum (ps : List FVal) : FVal :=
  if ps.all (fun p => match p with | .fin true 0 _ => true | _ => false) then .fin true 0 0
  else ps.foldl (add .rne) (.fin false 0 0)

/-- A subnormal FP32 pattern. -/
def isSub (x : Nat) : Bool := bitsOf x 30 23 == 0 && x % 2 ^ 23 != 0

/-- An accumulator step of R164: the new pattern and how many results were flushed. `scale` is the product of the two
scales as a power of two, none for a NaN scale. -/
def accStep (acc : Nat) (s : FVal) (scale : Option Int) : Nat × Nat :=
  let s := match scale, s with
    | none, _ => FVal.nan
    | some k, .fin n m e => .fin n m (e + k)
    | some _, v => v
  let r := roundVal .rne f32 s
  let (r, c1) := if isSub r then (r / 2 ^ 31 * 2 ^ 31, 1) else (r, 0)
  let t := addPat .rne f32 acc r
  if isSub t then (t / 2 ^ 31 * 2 ^ 31, c1 + 1) else (t, c1)

end Sys2Proof.Float
end

