-- ==== Sys2Proof/Machine/Special.lean ====
section
/-! DEFINITION. The special functions (08, R189, R190). `rcp`, `rsqrt` and `sqrt` round the exact value by integer
division and root. `exp2`, `log2`, `sin` and `cos` round a fixed-point value with far more fraction bits than FP32
needs to be told from every rounding boundary (log 12). -/

namespace Sys2Proof.Float

/-- ⌊√n⌋ for n below 2^(2·k), found bit by bit from bit k − 1. -/
def isqrtFrom (n : Nat) : Nat → Nat → Nat
  | 0, r => r
  | k + 1, r => isqrtFrom n k (if (r + 2 ^ k) * (r + 2 ^ k) ≤ n then r + 2 ^ k else r)

/-- ⌊√n⌋. -/
def isqrt (n : Nat) : Nat := isqrtFrom n (Nat.log2 n / 2 + 1) 0

/-- 1/x rounded (08, R189, Table 8.11). -/
def rcp (mode : Mode) (a : Nat) : Nat :=
  match value f32 a with
  | .nan => f32.nanPat
  | .inf n => signed f32 n 0
  | .fin n m e =>
    if m = 0 then signed f32 n 0x7F800000
    else
      let k := Nat.log2 m + 64
      round mode f32 n (2 ^ k / m) (-e - k) (2 ^ k % m != 0)

/-- m·2^e with an even exponent and at least 128 bits more. -/
def evenScaled (m : Nat) (e : Int) : Nat × Int :=
  if e % 2 = 0 then (m * 2 ^ 128, e - 128) else (m * 2 ^ 129, e - 129)

/-- √x rounded (08, R189, Table 8.11). -/
def sqrt (mode : Mode) (a : Nat) : Nat :=
  match value f32 a with
  | .nan => f32.nanPat
  | .inf n => if n then f32.nanPat else a
  | .fin n m e =>
    if m = 0 then a
    else if n then f32.nanPat
    else
      let (m', e') := evenScaled m e
      let r := isqrt m'
      round mode f32 false r (e' / 2) (r * r != m')

/-- 1/√x rounded (08, R189, Table 8.11). -/
def rsqrt (mode : Mode) (a : Nat) : Nat :=
  match value f32 a with
  | .nan => f32.nanPat
  | .inf n => if n then f32.nanPat else 0
  | .fin n m e =>
    if m = 0 then signed f32 n 0x7F800000
    else if n then f32.nanPat
    else
      let (m', e') := if e % 2 = 0 then (m, e) else (2 * m, e - 1)
      let k : Nat := 128
      let d := 2 ^ (2 * k) / m'
      let r := isqrt d
      round mode f32 false r (-(e' / 2) - k) (r * r != d || 2 ^ (2 * k) % m' != 0)

/-- Fraction bits of the fixed-point values below. -/
def prec : Nat := 400

/-- Σ over `n` terms of the alternating (or not) series Σ ±t^(2k+1)/(2k+1), where each power is the last times `num/den`
with `den` 2^prec: the inverse hyperbolic (or circular) tangent. -/
def atanSeries (alternate : Bool) (sq : Nat) : Nat → Nat → Nat → Int
  | 0, _, _ => 0
  | n + 1, k, p =>
    (if alternate && k % 2 == 1 then -((p / (2 * k + 1) : Nat) : Int) else ((p / (2 * k + 1) : Nat) : Int)) +
      atanSeries alternate sq n (k + 1) (p * sq / 2 ^ prec)

/-- ln 2 = 2·artanh(1/3), times 2^prec. -/
def ln2 : Nat := 2 * (atanSeries false (2 ^ prec / 9) 140 0 (2 ^ prec / 3)).toNat

/-- arctan(1/d) by its series with `bits` fraction bits. -/
def arctanInv (d bits : Nat) : Nat → Nat → Nat → Int
  | 0, _, _ => 0
  | n + 1, k, p =>
    (if k % 2 == 1 then -((p / (2 * k + 1) : Nat) : Int) else ((p / (2 * k + 1) : Nat) : Int)) +
      arctanInv d bits n (k + 1) (p / (d * d))

/-- π/2 with prec + 140 fraction bits, by Machin's formula. -/
def halfPi : Nat :=
  let bits := prec + 150
  ((8 * arctanInv 5 bits 130 0 (2 ^ bits / 5) - 2 * arctanInv 239 bits 40 0 (2 ^ bits / 239)) / 2 ^ 10).toNat

/-- Σ over `n` terms of y^k/k! from term `t` = y^k/k!, all with prec fraction bits. -/
def expSeries (y : Nat) : Nat → Nat → Nat → Nat
  | 0, _, _ => 0
  | n + 1, k, t => t + expSeries y n (k + 1) (t * y / 2 ^ prec / (k + 1))

/-- 2^x for −150 < x < 128 (08, R189, R190). -/
def exp2 (a : Nat) : Nat :=
  match value f32 a with
  | .nan => f32.nanPat
  | .inf n => if n then 0 else a
  | .fin n m e =>
    if m = 0 then 0x3F800000
    else
      let x : Int := toInt n m
      -- floor and fraction of x·2^e, the fraction with prec bits
      let fl : Int := if 0 ≤ e then x * 2 ^ (min e 200).toNat else x / 2 ^ (-e).toNat
      if 128 ≤ fl then 0x7F800000
      else if fl < -150 then 0
      else
        let fr : Nat := if 0 ≤ e then 0 else ((x % 2 ^ (-e).toNat).toNat * 2 ^ prec) / 2 ^ (-e).toNat
        if fr = 0 then round .rne f32 false 1 fl
        else round .rne f32 false (expSeries (fr * ln2 / 2 ^ prec) 110 0 (2 ^ prec)) (fl - prec) true

/-- log₂ x (08, R189, R190). -/
def log2 (a : Nat) : Nat :=
  match value f32 a with
  | .nan => f32.nanPat
  | .inf n => if n then f32.nanPat else a
  | .fin n m e =>
    if m = 0 then 0xFF800000
    else if n then f32.nanPat
    else
      let l := Nat.log2 m
      let k : Int := e + l
      if m = 2 ^ l then ofInt .rne f32 k
      else
        let z := (m - 2 ^ l) * 2 ^ prec / (m + 2 ^ l)
        let lnm := 2 * (atanSeries false (z * z / 2 ^ prec) 140 0 z).toNat
        let v : Int := k * 2 ^ prec + (lnm * 2 ^ prec / ln2 : Nat)
        if v < 0 then round .rne f32 true ((-v).toNat - 1) (-prec) true else round .rne f32 false v.toNat (-prec) true

/-- Σ over `n` terms of ±y^(2k)·t/(…)! from term `t` of degree `d`, signs alternating (sin from t = y, d = 1; cos from
t = 1, d = 0). -/
def trigSeries (sq : Nat) : Nat → Nat → Nat → Bool → Int
  | 0, _, _, _ => 0
  | n + 1, d, t, minus =>
    (if minus then -(t : Int) else (t : Int)) + trigSeries sq n (d + 2) (t * sq / 2 ^ prec / ((d + 1) * (d + 2))) (!minus)

/-- Sine (`c` false) or cosine of man·2^exp ≥ 0, as sign and magnitude with prec fraction bits. -/
def trig (c : Bool) (m : Nat) (e : Int) : Bool × Nat :=
  let x := m * 2 ^ (e + prec + 140).toNat
  let q := x / halfPi
  let y := (x % halfPi) / 2 ^ 140
  let sq := y * y / 2 ^ prec
  let useCos := xor c (q % 2 == 1)
  let v := if useCos then trigSeries sq 70 0 (2 ^ prec) false else trigSeries sq 70 1 y false
  let minus := if c then q % 4 == 1 || q % 4 == 2 else q % 4 == 2 || q % 4 == 3
  (minus, v.toNat)

/-- sin x (08, R189, Table 8.11). -/
def sin (a : Nat) : Nat :=
  match value f32 a with
  | .fin n m e =>
    if m = 0 then a
    else
      let (s, v) := trig false m e
      round .rne f32 (xor n s) v (-prec) true
  | _ => f32.nanPat

/-- cos x (08, R189, Table 8.11). -/
def cos (a : Nat) : Nat :=
  match value f32 a with
  | .fin _ m e =>
    if m = 0 then 0x3F800000
    else
      let (s, v) := trig true m e
      round .rne f32 s v (-prec) true
  | _ => f32.nanPat

end Sys2Proof.Float
end

