-- ==== Sys2Proof/Machine/Flags.lean ====
section
/-! DEFINITION. Integers and the flag computations (07): ranges, wrapping, saturation and SAT, carry, packing in a
lane, the conditions of compares, and the Philox generator. -/

namespace Sys2Proof.Machine

/-- A result with whether a `sat_` helper changed it (07, R149). -/
structure Sat where
  value : Word
  sat   : Bool := false
  deriving DecidableEq, Repr, Inhabited

/-- Width of an integer type code (07, Table 7.1). -/
def intWidth (t : Nat) : Nat := if t % 4 = 0 then 32 else if t % 4 = 1 then 16 else 8

/-- Signed type codes are those below 4 (05, Table 5.2). -/
def intSigned (t : Nat) : Bool := decide (t < 4)

/-- lo_t (07, R148). -/
def intLo (t : Nat) : Int := if intSigned t then -(2 ^ (intWidth t - 1) : Nat) else 0
/-- hi_t (07, R148). -/
def intHi (t : Nat) : Int := if intSigned t then (2 ^ (intWidth t - 1) : Nat) - 1 else (2 ^ intWidth t : Nat) - 1

/-- The value of a pattern of `w` bits (07, R147). -/
def valBits (signed : Bool) (w x : Nat) : Int := if signed && bitOf x (w - 1) then (x : Int) - (2 ^ w : Nat) else x

/-- val_t of a pattern (07, R147). -/
def valT (t x : Nat) : Int := valBits (intSigned t) (intWidth t) x

/-- The pattern of `wrap_t` in `w` bits (07, R148). -/
def wrapBits (w : Nat) (x : Int) : Nat := (x % (2 ^ w : Nat)).toNat

/-- `sat_t` and whether it changed its argument (07, R148, R149). -/
def satT (t : Nat) (x : Int) : Int × Bool :=
  if x < intLo t then (intLo t, true) else if intHi t < x then (intHi t, true) else (x, false)

/-- A 32-bit pattern of an integer. -/
def word (x : Int) : Word := BitVec.ofInt 32 x

/-- Element `k` of width `w` (07, Table 7.2). -/
def elem (w : Nat) (x : Word) (k : Nat) : Nat := bitsOf x.toNat (w * k + w - 1) (w * k)

/-- A lane from its elements, element 0 lowest. -/
def ofElems (w : Nat) (es : List Nat) : Word := BitVec.ofNat 32 (es.foldr (fun e acc => acc * 2 ^ w + e % 2 ^ w) 0)

/-- Elements per lane at width `w`. -/
def perWord (w : Nat) : Nat := 32 / w

/-- An element-wise operation on a packed type. -/
def elemwise (t : Nat) (op : Int → Int → Int × Bool) (a b : Word) : Sat :=
  let w := intWidth t
  let rs := (List.range (perWord w)).map fun k => op (valT t (elem w a k)) (valT t (elem w b k))
  { value := ofElems w (rs.map fun r => wrapBits w r.1), sat := rs.any (·.2) }

/-- Zero-extended sum with carry in: result and carry out (08, R178). -/
def addCarry (a b : Word) (cin : Bool) : Word × Bool :=
  let t := a.toNat + b.toNat + b2n cin
  (BitVec.ofNat 32 t, decide (2 ^ 32 ≤ t))

/-- Zero-extended difference with borrow in: result and borrow out (08, R178). -/
def subBorrow (a b : Word) (cin : Bool) : Word × Bool :=
  let t : Int := a.toNat - b.toNat - b2n cin
  (word t, decide (t < 0))

/-- The conditions of Table 8.5. -/
def intCond (cc : Nat) (a b : Int) : Bool :=
  match cc with
  | 0 => a == b
  | 1 => a != b
  | 2 => decide (a < b)
  | 3 => decide (a ≤ b)
  | 4 => decide (b < a)
  | _ => decide (b ≤ a)

/-- `sat_n32`(value + count), which never sets SAT (07, R166). -/
def countUp (v : Word) (n : Nat) : Word := BitVec.ofNat 32 (min (v.toNat + n) 0xFFFFFFFF)

/-- The `n` rounds of Philox-4x32-10 left to run (07, R169). -/
def philoxRounds : Nat → Nat → Nat → Nat × Nat × Nat × Nat → Nat × Nat × Nat × Nat
  | 0, _, _, c => c
  | n + 1, k0, k1, (c0, c1, c2, c3) =>
    let p0 := 0xD2511F53 * c0
    let p1 := 0xCD9E8D57 * c2
    philoxRounds n ((k0 + 0x9E3779B9) % 2 ^ 32) ((k1 + 0xBB67AE85) % 2 ^ 32)
      (Nat.xor (Nat.xor (p1 / 2 ^ 32) c1) k0, p1 % 2 ^ 32, Nat.xor (Nat.xor (p0 / 2 ^ 32) c3) k1, p0 % 2 ^ 32)

/-- Philox-4x32-10 (07, R169). -/
def philox (key : Nat) (ctr : Nat × Nat × Nat × Nat) : Nat × Nat × Nat × Nat :=
  philoxRounds 10 (key % 2 ^ 32) (key / 2 ^ 32 % 2 ^ 32) ctr

/-- Word `i` of a Philox output. -/
def philoxWord (x : Nat × Nat × Nat × Nat) (i : Nat) : Nat :=
  match i with
  | 0 => x.1
  | 1 => x.2.1
  | 2 => x.2.2.1
  | _ => x.2.2.2

/-- One combination of a Silt line, an atomic or a base-die ATOM (10, Table 10.5; 12, Table 12.5): 0 add, 1 min, 2 max,
3 and, 4 or, 5 xor, 6 exchange. -/
def combine (op : Nat) (float signed : Bool) (x y : Word) : Word :=
  let t := if signed then 0 else 4
  match op with
  | 0 => if float then BitVec.ofNat 32 (Float.addPat .rne Float.f32 x.toNat y.toNat) else x + y
  | 1 => if float then BitVec.ofNat 32 (Float.minPat Float.f32 x.toNat y.toNat)
         else if valT t y.toNat < valT t x.toNat then y else x
  | 2 => if float then BitVec.ofNat 32 (Float.maxPat Float.f32 x.toNat y.toNat)
         else if valT t x.toNat < valT t y.toNat then y else x
  | 3 => x &&& y
  | 4 => x ||| y
  | 5 => x ^^^ y
  | _ => y

/-- Bit-field extraction (08, R182). -/
def bitField (signed : Bool) (a b : Word) : Word :=
  let pos := bitsOf b.toNat 7 0
  let len := min (bitsOf b.toNat 15 8) 32
  let wide : Int := valBits signed 32 a.toNat
  let f := (wide / (2 ^ pos : Nat)) % (2 ^ len : Nat)
  if len = 0 then 0 else word (valBits signed len f.toNat)

/-- Bit-field insertion (08, R182). -/
def bitInsert (a b c : Word) : Word :=
  let pos := bitsOf c.toNat 7 0
  let len := min (bitsOf c.toNat 15 8) 32
  let mask : Nat := (2 ^ len - 1) * 2 ^ pos
  (b &&& ~~~(BitVec.ofNat 32 mask)) ||| (BitVec.ofNat 32 (a.toNat * 2 ^ pos) &&& BitVec.ofNat 32 mask)

/-- Number of one bits among the low `n`. -/
def popCount (x : Nat) : Nat → Nat
  | 0 => 0
  | n + 1 => b2n (bitOf x n) + popCount x n

/-- Bits reversed: bit i of the result is bit 31 − i. -/
def bitReverse (a : Word) : Word :=
  BitVec.ofNat 32 ((List.range 32).foldl (fun acc i => acc + if bitOf a.toNat (31 - i) then 2 ^ i else 0) 0)

/-- Leading zeros, 32 for 0 (08, R182). -/
def leadingZeros (a : Word) : Nat := if a.toNat = 0 then 32 else 31 - Nat.log2 a.toNat

/-- Arithmetic right shift by min(n, 31) (08, R182). -/
def shiftArith (a b : Word) : Word := word (valT 0 a.toNat / (2 ^ min b.toNat 31 : Nat))

/-- Rotation left by b[4:0] (08, R182). -/
def rotateLeft (a b : Word) : Word := a.rotateLeft (b.toNat % 32)

/-- The rounding right shift before saturation (08, R180). -/
def roundShift (a b : Word) : Int :=
  let n := b.toNat % 32
  if n = 0 then valT 0 a.toNat else (valT 0 a.toNat + (2 ^ (n - 1) : Nat)) / (2 ^ n : Nat)

end Sys2Proof.Machine
end

