-- ==== Sys2Proof/Machine/Mem.lean ====
section
/-! DEFINITION. Memory (10): bytes at device physical addresses, the home's view of them, what a core's L1 holds dirty,
Silt lines, and scratchpad. -/

namespace Sys2Proof.Machine

/-! ## Bytes in canonical form: addresses strictly rising, no entry equal to 0, which an unlisted address reads as -/

namespace Memory

/-- The byte at `a`; one that is not listed reads 0 (log 1). -/
def read (m : List Host.Cell) (a : Nat) : Byte := Tbl.getD m a 0

/-- Store one byte. -/
def write (m : List Host.Cell) (a : Nat) (b : Byte) : List Host.Cell := if b = 0 then Tbl.erase m a else Tbl.set m a b

/-- Store a list of bytes, the last first overwritten by none: later entries land over earlier ones. -/
def writeAll (m cs : List Host.Cell) : List Host.Cell := cs.foldl (fun m c => write m c.1 c.2) m

/-- The canonical form. -/
abbrev wf (m : List Host.Cell) : Bool := Tbl.sortedFrom 0 m && m.all fun c => c.2 != 0

/-- `n` bytes from `a` up. -/
def bytes (m : List Host.Cell) (a n : Nat) : List Byte := (List.range n).map fun i => read m (a + i)

end Memory

/-- Bytes placed from address `a` up. -/
def cellsAt (a : Nat) : List Byte → List Host.Cell
  | [] => []
  | b :: bs => (a, b) :: cellsAt (a + 1) bs

/-- The cells of the low `n` bytes of a number at `a`. -/
def cellsOf (a n x : Nat) : List Host.Cell := cellsAt a (toBytes n x)

/-- The 128 B line of an address (10, R229). -/
def lineOf (a : Nat) : Nat := a / 128

namespace State

/-! ## Table accessors -/

def core (s : State) (c : Nat) : Core := s.cores.getD c {}
def setCore (s : State) (c : Nat) (x : Core) : State := { s with cores := s.cores.set c x }
def team (s : State) (t : Nat) : Team := s.teams.getD t default
def setTeam (s : State) (t : Nat) (x : Team) : State := { s with teams := s.teams.set t x }
def launch (s : State) (l : Nat) : Launch := s.launches.getD l default
def setLaunch (s : State) (l : Nat) (x : Launch) : State := { s with launches := s.launches.set l x }
def group (s : State) (k : Nat) : Group := s.groups.getD k default
def setGroup (s : State) (k : Nat) (x : Group) : State := { s with groups := s.groups.set k x }
def func (s : State) (f : Nat) : Func := s.funcs.getD f {}
def setFunc (s : State) (f : Nat) (x : Func) : State := { s with funcs := s.funcs.set f x }
def part (s : State) (p : Nat) : Part := s.parts.getD p {}
def setPart (s : State) (p : Nat) (x : Part) : State := { s with parts := s.parts.set p x }
def queue (s : State) (q : Nat) : Queue := s.queues.getD q {}
def setQueue (s : State) (q : Nat) (x : Queue) : State := { s with queues := s.queues.set q x }
def range (s : State) (n : Nat) : RangeEntry := s.ranges.getD n {}
def setRange (s : State) (n : Nat) (x : RangeEntry) : State := { s with ranges := s.ranges.set n x }
def net (s : State) (n : Nat) : NetCtx := s.nets.getD n {}
def setNet (s : State) (n : Nat) (x : NetCtx) : State := { s with nets := s.nets.set n x }
def vdn (s : State) (n : Nat) : VdnEntry := s.vdns.getD n {}
def setVdn (s : State) (n : Nat) (x : VdnEntry) : State := { s with vdns := s.vdns.set n x }
def die (s : State) (n : Nat) : Stack := s.dies.getD n {}
def setDie (s : State) (n : Nat) (x : Stack) : State := { s with dies := s.dies.set n x }
def cluster (s : State) (n : Nat) : Governor := s.clusters.getD n {}
def setCluster (s : State) (n : Nat) (x : Governor) : State := { s with clusters := s.clusters.set n x }
def space (s : State) (a : Nat) : AsEntry := s.spaces.getD a {}
def vm (s : State) (v : Nat) : VmEntry := s.vmids.getD v {}

/-- The functions that answer: in recovery mode, and before the firmware runs, the management window alone (01, R24). -/
def answers (s : State) (func : Nat) : Bool := func == 0 || s.root.running

/-! ## The address map (10, R230–R232) -/

/-- The enabled range that holds a device physical address. -/
def rangeOf (s : State) (pa : Nat) : Option (Nat × RangeEntry) :=
  List.find? (fun (r : Nat × RangeEntry) => r.2.enable && decide (r.2.base ≤ pa / 65536) && decide (pa / 65536 ≤ r.2.limit)) s.ranges

/-- The exclusive OR of the `w`-bit pieces of a line number, `fuel` of them (10, R232). -/
def foldLine (w : Nat) : Nat → Nat → Nat
  | 0, _ => 0
  | n + 1, line => if w = 0 then 0 else Nat.xor (line % 2 ^ w) (foldLine w n (line / 2 ^ w))

/-- The home slice of an address in range `r` (10, R232). -/
def homeSlice (r : RangeEntry) (pa : Nat) : Nat := r.sliceBase + foldLine r.sliceLog 45 (pa / 128)

/-- Stack, channel and byte in the channel of an address in range `r` (10, R232). -/
def placeOf (r : RangeEntry) (pa : Nat) : Nat × Nat × Nat :=
  let g := 256 * 2 ^ r.gran
  let o := pa - r.base * 65536
  let n := o / g
  (r.stackBase + n % 2 ^ r.stackLog, r.chBase + n / 2 ^ r.stackLog % 2 ^ r.chLog,
    r.dramOff * 2 ^ 20 + n / 2 ^ (r.stackLog + r.chLog) * g + o % g)

/-- The stack that holds an address (10, R232). -/
def stackOf (s : State) (pa : Nat) : Nat :=
  match s.rangeOf pa with
  | some r => (placeOf r.2 pa).1
  | none => 0

/-- The pseudo-channel of a byte of a channel (10, R232). -/
def pseudoChannel (coff : Nat) : Nat := coff / 32 % 2

/-- The home slice of an address (10, R232). -/
def sliceOf (s : State) (pa : Nat) : Nat :=
  match s.rangeOf pa with
  | some r => homeSlice r.2 pa
  | none => 0

/-! ## What the home of a byte holds: the DRAM with the requests still on their way to it (10, R229, R233) -/

/-- What a base die's bytes become by a request (10, Table 10.4). -/
def applyReq (m : List Host.Cell) : BdReq → List Host.Cell
  | .wr cells => Memory.writeAll m cells
  | .atom pa op float signed x =>
    Memory.writeAll m (cellsOf pa 4 (combine op float signed (BitVec.ofNat 32 (ofBytes (Memory.bytes m pa 4))) x).toNat)
  | .rd _ _ => m
  | .dtc _ => m

/-- Every byte as its home holds it. -/
def home (s : State) : List Host.Cell := s.bdq.foldl (fun m p => applyReq m p.req) s.mem

/-- One byte at its home. -/
def homeByte (s : State) (pa : Nat) : Byte := Memory.read s.home pa

/-- `n` bytes at their homes. -/
def homeBytes (s : State) (pa n : Nat) : List Byte := Memory.bytes s.home pa n

/-- A number of `n` bytes at its home. -/
def homeNat (s : State) (pa n : Nat) : Nat := ofBytes (s.homeBytes pa n)

/-- One byte as a group on core `c` reads it: the core's own dirty byte, else the home's (12, R271). -/
def coreByte (s : State) (c pa : Nat) : Byte :=
  match Tbl.find? (s.core c).l1 pa with
  | some b => b
  | none => s.homeByte pa

/-- `n` bytes as a group on core `c` reads them. -/
def coreBytes (s : State) (c pa n : Nat) : List Byte := (List.range n).map fun i => s.coreByte c (pa + i)

/-- The lowest tag that no request of the die to the stack holds; none where all 4,096 are out (10, R233). -/
def freeTag (s : State) (die stack : Nat) : Option Nat :=
  let used := (s.bdq.filter fun p => p.die == die && p.stack == stack).filterMap (·.tag) ++
    (s.replies.filter fun r => r.die == die && r.stack == stack).map (·.tag)
  (List.range 4096).find? fun t => !used.contains t

/-- Requests that wait for a tag take those that have come free, in order. -/
def giveTags (s : State) : State :=
  (List.range s.bdq.length).foldl (fun s i =>
    match s.bdq[i]? with
    | some p => if p.tag.isNone then { s with bdq := s.bdq.set i { p with tag := s.freeTag p.die p.stack } } else s
    | none => s) s

/-- The home of `pa` sends a request to its stack; a slice lies on the compute die of its number over 16. -/
def send (s : State) (pa : Nat) (req : BdReq) (bad : List Nat := []) : State :=
  let die := s.sliceOf pa / 16
  let stack := s.stackOf pa
  { s with bdq := s.bdq ++ [{ die := die, stack := stack, tag := s.freeTag die stack, req := req, bad := bad }] }

/-! ## The L2 slices (10, R229) -/

/-- An atom is delivered poisoned by its base die (10, Table 10.4, R238). -/
def diePoisoned (s : State) (atom : Nat) : Bool := s.atomPoison.contains atom || s.atomBad.contains atom || s.macBad.contains (atom / 2)

/-- Cells hold every byte of an atom. -/
def wholeAtom (cells : List Host.Cell) (atom : Nat) : Bool := (List.range 32).all fun i => cells.any fun c => c.1 == 32 * atom + i

/-- An atom as the requests under way leave it is delivered poisoned: a write that brings poison marks it, one that replaces it whole heals
it (16, R373). -/
def atomPoisoned (s : State) (atom : Nat) : Bool :=
  s.bdq.foldl (fun b p =>
    if p.bad.contains atom then true
    else match p.req with | .wr cells => b && !wholeAtom cells atom | _ => b) (s.diePoisoned atom)

/-- The lines of `n` bytes at `pa`. -/
def linesOf (pa n : Nat) : List Nat := if n = 0 then [] else (List.range (lineOf (pa + n - 1) + 1 - lineOf pa)).map (lineOf pa + ·)

/-- The line of an address as its slice holds it. -/
def l2Line (s : State) (pa : Nat) : Option L2Line := (s.l2.getD (s.sliceOf pa) []).find? fun l => l.line == lineOf pa

/-- A line enters its slice; where its set of 12 is full, the oldest line of the set leaves. DESIGN CHOICE (log 94): the set is the line's
number modulo 2,048, and the slice writes through, so that a line leaves without a write. -/
def l2Take (ls : List L2Line) (x : L2Line) : List L2Line :=
  let mates := ls.filter fun l => l.line % 2048 == x.line % 2048
  (if mates.length < 12 then ls else ls.filter fun l => some l.line != (mates.head?).map (·.line)) ++ [x]

/-- The home reads a line for which it is asked: one that its slice does not hold comes from the base die, and the slice allocates it. The
bytes it brings are those of `home`, which every earlier request has reached. -/
def readLine (s : State) (line : Nat) : State :=
  let pa := 128 * line
  if (s.rangeOf pa).isNone || (s.l2Line pa).isSome then s
  else
    let h := s.sliceOf pa
    let poison := ((List.range 4).map (4 * line + ·)).filter s.atomPoisoned
    { s.send pa (.rd pa 4) with l2 := s.l2.set h (l2Take (s.l2.getD h []) { line := line, poison := poison }) }

/-- The homes read the lines of `n` bytes at `pa`. -/
def readLines (s : State) (pa n : Nat) : State := (linesOf pa n).foldl readLine s

/-- A byte comes poisoned from its home: as its slice took it, else as the base die would deliver it. -/
def homePoisoned (s : State) (pa : Nat) : Bool :=
  match s.l2Line pa with
  | some l => l.poison.contains (pa / 32)
  | none => s.atomPoisoned (pa / 32)

/-- Atoms of a line that a write replaces whole are poisoned no longer in the slice either; those that it brings poisoned are. -/
def healLine (s : State) (cells : List Host.Cell) (bad : List Nat := []) : State :=
  match cells with
  | [] => s
  | c :: _ =>
    match s.l2Line c.1 with
    | none => s
    | some l =>
      if l.poison.isEmpty && bad.isEmpty then s
      else
        let h := s.sliceOf c.1
        { s with l2 := s.l2.set h ((s.l2.getD h []).map fun x =>
            if x.line == l.line then { x with poison := (x.poison.filter (fun a => !wholeAtom cells a) ++ bad).eraseDups } else x) }

/-- An operation on a word goes to the base die: as a write of its result where the slice holds the line, else as an ATOM packet
(10, Table 10.4). -/
def sendAtom (s : State) (pa op : Nat) (float signed : Bool) (x : Word) (cells : List Host.Cell) : State :=
  s.send pa (if (s.l2Line pa).isSome then .wr cells else .atom pa op float signed x)

/-! ## Write-range records (10, R237) -/

/-- Logged bytes `ipa` to `ipa + n − 1` of one block: its open record widens, or a new one opens and the oldest of 64 is displaced. -/
def noteBlock (s : State) (fn ipa n : Nat) : State :=
  let f := s.func fn
  let block := ipa / 4096
  let lo := ipa % 4096
  let hi := (ipa + n - 1) % 4096
  if f.logOpen.any (·.block == block) then
    s.setFunc fn { f with logOpen := f.logOpen.map fun r =>
      if r.block == block then { r with lo := min r.lo lo, hi := max r.hi hi } else r }
  else
    let opened := f.logOpen ++ [{ block := block, lo := lo, hi := hi }]
    if 64 < opened.length then s.setFunc fn { f with logOpen := opened.drop 1, logQueue := f.logQueue ++ opened.take 1 }
    else s.setFunc fn { f with logOpen := opened }

/-- Logged bytes, block by block, over `fuel` blocks at most. -/
def noteBlocks : Nat → State → Nat → Nat → Nat → State
  | 0, s, _, _, _ => s
  | fuel + 1, s, fn, ipa, n =>
    if n = 0 then s
    else
      let first := min n (4096 - ipa % 4096)
      noteBlocks fuel (s.noteBlock fn ipa first) fn (ipa + first) (n - first)

/-- A logged write of any length, as it reaches its home. -/
def noteLog (s : State) (fn ipa n : Nat) : State := noteBlocks (n / 4096 + 2) s fn ipa n

/-- Bytes of a line that core `c` last wrote through a logged page are noted: those from the first to the last of `cells`. -/
def noteCore (s : State) (c line : Nat) (cells : List Host.Cell) : State :=
  match (s.core c).logs.find? line, (cells.map Prod.fst).min?, (cells.map Prod.fst).max? with
  | some x, some lo, some hi => s.noteLog x.1 (x.2 + lo % 128) (hi + 1 - lo)
  | _, _, _ => s

/-- Core `c` writes a line through a page, logged by a function at a stage-2 address, or not. -/
def logLine (s : State) (c pa : Nat) (log : Option (Nat × Nat)) : State :=
  let k := s.core c
  match log with
  | some x => s.setCore c { k with logs := k.logs.set (lineOf pa) (x.1, x.2 - pa % 128) }
  | none => if (k.logs.find? (lineOf pa)).isSome then s.setCore c { k with logs := k.logs.erase (lineOf pa) } else s

/-- Device physical words of a window that one of `cells` touches lose their valid bit, and what was dirty there
(10, R235). -/
def LoamWindow.strike (cells : List Host.Cell) (w : LoamWindow) : LoamWindow :=
  let hit (p : Nat) : Bool := cells.any fun c => c.1 / 4 == p / 4
  { w with valid := List.zipWith (fun p v => v && !hit p) w.place w.valid,
           dirty := List.zipWith (fun p d => d && !hit p) w.place w.dirty }

/-- Every window but those of team `owner` loses the words written (10, R235). -/
def strikeWindows (s : State) (owner : Option Nat) (cells : List Host.Cell) : State :=
  { s with teams := s.teams.mapVals fun k t =>
      if t.windows.isEmpty || owner == some k then t else { t with windows := t.windows.map (LoamWindow.strike cells) } }

/-- Wake the sleepers whose monitored global line is among those written (12, R288). -/
def wakeSleepers (s : State) (cells : List Host.Cell) : State :=
  { s with
      groups := s.groups.mapVals fun _ g =>
      match g.wait with
      | .waita w => if !w.sp && cells.any (fun c => lineOf c.1 == lineOf w.place)
                    then { g with wait := .waita { w with woken := true } } else g
      | _ => g }

/-- The home invalidates the copies that other cores hold of the lines written (16, R376). -/
def sendInvals (s : State) (from_ : Option Nat) (cells : List Host.Cell) : State :=
  { s with cores := s.cores.mapVals fun k c =>
      if from_ == some k then c
      else { c with invals := (c.lines.filter fun l => cells.any fun x => lineOf x.1 == l).foldl
                      (fun acc l => if acc.contains l then acc else acc ++ [l]) c.invals } }

/-- A write reaches its home: it goes on to the base die, strikes the windows of other teams, invalidates other cores'
copies and wakes sleepers (10, R235; 12, R271, R276, R288). -/
def homeLand (s : State) (from_ owner : Option Nat) (cells : List Host.Cell) (bad : List Nat := []) : State :=
  match cells with
  | [] => s
  | c :: _ => ((((s.send c.1 (.wr cells) bad).healLine cells bad).strikeWindows owner cells).sendInvals from_ cells).wakeSleepers cells

/-- Cells cut where the line changes. -/
def splitLines : List Host.Cell → List (List Host.Cell)
  | [] => []
  | c :: cs =>
    match splitLines cs with
    | (d :: ds) :: rest => if lineOf c.1 == lineOf d.1 then (c :: d :: ds) :: rest else [c] :: (d :: ds) :: rest
    | _ => [[c]]

/-- The core's dirty bytes that satisfy `p` reach their homes, poisoned words as such (16, R373); while the L1 is pending, the lines so written name it as
narrow holder (12, R271, R275). -/
def flushLand (s : State) (c : Nat) (p : Nat → Bool) : State :=
  let k := s.core c
  let out := k.l1.filter fun x => p x.1
  if out.isEmpty then s
  else
    let rest := k.l1.filter fun x => !p x.1
    let narrow := k.narrow.filter fun l => rest.any fun x => lineOf x.1 == l
    let lines := (out.map fun x => lineOf x.1).eraseDups
    let gone (w : Nat) : Bool := out.any fun x => x.1 / 4 == w
    let k' := { k with l1 := rest, l1Poison := k.l1Poison.filter fun w => !gone w, narrow := narrow,
                       holds := if narrow.isEmpty then [] else (k.holds ++ lines).eraseDups,
                       spHolds := if narrow.isEmpty then [] else k.spHolds }
    lines.foldl (fun s l =>
      let cells := out.filter fun x => lineOf x.1 == l
      (s.noteCore c l cells).homeLand (some c) none cells
        (((k.l1Poison.filter fun w => gone w && w / 32 == l).map (· / 8)).eraseDups)) (s.setCore c k')

/-- Clean window words that lie in the cells are read afresh (12, R276). -/
def LoamWindow.stale (cells : List Host.Cell) (w : LoamWindow) : LoamWindow :=
  let hit (p : Nat) : Bool := cells.any fun c => c.1 / 4 == p / 4
  { w with valid := List.zipWith (fun x p => x.1 && (x.2 || !hit p)) (w.valid.zip w.dirty) w.place }

/-- Words that a core writes before they reach their homes: no clean window word of its teams stays older than them (12, R276). -/
def staleWindows (s : State) (c : Nat) (cells : List Host.Cell) : State :=
  { s with teams := s.teams.mapVals fun _ t =>
      if t.windows.isEmpty || (t.core != c && t.core + 1 != c) then t else { t with windows := t.windows.map (LoamWindow.stale cells) } }

/-- A narrow release: the L1 is pending until what is dirty now has reached its home, and no clean window word stays older than that
(12, R275, R276). -/
def narrowRelease (s : State) (c : Nat) : State :=
  let k := s.core c
  let s := s.setCore c { k with narrow := (k.l1.map fun x => lineOf x.1).eraseDups }
  if k.l1.isEmpty then s
  else { s with teams := s.teams.mapVals fun _ t =>
      if t.windows.isEmpty then t else { t with windows := t.windows.map (LoamWindow.stale k.l1) } }

/-- While the L1 is pending, lines that the core's writes reach name it as narrow holder (12, R275). -/
def registerNarrow (s : State) (c line : Nat) : State :=
  let k := s.core c
  if k.narrow.isEmpty || k.holds.contains line then s else s.setCore c { k with holds := k.holds ++ [line] }

/-- The word of a Silt line combines into memory at its home (10, R236). -/
def wordLand (s : State) (line : SiltLine) (i : Nat) (x : Word) : State :=
  let pa := line.line * 128 + 4 * i
  let old := BitVec.ofNat 32 (s.homeNat pa 4)
  let cells := cellsOf pa 4 (combine line.op line.float line.signed old x).toNat
  (((s.sendAtom pa line.op line.float line.signed x cells).strikeWindows none cells).sendInvals none cells).wakeSleepers cells

/-- Core `c`'s Silt lines that satisfy `p` are merged and freed, oldest first (10, R236); its dirty bytes of each line go first, and the
home takes note of a pending L1 (12, R271, R275). -/
def siltLand (s : State) (c : Nat) (p : SiltLine → Bool) : State :=
  let k := s.core c
  let out := k.silt.reverse.filter p
  if out.isEmpty then s
  else out.foldl (fun s l =>
      (l.words.foldl (fun s w => (s.noteCore c l.line (cellsOf (l.line * 128 + 4 * w.1) 4 0)).wordLand l w.1 w.2)
        (s.flushLand c fun a => lineOf a == l.line)).registerNarrow c l.line)
    (s.setCore c { k with silt := k.silt.filter fun l => !p l })

/-- The home names the core's pending L1 as a narrow holder of the line, or will once a reduction that the core buffers of it merges (12,
R275). -/
def namesHolder (k : Core) (line : Nat) : Bool := k.holds.contains line || (!k.narrow.isEmpty && k.silt.any fun l => l.line == line)

/-- A core other than `c` is a narrow holder of the line: an access waits until that core has published (12, R275). -/
def narrowElsewhere (s : State) (c : Option Nat) (line : Nat) : Bool :=
  s.cores.any fun k => c != some k.1 && namesHolder k.2 line

/-- The holder writes back what was dirty at its latest narrow release and the record clears (12, R275). -/
def publishLand (s : State) (c : Nat) : State :=
  let k := s.core c
  let s := s.flushLand c fun a => k.narrow.contains (lineOf a)
  let k := s.core c
  s.setCore c { k with holds := [], narrow := [], spHolds := [] }

/-- A read of a line merges every Silt line that holds it, once the narrow holders of the line have published (12, R275, R278). -/
def lineLand (s : State) (line : Nat) : State :=
  let has := (s.cores.filter fun k => k.2.silt.any fun l => l.line == line).map Prod.fst
  if has.isEmpty then s
  else
    let s := ((s.cores.filter fun k => namesHolder k.2 line).map Prod.fst).foldl publishLand s
    has.foldl (fun s c => s.siltLand c fun l => l.line == line) s

/-! ### Counters that launches wait for (02, R45)

Every write that reaches a home evaluates the dependence waits on its line: first the writes of one cause reach their homes (the operations
above), then the waits on their lines are evaluated (those below). -/

/-- A dependence wait of a launch, evaluated as one of `lines` has been written: a read of the counter where it lies, with the reductions
that cores buffer of its line (12, R278). -/
def counterMet (s : State) (lines : List Nat) (got : Bool) (place : Option Nat) (value : Nat) : State × Bool :=
  match place with
  | none => (s, got)
  | some pa =>
    if got || !lines.contains (lineOf pa) then (s, got)
    else
      let s := (s.lineLand (lineOf pa)).readLine (lineOf pa)
      (s, decide (value ≤ s.homeNat pa 8))

/-- Lines have been written: a counter on them that has reached its value satisfies the wait of a launch once and for all (R45). -/
def noteCounters (s : State) (lines : List Nat) : State :=
  if lines.isEmpty || !s.launches.any fun l => l.2.stage == .waiting then s
  else
    s.launches.keys.foldl (fun s k =>
      let l := s.launch k
      if l.stage != .waiting then s
      else
        let (s, a) := s.counterMet lines l.got0 l.place0 l.record.wait0V
        let (s, b) := s.counterMet lines l.got1 l.place1 l.record.wait1V
        s.setLaunch k { l with got0 := a, got1 := b,
                               stage := if (a || l.record.wait0A = 0) && (b || l.record.wait1A = 0) then .eligible else .waiting }) s

/-- The lines of some addresses. -/
def linesAt (as : List Nat) : List Nat := (as.map lineOf).eraseDups

/-- Lines written: their sleepers wake, and the counters on them are evaluated (02, R45; 12, R288). -/
def wakeLines (s : State) (cells : List Host.Cell) : State := (s.wakeSleepers cells).noteCounters (linesAt (cells.map Prod.fst))

/-- A write reaches its home. -/
def homeWrite (s : State) (from_ owner : Option Nat) (cells : List Host.Cell) (bad : List Nat := []) : State :=
  (s.homeLand from_ owner cells bad).noteCounters (linesAt (cells.map Prod.fst))

/-- A write of any length reaches its homes, line by line. -/
def homeWrites (s : State) (from_ owner : Option Nat) (cells : List Host.Cell) : State :=
  (splitLines cells).foldl (fun s cs => s.homeWrite from_ owner cs) s

/-- The core's dirty bytes that satisfy `p` reach their homes (12, R271, R275). -/
def flushBytes (s : State) (c : Nat) (p : Nat → Bool) : State :=
  (s.flushLand c p).noteCounters (linesAt (((s.core c).l1.filter fun x => p x.1).map Prod.fst))

/-- Every dirty byte of the core reaches its home (12, R274). -/
def flushAll (s : State) (c : Nat) : State := s.flushBytes c fun _ => true

/-- The dirty bytes the core holds of one line reach their home. -/
def flushLine (s : State) (c line : Nat) : State := s.flushBytes c fun a => lineOf a == line

/-- Core `c`'s Silt lines that satisfy `p` are merged and freed (10, R236). -/
def mergeSilt (s : State) (c : Nat) (p : SiltLine → Bool) : State :=
  (s.siltLand c p).noteCounters ((((s.core c).silt.filter p).map (·.line)).eraseDups)

/-- The holder writes back what was dirty at its latest narrow release and the record clears (12, R275). -/
def publish (s : State) (c : Nat) : State := (s.publishLand c).noteCounters (s.core c).narrow

/-- A read of a line merges every Silt line that holds it (12, R275, R278). -/
def mergeLine (s : State) (line : Nat) : State :=
  if s.cores.any fun k => k.2.silt.any fun l => l.line == line then
    (s.lineLand line).noteCounters (line :: (s.cores.filter fun k => namesHolder k.2 line).flatMap fun k => k.2.narrow)
  else s

/-- A byte as its home answers a read: the reductions that cores still buffer of its line included (12, R278). -/
def mergedByte (s : State) (pa : Nat) : Byte := (s.mergeLine (lineOf pa)).homeByte pa

/-- Before another core than the one that wrote them reaches scratchpad words written while an L1 was pending, that L1 publishes (12,
R272, R275). -/
def spPublish (s : State) (c k off n : Nat) : State :=
  ((s.cores.filter fun x => x.1 != c && x.2.spHolds.any fun w => w.1 == k && decide (off / 4 ≤ w.2) && decide (w.2 < (off + n + 3) / 4)
    ).map Prod.fst).foldl publish s

/-! ## Scratchpad (10, R228) -/

/-- The core a scratchpad address names in the cluster of core `c`, and the offset. -/
def spPlace (c sa : Nat) : Nat × Nat := (c / 48 * 48 + bitsOf sa 24 19, bitsOf sa 18 0)

/-- `n` scratchpad bytes of core `k` at offset `off`. -/
def spBytes (s : State) (k off n : Nat) : List Byte := Memory.bytes (s.core k).scratch off n

/-- Wake the sleepers whose monitored scratchpad block is written (12, R288). -/
def wakeScratch (s : State) (k off n : Nat) : State :=
  { s with groups := s.groups.mapVals fun _ g =>
      match g.wait with
      | .waita w => if w.sp && w.place / 128 ≥ (k * 2 ^ 19 + off) / 128 && w.place / 128 ≤ (k * 2 ^ 19 + off + n - 1) / 128
                    then { g with wait := .waita { w with woken := true } } else g
      | _ => g }

/-- Core `c`, while its L1 is pending, writes scratchpad words (12, R272). -/
def spNote (s : State) (c k off n : Nat) : State :=
  let x := s.core c
  if x.narrow.isEmpty then s
  else s.setCore c { x with spHolds := (x.spHolds ++ (List.range ((off + n + 3) / 4 - off / 4)).map fun i => (k, off / 4 + i)).eraseDups }

/-- Write scratchpad bytes: their words' poison clears (15, R341) and sleepers wake. -/
def spWrite (s : State) (k off : Nat) (bs : List Byte) : State :=
  let c := s.core k
  (s.setCore k { c with scratch := Memory.writeAll c.scratch (cellsAt off bs),
                        spoison := c.spoison.filter fun w => !(decide (off / 4 ≤ w) && decide (w ≤ (off + bs.length - 1) / 4)) }
    ).wakeScratch k off bs.length

end State

end Sys2Proof.Machine
end

