-- ==== Sys2Proof/Machine/Trans.lean ====
section
/-! DEFINITION. Translation (03, R61–R66): both stages, the cached translations, and the address map's check. -/

namespace Sys2Proof.Machine

/-- What an access is for (03, R63). -/
inductive Access where
  | read | write | atomic | fetch
  deriving DecidableEq, Repr

/-- The ACCESS code of a fault record (03, Table 3.10). -/
def Access.code : Access → Nat
  | .read => 0
  | .write => 1
  | .atomic => 2
  | .fetch => 3

/-- Why an access faults (03, Tables 3.10 and 3.11). STAGE 0 and LEVEL 15 where it is no translation. -/
structure XFault where
  cause : Nat
  stage : Nat := 0
  level : Nat := 15
  ipa   : Nat := 0
  deriving DecidableEq, Repr, Inhabited

/-- Where an access lands: device physical address (or remote address, TYPE 1), TYPE, VDN, LOG and the stage-2 address. -/
structure Xlat where
  pa   : Nat
  kind : Nat
  vdn  : Nat
  log  : Bool
  ipa  : Nat
  level : Nat
  deriving DecidableEq, Repr, Inhabited

namespace Xlat

/-- Lowest address bit that a leaf at this level leaves to the offset (03, Table 3.6). -/
def pageShift : Nat → Nat
  | 1 => 30
  | 2 => 21
  | _ => 16

/-- The index into a level's table (03, Table 3.6). -/
def index (stage level addr : Nat) : Nat :=
  match level with
  | 0 => bitsOf addr (if stage = 1 then 53 else 51) 39
  | 1 => bitsOf addr 38 30
  | 2 => bitsOf addr 29 21
  | _ => bitsOf addr 20 16

/-- An entry that breaks R62 or R64, is a leaf at level 0, or is a table at level 3 (03, R63). -/
def malformed (stage level e : Nat) : Bool :=
  if bitOf e 1 then
    level == 3 || bitsOf e 7 2 != 0 || bitsOf e 63 52 != 0 || (decide (level < 2) && bitsOf e 11 8 != 0)
  else
    let kind := bitsOf e 9 8
    level == 0 || bitsOf e 15 10 != 0 || bitsOf e 7 5 != 0 || bitsOf e (pageShift level - 1) 0 / 65536 != 0 ||
    (if stage == 1 then kind != 0 || bitsOf e 63 52 != 0
     else kind == 3 || (kind != 1 && bitsOf e 63 52 != 0) || (kind == 2 && (level != 3 || bitsOf e 51 20 != 0)))

/-- Lowest address bit that a table entry at this level does not select by (03, Table 3.6). -/
def tableShift : Nat → Nat
  | 0 => 39
  | 1 => 30
  | 2 => 21
  | _ => 16

/-- The steps of a walk over the levels left: level, address of the entry, and the entry where it names another table. -/
def trail (rd : Nat → Nat → Except XFault Nat) (stage addr : Nat) : List Nat → Nat → List (Nat × Nat × Option Nat)
  | [], _ => []
  | level :: rest, t =>
    let a := t + 8 * index stage level addr
    match rd level a with
    | .error _ => [(level, a, none)]
    | .ok e =>
      if !bitOf e 0 || malformed stage level e || !bitOf e 1 then [(level, a, none)]
      else (level, a, some e) :: trail rd stage addr rest (bitsOf e 51 8 * 256)

/-- The walk of one stage over the levels left, from table `t`: output address, leaf, level (03, R63). -/
def walk (rd : Nat → Nat → Except XFault Nat) (stage addr : Nat) : List Nat → Nat → Except XFault (Nat × Nat × Nat)
  | [], _ => .error { cause := 6, stage := stage, level := 3 }
  | level :: rest, t =>
    match rd level (t + 8 * index stage level addr) with
    | .error x => .error x
    | .ok e =>
      if !bitOf e 0 then .error { cause := 3, stage := stage, level := level }
      else if malformed stage level e then .error { cause := 6, stage := stage, level := level }
      else if bitOf e 1 then walk rd stage addr rest (bitsOf e 51 8 * 256)
      else
        let sh := pageShift level
        .ok (bitsOf e 51 sh * 2 ^ sh + addr % 2 ^ sh, e, level)

end Xlat

namespace State

/-- What the address map makes of a device physical address for a VMID: bounds outside every enabled range, permission in a range of
another partition (03, R64; 10, R231). -/
def mapCause (s : State) (vmid pa : Nat) : Option Nat :=
  match s.rangeOf pa with
  | none => some 2
  | some (_, g) => if g.part == (s.vm vmid).part then none else some 4

/-- The table entry that the walkers of a compute die have cached for an address, a stage and a level (03, R65). -/
def walkHit (s : State) (die stage asid vmid level addr : Nat) : Option Nat :=
  (s.walkers.getD die []).findSome? fun e =>
    if e.stage == stage && (stage == 2 || e.asid == asid) && e.vmid == vmid && e.level == level && e.prefix_ == addr / 2 ^ Xlat.tableShift level
    then some e.entry else none

/-- A table entry as its home answers a walker: 8 B at once, with the reductions that cores still buffer of its line (03, R66; 12, R278). -/
def tableEntry (s : State) (a : Nat) : Nat := (s.mergeLine (lineOf a)).homeNat a 8

/-- A stage-2 table read: cached by the die's walkers, or read at its home where the address map lets the VMID reach it. -/
def readTable2 (s : State) (die vmid ipa level a : Nat) : Except XFault Nat :=
  match s.walkHit die 2 0 vmid level ipa with
  | some e => .ok e
  | none =>
    match s.mapCause vmid a with
    | some c => .error { cause := c, stage := 2, level := level }
    | none => .ok (s.tableEntry a)

/-- A stage-2 walk by the walkers of die `die`: output address, leaf, level (03, R63). -/
def walk2 (s : State) (die vmid ipa : Nat) : Except XFault (Nat × Nat × Nat) :=
  if 2 ^ 52 ≤ ipa then .error { cause := 2, stage := 2, level := 15, ipa := ipa }
  else
    let v := s.vm vmid
    if !v.valid then .error { cause := 3, stage := 2, level := 0, ipa := ipa }
    else
      match Xlat.walk (s.readTable2 die vmid ipa) 2 ipa [0, 1, 2, 3] v.root with
      | .error x => .error { x with ipa := ipa }
      | .ok r => .ok r

/-- A stage-1 table read, itself translated by stage 2; its fault keeps the stage-1 level (03, R63, R64). DESIGN CHOICE (log 89): a
table in a page of TYPE 1 or 2 is malformed with STAGE 1, the stage-1 level and IPA 0; one outside the VMID's ranges reports STAGE 2,
with the stage-2 leaf's level for a permission fault. -/
def readTable (s : State) (die asid vmid va level a : Nat) : Except XFault Nat :=
  match s.walkHit die 1 asid vmid level va with
  | some e => .ok e
  | none =>
    match s.walk2 die vmid a with
    | .error x => .error { x with level := level }
    | .ok (pa, e, l2) =>
      if bitsOf e 9 8 != 0 then .error { cause := 6, stage := 1, level := level }
      else
        match s.mapCause vmid pa with
        | some c => .error { cause := c, stage := 2, level := if c = 4 then l2 else level, ipa := a }
        | none => .ok (s.tableEntry pa)

/-- Both walks joined into what a TLB caches (03, R63, R65). -/
def walkBoth (s : State) (core asid va : Nat) : Except XFault TlbEntry :=
  if 2 ^ 54 ≤ va then .error { cause := 2, stage := 1 }
  else
    let a := s.space asid
    let die := core / 192
    if !a.valid then .error { cause := 3, stage := 1, level := 0 }
    else
      match Xlat.walk (s.readTable die asid a.vmid va) 1 va [0, 1, 2, 3] a.root with
      | .error x => .error x
      | .ok (ipa, e1, l1) =>
        match s.walk2 die a.vmid ipa with
        | .error x => .error x
        | .ok (pa, e2, l2) =>
          let sh := min (Xlat.pageShift l1) (Xlat.pageShift l2)
          .ok { asid := asid, vmid := a.vmid, shift := sh, page := va / 2 ^ sh, pa := pa / 2 ^ sh * 2 ^ sh, kind := bitsOf e2 9 8,
                vdn := bitsOf e2 63 52, w1 := bitOf e1 2, x1 := bitOf e1 3, l1 := l1, w2 := bitOf e2 2, x2 := bitOf e2 3,
                l2 := l2, log := bitOf e1 4 || bitOf e2 4, ipa := ipa / 2 ^ sh * 2 ^ sh }

/-- The table entries that a walk of an address passes, for the walkers to cache (03, R65). -/
def walkSeen (s : State) (core asid va : Nat) : List WalkEntry :=
  let a := s.space asid
  let die := core / 192
  let seen2 (ipa : Nat) : List WalkEntry :=
    (Xlat.trail (s.readTable2 die a.vmid ipa) 2 ipa [0, 1, 2] (s.vm a.vmid).root).filterMap fun x =>
      x.2.2.map fun e => { stage := 2, asid := 0, vmid := a.vmid, level := x.1, prefix_ := ipa / 2 ^ Xlat.tableShift x.1, entry := e }
  let steps := Xlat.trail (s.readTable die asid a.vmid va) 1 va [0, 1, 2, 3] a.root
  let seen1 : List WalkEntry := steps.filterMap fun x =>
    x.2.2.map fun e => { stage := 1, asid := asid, vmid := a.vmid, level := x.1, prefix_ := va / 2 ^ Xlat.tableShift x.1, entry := e }
  let last := match Xlat.walk (s.readTable die asid a.vmid va) 1 va [0, 1, 2, 3] a.root with | .ok (ipa, _, _) => [ipa] | .error _ => []
  (seen1 ++ (steps.map (·.2.1) ++ last).flatMap seen2).eraseDups

/-- The translation cached by the core's TLB, or its cluster's, under the address space and its VMID (03, R65). -/
def cached (s : State) (core asid va : Nat) : Option TlbEntry :=
  let hit (t : List TlbEntry) :=
    List.find? (fun (e : TlbEntry) => e.asid == asid && e.vmid == (s.space asid).vmid && e.page == va / 2 ^ e.shift) t
  match hit (s.core core).tlb with
  | some e => some e
  | none => hit (s.ctlb.getD (core / 48) [])

/-- The rights of both leaves, the pages' TYPE, and the address map (03, R63, R64; 10, R231). -/
def permit (s : State) (e : TlbEntry) (va : Nat) (acc : Access) : Except XFault Xlat :=
  let w := acc == .write || acc == .atomic
  let x := acc == .fetch
  let ipa := e.ipa + va % 2 ^ e.shift
  let pa := e.pa + va % 2 ^ e.shift
  if (w && !e.w1) || (x && !e.x1) then .error { cause := 4, stage := 1, level := e.l1 }
  else if (w && !e.w2) || (x && !e.x2) || (e.kind == 1 && x) then .error { cause := 4, stage := 2, level := e.l2, ipa := ipa }
  else
    let r : Xlat := { pa := pa, kind := e.kind, vdn := e.vdn, log := e.log, ipa := ipa, level := e.l2 }
    if e.kind != 0 then .ok r
    else
      match s.mapCause e.vmid pa with
      | none => .ok r
      | some 2 => .error { cause := 2 }
      | some c => .error { cause := c, stage := 2, level := e.l2, ipa := ipa }

/-- A translation for the agents of core `core` (03, R63): by the cached entry where there is one, else by a walk. -/
def translate (s : State) (core asid va : Nat) (acc : Access) : Except XFault Xlat :=
  if 2 ^ 54 ≤ va then .error { cause := 2, stage := 1 }
  else
    match s.cached core asid va with
    | some e => s.permit e va acc
    | none =>
      match s.walkBoth core asid va with
      | .error x => .error x
      | .ok e => s.permit e va acc

/-- A translation to device memory: a peer page or a notify page takes the permission fault of R64. DEDUCED (log 24): so do the
accesses of queues and engines, for which R325 makes no network operation. -/
def translatePlain (s : State) (core asid va : Nat) (acc : Access) : Except XFault Xlat :=
  match s.translate core asid va acc with
  | .error x => .error x
  | .ok r => if r.kind == 0 then .ok r else .error { cause := 4, stage := 2, level := r.level, ipa := r.ipa }

/-- In place of a compute die: the walkers of the I/O die, which cache nothing. -/
def noDie : Nat := 8

/-- A translation by stage 2 alone, of a ring, log, pool, buffer or aperture address (03, R48, R63). -/
def translate2 (s : State) (vmid ipa : Nat) (acc : Access) : Except XFault Xlat :=
  match s.walk2 noDie vmid ipa with
  | .error x => .error x
  | .ok (pa, e, l) =>
    s.permit { asid := 0, vmid := vmid, shift := 16, page := 0, pa := pa / 65536 * 65536, kind := bitsOf e 9 8, vdn := bitsOf e 63 52,
               w1 := true, x1 := true, l1 := 15, w2 := bitOf e 2, x2 := bitOf e 3, l2 := l, log := bitOf e 4,
               ipa := ipa / 65536 * 65536 } ipa acc

/-! ## What a walk reads at the homes (03, R66; 10, R229, R233, R236) -/

/-- The home of a line reads it for an agent: the reductions that cores buffer of it merge, and the slice takes it by an RD packet. -/
def touch (s : State) (line : Nat) : State := (s.mergeLine line).readLine line

/-- The addresses of the table entries that a stage-2 walk reads at their homes: those that its walkers have not cached. -/
def walkReads2 (s : State) (die vmid ipa : Nat) : List Nat :=
  if 2 ^ 52 ≤ ipa || !(s.vm vmid).valid then []
  else
    (Xlat.trail (s.readTable2 die vmid ipa) 2 ipa [0, 1, 2, 3] (s.vm vmid).root).filterMap fun x =>
      if (s.walkHit die 2 0 vmid x.1 ipa).isSome || (s.mapCause vmid x.2.1).isSome then none else some x.2.1

/-- The addresses of the table entries that the walk of both stages reads at their homes. -/
def walkReads (s : State) (core asid va : Nat) : List Nat :=
  let a := s.space asid
  let die := core / 192
  if 2 ^ 54 ≤ va || !a.valid then []
  else
    let entry (t : Nat) : List Nat :=
      match s.walk2 die a.vmid t with
      | .ok (pa, e, _) => if bitsOf e 9 8 != 0 || (s.mapCause a.vmid pa).isSome then [] else [pa]
      | .error _ => []
    ((Xlat.trail (s.readTable die asid a.vmid va) 1 va [0, 1, 2, 3] a.root).flatMap fun x =>
      if (s.walkHit die 1 asid a.vmid x.1 va).isSome then [] else s.walkReads2 die a.vmid x.2.1 ++ entry x.2.1) ++
    match Xlat.walk (s.readTable die asid a.vmid va) 1 va [0, 1, 2, 3] a.root with
    | .ok (ipa, _, _) => s.walkReads2 die a.vmid ipa
    | .error _ => []

/-- Homes read some addresses, line by line. -/
def touchAll (s : State) (as : List Nat) : State := ((as.map lineOf).eraseDups).foldl touch s

/-- The walk that a translation needs has been made: where the TLBs have no entry, the homes have read the table entries. -/
def walked (s : State) (core asid va : Nat) : State :=
  if (s.cached core asid va).isSome then s else s.touchAll (s.walkReads core asid va)

/-- The walks of some addresses, one after the other. -/
def walkedAll (s : State) (core asid : Nat) (vas : List Nat) : State := vas.foldl (fun s a => s.walked core asid a) s

/-- The walk by stage 2 alone, for an agent outside the dies. -/
def walked2 (s : State) (vmid ipa : Nat) : State := s.touchAll (s.walkReads2 noDie vmid ipa)

/-- The VMID a function is bound to (03, R46). -/
def funcVmid (s : State) (f : Nat) : Option Nat :=
  if f = 0 then some 0
  else (List.find? (fun (v : Nat × VmEntry) => v.2.valid && v.2.func == f) s.vmids).map (·.1)

/-- The function that receives what a VMID reports (03, R46): the one its entry names. -/
def vmidFunc (s : State) (v : Nat) : Nat := if v = 0 then 0 else (s.vm v).func

/-- A translation through the stage 2 of a function; one bound to no VMID does not translate (03, R46). -/
def translateFunc (s : State) (f ipa : Nat) (acc : Access) : Except XFault Xlat :=
  match s.funcVmid f with
  | none => .error { cause := 3, stage := 2, level := 0, ipa := ipa }
  | some v => s.translate2 v ipa acc

/-- The walk of a function's stage-2 address. -/
def walkedFunc (s : State) (f ipa : Nat) : State :=
  match s.funcVmid f with
  | none => s
  | some v => s.walked2 v ipa

end State

end Sys2Proof.Machine
end

