-- ==== Sys2Proof/Machine/Rings.lean ====
section
/-! DEFINITION. The rings that the device writes in a function's stage-2 space (03, R68; 17, R383, R387, R388), and the write-range log (10,
R237). -/

namespace Sys2Proof.Machine

namespace State

/-- The cells of bytes at the stage-2 addresses that `at_` gives from index `i` on, each translated for write. -/
def ringCells (s : State) (fn : Nat) (at_ : Nat → Nat) : Nat → List Byte → Except XFault (List (Host.Cell × Option Nat))
  | _, [] => .ok []
  | i, b :: bs =>
    match s.translateFunc fn (at_ i) .write with
    | .error x => .error x
    | .ok x =>
      if x.kind != 0 then .error { cause := 4, stage := 2, level := x.level, ipa := x.ipa }
      else (ringCells s fn at_ (i + 1) bs).map fun cs => ((x.pa, b), if x.log then some x.ipa else none) :: cs

/-- The walks of a record's bytes are made, one for each page that they reach. -/
def ringWalked (s : State) (fn : Nat) (at_ : Nat → Nat) (n : Nat) : State :=
  ((List.range n).filter fun i => i == 0 || at_ i % 65536 == 0 || at_ i != at_ (i - 1) + 1).foldl (fun s i => s.walkedFunc fn (at_ i)) s

/-- Write a record of a ring at its home; none where a byte does not translate for write (03, R72). -/
def ringWrite (s : State) (fn : Nat) (at_ : Nat → Nat) (bs : List Byte) : Option State :=
  let s := s.ringWalked fn at_ bs.length
  match s.ringCells fn at_ 0 bs with
  | .error _ => none
  | .ok cs =>
    let s := cs.foldl (fun s c => match c.2 with | some ipa => s.noteLog fn ipa 1 | none => s) s
    some (s.homeWrites none none (cs.map (·.1)))

/-! ## Write-range logging (10, R237) -/

/-- Writes to pages that function `fn` logs wait. -/
def logHolds (s : State) (fn : Nat) : Bool :=
  let f := s.func fn
  !f.logEnable || decide (2 ^ f.logSize ≤ (f.logProd + 2 ^ 32 - f.logCons) % 2 ^ 32)

/-- A held write to a logged page sets FULL. -/
def logFullSet (s : State) (fn : Nat) : State := s.setFunc fn { s.func fn with logFull := true }

/-- The open records close for a `.sys` release. -/
def closeLog (s : State) (fn : Nat) : State :=
  let f := s.func fn
  if f.logOpen.isEmpty then s else s.setFunc fn { f with logOpen := [], logQueue := f.logQueue ++ f.logOpen }

/-- A ring write waits: it would reach a page that its function logs, while writes to logged pages wait (10, R237). -/
def ringWaits (s : State) (fn : Nat) (at_ : Nat → Nat) (n : Nat) : Bool :=
  s.logHolds fn && match s.ringCells fn at_ 0 (List.replicate n 0) with | .error _ => false | .ok cs => cs.any fun c => c.2.isSome

end State

/-- PHASE of the record at an index of a ring of `2^size` slots (03, R69). -/
def phaseOf (index size : Nat) : Nat := 1 - index / 2 ^ size % 2

/-- Records in a ring that have not been consumed (03, R72). -/
def ringUsed (prod cons : Nat) : Nat := (prod + 2 ^ 32 - cons) % 2 ^ 32

/-- The bits of a write-range record (10, Table 10.7). -/
def OpenRange.bits (r : OpenRange) (phase : Nat) : Nat := phase + r.block * 2 ^ 12 + r.lo * 2 ^ 64 + r.hi * 2 ^ 80

namespace State

/-- The oldest write-range record that is to be appended goes into the ring; none where the ring has no space for it or does not translate
(10, R237). The ring's own writes wait for nothing (log 41). -/
def appendRange (s : State) (fn : Nat) : Option State :=
  let f := s.func fn
  match f.logQueue with
  | [] => none
  | r :: _ =>
    if s.logHolds fn then none
    else
      let slot := f.logBase + 16 * (f.logProd % 2 ^ f.logSize)
      (s.ringWrite fn (fun i => slot + i) (toBytes 16 (r.bits (phaseOf f.logProd f.logSize)))).map fun s =>
        s.setFunc fn { s.func fn with logQueue := (s.func fn).logQueue.drop 1, logProd := (f.logProd + 1) % 2 ^ 32 }

/-- Up to so many records are appended. -/
def appendRanges : Nat → State → Nat → State
  | 0, s, _ => s
  | n + 1, s, fn => match s.appendRange fn with | none => s | some s => appendRanges n s fn

/-- The open records are closed and appended before a `.sys` release of an engine of the function: none where one has to wait (10, R237). -/
def logReleased (s : State) (fn : Nat) : Option State :=
  let s := s.closeLog fn
  let s := appendRanges (s.func fn).logQueue.length s fn
  if (s.func fn).logQueue.isEmpty then some s else none

end State

end Sys2Proof.Machine
end

