-- ==== Sys2Proof/Machine/Lines.lean ====
section
/-! DEFINITION. What makes an access to a line wait, and the lines of a core's L1: copies held and asked for, room for one more, and plain
stores (10, R229; 11, R262; 12, R270, R271, R275, R277). -/

namespace Sys2Proof.Machine

/-! ## What a begun copy command has still to write (11, R262; 12, R277) -/

namespace CopyCmd

/-- The row forms (11, R260). -/
def rows (c : CopyCmd) : Bool := c.form == .gat || c.form == .sct

/-- Bytes of the contiguous side (11, R259). -/
def total (c : CopyCmd) : Nat := if c.rows then c.len * 2 ^ c.rl else c.len

/-- The destination is scratchpad. -/
def toScratch (c : CopyCmd) : Bool := c.form == .g2s || c.form == .s2s || c.form == .gat

/-- The destination is global memory. -/
def toGlobal (c : CopyCmd) : Bool := c.form == .s2g || c.form == .sct

/-- The destination is the Kaolin store. -/
def toKaolin (c : CopyCmd) : Bool := c.form == .g2k || c.form == .s2k

/-- The source is global memory. -/
def fromGlobal (c : CopyCmd) : Bool := c.form == .g2s || c.form == .g2k || c.form == .gat

/-- A byte range cut at the 64 KiB pages it crosses. -/
def pages : Nat → Nat → Nat → List (Nat × Nat)
  | 0, _, _ => []
  | fuel + 1, a, n =>
    let first := min n (65536 - a % 65536)
    if n = 0 then [] else (a, first) :: pages fuel (a + first) (n - first)

/-- The address ranges, on the side whose base is `base`, of contiguous offsets `lo` to `hi`: for a row form each row's
place (11, R263). -/
def ranges (c : CopyCmd) (rowSide : Bool) (base lo hi : Nat) : List (Nat × Nat) :=
  if rowSide && c.rows then
    let piece := min 4096 (2 ^ c.rl)
    (List.range ((hi - lo + piece - 1) / piece)).flatMap fun j =>
      let o := lo + j * piece
      pages 3 (base + c.index.getD (o / 2 ^ c.rl) 0 * 2 ^ c.rl + o % 2 ^ c.rl) (min piece (hi - o))
  else pages 258 (base + lo) (hi - lo)

/-- The global destination ranges not yet written. -/
def globalLeft (c : CopyCmd) : List (Nat × Nat) :=
  if c.begun && c.toGlobal then c.ranges true c.dst (4096 * c.chunk) c.total else []

end CopyCmd

namespace State

/-- Where a destination address of a command on core `core` lies, although its chunk may not be allowed to write there (11, R262; 12,
R277); none where it does not translate. -/
def claimPlace (s : State) (core : Nat) (c : CopyCmd) (va : Nat) : Option Nat :=
  let asid := (s.launch (s.team c.team).launch).asid
  match s.translatePlain core asid va .write with
  | .ok x => some x.pa
  | .error _ =>
    match s.translatePlain core asid va .read with
    | .ok x => some x.pa
    | .error _ => none

/-- A begun copy command owns the line (11, R262). -/
def lineClaimed (s : State) (line : Nat) : Bool :=
  s.cores.any fun k =>
    match k.2.copies with
    | c :: _ =>
      c.globalLeft.any fun r =>
        match s.claimPlace k.1 c r.1 with
        | some pa => decide (lineOf pa ≤ line) && decide (line ≤ lineOf (pa + r.2 - 1))
        | none => false
    | [] => false

/-- A begun copy command owns one of `n` scratchpad bytes (11, R262). -/
def spClaimed (s : State) (k off n : Nat) : Bool :=
  s.cores.any fun x =>
    match x.2.copies with
    | c :: _ =>
      let (dk, dof) := spPlace x.1 c.dst
      c.begun && c.toScratch && dk == k && decide (off < dof + c.total) && decide (dof + 4096 * c.chunk < off + n)
    | [] => false

/-- An access to the line waits: for a copy's chunk, a narrow holder outside core `c`, or a recall (11, R262; 12, R275;
16, R375). -/
def lineBlocked (s : State) (c : Option Nat) (line : Nat) : Bool :=
  s.narrowElsewhere c line || (s.recalls.find? line).isSome || s.lineClaimed line

/-- Some line of the range waits. -/
def rangeBlocked (s : State) (c : Option Nat) (pa n : Nat) : Bool := (linesOf pa n).any (s.lineBlocked c)

/-! ## The L1 (10, R229) -/

/-- Lines of the L1 at a split: what scratchpad leaves of 384 KiB (01, Table 1.1; 10, R229). -/
def l1Lines (split : Nat) : Nat := (256 - 64 * split) * 1024 / 128

/-- The line whose copy core `c` gives up for another: the oldest one, leaving out those with dirty bytes whose write-back waits. DESIGN
CHOICE (log 94): the spec names no policy. -/
def l1Victim (s : State) (c : Nat) : Option Nat :=
  let k := s.core c
  k.lines.find? fun l => !(k.l1.any fun x => lineOf x.1 == l) || !s.lineBlocked (some c) l

/-- The core's L1 holds the line, or awaits it, or has room for one more. -/
def l1Room (s : State) (c line : Nat) : Bool :=
  let k := s.core c
  k.lines.contains line || k.misses.contains line || decide (k.lines.length + k.misses.length < l1Lines k.split) || (s.l1Victim c).isSome

/-- A core that reaches a line it holds no copy of has a miss pending (16, R376); where its L1 is full, another line leaves, its dirty
bytes first. -/
def noteLine (s : State) (c line : Nat) : State :=
  let k := s.core c
  if k.lines.contains line || k.misses.contains line then s
  else
    let s := if k.lines.length + k.misses.length < l1Lines k.split then s else
      match s.l1Victim c with
      | none => s
      | some l => let s := s.flushLine c l; s.setCore c { s.core c with lines := (s.core c).lines.filter (· != l) }
    s.setCore c { s.core c with misses := (s.core c).misses ++ [line] }

/-- Wake the sleepers of core `c` whose monitored line its own store changes before it reaches the home (12, R288). -/
def wakeOwn (s : State) (c : Nat) (cells : List Host.Cell) : State :=
  { s with groups := s.groups.mapVals fun _ g =>
      match g.wait with
      | .waita w => if !w.sp && !w.notify && g.core == c && cells.any (fun x => lineOf x.1 == lineOf w.place)
                    then { g with wait := .waita { w with woken := true } } else g
      | _ => g }

/-- A plain store of a group on core `c`: reductions that the core has buffered of its lines go home first, and the bytes stay dirty in
its L1 (10, R229; 12, R270); clean window words of those bytes are read afresh (12, R276). `log`: the function and stage-2 address of the first byte, where the page is logged. -/
def storeL1 (s : State) (c : Nat) (cells : List Host.Cell) (log : Option (Nat × Nat)) : State :=
  let first := ((cells.head?).map Prod.fst).getD 0
  let s := ((cells.map fun x => lineOf x.1).eraseDups).foldl (fun s l =>
    let s := (s.mergeSilt c fun x => x.line == l).noteLine c l
    s.logLine c (max first (128 * l)) (log.map fun x => (x.1, x.2 + (max first (128 * l) - first)))) s
  let k := s.core c
  ((s.setCore c { k with l1 := cells.foldl (fun m x => Tbl.set m x.1 x.2) k.l1,
                         l1Poison := k.l1Poison.filter fun w => !cells.any fun x => x.1 / 4 == w }).staleWindows c cells).wakeOwn c cells

end State

end Sys2Proof.Machine
end

