-- ==== Sys2Proof/Machine/Operands.lean ====
section
/-! DEFINITION. Operand fields (05, R97–R109): what each field may name, reading a source, and writing a destination. -/

namespace Sys2Proof.Machine

/-- An operand field (05, Table 5.3). -/
structure Opnd where
  hold  : Bool
  last  : Bool
  perm  : Nat
  index : Nat
  cls   : Nat
  deriving DecidableEq, Repr

/-- The parts of a 16-bit field (05, Table 5.3). -/
def Opnd.of (x : BitVec 16) : Opnd :=
  { hold := bitOf x.toNat 15, last := bitOf x.toNat 14, perm := bitsOf x.toNat 13 10, index := bitsOf x.toNat 9 2,
    cls := bitsOf x.toNat 1 0 }

/-- Names of the classes of Table 5.3. -/
def Opnd.isVec (o : Opnd) : Bool := o.cls == 0
def Opnd.isPred (o : Opnd) : Bool := o.cls == 1 && decide (16 ≤ o.index)
def Opnd.isQ0 (o : Opnd) : Bool := o.cls == 1 && o.index == 8
def Opnd.isScalar (o : Opnd) : Bool := o.cls == 2
def Opnd.isImm (o : Opnd) : Bool := o.cls == 3

/-- The number of what an operand names. -/
def Opnd.key (o : Opnd) : Nat := o.cls * 16384 + o.index

/-- How an opcode uses its operand fields (05, R97, R102, R106, R107): which it reads or writes as operands, whether
AUX holds anything other than a broadcast lane, and whether it shifts the last-result file. -/
structure Roles where
  d      : Bool := true
  a      : Bool := true
  b      : Bool := true
  c      : Bool := false
  auxOwn : Bool := false
  dIsSrc : Bool := false
  shifts : Bool := true
  deriving DecidableEq, Repr

/-- The roles of each opcode's fields, from its own encoding entry. -/
def roles (opc : Nat) (f : Fields) : Roles :=
  match Forms.vform opc with
  | some v =>
    { a := true, b := decide (2 ≤ v.srcs), c := decide (3 ≤ v.srcs), auxOwn := decide (3 ≤ v.srcs),
      shifts := !(decide (0x0E0 ≤ opc) && decide (opc ≤ 0x0E6)) }
  | none =>
    match opc with
    | 0x004 => { d := false, b := false }
    | 0x006 => { d := false, b := false }
    | 0x009 => { d := false, b := false, auxOwn := true }
    | 0x00C => { d := false, b := false, a := !f.imm32 }
    | 0x00D => { a := false, b := false }
    | 0x00E => { d := false, b := false }
    | 0x041 => { shifts := false }
    | 0x043 => { shifts := false }
    | 0x060 => {}
    | 0x063 => { a := false, b := false }
    | 0x0C6 => {}
    | 0x0F0 => { b := false, auxOwn := true }
    | 0x0F1 => { b := false, auxOwn := true }
    | 0x0F2 => { b := false, auxOwn := true }
    | 0x0F3 => { a := !f.imm32, b := false }
    | 0x141 => { c := true, auxOwn := true }
    | 0x142 => { b := f.mode == 1 }
    | 0x143 => { b := false }
    | 0x144 => { b := false }
    | 0x145 => { b := false }
    | 0x180 => { d := false, auxOwn := true }
    | 0x181 => { d := false, a := false, auxOwn := true }
    | 0x182 => { d := false, a := false, auxOwn := true }
    | 0x189 => { a := false, shifts := false }
    | 0x18A => { d := false }
    | 0x18B => { d := false }
    | 0x190 => { b := false, auxOwn := true, shifts := false }
    | 0x191 => { d := false, b := false }
    | 0x1C0 => { auxOwn := true, shifts := false }
    | 0x1C1 => { auxOwn := true, dIsSrc := true }
    | 0x1C2 => { auxOwn := true, shifts := false }
    | 0x1C3 => { auxOwn := true, dIsSrc := true }
    | 0x1C4 => { b := false, auxOwn := true, shifts := false }
    | 0x1C5 => { b := false, auxOwn := true, dIsSrc := true }
    | 0x1C8 => { d := false, b := false, a := !f.imm32 }
    | 0x1C9 => { d := false, auxOwn := true }
    | 0x1D0 => { d := false, c := true, auxOwn := true }
    | 0x1D1 => { d := false, b := false, a := f.fn == 0 }
    | 0x1D2 => { d := false, b := false, a := f.fn == 0 }
    | 0x1D3 => { d := false, b := false, a := f.fn == 0 }
    | 0x1E0 => { dIsSrc := true, auxOwn := true }
    | 0x1E1 => { dIsSrc := true, auxOwn := true }
    | 0x1E2 => { dIsSrc := true, auxOwn := true }
    | 0x1E3 => { dIsSrc := true, auxOwn := true }
    | 0x1E4 => { dIsSrc := true, auxOwn := true }
    | 0x1E5 => { dIsSrc := true, auxOwn := true }
    | 0x1E6 => { dIsSrc := true, auxOwn := true }
    | 0x241 => { auxOwn := true, shifts := false }
    | 0x242 => { auxOwn := true, shifts := false }
    | 0x243 => { auxOwn := true, dIsSrc := true }
    | 0x248 => { d := false, b := false }
    | 0x249 => { d := false, b := false }
    | 0x250 => { c := true, auxOwn := true }
    | 0x258 => { d := false, b := false }
    | 0x259 => { b := false, shifts := false }
    | 0x25A => { d := false, b := false }
    | 0x280 => { d := false, auxOwn := f.fn == 1 }
    | 0x281 => { d := false, b := f.fn != 0, auxOwn := true }
    | 0x282 => { a := false, b := false, shifts := false }
    | 0x283 => { a := false, b := false }
    | 0x2A0 => { d := false, b := false }
    | 0x2A2 => { a := false, b := false, shifts := false }
    | 0x2C3 => { a := false, b := false, auxOwn := true }
    | 0x2C4 => { d := false, b := false, auxOwn := true }
    | 0x2C8 => { d := false }
    | 0x2C9 => { d := false }
    | 0x2D0 => { d := false }
    | 0x2D8 => { a := false, b := false, auxOwn := true, shifts := false }
    | 0x2E1 => { d := false, auxOwn := true }
    | _ => { d := false, a := false, b := false }

/-! ## A group's lanes -/

namespace Group

/-- The slot A, or B where `b`. -/
def slot (g : Group) (b : Bool) : PcSlot := if b then g.slotB else g.slotA

/-- Change one slot. -/
def setSlot (g : Group) (b : Bool) (p : PcSlot) : Group := if b then { g with slotB := p } else { g with slotA := p }

/-- A slot is live when its owned set is nonempty (06, R117). -/
def live (g : Group) (b : Bool) : Bool := (g.slot b).owned != 0

/-- Both slots are live (05, R108). -/
def bothLive (g : Group) : Bool := g.live false && g.live true

/-- The mask of lanes 0 to WIDTH − 1. -/
def allLanes (g : Group) : LaneMask := BitVec.ofNat 96 (2 ^ g.width - 1)

/-- The lanes that have not exited (13, R293 for those that hold no live slot). -/
def liveLanes (g : Group) : LaneMask := g.allLanes &&& ~~~g.exited

/-- Predicate p0 to p7, p7 constantly true (05, Table 5.4). -/
def pred (g : Group) (n : Nat) : LaneMask := if n = 7 then g.allLanes else g.preds.getD n 0

/-- The lanes the guard selects (05, R95). -/
def guardMask (g : Group) (grd : BitVec 4) : LaneMask :=
  let p := g.pred (grd.toNat % 8)
  if bitOf grd.toNat 3 then g.allLanes &&& ~~~p else p

/-- What the instruction that slot `b` reissues captured as it issued first (15, R338, R340). -/
def captured (g : Group) (b : Bool) : Option Capture := g.capture.filter fun x => x.slotB == b

/-- The active lanes of an instruction (05, R95). -/
def active (g : Group) (b : Bool) (f : Fields) : LaneMask :=
  match g.captured b with
  | some x => x.act
  | none => (g.slot b).active &&& g.guardMask f.grd

/-- A vector name as mapped, +0 where unmapped (05, R105). -/
def vreg (g : Group) (n : Nat) : VReg := g.vregs.getD n { vals := List.replicate g.width 0, poison := 0 }

/-- A scalar register; s60 to s62 are the issuing slot's active mask (06, R117). -/
def sreg (g : Group) (b : Bool) (n : Nat) : Word :=
  if 60 ≤ n ∧ n ≤ 62 then BitVec.ofNat 32 (((g.slot b).active.toNat) >>> (32 * (n - 60))) else g.sregs.getD n 0

end Group

/-- Lanes of a mask in increasing order. -/
def lanesOf (m : LaneMask) : List Nat := (List.range 96).filter fun l => m.getLsbD l

/-- The mask of the lanes below `w` that satisfy `p`. -/
def maskOf (w : Nat) (p : Nat → Bool) : LaneMask :=
  BitVec.ofNat 96 ((List.range w).foldl (fun acc l => acc + if p l then 2 ^ l else 0) 0)

/-- A value's word in a lane. -/
def Value.at (v : Value) (l : Nat) : Word := if v.vec then v.vals.getD l 0 else v.vals.getD 0 0

/-- A value's poison in a lane (15, R341). -/
def Value.poisonAt (v : Value) (l : Nat) : Bool := v.poison.getLsbD (if v.vec then l else 0)

/-- A uniform value. -/
def Value.uniform (x : Word) (poison : Bool := false) : Value :=
  { vec := false, vals := [x], poison := if poison then 1 else 0 }

/-- A value per lane. -/
def Value.lanes (w : Nat) (p : Nat → Word) (poison : LaneMask := 0) : Value :=
  { vec := true, vals := (List.range w).map p, poison := poison }

/-! ## Special registers (05, Table 5.5) -/

/-- Low and high word of a number. -/
def half (x : Nat) (high : Bool) : Word := BitVec.ofNat 32 (if high then x >>> 32 else x)

/-- A per-lane special register (05, Table 5.5; 13, R293). -/
def laneSpecial (g : Group) (pop : Bool) (i l : Nat) : Word :=
  let ok := pop && !g.exited.getLsbD l
  match i with
  | 64 => BitVec.ofNat 32 l
  | 65 => if ok then BitVec.ofNat 32 (g.slotNo.getD l 0) else 0
  | 66 => if ok then half (g.lin.getD l 0) false else 0
  | 67 => if ok then half (g.lin.getD l 0) true else 0
  | 68 => if ok then half (g.par.getD l 0) false else 0
  | 69 => if ok then half (g.par.getD l 0) true else 0
  | _ => if ok then BitVec.ofNat 32 (g.ord.getD l 0) else 0

/-- The cluster-wide scratchpad address of a team's range on core 2k (`second` false) or 2k+1 (04, R76). -/
def spBase (t : Team) (second : Bool) : Nat :=
  if second then (if t.spLen = 0 then 0 else (t.core % 48 + 1) * 2 ^ 19 + t.spOff1) else t.core % 48 * 2 ^ 19 + t.spOff0

/-- A uniform special register (05, Table 5.5). -/
def uniformSpecial (s : State) (g : Group) (i : Nat) : Word :=
  let t := s.team g.team
  let r := (s.launch t.launch).record
  match i with
  | 72 => BitVec.ofNat 32 g.grpid
  | 73 => BitVec.ofNat 32 t.teamid
  | 74 => BitVec.ofNat 32 g.width
  | 75 => BitVec.ofNat 32 r.teams
  | 76 => half r.kimg false
  | 77 => half r.kimg true
  | 78 => half r.param false
  | 79 => half r.param true
  | 80 => BitVec.ofNat 32 (spBase t false)
  | 81 => if r.span then BitVec.ofNat 32 (spBase t true) else 0
  | 82 => half g.cycle false
  | 83 => half g.cycle true
  | 84 => (g.loops.getD 0 {}).count
  | 85 => (g.loops.getD 1 {}).count
  | 86 => (g.loops.getD 2 {}).count
  | 87 => if g.sat then 1 else 0
  | 88 => g.uflow
  | 89 => g.mflush
  | 90 => g.mwrap
  | _ => BitVec.ofNat 32 g.core

/-! ## Reading a source -/

/-- The latch entry an instruction of slot `b` may read (05, R106). -/
def latchAt (g : Group) (b : Bool) (i : Nat) : Option LatchEntry :=
  match g.latch[i]? with
  | some e => if e.age != 0 && e.slotB == b then some e else none
  | none => none

/-- What a source names, before its permutation (05, R98–R100, R104). -/
def namedSource (s : State) (g : Group) (b : Bool) (o : Opnd) : Value :=
  match o.cls with
  | 0 => let v := g.vreg o.index; { vec := true, vals := v.vals, poison := v.poison }
  | 1 =>
    if o.index ≤ 2 then ((latchAt g b o.index).map (·.value)).getD (.uniform 0)
    else if o.index = 8 then g.q0.getD (.uniform 0)
    else if o.index = 9 then g.q1.getD (.uniform 0)
    else let p := g.pred (o.index - 16); .lanes g.width fun l => if p.getLsbD l then 1 else 0
  | 2 =>
    if o.index < 64 then .uniform (g.sreg b o.index) (g.spoison.getLsbD o.index)
    else if o.index ≤ 70 then .lanes g.width (laneSpecial g (s.launch (s.team g.team).launch).record.pop o.index)
    else .uniform (uniformSpecial s g o.index)
  | _ => .uniform (word (valBits true 8 o.index))

/-- A source before its permutation: as captured, where the instruction is reissued (15, R338). -/
def rawSource (s : State) (g : Group) (b : Bool) (o : Opnd) : Value :=
  match (g.captured b).bind fun x => x.vals.find? o.key with
  | some v => v
  | none => namedSource s g b o

/-- The source lane of a permutation (05, Table 5.6). -/
def permLane (w perm aux l : Nat) : Nat :=
  match perm with
  | 0 => l
  | 7 => l / 8 * 8 + (l + 1) % 8
  | 8 => l / 8 * 8 + (l + 7) % 8
  | 9 => l / 32 * 32 + 31 - l % 32
  | 10 => w - 1 - l
  | 11 => aux % 128
  | 12 => 0
  | p => Nat.xor l (2 ^ (p - 1))

/-- The value after permutation: +0 from beyond the group, and for a class-00 name or a predicate from an exited lane
(05, R101). -/
def permute (g : Group) (o : Opnd) (aux : Nat) (v : Value) : Value :=
  if !v.vec then v
  else
    let from_ (l : Nat) : Option Nat :=
      let p := permLane g.width o.perm aux l
      if g.width ≤ p || ((o.isVec || o.isPred) && g.exited.getLsbD p) then none else some p
    { vec := true, vals := (List.range g.width).map fun l => match from_ l with | some p => v.at p | none => 0,
      poison := maskOf g.width fun l => match from_ l with | some p => v.poisonAt p | none => false }

/-- A source as an instruction reads it (05, R100, R101). -/
def source (s : State) (g : Group) (b : Bool) (f : Fields) (x : BitVec 16) : Value :=
  let o := Opnd.of x
  permute g o f.aux.toNat (rawSource s g b o)

/-! ## The illegal-operand conditions, field by field (05, R109 step 2) -/

/-- A source is vector-valued (05, R100). -/
def vectorValued (g : Group) (b : Bool) (o : Opnd) : Bool :=
  match o.cls with
  | 0 => true
  | 1 =>
    if o.index ≤ 2 then ((latchAt g b o.index).map (·.value.vec)).getD false
    else if o.index = 8 then (g.q0.map (·.vec)).getD false
    else if o.index = 9 then (g.q1.map (·.vec)).getD false
    else true
  | 2 => decide (64 ≤ o.index) && decide (o.index ≤ 70)
  | _ => false

/-- D names something it may not (05, Tables 5.4, 5.5 and 5.10; R102, R105–R108). -/
def destBad (g : Group) (vregs : Nat) (ll shifts : Bool) (o : Opnd) : Bool :=
  (match o.cls with
    | 0 => false
    | 1 => !(o.index == 8 || (decide (16 ≤ o.index) && decide (o.index ≤ 22)))
    | 2 => !(decide (o.index < 64) || (decide (87 ≤ o.index) && decide (o.index ≤ 90)))
    | _ => true) ||
  o.perm != 0 || o.last || (o.hold && (ll || g.bothLive)) || (o.isVec && decide (vregs ≤ o.index)) ||
  (o.isQ0 && (!shifts || g.bothLive))

/-- A source names something it may not (05, Tables 5.4, 5.5 and 5.10; R102, R105, R106, R108). -/
def sourceBad (g : Group) (b : Bool) (vregs : Nat) (r : Roles) (f : Fields) (o : Opnd) : Bool :=
  (match o.cls with
    | 0 => false
    | 1 => !(decide (o.index ≤ 2) || o.index == 8 || o.index == 9 || (decide (16 ≤ o.index) && decide (o.index ≤ 23)))
    | 2 => o.index == 71 || decide (92 ≤ o.index)
    | _ => o.hold || o.last || o.perm != 0) ||
  decide (13 ≤ o.perm) || (o.perm != 0 && !vectorValued g b o) ||
  (o.perm == 11 && (r.auxOwn || f.imm32 || decide (128 ≤ f.aux.toNat))) ||
  (o.last && !o.isVec) || (o.hold && g.bothLive) || (o.isVec && decide (vregs ≤ o.index)) ||
  (o.cls == 1 && decide (o.index ≤ 9) && g.bothLive) ||
  (o.cls == 1 && decide (o.index ≤ 2) && (latchAt g b o.index).isNone)

/-- HOLD, PERM and LAST bits that an opcode's own entry forbids on its sources (09, R217, R224; 11, R243, R260; 12, R280;
13, R302; 14, R330; 15, R349). -/
def bannedBits (opc : Nat) (o : Opnd) : Bool :=
  let all := decide (0x180 ≤ opc) && decide (opc ≤ 0x182) || opc == 0x190 || decide (0x1E0 ≤ opc) && decide (opc ≤ 0x1E6) ||
    decide (0x2A0 ≤ opc) && decide (opc ≤ 0x2A2)
  let holds := opc == 0x1C1 || opc == 0x1C3 || opc == 0x1C5 || decide (0x240 ≤ opc) && decide (opc ≤ 0x25A) || opc == 0x280 || opc == 0x281 ||
    decide (0x2C0 ≤ opc)
  ((all || holds) && o.hold) || ((all || decide (0x2C0 ≤ opc)) && o.perm != 0) || (all && o.last)

/-- The number of the first field that breaks a rule: 1 D, 2 A, 3 B, 4 C (05, R109 step 2; 15, Table 15.2); `own`: the fields that break
a rule of the opcode's own entry. -/
def operandFault (g : Group) (b : Bool) (vregs opc : Nat) (f : Fields) (own : Nat → Bool := fun _ => false) : Option Nat :=
  let r := roles opc f
  let ll := Forms.longLatency opc
  let d := Opnd.of f.d
  let scalarD := r.d && !r.dIsSrc && d.isScalar
  let src (x : BitVec 16) : Bool :=
    let o := Opnd.of x
    sourceBad g b vregs r f o || bannedBits opc o || (scalarD && vectorValued g b o)
  if r.d && (if r.dIsSrc then sourceBad g b vregs r f d || d.perm != 0 || d.last || d.hold else destBad g vregs ll r.shifts d) || own 1
  then some 1
  else if r.a && src f.a || own 2 then some 2
  else if r.b && !f.imm32 && src f.b || own 3 then some 3
  else if r.c && src f.aux || own 4 then some 4
  else none

/-! ## Writing registers -/

namespace Group

/-- A write to a name ends what an open window would deliver to it (05, R111). -/
def dropShadow (g : Group) (n : DName) : Group :=
  if g.windows.isEmpty then g
  else { g with windows := g.windows.map fun w => { w with dests := w.dests.filter fun d => d.name != n } }

/-- The lanes of `m` of vector name `n` take `p`; the others keep the name's previous value (05, R105). -/
def putVec (g : Group) (n : Nat) (m : LaneMask) (p : Nat → Word) (poison : LaneMask := 0) : Group :=
  let v := g.vreg n
  { g with vregs := g.vregs.set n { vals := (List.range g.width).map fun l => if m.getLsbD l then p l else v.vals.getD l 0,
                                    poison := (v.poison &&& ~~~m) ||| (poison &&& m) } }

/-- A slot's active mask after a write that leaves `m`: an empty result makes every owned lane active (06, R127). -/
def setActive (g : Group) (b : Bool) (m : LaneMask) : Group :=
  let p := g.slot b
  g.setSlot b { p with active := if m &&& p.owned = 0 then p.owned else m &&& p.owned }

/-- A scalar register; s60 to s62 change the issuing slot's active mask (06, R127). -/
def putScalar (g : Group) (b : Bool) (n : Nat) (x : Word) (poison : Bool := false) : Group :=
  if 60 ≤ n ∧ n ≤ 62 then
    g.setActive b (BitVec.ofNat 96 (putBits (g.slot b).active.toNat (32 * (n - 60) + 31) (32 * (n - 60)) x.toNat))
  else { g with sregs := g.sregs.set n x,
                spoison := if poison then g.spoison ||| BitVec.ofNat 64 (2 ^ n) else g.spoison &&& ~~~(BitVec.ofNat 64 (2 ^ n)) }

/-- A RW special register (05, Table 5.5; 07, R149, R166). -/
def putSpecial (g : Group) (n : Nat) (x : Word) : Group :=
  match n with
  | 87 => { g with sat := x.getLsbD 0 }
  | 88 => { g with uflow := x }
  | 89 => { g with mflush := x }
  | _ => { g with mwrap := x }

/-- A predicate: each lane of `m` takes its bit of `x` (05, Table 5.4). -/
def putPred (g : Group) (n : Nat) (m x : LaneMask) : Group :=
  { g with preds := (List.range 7).map fun i => if i = n then (g.pred n &&& ~~~m) ||| (x &&& m) else g.preds.getD i 0 }

end Group

/-- D takes a result in the active lanes: a vector name, a scalar or special register, a predicate, or nothing for q0
(05, R98, R105; 08, R172). -/
def putDest (g : Group) (b : Bool) (act : LaneMask) (o : Opnd) (v : Value) (poison : LaneMask := 0) : Group :=
  match o.cls with
  | 0 => (g.dropShadow (.v o.index)).putVec o.index act v.at poison
  | 1 => if o.index = 8 then g else (g.dropShadow (.p (o.index - 16))).putPred (o.index - 16) act (maskOf g.width fun l => (v.at l).getLsbD 0)
  | _ => if o.index < 64 then (g.dropShadow (.s o.index)).putScalar b o.index (v.at 0) (v.poison.getLsbD 0)
         else (g.dropShadow (.special o.index)).putSpecial o.index (v.at 0)

/-- The result in the active lanes and +0 in the others enters q0, and q0 moves to q1 (05, R107). -/
def shiftResult (g : Group) (act : LaneMask) (v : Value) : Group :=
  { g with q1 := g.q0,
           q0 := some (if v.vec then .lanes g.width fun l => if act.getLsbD l then v.at l else 0 else .uniform (v.at 0)) }

end Sys2Proof.Machine
end

