-- ==== Sys2Proof/Machine/Trace.lean ====
section
/-! DEFINITION. The instruction trace (17, R388, R389): what a traced group's instructions, traps and stops write. -/

namespace Sys2Proof.Machine

/-- `n` payload bytes of seven bits each, the least significant first (17, R388). -/
def sevenBits : Nat → Nat → List Byte
  | 0, _ => []
  | n + 1, x => BitVec.ofNat 8 (x % 128) :: sevenBits n (x / 128)

/-- A trace record: its header byte and payload (17, Table 17.4). -/
def traceRecord (type x n payload : Nat) : List Byte := BitVec.ofNat 8 (type * 8 + x) :: sevenBits n payload

/-- The marker and a sync record of a group (17, Table 17.4). -/
def syncRecord (s : State) (g : Group) : List Byte :=
  let t := s.team g.team
  let level (i : Nat) : Nat :=
    let l := g.loops.getD i {}
    b2n l.opened + l.count.toNat * 2 + l.start.toNat * 2 ^ 33 + l.stop.toNat * 2 ^ 65
  let x := (s.launch t.launch).record.tag + t.teamid * 2 ^ 32 + g.grpid * 2 ^ 64 + b2n (g.live true) * 2 ^ 69 + g.slotA.pc.toNat * 2 ^ 70 +
    g.slotB.pc.toNat * 2 ^ 102 + g.slotA.active.toNat * 2 ^ 134 + g.slotB.active.toNat * 2 ^ 230 + level 0 * 2 ^ 326 + level 1 * 2 ^ 423 +
    level 2 * 2 ^ 520
  List.replicate 4 0xFF ++ traceRecord 7 0 89 x

namespace State

/-- The function that traces a group (17, R388): its trace is on and TRC_SEL names the group. -/
def tracer (s : State) (g : Group) : Option Nat :=
  let t := s.team g.team
  let l := s.launch t.launch
  let fn := s.vmidFunc l.vmid
  let f := s.func fn
  if f.trcEnable && f.trcSel0 == l.index + l.queue * 2 ^ 32 && f.trcSel1 == t.teamid + g.grpid * 2 ^ 32 then some fn else none

/-- Append bytes to a function's trace ring; none where there is no room, the ring does not translate, or the log of its page holds the write
(log 41). -/
def traceBytes (s : State) (fn : Nat) (bs : List Byte) : Option State :=
  let f := s.func fn
  let size := 2 ^ (f.trcSize + 10)
  if size < ringUsed f.trcProd f.trcCons + bs.length || s.ringWaits fn (fun i => f.trcBase + (f.trcProd + i) % size) bs.length then none
  else
    (s.ringWrite fn (fun i => f.trcBase + (f.trcProd + i) % size) bs).map fun s =>
      s.setFunc fn { s.func fn with trcProd := ((s.func fn).trcProd + bs.length) % 2 ^ 32 }

/-- One record of a traced group (as it stands before and after what is recorded), with the sync records due before and after it; a record that finds no room is lost, and
so is every record until the gap record is written (17, R389). -/
def emit (s : State) (g after : Group) (r : List Byte) : State :=
  match s.tracer g with
  | none => s
  | some fn =>
    let f := s.func fn
    let lost : State := s.setFunc fn { f with trcGap := true, trcLost := f.trcLost + 1 }
    if f.trcLost != 0 then lost
    else
      let since := f.trcSince + 1
      let bs := (if f.trcSync then syncRecord s g else []) ++ r ++ if since = 256 then syncRecord s after else []
      match s.traceBytes fn bs with
      | none => lost
      | some s => s.setFunc fn { s.func fn with trcSync := false, trcSince := since % 256 }

/-- A stop of a traced group: 0 halt, 1 save or eviction, 2 end (17, Table 17.4). -/
def traceStop (s : State) (g : Group) (x : Nat) : State := s.emit g g (traceRecord 6 x 0 0)

/-- A record of each slot's active mask that has changed (17, Table 17.4). -/
def traceMasks (s : State) (before after : Group) : State :=
  [false, true].foldl (fun s x =>
    if (after.slot x).active != (before.slot x).active then s.emit after after (traceRecord 2 (b2n x) 14 (after.slot x).active.toNat) else s) s

/-- The records of a word that has issued: the issue, each mask it changed, and a halt (17, Table 17.4). -/
def traceIssue (s : State) (before after : Group) (b : Bool) (any : Bool) : State :=
  match s.tracer before with
  | none => s
  | some _ =>
    let pc := (after.slot b).pc
    let away := pc != (before.slot b).pc + 12
    let s := s.emit before after (traceRecord 1 (b2n b + b2n away * 2 + b2n (!any) * 4) (if away then 5 else 0) pc.toNat)
    let s := s.traceMasks before after
    if after.halted && !before.halted then s.traceStop after 0 else s

end State

end Sys2Proof.Machine
end

