-- ==== Sys2Proof/Machine/Schedule.lean ====
section
/-! DEFINITION. What decides which groups issue: lookahead windows (05, R111, R112), waiting and ready groups, the active sets and pending
lists (04, R86–R88), and the register pool (04, R90). -/

namespace Sys2Proof.Machine

/-- The launch a group belongs to. -/
def State.launchOf (s : State) (g : Group) : Nat := (s.team g.team).launch

/-- The scratchpad bytes of a split (01, Table 1.1). -/
def splitSize (split : Nat) : Nat := (128 + 64 * split) * 1024

/-! ## Slots (06, R117, R124) -/

/-- RPC NONE (06, R117). -/
def rpcNone : Word := 0xFFFFFFFF

/-- A slot that has ceased to be live and has still to arrive keeps its join flag with no owned lane (06, R124). -/
def PcSlot.arriving (p : PcSlot) : Bool := p.owned == 0 && p.join

/-- The slot waits at a group join (06, R117). -/
def PcSlot.atJoin (p : PcSlot) : Bool := p.owned != 0 && p.join

/-- The slot holds no path. -/
def PcSlot.vacant (p : PcSlot) : Bool := p.owned == 0 && !p.join

/-! ## Lookahead windows (05, R111, R112) -/

/-- What a closing window frees and then delivers; the windows of the group are those that stay open (05, R105, R111). -/
def Group.deliver (g : Group) (w : Window) : Group :=
  let g := w.frees.foldl (fun g n =>
    if g.windows.any fun x => x.dests.any fun d => d.name == .v n then g else { g with vregs := g.vregs.erase n }) g
  w.dests.foldl (fun g d =>
    match d.name with
    | .v n => g.putVec n (d.lanes &&& g.liveLanes) (fun l => d.vals.getD l 0) d.poison
    | .s n => if d.lanes = 0 then g else g.putScalar w.remA.isNone n (d.vals.getD 0 0) (d.poison.getLsbD 0)
    | .p n => g.putPred n (d.lanes &&& g.liveLanes) (maskOf g.width fun l => (d.vals.getD l 0).getLsbD 0)
    | .special n => if d.lanes = 0 then g else g.putSpecial n (d.vals.getD 0 0)) g

/-- A window whose instruction has completed and whose count a slot has used up closes (05, R111). A window that both slots share after a
divergence is one window: it closes for both as soon as one of them has used up its count (R112 does not say; log 93). -/
def Window.closes (w : Window) : Bool := w.done && (w.remA == some 0 || w.remB == some 0)

/-- The windows that stay open, and the names that those which close deliver: a name that a later instruction delivers
is no longer shadowed for an earlier one, whose result for it is discarded (05, R111). -/
def keepOpen : List Window → List Window × List DName
  | [] => ([], [])
  | w :: ws =>
    let r := keepOpen ws
    if w.closes then (r.1, w.dests.map (·.name) ++ r.2)
    else ({ w with dests := w.dests.filter fun d => !r.2.contains d.name } :: r.1, r.2)

/-- Close every window that is due, in the order they opened. -/
def Group.closeDue (g : Group) : Group :=
  let due := g.windows.filter (·.closes)
  if due.isEmpty then g
  else due.foldl Group.deliver { g with windows := (keepOpen g.windows).1 }

/-- Open a window of `la` further instructions of slot `b` (05, R111). -/
def Group.openWindow (g : Group) (opc la : Nat) (b : Bool) (dests : List WinDest) (tally : List (Nat × Nat) := [])
    (held pend : LaneMask := 0) (id : Nat := 0) : Group :=
  { g with windows := g.windows ++ [{ opc := opc, remA := if b then none else some la, remB := if b then some la else none,
                                      done := false, held := held, dests := dests, frees := [], tally := tally, id := id,
                                      pend := pend }] }

/-- One more instruction of slot `b` counts in the first `n` windows (05, R111). -/
def Group.countIssue (g : Group) (b : Bool) (n : Nat) : Group :=
  if g.windows.isEmpty then g
  else { g with windows := g.windows.zipIdx.map fun (w, i) =>
      if w.frozen || n ≤ i then w
      else if b then { w with remB := w.remB.map (· - 1) } else { w with remA := w.remA.map (· - 1) } }

/-- Some long-latency instruction other than a held one has not completed (15, R336). -/
def Group.outstanding (g : Group) : Bool := g.windows.any fun w => !w.done && w.held == 0

/-- How many windows a slot holds open; those that a handler interrupts are not the handler's (05, R111, R112). -/
def Group.openWindows (g : Group) (b : Bool) : Nat :=
  (g.windows.filter fun w => !w.frozen && (if b then w.remB.isSome else w.remA.isSome)).length

/-- A slot waits for a lookahead window (05, R111). -/
def Group.windowWait (g : Group) (b : Bool) : Bool :=
  g.windows.any fun w => !w.done && !w.frozen && (if b then w.remB == some 0 else w.remA == some 0)

/-! ## Fetch, and which slot can issue (05, R113, R114; 06, R118) -/

/-- The innermost open loop level with its number (06, R130). -/
def innermost (g : Group) : Option (Nat × LoopLevel) :=
  ([2, 1, 0].findSome? fun n => let l := g.loops.getD n {}; if l.opened then some (n, l) else none)

namespace State

/-- The scheduler 0 or 1 of a core. -/
def sched (s : State) (core i : Nat) : Sched := if i = 0 then (s.core core).s0 else (s.core core).s1

/-- The device physical address of the code byte at a PC, for a group (05, R113). -/
def codeAddr (s : State) (g : Group) (pc : Nat) : Except XFault Xlat :=
  let l := s.launch (s.launchOf g)
  s.translatePlain g.core l.asid (l.record.kimg + pc) .fetch

/-- The PC lies in the body of the innermost loop, and the loop buffer holds it: at most 256 instructions (05, R114). -/
def inLoopBuffer (g : Group) (pc : Nat) : Bool :=
  match innermost g with
  | some (_, l) => !g.inh && decide (l.start.toNat ≤ pc) && decide (pc < l.stop.toNat + 12) && decide ((l.stop.toNat - l.start.toNat) / 12 < 256)
  | none => false

/-- A code byte as the scheduler's loop buffer or the core's instruction cache holds it, else as its home does (05, R114). -/
def codeByte (s : State) (g : Group) (pc pa : Nat) : Byte :=
  match if inLoopBuffer g pc then (s.sched g.core g.sched).loopBuf.find? (pa / 4) else none with
  | some w => (w >>> (8 * (pa % 4))).setWidth 8
  | none =>
    match Tbl.find? (s.core g.core).icache (pa / 96) with
    | some line => line.getD (pa % 96) 0
    | none => s.mergedByte pa

/-- The 4-byte words of code, `n` of them from a PC, each translated, with their device physical addresses; or the first fault, with the
PC of its word (05, R113, R114). -/
def fetchWords (s : State) (g : Group) (pc : Nat) : Nat → Except (XFault × Nat) (List (Nat × List Byte))
  | 0 => .ok []
  | n + 1 =>
    match s.fetchWords g pc n with
    | .error x => .error x
    | .ok ws =>
      match s.codeAddr g (pc + 4 * n) with
      | .error x => .error (x, pc + 4 * n)
      | .ok x => .ok (ws ++ [(x.pa, (List.range 4).map fun i => s.codeByte g (pc + 4 * n) (x.pa + i))])

/-- The 48 bytes of the bundle that holds a PC: a fault of any of its words is a fault on the bundle (05, R113). -/
def fetchBundle (s : State) (g : Group) (pc : Nat) : Except (XFault × Nat) (List (Nat × List Byte)) := s.fetchWords g (pc / 48 * 48) 12

/-- The instruction at a PC of a bundle. -/
def bundleWord (ws : List (Nat × List Byte)) (pc : Nat) : BitVec 96 :=
  BitVec.ofNat 96 (ofBytes (((ws.drop (pc % 48 / 4)).take 3).flatMap Prod.snd))

/-- The word at a slot's PC: the one fetched already, else its bundle is fetched now (05, R113). -/
def fetchWord (s : State) (g : Group) (b : Bool) : Except (XFault × Nat) (BitVec 96) :=
  let p := g.slot b
  match p.stream.find? p.pc.toNat with
  | some w => .ok w
  | none =>
    if p.pc.toNat % 12 != 0 then .error ({ cause := 1 }, p.pc.toNat)
    else (s.fetchBundle g p.pc.toNat).map fun ws => bundleWord ws p.pc.toNat

/-- The slot's bundle has still to be fetched, and a line of it waits (05, R113; 12, R275). -/
def fetchWaits (s : State) (g : Group) (b : Bool) : Bool :=
  let pc := (g.slot b).pc.toNat
  ((g.slot b).stream.find? pc).isNone && pc % 12 == 0 &&
    match s.fetchBundle g pc with
    | .ok ws => ws.any fun w => s.lineBlocked (some g.core) (lineOf w.1)
    | .error _ => false

/-- The slot has four windows open and its next instruction would open a fifth (05, R111). -/
def windowsFull (s : State) (g : Group) (b : Bool) : Bool :=
  decide (4 ≤ g.openWindows b) && match s.fetchWord g b with
    | .ok w => Forms.longLatency (w.extractLsb' 0 10).toNat && !(fieldsOf w).never
    | .error _ => false

/-- A slot can issue once its arrivals are made: nothing holds it, and its next instruction is fetched (06, R118). -/
def slotReady (s : State) (g : Group) (b : Bool) : Bool :=
  let p := g.slot b
  p.owned != 0 && !p.join && p.yieldAt.isNone && !g.windowWait b && !s.windowsFull g b && !s.fetchWaits g b

/-- The slot that issues: the one that did not issue last, where both can (06, R118). -/
def pickSlot (s : State) (g : Group) : Option Bool :=
  if s.slotReady g (!g.lastB) then some (!g.lastB) else if s.slotReady g g.lastB then some g.lastB else none

end State

/-! ## Waiting and ready groups (04, R87; 06, R118) -/

/-- Every live slot stands at an unsatisfied lookahead wait. -/
def Group.lookaheadWait (g : Group) : Bool :=
  (g.live false || g.live true) && (!g.live false || g.slotA.join || g.windowWait false) &&
  (!g.live true || g.slotB.join || g.windowWait true) &&
  ((g.live false && g.windowWait false) || (g.live true && g.windowWait true))

/-- The group is halted: by itself, or with its core once no commit of its launch runs, until it is resumed (13, R308; 17, R391, R394). -/
def groupHalted (s : State) (g : Group) : Bool :=
  g.halted || ((s.core g.core).halt && !g.resumed && (s.launch (s.launchOf g)).commit.isNone)

/-- A multiply phase runs on the core (09, R212). -/
def multiplies (s : State) (core : Nat) : Bool := (s.core core).mq.any (·.multiplying)

/-- A fault holds the group. -/
def Group.faulted (g : Group) : Bool := match g.wait with | .fault _ => true | _ => false

/-- CSTAT.HALTED of a core: HALT is set, and every group and multiply phase of it has come to its halt (09, R212; 17, R394). -/
def coreHalted (s : State) (core : Nat) : Bool :=
  (s.core core).halt && !multiplies s core &&
    s.groups.all fun p => p.2.core != core || !(s.team p.2.team).resident || p.2.ended || groupHalted s p.2

/-- Stall reasons of an instruction that waits where it stands for something to come about: a release before a barrier, a lock or another
order point, a full lock queue, a blocked word of `waita`, or power leave (04, R87; 06, Table 6.4). -/
def waitStall (n : Nat) : Bool := decide (5 ≤ n) && decide (n ≤ 0x0A)

/-- The group has a name in bank `b` of its core's vector file: vN lies in bank N mod 4 (05, R103). -/
def Group.inBank (g : Group) (b : Nat) : Bool := g.spilled.isNone && g.vregs.any fun v => v.1 % 4 == b

namespace State

/-- A spilled group's names stand in its image: bring them back to look at (04, R91). -/
def unspill (g : Group) : Group := { g with vregs := g.spilled.getD g.vregs, spilled := none }

/-- The groups of a team, with their keys. -/
def teamGroups (s : State) (t : Nat) : List (Nat × Group) := s.groups.filter fun p => p.2.team == t

/-- Nothing is left of the group's wait: it waits for nothing, or for power leave that has been given. -/
def waitOver (s : State) (k : Nat) (g : Group) : Bool :=
  g.wait == .none || (g.wait == .again && g.stall == 0x0A && !(s.cluster (g.core / 48)).waiting.any (·.1 == k))

/-- A request of the group's that carries a lane's access to a peer's page and ended in an error: its context and itself. -/
def failedPeer (s : State) (k : Nat) : Option (Nat × WorkReq) :=
  s.nets.findSome? fun (n : Nat × NetCtx) =>
    (((n.2.queues.getD 16 {}).reqs).find? fun r => r.group == k && r.peer.isSome && r.ending.isSome).map fun r => (n.1, r)

/-- An issue turn of the group comes to something: a slot can issue or has an arrival to make, or the group has a held access to make again,
an asynchronous trap to take, or an access to a peer's page to hold (06, R118). -/
def canIssue (s : State) (k : Nat) (g : Group) : Bool :=
  let arrives (b : Bool) : Bool :=
    let p := g.slot b
    p.arriving || (p.owned != 0 && !p.join && p.rpc != rpcNone && p.pc == p.rpc)
  (s.pickSlot g).isSome || arrives false || arrives true || g.replay.isSome || (!g.inh && !g.asyncs.isEmpty) || (s.failedPeer k).isSome

/-- The group is ready: it is not waiting, and it can issue (04, R87; 06, R118). -/
def ready (s : State) (k : Nat) (g : Group) : Bool :=
  s.waitOver k g && !groupHalted s g && !g.ended && g.spilled.isNone && g.dormFmt.isNone && g.trap.isNone && s.canIssue k g

/-- Banks of a core wake: a group of theirs issues, or they are read (05, R101; 16, R377). -/
def wakeBanks (s : State) (core : Nat) (woken : Nat → Bool) : State :=
  let k := s.core core
  if k.drowsy.any woken then s.setCore core { k with drowsy := k.drowsy.filter fun b => !woken b } else s

/-- The partition a core's cluster belongs to (01, R14). -/
def partOf (s : State) (core : Nat) : Option Nat :=
  (List.find? (fun (p : Nat × Part) => bitOf p.2.clusters (core / 48)) s.parts).map (·.1)

/-- The clocks of a partition's cores run: it is not idle, no thermal trip holds, and no reset of it goes on (01, R18, R21; 16, R372). -/
def partRuns (s : State) (p : Nat) : Bool := !s.pkg.tripped && (s.part p).step != 3 && !(s.part p).rstGo

/-- The core's clock runs: its partition is formed, and its cores' clocks run. -/
def clockRuns (s : State) (core : Nat) : Bool := match s.partOf core with | some p => s.partRuns p | none => false

/-- The function of a launch has been quiesced or saved: none of its agents writes memory (16, R366). -/
def quiesced (s : State) (l : Nat) : Bool := (s.func (s.vmidFunc (s.launch l).vmid)).stopped

/-- The agents of a team on a core go on: the team is resident and not being stopped, the core's clock runs, and neither a
step change nor a quiesce holds them (01, R19; 15, R342; 16, R366). -/
def agentsRun (s : State) (t core : Nat) : Bool :=
  let x := s.team t
  let f := s.func (s.vmidFunc (s.launch x.launch).vmid)
  x.resident && !x.stopping && s.clockRuns core && f.runs &&
    match s.partOf core with | some p => !(s.part p).pending | none => false

/-! ## The active set and the pending list (04, R86, R88, Table 4.2) -/

/-- Change a scheduler. -/
def setSched (s : State) (core i : Nat) (x : Sched) : State :=
  let c := s.core core
  s.setCore core (if i = 0 then { c with s0 := x } else { c with s1 := x })

/-- A group's slot number (04, R75). -/
def slotNumber (s : State) (k : Nat) : Nat := (s.group k).units.headD 0

/-- The pending list with group `k` as it enters now: in order of the cycle of entry, ties in order of slot (R86). -/
def pendNow (s : State) (k : Nat) (xs : List Seat) : List Seat :=
  let before (p : Seat) : Bool := p.since != s.now || decide (s.slotNumber p.group < s.slotNumber k)
  xs.takeWhile before ++ { group := k, since := s.now } :: xs.dropWhile before

/-- The oldest ready group of the pending list (R86, R88). -/
def oldestReady (s : State) (x : Sched) : Option Seat := List.find? (fun (p : Seat) => s.ready p.group (s.group p.group)) x.pending

/-- An event of row 2 or 3 of Table 4.2 is applied: an active group swaps with the oldest ready pending group, or that group takes the place
of one that has left. -/
def applyDue (s : State) (core i : Nat) (e : Nat × Nat) : State :=
  let x := s.sched core i
  match s.oldestReady x with
  | none => s
  | some p =>
    let rest := x.pending.filter (·.group != p.group)
    let seat : Seat := { group := p.group, since := s.now }
    if e.1 = 2 then
      if x.active.any (·.group == e.2) then
        s.setSched core i { x with active := x.active.filter (·.group != e.2) ++ [seat], pending := s.pendNow e.2 rest, entry := s.now }
      else s
    else s.setSched core i { x with active := x.active ++ [seat], pending := rest, entry := s.now }

/-- The cycle ends for a scheduler: what has come about in it is applied in row order (Table 4.2; R88). -/
def endCycle (s : State) (core i : Nat) : State :=
  let x := s.sched core i
  if x.due.isEmpty then s
  else (x.due.filter (·.1 == 2) ++ x.due.filter (·.1 == 3)).foldl (fun s e => s.applyDue core i e) (s.setSched core i { x with due := [] })

/-- The cycle ends for every scheduler. -/
def endCycles (s : State) : State := s.cores.keys.foldl (fun s c => (s.endCycle c 0).endCycle c 1) s

/-- An active group starts to wait (Table 4.2, row 2). -/
def swapOut (s : State) (k : Nat) : State :=
  let g := s.group k
  let x := s.sched g.core g.sched
  if x.active.any (·.group == k) && !x.due.contains (2, k) then s.setSched g.core g.sched { x with due := x.due ++ [(2, k)] } else s

/-- The waits of row 2 of Table 4.2: at a barrier, `gbar`, `waita` or a lock. -/
def rowTwo (g : Group) : Bool :=
  match g.wait with
  | .barrier _ _ => true
  | .barrierNext _ => true
  | .gbar => true
  | .waita _ => true
  | .lock _ => true
  | .again => decide (6 ≤ g.stall) && decide (g.stall ≤ 9)
  | _ => false

/-- A group whose instruction has left it waiting gives up its place, where row 2 says so. -/
def swapWaiting (s : State) (k : Nat) : State := if rowTwo (s.group k) then s.swapOut k else s

/-- A group leaves its scheduler; where it was active, its place falls to the oldest ready pending group (Table 4.2, row 3). -/
def leaveSched (s : State) (k : Nat) : State :=
  let g := s.group k
  let x := s.sched g.core g.sched
  let due := x.due.filter (· != (2, k))
  s.setSched g.core g.sched
    { x with active := x.active.filter (·.group != k), pending := x.pending.filter (·.group != k),
             due := if x.active.any (·.group == k) then due ++ [(3, k)] else due }

/-- A group becomes resident (Table 4.2, row 1): a place that another has left in this cycle is still taken. -/
def joinSched (s : State) (k : Nat) : State :=
  let g := s.group k
  let x := s.sched g.core g.sched
  if x.active.length + (x.due.filter (·.1 == 3)).length < 8 then
    s.setSched g.core g.sched { x with active := x.active ++ [{ group := k, since := s.now }], entry := s.now }
  else s.setSched g.core g.sched { x with pending := s.pendNow k x.pending }

end State

/-! ## The register pool (04, R90, R91; 05, R105) -/

/-- The unmapped names that open windows will deliver: they have their registers since the issue. -/
def Group.windowNames (g : Group) : List Nat :=
  ((g.windows.flatMap fun w => w.dests.filterMap fun d => match d.name with | .v n => some n | _ => none).eraseDups).filter fun n =>
    ((g.spilled.getD g.vregs).find? n).isNone

/-- How many names of a group take registers. -/
def Group.nameCount (g : Group) : Nat := (g.spilled.getD g.vregs).length + g.windowNames.length

namespace State

/-- Physical registers that a group holds or has reserved: a spilled one its reservation alone (04, R74, R90, R91). -/
def registersOf (s : State) (g : Group) : Nat :=
  let floor := (s.launch (s.launchOf g)).record.vfloor
  (if g.spilled.isSome then floor else max floor g.nameCount) * (g.width / 32) + g.granted

/-- Registers of the main file that are free for first writes on a core (04, R90). A group that has ended keeps its registers
until its team exits (R92). A reservation counts in full from the placement of its team, over registers that others hold beyond their
floors too: the pool is then empty until they give them back (log 92). -/
def poolFree (s : State) (core : Nat) : Nat :=
  2048 - (s.groups.values.foldl (fun acc g => if g.core = core && (s.team g.team).resident then acc + s.registersOf g else acc) 0)

/-- An older resident group of the core waits for registers or stands spilled (04, R90, R91). The oldest is the one that was placed
first: R90 does not say by what a group's age goes (log 79). -/
def olderWaits (s : State) (k : Nat) (g : Group) : Bool :=
  s.groups.any fun p => p.1 != k && p.2.core == g.core && (s.team p.2.team).resident && (p.2.wait == .alloc || p.2.spilled.isSome) &&
    decide (p.2.placedAt < g.placedAt)

end State

end Sys2Proof.Machine
end

