-- ==== Sys2Proof/Machine/Ops.lean ====
section
/-! DEFINITION. The operations the instructions share: counting, windows, the reconvergence stack and arrival, held
faults, taking a trap and returning from one, ending a launch, and issuing an instruction. -/

namespace Sys2Proof.Machine

/-! ## Metering (17, R381, R382) -/

/-- Saturating addition to counter `i` of a block, with its bit of the saturation word. -/
def addCounter (t : Tbl Nat) (i n : Nat) : Tbl Nat :=
  let v := t.getD i 0 + n
  if n = 0 then t
  else if 2 ^ 64 ≤ v then (t.set i (2 ^ 64 - 1)).set 63 (Nat.lor (t.getD 63 0) (2 ^ i))
  else t.set i v

namespace State

/-- Amounts added to the counter block of launch `l` (17, R382); a quiesced or saved function counts nothing. -/
def count (s : State) (l i n : Nat) : State :=
  if n = 0 || (s.func (s.vmidFunc (s.launch l).vmid)).stopped then s
  else s.setLaunch l { s.launch l with ctrs := addCounter (s.launch l).ctrs i n }

end State

/-! ## The reconvergence stack (06, R121) -/

/-- The reserved bits of the format register cleared (06, Table 6.1). -/
def formatBits (x : Word) : Word := x &&& 0x0FFF1FFF

/-- The 256 bits of an entry (06, Table 6.2). -/
def StackEntry.bits (e : StackEntry) : Nat :=
  e.mask.toNat + e.pc.toNat * 2 ^ 96 + e.rpc.toNat * 2 ^ 128 + e.fmt.toNat * 2 ^ 160 +
    (match e.tag with | .slotA => 0 | .slotB => 1 | .group => 2) * 2 ^ 222 +
    (match e.kind with | .pending => 0 | .join => 1 | .ret => 2) * 2 ^ 224

/-- The entry these bits are, if they keep Table 6.2. -/
def StackEntry.ofBits (width x : Nat) : Option StackEntry :=
  let kind := bitsOf x 225 224
  let tag := bitsOf x 223 222
  if kind == 3 || tag == 3 || (tag == 2 && kind != 1) || bitsOf x 255 226 != 0 || bitsOf x 221 192 != 0 ||
      bitsOf x 95 0 / 2 ^ width != 0 || (kind == 2 && bitsOf x 191 160 != 0) then none
  else some { kind := if kind = 0 then .pending else if kind = 1 then .join else .ret,
              tag := if tag = 0 then .slotA else if tag = 1 then .slotB else .group,
              fmt := BitVec.ofNat 32 (x >>> 160), rpc := BitVec.ofNat 32 (x >>> 128), pc := BitVec.ofNat 32 (x >>> 96),
              mask := BitVec.ofNat 96 x }

namespace State

/-- The group's number in its launch (06, R121). -/
def launchNumber (s : State) (g : Group) : Nat :=
  let t := s.team g.team
  t.teamid * ((s.launch t.launch).record.slots * 32 / g.width) + g.grpid

/-- The virtual address of entry `j` of the group's spill region (06, R121). -/
def spillAddr (s : State) (g : Group) (j : Nat) : Nat :=
  let r := (s.launch (s.launchOf g)).record
  r.stackA + s.launchNumber g * r.stackN * 32 + 32 * j

/-- An access of the group to entry `j` of its spill region, as it translates; a write to an exhausted range faults (06, R121; 10, R239). -/
def spillXlat (s : State) (g : Group) (j : Nat) (a : Access) : Except XFault Xlat :=
  match s.translatePlain g.core (s.launch (s.launchOf g)).asid (s.spillAddr g j) a with
  | .error x => .error x
  | .ok x => if a == .write && ((s.rangeOf x.pa).map (·.2.exhausted)).getD false then .error { cause := 4 } else .ok x

/-- The 256 bits of entry `j` as the region holds them, the reductions of its line that a core still buffers included; none where it does
not translate. -/
def spillBits (s : State) (g : Group) (j : Nat) : Option Nat :=
  match s.spillXlat g j .read with
  | .ok x => some (ofBytes ((s.mergeLine (lineOf x.pa)).coreBytes g.core x.pa 32))
  | .error _ => none

/-- Entry `j` as the region holds it; none where it does not translate or breaks Table 6.2. -/
def spillRead (s : State) (g : Group) (j : Nat) : Option StackEntry := (s.spillBits g j).bind (StackEntry.ofBits g.width)

/-- Write the 256 bits of entry `j` of the region as a plain store; no effect where it does not translate. -/
def spillWrite (s : State) (g : Group) (j e : Nat) : State :=
  match s.spillXlat g j .write with
  | .ok x => s.storeL1 g.core (cellsOf x.pa 32 e) (if x.log then some (s.vmidFunc (s.launch (s.launchOf g)).vmid, x.ipa) else none)
  | .error _ => s

/-- An access to entry `j` of the region as it is made: its walk, then reductions of its line are merged and the home reads it, or the log
keeps a write waiting (10, R236, R237). -/
def spillTouch (s : State) (g : Group) (a : Access) (j : Nat) : State × Bool :=
  let s := s.walked g.core (s.launch (s.launchOf g)).asid (s.spillAddr g j)
  match s.spillXlat g j a with
  | .error _ => (s, false)
  | .ok x =>
    let fn := s.vmidFunc (s.launch (s.launchOf g)).vmid
    if a == .write then if x.log && s.logHolds fn then (s.logFullSet fn, true) else (s, false)
    else (s.touch (lineOf x.pa), false)

/-- Every entry, topmost first, the spilled ones as the region holds them. -/
def entries (s : State) (g : Group) : List (Option StackEntry) :=
  g.stack.map some ++ (List.range g.deep).reverse.map fun j => s.spillRead g j

end State

/-- Entries in all (06, R121). -/
def Group.depth (g : Group) : Nat := g.stack.length + g.deep

/-- The depth at which the entries that convergence considers begin (15, R336). -/
def Group.baseDepth (g : Group) : Nat := if g.inh then (g.frame.map (·.depth)).getD 0 else 0

/-- What became of a stack operation: done; it needs the spill region first; a fill read an entry that breaks Table 6.2; an access to
entry `j` of the region faulted; or the pop would bring the depth below an open loop level's (06, R121, R132). -/
inductive StackOp where
  | ok (s : State) (g : Group)
  | needs
  | broken
  | fault (x : XFault) (a : Access) (j : Nat)
  | loop

/-- The first of some accesses to the region that faults. -/
def spillFault (s : State) (g : Group) (xs : List (Access × Nat)) : Option StackOp :=
  xs.findSome? fun a => match s.spillXlat g a.2 a.1 with | .error x => some (.fault x a.1 a.2) | .ok _ => none

/-- A pop would bring the depth below an open level's DEPTH (06, R132). -/
def popsLoop (g : Group) : Bool := g.loops.any fun l => l.opened && decide (g.depth - 1 < l.depth)

/-- Push one entry; the deepest of four on-chip entries goes to the region (06, R121). -/
def pushEntry (s : State) (g : Group) (e : StackEntry) : StackOp :=
  match g.stack with
  | [a, b, c, d] =>
    if g.spill == .granted then
      (spillFault s g [(.write, g.deep)]).getD (.ok (s.spillWrite g g.deep d.bits)
        { g with stack := [e, a, b, c], deep := g.deep + 1, deepKinds := d.kind :: g.deepKinds })
    else .needs
  | st => .ok s { g with stack := e :: st }

/-- Push a list, the first lowest. -/
def pushAll (s : State) (g : Group) : List StackEntry → StackOp
  | [] => .ok s g
  | e :: es =>
    match pushEntry s g e with
    | .ok s g => pushAll s g es
    | r => r

/-- Entries `j + 1` up to `j + n` of the region move down one place, their content as it stands (06, R121). -/
def shiftDown (s : State) (g : Group) : Nat → Nat → State
  | 0, _ => s
  | k + 1, j =>
    match s.spillBits g (j + 1) with
    | some e => shiftDown (s.spillWrite g j e) g k (j + 1)
    | none => shiftDown s g k (j + 1)

/-- Remove the entry at place `i` from the top (06, R121, R132). -/
def removeEntry (s : State) (g : Group) (i : Nat) : StackOp :=
  if popsLoop g then .loop
  else if i < g.stack.length then
    let st := g.stack.eraseIdx i
    if st.isEmpty && g.deep != 0 then
      if g.spill != .granted then .needs
      else
        match spillFault s g [(.read, g.deep - 1)] with
        | some r => r
        | none =>
          match s.spillRead g (g.deep - 1) with
          | some e => .ok s { g with stack := [e], deep := g.deep - 1, deepKinds := g.deepKinds.drop 1 }
          | none => .broken
    else .ok s { g with stack := st }
  else if g.spill != .granted then .needs
  else
    let j := g.deep - 1 - (i - g.stack.length)
    let moved := (List.range (g.deep - 1 - j)).flatMap fun i => [(Access.read, j + i + 1), (Access.write, j + i)]
    (spillFault s g moved).getD (.ok (shiftDown s g (g.deep - 1 - j) j)
      { g with deep := g.deep - 1, deepKinds := g.deepKinds.eraseIdx (i - g.stack.length) })

/-- The slot's top entry above the base, with its place (06, R121). -/
def topEntry (s : State) (g : Group) (b : Bool) : Option (Nat × Option StackEntry) :=
  ((s.entries g).take (g.depth - g.baseDepth)).zipIdx.findSome? fun (e, i) =>
    match e with
    | none => some (i, none)
    | some x => if x.tag == .group || x.tag == (if b then Tag.slotB else Tag.slotA) then some (i, some x) else none

/-- The topmost entry tagged 2 above the base (06, R125). -/
def topJoin (s : State) (g : Group) : Option (Nat × StackEntry) :=
  ((s.entries g).take (g.depth - g.baseDepth)).zipIdx.findSome? fun (e, i) =>
    match e with
    | some x => if x.tag == .group then some (i, x) else none
    | none => none

/-- The slot resumes the path of an entry with the lanes that have not exited (06, R124). -/
def PcSlot.take (p : PcSlot) (e : StackEntry) (live : LaneMask) : PcSlot :=
  let m := e.mask &&& live
  { p with pc := e.pc, rpc := e.rpc, fmt := formatBits e.fmt, active := m, owned := m, join := m == 0, stream := [] }

/-- The latch and the last-result file empty (05, R108). -/
def Group.emptyFiles (g : Group) : Group := { g with latch := [], q0 := none, q1 := none }

/-- The two slots merge: every window of theirs closes when its instruction has completed; one that a handler interrupts keeps its count
(05, R112). -/
def Group.mergeWindows (g : Group) : Group :=
  Group.closeDue { g with windows := g.windows.map fun w => if w.frozen then w else { w with remA := some 0, remB := none } }

/-- An arrival of the slot is due: it has stopped being live, or is about to issue at its RPC with an entry to act on (06, R124). -/
def arrivalDue (s : State) (g : Group) (b : Bool) : Bool :=
  let p := g.slot b
  p.arriving || (p.owned != 0 && !p.join && p.rpc != rpcNone && p.pc == p.rpc && (topEntry s g b).isSome)

/-- What became of an arrival: made, with what it leads to; or the action of slot `b` that could not be made, and why, in the state that it
would have been made in. -/
inductive Arrival' where
  | ok (s : State) (g : Group)
  | stop (why : StackOp) (s : State) (g : Group) (b : Bool)

/-- The pop of an arrival of slot `b`, and what follows it; where it cannot be made, the arrival has no effect. -/
def popThen (s : State) (before g : Group) (b : Bool) (i : Nat) (k : State → Group → Arrival') : Arrival' :=
  match removeEntry s g i with
  | .ok s g => k s g
  | why => .stop why s before b

/-- Why entry `i` from the top, which lies in the region and is no entry as it was read, stops an operation (06, R121). -/
def unreadEntry (s : State) (g : Group) (i : Nat) : StackOp :=
  if g.spill != .granted then .needs
  else (spillFault s g [(.read, g.deep - 1 - (i - g.stack.length))]).getD .broken

/-- The group join pops if each slot waits at it or is empty: slot A takes its path, and what follows is `k` (06, R125). `before` is the
group as the arrival of slot `b` found it. -/
def joinNow (s : State) (before g : Group) (b : Bool) (k : State → Group → Arrival') : Arrival' :=
  match topJoin s g with
  | none => .ok s g
  | some (i, e) =>
    if (g.slotA.vacant || g.slotA.atJoin) && (g.slotB.vacant || g.slotB.atJoin) then
      popThen s before g b i fun s g =>
        let held := if g.slotA.yieldAt.isSome then g.slotA else g.slotB
        let a : PcSlot := { yieldAt := held.yieldAt, yieldFor := held.yieldFor }
        k s { (g.emptyFiles.mergeWindows) with slotA := a.take e g.liveLanes, slotB := {} }
    else .ok s g

/-- The arrival of slot `b` and of whatever it leads to (06, R124, R125, Table 6.3), `fuel` actions at most; with `gone` only those of a
slot that has stopped being live. -/
def arrive (gone : Bool) : Nat → State → Group → Bool → Arrival'
  | 0, s, g, _ => .ok s g
  | fuel + 1, s, g, b =>
    let p := g.slot b
    let live := p.owned != 0
    if (live && (gone || p.join || p.rpc == rpcNone || p.pc != p.rpc)) || p.vacant then .ok s g
    else
      match topEntry s g b with
      | none => .ok s (if live then g else g.setSlot b {})
      | some (i, none) => .stop (unreadEntry s g i) s g b
      | some (i, some e) =>
        if e.tag == .group then
          joinNow s g (g.setSlot b (if live then { p with join := true } else {})) b fun s g => arrive gone fuel s g false
        else if e.kind == .ret && live then .stop .broken s g b
        else
          popThen s g g b i fun s g =>
            if e.kind == .ret then
              arrive gone fuel s (g.setSlot b { p with pc := e.pc, rpc := e.rpc, active := 0, owned := 0, join := true }) b
            else arrive gone fuel s (g.setSlot b (p.take e g.liveLanes)) b

/-- Enough actions for any stack. -/
def Group.arriveFuel (g : Group) : Nat := 2 * g.depth + 4

/-- The group is converged (06, R126). What the spilled entries are the core knows without an access (R121 names none; log 57). -/
def converged (g : Group) : Bool :=
  g.slotB.vacant && ((g.stack.map (·.kind) ++ g.deepKinds).take (g.depth - g.baseDepth)).all (· == .ret) && g.slotA.active == g.liveLanes

/-! ## Held faults (03, R69–R73; 15, R339, R340) -/

namespace State

/-- A fault record joins its function's ring, numbered in turn (03, R69, R72). -/
def report (s : State) (fn : Nat) (r : FaultRec) : State × Nat :=
  let f := s.func fn
  let seq := f.fqSeq + 1
  let full := (f.fqProd + 2 ^ 32 - f.fqCons) % 2 ^ 32 == 2 ^ f.fqSize
  (s.setFunc fn { f with fqSeq := seq, fqWait := f.fqWait ++ [{ r with seq := seq }], fqFull := f.fqFull || full }, seq)

/-- The fields of a record that a group gives (03, Table 3.10). -/
def groupRecord (s : State) (g : Group) (pc : Word) (x : XFault) (access addr : Nat) (lanes : LaneMask) (lane : Nat) :
    FaultRec :=
  let l := s.launch (s.launchOf g)
  { addr := addr % 2 ^ 64, ipa := if x.stage = 2 then x.ipa else 0, lanes := lanes.toNat, tag := l.record.tag, pc := pc.toNat,
    core := g.core, gslot := g.sched * 24 + g.units.headD 0, lane := lane, asid := l.asid, vmid := l.vmid, level := x.level,
    stage := x.stage, access := access, replay := x.cause == 3 || x.cause == 6, cause := x.cause }

/-- A held fault: the record is reported and the agent stays where it is (03, R71). -/
def hold (s : State) (fn : Nat) (r : FaultRec) (at_ : HeldAt) : State × Nat :=
  let (s, seq) := s.report fn r
  ({ s with held := s.held ++ [{ func := fn, seq := seq, record := { r with seq := seq }, at_ := at_ }] }, seq)

/-- Group `k` is held at its instruction (15, R340). -/
def holdGroup (s : State) (k : Nat) (r : FaultRec) (replay : Replay) : State :=
  let fn := s.vmidFunc (s.launch (s.launchOf (s.group k))).vmid
  let (s, seq) := s.hold fn r (.group k)
  s.setGroup k { s.group k with replay := some { replay with seq := seq }, wait := .fault seq }

/-- Group `k` is held whole at the instruction of slot `b` whose push or pop reaches entry `j` of the spill region (06, R121). -/
def holdSpill (s : State) (k : Nat) (b : Bool) (opc : Nat) (f : Fields) (x : XFault) (a : Access) (j : Nat) (capture : Option Capture := none) :
    State :=
  let g := s.group k
  let p := g.slot b
  s.holdGroup k (s.groupRecord g p.pc x a.code (s.spillAddr g j) p.active (((lanesOf p.active).head?).getD 0))
    { opc := opc, fields := f, pc := p.pc, slotB := b, whole := true, seq := 0,
      lanes := (lanesOf p.active).map fun l => { lane := l, addr := s.spillAddr g j, data := [] }, capture := capture }

end State

/-- Rank of a cause: the lower is reported (15, R339). -/
def causeRank : Nat → Nat
  | 1 => 0
  | 2 => 1
  | 3 => 2
  | 6 => 2
  | 4 => 3
  | _ => 4

/-- The reported fault of several lanes: the highest-ranked cause, in the lowest lane that has it (15, R339). -/
def worstFault : List (Nat × Nat × XFault) → Option (Nat × Nat × XFault)
  | [] => none
  | x :: xs =>
    match worstFault xs with
    | none => some x
    | some y => if causeRank x.2.2.cause ≤ causeRank y.2.2.cause then some x else some y

/-! ## Ending a launch (15, R335) -/

/-- What a window is once its launch has ended: a lane that a fault held does not complete, and so its instruction does not retire (15, R335;
17, R380). -/
def Window.cut (w : Window) : Window :=
  if w.held = 0 then { w with dests := [] } else { w with dests := [], held := 0, done := w.pend == 0, tally := [] }

/-- What a group is once its launch has ended: no lane, no path, nothing held. -/
def Group.cut (g : Group) : Group :=
  { g with exited := g.allLanes, slotA := {}, slotB := {}, stack := [], deep := 0, deepKinds := [], spill := .none, wait := .none, trap := none,
           asyncs := [], replay := none, capture := none, frame := none, inh := false, dormFmt := none, latch := [], q0 := none, q1 := none,
           windows := g.windows.map Window.cut }

/-- The launch a held fault belongs to. -/
def State.heldLaunch (s : State) (h : Held) : Option Nat :=
  match h.at_ with
  | .group g => some (s.launchOf (s.group g))
  | .copy t => some (s.team t).launch
  | .dependence l => some l
  | .ancestor l => some l
  | .restore t => some (s.team t).launch
  | .send p q => (((s.net p).queues.getD q {}).reqs.find? fun r => r.stalled.isSome).map (·.launch)
  | .ring _ => none
  | .status _ => none
  | .signal _ => none
  | .target _ _ => none

/-- Requests of some groups for power leave are withdrawn, and tokens given and not used go back to their window (09, R212, R213). -/
def Governor.withdraw (c : Governor) (mine : Nat → Bool) : Governor :=
  { c with granted := c.granted - ((c.leave.filter fun r => mine r.group && r.since == c.since).map (·.tokens)).sum
           waiting := c.waiting.filter fun r => !mine r.1
           leave := c.leave.filter fun r => !mine r.group }

/-- The launch has ended already: one whose lanes have all exited still ends by a trap before its final state begins (15, R412). -/
def Launch.ended (x : Launch) : Bool :=
  match x.stage with
  | .final _ => true
  | .finishing n => n != 1 || x.finalAt != .report
  | _ => false

/-- The launch ends with STATUS `status` (15, R335): its groups stop, held faults are dropped with the network requests they
stalled, lock requests withdrawn, queued copies and pre-phases dropped, and every lane exits: the masks of a traced group with them (17, R388). -/
def State.endLaunch (s : State) (l status : Nat) : State :=
  let x := s.launch l
  let mine (k : Nat) : Bool := s.launchOf (s.group k) == l
  if x.ended then s
  else
    let t : State := { s with
      held := s.held.filter fun h => s.heldLaunch h != some l
      groups := s.groups.mapVals fun k g => if mine k then g.cut else g
      lockq := s.lockq.mapVals fun _ q => q.filter fun k => !mine k
      clusters := s.clusters.mapVals fun _ (c : Governor) =>
        c.withdraw mine
      cores := s.cores.mapVals fun _ c =>
        { c with copies := c.copies.filter (fun y => (s.team y.team).launch != l),
                 mq := c.mq.filter (fun y => y.multiplying || y.launch != l) }
      savedCopies := s.savedCopies.mapVals fun t ys => if (s.team t).launch == l then [] else ys
      nets := s.nets.mapVals fun _ (n : NetCtx) =>
        { n with queues := n.queues.mapVals fun _ (q : SendQueue) => { q with reqs := q.reqs.filter fun r => r.launch != l || (r.stalled.isNone && !(r.peer.isSome && r.ending.isSome)) } }
      launches := s.launches.set l { x with stage := .finishing status, arrived := [], commit := none, deposit := [], gbar := [] } }
    (s.groups.filter fun g => mine g.1).foldl (fun t g => t.traceMasks g.2 (t.group g.1)) t

/-! ## Taking a trap and returning from one (15, R334–R338) -/

/-- The default TRESUME of Table 15.1. -/
def defaultResume (code : Nat) : Nat := if code == 0xA || code == 0xB then 1 else 0

/-- The trap registers at entry (15, Table 15.2). -/
def trapRegsOf (i : TrapInfo) : List Word :=
  let lane := ((lanesOf i.mask).head?).getD 0
  [BitVec.ofNat 32 (i.code + i.field * 2 ^ 8 + i.cause * 2 ^ 12 + i.access * 2 ^ 16), i.pc, i.info, half i.addr false,
   half i.addr true, BitVec.ofNat 32 i.mask.toNat, BitVec.ofNat 32 (i.mask.toNat >>> 32), BitVec.ofNat 32 (i.mask.toNat >>> 64),
   BitVec.ofNat 32 lane, BitVec.ofNat 32 (defaultResume i.code),
   BitVec.ofNat 32 (1 + b2n i.slotB * 2 + b2n i.async * 4)]

/-- The group enters its handler (15, R336, steps 2 to 4). -/
def Group.enter (g : Group) (handler : Word) (i : TrapInfo) : Group :=
  { g with
    trap := none
    trapRegs := trapRegsOf i
    frame := some { slotA := { g.slotA with stream := [] }, slotB := { g.slotB with stream := [] }, latch := g.latch, q0 := g.q0, q1 := g.q1, depth := g.depth,
                    replay := g.replay, capture := g.capture.filter fun x => i.async || x.slotB != i.slotB }
    replay := none
    capture := none
    inh := true
    went := true
    slotA := { pc := handler, rpc := rpcNone, fmt := (g.slot i.slotB).fmt, active := g.liveLanes, owned := g.liveLanes }
    slotB := {}
    latch := []
    q0 := none
    q1 := none
    spill := .none
    wait := .none
    windows := g.windows.map fun w => { w with frozen := true } }

/-- A trap is taken (15, R334–R336): with no handler, or in the handler already, it ends the launch with STATUS 0x0002;
else the group enters the handler once its long-latency instructions have completed. While the core's clock stands still, or the group is
evicted, nothing of it changes: the trap is kept until it runs again (01, R18, R21; 15, R412). -/
def State.takeTrap (s : State) (k : Nat) (i : TrapInfo) : State :=
  let g := s.group k
  let l := s.launchOf g
  let h := (s.launch l).record.handler
  if !s.clockRuns g.core || !(s.team g.team).resident then s.setGroup k { g with trap := some i }
  else if h = 0 || g.inh then s.endLaunch l 2
  else if g.outstanding then s.setGroup k { g with trap := some i, went := true }
  else ((s.setGroup k (g.enter h i)).emit g (g.enter h i) (traceRecord 4 0 2 i.code)).traceMasks g (g.enter h i)

/-- A group that steps halts again, with a stop record (17, R388, R391). -/
def State.haltStep (s : State) (k : Nat) : State :=
  let g := s.group k
  if g.stepOnce then (s.setGroup k { g with stepOnce := false, halted := true }).traceStop g 0 else s

/-- The entry as its retry takes it up: nothing of an instruction that was not fetched, or whose arrival was not made, which the slot
comes to anew (15, R338, R340). -/
def Replay.again (r : Replay) : Option Replay := if r.opc = 0 then none else some r

/-- The window of the held instruction closes without the lanes that did not deliver, and the instruction does not retire (15, R338; 17,
R380). -/
def Group.dropReplay (g : Group) : Group :=
  Group.closeDue
    { g with replay := none,
             capture := none,
             windows := g.windows.map fun w =>
               if w.held == 0 || (g.replay.map (·.win)) != some w.id then w
               else { w with held := 0, done := true,
                             dests := w.dests.map fun d => { d with lanes := d.lanes &&& ~~~w.held } } }

/-- A dormant group holds no vector name, and none will be delivered to it (13, R294). -/
def Group.dropNames (g : Group) : Group :=
  { g with vregs := [], windows := g.windows.map fun w => { w with dests := w.dests.filter fun d => match d.name with | .v _ => false | _ => true } }

/-- `rte` (15, R338): the frame is restored, INH cleared, and TRESUME acted on. -/
def State.returnTrap (s : State) (k : Nat) : State :=
  let g := s.group k
  match g.frame with
  | none => s
  | some fr =>
    let resume := (g.trapRegs.getD 9 0).toNat % 4
    let tpc := g.trapRegs.getD 1 0
    let b := (g.trapRegs.getD 10 0).getLsbD 1
    let g := { g with slotA := fr.slotA, slotB := fr.slotB, latch := fr.latch, q0 := fr.q0, q1 := fr.q1, frame := none,
                      inh := false, trapRegs := [], spill := .none, replay := fr.replay, capture := fr.capture,
                      windows := g.windows.map fun w => { w with frozen := false } }
    if resume = 2 then s.endLaunch (s.launchOf g) 2
    else if resume = 1 then s.setGroup k ((g.setSlot b { g.slot b with pc := tpc + 12 }).dropReplay)
    else
      match g.replay with
      | some r => s.setGroup k { g with replay := r.again.map fun r => { r with resumed := true } }
      | none => s.setGroup k (g.setSlot b { g.slot b with pc := tpc })

/-! ## Issuing an instruction (05, R95, R105–R109; 06, R118, R131, R132) -/

/-- What an instruction sees as it issues: the machine, the group and its key, the slot, the word and its active
lanes. -/
structure Ctx where
  s   : State
  k   : Nat
  g   : Group
  b   : Bool
  opc : Nat
  f   : Fields
  act : LaneMask

namespace Ctx

def slot (c : Ctx) : PcSlot := c.g.slot c.b
def pc (c : Ctx) : Word := c.slot.pc
def team (c : Ctx) : Team := c.s.team c.g.team
def launchKey (c : Ctx) : Nat := c.s.launchOf c.g
def launch (c : Ctx) : Launch := c.s.launch c.launchKey
def record (c : Ctx) : LaunchRec := c.launch.record
def asid (c : Ctx) : Nat := c.launch.asid
def srcA (c : Ctx) : Value := source c.s c.g c.b c.f c.f.a
def srcB (c : Ctx) : Value := if c.f.imm32 then .uniform c.f.immediate else source c.s c.g c.b c.f c.f.b
def srcC (c : Ctx) : Value := source c.s c.g c.b c.f c.f.aux
def srcD (c : Ctx) : Value := source c.s c.g c.b c.f c.f.d
def opD (c : Ctx) : Opnd := .of c.f.d
def opA (c : Ctx) : Opnd := .of c.f.a
def opB (c : Ctx) : Opnd := .of c.f.b
def opC (c : Ctx) : Opnd := .of c.f.aux

/-- Some lane is active. -/
def any (c : Ctx) : Bool := c.act != 0

/-- How many active lanes there are. -/
def lanes (c : Ctx) : Nat := (lanesOf c.act).length

/-- A trap of this instruction: its PC, active lanes and slot (15, Table 15.2). -/
def trap (c : Ctx) (code : Nat) (field : Nat := 0) (info : Word := 0) : TrapInfo :=
  { code := code, field := field, pc := c.pc, info := info, mask := c.act, slotB := c.b }

/-- Trap codes (15, Table 15.1). -/
def illegalInstr (c : Ctx) (field : Nat := 5) : TrapInfo := c.trap 1 field
def illegalOperand (c : Ctx) (field : Nat) : TrapInfo := c.trap 2 field
def illegalConv (c : Ctx) : TrapInfo := c.trap 3
def illegalFormat (c : Ctx) : TrapInfo := c.trap 4
def stackFull (c : Ctx) : TrapInfo := c.trap 5
def loopMisuse (c : Ctx) : TrapInfo := c.trap 6

/-- The amount added to the launch's counter `i`. -/
def count (c : Ctx) (i n : Nat) (s : State) : State := s.count c.launchKey i n

end Ctx

/-- What an instruction's own entry makes of it. -/
inductive Res where
  | next (s : State)                    -- done; the slot goes on to the next instruction
  | goto (s : State) (pc : Word)        -- done; a taken control transfer
  | moved (s : State)                   -- done; the entry itself has set the slots
  | trap (i : TrapInfo)                 -- a trap at issue, without effect
  | wait (s : State) (stall : Nat)      -- not issued yet, for this stall reason
  | stay (s : State)                    -- not issued: the group is held or waits as `s` says

/-- Change loop level `n`. -/
def Group.setLoop (g : Group) (n : Nat) (l : LoopLevel) : Group :=
  { g with loops := (List.range 3).map fun i => if i = n then l else g.loops.getD i {} }

/-- The innermost loop level whose END this PC is, outside a handler (06, R131; 15, R336). -/
def loopAt (g : Group) (pc : Word) : Option (Nat × LoopLevel) :=
  if g.inh then none
  else match innermost g with
    | some (n, l) => if l.stop == pc then some (n, l) else none
    | none => none

/-- Control opcodes that may stand at END of a loop (06, R132). -/
def endAllowed (opc : Nat) : Bool :=
  0x00E < opc || opc == 0x001 || opc == 0x00B || opc == 0x00C || opc == 0x00D || opc == 0x00E

/-- The loop-misuse conditions of an instruction at END (06, R132). -/
def endMisuse (g : Group) (opc : Nat) (pc : Word) : Bool :=
  match loopAt g pc with
  | some (_, l) => g.live true || g.depth != l.depth || !endAllowed opc
  | none => false

/-- The slot moves on: to START or past END at the end of a loop, else to the next word (06, R131). -/
def Group.advance (g : Group) (b : Bool) (pc : Word) : Group :=
  match loopAt g pc with
  | some (n, l) =>
    if 1 < l.count.toNat then (g.setLoop n { l with count := l.count - 1 }).setSlot b { g.slot b with pc := l.start }
    else (g.setLoop n {}).setSlot b { g.slot b with pc := l.stop + 12 }
  | none => g.setSlot b { g.slot b with pc := pc + 12 }

/-- The values that HOLD bits on sources push, in the order A, B, C, D (05, R106). -/
def sourceHolds (c : Ctx) : List Value :=
  let r := roles c.opc c.f
  (if r.a && c.opA.hold then [c.srcA] else []) ++ (if r.b && !c.f.imm32 && c.opB.hold then [c.srcB] else []) ++
  (if r.c && c.opC.hold then [c.srcC] else []) ++ (if r.d && r.dIsSrc && c.opD.hold then [c.srcD] else [])

/-- The names that LAST bits free: none that an open window shadows (05, R105). -/
def lastFrees (c : Ctx) : List Nat :=
  let r := roles c.opc c.f
  ((if r.a && c.opA.last then [c.opA.index] else []) ++ (if r.b && !c.f.imm32 && c.opB.last then [c.opB.index] else []) ++
    (if r.c && c.opC.last then [c.opC.index] else [])).filter fun n =>
      !c.g.windows.any fun x => x.dests.any fun d => d.name == .v n

/-- A name that LAST freed and that the word then wrote: the lanes not written are +0, the name having been unmapped
(05, R105). -/
def Group.onlyLanes (g : Group) (n : Nat) (m : LaneMask) : Group :=
  let v := g.vreg n
  { g with vregs := g.vregs.set n { vals := (List.range g.width).map fun l => if m.getLsbD l then v.vals.getD l 0 else 0,
                                    poison := v.poison &&& m } }

/-- The names of `frees` go; `written`: the names the word wrote after its reads (05, R105). -/
def Group.freeNames (g : Group) (frees written : List Nat) (m : LaneMask) : Group :=
  frees.foldl (fun g n => if written.contains n then g.onlyLanes n m else { g with vregs := g.vregs.erase n }) g

/-- Push latch entries, the first deepest (05, R106). -/
def pushLatch (b : Bool) (latch : List LatchEntry) (vs : List Value) : List LatchEntry :=
  vs.foldl (fun l v => ({ value := v, age := 2, slotB := b } :: l).take 3) latch

/-- Latch entries of the slot grow one instruction older (05, R106). -/
def ageLatch (b : Bool) (latch : List LatchEntry) : List LatchEntry :=
  latch.map fun e => if e.slotB == b then { e with age := e.age - 1 } else e

/-- The vector name in D, if D is one. -/
def destName (c : Ctx) : List Nat := if (roles c.opc c.f).d && !(roles c.opc c.f).dIsSrc && c.opD.isVec then [c.opD.index] else []

/-- No vector name. -/
def noNames (_ : Ctx) : List Nat := []

/-- The vector name that a word writes at its issue. -/
def writtenNames (c : Ctx) : List Nat := if c.any then destName c else []

/-- The slot has been tried at its PC and did not issue, for stall reason `n`. -/
def Group.tried (g : Group) (b : Bool) (n : Nat) : Group :=
  if b then { g with triedB := some (g.slotB.pc, n) } else { g with triedA := some (g.slotA.pc, n) }

/-- What every issued word does besides its own effect (05, R95, R105, R106, R111): `opened` windows stood open before
it; a never-execute word only counts. -/
def Group.retire (g : Group) (c : Ctx) (opened : Nat) : Group :=
  let never := c.f.never
  let frees := if never then [] else lastFrees c
  let g :=
    if frees.isEmpty then g
    else if Forms.longLatency c.opc && opened < g.windows.length then
      { g with windows := g.windows.zipIdx.map fun (w, i) => if i = opened then { w with frees := frees } else w }
    else g.freeNames frees (writtenNames c) c.act
  let dHold := !never && (roles c.opc c.f).d && !(roles c.opc c.f).dIsSrc && c.opD.hold
  let pushes := (if never then [] else sourceHolds c) ++
    (if dHold then [namedSource c.s g c.b c.opD] else [])
  let pushes := if g.bothLive then [] else pushes
  let g := { g with latch := pushLatch c.b (ageLatch c.b g.latch) pushes, lastB := c.b, capture := g.capture.filter fun x => x.slotB != c.b, issued := true,
                    issuedAt := some c.s.now, went := true, stall := 0, spill := .none, granted := 0 }
  (g.countIssue c.b opened).closeDue

/-- Bring group `k` of a state up to date after its instruction. -/
def State.retireGroup (s : State) (c : Ctx) (f : Group → Group) : State :=
  match s.groups.find? c.k with
  | none => s
  | some g => if g.slotA.vacant && g.slotB.vacant && g.ended then s
              else s.setGroup c.k (f (g.retire c c.g.windows.length))

/-- The physical registers beyond the reservation that a first write of these names takes, once the word's own LAST bits have
freed theirs (04, R90; 05, R105). -/
def registerNeed (c : Ctx) (names : List Nat) : Nat :=
  let freed := if c.f.never || Forms.longLatency c.opc then c.g else c.g.freeNames (lastFrees c) [] 0
  let fresh := (names.filter fun n => (freed.vregs.find? n).isNone && !freed.windowNames.contains n).length
  if c.any then ((freed.nameCount + fresh) - max c.record.vfloor c.g.nameCount) * (c.g.width / 32) else 0

/-- A first write must wait for physical registers: none is free, or an older group waits (04, R90; 05, R105). What has been
granted to it is set aside for it. -/
def needsRegister (c : Ctx) (names : List Nat) : Bool :=
  let n := registerNeed c names
  decide (c.g.granted < n) && (decide (c.s.poolFree c.g.core < n) || c.s.olderWaits c.k c.g)

/-- The source lane of `shfl` (08, R195). -/
def shflLane (mode l n : Nat) : Int :=
  match mode with
  | 0 => n
  | 1 => (l : Int) - n
  | 2 => (l : Int) + n
  | _ => Nat.xor l n

/-- A value as lane `s` reads it: +0 from beyond the group, whatever the source, and for a class-00 name or a predicate from
an exited lane (08, R194). -/
def lanev (c : Ctx) (o : Opnd) (v : Value) (s : Int) : Word :=
  if s < 0 || (c.g.width : Int) ≤ s || ((o.isVec || o.isPred) && c.g.exited.getLsbD s.toNat) then 0
  else v.at s.toNat

/-- `lanev` reads a poisoned word. -/
def lanevPoison (c : Ctx) (o : Opnd) (v : Value) (s : Int) : Bool :=
  if s < 0 || (c.g.width : Int) ≤ s || ((o.isVec || o.isPred) && c.g.exited.getLsbD s.toNat) then false
  else v.poisonAt s.toNat

/-- Where an element of a `slide` comes from: C's sequence (true) or A's, and which element of it (08, R196). -/
def slideFrom (down : Bool) (count n i : Nat) : Bool × Nat :=
  if down then (if i + n < count then (false, i + n) else (true, i + n - count))
  else if n ≤ i then (false, i - n) else (true, count - n + i)

/-- Elements per lane of the type of a `slide`. -/
def slideElems (f : Fields) : Nat := perWord (intWidth f.type)

/-- Tensor shape record `n` of a team (11, R250). -/
def Team.trec (t : Team) (n : Nat) : Nat := t.trecs.getD n 0

/-- The register `i` places after an operand, of the same class and read through the same permutation (05, R101; 11, R253). -/
def nextReg (c : Ctx) (o : Opnd) (i : Nat) : Value := permute c.g o c.f.aux.toNat (rawSource c.s c.g c.b { o with index := o.index + i })

/-- The conversion is narrowing: D's other elements keep their value (R192). -/
def narrowing (f : Fields) : Bool := decide (Forms.perLane f.sel < Forms.perLane f.type)

/-- SCALED of the format register (06, Table 6.1). -/
def fmtScaled (w : Word) : Bool := bitOf w.toNat 12

/-- K of an MMA word. -/
def mmaK (f : Fields) : Nat := 32 * (f.fnBits 10 4 + 1)

/-- The index of a scale byte under a map (R216, Table 9.3). -/
def scaleIndex (map rows nb n b : Nat) : Nat :=
  match map with
  | 0 => 4 * (rows * (b / 4) + n) + b % 4
  | 1 => nb * n + b
  | 2 => b
  | _ => 0

/-- The names a scale block spans (R216). -/
def scaleNames (map rows nb width : Nat) : Nat := (scaleIndex map rows nb (rows - 1) (nb - 1) + 4 * width) / (4 * width)

/-- The scale words of an MMA's block: name by name, the words that hold a byte in use (09, R216). -/
def scaleReads (c : Ctx) (base map rows : Nat) : List Value :=
  let nb := mmaK c.f / 32
  let words := scaleIndex map rows nb (rows - 1) (nb - 1) / 4 + 1
  (List.range (scaleNames map rows nb c.g.width)).map fun j =>
    let v := c.g.vreg (base + j)
    { vec := true, vals := v.vals, poison := v.poison &&& maskOf c.g.width fun l => decide (j * c.g.width + l < words) }

/-- The operands an instruction reads beside those its fields name: the high word of a pair, the rest of a block, the
coordinates of a tensor access, the scalars that AUX names, the D that a narrowing conversion keeps (08, R192; 09, R218; 11, R241, R243,
R253, R256, R260; 13, R295; 12, R283, R288; 09, R224; 15, R349). -/
def extraOperands (c : Ctx) : List Opnd :=
  let f := c.f
  let more (o : Opnd) (n : Nat) : List Opnd := (List.range (n - 1)).map fun i => { o with index := o.index + (i + 1) }
  let pairA := more c.opA 2
  let words := if f.fnBits 5 4 = 0 then 1 else if f.fnBits 5 4 = 1 then 2 else 4
  let scalars (r n : Nat) : List Opnd := (List.range n).map fun i => Opnd.of (BitVec.ofNat 16 (4 * (r + i) + 2))
  let copyWords := if bitOf f.fn.toNat 9 then scalars (bitsOf f.aux.toNat 5 0) (if f.x then 3 else 2) else []
  match c.opc with
  | 0x0F0 => if narrowing f then [c.opD] else []
  | 0x0F1 => if narrowing f then [c.opD] else []
  | 0x0F2 => if narrowing f then [c.opD] else []
  | 0x182 => c.opA :: pairA
  | 0x18B => pairA
  | 0x190 => more c.opA (32 * (f.fnBits 6 5 + 1))
  | 0x1C0 => pairA
  | 0x1C1 => pairA ++ more c.opD words
  | 0x1C3 => more c.opD words
  | 0x1C4 => more c.opA (bitsOf (c.team.trec (f.aux.toNat % 16)) 66 64)
  | 0x1C5 => more c.opA (bitsOf (c.team.trec (f.aux.toNat % 16)) 66 64)
  | 0x1C9 => pairA
  | 0x1D0 => more c.opB 2
  | 0x1E0 => pairA ++ copyWords
  | 0x1E1 => more c.opD 2 ++ copyWords
  | 0x1E2 => pairA ++ copyWords
  | 0x1E3 => copyWords
  | 0x1E4 => copyWords
  | 0x1E5 => pairA ++ copyWords ++ scalars (bitsOf f.aux.toNat 11 6) 1
  | 0x1E6 => more c.opD 2 ++ copyWords ++ scalars (bitsOf f.aux.toNat 11 6) 1
  | 0x241 => (if bitOf f.aux.toNat 15 then [] else pairA) ++ [c.opD]
  | 0x242 => (if bitOf f.aux.toNat 15 then [] else pairA) ++ c.opD :: more c.opD 2
  | 0x243 => if bitOf f.aux.toNat 15 then [] else pairA
  | 0x250 => (if bitOf f.fn.toNat 3 then [] else pairA) ++ (if bitOf f.fn.toNat 2 && !c.opB.isImm then more c.opB 2 else [])
  | 0x258 => pairA
  | 0x259 => pairA
  | 0x25A => pairA
  | 0x280 => if f.fn = 1 then scalars (f.aux.toNat % 64) 2 else []
  | 0x281 => more c.opB f.fn.toNat
  | 0x2A0 => if bitOf f.fn.toNat 4 then more c.opA 16 else []
  | 0x2C8 => pairA
  | 0x2C9 => pairA
  | 0x2E1 => pairA
  | _ => []

/-- The blocks of scale bytes that an MMA reads: name, map and rows (09, R216). -/
def scaleBlocks (c : Ctx) : List (Nat × Nat × Nat) :=
  if decide (0x180 ≤ c.opc) && decide (c.opc ≤ 0x182) && fmtScaled c.slot.fmt then
    [(c.opD.index, bitsOf c.f.aux.toNat 9 8, 64), (bitsOf c.f.aux.toNat 7 0, bitsOf c.f.aux.toNat 11 10, 128)]
  else []

/-- What an instruction captures for its replay entry (15, R340). -/
def captureOf (c : Ctx) : Capture :=
  let r := roles c.opc c.f
  let fields := (if r.a then [c.opA] else []) ++ (if r.b && !c.f.imm32 then [c.opB] else []) ++ (if r.c then [c.opC] else []) ++
    if r.d && r.dIsSrc then [c.opD] else []
  { slotB := c.b, act := c.act, vals := (fields ++ extraOperands c).foldl (fun t o => Tbl.set t o.key (rawSource c.s c.g c.b o)) [] }

/-- The registers an instruction reads beside those its fields name, the scales of an MMA included (09, R216). -/
def extraReads (c : Ctx) : List Value :=
  (extraOperands c).map (nextReg c · 0) ++ (scaleBlocks c).flatMap fun x => scaleReads c x.1 x.2.1 x.2.2

/-- The vector names that an instruction reads (05, R103). -/
def namesRead (c : Ctx) : List Nat :=
  let r := roles c.opc c.f
  let fields := (if r.a then [c.opA] else []) ++ (if r.b && !c.f.imm32 then [c.opB] else []) ++ (if r.c then [c.opC] else []) ++
    if r.d && r.dIsSrc then [c.opD] else []
  ((fields ++ extraOperands c).filter (·.isVec)).map (·.index) ++
    (scaleBlocks c).flatMap fun x => (List.range (scaleNames x.2.1 x.2.2 (mmaK c.f / 32) c.g.width)).map (x.1 + ·)

/-- Lane `l` consumes a poisoned word of a source (15, R341; 08, R194). -/
def consumes (c : Ctx) (l : Nat) : Bool :=
  let r := roles c.opc c.f
  let own (v : Value) : Bool := v.poisonAt l
  let b := r.b && !c.f.imm32 && own c.srcB
  (extraReads c).any own ||
  match c.opc with
  | 0x140 => b || lanevPoison c c.opA c.srcA (shflLane c.f.mode l (c.srcB.at l).toNat)
  | 0x191 => (List.range 8).any fun k => lanevPoison c c.opA c.srcA k
  | 0x146 => b || lanevPoison c c.opA c.srcA (c.srcB.at 0).toNat
  | 0x141 =>
    let e := slideElems c.f
    let n := min (c.srcB.at 0).toNat (c.g.width * e)
    b || (List.range e).any fun k =>
      let (fill, i) := slideFrom (c.f.mode == 1) (c.g.width * e) n (l * e + k)
      if fill then lanevPoison c c.opC c.srcC (i / e : Nat) else lanevPoison c c.opA c.srcA (i / e : Nat)
  | _ => b || (r.a && own c.srcA) || (r.c && own c.srcC) || (r.d && r.dIsSrc && own c.srcD)

/-- Lanes that consume a poisoned word (15, R341). -/
def poisoned (c : Ctx) : LaneMask := maskOf c.g.width fun l => c.act.getLsbD l && consumes c l

/-- The failing field of a word with a nonzero unused field (15, Table 15.2). -/
def unusedFieldNo (opc : Nat) (f : Fields) : Nat :=
  if !Forms.fieldsOk opc { f with a := 0, b := 0, aux := 0 } then 1
  else if !Forms.fieldsOk opc { f with b := 0, aux := 0 } then 2
  else if !Forms.fieldsOk opc { f with aux := 0 } then 3
  else 5

/-- The operand fields that break one of these rules: each with the number of its field. -/
def fieldsBad (xs : List (Nat × Bool)) (n : Nat) : Bool := xs.any fun x => x.1 == n && x.2

/-- No rule of an entry's own on an operand field. -/
def noOperands (_ : Ctx) (_ : Nat) : Bool := false

/-- The rules of an entry's own on its operand fields as traps of step 3 of R109, D first (08, R201). -/
def operandChecks (own : Ctx → Nat → Bool) (c : Ctx) : Option TrapInfo := ([1, 2, 3, 4].find? (own c)).map c.illegalOperand

/-- The field of an MMA that a format register with SCALED 0 leaves unused, where it is nonzero: D, or AUX[11:0] (09, R216). -/
def unscaledField (c : Ctx) : Option Nat :=
  if c.opc < 0x180 || 0x182 < c.opc || c.slot.fmt.getLsbD 12 then none
  else if c.f.d != 0 then some 1 else if bitsOf c.f.aux.toNat 11 0 != 0 then some 5 else none

/-- The trap of the issue checks, steps 1 and 2 of R109; `own`: the fields that break a rule of the entry's own. -/
def formTrap (c : Ctx) (own : Ctx → Nat → Bool := noOperands) : Option TrapInfo :=
  match Forms.check c.opc c.f with
  | some .unusedField => some (c.illegalInstr (unusedFieldNo c.opc c.f))
  | some _ => some c.illegalInstr
  | none =>
    match unscaledField c with
    | some n => some (c.illegalInstr n)
    | none => (operandFault c.g c.b c.record.vregs c.opc c.f (own c)).map c.illegalOperand

/-- What the group that issues sees, where there is one. -/
def State.ctx (s : State) (opc : Nat) (f : Fields) : Option Ctx :=
  (s.groups.find? s.cur).map fun g => { s := s, k := s.cur, g := g, b := s.curB, opc := opc, f := f, act := g.active s.curB f }

/-- The instruction stays where it stands, tried for stall reason `n`; one that is reissued keeps its word. -/
def waitHere (c : Ctx) (s : State) (n : Nat) : State :=
  let g := s.group c.k
  let g : Group := if (c.g.captured c.b).isNone then g
    else g.setSlot c.b { g.slot c.b with stream := (g.slot c.b).stream.set c.pc.toNat (wordBits c.opc c.f) }
  let t := s.setGroup c.k ({ g with stall := n, spill := if n = 0x11 then .wanted else g.spill,
                                    wait := if waitStall n then .again else g.wait }.tried c.b n)
  if c.g.stall = n then t else t.swapWaiting c.k

/-- Apply what an entry answers. A fault that would hold the group waits for the multiply phases of its core (09, R212). -/
def settle (c : Ctx) (s : State) : Res → State
  | .next s' => let t := s'.retireGroup c fun g => g.advance c.b c.pc; t.traceIssue c.g (t.group c.k) c.b c.any
  | .goto s' pc => let t := s'.retireGroup c fun g => g.setSlot c.b { g.slot c.b with pc := pc }; t.traceIssue c.g (t.group c.k) c.b c.any
  | .moved s' => let t := s'.retireGroup c id; t.traceIssue c.g (t.group c.k) c.b c.any
  | .trap i => s.takeTrap c.k i
  | .wait s' stall => waitHere c s' stall
  | .stay s' => if multiplies s c.g.core && (s'.group c.k).faulted then waitHere c s 0x0B else s'.swapWaiting c.k

/-- The traps of an entry and the loop conditions at END, step 3 of R109 (06, R132, R134). -/
def entryTrap (c : Ctx) (checks : Ctx → Option TrapInfo) : Option TrapInfo :=
  if endMisuse c.g c.opc c.pc then
    if c.opc ≤ 0x00E then
      match if c.f.never then none else checks c with
      | some i => if i.code = 3 then some i else some c.loopMisuse
      | none => if c.f.never then none else some c.loopMisuse
    else some c.loopMisuse
  else if c.f.never then none
  else checks c

/-- Issue an instruction: the checks of R109 in order, poison, the window limit, the never-execute word, then the entry
itself and what every issued word does. `names`: the vector names it may be the first to write; `own`: the entry's rules on its operand
fields, `checks`: its other traps. -/
def issue (opc : Nat) (f : Fields) (checks : Ctx → Option TrapInfo) (names : Ctx → List Nat) (run : Ctx → Res)
    (s : State) (own : Ctx → Nat → Bool := noOperands) : State :=
  match s.ctx opc f with
  | none => s
  | some c =>
    match formTrap c own with
    | some i => s.takeTrap c.k i
    | none =>
      match entryTrap c checks with
      | some i => s.takeTrap c.k i
      | none =>
        if f.never then settle c s (.next s)
        else if poisoned c != 0 then s.takeTrap c.k { c.trap 9 with mask := poisoned c }
        else if Forms.longLatency opc && decide (4 ≤ c.g.openWindows c.b) then settle c s (.wait s 0x0E)
        else if needsRegister c (names c) then
          s.setGroup c.k { c.g with wait := .alloc, stall := 0x04, need := registerNeed c (names c) }
        else settle c s (run c)

/-- No checks of its own. -/
def noChecks (_ : Ctx) : Option TrapInfo := none

end Sys2Proof.Machine
end

