-- ==== Sys2Proof/Machine/Access.lean ====
section
/-! DEFINITION. How an agent reaches memory: what makes an access wait, write-range logging, Loam windows, releases, notify
slots, the network operations of peer pages, and the accesses of the lanes of one instruction with their replay. -/

namespace Sys2Proof.Machine

/-- On whose behalf an access is made. -/
structure Who where
  core   : Nat
  team   : Nat
  group  : Nat
  launch : Nat
  asid   : Nat
  vmid   : Nat
  deriving DecidableEq, Repr

/-- The agent that group `k` is. -/
def State.who (s : State) (k : Nat) : Who :=
  let g := s.group k
  let l := (s.team g.team).launch
  { core := g.core, team := g.team, group := k, launch := l, asid := (s.launch l).asid, vmid := (s.launch l).vmid }

/-- The cores of a team (02, R29). -/
def teamCores (s : State) (t : Team) : List Nat := if (s.launch t.launch).record.span then [t.core, t.core + 1] else [t.core]

namespace State

/-! ## Scratchpad and its windows (10, R228, R234, R235) -/

/-- The ranges of core `k`'s scratchpad placed for teams of an ASID (10, R228; 04, R76). -/
def spRanges (s : State) (asid k : Nat) : List (Nat × Nat) :=
  s.teams.values.flatMap fun t =>
    if t.resident && (s.launch t.launch).asid == asid then
      (if t.core = k then [(t.spOff0, t.spLen)] else []) ++
      (if (s.launch t.launch).record.span && t.core + 1 == k then [(t.spOff1, t.spLen)] else [])
    else []

/-- Bytes `lo` to `hi − 1` all lie in the ranges. -/
def covered (rs : List (Nat × Nat)) : Nat → Nat → Nat → Bool
  | 0, lo, hi => decide (hi ≤ lo)
  | fuel + 1, lo, hi =>
    decide (hi ≤ lo) ||
    match rs.find? fun r => decide (r.1 ≤ lo) && decide (lo < r.1 + r.2) with
    | some r => covered rs fuel (r.1 + r.2) hi
    | none => false

/-- The check of R228 on `n` bytes at a scratchpad address, all in one core's scratchpad. -/
def spAllowed (s : State) (core asid sa n : Nat) : Bool :=
  let (k, off) := spPlace core sa
  let rs := s.spRanges asid k
  sa < 2 ^ 25 && decide (bitsOf sa 24 19 < 48) && decide (off + n ≤ 2 ^ 19) && covered rs (rs.length + 1) off (off + n)

/-- The windows that hold bytes of core `k`'s scratchpad at `off`, with team, place and word (10, R235). -/
def windowAt (s : State) (k off : Nat) : Option (Nat × Nat × Nat) :=
  let sa := k % 48 * 2 ^ 19 + off
  s.teams.findSome? fun t =>
    if t.2.windows.isEmpty || !t.2.resident || t.2.core / 48 != k / 48 then none
    else t.2.windows.zipIdx.findSome? fun (w, i) =>
      if w.sp ≤ sa ∧ sa < w.sp + w.len then some (t.1, i, (sa - w.sp) / 4) else none

/-- The offsets of the words that `n` bytes at `off` touch. -/
def wordsOf (off n : Nat) : List Nat := if n = 0 then [] else (List.range ((off + n - 1) / 4 + 1 - off / 4)).map fun i => (off / 4 + i) * 4

/-- Change one window of a team. -/
def setWindow (s : State) (t i : Nat) (f : LoamWindow → LoamWindow) : State :=
  let x := s.team t
  s.setTeam t { x with windows := x.windows.zipIdx.map fun (w, j) => if j = i then f w else w }

/-- The invalid window words among the bytes: a read waits for them, and they are asked for (10, R235). -/
def askFill (s : State) (k off n : Nat) : State × Bool :=
  (wordsOf off n).foldl (fun (s, waits) o =>
    match s.windowAt k o with
    | none => (s, waits)
    | some (t, i, w) =>
      let x := ((s.team t).windows.getD i default)
      if x.valid.getD w true then (s, waits)
      else if x.want.contains w then (s, true)
      else (s.setWindow t i fun x => { x with want := x.want ++ [w] }, true)) (s, false)

/-- Bytes in a read-only window (10, R235; 11, R246). -/
def readOnlyAt (s : State) (k off n : Nat) : Bool :=
  (wordsOf off n).any fun o =>
    match s.windowAt k o with
    | some (t, i, _) => !((s.team t).windows.getD i default).writable
    | none => false

/-- Window words written become valid and dirty (10, R235). -/
def markWindow (s : State) (k off n : Nat) : State :=
  (wordsOf off n).foldl (fun s o =>
    match s.windowAt k o with
    | none => s
    | some (t, i, w) => s.setWindow t i fun x => { x with valid := x.valid.set w true, dirty := x.dirty.set w true }) s

/-- Write scratchpad bytes as a program or an engine does: window words become valid and dirty. -/
def spStore (s : State) (k off : Nat) (bs : List Byte) : State := (s.spWrite k off bs).markWindow k off bs.length

/-- A scratchpad word is marked poisoned (15, R341). -/
def spPoisoned (s : State) (k off : Nat) : Bool := (s.core k).spoison.contains (off / 4)

/-- The dirty words of a window, with their places. -/
def dirtyWords (w : LoamWindow) : List Nat := (List.range (w.len / 4)).filter fun i => w.dirty.getD i false

/-- A copy command owns the scratchpad bytes of a dirty word of a window (11, R262). -/
def dirtyClaimed (s : State) (t : Team) (w : LoamWindow) : Bool :=
  (dirtyWords w).any fun j => s.spClaimed (t.core / 48 * 48 + bitsOf w.sp 24 19) (bitsOf w.sp 18 0 + 4 * j) 4

/-- Write back the dirty words of a window: byte-masked writes to their homes, as writes of a group on core `by_`, after the earlier stores
and reductions of the team's cores (10, R235; 11, R257; 12, R270, R271, R275, R276), poisoned words as such (16, R373); they count as bytes written (11, Table 11.5). -/
def writeBack (s : State) (by_ t i : Nat) : State :=
  let x := s.team t
  let w := x.windows.getD i default
  let k := x.core / 48 * 48 + bitsOf w.sp 24 19
  let ds := dirtyWords w
  let s := ds.foldl (fun (s : State) j =>
    let pa := w.place.getD j 0
    let cells := cellsAt pa (s.spBytes k (bitsOf w.sp 18 0 + 4 * j) 4)
    let s := match w.log.getD j none with
      | some ipa => s.noteLog (s.vmidFunc (s.launch x.launch).vmid) ipa 4
      | none => s
    let s := (teamCores s x).foldl (fun s c => (s.mergeSilt c fun l => l.line == lineOf pa).flushLine c (lineOf pa)) s
    let bad := if s.spPoisoned k (bitsOf w.sp 18 0 + 4 * j) then [pa / 32] else []
    (s.homeWrite (some by_) (some t) cells bad).registerNarrow by_ (lineOf pa)) s
  (s.setWindow t i fun w => { w with dirty := w.dirty.map fun _ => false }).count x.launch 13 (4 * ds.length)

/-- A word of a window comes from its home, after the dirty bytes that the team's cores hold of its line and every Silt word of it (10, R235;
12, R276, R279). -/
def fillWord (s : State) (t : Team) (k off pa : Nat) : State :=
  let l := lineOf pa
  let s := (((teamCores s t).foldl (fun s c => s.flushLine c l) s).mergeLine l)
  let bad := s.homePoisoned pa
  let s := (s.readLine l).spWrite k off (s.homeBytes pa 4)
  let c := s.core k
  if bad then s.setCore k { c with spoison := c.spoison ++ [off / 4] } else s

/-- Write back every window of a team. -/
def writeBackAll (s : State) (by_ t : Nat) : State := (List.range (s.team t).windows.length).foldl (fun s i => s.writeBack by_ t i) s

/-! ## Releases (12, R274, R275, R278, R282) -/

/-- Lines that a release of a group on core `c` of team `t` has to write. -/
def releaseLines (s : State) (c t : Nat) (wide : Bool) : List Nat :=
  (if wide then (s.core c).l1.map fun x => lineOf x.1 else []) ++ (s.core c).silt.map (·.line) ++
    (s.team t).windows.flatMap fun w => (dirtyWords w).map fun j => lineOf (w.place.getD j 0)

/-- A dirty word of a logged page waits for the log (10, R237). -/
def windowLogHolds (s : State) (t : Nat) (p : LoamWindow → Bool) : Bool :=
  let x := s.team t
  s.logHolds (s.vmidFunc (s.launch x.launch).vmid) &&
    x.windows.any fun w => p w && (dirtyWords w).any fun j => (w.log.getD j none).isSome

/-- The group's accesses to peers are still on their way (14, R325). -/
def peersOpen (s : State) (k : Nat) : Bool :=
  s.nets.any fun n => n.2.queues.any fun q => q.2.reqs.any fun r => r.group == k && r.peer.isSome

/-- A release by a group, of scope `wide` (device or system) and `sys`: the core's Silt lines merge, the team's windows are
written back, and the core's dirty bytes reach their homes or the L1 becomes pending; a system release appends the
write-range records first. None while it has to wait. -/
def release? (s : State) (w : Who) (wide sys : Bool) : State × Bool :=
  if (s.releaseLines w.core w.team wide).any (s.lineBlocked (some w.core)) || (s.team w.team).windows.any (s.dirtyClaimed (s.team w.team)) ||
      s.peersOpen w.group then (s, false)
  else if s.windowLogHolds w.team fun _ => true then (s.logFullSet (s.vmidFunc w.vmid), false)
  else
    let s := s.mergeSilt w.core fun _ => true
    let s := s.writeBackAll w.core w.team
    let s := if wide then s.flushAll w.core else s.narrowRelease w.core
    if sys then
      let s := s.closeLog (s.vmidFunc w.vmid)
      (s, (s.func (s.vmidFunc w.vmid)).logQueue.isEmpty)
    else (s, true)

/-! ## Notify slots (03, R52, R53) -/

/-- Wake the sleepers on the line of a slot (12, R288). -/
def wakeSlot (s : State) (q : Nat) : State :=
  { s with groups := s.groups.mapVals fun _ g =>
      match g.wait with
      | .waita w => if w.notify && w.place / 16 == q / 16 then { g with wait := .waita { w with woken := true } } else g
      | _ => g }

/-- What a queue evaluates after an accepted notify (R53): an overrun, or how many records it goes on to read. -/
def testOverrun (s : State) (q : Nat) : State :=
  let x := s.queue q
  let pending := (x.prod + 2 ^ 32 - x.cons) % 2 ^ 32
  if !x.enable || x.error != 0 then s
  else if 2 ^ x.size < pending then
    ((s.setQueue q { x with error := 1, todo := 0 }).report (s.vmidFunc x.vmid)
      { cause := 7, access := 10, tag := q, addr := x.prod, asid := x.asid, vmid := x.vmid }).1
  else s.setQueue q { x with todo := pending - (x.taken + 2 ^ 32 - x.cons) % 2 ^ 32 }

/-- A notify write to an enabled queue is discarded (03, R52). -/
def dropNotify (s : State) : State := { s with pkg := { s.pkg with notifyDrop := min (2 ^ 64 - 1) (s.pkg.notifyDrop + 1) } }

/-- An aligned notify write by a writer of VMID `vmid`: discarded, or accepted and evaluated. -/
def notify (s : State) (vmid q value : Nat) : State :=
  let x := s.queue q
  if !x.enable then s
  else if x.vmid != vmid then s.dropNotify
  else ((s.setQueue q { x with prod := value % 2 ^ 32 }).wakeSlot q).testOverrun q

/-! ## Network contexts and the operations of peer pages (14, R314, R325) -/

/-- The network context that sends for an ASID (14, R314). -/
def netOf (s : State) (asid : Nat) : Option Nat :=
  (List.find? (fun (n : Nat × NetCtx) => n.2.valid && n.2.asid == asid) s.nets).map (·.1)

/-- Append a request to queue `q` of context `n`. Accesses to peers stand in a queue of their own, number 16. -/
def postReq (s : State) (n q : Nat) (r : WorkReq) : State :=
  let x := s.net n
  let sq := x.queues.getD q {}
  s.setNet n { x with queues := x.queues.set q { sq with reqs := sq.reqs ++ [{ r with serial := sq.serial + 1 }],
                                                         serial := sq.serial + 1 } }

end State

/-! ## The accesses of lanes (11, R241–R249, R253; 12, R283–R285) -/

/-- What a lane's access does. -/
inductive LaneOp where
  | load (signed : Bool)
  | store
  | atom (op : Nat) (float signed : Bool)
  | cas
  | red (op : Nat) (float signed : Bool)
  deriving DecidableEq, Repr

/-- Its space, its width in bytes and what it does. -/
structure LaneForm where
  sp : Bool
  w  : Nat
  op : LaneOp
  deriving DecidableEq, Repr

/-- The rights it needs. -/
def LaneForm.access (m : LaneForm) : Access :=
  match m.op with
  | .load _ => .read
  | .store => .write
  | _ => .atomic

/-- It writes. -/
def LaneForm.writes (m : LaneForm) : Bool := m.access != .read

/-- It reads what it reaches, so that a window word fills first: all but whole-word stores (11, R246). -/
def LaneForm.reads (m : LaneForm) : Bool :=
  match m.op with
  | .store => decide (m.w < 4)
  | _ => true

/-- Bytes of a TYPE and NR (11, R242). -/
def memWidth (f : Fields) (nr : Nat) : Nat :=
  match f.type with
  | 2 => 1
  | 6 => 1
  | 1 => 2
  | 5 => 2
  | _ => 4 * 2 ^ nr

/-- The form of a lane-wise memory instruction. -/
def laneForm (opc : Nat) (f : Fields) : LaneForm :=
  let sx := f.type == 2 || f.type == 1
  let w := memWidth f (f.fnBits 5 4)
  let sp := bitOf f.aux.toNat 15
  let op := f.fnBits 6 4
  match opc with
  | 0x1C0 => { sp := false, w := w, op := .load sx }
  | 0x1C1 => { sp := false, w := w, op := .store }
  | 0x1C2 => { sp := true, w := w, op := .load sx }
  | 0x1C3 => { sp := true, w := w, op := .store }
  | 0x1C4 => { sp := false, w := memWidth f 0, op := .load sx }
  | 0x1C5 => { sp := false, w := memWidth f 0, op := .store }
  | 0x241 => { sp := sp, w := 4, op := .atom op (f.type == 8) (f.type == 0) }
  | 0x242 => { sp := sp, w := 4, op := .cas }
  | _ => { sp := sp, w := 4, op := .red op (f.type == 8) (f.type == 0) }

/-- In place of the address of an element outside its tensor (11, R252): no address, and a multiple of every width. -/
def outside : Nat := 2 ^ 65

/-- Where a lane's access lands. -/
inductive Target where
  | mem (pa : Nat) (log : Option Nat)
  | sp (core off : Nat)
  | peer (net vdn raddr : Nat)
  | slot (queue : Nat)
  deriving DecidableEq, Repr

namespace State

/-- The checks of a lane, in the order of R247: alignment, bounds, translation and rights. An element outside its tensor takes the bounds
fault before any translation (R252). -/
def aim (s : State) (w : Who) (m : LaneForm) (addr : Nat) : Except XFault Target :=
  if addr % m.w != 0 then .error { cause := 1 }
  else if addr == outside then .error { cause := 2 }
  else if m.sp then
    if !s.spAllowed w.core w.asid addr m.w then .error { cause := 2 }
    else
      let (k, off) := spPlace w.core addr
      if m.writes && s.readOnlyAt k off m.w then .error { cause := 4 } else .ok (.sp k off)
  else
    match s.translate w.core w.asid addr m.access with
    | .error x => .error x
    | .ok x =>
      if x.kind = 0 then
        if m.writes && ((s.rangeOf x.pa).map (·.2.exhausted)).getD false then .error { cause := 4 }
        else .ok (.mem x.pa (if x.log then some x.ipa else none))
      else if x.kind = 1 then
        match s.netOf w.asid with
        | some n => if (s.vdn x.vdn).valid && (s.vdn x.vdn).vmid == w.vmid then .ok (.peer n x.vdn x.pa) else .error { cause := 4 }
        | none => .error { cause := 4 }
      else if (m.op == .store && addr % 8 == 0 && (m.w == 8 || m.w == 4)) || ((match m.op with | .load _ => true | _ => false) && m.w == 8) then
        .ok (.slot (x.pa % 2 ^ 20 / 8))
      else .error { cause := 4, stage := 2, level := x.level, ipa := x.ipa }

/-- What the access does before it is made: it may wait for a line, a copy's chunk, a window's fill or the log. -/
def prepared (s : State) (w : Who) (m : LaneForm) : Target → State × Bool
  | .mem pa log =>
    let fn := s.vmidFunc w.vmid
    if s.lineBlocked (some w.core) (lineOf pa) || !s.l1Room w.core (lineOf pa) then (s, true)
    else if m.writes && log.isSome && s.logHolds fn then (s.logFullSet fn, true)
    else (s, false)
  | .sp k off =>
    if s.spClaimed k off m.w then (s, true)
    else if m.reads then s.askFill k off m.w
    else (s, false)
  | .peer _ _ _ => (s, false)
  | .slot _ => (s, false)

/-- The words of a load's bytes: extended where narrower than a word (11, R245). -/
def loadWords (m : LaneForm) (bs : List Byte) : List Word :=
  if m.w < 4 then
    [word (valBits (match m.op with | .load s => s | _ => false) (8 * m.w) (ofBytes bs))]
  else (List.range (m.w / 4)).map fun i => BitVec.ofNat 32 (ofBytes ((bs.drop (4 * i)).take 4))

/-- The bytes a store writes: the low `w` bytes of its words (11, R246). -/
def storeBytes (m : LaneForm) (data : List Word) : List Byte := (data.flatMap fun x => toBytes 4 x.toNat).take m.w

/-- A word of global memory that comes poisoned to core `c`: from its home, its own dirty bytes apart, or a poisoned one of its own dirty
words (10, Table 10.4; 15, R341; 16, R373). -/
def memPoisoned (s : State) (c pa : Nat) : Bool :=
  (s.core c).l1Poison.contains (pa / 4) ||
    (s.homePoisoned pa && !((List.range 4).all fun i => (Tbl.find? (s.core c).l1 (pa / 4 * 4 + i)).isSome))

/-- A reduction enters the core's Silt buffer (10, R236); a clean window word of its word is read afresh (12, R276). -/
def siltRed (s : State) (w : Who) (pa op : Nat) (float signed : Bool) (x : Word) : State :=
  let line := lineOf pa
  let i := pa % 128 / 4
  let same (l : SiltLine) : Bool := l.line == line && l.op == op && l.float == float && l.signed == signed
  let s := (s.mergeSilt w.core fun l => l.line == line && !same l).staleWindows w.core (cellsOf pa 4 0)
  let k := s.core w.core
  match k.silt.find? same with
  | some l =>
    let l' := { l with words := l.words.set i (match l.words.find? i with | some y => combine op float signed y x | none => x) }
    let l' := { l' with owners := if l.owners.contains w.team then l.owners else l.owners ++ [w.team] }
    s.setCore w.core { k with silt := l' :: k.silt.filter fun y => !same y }
  | none =>
    let s := if 64 ≤ k.silt.length then
        match k.silt.getLast? with
        | some old => s.mergeSilt w.core fun l => l == old
        | none => s
      else s
    let k := s.core w.core
    s.setCore w.core { k with silt := { line := line, op := op, float := float, signed := signed, words := [(i, x)],
                                        owners := [w.team] } :: k.silt }

/-- The new word of an atomic, none where it writes nothing (12, R284). -/
def atomWord (op : LaneOp) (old : Word) (data : List Word) : Option Word :=
  match op with
  | .atom o f sg => some (combine o f sg old (data.getD 0 0))
  | .red o f sg => some (combine o f sg old (data.getD 0 0))
  | .cas => if old == data.getD 0 0 then some (data.getD 1 0) else none
  | _ => none

/-- The request that carries a lane's access to a peer (14, R325, Table 14.4). -/
def peerRequest (m : LaneForm) (vdn raddr : Nat) (data : List Word) : Nat :=
  let code (f sg : Bool) : Nat := if f then 2 else if sg then 0 else 1
  let (op, atop, atype) : Nat × Nat × Nat := match m.op with
    | .load _ => (1, 0, 0)
    | .store => (0, 0, 0)
    | .atom o f sg => (2, o, code f sg)
    | .cas => (2, 7, 1)
    | .red o f sg => (2, o, code f sg)
  op + 2 * 2 ^ 6 + atype * 2 ^ 10 + atop * 2 ^ 12 + vdn * 2 ^ 16 + m.w * 2 ^ 32 + raddr * 2 ^ 128 +
    (data.getD 0 0).toNat * 2 ^ 384 + (data.getD 1 0).toNat * 2 ^ 448

/-- What became of one lane's access: the words it delivers, which of them are poisoned, whether it waits for the network,
and the bytes it read and wrote. -/
structure LaneOut where
  words   : List Word := []
  poison  : List Bool := []
  pending : Bool := false
  rd      : Nat := 0
  wr      : Nat := 0

/-- An atomic's write at the home: where the slice holds the line, and for a compare, which the base die does not know, the slice writes
the result; else the base die makes the operation (10, Table 10.4). -/
def homeAtom (s : State) (from_ : Option Nat) (pa : Nat) (op : LaneOp) (y x : Word) : State :=
  let cells := cellsOf pa 4 y.toNat
  let s := match op with
    | .atom o f sg => s.sendAtom pa o f sg x cells
    | _ => (s.readLine (lineOf pa)).send pa (.wr cells)
  (((s.healLine cells).strikeWindows none cells).sendInvals from_ cells).wakeLines cells

/-- Make a lane's access. What a group sends to a peer or to a notify slot while its core's L1 is pending comes after what the L1 then holds
(12, R272, R275). -/
def perform (s : State) (w : Who) (m : LaneForm) (r : Replay) (x : ReplayLane) : Target → State × LaneOut
  | .mem pa log =>
    let place := log.map fun ipa => (s.vmidFunc w.vmid, ipa)
    match m.op with
    | .load _ =>
      let s := (s.noteLine w.core (lineOf pa)).mergeLine (lineOf pa)
      (s, { words := loadWords m (s.coreBytes w.core pa m.w), poison := (wordsOf pa m.w).map (s.memPoisoned w.core), rd := m.w })
    | .store => (s.storeL1 w.core (cellsAt pa (storeBytes m x.data)) place, { wr := m.w })
    | .red o f sg => ((s.logLine w.core pa place).siltRed w pa o f sg (x.data.getD 0 0), { wr := 4 })
    | op =>
      let s := (s.flushLine w.core (lineOf pa)).mergeLine (lineOf pa)
      let old := BitVec.ofNat 32 (s.homeNat pa 4)
      let out : LaneOut := { words := [old], poison := [s.homePoisoned pa], rd := 4 }
      match atomWord op old x.data with
      | none => (s.readLine (lineOf pa), out)
      | some y =>
        let s := match place with | some p => s.noteLog p.1 p.2 4 | none => s
        ((s.homeAtom (some w.core) pa op y (x.data.getD 0 0)).registerNarrow w.core (lineOf pa), { out with wr := 4 })
  | .sp k off =>
    let s := s.spPublish w.core k off m.w
    match m.op with
    | .load _ => (s, { words := loadWords m (s.spBytes k off m.w), poison := (wordsOf off m.w).map (s.spPoisoned k) })
    | .store => ((s.spStore k off (storeBytes m x.data)).spNote w.core k off m.w, {})
    | op =>
      let old := BitVec.ofNat 32 (ofBytes (s.spBytes k off 4))
      let out : LaneOut := { words := [old], poison := [s.spPoisoned k off] }
      match atomWord op old x.data with
      | none => (s.markWindow k off 4, out)
      | some y => ((s.spStore k off (toBytes 4 y.toNat)).spNote w.core k off 4, out)
  | .peer n vdn raddr =>
    let s := s.publish w.core
    (s.postReq n 16 { raw := peerRequest m vdn raddr x.data, group := w.group, launch := w.launch, pc := r.pc, serial := 0,
                      peer := some { lane := x.lane, win := r.win, opc := r.opc, fields := r.fields, slotB := r.slotB,
                                     addr := x.addr, data := x.data } },
      { pending := true })
  | .slot q =>
    match m.op with
    | .store => ((s.publish w.core).notify w.vmid q (ofBytes (storeBytes m x.data)), { wr := m.w })
    | _ => (s, { words := [BitVec.ofNat 32 (s.queue q).prod, 0], rd := m.w })

/-- What became of the lanes of one access: lanes delivered, lanes with the network, and faults. -/
structure LanesOut where
  got    : List (Nat × LaneOut) := []
  faults : List (Nat × Nat × XFault) := []
  left   : List ReplayLane := []

/-- Make the accesses of a list of lanes, in increasing order; lanes that fault make none. -/
def performAll (w : Who) (m : LaneForm) (r : Replay) : List ReplayLane → State → LanesOut → State × LanesOut
  | [], s, out => (s, out)
  | x :: xs, s, out =>
    match s.aim w m x.addr with
    | .error e => performAll w m r xs s { out with faults := out.faults ++ [(x.lane, x.addr, e)], left := out.left ++ [x] }
    | .ok t =>
      let (s, o) := s.perform w m r x t
      performAll w m r xs s { out with got := out.got ++ [(x.lane, o)] }

/-- The lanes of a reduction need more Silt lines than are free, and one that would have to merge for them waits (10, R236). -/
def siltWaits (s : State) (w : Who) (m : LaneForm) (xs : List ReplayLane) : Bool :=
  match m.op with
  | .red _ _ _ =>
    let k := s.core w.core
    let lines := (xs.filterMap fun x => match s.aim w m x.addr with | .ok (.mem pa _) => some (lineOf pa) | _ => none).eraseDups
    decide (64 < k.silt.length + (lines.filter fun l => !k.silt.any fun y => y.line == l).length) &&
      k.silt.any fun l => s.lineBlocked (some w.core) l.line
  | _ => false

/-- Some lane faults. -/
def lanesFault (s : State) (w : Who) (m : LaneForm) (xs : List ReplayLane) : Bool :=
  xs.any fun x => match s.aim w m x.addr with | .error _ => true | .ok _ => false

/-- The walk that a lane's global address needs, once its alignment and bounds pass (R247). -/
def laneWalked (s : State) (w : Who) (m : LaneForm) (addr : Nat) : State :=
  if m.sp || addr % m.w != 0 || addr == outside then s else s.walked w.core w.asid addr

/-- Some lane has to wait first; its walk is made, and what else that asks for is asked for. -/
def lanesWait (s : State) (w : Who) (m : LaneForm) (xs : List ReplayLane) : State × Bool :=
  xs.foldl (fun (s, b) x =>
    let s := s.laneWalked w m x.addr
    match s.aim w m x.addr with
    | .error _ => (s, b)
    | .ok t => let (s, b') := s.prepared w m t; (s, b || b')) (s, s.siltWaits w m xs)

end State

/-- The mask of some lane numbers. -/
def maskOfLanes (ls : List Nat) : LaneMask := maskOf 96 ls.contains

/-- Delivered words join the destinations of the window they belong to (05, R111; 15, R340). -/
def Group.fillWindow (g : Group) (id : Nat) (names : List DName) (scalar : Bool) (got : List (Nat × State.LaneOut)) (tally : List (Nat × Nat)) : Group :=
  let m := maskOfLanes (got.map Prod.fst)
  { g with windows := g.windows.map fun (w : Window) =>
      if w.id != id || id = 0 then w
      else
        { w with
          tally := w.tally ++ tally
          dests := w.dests.map fun d =>
            match names.idxOf? d.name with
            | none => d
            | some i =>
              let bad := maskOfLanes ((got.filter fun x => x.2.poison.getD i false).map Prod.fst)
              let word (l : Nat) : Option Word := (got.find? (·.1 == l)).map fun x => x.2.words.getD i 0
              if scalar then
                match got with
                | x :: _ => { d with lanes := 1, vals := [x.2.words.getD i 0], poison := if x.2.poison.getD i false then 1 else 0 }
                | [] => d
              else { d with lanes := d.lanes ||| m, vals := (List.range g.width).map fun l => (word l).getD (d.vals.getD l 0),
                            poison := (d.poison &&& ~~~m) ||| bad } } }

/-- The names a lane-wise access delivers to (11, R243; 12, R284). -/
def laneNames (opc : Nat) (f : Fields) : List DName :=
  let m := laneForm opc f
  let o := Opnd.of f.d
  let n := match m.op with | .load _ => max 1 (m.w / 4) | .store => 0 | .red _ _ _ => 0 | _ => 1
  (List.range n).map fun i => if o.isVec then .v (o.index + i) else .s (o.index + i)

/-- The counters that lanes add to when they complete (11, Table 11.5; 12, R285). -/
def laneTally (opc : Nat) (f : Fields) (got : List (Nat × State.LaneOut)) : List (Nat × Nat) :=
  let done := got.filter fun x => !x.2.pending
  [(12, (done.map fun x => x.2.rd).sum), (13, (done.map fun x => x.2.wr).sum)] ++
    if 0x241 ≤ opc then [(if f.type = 8 then 8 else 11, done.length)] else []

/-- Add a tally to a launch's counters. -/
def State.countAll (s : State) (l : Nat) (ts : List (Nat × Nat)) : State := ts.foldl (fun s t => s.count l t.1 t.2) s

/-- The fault record and the hold of the lanes that faulted (11, R247; 15, R339, R340). -/
def State.holdLanes (s : State) (k : Nat) (r : Replay) (access : Nat) (out : State.LanesOut) : State :=
  match worstFault out.faults with
  | none => s
  | some (lane, addr, x) =>
    s.holdGroup k (s.groupRecord (s.group k) r.pc x access addr (maskOfLanes (out.faults.map Prod.fst)) lane) { r with lanes := out.left }

/-- Make the lanes' accesses, deliver what they read, count, and hold the group at those that faulted. A `red` counts when every lane has
entered the Silt buffer (12, R285). -/
def State.runLanes (s : State) (k : Nat) (r : Replay) : State :=
  let w := s.who k
  let m := laneForm r.opc r.fields
  let (s, out) := State.performAll w m r r.lanes s {}
  let long := Forms.longLatency r.opc
  let ts := laneTally r.opc r.fields out.got
  let pend := maskOfLanes ((out.got.filter fun x => x.2.pending).map Prod.fst)
  let scalar := (Opnd.of r.fields.d).isScalar && !(laneNames r.opc r.fields).isEmpty
  let g := s.group k
  let g := if long then g.fillWindow r.win (laneNames r.opc r.fields) scalar (out.got.filter fun x => !x.2.pending) ts else g
  let whole := m.op matches .red _ _ _
  let ts := if whole then r.tally ++ ts else ts
  let g := { g with windows := g.windows.map fun (w : Window) =>
               if w.id == r.win && long then { w with held := maskOfLanes (out.faults.map Prod.fst), pend := w.pend ||| pend } else w }
  let s := s.setGroup k { g with replay := none }
  let s := if long || (whole && !out.left.isEmpty) then s else s.countAll w.launch ts
  s.holdLanes k (if whole then { r with tally := ts } else r) m.access.code out

/-- Reissue of the held lanes once they need not wait (03, R73; 15, R340). -/
def State.reissue (s : State) (k : Nat) (r : Replay) : State :=
  match s.lanesWait (s.who k) (laneForm r.opc r.fields) r.lanes with
  | (s, true) => s.setGroup k { s.group k with stall := 0x10 }
  | (s, false) => s.runLanes k r

end Sys2Proof.Machine
end

