-- ==== Sys2Proof/Machine/Waits.lean ====
section
/-! DEFINITION. Groups that wait: how a wait begins and ends, and the barriers and the launch barrier that several instructions and events test (12, R286, R287). -/

namespace Sys2Proof.Machine

namespace State

/-- The group begins to wait at its instruction; the slot stays at it until the wait ends (04, R87). -/
def startWait (s : State) (c : Ctx) (w : Wait) (stall : Nat) : State :=
  s.setGroup c.k { s.group c.k with wait := w, waitOpc := c.opc, waitWord := c.f, waitB := c.b, stall := stall }

/-- Put the names of a group that was spilled back into its image (04, R91). -/
def respill (was : Option (Tbl VReg)) (g : Group) : Group := if was.isSome then { g with spilled := some g.vregs, vregs := [] } else g

/-- What a waiting group's instruction sees when its wait ends. -/
def waitCtx (s : State) (k : Nat) : Ctx :=
  let g := unspill { s.group k with wait := .none }
  { s := s.setGroup k g, k := k, g := g, b := g.waitB, opc := g.waitOpc, f := g.waitWord, act := g.active g.waitB g.waitWord }

/-- A wait ends and its instruction completes as `run` says. -/
def endWait (s : State) (k : Nat) (run : Ctx → Res) : State :=
  let was := (s.group k).spilled
  let c := s.waitCtx k
  let t := settle c c.s (run c)
  if was.isSome then t.setGroup k (respill was (t.group k)) else t

/-- A wait ends and its instruction has no more to do. -/
def release (s : State) (k : Nat) : State := s.endWait k fun c => .next c.s

/-- The groups of a launch, with their keys. -/
def launchGroups (s : State) (l : Nat) : List (Nat × Group) := s.groups.filter fun p => s.launchOf p.2 == l

end State

/-- The group counts in barriers: it has neither ended nor become dormant, and a lane is left (12, R286; 13, R294). -/
def Group.counts (g : Group) : Bool := !g.ended && g.dormFmt.isNone && g.exited != g.allLanes

/-- Barrier `id` of a team completes: the number of set bits has reached E, or with E = 0 every group that has not
exited has arrived (12, R286). -/
def barrierDone (s : State) (t : Nat) (b : Barrier) : Bool :=
  b.mask != 0 &&
    if b.count = 0 then (s.teamGroups t).all fun p => !p.2.counts || bitOf b.mask p.2.grpid
    else decide (b.count ≤ popCount b.mask 32)

/-- Do `k` after the release that the group's instruction makes, waiting while the release waits. -/
def afterRelease (c : Ctx) (wide sys : Bool) (stall : Nat) (k : State → Res) : Res :=
  match c.s.release? (c.s.who c.k) wide sys with
  | (s, true) => k s
  | (s, false) => .wait s stall

/-- The groups of a team (R286). -/
def groupCount (c : Ctx) : Nat := c.record.slots * 32 / c.g.width

/-- A barrier of the team. -/
def barrierOf (s : State) (t id : Nat) : Barrier := (s.team t).barriers.getD id {}

/-- An arrival at barrier `id`, steps 2 to 4 of R286, then `k`. -/
def arriveNow (c : Ctx) (id : Nat) (k : State → Barrier → Res) : Res :=
  let b := barrierOf c.s c.g.team id
  let n := (c.srcA.at 0).toNat
  if groupCount c < n || (b.mask != 0 && n != b.count) then .trap (c.illegalOperand 2)
  else
    afterRelease c false false 0x07 fun s =>
      let b : Barrier := { b with mask := b.mask + 2 ^ c.g.grpid, count := if b.mask = 0 then n else b.count }
      let t := s.team c.g.team
      k (s.setTeam c.g.team { t with barriers := t.barriers.set id b }) b

/-- The arrival of a group that waited for the next phase of barrier `id`: it is made when the phase it waited on completes (12, R286). -/
def arriveNext (s : State) (id k : Nat) : State :=
  s.endWait k fun c => arriveNow c id fun s b => if c.opc = 0x249 then .next s else .stay (s.startWait c (.barrier id b.phase) 0x07)

/-- Barrier `id` completes: the phase flips, the mask clears, the groups that wait on the phase go on, and those that wait to arrive in the
next phase arrive (12, R286). The cores of a pair publish what the arrivals released (12, R272, R275). -/
def completeBarrier (s : State) (t id : Nat) : State :=
  let b := barrierOf s t id
  let x := s.team t
  let s := s.setTeam t { x with barriers := x.barriers.set id { b with mask := 0, phase := !b.phase } }
  let s := if (s.launch x.launch).record.span then (teamCores s x).foldl State.publish s else s
  let waiting := s.teamGroups t
  let s := waiting.foldl (fun s p => if p.2.wait == .barrier id b.phase then s.release p.1 else s) s
  waiting.foldl (fun s p => if p.2.wait == .barrierNext id then arriveNext s id p.1 else s) s

/-- Test barrier `id`, and again as long as the arrivals that its completion brings complete its next phase. -/
def testPhases : Nat → State → Nat → Nat → State
  | 0, s, _, _ => s
  | n + 1, s, t, id => if barrierDone s t (barrierOf s t id) then testPhases n (completeBarrier s t id) t id else s

/-- Test barrier `id` of a team (12, R286). -/
def testBarrier (s : State) (t id : Nat) : State := testPhases 33 s t id

/-- Test every barrier of a team, as after a group's exit (12, R286). -/
def testBarriers (s : State) (t : Nat) : State := (List.range 16).foldl (fun s i => testBarrier s t i) s

/-- Test the launch barrier: it completes when every group of the launch that counts has arrived; where every such group
waits at `gbar` or `resample` and both are present, each at `gbar` takes the illegal-convergence trap (12, R287). -/
def testGbar (s : State) (l : Nat) : State :=
  let gs := (s.launchGroups l).filter fun p => p.2.counts
  let at_ := gs.filter fun p => p.2.wait == .gbar
  if at_.isEmpty then s
  else if at_.length = gs.length && (s.launch l).record.teams == (s.launch l).next then
    let x := s.launch l
    at_.foldl (fun s p => s.release p.1) (s.setLaunch l { x with gphase := x.gphase + 1, gbar := [] })
  else if gs.all fun p => p.2.wait == .gbar || p.2.wait == .resample then
    at_.foldl (fun s p =>
      let g := { s.group p.1 with wait := .none }
      (s.setGroup p.1 g).takeTrap p.1 { code := 3, pc := g.slotA.pc, mask := g.slotA.active }) s
  else s

end Sys2Proof.Machine
end

