-- ==== Sys2Proof/Machine/Control.lean ====
section
/-! DEFINITION. The control and format instructions (06, R135–R146). -/

namespace Sys2Proof.Machine

/-! ## Shared operations -/

/-- PC + 12·sext(field) (06, R134). -/
def target (c : Ctx) (x : BitVec 16) : Word := c.pc + word (12 * x.toInt)

/-- A branch from inside the innermost loop body with a target outside it (06, R132). -/
def leavesLoop (c : Ctx) (ts : List Word) : Bool :=
  match innermost c.g with
  | some (_, l) =>
    let inside (x : Word) : Bool := decide (l.start.toNat ≤ x.toNat) && decide (x.toNat ≤ l.stop.toNat)
    !c.g.inh && inside c.pc && ts.any fun t => !inside t
  | none => false

/-- `n` more entries do not fit the stack (06, R122). -/
def noRoom (c : Ctx) (n : Nat) : Bool := decide (4 + c.record.stackN < c.g.depth + n)

/-- The first of the checks that holds, in the order given (06, R134). -/
def firstTrap (cs : List (Bool × TrapInfo)) : Option TrapInfo := (cs.find? (·.1)).map (·.2)

/-- Lanes of a set by next PC, in the order of each path's lowest lane (06, R123, step 1). -/
def pathsOf (owned : LaneMask) (next : Nat → Word) : List (Word × LaneMask) :=
  (lanesOf owned).foldl (fun ps l =>
    if ps.any (·.1 == next l) then ps.map fun p => if p.1 == next l then (p.1, p.2 ||| BitVec.ofNat 96 (2 ^ l)) else p
    else ps ++ [(next l, BitVec.ofNat 96 (2 ^ l))]) []

/-- How many entries a divergence into `n` paths pushes (06, R123). -/
def pushesFor (c : Ctx) (n : Nat) : Nat := if n < 2 then 0 else if (c.g.slot (!c.b)).vacant then n - 1 else n

/-- Each open window of the diverging slot continues in the other with the count it has once the branch is counted; those that a handler
interrupts stay as they are (05, R112). -/
def Group.shareWindows (g : Group) (b : Bool) : Group :=
  { g with windows := g.windows.map fun w =>
      if w.frozen then w else if b then { w with remA := w.remB.map (· - 1) } else { w with remB := w.remA.map (· - 1) } }

/-- What a stack operation that was not made comes to: a wait for the spill region, a held fault of an access to it, or a trap
(06, R121, R132). -/
def stackFails (c : Ctx) : StackOp → Res
  | .fault x a j => .stay (c.s.holdSpill c.k c.b c.opc c.f x a j (some (captureOf c)))
  | .loop => .trap c.loopMisuse
  | .broken => .trap c.illegalConv
  | _ => .wait c.s 0x11

/-- Divergence into two or more paths with reconvergence PC `r`; one path is a plain jump (06, R123). -/
def diverge (c : Ctx) (paths : List (Word × LaneMask)) (r : Word) : Res :=
  match paths with
  | [] => .next c.s
  | [p] => .goto c.s p.1
  | p :: q :: rest =>
    let sl := c.slot
    let tag := if c.b then Tag.slotB else Tag.slotA
    let free := (c.g.slot (!c.b)).vacant
    let take (x : Word × LaneMask) : PcSlot := { pc := x.1, rpc := r, fmt := sl.fmt, active := x.2, owned := x.2 }
    let join : StackEntry := { kind := .join, tag := if free then .group else tag, fmt := sl.fmt, rpc := sl.rpc, pc := r, mask := sl.owned }
    let pend := (if free then rest else q :: rest).reverse.map fun x =>
      ({ kind := .pending, tag := tag, fmt := sl.fmt, rpc := r, pc := x.1, mask := x.2 } : StackEntry)
    match pushAll c.s c.g (join :: pend) with
    | .ok s g =>
      let g := g.setSlot c.b (take p)
      .moved (s.setGroup c.k (if free then ((g.setSlot (!c.b) (take q)).emptyFiles).shareWindows c.b else g))
    | r => stackFails c r

/-- Push a return entry and go to `t` (06, R139). -/
def callTo (c : Ctx) (t : Word) : Res :=
  let sl := c.slot
  match pushEntry c.s c.g { kind := .ret, tag := if c.b then .slotB else .slotA, fmt := 0, rpc := sl.rpc, pc := c.pc + 12, mask := sl.owned } with
  | .ok s g => .goto (s.setGroup c.k (g.setSlot c.b { g.slot c.b with rpc := rpcNone })) t
  | r => stackFails c r

/-- The misaligned fault of a branch target, held at the instruction (06, R138, R139). -/
def targetFault (c : Ctx) (t : Word) (lanes : LaneMask) : Res :=
  .stay (c.s.holdGroup c.k
    (c.s.groupRecord c.g c.pc { cause := 1 } 3 (c.record.kimg + t.toNat) lanes (((lanesOf lanes).head?).getD 0))
    { opc := c.opc, fields := c.f, pc := c.pc, slotB := c.b, whole := true, seq := 0,
      lanes := (lanesOf lanes).map fun l => { lane := l, addr := c.record.kimg + t.toNat, data := [] }, capture := some (captureOf c) })

/-- A target that is no multiple of 12. -/
def unaligned (t : Word) : Bool := t.toNat % 12 != 0

/-- Lanes of the issuing slot exit (06, R128, R141): they leave its masks; parked lanes come back where none is left
active; a slot with no owned lane arrives. In a handler every lane of the group exits and the frame is discarded
(15, R338). A population group with no lane left becomes dormant (13, R294). Where a pop cannot be made, the `exit` has no effect
(R121, R132). -/
def exitLanes (c : Ctx) (s : State) (m : LaneMask) : Res :=
  let g := s.group c.k
  let m := if g.inh then g.liveLanes else m
  let g : Group := { g with exited := g.exited ||| m,
                            windows := g.windows.map fun w => { w with dests := w.dests.map fun d =>
                              match d.name with
                              | .s _ => d
                              | .special _ => d
                              | _ => { d with lanes := d.lanes &&& ~~~m } } }
  let g : Group := if g.inh then
      Group.dropReplay { g with inh := false, frame := none, trapRegs := [], stack := [], deep := 0, deepKinds := [], slotB := {},
                                replay := g.frame.bind (·.replay), windows := g.windows.map fun w => { w with frozen := false } } else g
  let sl := g.slot c.b
  let owned := sl.owned &&& ~~~m
  let act := sl.active &&& ~~~m
  if owned != 0 then
    .next (s.setGroup c.k (g.setSlot c.b { sl with owned := owned, active := if act = 0 then owned else act }))
  else
    let dorm := g.exited == g.allLanes && c.record.pop
    let g : Group := if dorm then { g.dropNames with dormFmt := some sl.fmt, preds := [], lin := [], par := [], ord := [] } else g
    let g := g.setSlot c.b { sl with owned := 0, active := 0, join := true }
    match arrive true g.arriveFuel s g c.b with
    | .ok s g =>
      let s := s.setGroup c.k g
      .moved (if dorm then testGbar (testBarriers s g.team) (s.launchOf g) else s)
    | .stop why _ _ _ => stackFails c why

/-! ## The instructions -/

/-- `nop` (06, R135). -/
def execNop (f : Fields) (s : State) : Host.Outcome State Fault Refusal :=
  .next (issue 0x001 f noChecks noNames (fun c => .next c.s) s)

/-- `bra` (06, R136). -/
def execBra (f : Fields) (s : State) : Host.Outcome State Fault Refusal :=
  .next (issue 0x002 f (fun c => firstTrap [(leavesLoop c [target c f.aux], c.loopMisuse)]) noNames
    (fun c => .goto c.s (target c f.aux)) s)

/-- The next PC of each owned lane of `brc` (06, R137). -/
def brcPaths (c : Ctx) : List (Word × LaneMask) :=
  pathsOf c.slot.owned fun l => if c.act.getLsbD l then target c c.f.aux else c.pc + 12

/-- `brc` (06, R137). -/
def execBrc (f : Fields) (s : State) : Host.Outcome State Fault Refusal :=
  .next (issue 0x003 f
    (fun c => firstTrap [(f.bh == 3 && c.any && c.act != c.slot.owned, c.illegalConv),
                         (c.any && leavesLoop c [target c f.aux], c.loopMisuse),
                         (noRoom c (pushesFor c (brcPaths c).length), c.stackFull)])
    noNames (fun c => diverge c (brcPaths c) (target c f.b)) s)

/-- The next PC of each owned lane of `brx` (06, R138). -/
def brxPaths (c : Ctx) : List (Word × LaneMask) :=
  pathsOf c.slot.owned fun l => if c.act.getLsbD l then c.srcA.at l else c.pc + 12

/-- `brx` (06, R138). -/
def execBrx (f : Fields) (s : State) : Host.Outcome State Fault Refusal :=
  .next (issue 0x004 f
    (fun c => firstTrap [(f.bh == 3 && decide (2 ≤ (brxPaths c).length), c.illegalConv),
                         (leavesLoop c ((lanesOf c.act).map c.srcA.at), c.loopMisuse),
                         (noRoom c (pushesFor c (brxPaths c).length), c.stackFull)])
    noNames
    (fun c =>
      let bad := (lanesOf c.act).filter fun l => unaligned (c.srcA.at l)
      match bad with
      | l :: _ => targetFault c (c.srcA.at l) (maskOf c.g.width bad.contains)
      | [] => diverge c (brxPaths c) (target c f.b)) s)

/-- `call` (06, R139). -/
def execCall (f : Fields) (s : State) : Host.Outcome State Fault Refusal :=
  .next (issue 0x005 f (fun c => firstTrap [(noRoom c 1, c.stackFull)]) noNames (fun c => callTo c (target c f.aux)) s)

/-- A must be uniform (06, R134). -/
def uniformA (c : Ctx) (n : Nat) : Bool := n == 2 && vectorValued c.g c.b c.opA

/-- `callx` (06, R139). -/
def execCallx (f : Fields) (s : State) : Host.Outcome State Fault Refusal :=
  .next (issue 0x006 f
    (fun c => firstTrap [(noRoom c 1, c.stackFull)]) noNames
    (fun c => if unaligned (c.srcA.at 0) then targetFault c (c.srcA.at 0) c.act else callTo c (c.srcA.at 0)) s uniformA)

/-- `ret` (06, R140); a slot that it leaves with no lane arrives (R124). -/
def execRet (f : Fields) (s : State) : Host.Outcome State Fault Refusal :=
  .next (issue 0x007 f
    (fun c => firstTrap
      [(match topEntry c.s c.g c.b with | some (_, some e) => e.kind != .ret | some (_, none) => false | none => true, c.illegalConv),
       (popsLoop c.g, c.loopMisuse)])
    noNames
    (fun c =>
      match topEntry c.s c.g c.b with
      | some (i, some e) =>
        match removeEntry c.s c.g i with
        | .ok s g =>
          let m := e.mask &&& g.liveLanes
          .moved (s.setGroup c.k (g.setSlot c.b { g.slot c.b with pc := e.pc, rpc := e.rpc, owned := m, active := m, join := m == 0 }))
        | r => stackFails c r
      | some (i, none) => stackFails c (unreadEntry c.s c.g i)
      | none => .trap c.illegalConv) s)

/-- `exit` (06, R141). -/
def execExit (f : Fields) (s : State) : Host.Outcome State Fault Refusal :=
  .next (issue 0x008 f noChecks noNames (fun c => if c.any then exitLanes c c.s c.act else .next c.s) s)

/-- The lowest closed loop level (06, R130). -/
def lowestClosed (g : Group) : Nat :=
  (([0, 1, 2].find? fun n => !(g.loops.getD n {}).opened)).getD 3

/-- `loop` (06, R142). -/
def execLoop (f : Fields) (s : State) : Host.Outcome State Fault Refusal :=
  .next (issue 0x009 f
    (fun c => firstTrap [(c.g.inh || f.fn.toNat != lowestClosed c.g || c.g.live true, c.loopMisuse)])
    noNames
    (fun c =>
      let n := c.srcA.at 0
      if n = 0 then .goto c.s (c.pc + word (12 * (f.aux.toNat + 1)))
      else
        .goto (c.s.setGroup c.k (c.g.setLoop f.fn.toNat
          { opened := true, count := n, start := c.pc + 12, stop := c.pc + word (12 * f.aux.toNat), depth := c.g.depth }))
          (c.pc + 12)) s uniformA)

/-- `lbrk` (06, R143). -/
def execLbrk (f : Fields) (s : State) : Host.Outcome State Fault Refusal :=
  .next (issue 0x00A f
    (fun c => firstTrap
      [(c.any && c.act != c.slot.active, c.illegalConv),
       (c.g.inh || c.g.live true || (match innermost c.g with | some (_, l) => c.g.depth != l.depth | none => true), c.loopMisuse)])
    noNames
    (fun c =>
      match innermost c.g with
      | some (n, l) => if c.any then .goto (c.s.setGroup c.k (c.g.setLoop n {})) (l.stop + 12) else .next c.s
      | none => .next c.s) s)

/-- `yield` (06, R144): the slot is held until every other active group has issued or has no slot that can, or for 64 cycles. -/
def execYield (f : Fields) (s : State) : Host.Outcome State Fault Refusal :=
  .next (issue 0x00B f noChecks noNames
    (fun c =>
      let others := ((c.s.sched c.g.core c.g.sched).active.map (·.group)).filter (· != c.k)
      .next (c.s.setGroup c.k (c.g.setSlot c.b { c.slot with yieldAt := some c.s.now, yieldFor := others }))) s)

/-- `setfmt` (06, R145). -/
def execSetfmt (f : Fields) (s : State) : Host.Outcome State Fault Refusal :=
  .next (issue 0x00C f noChecks noNames
    (fun c =>
      let x := if f.imm32 then f.immediate else c.srcA.at 0
      .next (c.s.setGroup c.k (c.g.setSlot c.b { c.slot with fmt := formatBits x }))) s fun c n => !f.imm32 && uniformA c n)

/-- D of `getfmt` and `rdsr`: s0 to s59, a vector name or q0 (06, R145; 15, R352). -/
def readDestBad (c : Ctx) : Bool := !(c.opD.isVec || c.opD.isQ0 || (c.opD.isScalar && decide (c.opD.index ≤ 59)))

/-- D is a vector name or s0 to s59. -/
def plainDest (c : Ctx) (n : Nat) : Bool := n == 1 && !(c.opD.isVec || (c.opD.isScalar && decide (c.opD.index ≤ 59)))

/-- A uniform single-register result: D in the active lanes, and the last-result shift (05, R107). -/
def giveResult (c : Ctx) (v : Value) : Res :=
  if c.any then .next (c.s.setGroup c.k (shiftResult (putDest c.g c.b c.act c.opD v) c.act v)) else .next c.s

/-- A uniform value as D takes it: broadcast where D is no scalar (05, R100). -/
def spread (c : Ctx) (x : Word) : Value := if c.opD.isScalar then .uniform x else .lanes c.g.width fun _ => x

/-- `getfmt` (06, R145). -/
def execGetfmt (f : Fields) (s : State) : Host.Outcome State Fault Refusal :=
  .next (issue 0x00D f noChecks destName (fun c => giveResult c (spread c c.slot.fmt)) s fun c n => n == 1 && readDestBad c)

/-- `wrmask` (06, R146). -/
def execWrmask (f : Fields) (s : State) : Host.Outcome State Fault Refusal :=
  .next (issue 0x00E f noChecks noNames
    (fun c =>
      let p := maskOf c.g.width fun l => (c.srcA.at l).getLsbD 0
      .next (c.s.setGroup c.k (c.g.setActive c.b (if f.fn = 0 then p else p &&& c.slot.active)))) s
    fun c n => n == 2 && !c.opA.isPred)

end Sys2Proof.Machine
end

