-- ==== Sys2Proof/Machine/Memory.lean ====
section
/-! DEFINITION. Element loads and stores, tensor forms and their records, and prefetch (11, R241–R255). -/

namespace Sys2Proof.Machine

/-! ## Operands that several families share -/

/-- A field that names a pair holding a 64-bit address: an even scalar up to s58, or `kbase` or `param` (11, R241). -/
def pairOk (o : Opnd) : Bool := o.isScalar && ((decide (o.index ≤ 58) && o.index % 2 == 0) || o.index == 76 || o.index == 78)

/-- The 64-bit value of a pair, low word first. -/
def pairValue (c : Ctx) (o : Opnd) : Nat := ((nextReg c o 0).at 0).toNat + ((nextReg c o 1).at 0).toNat * 2 ^ 32

/-- Field `field` must name a pair. -/
def pairRule (o : Opnd) (field : Nat) : Nat × Bool := (field, !pairOk o)

/-- Field `field` must be uniform. -/
def uniformRule (c : Ctx) (o : Opnd) (field : Nat) : Nat × Bool := (field, vectorValued c.g c.b o)

/-- A must name a pair. -/
def pairA (c : Ctx) : Nat → Bool := fieldsBad [pairRule c.opA 2]

/-- An exact address: one outside 64 bits keeps a mark above them, so that it takes the bounds fault (11, R241). -/
def exactAddr (x : Int) : Nat := if 0 ≤ x && x < (2 ^ 64 : Nat) then x.toNat else 2 ^ 64 + (x % (2 ^ 64 : Nat)).toNat

/-- The lowest active lane. -/
def firstLane (c : Ctx) : Nat := ((lanesOf c.act).head?).getD 0

/-- The destination of a lane-wise access as its window holds it before anything is delivered. -/
def emptyDest (w : Nat) (n : DName) : WinDest := { name := n, lanes := 0, vals := List.replicate w 0, poison := 0 }

/-- The lanes that make the access: one where D is a scalar (11, R243). -/
def accessLanes (c : Ctx) : List Nat :=
  if c.opD.isScalar && !(laneNames c.opc c.f).isEmpty then (lanesOf c.act).take 1 else lanesOf c.act

/-- Issue a lane-wise access: `ask` gives a lane's address and data, none for a lane that makes no access and reads 0. -/
def laneAccess (c : Ctx) (ask : Nat → Option ReplayLane) : Res :=
  let lanes := accessLanes c
  let xs := lanes.filterMap ask
  match c.s.lanesWait (c.s.who c.k) (laneForm c.opc c.f) xs with
  | (s, true) => .wait s 0x10
  | (s, false) =>
    if multiplies s c.g.core && s.lanesFault (s.who c.k) (laneForm c.opc c.f) xs then .wait s 0x0B
    else
    let id := s.serial + 1
    let s := { s with serial := id }
    let r : Replay := { opc := c.opc, fields := c.f, pc := c.pc, slotB := c.b, whole := false, seq := 0, lanes := xs, win := id }
    let s :=
      if Forms.longLatency c.opc then
        let names := if c.any then laneNames c.opc c.f else []
        let g := (s.group c.k).openWindow c.opc c.f.la.toNat c.b (names.map (emptyDest c.g.width)) (id := id)
        let none_ := (lanes.filter fun l => (ask l).isNone).map fun l => (l, ({} : State.LaneOut))
        s.setGroup c.k (g.fillWindow id names (c.opD.isScalar) none_ [])
      else s
    .next (if xs.isEmpty then s else s.runLanes c.k r)

/-! ## Element loads and stores -/

/-- The address of a lane (11, R241; 12, R283). -/
def laneAddr (c : Ctx) (l : Nat) : Nat :=
  let atomic := 0x241 ≤ c.opc
  let idx := valT 0 (c.srcB.at l).toNat
  let x : Int := if atomic then idx * 4 + valBits true 15 (bitsOf c.f.aux.toNat 14 0)
                 else idx * (2 ^ c.f.fnBits 8 6 : Nat) + c.f.aux.toInt
  if (laneForm c.opc c.f).sp then wrapBits 32 ((c.srcA.at 0).toNat + x) else exactAddr ((pairValue c c.opA : Int) + x)

/-- Registers of a data block: words a lane moves. -/
def blockWords (c : Ctx) : Nat := max 1 ((laneForm c.opc c.f).w / 4)

/-- The data of a store: the words of D's block in the lane (11, R243). -/
def laneData (c : Ctx) (l : Nat) : List Word := (List.range (blockWords c)).map fun i => (nextReg c c.opD i).at l

/-- The checks of R248 on D of a load. -/
def loadDestBad (c : Ctx) : Bool :=
  let n := blockWords c
  !((c.opD.isVec && decide (c.opD.index + n ≤ c.record.vregs)) || (c.opD.isScalar && decide (c.opD.index + n ≤ 60)))

/-- The checks of R243 and R248 on the data of a store: a vector name, a scalar up to s59, a uniform special register or an immediate. -/
def storeDataBad (c : Ctx) : Bool :=
  let n := blockWords c
  c.opD.cls == 1 || (c.opD.isScalar && decide (60 ≤ c.opD.index) && decide (c.opD.index ≤ 70)) ||
  (decide (1 < n) && !(c.opD.isVec && decide (c.opD.index + n ≤ c.record.vregs)))

/-- The base of a scratchpad form is uniform, that of a global form a pair. -/
def baseRule (c : Ctx) : Nat × Bool := if (laneForm c.opc c.f).sp then uniformRule c c.opA 2 else pairRule c.opA 2

/-- The operand rules of a load. -/
def loadOperands (c : Ctx) : Nat → Bool := fieldsBad [(1, loadDestBad c), baseRule c]

/-- The operand rules of a store. -/
def storeOperands (c : Ctx) : Nat → Bool := fieldsBad [(1, storeDataBad c), baseRule c]

/-- The vector names of a load's block. -/
def blockNames (c : Ctx) : List Nat := if c.opD.isVec then (List.range (blockWords c)).map (c.opD.index + ·) else []

/-- A load of elements (R245). -/
def loadForm (opc : Nat) (f : Fields) (s : State) : Host.Outcome State Fault Refusal :=
  .next (issue opc f noChecks blockNames
    (fun c => laneAccess c fun l => some { lane := l, addr := laneAddr c l, data := [] }) s loadOperands)

/-- A store of elements (R246). -/
def storeForm (opc : Nat) (f : Fields) (s : State) : Host.Outcome State Fault Refusal :=
  .next (issue opc f noChecks noNames
    (fun c => laneAccess c fun l => some { lane := l, addr := laneAddr c l, data := laneData c l }) s storeOperands)

def execLd (f : Fields) (s : State) : Host.Outcome State Fault Refusal := loadForm 0x1C0 f s
def execLds (f : Fields) (s : State) : Host.Outcome State Fault Refusal := loadForm 0x1C2 f s
def execSt (f : Fields) (s : State) : Host.Outcome State Fault Refusal := storeForm 0x1C1 f s
def execSts (f : Fields) (s : State) : Host.Outcome State Fault Refusal := storeForm 0x1C3 f s

/-! ## Tensor shape records (R250–R252) -/

namespace Tensor

def base (r : Nat) : Nat := bitsOf r 63 0
def rank (r : Nat) : Nat := bitsOf r 66 64
/-- Bits of an element. -/
def elemBits (r : Nat) : Nat := 4 * 2 ^ bitsOf r 74 72
def clip (r : Nat) : Nat := bitsOf r 76 75
def swz (r : Nat) : Nat := bitsOf r 78 77
def extent (r k : Nat) : Nat := bitsOf r (32 * k + 127) (32 * k + 96)
def stride (r k : Nat) : Nat := bitsOf r (32 * k + 319) (32 * k + 288)

/-- A well-formed record (R251). -/
def ok (r : Nat) : Bool :=
  decide (1 ≤ rank r) && bitsOf r 74 72 < 4 && clip r < 2 && bitsOf r 63 54 == 0 && base r % 16 == 0 &&
  ((List.range (rank r)).all fun k => k == 0 || stride r k % 16 == 0) &&
  (decide (rank r < 2) || stride r 1 % (16 * 2 ^ swz r) == 0) && (rank r != 1 || swz r == 0) &&
  bitsOf r 71 67 == 0 && bitsOf r 95 79 == 0

/-- Every coordinate is inside its extent (R252). -/
def inside (r : Nat) (cs : List Int) : Bool :=
  (List.range (rank r)).all fun k => decide (0 ≤ cs.getD k 0) && decide (cs.getD k 0 < extent r k)

/-- The address of the element at coordinates inside the tensor (R252). -/
def addr (r : Nat) (cs : List Int) : Nat :=
  let c (k : Nat) : Nat := (cs.getD k 0).toNat
  let off := c 0 * elemBits r / 8 + ((List.range (rank r)).map fun k => if k = 0 then 0 else c k * stride r k).sum
  base r + if swz r = 0 then off else Nat.xor off (c 1 % 2 ^ swz r * 16)

end Tensor

/-- The record a tensor form names. -/
def recordOf (c : Ctx) : Nat := c.team.trec (c.f.aux.toNat % 16)

/-- The coordinates a lane gives (R253). -/
def laneCoords (c : Ctx) (l : Nat) : List Int :=
  (List.range (Tensor.rank (recordOf c))).map fun i => valT 0 ((nextReg c c.opA i).at l).toNat

/-- What a lane of a tensor form asks for: nothing outside the tensor under CLIP 0, an address out of bounds under
CLIP 1 (R252, R253). -/
def tensorAsk (c : Ctx) (data : Nat → List Word) (l : Nat) : Option ReplayLane :=
  let r := recordOf c
  let cs := laneCoords c l
  if Tensor.inside r cs then some { lane := l, addr := Tensor.addr r cs, data := data l }
  else if Tensor.clip r = 0 then none
  else some { lane := l, addr := outside, data := data l }

/-- The operand rules of R253: data and coordinates. -/
def tensorOperands (dBad : Ctx → Bool) (c : Ctx) : Nat → Bool :=
  let n := Tensor.rank (recordOf c)
  fieldsBad [(1, dBad c),
    (2, !((c.opA.isVec && decide (c.opA.index + n ≤ c.record.vregs)) || (c.opA.isScalar && decide (c.opA.index + n ≤ 60))))]

/-- The checks of R253 on the record and the element size. -/
def tensorChecks (c : Ctx) : Option TrapInfo :=
  let r := recordOf c
  firstTrap [(!Tensor.ok r, c.illegalOperand 5), (Tensor.elemBits r != 8 * (laneForm c.opc c.f).w, c.illegalFormat)]

def execLdTensor (f : Fields) (s : State) : Host.Outcome State Fault Refusal :=
  .next (issue 0x1C4 f tensorChecks blockNames (fun c => laneAccess c (tensorAsk c fun _ => [])) s (tensorOperands loadDestBad))

def execStTensor (f : Fields) (s : State) : Host.Outcome State Fault Refusal :=
  .next (issue 0x1C5 f tensorChecks noNames (fun c => laneAccess c (tensorAsk c (laneData c))) s (tensorOperands storeDataBad))

/-- `tset`: one word of a record of the team (R254). -/
def execTset (f : Fields) (s : State) : Host.Outcome State Fault Refusal :=
  .next (issue 0x1C8 f noChecks noNames
    (fun c =>
      if !c.any then .next c.s
      else
        let n := f.fnBits 3 0
        let w := f.fnBits 7 4
        let x := if f.imm32 then f.immediate else c.srcA.at 0
        let t := c.team
        .next (c.s.setTeam c.g.team { t with trecs := t.trecs.set n (putBits (t.trec n) (32 * w + 31) (32 * w) x.toNat) })) s
    fun c n => !f.imm32 && uniformA c n)

/-- `pref`: no visible effect (R255). -/
def execPref (f : Fields) (s : State) : Host.Outcome State Fault Refusal :=
  .next (issue 0x1C9 f noChecks noNames (fun c => .next c.s) s pairA)

end Sys2Proof.Machine
end

