-- ==== Sys2Proof/Machine/Vector.lean ====
section
/-! DEFINITION. The vector and scalar instructions (08). -/

namespace Sys2Proof.Machine

/-! ## Shared operations -/

/-- How a class-11 immediate stands for a source (08, R172; 07, R161): as the integer, as each element of a packed
integer type, as an FP32 value, or as a half-precision value in both elements. -/
inductive Imm where
  | plain
  | packed (t : Nat)
  | single
  | half (t : Nat)
  deriving DecidableEq, Repr

/-- An immediate's pattern. -/
def Imm.pattern (k : Imm) (x : Word) : Word :=
  match k with
  | .plain => x
  | .packed t => let w := intWidth t; ofElems w (List.replicate (perWord w) (wrapBits w x.toInt))
  | .single => BitVec.ofNat 32 (Float.ofInt .rne Float.f32 x.toInt)
  | .half t => let p := Float.ofInt .rne (Float.ofType t) x.toInt; BitVec.ofNat 32 (p + p * 2 ^ 16)

/-- A source with its immediate converted; an IMM32 pattern stands as it is (08, R172). -/
def typed (k : Imm) (o : Opnd) (imm32 : Bool) (v : Value) : Value :=
  if o.isImm && !imm32 then .uniform (k.pattern (v.at 0)) else v

/-- Which metering counter an instruction adds to (17, Table 17.1). -/
def ctrFloat : Nat := 8
def ctrHalf : Nat := 9
def ctrSpecial : Nat := 10
def ctrInt : Nat := 11

/-- What an instruction with a single-register result does with the result of each lane (08, R173–R175): one evaluation
on the scalar unit, else one per active lane; SAT, the destination, the last-result file and the counter. -/
def giveLanes (c : Ctx) (ctr : Nat) (r : Nat → Sat) : Res :=
  if !c.any then .next c.s
  else
    let scalar := c.opD.isScalar
    let v : Value := if scalar then .uniform (r 0).value else .lanes c.g.width fun l => (r l).value
    let sat := if scalar then (r 0).sat else (lanesOf c.act).any fun l => (r l).sat
    let g : Group := if sat then { c.g with sat := true } else c.g
    .next (c.count ctr (if scalar then 1 else c.lanes) (c.s.setGroup c.k (shiftResult (putDest g c.b c.act c.opD v) c.act v)))

/-- An instruction that computes each lane from its own operands. -/
def alu (opc : Nat) (f : Fields) (ctr : Nat) (ka kb kc : Imm) (op : Word → Word → Word → Sat) (s : State)
    (checks : Ctx → Option TrapInfo := noChecks) : Host.Outcome State Fault Refusal :=
  .next (issue opc f checks destName (fun c =>
    let a := typed ka c.opA false c.srcA
    let b := typed kb c.opB f.imm32 c.srcB
    let d := typed kc c.opC false c.srcC
    giveLanes c ctr fun l => op (a.at l) (b.at l) (d.at l)) s)

/-- A result that sets no flag. -/
def plainSat (x : Word) : Sat := { value := x }

/-- Packed immediates of the instruction's type, or plain ones where the type is 32 bits wide. -/
def immOf (f : Fields) : Imm := .packed f.type

/-- A 32-bit pattern of a floating operation. -/
def pat (x : Nat) : Sat := { value := BitVec.ofNat 32 x }

/-- The rounding mode in MODE. -/
def rm (f : Fields) : Float.Mode := .ofBits f.mode

/-! ## Integer arithmetic (R177–R181) -/

def execIadd (f : Fields) (s : State) : Host.Outcome State Fault Refusal :=
  alu 0x040 f ctrInt .plain .plain .plain (fun a b _ => plainSat (a + b)) s

def execIsub (f : Fields) (s : State) : Host.Outcome State Fault Refusal :=
  alu 0x042 f ctrInt .plain .plain .plain (fun a b _ => plainSat (a - b)) s

def execImul (f : Fields) (s : State) : Host.Outcome State Fault Refusal :=
  alu 0x044 f ctrInt .plain .plain .plain (fun a b _ => plainSat (a * b)) s

def execImulh (f : Fields) (s : State) : Host.Outcome State Fault Refusal :=
  alu 0x045 f ctrInt .plain .plain .plain
    (fun a b _ => plainSat (word (valT f.type a.toNat * valT f.type b.toNat / (2 ^ 32 : Nat)))) s

def execImad (f : Fields) (s : State) : Host.Outcome State Fault Refusal :=
  alu 0x046 f ctrInt .plain .plain .plain (fun a b c => plainSat (a * b + c)) s

/-- A 32-bit signed result, saturated where SATF is set. -/
def satOr (satf : Bool) (t : Nat) (x : Int) : Sat :=
  if satf then { value := word (satT t x).1, sat := (satT t x).2 } else plainSat (word x)

def execIabs (f : Fields) (s : State) : Host.Outcome State Fault Refusal :=
  alu 0x047 f ctrInt .plain .plain .plain (fun a _ _ => satOr f.x 0 (valT 0 a.toNat).natAbs) s

def execIneg (f : Fields) (s : State) : Host.Outcome State Fault Refusal :=
  alu 0x048 f ctrInt .plain .plain .plain (fun a _ _ => satOr f.x 0 (-valT 0 a.toNat)) s

def execImin (f : Fields) (s : State) : Host.Outcome State Fault Refusal :=
  alu 0x049 f ctrInt (immOf f) (immOf f) .plain (fun a b _ => elemwise f.type (fun x y => (min x y, false)) a b) s

def execImax (f : Fields) (s : State) : Host.Outcome State Fault Refusal :=
  alu 0x04A f ctrInt (immOf f) (immOf f) .plain (fun a b _ => elemwise f.type (fun x y => (max x y, false)) a b) s

def execAddsat (f : Fields) (s : State) : Host.Outcome State Fault Refusal :=
  alu 0x04B f ctrInt (immOf f) (immOf f) .plain (fun a b _ => elemwise f.type (fun x y => satT f.type (x + y)) a b) s

/-- A word whose entry's own operand rules are checked in step 3 of R109 (R201). -/
def ruled (opc : Nat) (f : Fields) (own : Ctx → Nat → Bool) (run : Ctx → Res) (s : State) : State :=
  issue opc f (operandChecks own) destName run s

/-- D of a carry form is a vector name (R178, R201). -/
def vectorOnly (c : Ctx) (n : Nat) : Bool := n == 1 && !c.opD.isVec

/-- A carry form: D and pCP in the active lanes (R178). -/
def carryForm (opc : Nat) (f : Fields) (op : Word → Word → Bool → Word × Bool) (s : State) : Host.Outcome State Fault Refusal :=
  .next (ruled opc f vectorOnly (fun c =>
    if !c.any then .next c.s
    else
      let cp := f.sel % 8
      let r (l : Nat) : Word × Bool := op (c.srcA.at l) (c.srcB.at l) (f.x && (c.g.pred cp).getLsbD l)
      let g := putDest c.g c.b c.act c.opD (.lanes c.g.width fun l => (r l).1)
      .next (c.count ctrInt c.lanes (c.s.setGroup c.k ((g.dropShadow (.p cp)).putPred cp c.act (maskOf c.g.width fun l => (r l).2))))) s)

def execIaddc (f : Fields) (s : State) : Host.Outcome State Fault Refusal := carryForm 0x041 f addCarry s

def execIsubb (f : Fields) (s : State) : Host.Outcome State Fault Refusal := carryForm 0x043 f subBorrow s

def execPmad2 (f : Fields) (s : State) : Host.Outcome State Fault Refusal :=
  alu 0x04C f ctrInt (immOf f) (immOf f) .plain (fun a b c =>
    satOr true 0 (valT 0 c.toNat + valT 1 (elem 16 a 0) * valT 1 (elem 16 b 0) + valT 1 (elem 16 a 1) * valT 1 (elem 16 b 1))) s

def execRshr (f : Fields) (s : State) : Host.Outcome State Fault Refusal :=
  alu 0x04D f ctrInt .plain .plain .plain (fun a b _ => satOr true f.type (roundShift a b)) s

def execDp4 (f : Fields) (s : State) : Host.Outcome State Fault Refusal :=
  alu 0x04E f ctrInt (immOf f) (immOf f) .plain (fun a b c =>
    let ct := if f.type = 2 then 0 else 4
    satOr f.x ct ((List.range 4).foldl (fun acc k => acc + valT f.type (elem 8 a k) * valT f.type (elem 8 b k)) (valT ct c.toNat))) s

/-! ## Logic, shifts and bit fields (R182) -/

def execBitAnd (f : Fields) (s : State) : Host.Outcome State Fault Refusal :=
  alu 0x050 f ctrInt .plain .plain .plain (fun a b _ => plainSat (a &&& b)) s

def execBitOr (f : Fields) (s : State) : Host.Outcome State Fault Refusal :=
  alu 0x051 f ctrInt .plain .plain .plain (fun a b _ => plainSat (a ||| b)) s

def execBitXor (f : Fields) (s : State) : Host.Outcome State Fault Refusal :=
  alu 0x052 f ctrInt .plain .plain .plain (fun a b _ => plainSat (a ^^^ b)) s

def execBitNot (f : Fields) (s : State) : Host.Outcome State Fault Refusal :=
  alu 0x053 f ctrInt .plain .plain .plain (fun a _ _ => plainSat (~~~a)) s

def execShl (f : Fields) (s : State) : Host.Outcome State Fault Refusal :=
  alu 0x054 f ctrInt .plain .plain .plain (fun a b _ => plainSat (if b.toNat < 32 then a <<< b.toNat else 0)) s

def execShr (f : Fields) (s : State) : Host.Outcome State Fault Refusal :=
  alu 0x055 f ctrInt .plain .plain .plain (fun a b _ => plainSat (if b.toNat < 32 then a >>> b.toNat else 0)) s

def execSar (f : Fields) (s : State) : Host.Outcome State Fault Refusal :=
  alu 0x056 f ctrInt .plain .plain .plain (fun a b _ => plainSat (shiftArith a b)) s

def execRot (f : Fields) (s : State) : Host.Outcome State Fault Refusal :=
  alu 0x057 f ctrInt .plain .plain .plain (fun a b _ => plainSat (rotateLeft a b)) s

def execBfe (f : Fields) (s : State) : Host.Outcome State Fault Refusal :=
  alu 0x058 f ctrInt .plain .plain .plain (fun a b _ => plainSat (bitField (f.type == 0) a b)) s

def execBfi (f : Fields) (s : State) : Host.Outcome State Fault Refusal :=
  alu 0x059 f ctrInt .plain .plain .plain (fun a b c => plainSat (bitInsert a b c)) s

def execPopc (f : Fields) (s : State) : Host.Outcome State Fault Refusal :=
  alu 0x05A f ctrInt .plain .plain .plain (fun a _ _ => plainSat (BitVec.ofNat 32 (popCount a.toNat 32))) s

def execClz (f : Fields) (s : State) : Host.Outcome State Fault Refusal :=
  alu 0x05B f ctrInt .plain .plain .plain (fun a _ _ => plainSat (BitVec.ofNat 32 (leadingZeros a))) s

def execBrev (f : Fields) (s : State) : Host.Outcome State Fault Refusal :=
  alu 0x05C f ctrInt .plain .plain .plain (fun a _ _ => plainSat (bitReverse a)) s

/-! ## Compare, select and move (R183) -/

/-- 1 or 0. -/
def flag (b : Bool) : Sat := plainSat (if b then 1 else 0)

def execIcmp (f : Fields) (s : State) : Host.Outcome State Fault Refusal :=
  alu 0x060 f ctrInt .plain .plain .plain (fun a b _ => flag (intCond f.sel (valT f.type a.toNat) (valT f.type b.toNat))) s

def execSel (f : Fields) (s : State) : Host.Outcome State Fault Refusal :=
  alu 0x061 f ctrInt .plain .plain .plain (fun a b c => plainSat (if c.getLsbD 0 then a else b)) s

def execMov (f : Fields) (s : State) : Host.Outcome State Fault Refusal :=
  alu 0x062 f ctrInt .plain .plain .plain (fun a _ _ => plainSat a) s

def execMovi (f : Fields) (s : State) : Host.Outcome State Fault Refusal :=
  alu 0x063 f ctrInt .plain .plain .plain (fun _ _ _ => plainSat f.immediate) s

/-! ## FP32 and packed halves (R184–R188) -/

def execFadd (f : Fields) (s : State) : Host.Outcome State Fault Refusal :=
  alu 0x0C0 f ctrFloat .single .single .plain (fun a b _ => pat (Float.addPat (rm f) Float.f32 a.toNat b.toNat)) s

def execFsub (f : Fields) (s : State) : Host.Outcome State Fault Refusal :=
  alu 0x0C1 f ctrFloat .single .single .plain (fun a b _ => pat (Float.subPat (rm f) Float.f32 a.toNat b.toNat)) s

def execFmul (f : Fields) (s : State) : Host.Outcome State Fault Refusal :=
  alu 0x0C2 f ctrFloat .single .single .plain (fun a b _ => pat (Float.mulPat (rm f) Float.f32 a.toNat b.toNat)) s

def execFfma (f : Fields) (s : State) : Host.Outcome State Fault Refusal :=
  alu 0x0C3 f ctrFloat .single .single .single (fun a b c => pat (Float.fmaPat (rm f) Float.f32 a.toNat b.toNat c.toNat)) s

def execFmin (f : Fields) (s : State) : Host.Outcome State Fault Refusal :=
  alu 0x0C4 f ctrFloat .single .single .plain (fun a b _ => pat (Float.minPat Float.f32 a.toNat b.toNat)) s

def execFmax (f : Fields) (s : State) : Host.Outcome State Fault Refusal :=
  alu 0x0C5 f ctrFloat .single .single .plain (fun a b _ => pat (Float.maxPat Float.f32 a.toNat b.toNat)) s

def execFcmp (f : Fields) (s : State) : Host.Outcome State Fault Refusal :=
  alu 0x0C6 f ctrFloat .single .single .plain (fun a b _ => flag (Float.condPat Float.f32 f.sel a.toNat b.toNat)) s

def execFclass (f : Fields) (s : State) : Host.Outcome State Fault Refusal :=
  alu 0x0C7 f ctrFloat .single .plain .plain (fun a _ _ => pat (Float.classPat a.toNat)) s

def execFround (f : Fields) (s : State) : Host.Outcome State Fault Refusal :=
  alu 0x0C8 f ctrFloat .single .plain .plain (fun a _ _ => pat (Float.roundPat (rm f) Float.f32 a.toNat)) s

/-- Both halves computed alone (R188). -/
def halves (op : Nat → Nat → Nat → Nat) (a b c : Word) : Sat :=
  plainSat (ofElems 16 [op (elem 16 a 0) (elem 16 b 0) (elem 16 c 0), op (elem 16 a 1) (elem 16 b 1) (elem 16 c 1)])

def execHadd2 (f : Fields) (s : State) : Host.Outcome State Fault Refusal :=
  alu 0x0D0 f ctrHalf (.half f.type) (.half f.type) .plain (halves fun a b _ => Float.addPat (rm f) (Float.ofType f.type) a b) s

def execHmul2 (f : Fields) (s : State) : Host.Outcome State Fault Refusal :=
  alu 0x0D1 f ctrHalf (.half f.type) (.half f.type) .plain (halves fun a b _ => Float.mulPat (rm f) (Float.ofType f.type) a b) s

def execHfma2 (f : Fields) (s : State) : Host.Outcome State Fault Refusal :=
  alu 0x0D2 f ctrHalf (.half f.type) (.half f.type) (.half f.type)
    (halves fun a b c => Float.fmaPat (rm f) (Float.ofType f.type) a b c) s

/-! ## Special functions (R189, R190) -/

/-- What a long-latency instruction delivers to its D (05, R111). -/
def windowDest (c : Ctx) (v : Value) (poison : LaneMask := 0) : WinDest :=
  let o := c.opD
  { name := if o.isVec then .v o.index else if o.isPred then .p (o.index - 16) else if o.index < 64 then .s o.index else .special o.index,
    lanes := c.act, vals := v.vals, poison := poison }

/-- A special function opens its lookahead window; its result is that of the operand at issue. -/
def special (opc : Nat) (f : Fields) (op : Nat → Nat) (s : State) : Host.Outcome State Fault Refusal :=
  .next (issue opc f noChecks destName (fun c =>
    let a := typed .single c.opA false c.srcA
    let scalar := c.opD.isScalar
    let r (l : Nat) : Word := BitVec.ofNat 32 (op (a.at l).toNat)
    let v : Value := if scalar then .uniform (r 0) else .lanes c.g.width fun l => if c.act.getLsbD l then r l else 0
    let n := if !c.any then 0 else if scalar then 1 else c.lanes
    .next (c.s.setGroup c.k (c.g.openWindow opc f.la.toNat c.b (if c.any then [windowDest c v] else []) [(ctrSpecial, n)]))) s)

def execRcp (f : Fields) (s : State) : Host.Outcome State Fault Refusal := special 0x0E0 f (Float.rcp (rm f)) s
def execRsqrt (f : Fields) (s : State) : Host.Outcome State Fault Refusal := special 0x0E1 f (Float.rsqrt (rm f)) s
def execSqrt (f : Fields) (s : State) : Host.Outcome State Fault Refusal := special 0x0E2 f (Float.sqrt (rm f)) s
def execExp2 (f : Fields) (s : State) : Host.Outcome State Fault Refusal := special 0x0E3 f Float.exp2 s
def execLog2 (f : Fields) (s : State) : Host.Outcome State Fault Refusal := special 0x0E4 f Float.log2 s
def execSin (f : Fields) (s : State) : Host.Outcome State Fault Refusal := special 0x0E5 f Float.sin s
def execCos (f : Fields) (s : State) : Host.Outcome State Fault Refusal := special 0x0E6 f Float.cos s

/-! ## Conversions (R191, R192) and `rand` (R193) -/

/-- The lane of D of a conversion from the lane of A and D's previous value (R192). -/
def convLane (f : Fields) (conv : Nat → Nat × Bool) (a d : Word) : Sat :=
  let ns := Forms.perLane f.sel
  let nd := Forms.perLane f.type
  let el := f.aux.toNat
  let ws := 32 / ns
  let wd := 32 / nd
  if ns < nd then
    let rs := (List.range ns).map fun k => conv (elem ws a k)
    { value := ofElems wd ((List.range nd).map fun k =>
        if ns * el ≤ k ∧ k < ns * el + ns then (rs.getD (k - ns * el) (0, false)).1 else elem wd d k),
      sat := rs.any (·.2) }
  else
    let rs := (List.range nd).map fun k => conv (elem ws a (if ns = nd then k else nd * el + k))
    { value := ofElems wd (rs.map (·.1)), sat := rs.any (·.2) }

/-- Operand rules of R201: a class-11 A, a predicate D, a predicate or q0 D of a narrowing conversion. -/
def convOperands (c : Ctx) : Nat → Bool := fieldsBad [(1, c.opD.isPred || (narrowing c.f && c.opD.isQ0)), (2, c.opA.isImm)]

/-- A conversion instruction. -/
def conversion (opc : Nat) (f : Fields) (conv : Nat → Nat × Bool) (s : State) : Host.Outcome State Fault Refusal :=
  .next (ruled opc f convOperands (fun c =>
    let d := rawSource c.s c.g c.b c.opD
    giveLanes c ctrFloat fun l => convLane f conv (c.srcA.at l) (if narrowing f then d.at l else 0)) s)

def execCvt (f : Fields) (s : State) : Host.Outcome State Fault Refusal :=
  conversion 0x0F0 f (fun x => (Float.convert (rm f) (Float.ofType f.sel) (Float.ofType f.type) x, false)) s

def execI2f (f : Fields) (s : State) : Host.Outcome State Fault Refusal :=
  conversion 0x0F1 f (fun x => (Float.ofInt (rm f) (Float.ofType f.type) (valT f.sel x), false)) s

def execF2i (f : Fields) (s : State) : Host.Outcome State Fault Refusal :=
  conversion 0x0F2 f (fun x =>
    let r := Float.toInteger (rm f) (Float.value (Float.ofType f.sel) x) (intLo f.type) (intHi f.type)
    (wrapBits (intWidth f.type) r.1, r.2)) s

/-- A scalar or special D on an instruction that never runs on the scalar unit (R176). -/
def noScalar (c : Ctx) (n : Nat) : Bool := n == 1 && c.opD.isScalar

def execRand (f : Fields) (s : State) : Host.Outcome State Fault Refusal :=
  .next (ruled 0x0F3 f noScalar (fun c =>
    let a : Value := if f.imm32 then .uniform f.immediate else c.srcA
    let c0 (l : Nat) : Nat :=
      if c.record.pop then c.g.lin.getD l 0 % 2 ^ 32 else (c.team.teamid * c.record.slots * 32 + c.g.grpid * c.g.width + l) % 2 ^ 32
    let c1 (l : Nat) : Nat := if c.record.pop then c.g.lin.getD l 0 / 2 ^ 32 else 0xFFFFFFFF
    giveLanes c ctrInt fun l => pat (philoxWord (philox c.record.key (c0 l, c1 l, (a.at l).toNat, 0)) f.mode)) s)

/-! ## Cross-lane instructions (R194–R199) -/

def execShfl (f : Fields) (s : State) : Host.Outcome State Fault Refusal :=
  .next (ruled 0x140 f noScalar (fun c =>
    giveLanes c ctrInt fun l => plainSat (lanev c c.opA c.srcA (shflLane f.mode l (c.srcB.at l).toNat))) s)

/-- A vector source where the entry wants a uniform one. -/
def wantsUniform (c : Ctx) (o : Opnd) (field n : Nat) : Bool := n == field && vectorValued c.g c.b o

def execSlide (f : Fields) (s : State) : Host.Outcome State Fault Refusal :=
  .next (ruled 0x141 f (fun c n => noScalar c n || wantsUniform c c.opB 3 n) (fun c =>
    let w := intWidth f.type
    let e := slideElems f
    let count := c.g.width * e
    let n := min (c.srcB.at 0).toNat count
    let a := typed (immOf f) c.opA false c.srcA
    let fill := typed (immOf f) c.opC false c.srcC
    giveLanes c ctrInt fun l =>
      plainSat (ofElems w ((List.range e).map fun k =>
        let (isFill, i) := slideFrom (f.mode == 1) count n (l * e + k)
        elem w (if isFill then lanev c c.opC fill (i / e : Nat) else lanev c c.opA a (i / e : Nat)) (i % e)))) s)

/-- How many active lanes have bit 0 of A set. -/
def ones (c : Ctx) : Nat := ((lanesOf c.act).filter fun l => (c.srcA.at l).getLsbD 0).length

def execVote (f : Fields) (s : State) : Host.Outcome State Fault Refusal :=
  .next (ruled 0x142 f (fun c n => noScalar c n || (f.mode == 1 && wantsUniform c c.opB 3 n)) (fun c =>
    let ls := lanesOf c.act
    let q := if c.srcB.at 0 = 0 then ls.length else (c.srcB.at 0).toNat
    let r : Word := match f.mode with
      | 0 => BitVec.ofNat 32 (ones c)
      | 1 => if q ≤ ones c then 1 else 0
      | _ => if ls.all fun l => c.srcA.at l == c.srcA.at (ls.headD 0) then 1 else 0
    giveLanes c ctrInt fun _ => plainSat r) s)

def execBallot (f : Fields) (s : State) : Host.Outcome State Fault Refusal :=
  .next (ruled 0x143 f noScalar (fun c =>
    let m := maskOf c.g.width fun l => c.act.getLsbD l && (c.srcA.at l).getLsbD 0
    giveLanes c ctrInt fun _ => plainSat (BitVec.ofNat 32 (m.toNat >>> (32 * f.mode)))) s)

/-- The operations of Table 8.14. -/
def reduceOp (f : Fields) (x y : Word) : Word :=
  if f.type = 8 then
    BitVec.ofNat 32 (match f.sel with
      | 0 => Float.addPat (rm f) Float.f32 x.toNat y.toNat
      | 1 => Float.minPat Float.f32 x.toNat y.toNat
      | _ => Float.maxPat Float.f32 x.toNat y.toNat)
  else combine f.sel false (f.type == 0) x y

/-- The exclusive identities of Table 8.14. -/
def reduceId (f : Fields) : Word :=
  match f.sel with
  | 0 => if f.type = 8 then 0x80000000 else 0
  | 1 => if f.type = 8 then 0x7F800000 else word (intHi f.type)
  | 2 => if f.type = 8 then 0xFF800000 else word (intLo f.type)
  | 3 => 0xFFFFFFFF
  | _ => 0

/-- The counter of a reduction (Table 8.13). -/
def reduceCtr (f : Fields) : Nat := if f.type = 8 then ctrFloat else ctrInt

/-- The source of a reduction as its type has it. -/
def reduceSrc (c : Ctx) : Value := typed (if c.f.type = 8 then .single else .plain) c.opA false c.srcA

def execRedux (f : Fields) (s : State) : Host.Outcome State Fault Refusal :=
  .next (ruled 0x144 f noScalar (fun c =>
    let a := reduceSrc c
    let r : Word := match lanesOf c.act with
      | [] => 0
      | l :: ls => ls.foldl (fun r x => reduceOp f r (a.at x)) (a.at l)
    giveLanes c (reduceCtr f) fun _ => plainSat r) s)

/-- The prefix combinations of a list of lanes, in order (R198). -/
def prefixes (f : Fields) (a : Value) : Word → List Nat → List (Nat × Word)
  | _, [] => []
  | r, l :: ls =>
    let r' := reduceOp f r (a.at l)
    (l, if f.x then r else r') :: prefixes f a r' ls

def execScan (f : Fields) (s : State) : Host.Outcome State Fault Refusal :=
  .next (ruled 0x145 f noScalar (fun c =>
    let ps := prefixes f (reduceSrc c) (reduceId f) (lanesOf c.act)
    giveLanes c (reduceCtr f) fun l => plainSat ((ps.find? (·.1 == l)).map (·.2) |>.getD 0)) s)

def execRdlane (f : Fields) (s : State) : Host.Outcome State Fault Refusal :=
  .next (ruled 0x146 f (fun c n => noScalar c n || wantsUniform c c.opB 3 n) (fun c =>
    giveLanes c ctrInt fun _ => plainSat (lanev c c.opA c.srcA (c.srcB.at 0).toNat)) s)

def execWrlane (f : Fields) (s : State) : Host.Outcome State Fault Refusal :=
  .next (ruled 0x147 f (fun c n => noScalar c n || wantsUniform c c.opA 2 n || wantsUniform c c.opB 3 n) (fun c =>
    if !c.any then .next c.s
    else
      let l := (c.srcB.at 0).toNat
      let m : LaneMask := if l < c.g.width then c.act &&& BitVec.ofNat 96 (2 ^ l) else 0
      let v : Value := .lanes c.g.width fun _ => c.srcA.at 0
      let g := if m = 0 then c.g else putDest c.g c.b m c.opD v
      .next (c.count ctrInt c.lanes (c.s.setGroup c.k (shiftResult g m v)))) s)

/-! ## Predicate logic (R200) -/

/-- A predicate operation on bit 0 of each source. -/
def predOp (opc : Nat) (f : Fields) (op : Bool → Bool → Bool) (s : State) : Host.Outcome State Fault Refusal :=
  alu opc f ctrInt .plain .plain .plain
    (fun a b _ => flag (op (xor (a.getLsbD 0) (f.mode % 2 == 1)) (xor (b.getLsbD 0) (decide (2 ≤ f.mode))))) s

def execPand (f : Fields) (s : State) : Host.Outcome State Fault Refusal := predOp 0x150 f and s
def execPor (f : Fields) (s : State) : Host.Outcome State Fault Refusal := predOp 0x151 f or s
def execPxor (f : Fields) (s : State) : Host.Outcome State Fault Refusal := predOp 0x152 f xor s
def execPnot (f : Fields) (s : State) : Host.Outcome State Fault Refusal := predOp 0x153 f (fun a _ => !a) s

end Sys2Proof.Machine
end

