-- ==== Sys2Proof/Machine/Sync.lean ====
section
/-! DEFINITION. Fences, atomics, barriers, the memory wait and locks (12, R280–R292). -/

namespace Sys2Proof.Machine

/-! ## Orders and scopes (12, Tables 12.2 and 12.4) -/

/-- MO makes a release. -/
def moRelease (mo : Nat) : Bool := decide (6 ≤ mo)

/-- The scope of MO reaches the device, and the system. -/
def moWide (mo : Nat) : Bool := mo != 0 && decide (3 ≤ (mo - 1) % 5)
def moSys (mo : Nat) : Bool := mo != 0 && (mo - 1) % 5 == 4

/-- `fence`: the release part acts whatever the guard; an acquire needs nothing more of a machine that makes its accesses
in order (R282). -/
def execFence (f : Fields) (s : State) : Host.Outcome State Fault Refusal :=
  .next (issue 0x240 f noChecks noNames
    (fun c =>
      let mo := f.fnBits 10 7
      if moRelease mo then afterRelease c (moWide mo) (moSys mo) 0x10 fun s => .next s else .next c.s) s)

/-! ## Atomics (R283–R285) -/

/-- The operand rules of R285: `n` registers in D's block. -/
def atomOperands (n : Nat) (c : Ctx) : Nat → Bool :=
  fieldsBad
    [(1, !((c.opD.isVec && decide (c.opD.index + n ≤ c.record.vregs)) || (c.opD.isScalar && decide (c.opD.index + n ≤ 60)))), baseRule c]

/-- An atomic with a return, after its release where MO makes one. -/
def atomForm (opc n : Nat) (f : Fields) (s : State) : Host.Outcome State Fault Refusal :=
  .next (issue opc f noChecks destName
    (fun c =>
      let go (c : Ctx) : Res := laneAccess c fun l =>
        some { lane := l, addr := laneAddr c l, data := (List.range n).map fun i => (nextReg c c.opD i).at l }
      let mo := f.fnBits 10 7
      if c.any && moRelease mo then afterRelease c (moWide mo) (moSys mo) 0x10 fun s => go { c with s := s } else go c) s (atomOperands n))

def execAtom (f : Fields) (s : State) : Host.Outcome State Fault Refusal := atomForm 0x241 1 f s
def execAtomc (f : Fields) (s : State) : Host.Outcome State Fault Refusal := atomForm 0x242 2 f s

/-- The operand rules of R285 on `red`: D is its operand, and a scalar D wants a uniform address. -/
def redOperands (c : Ctx) : Nat → Bool :=
  fieldsBad
    [(1, c.opD.isPred || c.opD.isQ0 || (c.opD.isScalar && decide (64 ≤ c.opD.index))), baseRule c,
     (2, c.opD.isScalar && vectorValued c.g c.b c.opA), (3, c.opD.isScalar && vectorValued c.g c.b c.opB)]

/-- `red`: no result (R284). -/
def execRed (f : Fields) (s : State) : Host.Outcome State Fault Refusal :=
  .next (issue 0x243 f noChecks noNames
    (fun c => laneAccess c fun l => some { lane := l, addr := laneAddr c l, data := [c.srcD.at l] }) s redOperands)

/-! ## Barriers (R281, R286, R287) -/

/-- The group acts as a whole: converged, with a guard true in every active lane (R281). -/
def wholeGroup (c : Ctx) : Bool × TrapInfo := (!(converged c.g && c.act == c.slot.active), c.illegalConv)

/-- The arrival of steps 1 to 4 of R286, then `k`. -/
def arriveBarrier (c : Ctx) (k : State → Barrier → Res) : Res :=
  let id := c.f.fn.toNat % 16
  if bitOf (barrierOf c.s c.g.team id).mask c.g.grpid then .stay (c.s.startWait c (.barrierNext id) 0x07) else arriveNow c id k

/-- The check of the instructions that act for the group as a whole (R281). -/
def groupChecks (c : Ctx) : Option TrapInfo := firstTrap [wholeGroup c]

def execBarSync (f : Fields) (s : State) : Host.Outcome State Fault Refusal :=
  .next (issue 0x248 f groupChecks noNames
    (fun c => arriveBarrier c fun s b =>
      .stay (testBarrier (s.startWait c (.barrier (f.fn.toNat % 16) b.phase) 0x07) c.g.team (f.fn.toNat % 16))) s uniformA)

def execBarArv (f : Fields) (s : State) : Host.Outcome State Fault Refusal :=
  .next (issue 0x249 f groupChecks noNames
    (fun c => arriveBarrier c fun s _ => .next (testBarrier s c.g.team (f.fn.toNat % 16))) s uniformA)

/-- `bar.wt`: the phase in which the group last arrived is open exactly while its bit is set (R286). -/
def execBarWt (f : Fields) (s : State) : Host.Outcome State Fault Refusal :=
  .next (issue 0x24A f groupChecks noNames
    (fun c =>
      let b := barrierOf c.s c.g.team (f.fn.toNat % 16)
      if bitOf b.mask c.g.grpid then .stay (c.s.startWait c (.barrier (f.fn.toNat % 16) b.phase) 0x07) else .next c.s) s)

def execGbar (f : Fields) (s : State) : Host.Outcome State Fault Refusal :=
  .next (issue 0x24B f (fun c => firstTrap [(!c.record.coop, c.illegalConv), wholeGroup c]) noNames
    (fun c => afterRelease c true false 0x06 fun s =>
      let l := s.launch c.launchKey
      .stay (testGbar ((s.setLaunch c.launchKey { l with gbar := l.gbar ++ [c.k] }).startWait c .gbar 0x06) c.launchKey)) s)

/-! ## Memory wait (R288) -/

/-- Where the monitored word stands: a scratchpad place, a device physical address, or a notify slot's number. -/
def waitaPlace (s : State) (w : Who) (sp wide : Bool) (addr : Nat) : Except XFault (Bool × Nat) :=
  let n := if wide then 8 else 4
  if addr % n != 0 then .error { cause := 1 }
  else if sp then
    if s.spAllowed w.core w.asid addr n then .ok (false, (State.spPlace w.core addr).1 * 2 ^ 19 + (State.spPlace w.core addr).2)
    else .error { cause := 2 }
  else
    match s.translate w.core w.asid addr .read with
    | .error x => .error x
    | .ok x =>
      if x.kind = 0 then .ok (false, x.pa)
      else if x.kind = 2 && wide then .ok (true, x.pa % 2 ^ 20 / 8)
      else .error { cause := 4, stage := 2, level := x.level, ipa := x.ipa }

/-- Read the monitored word: none while the read has to wait. -/
def waitaRead (s : State) (core : Nat) (w : WaitaWait) : State × Option Nat :=
  let n := if w.wide then 8 else 4
  if w.notify then (s, some (s.queue w.place).prod)
  else if w.sp then
    let k := w.place / 2 ^ 19
    let off := w.place % 2 ^ 19
    if s.spClaimed k off n then (s, none)
    else
      match (s.spPublish core k off n).askFill k off n with
      | (s, true) => (s, none)
      | (s, false) => (s, some (ofBytes (s.spBytes k off n)))
  else if s.lineBlocked (some core) (lineOf w.place) then (s, none)
  else
    let s := (s.mergeLine (lineOf w.place)).readLine (lineOf w.place)
    (s, some (ofBytes (s.coreBytes core w.place n)))

/-- The condition (R288). -/
def WaitaWait.holds (w : WaitaWait) (v : Nat) : Bool :=
  match w.cond with
  | 0 => v == w.cmp
  | 1 => v != w.cmp
  | 2 => decide (w.cmp ≤ v)
  | _ => decide (v < w.cmp)

/-- The walks that an instruction's own translations need are made. -/
def Ctx.walked (c : Ctx) (vas : List Nat) : Ctx := { c with s := c.s.walkedAll c.g.core c.asid vas }

/-- A fault that holds the instruction whole: it has had no effect and issues again on retry (03, R71; 15, R340). -/
def holdWhole (c : Ctx) (s : State) (x : XFault) (access addr : Nat) : Res :=
  .stay (s.holdGroup c.k (s.groupRecord c.g c.pc x access addr c.act (firstLane c))
    { opc := c.opc, fields := c.f, pc := c.pc, slotB := c.b, whole := true, seq := 0,
      lanes := (lanesOf c.act).map fun l => { lane := l, addr := addr, data := [] }, capture := some (captureOf c) })

/-- The compare value of `waita`: a word, a pair, or a sign-extended immediate. -/
def waitaCompare (c : Ctx) (wide : Bool) : Nat :=
  if !wide then (c.srcB.at 0).toNat
  else if c.opB.isImm then wrapBits 64 (valT 0 (c.srcB.at 0).toNat)
  else pairValue c c.opB

/-- The operand rules of `waita` (R280, R288). -/
def waitaOperands (c : Ctx) : Nat → Bool :=
  fieldsBad
    [(1, !(c.opD.isVec || (c.opD.isScalar && decide (c.opD.index ≤ 59))) || c.opD.hold),
     if bitOf c.f.fn.toNat 3 then uniformRule c c.opA 2 else pairRule c.opA 2,
     (3, vectorValued c.g c.b c.opB ||
       (bitOf c.f.fn.toNat 2 && !(c.opB.isImm || (c.opB.isScalar && decide (c.opB.index ≤ 58) && c.opB.index % 2 == 0)))),
     uniformRule c c.opC 4]

def execWaita (f : Fields) (s : State) : Host.Outcome State Fault Refusal :=
  .next (issue 0x250 f groupChecks destName
    (fun c =>
      let sp := bitOf f.fn.toNat 3
      let wide := bitOf f.fn.toNat 2
      let addr := if sp then (c.srcA.at 0).toNat else pairValue c c.opA
      let c := if sp || addr % (if wide then 8 else 4) != 0 then c else c.walked [addr]
      match waitaPlace c.s (c.s.who c.k) sp wide addr with
      | .error x => holdWhole c c.s x 0 addr
      | .ok (notify, place) =>
        let w : WaitaWait := { sp := sp, addr := addr, place := place, notify := notify, wide := wide, cond := f.fn.toNat % 4,
                               cmp := waitaCompare c wide, timeout := (c.srcC.at 0).toNat, woken := false }
        match waitaRead c.s c.g.core w with
        | (s, none) => .wait s 0x09
        | (s, some v) =>
          if w.holds v then giveResult { c with s := s } (spread c 1)
          else if w.timeout = 0 then giveResult { c with s := s } (spread c 0)
          else .stay (s.startWait c (.waita w) 0x09)) s waitaOperands)

/-! ## Locks (R279, R289–R292) -/

namespace State

/-- The holder tag of a group (R289). -/
def lockTag (s : State) (k : Nat) : Nat := s.launchNumber (s.group k) % (2 ^ 31 - 1) + 1

/-- The three ranges of a lock record, unused ones with length 0 (R289). -/
def lockRanges (r : Nat) : List (Nat × Nat) := [64, 192, 320].map fun b => (bitsOf r (b + 63) b, bitsOf r (b + 95) (b + 64))

/-- The device physical pieces of a virtual range, page by page. -/
def pieces (s : State) (core asid : Nat) (acc : Access) : List (Nat × Nat) → Except (XFault × Nat) (List (Nat × Nat))
  | [] => .ok []
  | (a, n) :: rest =>
    match s.translatePlain core asid a acc with
    | .error x => .error (x, a)
    | .ok x => (pieces s core asid acc rest).map fun ps => (x.pa, n) :: ps

/-- The walks of some virtual ranges of at most 16 MiB each are made, page by page. -/
def rangesWalked (s : State) (core asid : Nat) (rs : List (Nat × Nat)) : State :=
  s.walkedAll core asid ((rs.flatMap fun r => CopyCmd.pages 258 r.1 r.2).map Prod.fst)

/-- The home's words of a guarded piece go into the clean and invalid window words of team `t` that cover them (R279), as a fill would
bring them; with how many were written. Words of a line that a copy or a recall holds are left to a fill, which waits for it. -/
def bindPiece (s : State) (t : Nat) (p : Nat × Nat) : State × Nat :=
  let wins := (s.team t).windows.zipIdx
  wins.foldl (fun (s, n) (w, i) =>
    ((List.range (w.len / 4)).filter fun j =>
        let pa := w.place.getD j 0
        decide (p.1 ≤ pa) && decide (pa + 4 ≤ p.1 + p.2) && !w.dirty.getD j false).foldl (fun (s, n) j =>
      let pa := w.place.getD j 0
      let s := (s.cores.keys.filter fun c => namesHolder (s.core c) (lineOf pa)).foldl (fun s c => s.publish c) s
      if s.lineBlocked none (lineOf pa) then (s.setWindow t i fun w => { w with valid := w.valid.set j false }, n)
      else
        let k := (s.team t).core / 48 * 48 + bitsOf w.sp 24 19
        (s.fillWord (s.team t) k (bitsOf w.sp 18 0 + 4 * j) pa |>.setWindow t i fun w => { w with valid := w.valid.set j true }, n + 1))
      (s, n)) (s, 0)

/-- Group `k` writes the lock word of the record at `va`, at its home `pa`; in a logged page it is noted (10, R237), and while the core's L1 is
pending the line names it as narrow holder (12, R275). -/
def writeLock (s : State) (k va pa x : Nat) : State :=
  let w := s.who k
  let s := match s.translatePlain w.core w.asid va .atomic with
    | .ok y => if y.log then s.noteLog (s.vmidFunc w.vmid) y.ipa 8 else s
    | .error _ => s
  (s.homeWrite none none (cellsOf pa 8 x)).registerNarrow w.core (lineOf pa)

/-- Grant the lock at `pa` to group `k` (R279, R290), whose holding keeps the guarded intervals found now (R292); with the window words
written. -/
def grantLock (s : State) (k pa : Nat) (h : Holding) : State × Nat :=
  let g := s.group k
  let grants := (s.homeNat (pa + 4) 4 + 1) % 2 ^ 32
  let s := (s.writeLock k h.record pa (1 + s.lockTag k * 2 + grants * 2 ^ 32)).rangesWalked g.core (s.launch (s.launchOf g)).asid h.ranges
  let ps := match s.pieces g.core (s.launch (s.launchOf g)).asid .read (h.ranges.flatMap fun r => CopyCmd.pages 258 r.1 r.2) with
    | .error _ => h.guards
    | .ok ps => ps
  let s := s.setGroup k { s.group k with locks := (s.group k).locks ++ [{ h with guards := ps }] }
  ps.foldl (fun (s, n) p => let (s, m) := s.bindPiece g.team p; (s, n + m)) (s, 0)

/-- Where the record of a lock lies, or a fault with its address (R290, R291). -/
def lockPlace (s : State) (w : Who) (va : Nat) : Except (XFault × Nat) Xlat :=
  if va % 64 != 0 then .error ({ cause := 1 }, va)
  else
    match s.translatePlain w.core w.asid va .atomic with
    | .error x => .error (x, va)
    | .ok x => .ok x

/-- What a lock instruction finds at issue (R290): the record's place and its ranges, or a fault with its address. -/
def lockAt (s : State) (w : Who) (va : Nat) (ranges : Bool) : Except (XFault × Nat) (Nat × Holding) :=
    match s.lockPlace w va with
    | .error x => .error x
    | .ok x =>
      let rs := lockRanges (s.homeNat x.pa 64)
      if !ranges then .ok (x.pa, { record := va, ranges := rs, place := x.pa })
      else
        match rs.find? fun r => r.2 != 0 && (r.1 % 4 != 0 || r.2 % 4 != 0) with
        | some r => .error ({ cause := 1 }, r.1)
        | none =>
          match rs.find? fun r => decide (2 ^ 24 < r.2) with
          | some r => .error ({ cause := 2 }, r.1)
          | none =>
            (s.pieces w.core w.asid .read (rs.flatMap fun r => CopyCmd.pages 258 r.1 r.2)).map fun ps =>
              (x.pa, { record := va, ranges := rs, place := x.pa, guards := ps })

/-- The requests queued at the home slice of `pa` (R290). -/
def lockQueued (s : State) (pa : Nat) : Nat :=
  match s.rangeOf pa with
  | none => 0
  | some (_, r) => (s.lockq.map fun q =>
      match s.rangeOf q.1 with
      | some (_, r') => if homeSlice r' q.1 == homeSlice r pa then q.2.length else 0
      | none => 0).sum

/-- The lock at `pa`, whose record group `k` has at `va`, passes from it to the head of the queue, or is free (R291). -/
def passLock (s : State) (k va pa : Nat) : State :=
  match s.lockq.getD pa [] with
  | [] => s.writeLock k va pa (s.homeNat pa 8 / 2 * 2)
  | k :: rest =>
    let s := { s with lockq := if rest.isEmpty then s.lockq.erase pa else s.lockq.set pa rest }
    match (s.group k).wait with
    | .lock h =>
      let (s, n) := s.grantLock k pa h
      let l := s.launchOf (s.group k)
      ((s.count l 12 (8 + 4 * n)).count l 13 8).release k
    | _ => s

/-- The lock word at `pa` names group `k`. -/
def holdsLock (s : State) (k pa : Nat) : Bool := s.homeNat pa 4 == 1 + s.lockTag k * 2

/-- The release of a lock at its home (R291). -/
def dropLock (s : State) (k pa va : Nat) : State :=
  let s := s.setGroup k { s.group k with locks := (s.group k).locks.filter fun h => h.record != va }
  if s.holdsLock k pa then s.passLock k va pa else s

end State

/-- What both lock requests do at the home: `held` says what follows where another holds it. -/
def lockRequest (c : Ctx) (granted : State → Nat → Res) (refused : State → Nat → Holding → Res) : Res :=
  let va := pairValue c c.opA
  let c := if va % 64 = 0 then c.walked [va] else c
  let fn := c.s.vmidFunc (c.s.who c.k).vmid
  match c.s.lockPlace (c.s.who c.k) va with
  | .error (x, a) => holdWhole c c.s x 2 a
  | .ok y =>
    if c.s.lineBlocked (some c.g.core) (lineOf y.pa) then .wait c.s 0x08
    else if y.log && c.s.logHolds fn then .wait (c.s.logFullSet fn) 0x08
    else
      let s := (c.s.flushLine c.g.core (lineOf y.pa)).mergeLine (lineOf y.pa)
      let s := s.rangesWalked c.g.core c.asid (State.lockRanges (s.homeNat y.pa 64))
      let found := s.lockAt (s.who c.k) va true
      let s := s.readLine (lineOf y.pa)
      match found with
      | .error (x, a) => holdWhole c s x 2 a
      | .ok (pa, h) =>
        if s.homeNat pa 1 % 2 = 0 then
          let (s, n) := s.grantLock c.k pa h
          granted s (8 + 4 * n)
        else if s.holdsLock c.k pa then granted s 8
        else refused s pa h

def execLkacq (f : Fields) (s : State) : Host.Outcome State Fault Refusal :=
  .next (issue 0x258 f groupChecks noNames
    (fun c => lockRequest c (fun s n => .next (c.count 13 8 (c.count 12 n s)))
      (fun s pa h =>
        if 1024 ≤ s.lockQueued pa then .wait s 0x08
        else .stay ({ s with lockq := s.lockq.set pa (s.lockq.getD pa [] ++ [c.k]) }.startWait c (.lock h) 0x08))) s pairA)

def execLktry (f : Fields) (s : State) : Host.Outcome State Fault Refusal :=
  .next (issue 0x259 f
    groupChecks destName
    (fun c =>
      let give (s : State) (x : Word) (tally : List (Nat × Nat)) : Res :=
        .next (s.setGroup c.k ((s.group c.k).openWindow c.opc f.la.toNat c.b [windowDest c (spread c x)] tally))
      lockRequest c (fun s n => give s 1 [(12, n), (13, 8)]) (fun s _ _ => give s 0 [(12, 8)])) s fun c n => plainDest c n || pairA c n)

def execLkrel (f : Fields) (s : State) : Host.Outcome State Fault Refusal :=
  .next (issue 0x25A f groupChecks noNames
    (fun c =>
      let va := pairValue c c.opA
      let c := if va % 64 = 0 then c.walked [va] else c
      match c.s.lockPlace (c.s.who c.k) va with
      | .error (x, a) => holdWhole c c.s x 2 a
      | .ok y =>
        let fn := c.s.vmidFunc (c.s.who c.k).vmid
        if c.s.lineBlocked (some c.g.core) (lineOf y.pa) then .wait c.s 0x08
        else if y.log && c.s.logHolds fn then .wait (c.s.logFullSet fn) 0x08
        else afterRelease c true true 0x08 fun s =>
          .next (c.count 13 8 (((s.mergeLine (lineOf y.pa)).readLine (lineOf y.pa)).dropLock c.k y.pa va))) s pairA)

end Sys2Proof.Machine
end

