-- ==== Sys2Proof/Machine/Windows.lean ====
section
/-! DEFINITION. The Loam window instructions (11, R256, R257). -/

namespace Sys2Proof.Machine

namespace State

/-- Every window of every team. -/
def allWindows (s : State) : List LoamWindow := s.teams.values.flatMap fun t => if t.resident then t.windows else []

/-- The package core of a window. -/
def windowCore (t : Team) (w : LoamWindow) : Nat := t.core / 48 * 48 + bitsOf w.sp 24 19

/-- Windows registered for a core's scratchpad. -/
def coreWindows (s : State) (k : Nat) : Nat :=
  (s.teams.values.map fun t => if t.resident then (t.windows.filter fun w => windowCore t w == k).length else 0).sum

/-- The home slices of a list of words. -/
def slicesOf (s : State) (ps : List Nat) : List Nat :=
  ((ps.map lineOf).eraseDups.map fun l => match s.rangeOf (l * 128) with | some (_, r) => homeSlice r (l * 128) | none => 0).eraseDups

/-- Some slice that the words need has no room in its interval table of 8,192 records (10, R234). -/
def tableFull (s : State) (ps : List Nat) : Bool :=
  decide (8192 ≤ s.allWindows.length) &&
    (s.slicesOf ps).any fun h => decide (8192 ≤ (s.allWindows.filter fun w => (s.slicesOf w.place).contains h).length)

/-- `[sp, sp + len)` lies in the team's own range (10, R234). -/
def ownRange (s : State) (t : Team) (sp len : Nat) : Bool :=
  let (k, off) := spPlace t.core sp
  let inside (o : Nat) : Bool := decide (o ≤ off) && decide (off + len ≤ o + t.spLen)
  sp < 2 ^ 25 && decide (bitsOf sp 24 19 < 48) &&
    ((k == t.core && inside t.spOff0) || ((s.launch t.launch).record.span && k == t.core + 1 && inside t.spOff1))

/-- The translations of the pages of an interval: the physical start, length, and stage-2 start where logged. -/
def intervals (s : State) (core asid : Nat) (acc : Access) : List (Nat × Nat) → Except (XFault × Nat) (List (Nat × Nat × Option Nat))
  | [] => .ok []
  | (a, n) :: rest =>
    match s.translatePlain core asid a acc with
    | .error x => .error (x, a)
    | .ok x => (intervals s core asid acc rest).map fun ps => (x.pa, n, if x.log then some x.ipa else none) :: ps

/-- The words of intervals, each with its logged stage-2 address. -/
def intervalWords (ps : List (Nat × Nat × Option Nat)) : List (Nat × Option Nat) :=
  ps.flatMap fun (pa, n, log) => (List.range (n / 4)).map fun i => (pa + 4 * i, log.map (· + 4 * i))

/-- A word of the interval lies in a registered interval, and not both are read-only (10, R234). -/
def overlaps (s : State) (writable : Bool) (ps : List Nat) : Bool :=
  s.allWindows.any fun w => (writable || w.writable) && ps.any fun p => w.place.any fun q => decide (p < q + 4) && decide (q < p + 4)

/-- Register a window (10, R234; 11, R256): the new state, or the fault with its address. The interval tables are looked at before the
translation faults, in the slices of the pages that translate. -/
def registerWindow (s : State) (w : Who) (sp gb len : Nat) (writable : Bool) : Except (XFault × Nat) State :=
  let t := s.team w.team
  if sp % 4 != 0 || gb % 4 != 0 || len % 4 != 0 || sp % 64 != gb % 64 then .error ({ cause := 1 }, gb)
  else if !s.ownRange t sp len || decide (16 ≤ t.windows.length) || decide (64 ≤ s.coreWindows (spPlace t.core sp).1) then
    .error ({ cause := 2 }, gb)
  else
    let pages := CopyCmd.pages 10 gb len
    let found := pages.flatMap fun p =>
      match s.translatePlain w.core w.asid p.1 .read with
      | .ok x => (List.range (p.2 / 4)).map fun i => x.pa + 4 * i
      | .error _ => []
    if s.tableFull found then .error ({ cause := 2 }, gb)
    else
    match s.intervals w.core w.asid (if writable then .write else .read) pages with
    | .error x => .error x
    | .ok ps =>
      let words := intervalWords ps
      let place := words.map (·.1)
      if s.overlaps writable place || t.windows.any fun x => decide (sp < x.sp + x.len) && decide (x.sp < sp + len) then
        .error ({ cause := 5 }, gb)
      else
        .ok (s.setTeam w.team { t with windows := t.windows ++
          [{ sp := sp, gb := gb, len := len, writable := writable, place := place, valid := place.map fun _ => false,
             dirty := place.map fun _ => false, log := words.map (·.2) }] })

end State

/-- `wmap` (R256). -/
def execWmap (f : Fields) (s : State) : Host.Outcome State Fault Refusal :=
  .next (issue 0x1D0 f noChecks noNames
    (fun c =>
      let len := (c.srcC.at 0).toNat
      if !c.any || len = 0 then .next c.s
      else
        let c := c.walked ((CopyCmd.pages 10 (pairValue c c.opB) len).map Prod.fst)
        match c.s.registerWindow (c.s.who c.k) (c.srcA.at 0).toNat (pairValue c c.opB) len (f.fn == 1) with
        | .ok s => .next s
        | .error (x, a) => holdWhole c c.s x (if f.fn == 1 then 1 else 0) a) s
    fun c => fieldsBad [uniformRule c c.opA 2, pairRule c.opB 3, uniformRule c c.opC 4])

/-- The windows of the team that an instruction of R257 names. -/
def namedWindows (c : Ctx) : List Nat :=
  (c.team.windows.zipIdx.filter fun (w, _) => c.f.fn == 2 || w.sp == (c.srcA.at 0).toNat).map (·.2)

/-- The operand rule of R257. -/
def windowOperands (c : Ctx) (n : Nat) : Bool := c.f.fn == 0 && uniformA c n

/-- Write back the named windows, once nothing holds their lines or the log, and go on. -/
def syncWindows (c : Ctx) (k : State → State) : Res :=
  if !c.any then .next c.s
  else
    let is := namedWindows c
    let ws := is.map fun i => c.team.windows.getD i default
    if (ws.flatMap fun w => (State.dirtyWords w).map fun j => lineOf (w.place.getD j 0)).any (c.s.lineBlocked (some c.g.core)) ||
        ws.any (c.s.dirtyClaimed c.team) then .wait c.s 0x10
    else if c.s.windowLogHolds c.g.team fun w => ws.contains w then .wait (c.s.logFullSet (c.s.vmidFunc (c.s.who c.k).vmid)) 0x10
    else .next (k (is.foldl (fun s i => s.writeBack c.g.core c.g.team i) c.s))

def execWunmap (f : Fields) (s : State) : Host.Outcome State Fault Refusal :=
  .next (issue 0x1D1 f noChecks noNames
    (fun c => syncWindows c fun s =>
      let t := s.team c.g.team
      let is := namedWindows c
      s.setTeam c.g.team { t with windows := (t.windows.zipIdx.filter fun (_, i) => !is.contains i).map (·.1) }) s windowOperands)

def execWsync (f : Fields) (s : State) : Host.Outcome State Fault Refusal :=
  .next (issue 0x1D2 f noChecks noNames (fun c => syncWindows c id) s windowOperands)

/-- `winv`: the clean words become invalid (R257). -/
def execWinv (f : Fields) (s : State) : Host.Outcome State Fault Refusal :=
  .next (issue 0x1D3 f noChecks noNames
    (fun c =>
      if !c.any then .next c.s
      else .next ((namedWindows c).foldl (fun s i => s.setWindow c.g.team i fun w =>
        { w with valid := List.zipWith (fun v d => v && d) w.valid w.dirty }) c.s)) s windowOperands)

end Sys2Proof.Machine
end

