-- ==== Sys2Proof/Machine/Copy.lean ====
section
/-! DEFINITION. The copy instructions (11, R259–R266) and power leave (09, R213). -/

namespace Sys2Proof.Machine

namespace State

/-- The token budget of a cluster's partition, per window (01, R22; 09, R213). -/
def budgetOf (s : State) (cluster : Nat) : Nat :=
  match s.partOf (cluster * 48) with
  | some p => (s.part p).budget
  | none => 0xFF

/-- Group `k` asks its cluster's governor for `n` tokens: the state, and whether it has leave. A budget of 0xFF grants at
once; else the request waits its turn (09, R213). -/
def askLeave (s : State) (core k n : Nat) : State × Bool :=
  let cl := core / 48
  let g := s.cluster cl
  if g.leave.any (·.group == k) then (s, true)
  else if g.waiting.any (·.1 == k) then (s, false)
  else if s.budgetOf cl = 0xFF && g.waiting.isEmpty then (s.setCluster cl { g with granted := g.granted + n, leave := g.leave ++ [{ group := k, tokens := n, since := g.since }] }, true)
  else (s.setCluster cl { g with waiting := g.waiting ++ [(k, n)] }, false)

/-- The leave is used up. -/
def useLeave (s : State) (core k : Nat) : State :=
  let g := s.cluster (core / 48)
  s.setCluster (core / 48) { g with leave := g.leave.filter (·.group != k) }

end State

/-- A uniform operand of a copy: a scalar, a uniform special register or an immediate (R260). -/
def plainUniform (o : Opnd) : Bool :=
  o.isImm || (o.isScalar && (decide (o.index < 64) || (decide (72 ≤ o.index) && decide (o.index ≤ 91))))

/-- AUX's scalar of the index list and of the completion word (R260). -/
def siField (f : Fields) : Nat := bitsOf f.aux.toNat 11 6
def scField (f : Fields) : Nat := bitsOf f.aux.toNat 5 0

/-- A scalar register's value by number. -/
def scalarAt (c : Ctx) (n : Nat) : Nat := (c.g.sreg c.b n).toNat

/-- The operand rules of R260 and R261. -/
def copyOperands (form : CopyForm) (c : Ctx) : Nat → Bool :=
  let toGlobal := form == .s2g || form == .sct
  let fromGlobal := form == .g2s || form == .g2k || form == .gat
  let cwe := bitOf c.f.fn.toNat 9
  fieldsBad
    [(1, !(if toGlobal then pairOk c.opD else plainUniform c.opD)),
     (2, !(if fromGlobal then pairOk c.opA else plainUniform c.opA)),
     (3, !plainUniform c.opB),
     (4, (cwe && decide ((if c.f.x then 56 else 57) < scField c.f)) || decide (59 < siField c.f))]

/-- The command that an instruction asks for, before its index list is read. -/
def copyCommand (form : CopyForm) (c : Ctx) : CopyCmd :=
  let value (o : Opnd) : Nat := ((nextReg c o 0).at 0).toNat
  let toGlobal := form == .s2g || form == .sct
  let fromGlobal := form == .g2s || form == .g2k || form == .gat
  let sc := scField c.f
  { form := form, word := (wordBits c.opc c.f).toNat, group := c.k, team := c.g.team, pc := c.pc, dst := if toGlobal then pairValue c c.opD else value c.opD,
    src := if fromGlobal then pairValue c c.opA else value c.opA, len := value c.opB, rl := c.f.fnBits 8 4, index := [],
    cwe := bitOf c.f.fn.toNat 9, cw64 := c.f.x, cwAddr := scalarAt c sc,
    cwVal := scalarAt c (sc + 1) + if c.f.x then scalarAt c (sc + 2) * 2 ^ 32 else 0 }

/-- The issue faults of R261 in order: cause, ACCESS and ADDR. Within one point of the rule the order is D, A, the length, the index list
and the completion word (log 28). -/
def copyFault (c : Ctx) (x : CopyCmd) (list : Nat) : Option (Nat × Nat × Nat) :=
  let w := c.s.who c.k
  let total := x.total
  let rowAlign := 2 ^ min x.rl 4
  let sp (a n : Nat) : Bool := n = 0 || c.s.spAllowed w.core w.asid a n
  (([(!x.toKaolin && x.dst % 4 != 0, 1, 5, x.dst), (x.src % 4 != 0, 1, 4, x.src), (!x.rows && x.len % 4 != 0, 1, 5, total),
    (x.rows && list % 4 != 0, 1, 4, list),
    (x.form == .gat && x.src % rowAlign != 0, 1, 4, x.src), (x.form == .sct && x.dst % rowAlign != 0, 1, 5, x.dst),
    (x.toKaolin && x.dst % 8 != 0, 1, 5, x.dst), (x.toKaolin && x.len % 8 != 0, 1, 5, total),
    (x.cwe && x.cwAddr % (if x.cw64 then 8 else 4) != 0, 1, 5, x.cwAddr),
    (decide (2 ^ 24 < total), 2, 5, total), (x.toScratch && !sp x.dst total, 2, 5, x.dst),
    (!x.fromGlobal && !sp x.src total, 2, 4, x.src), (x.rows && !sp list (4 * x.len), 2, 4, list),
    (x.cwe && !sp x.cwAddr (if x.cw64 then 8 else 4), 2, 5, x.cwAddr), (x.toKaolin && decide (2 ^ 21 < x.dst + total), 2, 5, x.dst)] :
      List (Bool × Nat × Nat × Nat)).find? fun e => e.1).map fun e => e.2

/-- A copy instruction: checks, the index list, leave for large copies, and a place in the queue of 32 (R259–R266). -/
def copyForm (opc : Nat) (form : CopyForm) (f : Fields) (s : State) : Host.Outcome State Fault Refusal :=
  .next (issue opc f noChecks noNames
    (fun c =>
      if !c.any then .next c.s
      else
        let x := copyCommand form c
        let list := scalarAt c (siField f)
        match copyFault c x list with
        | some (cause, access, addr) => holdWhole c c.s { cause := cause } access addr
        | none =>
          let (k, off) := State.spPlace c.g.core list
          let fill := if x.rows then c.s.askFill k off (4 * x.len) else (c.s, false)
          if fill.2 || (x.rows && c.s.spClaimed k off (4 * x.len)) then .wait fill.1 0x10
          else if 32 ≤ (c.s.core c.g.core).copies.length then .wait c.s 0x0F
          else
            let leave := if 65536 ≤ x.total then c.s.askLeave c.g.core c.k (min ((x.total + 65535) / 65536) 16) else (c.s, true)
            if !leave.2 then .wait leave.1 0x0A
            else
              let s := if 65536 ≤ x.total then leave.1.useLeave c.g.core c.k else c.s
              let index := if x.rows then (List.range x.len).map fun i => ofBytes (c.s.spBytes k (off + 4 * i) 4) else []
              let core := s.core c.g.core
              .next { s.setCore c.g.core { core with copies := core.copies ++ [{ x with index := index, serial := s.serial + 1 }] } with
                      serial := s.serial + 1 }) s (copyOperands form))

def execCpyG2s (f : Fields) (s : State) : Host.Outcome State Fault Refusal := copyForm 0x1E0 .g2s f s
def execCpyS2g (f : Fields) (s : State) : Host.Outcome State Fault Refusal := copyForm 0x1E1 .s2g f s
def execCpyG2k (f : Fields) (s : State) : Host.Outcome State Fault Refusal := copyForm 0x1E2 .g2k f s
def execCpyS2k (f : Fields) (s : State) : Host.Outcome State Fault Refusal := copyForm 0x1E3 .s2k f s
def execCpyS2s (f : Fields) (s : State) : Host.Outcome State Fault Refusal := copyForm 0x1E4 .s2s f s
def execCpyGat (f : Fields) (s : State) : Host.Outcome State Fault Refusal := copyForm 0x1E5 .gat f s
def execCpySct (f : Fields) (s : State) : Host.Outcome State Fault Refusal := copyForm 0x1E6 .sct f s

end Sys2Proof.Machine
end

