-- ==== Sys2Proof/Machine/Matrix.lean ====
section
/-! DEFINITION. The matrix array: tiles, the matrix queue, the MMA forms and their phases, quantisation, codebooks, and the
power governor (09). -/

namespace Sys2Proof.Machine

/-! ## Formats (R209) -/

/-- Bits of a matrix operand's element. -/
def fmtWidth (t : Nat) : Nat :=
  match t with
  | 0x9 => 16
  | 0xA => 16
  | 0xD => 4
  | 0xE => 4
  | _ => 8

/-- The rows of Table 9.2: allowed formats, SCALED, limit on K, and the multiply rate. -/
def formatRow (a b : Nat) (scaled : Bool) : Option (Nat × Nat) :=
  let both (l : List Nat) : Bool := l.contains a && l.contains b
  if both [0x9, 0xA, 0xE] && !scaled then some (1024, 1)
  else if both [0xB, 0xC] then some (if scaled then 512 else 2048, 2)
  else if both [0xD] && scaled then some (512, 4)
  else if both [0x2, 0x6] && !scaled then some (2048, 2)
  else none

/-- Fields of the format register (06, Table 6.1). -/
def fmtA (w : Word) : Nat := bitsOf w.toNat 3 0
def fmtB (w : Word) : Nat := bitsOf w.toNat 7 4
def fmtCbA (w : Word) : Nat := bitsOf w.toNat 9 8
def fmtCbB (w : Word) : Nat := bitsOf w.toNat 11 10
def fmtUthr (w : Word) : Nat := bitsOf w.toNat 21 16
def fmtSthr (w : Word) : Nat := bitsOf w.toNat 27 22

/-- The counter of a format's MACs (17, Table 17.1). -/
def macCounter (t : Nat) : Nat :=
  match t with
  | 0x9 => 0
  | 0xA => 1
  | 0xE => 2
  | 0xB => 3
  | 0xC => 4
  | 0xD => 5
  | _ => 6

/-- The exact value of an element; a CB4 code through its codebook (07, R155). -/
def elemValue (t book x : Nat) : Float.FVal :=
  if t = 0xE then Float.value Float.bf16 (bitsOf book (16 * x + 15) (16 * x)) else Float.value (Float.ofType t) x

/-! ## Tiles (R203, R204) -/

/-- A tile of a core. -/
def tileOf (s : State) (core n : Nat) : Tile := (s.core core).tiles.getD n {}

/-- Change a tile. -/
def setTile (s : State) (core n : Nat) (t : Tile) : State :=
  s.setCore core { s.core core with tiles := (s.core core).tiles.set n t }

/-- Another team owns the tile. -/
def tileForeign (c : Ctx) (n : Nat) : Bool :=
  match (tileOf c.s c.g.core n).owner with
  | some t => t != c.g.team
  | none => false

/-- An entry joins the matrix queue of a core (R204). -/
def enqueue (s : State) (core : Nat) (e : MqEntry) : State :=
  { s.setCore core { s.core core with mq := (s.core core).mq ++ [{ e with serial := s.serial + 1 }] } with serial := s.serial + 1 }

/-- The group's own `accst` that a fault holds: its place in the queue is kept (R223). -/
def ownHeld (k : Nat) (e : MqEntry) : Bool := e.opc == 0x18B && e.group == k

/-- An earlier entry of the queue names the tile (R204). -/
def tileBusy (c : Ctx) (n : Nat) : Bool := ((c.s.core c.g.core).mq.takeWhile fun e => !ownHeld c.k e).any (·.tile == n)

/-- Element `(r, c)`'s place in a tile. -/
def cell (r c : Nat) : Nat := r * 128 + c

/-- Element `e` of the view of R219, if it is one. -/
def viewCell (t : Bool) (e : Nat) : Option Nat :=
  if 8192 ≤ e then none else some (if t then cell (e % 64) (e / 64) else e)

/-- Change one element; +0 is not listed. -/
def Tile.put (t : Tile) (e : Nat) (x : Word) (poison : Bool := false) : Tile :=
  { t with elems := if x = 0 then t.elems.erase e else t.elems.set e x,
           poison := if poison then (if t.poison.contains e then t.poison else e :: t.poison) else t.poison.erase e }

/-- The tile claimed for the group's team (R203). -/
def Tile.claim (t : Tile) (team : Nat) : Tile := { t with owner := some team }

/-- The check on a tile of another team, the last of an entry's checks. -/
def tileCheck (c : Ctx) (n : Nat) : Bool × TrapInfo := (c.any && tileForeign c n, c.illegalOperand 5)

/-- TILE of `accz`, `accrd` and `accwr`. -/
def tileField (f : Fields) : Nat := f.fnBits 2 0

/-- Wait for earlier queue entries on the tile, then act. -/
def afterTile (c : Ctx) (n : Nat) (k : Tile → Res) : Res :=
  if !c.any then .next c.s
  else if tileBusy c n then .wait c.s 0x0B
  else k ((tileOf c.s c.g.core n).claim c.g.team)

/-- `accz`: with `.rel` it enters the queue, behind multiply phases alone, and the tile is zeroed and released in its turn (R203, R220). -/
def execAccz (f : Fields) (s : State) : Host.Outcome State Fault Refusal :=
  .next (issue 0x188 f (fun c => firstTrap [tileCheck c (tileField f)]) noNames
    (fun c =>
      let n := tileField f
      if bitOf f.fn.toNat 3 then
        if !c.any then .next c.s
        else if (c.s.core c.g.core).mq.any fun e => e.tile == n && !e.multiplying then .wait c.s 0x0B
        else .next (setTile (enqueue c.s c.g.core { group := c.k, launch := c.launchKey, opc := 0x188, tile := n }) c.g.core n
          ((tileOf c.s c.g.core n).claim c.g.team))
      else afterTile c n fun t => .next (setTile c.s c.g.core n { t with elems := [], poison := [] })) s)

/-- Change the entry with a serial. -/
def setEntry (s : State) (core : Nat) (e : MqEntry) : State :=
  s.setCore core { s.core core with mq := (s.core core).mq.map fun x => if x.serial == e.serial then e else x }

/-- Remove the entry with a serial. -/
def dropEntry (s : State) (core serial : Nat) : State :=
  s.setCore core { s.core core with mq := (s.core core).mq.filter fun x => x.serial != serial }

/-- An `accz.rel` whose turn has come, the oldest entry on its tile: the tile is zeroed, cleared of poison and free (R203, R220). -/
def execAccTileRelease (core tile : Nat) (s : State) : Host.Outcome State Fault Refusal :=
  .next (match (s.core core).mq.find? fun e => e.tile == tile with
    | none => s
    | some e => if e.opc == 0x188 && s.clockRuns core then setTile (dropEntry s core e.serial) core tile {} else s)

/-- The element a lane of `accrd` or `accwr` names (R219). -/
def laneCell (c : Ctx) (l : Nat) : Option Nat :=
  viewCell (bitOf c.f.fn.toNat 3) ((c.srcB.at 0).toNat * c.g.width + l)

/-- `accrd` (R221). -/
def execAccrd (f : Fields) (s : State) : Host.Outcome State Fault Refusal :=
  .next (issue 0x189 f
    (fun c => firstTrap [tileCheck c (tileField f)])
    destName
    (fun c =>
      let open_ (s : State) (ds : List WinDest) : Res :=
        .next (s.setGroup c.k ((s.group c.k).openWindow c.opc f.la.toNat c.b ds [(11, c.lanes)]))
      if !c.any then open_ c.s []
      else afterTile c (tileField f) fun t =>
        let bad := maskOf c.g.width fun l => c.act.getLsbD l && ((laneCell c l).map t.poison.contains).getD false
        if bad != 0 then .trap { c.trap 9 with mask := bad }
        else
          open_ (setTile c.s c.g.core (tileField f) t)
            [windowDest c (.lanes c.g.width fun l => ((laneCell c l).map fun e => t.elems.getD e 0).getD 0)]) s
    fun c => fieldsBad [(1, !c.opD.isVec), uniformRule c c.opB 3])

/-- `accwr` (R222). -/
def execAccwr (f : Fields) (s : State) : Host.Outcome State Fault Refusal :=
  .next (issue 0x18A f (fun c => firstTrap [tileCheck c (tileField f)]) noNames
    (fun c => afterTile c (tileField f) fun t =>
      let t := (lanesOf c.act).foldl (fun (t : Tile) l => match laneCell c l with | some e => t.put e (c.srcA.at l) | none => t) t
      .next (c.count 11 c.lanes (setTile c.s c.g.core (tileField f) t))) s fun c => fieldsBad [uniformRule c c.opB 3])

/-! ## `accst` (R223) -/

/-- Bytes of an element that `accst` stores. -/
def accstWidth (t : Nat) : Nat := if t = 8 || t = 0 then 4 else 2

/-- The pattern `accst` stores for an element. -/
def accstPat (t : Nat) (x : Word) : Nat :=
  if t = 8 || t = 0 then x.toNat else Float.convert .rne Float.f32 (Float.ofType t) x.toNat

/-- The page pieces of the rows that `accst` stores, with the offset of each in the list of stored bytes. -/
def accstPieces (addr pitch w : Nat) : List (Nat × Nat × Nat) :=
  (List.range 64).flatMap fun r =>
    ((CopyCmd.pages 3 (addr + r * pitch) (128 * w)).foldl (fun (acc, o) p => (acc ++ [(p.1, p.2, r * 128 * w + o)], o + p.2))
      (([] : List (Nat × Nat × Nat)), 0)).1

def execAccst (f : Fields) (s : State) : Host.Outcome State Fault Refusal :=
  .next (issue 0x18B f
    (fun c => firstTrap
      [wholeGroup c, tileCheck c (f.fnBits 6 4)])
    noNames
    (fun c =>
      let n := f.fnBits 6 4
      afterTile c n fun t =>
        let w := accstWidth f.type
        let addr := pairValue c c.opA
        let pitch := (c.srcB.at 0).toNat
        let c := if addr % 16 != 0 || pitch % 16 != 0 || pitch < 128 * accstWidth f.type then c
          else c.walked ((accstPieces addr pitch (accstWidth f.type)).map (·.1))
        let who := c.s.who c.k
        let core := c.s.core c.g.core
        let claimed : State := setTile c.s c.g.core n t
        let held (x : XFault) (a : Nat) : Res :=
          holdWhole c (if core.mq.any (ownHeld c.k) then claimed
            else enqueue claimed c.g.core { group := c.k, launch := c.launchKey, opc := 0x18B, tile := n }) x 1 a
        if !t.poison.isEmpty then .trap { c.trap 9 with mask := c.act }
        else if addr % 16 != 0 || pitch % 16 != 0 || pitch < 128 * w then held { cause := 1 } addr
        else
          match c.s.intervals c.g.core who.asid .write ((accstPieces addr pitch w).map fun p => (p.1, p.2.1)) with
          | .error (x, a) => held x a
          | .ok ps =>
            let fn := c.s.vmidFunc who.vmid
            if ps.any fun p => ((c.s.rangeOf p.1).map (·.2.exhausted)).getD false then held { cause := 4 } addr
            else if ps.any fun p => c.s.rangeBlocked (some c.g.core) p.1 p.2.1 then .wait c.s 0x10
            else if (ps.any fun p => p.2.2.isSome) && c.s.logHolds fn then .wait (c.s.logFullSet fn) 0x10
            else
              let bytes := (List.range 8192).flatMap fun e => toBytes w (accstPat f.type (t.elems.getD e 0))
              let s := (ps.zip (accstPieces addr pitch w)).foldl (fun s (p, q) =>
                s.storeL1 c.g.core (cellsAt p.1 ((bytes.drop q.2.2).take p.2.1)) (p.2.2.map fun ipa => (fn, ipa)))
                (claimed.setCore c.g.core { claimed.core c.g.core with mq := core.mq.filter fun e => !ownHeld c.k e })
              .next (c.count 11 1 (c.count 13 (8192 * w) s))) s
    fun c => fieldsBad [(2, !(c.opA.isScalar && decide (c.opA.index ≤ 58) && c.opA.index % 2 == 0)), uniformRule c c.opB 3])

/-! ## The MMA forms (R211–R218) -/

/-- Names an operand block of `mma.v` holds (R215). -/
def mmaBlock (width k wA : Nat) : Nat := (if width = 32 then 2 else 1) * k / (32 / wA)

/-- A scale byte: that of the indexed name and lane, 0 from an exited lane or an unmapped name (R216). -/
def scaleByte (g : Group) (base q : Nat) : Nat :=
  let l := q % (4 * g.width) / 4
  if g.exited.getLsbD l then 0
  else bitsOf (((g.vregs.find? (base + q / (4 * g.width))).map fun (v : VReg) => v.vals.getD l 0).getD 0).toNat (8 * (q % 4) + 7) (8 * (q % 4))

/-- The operand rules of Table 9.4: the class of each field, with its PERM, HOLD and LAST where it is no plain source; a vector-valued
source is R218's to tell. -/
def mmaOperands (c : Ctx) : Nat → Bool :=
  let block (o : Opnd) : Bool := o.isVec && o.perm == 0 && !o.hold && decide (o.index < c.record.vregs)
  let short (o : Opnd) : Bool := !plainUniform o && !vectorValued c.g c.b o
  fieldsBad
    [(1, fmtScaled c.slot.fmt && !(block c.opD && !c.opD.last)),
     (2, match c.opc with
      | 0x181 => !block c.opA
      | 0x182 => !(c.opA.isScalar && decide (c.opA.index ≤ 58) && c.opA.perm == 0 && !c.opA.hold && !c.opA.last)
      | _ => short c.opA),
     (3, short c.opB)]

/-- The checks of R218. -/
def mmaChecks (c : Ctx) : Option TrapInfo :=
  let f := c.f
  let fmt := c.slot.fmt
  let k := mmaK f
  let scaled := fmtScaled fmt
  let nb := k / 32
  let vSB := bitsOf f.aux.toNat 7 0
  let rc := c.team.trec (bitsOf f.aux.toNat 15 12)
  let wA := fmtWidth (fmtA fmt)
  let top := min c.record.vregs 256
  firstTrap
    [wholeGroup c,
     ((formatRow (fmtA fmt) (fmtB fmt) scaled).all fun x => decide (x.1 < k), c.illegalFormat),
     (c.opc == 0x182 && Tensor.ok rc && Tensor.elemBits rc != wA, c.illegalFormat),
     (c.opc == 0x182 && !Tensor.ok rc, c.illegalOperand 5),
     tileCheck c (tileField f),
     (scaled && decide (top < c.opD.index + scaleNames (bitsOf f.aux.toNat 9 8) 64 nb c.g.width), c.illegalOperand 1),
     (match c.opc with
      | 0x181 => decide (top < c.opA.index + mmaBlock c.g.width k wA)
      | 0x182 => false
      | _ => !plainUniform c.opA, c.illegalOperand 2),
     (!plainUniform c.opB, c.illegalOperand 3),
     (scaled && decide (top < vSB + scaleNames (bitsOf f.aux.toNat 11 10) 128 nb c.g.width), c.illegalOperand 4)]

/-- An MMA enters the matrix queue and the group waits for its pre-phase (R204, R211). -/
def mmaForm (opc : Nat) (f : Fields) (s : State) : Host.Outcome State Fault Refusal :=
  .next (issue opc f mmaChecks noNames
    (fun c =>
      if !c.any then .next c.s
      else
        let fmt := c.slot.fmt
        let s := enqueue c.s c.g.core
          { group := c.k, launch := c.launchKey, opc := opc, tile := tileField f, zero := bitOf f.fn.toNat 3, k := mmaK f, afmt := fmtA fmt,
            bfmt := fmtB fmt, scaled := fmtScaled fmt, row := (c.srcB.at 0).toNat, abook := c.g.cbs.getD (fmtCbA fmt) 0,
            bbook := c.g.cbs.getD (fmtCbB fmt) 0 }
        .stay (s.startWait c .mma 0x0B)) s mmaOperands)

def execMmaS (f : Fields) (s : State) : Host.Outcome State Fault Refusal := mmaForm 0x180 f s
def execMmaV (f : Fields) (s : State) : Host.Outcome State Fault Refusal := mmaForm 0x181 f s
def execMmaG (f : Fields) (s : State) : Host.Outcome State Fault Refusal := mmaForm 0x182 f s

/-! ### The pre-phase (R211) -/

/-- What reading A comes to: it waits; a fault with its address; or the patterns and poison of each row, the pages and
the bytes read from global memory. -/
inductive ReadA where
  | waits (s : State)
  | fault (x : XFault) (addr : Nat)
  | ok (s : State) (a : List (List Nat)) (poison : List Bool) (pages : List Nat) (bytes : Nat)

/-- Elements of `w` bits of a byte string, the first lowest (07, R150). -/
def elemsOf (w n : Nat) (bs : List Byte) : List Nat :=
  if w = 4 then (bs.flatMap fun b => [b.toNat % 16, b.toNat / 16]).take n
  else (List.range n).map fun i => ofBytes ((bs.drop (i * (w / 8))).take (w / 8))

/-- A in scratchpad (R215, `mma.s`). -/
def readScratchA (c : Ctx) (e : MqEntry) : ReadA :=
  let sa := (c.srcA.at 0).toNat
  let row := e.k * fmtWidth e.afmt / 8
  let (k, off) := State.spPlace c.g.core sa
  if sa % 64 != 0 then .fault { cause := 1 } sa
  else if !c.s.spAllowed c.g.core c.asid sa (64 * row) then .fault { cause := 2 } sa
  else if c.s.spClaimed k off (64 * row) then .waits c.s
  else
    match c.s.askFill k off (64 * row) with
    | (s, true) => .waits s
    | (s, false) =>
      .ok s ((List.range 64).map fun i => elemsOf (fmtWidth e.afmt) e.k (s.spBytes k (off + i * row) row))
        ((List.range 64).map fun i => (State.wordsOf (off + i * row) row).any (s.spPoisoned k)) [] 0

/-- A in vector registers (R215, `mma.v`). -/
def readVectorA (c : Ctx) (e : MqEntry) : ReadA :=
  let w := fmtWidth e.afmt
  let per := 32 / w
  let two := c.g.width == 32
  let v (i kk : Nat) : Word × Bool :=
    let l := if two then i % 32 else i
    let r := c.g.vreg (c.opA.index + if two then 2 * (kk / per) + i / 32 else kk / per)
    if c.g.exited.getLsbD l then (0, false) else (r.vals.getD l 0, r.poison.getLsbD l)
  .ok c.s ((List.range 64).map fun i => (List.range e.k).map fun kk => elem w (v i kk).1 (kk % per))
    ((List.range 64).map fun i => (List.range e.k).any fun kk => (v i kk).2) [] 0

/-- The elements of A in a tensor: row, column and address of those inside (R215, `mma.g`). -/
def tensorA (c : Ctx) (e : MqEntry) : List (Nat × Nat × Option Nat) :=
  let rc := c.team.trec (bitsOf c.f.aux.toNat 15 12)
  let k0 := valT 0 ((nextReg c c.opA 0).at 0).toNat
  let r0 := valT 0 ((nextReg c c.opA 1).at 0).toNat
  (List.range 64).flatMap fun (i : Nat) => (List.range e.k).map fun (kk : Nat) =>
    let cs : List Int := [k0 + (kk : Int), r0 + (i : Int)] ++ List.replicate 5 0
    (i, kk, if Tensor.inside rc cs then some (Tensor.addr rc cs) else none)

/-- A in global memory through a record (R215, `mma.g`). -/
def readGlobalA (c : Ctx) (e : MqEntry) : ReadA :=
  let rc := c.team.trec (bitsOf c.f.aux.toNat 15 12)
  let k0 := valT 0 ((nextReg c c.opA 0).at 0).toNat
  let es := tensorA c e
  let w := fmtWidth e.afmt
  let pages := (es.filterMap fun x => x.2.2.map (· / 65536)).eraseDups
  if Tensor.clip rc = 1 && es.any fun x => x.2.2.isNone then .fault { cause := 2 } (exactAddr (Tensor.base rc + k0))
  else
  match c.s.intervals c.g.core c.asid .read (pages.map fun p => (p * 65536, 65536)) with
  | .error (x, a) => .fault x a
  | .ok ps =>
    let place (a : Nat) : Nat := (((pages.zip ps).find? fun x => x.1 == a / 65536).map fun x => x.2.1).getD 0 + a % 65536
    let inside := es.filterMap fun x => x.2.2
    if inside.any fun a => c.s.lineBlocked (some c.g.core) (lineOf (place a)) then .waits c.s
    else
      let s := ((inside.map fun a => lineOf (place a)).eraseDups).foldl (fun s l => (s.mergeLine l).noteLine c.g.core l) c.s
      let pat (x : Nat × Nat × Option Nat) : Nat :=
        match x.2.2 with
        | none => 0
        | some a =>
          if w = 4 then
            let b := (s.coreByte c.g.core (place a)).toNat
            if (k0 + x.2.1) % 2 = 0 then b % 16 else b / 16
          else ofBytes (s.coreBytes c.g.core (place a) (w / 8))
      let rows := (List.range 64).map fun i => es.filter fun x => x.1 == i
      .ok s (rows.map fun r => r.map pat)
        (rows.map fun r => r.any fun x => (x.2.2.map fun a => s.memPoisoned c.g.core (place a)).getD false) pages
        (inside.length * w / 8)

/-- The walks of A's pages in global memory are made, where no element clipped out of the tensor faults. -/
def walkedA (c : Ctx) (e : MqEntry) : Ctx :=
  let rc := c.team.trec (bitsOf c.f.aux.toNat 15 12)
  let es := tensorA c e
  if e.opc != 0x182 || (Tensor.clip rc = 1 && es.any fun x => x.2.2.isNone) then c
  else c.walked (((es.filterMap fun x => x.2.2.map (· / 65536)).eraseDups).map (· * 65536))

/-- Rows of the Kaolin store that an entry reads (R206). -/
def MqEntry.rows (e : MqEntry) : Nat := e.k * fmtWidth e.bfmt / 64

/-- A copy into the Kaolin store, earlier than the entry, has rows of it still to write (R208). -/
def kaolinPending (s : State) (core : Nat) (e : MqEntry) : Bool :=
  (s.core core).copies.any fun x =>
    x.toKaolin && decide (x.serial < e.serial) && decide (x.dst + 4096 * x.chunk < (e.row + e.rows) * 1024) &&
      decide (e.row * 1024 < x.dst + x.total)

/-- A slice the entry reads belongs to another team (R207). -/
def kaolinForeign (s : State) (core team : Nat) (e : MqEntry) : Bool :=
  (s.core core).slices.any fun p =>
    decide (e.row / 4 ≤ p.1) && decide (p.1 ≤ (e.row + e.rows - 1) / 4) &&
      (match p.2.1 with | some t => t != team | none => false)

/-- The multiply phase's length in cycles and its cost in tokens (R211, R213). -/
def MqEntry.cycles (e : MqEntry) : Nat := e.k / ((formatRow e.afmt e.bfmt e.scaled).map (·.2)).getD 1
def MqEntry.cost (e : MqEntry) : Nat := (e.cycles + 255) / 256

/-- A fault of the pre-phase: the MMA is unstarted and held (R211). -/
def mmaFault (c : Ctx) (e : MqEntry) (x : XFault) (addr : Nat) : State :=
  match holdWhole c (dropEntry c.s c.g.core e.serial) x 9 addr with
  | .stay s => s
  | _ => c.s

/-- Earlier entries of the queue on the tile of one. -/
def earlierOn (s : State) (core : Nat) (e : MqEntry) : List MqEntry :=
  ((s.core core).mq.takeWhile fun x => x.serial != e.serial).filter (·.tile == e.tile)

/-- The entry holds a stage, or can take one: fewer than two are held, and every earlier MMA of its tile has one (R211). -/
def stageFree (s : State) (core : Nat) (e : MqEntry) : Bool :=
  e.stage || (decide (((s.core core).mq.filter (·.stage)).length < 2) && (earlierOn s core e).all (·.stage))

/-- The Kaolin rows that an entry reads end beyond the store, or another team owns one of them (R207, R218). -/
def kaolinFault (s : State) (core team : Nat) (e : MqEntry) : Bool := decide (2048 < e.row + e.rows) || kaolinForeign s core team e

/-- The entry with its operands in the stage: A as read, and the scales (R211, R216). -/
def MqEntry.load (e : MqEntry) (c : Ctx) (a : List (List Nat)) (poison : List Bool) (pages : List Nat) (bytes : Nat) : MqEntry :=
  let scales (base map rows : Nat) : List (List Nat) :=
    (List.range rows).map fun n => (List.range (e.k / 32)).map fun b => scaleByte c.g base (scaleIndex map rows (e.k / 32) n b)
  { e with
    loaded := true, a := a, apoison := poison, pages := pages, bytes := bytes
    xa := if e.scaled then scales c.opD.index (bitsOf c.f.aux.toNat 9 8) 64 else []
    xb := if e.scaled then scales (bitsOf c.f.aux.toNat 7 0) (bitsOf c.f.aux.toNat 11 10) 128 else [] }

/-- The group waits on in its pre-phase, for this stall reason. -/
def mmaStall (k : Nat) (s : State) (n : Nat) : State := s.setGroup k { s.group k with stall := n }

/-- The pre-phase's end: earlier entries of the tile multiply, leave is given, and the multiply phase begins (R204, R211, R213). LAST on A
of `mma.v` frees the block's names, but for one that an open window shadows (05, R105; R217). -/
def mmaGo (s : State) (k : Nat) (c : Ctx) (e : MqEntry) : State :=
  let g := s.group k
  if (earlierOn s g.core e).any fun x => !x.multiplying then mmaStall k s 0x0B
  else
    match s.askLeave g.core k e.cost with
    | (s, false) => mmaStall k s 0x0A
    | (s, true) =>
      let s := s.useLeave g.core k
      let t := tileOf s g.core e.tile
      if t.owner != none && t.owner != some g.team then
        ((dropEntry s g.core e.serial).setGroup k { s.group k with wait := .none }).takeTrap k (c.illegalOperand 5)
      else
        let s := setTile (setEntry s g.core { e with multiplying := true }) g.core e.tile (t.claim g.team)
        s.endWait k fun c =>
          let block := mmaBlock c.g.width e.k (fmtWidth e.afmt)
          let freed (n : Nat) : Bool := c.opc == 0x181 && c.opA.last && decide (c.opA.index ≤ n) && decide (n < c.opA.index + block) &&
            !c.g.windows.any fun x => x.dests.any fun d => d.name == .v n
          .next (c.s.setGroup c.k { c.g with vregs := c.g.vregs.filter fun p => !freed p.1 })

/-- The pre-phase of a group's MMA: a stage, its operands into it, the Kaolin checks, then leave and the first multiply. Of two faults the
one of higher priority is reported, once no multiply phase runs on the core (R211, R212; 15, R339). -/
def mmaStart (s : State) (k : Nat) : State :=
  let g := s.group k
  match (s.core g.core).mq.find? fun e => e.group == k && !e.multiplying && e.opc != 0x18B && e.opc != 0x188 with
  | none => s
  | some e =>
    if g.wait != .mma || !s.agentsRun g.team g.core then s
    else
      let c := s.waitCtx k
      if e.loaded then mmaGo s k c e
      else if !stageFree s g.core e then mmaStall k s 0x0B
      else
        let e := { e with stage := true }
        let s := setEntry s g.core e
        let c := walkedA { c with s := s } e
        let s := c.s
        let foreign := kaolinFault s g.core g.team e
        let fault (c : Ctx) (x : XFault) (a : Nat) : State := if multiplies s g.core then mmaStall k s 0x0B else mmaFault c e x a
        match (match e.opc with | 0x180 => readScratchA c e | 0x181 => readVectorA c e | _ => readGlobalA c e) with
        | .waits s => mmaStall k s 0x0B
        | .fault x a => if foreign && 2 < x.cause then fault c { cause := 2 } (e.row * 1024) else fault c x a
        | .ok s a poison pages bytes =>
          if foreign then fault { c with s := s } { cause := 2 } (e.row * 1024)
          else if kaolinPending s g.core e then mmaStall k s 0x0B
          else
            let e := e.load c a poison pages bytes
            mmaGo (setEntry s g.core e) k c e

/-- Pre-phases of some groups are abandoned: stages, locks, requests and leave are given back, and the instructions issue again (R212). -/
def abandonPhases (s : State) (mine : Nat → Bool) : State :=
  { s with
    clusters := s.clusters.mapVals fun _ (c : Governor) => c.withdraw mine
    cores := s.cores.mapVals fun _ (c : Core) => { c with mq := c.mq.filter fun e => e.multiplying || e.opc == 0x188 || e.opc == 0x18B || !mine e.group }
    groups := s.groups.mapVals fun k (g : Group) => if mine k && g.wait == .mma then { g with wait := .none } else g }

/-- The first multiply of a group's MMA (R211). -/
def execMmaMultiplyStart (group : Nat) (s : State) : Host.Outcome State Fault Refusal := .next (mmaStart s group)

/-! ### The multiply phase (R214) -/

/-- Element B[kk][j] as the Kaolin store holds it (R206). -/
def kaolinElem (k : Core) (e : MqEntry) (kk j : Nat) : Nat :=
  let w := fmtWidth e.bfmt
  let p := kk * w
  bitsOf (ofBytes (Memory.bytes k.kaolin (1024 * (e.row + p / 64) + 8 * j) 8)) (p % 64 + w - 1) (p % 64)

/-- A column of B holds a poisoned word (R214; 15, R341). -/
def kaolinPoison (k : Core) (e : MqEntry) (j : Nat) : Bool :=
  (List.range e.rows).any fun r => k.kpoison.contains (128 * (e.row + r) + j)

/-- The scale of block `b` for row `i` and column `j`, as a power of two (07, R164). -/
def blockScale (e : MqEntry) (i j b : Nat) : Option Int :=
  if !e.scaled then some 0
  else
    let x := (e.xa.getD i []).getD b 0
    let y := (e.xb.getD j []).getD b 0
    if x = 255 || y = 255 then none else some ((x : Int) - 127 + ((y : Int) - 127))

/-- One element of a floating MMA: the pattern and how many results were flushed (07, R164). -/
def mmaFloat (e : MqEntry) (i j : Nat) (row : List Float.FVal) (col : List Float.FVal) (acc : Nat) : Nat × Nat :=
  (List.range (e.k / 32)).foldl (fun (acc, n) b =>
    let ps := List.zipWith Float.mul ((row.drop (32 * b)).take 32) ((col.drop (32 * b)).take 32)
    let (acc, m) := Float.accStep acc (Float.blockSum ps) (blockScale e i j b)
    (acc, n + m)) (acc, 0)

/-- One element of an INT8 MMA: the pattern and how many additions wrapped (07, R165). -/
def mmaInt (e : MqEntry) (row col : List Int) (acc : Word) : Word × Nat :=
  (List.range (e.k / 32)).foldl (fun (acc, n) b =>
    let t := valT 0 acc.toNat + (List.zipWith (· * ·) ((row.drop (32 * b)).take 32) ((col.drop (32 * b)).take 32)).sum
    (word t, n + b2n (satT 0 t).2)) (acc, 0)

/-- The effect of an MMA on its tile, with the flushed and the wrapped results (R214). -/
def mmaEffect (k : Core) (e : MqEntry) (t : Tile) : Tile × Nat × Nat :=
  let t : Tile := if e.zero then { t with elems := [], poison := [] } else t
  let int := e.afmt == 2 || e.afmt == 6
  let cols := (List.range 128).map fun j => (List.range e.k).map fun kk => kaolinElem k e kk j
  (List.range 64).foldl (fun (t, fl, wr) i =>
    let row := e.a.getD i []
    (List.range 128).foldl (fun (t, fl, wr) j =>
      let col := cols.getD j []
      let c := cell i j
      let bad := t.poison.contains c || e.apoison.getD i false || kaolinPoison k e j
      if int then
        let (x, n) := mmaInt e (row.map (valT e.afmt)) (col.map (valT e.bfmt)) (t.elems.getD c 0)
        (t.put c x bad, fl, wr + n)
      else
        let (x, n) := mmaFloat e i j (row.map (elemValue e.afmt e.abook)) (col.map (elemValue e.bfmt e.bbook)) (t.elems.getD c 0).toNat
        (t.put c (BitVec.ofNat 32 x) bad, fl + n, wr)) (t, fl, wr)) (t, 0, 0)

/-- The multiplying entry of a core whose tile no earlier entry names (R204). -/
def nextDone : List MqEntry → List Nat → Option MqEntry
  | [], _ => none
  | e :: es, seen => if e.multiplying && !seen.contains e.tile then some e else nextDone es (e.tile :: seen)

/-- The last accumulator write of a core's multiply phase (R211, R218; 07, R166). -/
def execMmaComplete (s : State) : Host.Outcome State Fault Refusal :=
  let core := s.focus
  .next (match if s.clockRuns core then nextDone (s.core core).mq [] else none with
    | none => s
    | some e =>
      let (t, fl, wr) := mmaEffect (s.core core) e (tileOf s core e.tile)
      let s := setTile (dropEntry s core e.serial) core e.tile t
      let s := match s.groups.find? e.group with
        | some g => s.setGroup e.group { g with mflush := countUp g.mflush fl, mwrap := countUp g.mwrap wr }
        | none => s
      (s.count e.launch (macCounter e.bfmt) (64 * 128 * e.k)).count e.launch 12 e.bytes)

/-! ## The power governor (R213) -/

/-- A new window of 1,024 cycles of a cluster. -/
def execGovernorWindow (s : State) : Host.Outcome State Fault Refusal :=
  let g := s.cluster s.focus
  .next (if g.since / 1024 < s.now / 1024 then s.setCluster s.focus { g with granted := 0, since := s.now } else s)

/-- The oldest waiting request of a cluster is granted. -/
def execTokenGrant (s : State) : Host.Outcome State Fault Refusal :=
  let g := s.cluster s.focus
  let b := s.budgetOf s.focus
  .next (match g.waiting with
    | [] => s
    | (k, n) :: rest =>
      if b = 0xFF || (b != 0 && g.since / 1024 == s.now / 1024 && (decide (g.granted + n ≤ b) || (decide (b < n) && g.granted == 0))) then
        s.setCluster s.focus { g with granted := g.granted + n, waiting := rest, leave := g.leave ++ [{ group := k, tokens := n, since := g.since }] }
      else s)

/-! ## Quantisation and codebooks (R224, R225) -/

/-- Elements per lane that `qnt` writes. -/
def qntPer (f : Fields) : Nat := if f.type = 0xD then 8 else 4

/-- Blocks per lane. -/
def qntBlocks (f : Fields) : Nat := f.fnBits 6 5 + 1

/-- Names in the element block of D. -/
def qntNames (f : Fields) : Nat := 32 * qntBlocks f / qntPer f

/-- Two name ranges share a name. -/
def share (a n b m : Nat) : Bool := decide (a < b + m) && decide (b < a + n)

/-- The chosen scale of a block (R224). -/
def qntScale (t : Float.Format) (try2 : Bool) (uthr sthr : Nat) (v : List Nat) : Nat :=
  let x := Float.mxScale v t
  if try2 && x != 0xFF && x != 0 && decide (uthr < Float.underflows t x v) && decide (Float.saturations t (x - 1) v ≤ sthr) then x - 1 else x

/-- One byte of a word replaced. -/
def setByte (w : Word) (b x : Nat) : Word := BitVec.ofNat 32 (putBits w.toNat (8 * b + 7) (8 * b) x)

/-- The operand rules of R224 beyond those of every operand. -/
def qntOperands (c : Ctx) : Nat → Bool :=
  let n := qntNames c.f
  let m := 32 * qntBlocks c.f
  let v := c.record.vregs
  let d := c.opD.index
  let a := c.opA.index
  let b := c.opB.index
  let x := c.opC.index
  let plain (o : Opnd) : Bool := !(o.isVec && o.perm == 0 && !o.hold && !o.last && decide (o.index < v))
  fieldsBad
    [(1, !c.opD.isVec || c.opD.hold || decide (v < d + n) || share d n b 1 || share d n x 1),
     (2, !c.opA.isVec || decide (v < a + m) || share a m d n || share a m b 1 || share a m x 1),
     (3, plain c.opB), (4, plain c.opC)]

def execQnt (f : Fields) (s : State) : Host.Outcome State Fault Refusal :=
  .next (issue 0x190 f noChecks
    (fun c => (List.range (qntNames f)).map (c.opD.index + ·) ++ [c.opB.index, c.opC.index])
    (fun c =>
      if !c.any then .next c.s
      else
        let t := Float.ofType f.type
        let per := qntPer f
        let n := qntBlocks f
        let v (l b : Nat) : List Nat := (List.range 32).map fun k => (((c.g.vreg (c.opA.index + 32 * b + k)).vals).getD l 0).toNat
        let x (l b : Nat) : Nat := qntScale t (bitOf f.fn.toNat 4) (fmtUthr c.slot.fmt) (fmtSthr c.slot.fmt) (v l b)
        let uf (l b : Nat) : Nat := Float.underflows t (x l b) (v l b)
        let q (l i : Nat) : Nat := Float.quantElem t (x l (i / 32)) ((v l (i / 32)).getD (i % 32) 0)
        let g := (List.range (qntNames f)).foldl (fun (g : Group) j =>
          (g.dropShadow (.v (c.opD.index + j))).putVec (c.opD.index + j) c.act fun l =>
            ofElems (32 / per) ((List.range per).map fun i => q l (per * j + i))) c.g
        let bytes (old : Nat → Word) (y : Nat → Nat → Nat) (l : Nat) : Word := (List.range n).foldl (fun w b => setByte w b (y l b)) (old l)
        let oldOf (r : Nat) (l : Nat) : Word := (c.g.vreg r).vals.getD l 0
        let g := (g.dropShadow (.v c.opB.index)).putVec c.opB.index c.act (bytes (oldOf c.opB.index) x)
        let g := (g.dropShadow (.v c.opC.index)).putVec c.opC.index c.act (bytes (oldOf c.opC.index) uf)
        let total := ((lanesOf c.act).map fun l => ((List.range n).map (uf l)).sum).sum
        .next (c.count ctrFloat c.lanes (c.s.setGroup c.k { g with uflow := countUp g.uflow total }))) s qntOperands)

/-- `ldcb` (R225). -/
def execLdcb (f : Fields) (s : State) : Host.Outcome State Fault Refusal :=
  .next (issue 0x191 f noChecks noNames
    (fun c =>
      if !c.any then .next c.s
      else
        let book := ((List.range 8).map fun k => (lanev c c.opA c.srcA (k : Nat)).toNat * 2 ^ (32 * k)).sum
        .next (c.count ctrInt 1 (c.s.setGroup c.k { c.g with cbs := c.g.cbs.set f.fn.toNat book }))) s fun c n => n == 2 && !c.opA.isVec)

end Sys2Proof.Machine
end

