-- ==== Sys2Proof/Machine/Image.lean ====
section
/-! DEFINITION. Launch records (02, Table 2.5) and context images (15, R345–R348): their bits, and the place of the images in a
function's context pool. -/

namespace Sys2Proof.Machine

/-! ## Launch records -/

/-- The fields of a record's 1,024 bits (02, Table 2.5). -/
def LaunchRec.ofBits (x : Nat) : LaunchRec :=
  { fmtInit := BitVec.ofNat 32 (bitsOf x 991 960), tag := bitsOf x 895 864, sigInc := bitsOf x 863 832, sigAddr := bitsOf x 821 768,
    wait1V := bitsOf x 767 704, wait1A := bitsOf x 693 640, wait0V := bitsOf x 639 576, wait0A := bitsOf x 565 512,
    key := bitsOf x 511 448, popCap := bitsOf x 421 400, stackN := bitsOf x 399 384, stackA := bitsOf x 373 320,
    spad := bitsOf x 299 288, teams := bitsOf x 287 256, param := bitsOf x 245 192, handler := BitVec.ofNat 32 (bitsOf x 191 160),
    entry := BitVec.ofNat 32 (bitsOf x 159 128), kimg := bitsOf x 117 64, vfloor := bitsOf x 49 41, vregs := bitsOf x 40 32,
    slots := bitsOf x 21 16, split := bitsOf x 15 14, preempt := bitOf x 13, pop := bitOf x 12, coop := bitOf x 11, span := bitOf x 10,
    width := bitsOf x 9 8, format := bitsOf x 7 0 }

/-- The bits of a record's fields. -/
def LaunchRec.bits (r : LaunchRec) : Nat :=
  ([(r.format, 0), (r.width, 8), (b2n r.span, 10), (b2n r.coop, 11), (b2n r.pop, 12), (b2n r.preempt, 13), (r.split, 14), (r.slots, 16),
    (r.vregs, 32), (r.vfloor, 41), (r.kimg, 64), (r.entry.toNat, 128), (r.handler.toNat, 160), (r.param, 192), (r.teams, 256),
    (r.spad, 288), (r.stackA, 320), (r.stackN, 384), (r.popCap, 400), (r.key, 448), (r.wait0A, 512), (r.wait0V, 576), (r.wait1A, 640),
    (r.wait1V, 704), (r.sigAddr, 768), (r.sigInc, 832), (r.tag, 864), (r.fmtInit.toNat, 960)] : List (Nat × Nat)).foldl
    (fun acc p => acc + p.1 * 2 ^ p.2) 0

/-- Some reserved bit of a record is nonzero (02, Table 2.5). -/
def reservedRecord (x : Nat) : Bool :=
  [(1023, 992), (959, 928), (831, 822), (703, 694), (575, 566), (447, 422), (383, 374), (319, 300), (255, 246), (127, 118), (63, 50),
   (31, 22)].any fun p => bitsOf x p.1 p.2 != 0

/-! ## The group record (15, R348) -/

/-- A slot block (15, R348). -/
def PcSlot.block (p : PcSlot) : Nat :=
  p.pc.toNat + p.rpc.toNat * 2 ^ 32 + p.fmt.toNat * 2 ^ 64 + p.active.toNat * 2 ^ 96 + p.owned.toNat * 2 ^ 192 +
    b2n (p.owned != 0) * 2 ^ 288 + b2n p.join * 2 ^ 289

/-- WAITK, WAITID and WAITT (15, Table 15.5). -/
def waitFields (g : Group) : Nat × Nat × Nat :=
  if g.dormFmt.isSome then (7, 0, 0)
  else
    match g.wait with
    | .barrier id _ => (1, id, 0)
    | .gbar => (2, 0, 0)
    | .waita w => (3, 0, w.timeout)
    | .lock _ => (4, 0, 0)
    | .resample => (5, 0, 0)
    | .fault _ => (6, 0, 0)
    | .dormant => (7, 0, 0)
    | .alloc => (8, 0, 0)
    | _ => (0, 0, 0)

/-- The kind of a latch or last-result entry, with its age (15, Table 15.5, LATCHD). -/
def latchCode (v : Option Value) (age : Nat) : Nat :=
  match v with
  | none => 0
  | some v => (if v.vec then 2 else 1) + age * 4

/-- The latch entries that are live, and the last-result file. -/
def latchValues (latch : List LatchEntry) (q0 q1 : Option Value) : List (Option Value × Nat) :=
  ((List.range 3).map fun i => match latch[i]? with | some e => if e.age = 0 then (none, 0) else (some e.value, e.age) | none => (none, 0)) ++
    [(q0, 0), (q1, 0)]

/-! What completed windows have still to deliver stands in the record as the names' values, and what the names read meanwhile as their
shadows (05, R111, R112; 15, R348). -/

/-- What the latest completed window that has still to close delivers to a name. -/
def Group.dueDest (g : Group) (n : DName) : Option WinDest :=
  (((g.windows.filter (·.done)).flatMap (·.dests)).filter (·.name == n)).getLast?

/-- A vector name as the record shows it. -/
def Group.shownVec (g : Group) (n : Nat) : VReg :=
  let v := g.vreg n
  match g.dueDest (.v n) with
  | none => v
  | some d => { vals := (List.range g.width).map fun l => if d.lanes.getLsbD l then d.vals.getD l 0 else v.vals.getD l 0,
                poison := (v.poison &&& ~~~d.lanes) ||| (d.poison &&& d.lanes) }

/-- The names that the record shows mapped: those that completed windows deliver first among them. -/
def Group.shownNames (g : Group) : List Nat := (List.range 256).filter fun n => (g.vregs.find? n).isSome || (g.dueDest (.v n)).isSome

/-- A scalar register, a predicate and a special register as the record shows them. -/
def Group.shownScalar (g : Group) (n : Nat) : Word :=
  match g.dueDest (.s n) with | some d => if d.lanes = 0 then g.sreg false n else d.vals.getD 0 0 | none => g.sreg false n
def Group.shownPred (g : Group) (n : Nat) : LaneMask :=
  match g.dueDest (.p n) with
  | some d => (g.pred n &&& ~~~d.lanes) ||| (d.lanes &&& maskOf g.width fun l => (d.vals.getD l 0).getLsbD 0)
  | none => g.pred n
def Group.specialWord (g : Group) : Nat → Word
  | 87 => if g.sat then 1 else 0
  | 88 => g.uflow
  | 89 => g.mflush
  | _ => g.mwrap
def Group.shownSpecial (g : Group) (n : Nat) : Word :=
  match g.dueDest (.special n) with | some d => if d.lanes = 0 then g.specialWord n else d.vals.getD 0 0 | none => g.specialWord n

/-- The 2 KiB group header (15, Table 15.5). -/
def groupHeader (g : Group) : Nat :=
  let at_ (xs : List Nat) (first step : Nat) : Nat := (xs.zipIdx.map fun (x, i) => x * 2 ^ (first + step * i)).sum
  let (wk, wi, wt) := waitFields g
  let loop (l : LoopLevel) : Nat :=
    l.count.toNat + l.start.toNat * 2 ^ 32 + l.stop.toNat * 2 ^ 64 + l.depth * 2 ^ 96 + b2n l.opened * 2 ^ 112
  g.slotA.block + g.slotB.block * 2 ^ 512 + g.cycle * 2 ^ 1024 +
    at_ ([87, 88, 89, 90].map fun n => (g.shownSpecial n).toNat) 1088 32 + g.depth * 2 ^ 1216 + g.stack.length * 2 ^ 1232 +
    g.grpid * 2 ^ 1240 + b2n g.inh * 2 ^ 1248 + (g.trapRegs.getD 9 0).toNat % 4 * 2 ^ 1249 + wk * 2 ^ 1256 + wi * 2 ^ 1264 + wt * 2 ^ 1280 +
    at_ ((List.range 3).map fun i => loop (g.loops.getD i {})) 1344 128 + (g.shownNames.map fun n => 2 ^ n).sum * 2 ^ 1792 +
    at_ (g.trapRegs.map BitVec.toNat) 2048 32 + at_ ((latchValues g.latch g.q0 g.q1).map fun v => latchCode v.1 v.2) 2560 4 +
    at_ ((List.range 7).map fun i => (g.shownPred i).toNat) 3424 96 + at_ ((List.range 64).map fun i => (g.shownScalar i).toNat) 4096 32 +
    at_ ((List.range 4).map fun i => g.cbs.getD i 0) 6144 256 + at_ (g.stack.reverse.map StackEntry.bits) 7168 256 +
    (match g.frame with
     | some f => f.slotA.block * 2 ^ 8192 + f.slotB.block * 2 ^ 8704 + f.depth * 2 ^ 9232
     | none => 0)

/-- Bytes that the words of a vector name and their poison bits take. -/
def laneSize (w : Nat) : Nat := 4 * w + (w / 8 + 15) / 16 * 16

/-- Words per lane with their poison bits, padded to 16 bytes (15, R348). -/
def lanesBytes (w : Nat) (p : Nat → Word) (poison : LaneMask) : List Byte :=
  ((List.range w).flatMap fun l => toBytes 4 (p l).toNat) ++ toBytes ((w / 8 + 15) / 16 * 16) poison.toNat

/-- A latch or last-result entry in the same form. -/
def valueBytes (w : Nat) (v : Value) : List Byte :=
  lanesBytes w v.at (maskOf w v.poisonAt)

/-- The index by which a window's names are listed: v0 to v255, then scalars, predicates and special registers (log 30). -/
def DName.number : DName → Nat
  | .v n => n
  | .s n => 256 + n
  | .p n => 320 + n
  | .special n => 256 + n

/-- An open lookahead window of slot `b`: slot, remaining count, name count and whether a fault holds it; each shadowed name with its
shadow, and for a held one what its lanes have delivered (15, R348). -/
def windowEntry (g : Group) (w : Window) (b : Bool) (left : Nat) : List Byte :=
  toBytes 4 (b2n b) ++ toBytes 4 left ++ toBytes 4 w.dests.length ++ toBytes 4 (b2n (w.held != 0)) ++
  (w.dests.flatMap fun d =>
    toBytes 4 d.name.number ++
    match d.name with
    | .v n => lanesBytes g.width (fun l => (g.vreg n).vals.getD l 0) (g.vreg n).poison
    | .s n => toBytes 4 (g.sreg b n).toNat
    | .p n => toBytes 12 (g.pred n).toNat
    | .special n => toBytes 4 (g.specialWord n).toNat) ++
  if w.held = 0 then []
  else w.dests.flatMap fun d => toBytes 4 d.name.number ++ lanesBytes g.width (fun l => d.vals.getD l 0) d.poison

/-- A window as it stands open in each slot that has it (05, R112; 15, R348). -/
def windowBytes (g : Group) (w : Window) : List Byte :=
  ((w.remA.map (windowEntry g w false)).getD []) ++ (w.remB.map (windowEntry g w true)).getD []

/-- The replay entry (15, R340). -/
def replayBytes (r : Replay) : List Byte :=
  toBytes 12 (wordBits r.opc r.fields).toNat ++ toBytes 4 r.pc.toNat ++ toBytes 4 (b2n r.slotB) ++
  toBytes 12 (r.lanes.map fun x => 2 ^ x.lane).sum ++ r.lanes.flatMap fun x => toBytes 8 x.addr ++ x.data.flatMap fun d => toBytes 4 d.toNat

/-- A group record, the names of a spilled group with it, and of the entries that a handler interrupts (15, R340, R348; 04, R91). -/
def groupRecordBytes (g : Group) : List Byte :=
  let g := State.unspill g
  let live (vs : List (Option Value × Nat)) : List Byte := vs.flatMap fun v => match v.1 with | some x => valueBytes g.width x | none => []
  toBytes 2048 (groupHeader g) ++
  (g.shownNames.flatMap fun n => let v := g.shownVec n; lanesBytes g.width (fun l => v.vals.getD l 0) v.poison) ++
  live (latchValues g.latch g.q0 g.q1) ++
  (match g.frame with | some f => if g.inh then live (latchValues f.latch f.q0 f.q1) else [] | none => []) ++
  (g.windows.flatMap (windowBytes g)) ++
  (match g.replay with | some r => replayBytes r | none => []) ++
  (match g.frame.bind (·.replay) with | some r => replayBytes r | none => [])

/-- What of a group has no place in its record (log 30), in a form that another machine can take: `mapped` the names that a register
stands behind, `latchB` the latch entries of slot B, `frame` those of the trap frame with their LATCHD codes, what its slots yield, and the
entry that the handler interrupts. -/
structure GroupRest where
  lastB : Bool
  exited : LaneMask
  spoison : BitVec 64
  lineage : List (Tbl Nat)
  dormFmt : Option Word
  wait : Wait
  waitOpc : Nat
  waitWord : Fields
  waitB : Bool
  stall : Nat
  spill : Nat
  deepKinds : List EntryKind
  windows : List Window
  latchB : List Bool
  yields : List (Option Nat)
  frame : Option (List Bool × List Nat × List (Option Nat) × Option Replay × Option Capture)
  asyncs : List TrapInfo
  replay : Option Replay
  capture : Option Capture
  ended : Bool
  issued : Bool
  need : Nat
  spilled : Bool
  mapped : List Nat
  deriving Repr, Inhabited

def Codec.groupRest : Codec GroupRest :=
  (bool.and ((bits 96).and ((bits 64).and ((list (tbl nat)).and ((opt (bits 32)).and (wait.and (nat.and (fields.and (bool.and (nat.and (nat.and
    ((list entryKind).and ((list window).and ((list bool).and ((list (opt nat)).and
    ((opt ((list bool).and (nats.and ((list (opt nat)).and ((opt replay).and (opt capture)))))).and
    ((list trapInfo).and ((opt replay).and ((opt capture).and (bool.and (bool.and
    (nat.and (bool.and nats))))))))))))))))))))))).map
    (fun (a, b, c, d, e, f, g, h, i, j, k, l, m, n, o, p, q, r, s, t, u, v, w, x) => ⟨a, b, c, d, e, f, g, h, i, j, k, l, m, n, o, p, q, r, s, t, u, v, w, x⟩)
    fun x => (x.lastB, x.exited, x.spoison, x.lineage, x.dormFmt, x.wait, x.waitOpc, x.waitWord, x.waitB, x.stall, x.spill, x.deepKinds, x.windows,
      x.latchB, x.yields, x.frame, x.asyncs, x.replay, x.capture, x.ended, x.issued, x.need, x.spilled, x.mapped)

/-- The rest of a group. -/
def Group.rest (g : Group) : GroupRest :=
  { lastB := g.lastB, exited := g.exited, spoison := g.spoison, lineage := [g.lin, g.par, g.ord, g.slotNo, g.oslot], dormFmt := g.dormFmt,
    wait := g.wait, waitOpc := g.waitOpc, waitWord := g.waitWord, waitB := g.waitB, stall := g.stall,
    spill := match g.spill with | .none => 0 | .wanted => 1 | .granted => 2, deepKinds := g.deepKinds, windows := g.windows,
    latchB := g.latch.map (·.slotB), yields := [g.slotA.yieldAt, g.slotB.yieldAt],
    frame := g.frame.map fun f => (f.latch.map (·.slotB), (latchValues f.latch f.q0 f.q1).map (fun v => latchCode v.1 v.2), [f.slotA.yieldAt, f.slotB.yieldAt], f.replay, f.capture),
    asyncs := g.asyncs, replay := g.replay, capture := g.capture, ended := g.ended, issued := g.issued, need := g.need,
    spilled := g.spilled.isSome, mapped := (g.spilled.getD g.vregs).keys }

/-! ## The team record (15, R346, R347) -/

/-- What stays of a team on one of its cores: tiles and Kaolin slices it owns. -/
def ownedTiles (s : State) (core t : Nat) : List (Nat × Tile) := ((s.core core).tiles).filter fun x => x.2.owner == some t
def ownedSlices (s : State) (core t : Nat) : List Nat :=
  (((s.core core).slices).filter fun (x : Nat × Option Nat × Bool) => x.2.1 == some t).map Prod.fst

/-- Queued copy commands of a team. -/
def teamCopies (s : State) (t : Nat) : List CopyCmd := s.cores.values.flatMap fun c => c.copies.filter fun x => x.team == t

/-- The 512 B team header (15, Table 15.4). -/
def teamHeader (s : State) (k : Nat) : Nat :=
  let t := s.team k
  let r := (s.launch t.launch).record
  let mask (xs : List Nat) : Nat := (xs.map fun x => 2 ^ x).sum
  let gs := s.teamGroups k
  0x4D414554 + 2 ^ 32 + t.teamid * 2 ^ 64 + gs.length * 2 ^ 96 + r.width * 2 ^ 102 + b2n r.span * 2 ^ 104 + t.split * 2 ^ 105 +
    r.spad * 2 ^ 112 + t.core % 48 * 2 ^ 128 + t.spOff0 * 2 ^ 136 + t.spOff1 * 2 ^ 160 +
    mask ((ownedTiles s t.core k).map Prod.fst) * 2 ^ 192 +
    (if r.span then mask ((ownedTiles s (t.core + 1) k).map Prod.fst) else 0) * 2 ^ 200 + t.windows.length * 2 ^ 208 +
    (gs.map fun g => g.2.locks.length).sum * 2 ^ 216 + (teamCopies s k).length * 2 ^ 224 + mask (ownedSlices s t.core k) * 2 ^ 256 +
    (if r.span then mask (ownedSlices s (t.core + 1) k) else 0) * 2 ^ 768 +
    (t.barriers.map fun b => (b.2.mask + b.2.count * 2 ^ 32 + b2n b.2.phase * 2 ^ 38) * 2 ^ (1280 + 64 * b.1)).sum

/-- The number of bytes of a bitmap. -/
def bitmapSize (n : Nat) : Nat := (n + 63) / 64 * 8

/-- Bits as bytes, padded to eight. -/
def bitmapBytes (bs : List Bool) : List Byte :=
  toBytes ((bs.length + 63) / 64 * 8) ((bs.zipIdx.map fun (b, i) => b2n b * 2 ^ i).sum)

/-- A copy command's 128 bytes: its word and operand values and the next chunk, its issuing group, the fault that holds it and its place in
the order of issue (15, R346; their places in it are the model's, log 30), then its index list. -/
def CopyCmd.image (c : CopyCmd) (grpid : Nat) : List Byte :=
  toBytes 128 (c.word + c.pc.toNat * 2 ^ 96 + c.dst * 2 ^ 128 + c.src * 2 ^ 192 + c.len * 2 ^ 256 + c.rl * 2 ^ 288 + b2n c.cwe * 2 ^ 296 +
    b2n c.cw64 * 2 ^ 297 + b2n c.held.isSome * 2 ^ 298 + grpid * 2 ^ 304 + c.cwAddr * 2 ^ 320 + c.cwVal * 2 ^ 384 + c.chunk * 2 ^ 448 +
    c.index.length * 2 ^ 480 + c.held.getD 0 % 2 ^ 64 * 2 ^ 512 + c.serial % 2 ^ 64 * 2 ^ 576) ++
  c.index.flatMap fun i => toBytes 4 i

/-- What a team record holds before the Kaolin slices (15, R346). -/
def recordFront (s : State) (k : Nat) : List Byte :=
  let t := s.team k
  let gs := s.teamGroups k
  let cores := teamCores s t
  toBytes 512 (teamHeader s k) ++
  ((List.range 16).flatMap fun i => toBytes 64 (t.trec i)) ++
  (cores.flatMap fun c => s.spBytes c (if c == t.core then t.spOff0 else t.spOff1) t.spLen) ++
  (t.windows.flatMap fun w => toBytes 8 w.sp ++ toBytes 8 w.gb ++ toBytes 8 w.len ++ toBytes 8 (b2n w.writable) ++
    bitmapBytes w.valid ++ bitmapBytes w.dirty) ++
  (gs.flatMap fun g => g.2.locks.flatMap fun h =>
    let len (i : Nat) : Nat := (h.ranges.getD i (0, 0)).2
    let base (i : Nat) : Nat := (h.ranges.getD i (0, 0)).1
    toBytes 8 h.record ++ toBytes 4 g.2.grpid ++ toBytes 4 (len 0) ++ toBytes 4 (len 1) ++ toBytes 4 (len 2) ++ toBytes 8 (base 0) ++
      toBytes 8 (base 1) ++ toBytes 24 (base 2)) ++
  ((teamCopies s k).flatMap fun c => c.image (s.group c.group).grpid) ++
  cores.flatMap fun c => (ownedTiles s c k).flatMap fun x =>
    ((List.range 8192).flatMap fun e => toBytes 4 (x.2.elems.getD e 0).toNat) ++ toBytes 1024 ((x.2.poison.map fun e => 2 ^ e).sum)

/-- The Kaolin slices of a team: key (2^16 added on the second core), dirty bit and bytes. -/
def recordSlices (s : State) (k : Nat) : List (Nat × Bool × List Byte) :=
  (teamCores s (s.team k)).zipIdx.flatMap fun (c, i) => (ownedSlices s c k).map fun n =>
    (n + i * 2 ^ 16, ((s.core c).slices.getD n (none, false)).2, Memory.bytes (s.core c).kaolin (4096 * n) 4096)

/-- What of a team has no place in its record (log 30): the poison of its scratchpad words and Kaolin store, numbered as in `SavedCore`, and
of its groups. -/
structure TeamRest where
  parked  : Bool
  spoison : List Nat
  kpoison : List Nat
  groups  : List GroupRest
  deriving Repr, Inhabited

def Codec.teamRest : Codec TeamRest :=
  (bool.and (nats.and (nats.and (list groupRest)))).map (fun (a, b, c, d) => ⟨a, b, c, d⟩) fun x => (x.parked, x.spoison, x.kpoison, x.groups)

/-- A value in a codec at the end of some bytes: its words, then how many they are. -/
def endBytes {α : Type} (c : Codec α) (x : α) : List Byte := let ws := c.put x; ws.flatMap (toBytes 4) ++ toBytes 4 ws.length

/-- The value at the end of some bytes. -/
def readEnd {α : Type} (c : Codec α) (bs : List Byte) : Option α :=
  let n := ofBytes (bs.drop (bs.length - 4))
  if bs.length < 4 + 4 * n then none
  else (c.get (wordsOfBytes ((bs.drop (bs.length - 4 - 4 * n)).take (4 * n)))).map Prod.fst

/-- The rest of a team, as its cores hold it. -/
def teamRest (s : State) (k : Nat) : TeamRest :=
  let t := s.team k
  let cores := (teamCores s t).zipIdx
  { parked := t.parked
    spoison := cores.flatMap fun (c, i) =>
      let off := if i = 1 then t.spOff1 else t.spOff0
      ((s.core c).spoison.filter fun w => decide (off ≤ 4 * w) && decide (4 * w < off + t.spLen)).map (· + i * 2 ^ 17)
    kpoison := cores.flatMap fun (c, i) => ((s.core c).kpoison.filter fun w => (ownedSlices s c k).contains (w / 512)).map (· + i * 2 ^ 18)
    groups := (s.teamGroups k).map fun g => g.2.rest }

/-! ## The context section (15, R346) -/

/-- A team of a launch, as the section names it: its number, whether it was placed, is parked and has exited, and where its image stands, with
its length. -/
structure TeamPlace where
  teamid : Nat
  placed : Bool
  parked : Bool
  exited : Bool
  image  : Option (Nat × Nat)
  bytes  : Nat
  deriving Repr, Inhabited

/-- What of a network context goes with the launches of its address space (14, R328; 17, R385): the counts of its send queues, its requests by
queue, what it has received, its counters and its chain. -/
structure NetRest where
  pid    : Nat
  queues : List (Nat × Nat × Nat × Nat × Nat)
  reqs   : List (Nat × WorkReq)
  rx     : List RxMsg
  closed : Bool
  deriving Repr, Inhabited

/-- What of a launch has no place in its section (log 30); `key`: its place in the order in which launches were taken, `older`: its queue has
been enabled again since. Groups and teams stand by number in it. -/
structure LaunchRest where
  key     : Nat
  queue   : Nat
  index   : Nat
  recAddr : Nat
  asid    : Nat
  vmid    : Nat
  prio    : Nat
  stage   : Stage
  finalAt : FinalStep
  order   : Nat
  got     : Bool × Bool
  params  : List Word
  trecs   : Tbl Nat
  next    : Nat
  gbar    : List Nat
  arrived : Tbl Arrival
  ancHold : Bool
  closed  : Bool
  image   : Option (Nat × Nat)
  older   : Bool
  teams   : List TeamPlace
  loose   : List (Nat × Nat × Nat × GroupRest)
  nets    : List NetRest
  held    : List Held
  deriving Repr, Inhabited

def Codec.teamPlace : Codec TeamPlace :=
  (nat.and (bool.and (bool.and (bool.and ((opt (nat.and nat)).and nat))))).map (fun (a, b, c, d, e, f) => ⟨a, b, c, d, e, f⟩)
    fun x => (x.teamid, x.placed, x.parked, x.exited, x.image, x.bytes)

def Codec.netRest : Codec NetRest :=
  (nat.and ((list (nat.and (nat.and (nat.and (nat.and nat))))).and ((list (nat.and workReq)).and ((list rxMsg).and bool)))).map
    (fun (a, b, c, d, e) => ⟨a, b, c, d, e⟩) fun x => (x.pid, x.queues, x.reqs, x.rx, x.closed)

def Codec.launchRest : Codec LaunchRest :=
  (nat.and (nat.and (nat.and (nat.and (nat.and (nat.and (nat.and (stage.and (finalStep.and (nat.and ((bool.and bool).and (words.and ((tbl nat).and (nat.and
    (nats.and ((tbl arrival).and (bool.and (bool.and ((opt (nat.and nat)).and (bool.and ((list teamPlace).and
    ((list (nat.and (nat.and (nat.and groupRest)))).and ((list netRest).and (list held)))))))))))))))))))))))).map
    (fun (a, b, c, d, e, f, g, h, i, j, k, l, m, n, o, p, q, r, s, t, u, v, w, x) => ⟨a, b, c, d, e, f, g, h, i, j, k, l, m, n, o, p, q, r, s, t, u, v, w, x⟩)
    fun x => (x.key, x.queue, x.index, x.recAddr, x.asid, x.vmid, x.prio, x.stage, x.finalAt, x.order, x.got, x.params, x.trecs, x.next, x.gbar, x.arrived,
      x.ancHold, x.closed, x.image, x.older, x.teams, x.loose, x.nets, x.held)

/-- The number of a group, and of a team, in its launch, from its key. -/
def groupOf (k : Nat) : Nat := k % 2 ^ 37
def teamOf (k : Nat) : Nat := k % 2 ^ 32

/-- A held fault with the keys of its launch, teams and groups changed. -/
def Held.rekey (h : Held) (group team : Nat → Nat) (launch : Nat → Nat) : Held :=
  { h with at_ := match h.at_ with
      | .group k => .group (group k) | .copy t => .copy (team t) | .dependence l => .dependence (launch l) | .status l => .status (launch l)
      | .signal l => .signal (launch l) | .ancestor l => .ancestor (launch l) | .restore t => .restore (team t) | x => x }

/-- The rest of a network context, with the requests of a launch. -/
def netRest (l n : Nat) (x : NetCtx) : NetRest :=
  { pid := n, queues := x.queues.map fun q => (q.1, q.2.nextMsg, q.2.serial, q.2.code, q.2.errors)
    reqs := x.queues.flatMap fun q => (q.2.reqs.filter fun r => r.launch == l && r.marl.isNone).map fun r => (q.1, { r with group := groupOf r.group })
    rx := x.rx, closed := x.chain.closed }

/-- The contexts of a launch's address space. -/
def launchNets (s : State) (l : Nat) : Tbl NetCtx := s.nets.filter fun n => n.2.valid && n.2.asid == (s.launch l).asid

/-- The held faults that go with a launch: its own, and those of its address space's network contexts. -/
def launchHeld (s : State) (l : Nat) : List Held :=
  let nets := (launchNets s l).keys
  (s.held.filter fun h => match h.at_ with
    | .status k => k == l | .signal k => k == l | .send p _ => nets.contains p | .target p _ => nets.contains p | .ring _ => false
    | _ => s.heldLaunch h == some l).map fun h => h.rekey groupOf teamOf fun _ => 0

/-- The rest of a launch. -/
def launchRest (s : State) (l : Nat) : LaunchRest :=
  let x := s.launch l
  { key := l, queue := x.queue, index := x.index, recAddr := x.recAddr, asid := x.asid, vmid := x.vmid, prio := x.prio, stage := x.stage, finalAt := x.finalAt,
    order := x.order, got := (x.got0, x.got1), params := x.params, trecs := x.trecs, next := x.next, gbar := x.gbar.map groupOf
    arrived := x.arrived.map fun a => (groupOf a.1, a.2), ancHold := x.ancHold, closed := x.chain.closed, image := x.image
    older := decide (l ≤ (s.queue x.queue).epoch)
    teams := (s.teams.filter fun t => t.2.launch == l).map fun t =>
      { teamid := t.2.teamid, placed := t.2.placed, parked := t.2.parked, exited := t.2.exited,
        image := if t.2.evicted then t.2.image else none, bytes := ((s.saved.find? t.1).map (·.bytes.length)).getD 0 }
    loose := (s.groups.filter fun g => s.launchOf g.2 == l && !(s.team g.2.team).evicted).map fun g =>
      let bs := groupRecordBytes g.2
      (groupOf g.1, bs.length, ofBytes bs, g.2.rest)
    nets := (launchNets s l).map fun n => netRest l n.1 n.2
    held := launchHeld s l }

/-- A request's 16 B progress word (its form: log 30): started and ended, error code, message, packets and bytes received. -/
def WorkReq.progress (r : WorkReq) : Nat :=
  b2n r.started + b2n r.ending.isSome * 2 + b2n r.stalled.isSome * 4 + r.ending.getD 0 % 2 ^ 8 * 2 ^ 8 + r.pkts.length % 2 ^ 32 * 2 ^ 32 +
    r.msg % 2 ^ 32 * 2 ^ 64 + r.got.length % 2 ^ 32 * 2 ^ 96

/-- A section's parts in order: launch record, population, the open pass and its deposits (13, R309), `gbar`, counters, network state: requests, and of
the contexts of its ASID the counters, the chain, and what they have received of messages not yet complete (14, R328; 17, R382, R385; the form of
the parts without one in R346: log 30). After the record stand the section's length and the number of its save. -/
def contextBytes (s : State) (l stamp : Nat) : List Byte :=
  let x := s.launch l
  let body :=
    toBytes 8 x.pop.live ++ toBytes 8 x.pop.seq ++ toBytes 8 x.pop.total ++ toBytes 8 x.pop.off ++ toBytes 8 x.pop.surv ++
    toBytes 4 (b2n x.passOn) ++ toBytes 4 x.passPc.toNat ++ toBytes 8 x.passP ++ toBytes 8 x.deposit.length ++
    (x.deposit.flatMap fun d => toBytes 4 d.q ++ toBytes 4 d.key ++ toBytes 4 d.ord ++ toBytes 4 d.slotNo ++ toBytes 8 d.lin ++ toBytes 8 d.par ++
      toBytes 8 d.payload.length ++ d.payload.flatMap fun p => toBytes 4 p.toNat) ++
    toBytes 8 x.gbar.length ++ toBytes 8 x.gphase ++
    ((List.range 64).flatMap fun i => toBytes 8 (x.ctrs.getD i 0)) ++ toBytes 8 x.chain.seq ++ toBytes 64 x.chain.hash ++
    ((launchNets s l).flatMap fun n => n.2.queues.values.flatMap fun q => (q.reqs.filter fun r => r.launch == l && r.marl.isNone).flatMap fun r =>
      toBytes 64 r.raw ++ toBytes 16 r.progress ++ bitmapBytes (r.pkts.map (·.acked))) ++
    ((launchNets s l).values.flatMap fun n =>
      ((List.range 64).flatMap fun i => toBytes 8 (n.ctrs.getD i 0)) ++ toBytes 8 n.chain.seq ++ toBytes 64 n.chain.hash ++ n.rx.flatMap fun m =>
      if m.counted then []
      else toBytes 4 m.jobid ++ toBytes 2 m.src ++ toBytes 2 m.queue ++ toBytes 8 m.msg ++ toBytes 8 m.spot ++ toBytes 4 (b2n m.slot.isSome) ++
        toBytes 4 m.total ++ bitmapBytes ((List.range m.total).map m.placed.contains)) ++
    endBytes Codec.launchRest (launchRest s l)
  toBytes 128 x.record.bits ++ toBytes 8 (144 + body.length) ++ toBytes 8 stamp ++ body

/-! ## The context pool (15, R345) -/

/-- The 64 KiB blocks that images of a function hold. -/
def poolHeld (s : State) (fn : Nat) : List (Nat × Nat) :=
  let mine (l : Nat) : Bool := s.vmidFunc (s.launch l).vmid == fn
  (s.launches.filterMap fun p => if mine p.1 then p.2.image else none) ++
    s.teams.filterMap fun p => if mine p.2.launch then p.2.image else none

/-- The first place for `n` blocks among those held, from block `b` on, if it ends below `size` (first fit: log 31). -/
def poolFit (held : List (Nat × Nat)) (size n : Nat) : Nat → Nat → Option Nat
  | 0, _ => none
  | fuel + 1, b =>
    if size < b + n then none
    else
      match held.find? fun h => decide (h.1 < b + n) && decide (b < h.1 + h.2) with
      | some h => poolFit held size n fuel (h.1 + h.2)
      | none => some b

/-- A place in a function's pool for `n` blocks. -/
def poolPlace (s : State) (fn n : Nat) : Option Nat :=
  let held := poolHeld s fn
  poolFit held (s.func fn).ctxPoolSz n (held.length + 1) 0

/-- Write bytes of an image at its block, from a byte of it on, through the function's stage 2, as far as its blocks reach (log 31); where it
does not translate nothing is written. -/
def writeImage (s : State) (fn : Nat) (place : Option (Nat × Nat)) (bs : List Byte) (off : Nat := 0) : State :=
  match place with
  | none => s
  | some (b, n) => (s.ringWrite fn (fun i => (s.func fn).ctxPool + 65536 * b + off + i) (bs.take (65536 * n - off))).getD s

/-- An image whose pages are logged waits while the log holds writes to them (10, R237). -/
def poolWaits (s : State) (fn : Nat) (place : Option (Nat × Nat)) : Bool :=
  s.logHolds fn && match place with
    | none => false
    | some (b, n) => (List.range n).any fun i => match s.translateFunc fn ((s.func fn).ctxPool + 65536 * (b + i)) .write with | .ok x => x.log | .error _ => false

/-- Where the group records of a team record begin. -/
def groupsAt (s : State) (k : Nat) : Nat := (recordFront s k).length + 4096 * (recordSlices s k).length

/-- A team's whole record (15, R346). -/
def recordBytes (s : State) (k : Nat) : List Byte :=
  recordFront s k ++ ((recordSlices s k).flatMap fun y => y.2.2) ++ ((s.teamGroups k).flatMap fun g => groupRecordBytes g.2) ++
    endBytes Codec.teamRest (teamRest s k)

/-- `n` bytes of an image from a byte of it on, as their homes hold them now (10, R233, R236); none where it has no block, or a byte does not
translate. -/
def readImage (s : State) (fn : Nat) (place : Option (Nat × Nat)) (n : Nat) (off : Nat := 0) : State × Option (List Byte) :=
  match place with
  | none => (s, none)
  | some (b, _) =>
    let at_ (i : Nat) : Nat := (s.func fn).ctxPool + 65536 * b + off + i
    let s := s.ringWalked fn at_ n
    let pas := (List.range n).mapM fun i =>
      match s.translateFunc fn (at_ i) .read with
      | .ok x => if x.kind = 0 then some x.pa else none
      | .error _ => none
    match pas with
    | none => (s, none)
    | some ps => let s := s.touchAll ps; (s, some (ps.map s.homeByte))

/-- Write a team's record into its image: of the Kaolin slices only the dirty ones and those that do not stand at their place there from
the previous save (09, R207; 15, R346). -/
def writeTeamRecord (s : State) (fn k : Nat) : State :=
  let x := s.team k
  let front := recordFront s k
  let slices := (recordSlices s k).zipIdx.map fun (y, i) => (y.1, y.2.1, y.2.2, front.length + 4096 * i)
  let groups := ((s.teamGroups k).flatMap fun g => groupRecordBytes g.2) ++ endBytes Codec.teamRest (teamRest s k)
  let s := writeImage s fn x.image groups (groupsAt s k)
  let s := writeImage s fn x.image front
  let s := slices.foldl (fun s y =>
    if !y.2.1 && x.imaged.find? y.1 == some y.2.2.2 then s else writeImage s fn x.image y.2.2.1 y.2.2.2) s
  s.setTeam k { x with imaged := slices.foldl (fun m y => Tbl.set m y.1 y.2.2.2) [] }

/-- Spill a group: its names go to its record of the image, and it leaves the active set (04, R88, R91; 13, R299). -/
def spillGroup (s : State) (k : Nat) : State :=
  let g := s.group k
  let l := s.launch (s.launchOf g)
  let before := ((s.teamGroups g.team).takeWhile fun p => p.1 != k).flatMap fun p => groupRecordBytes p.2
  let s := s.setGroup k { g with spilled := some g.vregs, vregs := [], stall := 0x03 }
  let s := writeImage s (s.vmidFunc l.vmid) (s.team g.team).image (groupRecordBytes (s.group k)) (groupsAt s g.team + before.length)
  let x := s.sched g.core g.sched
  if x.active.any (·.group == k) then
    let s := s.leaveSched k
    let x := s.sched g.core g.sched
    s.setSched g.core g.sched { x with pending := s.pendNow k x.pending }
  else s

end Sys2Proof.Machine
end

