-- ==== Sys2Proof/Machine/Population.lean ====
section
/-! DEFINITION. The Tilth engine: `resample`, `reorder`, their commits, and the population queries (13). -/

namespace Sys2Proof.Machine

/-! ## Lanes, groups and slots of a launch (02, R31; 13, R304) -/

/-- The group key and lane of a launch lane or slot `j`: groups are numbered through the launch (02, R31). -/
def launchLane (l width j : Nat) : Nat × Nat := (l * 2 ^ 37 + j / width, j % width)

/-- The launch lane of a lane of a group (02, R31; 13, R303). -/
def laneNumber (s : State) (g : Group) (lane : Nat) : Nat := s.launchNumber g * g.width + lane

/-- The registers of a group that starts: the parameter block in s0 to s15 (02, R32). -/
def startScalars (l : Launch) : Tbl Word := l.params.zipIdx.foldl (fun t (x, i) => if x = 0 then t else t.set i x) []

/-- Lane values of a group, listed for the lanes of `m`. -/
def laneTable (m : LaneMask) (p : Nat → Nat) : Tbl Nat := (lanesOf m).map fun i => (i, p i)

/-! ## `resample` (R295, R296) -/

/-- The operand rules of R295. -/
def resampleOperands (c : Ctx) : Nat → Bool :=
  let sC := c.f.aux.toNat % 64
  fieldsBad [(2, !plainUniform c.opA), (4, c.f.fn == 1 && (sC % 2 != 0 || decide (58 < sC)))]

/-- The checks of R296. -/
def resampleChecks (c : Ctx) : Option TrapInfo :=
  firstTrap
    [(!c.record.pop || c.g.depth != c.g.baseDepth, c.illegalConv), wholeGroup c,
     (c.g.loops.any (·.opened), c.loopMisuse)]

/-- `resample`: the group arrives once its long-latency instructions have completed and its release is made; it stands
at the instruction until the commit ends (R296, R297). -/
def execResample (f : Fields) (s : State) : Host.Outcome State Fault Refusal :=
  .next (issue 0x280 f resampleChecks noNames
    (fun c =>
      if c.g.windows.any fun w => !w.done then .wait c.s 0x05
      else
        afterRelease c true false 0x05 fun s =>
          let sC := f.aux.toNat % 64
          let anc := f.fn == 1
          let a : Arrival :=
            { target := (c.srcA.at 0).toNat, pc := c.pc, anc := anc,
              address := if anc then scalarAt c sC + scalarAt c (sC + 1) * 2 ^ 32 else 0,
              weights := laneTable c.act fun l => (c.srcB.at l).toNat }
          let l := s.launch c.launchKey
          let s := (s.setLaunch c.launchKey { l with arrived := l.arrived.set c.k a }).setGroup c.k (s.group c.k).mergeWindows
          .stay (testGbar (s.startWait c .resample 0x05) c.launchKey)) s resampleOperands)

/-! ## The commit (R297–R301) -/

/-- How many `k` below `n'` give `n'·lo ≤ k·w + off < n'·hi` (R298). -/
def copyCount (n' w off lo hi : Nat) : Nat :=
  (List.range n').countP fun k => decide (n' * lo ≤ k * w + off) && decide (k * w + off < n' * hi)

/-- The copies of each old slot, in slot order, from the weights; `lo` is the sum of those before (R298). -/
def copyCounts (n' w off : Nat) : Nat → List Nat → List Nat
  | _, [] => []
  | lo, x :: xs => copyCount n' w off lo (lo + x) :: copyCounts n' w off (lo + x) xs

/-- The old slot and the copy ordinal of each new slot, in order (R299). -/
def placements (slots counts : List Nat) : List (Nat × Nat) :=
  (slots.zip counts).flatMap fun (i, n) => (List.range n).map fun o => (i, o)

/-- The offset that a resample draws (R298). -/
def resampleOffset (key n w : Nat) : Nat :=
  let x := philox key (n, 0, 0, 0)
  (x.2.1 * 2 ^ 32 + x.1) * w / 2 ^ 64

/-- A population's live groups: those with a lane left. -/
def liveGroups (s : State) (l : Nat) : List (Nat × Group) := (s.launchGroups l).filter fun p => p.2.liveLanes != 0

/-- The commit can begin: every live slot's group has arrived and its arrival stands, every team is resident, and no group
waits at `gbar` (R297). -/
def commitReady (s : State) (l : Nat) : Bool :=
  let x := s.launch l
  let gs := liveGroups s l
  x.stage == .admitted && x.commit.isNone && s.partRuns x.part && !gs.isEmpty && (s.func (s.vmidFunc x.vmid)).runs &&
  gs.all (fun p => p.2.wait == .resample && (x.arrived.find? p.1).isSome) && x.next == x.record.teams &&
  (s.launchGroups l).all (fun p => (s.team p.2.team).resident && p.2.wait != .gbar) && !s.held.any fun h => h.at_ == .ancestor l

/-- Every arrived group takes a trap at its `resample` (R297); a group that arrived in its handler keeps it until the handler's `rte`
(15, R335), an evicted one until its restore (15, R412). -/
def trapArrived (s : State) (l : Nat) (info : TrapInfo) : State :=
  let x := s.launch l
  let s := s.setLaunch l { x with arrived := [] }
  x.arrived.foldl (fun s (k, a) =>
    let g := { s.group k with wait := .none }
    let i := { info with pc := a.pc, mask := if info.code = 0xC then 0 else g.liveLanes, async := true, atPc := true }
    if g.inh || !(s.team g.team).resident then s.setGroup k { g with asyncs := g.asyncs ++ [i] } else (s.setGroup k g).takeTrap k i) s

/-- The weights by slot of the arrived groups, in slot order. -/
def arrivedWeights (s : State) (l : Nat) : Tbl Nat :=
  (s.launch l).arrived.flatMap fun (k, a) => a.weights.map fun (lane, w) => (laneNumber s (s.group k) lane, w)

/-- The group that holds slot 0, whose PC, CORE and GSLOT an ancestor fault names (R297). -/
def ancestorFault (s : State) (l : Nat) (x : XFault) (addr : Nat) : State :=
  let k := (launchLane l ((s.launch l).record.width * 32) 0).1
  let g := s.group k
  (s.hold (s.vmidFunc (s.launch l).vmid) (s.groupRecord g g.slotA.pc x 5 addr 0 0) (.ancestor l)).1

/-- `RESAMPLE_COMMIT` of the launch at `focus`: the checks of R297, and what the commit is to do (R298). -/
def beginCommit (s : State) (l : Nat) : State :=
  let x := s.launch l
  if !commitReady s l then s
  else
    match x.arrived with
    | [] => s
    | (k, a) :: rest =>
      let ws := arrivedWeights s l
      let w := (ws.map fun p => p.2).sum
      if !x.deposit.isEmpty then trapArrived s l { code := 3 }
      else if (rest.any fun (_, b) => b.target != a.target || b.pc != a.pc || b.anc != a.anc || b.address != a.address) ||
          a.target = 0 || x.record.popCap < a.target then trapArrived s l { code := 7 }
      else if w = 0 then trapArrived s l { code := 8 }
      else
        let s := if !a.anc || a.address % 4 != 0 then s
          else s.walkedAll (s.group k).core x.asid ((CopyCmd.pages 130 a.address (4 * a.target)).map Prod.fst)
        let go (place : List (Nat × Nat × Option Nat)) : State :=
          let c : Commit := { target := a.target, anc := a.anc, address := a.address, weights := ws, total := w,
                              off := resampleOffset x.record.key (x.pop.seq + 1) w, pc := a.pc, place := place,
                              halted := ((s.launchGroups l).filter fun p => groupHalted s p.2).map Prod.fst }
          s.setLaunch l { x with commit := some c }
        if !a.anc then go []
        else if a.address % 4 != 0 then ancestorFault s l { cause := 1 } a.address
        else
          match s.intervals (s.group k).core x.asid .write (CopyCmd.pages 130 a.address (4 * a.target)) with
          | .error (e, addr) => ancestorFault s l e addr
          | .ok place => go place

/-- The resampled image that a lane receives: the old slot's group and lane, and the copy ordinal. -/
structure Image where
  group : Nat
  lane  : Nat
  slot  : Nat
  ord   : Nat

/-- A group after the commit: the images of its new slots, or dormancy (R299, Table 13.2). `old` gives a group as it
stood before, `seq` is n. DESIGN CHOICE (log 95): of a group that arrived in its handler the trap frame keeps the saved slot A, for its
new live lanes, and no stack entry. -/
def Group.resampled (g : Group) (old : Nat → Group) (images : List (Option Image)) (first seq : Nat) (pc : Word) : Group :=
  let at_ (l : Nat) : Option Image := (images.getD l none)
  let m := maskOf g.width fun l => (at_ l).isSome
  let fmt := g.dormFmt.getD g.slotA.fmt
  let of_ (p : Group → Nat → Nat) : Tbl Nat := laneTable m fun l => match at_ l with | some i => p (old i.group) i.lane | none => 0
  let names := ((images.filterMap id).flatMap fun i => (old i.group).vregs.keys).eraseDups
  let g := { g with
    exited := g.allLanes &&& ~~~m
    stack := [], deep := 0, deepKinds := [], loops := [], latch := [], q0 := none, q1 := none, windows := [], slotB := {}, wait := .none, stall := 0,
    vregs := names.foldl (fun t n => Tbl.set t n
      { vals := (List.range g.width).map fun l => match at_ l with | some i => ((old i.group).vreg n).vals.getD i.lane 0 | none => 0,
        poison := maskOf g.width fun l => match at_ l with | some i => ((old i.group).vreg n).poison.getLsbD i.lane | none => false }) []
    preds := (List.range 7).map fun n => maskOf g.width fun l => match at_ l with | some i => ((old i.group).pred n).getLsbD i.lane | none => false
    lin := laneTable m fun l => first + l + seq * 2 ^ 32
    par := of_ fun o l => o.lin.getD l 0
    ord := laneTable m fun l => ((at_ l).map Image.ord).getD 0
    oslot := laneTable m fun l => ((at_ l).map Image.slot).getD 0
    slotNo := laneTable m fun l => first + l }
  if m = 0 then { g with dormFmt := some fmt, slotA := {}, frame := none, inh := false, trapRegs := [] }
  else { g with dormFmt := none, frame := g.frame.map fun f => { f with slotA := { f.slotA with active := m, owned := m, rpc := rpcNone, join := false }, slotB := {}, depth := 0 }, slotA := { pc := pc + 12, rpc := rpcNone, fmt := fmt, active := m, owned := m } }

namespace State

/-- A team's scratchpad ranges are zero-filled (R299). -/
def zeroScratch (s : State) (t : Nat) : State :=
  let x := s.team t
  let fill (s : State) (k off : Nat) : State :=
    if x.spLen = 0 then s
    else
      let c := s.core k
      let out (a : Nat) : Bool := decide (a < off) || decide (off + x.spLen ≤ a)
      (s.setCore k { c with scratch := c.scratch.filter fun y => out y.1, spoison := c.spoison.filter fun w => out (4 * w) }
        ).wakeScratch k off x.spLen
  let s := fill s x.core x.spOff0
  if (s.launch x.launch).record.span then fill s (x.core + 1) x.spOff1 else s

/-- A team's windows are written back, then every word is invalid and clean (R299). -/
def resetWindows (s : State) (t : Nat) : State :=
  let s := s.writeBackAll (s.team t).core t
  let x := s.team t
  s.setTeam t { x with windows := x.windows.map fun w =>
    { w with valid := w.valid.map fun _ => false, dirty := w.dirty.map fun _ => false, want := [] } }

/-- A group whose names no longer fit its core's pool is spilled to the context image (R299; 04, R91). -/
def spillIfShort (s : State) (k : Nat) : State :=
  let g := s.group k
  let r := (s.launch (s.launchOf g)).record
  let excess := (g.nameCount - r.vfloor) * (g.width / 32)
  if excess = 0 || excess ≤ (s.setGroup k { g with vregs := [] }).poolFree g.core then s
  else spillGroup s k

end State

/-- The ancestor words, and the lines and logs they touch: the engine waits for them (R300). -/
def ancestorWaits (s : State) (l : Nat) (c : Commit) : State × Bool :=
  let fn := s.vmidFunc (s.launch l).vmid
  if c.place.any fun p => s.rangeBlocked none p.1 p.2.1 then (s, true)
  else if (c.place.any fun p => p.2.2.isSome) && s.logHolds fn then (s.logFullSet fn, true)
  else (s, false)

/-- Write the ancestor buffer: word j holds the old slot of new slot j (R300). -/
def writeAncestors (s : State) (l : Nat) (c : Commit) (olds : List Nat) : State :=
  let fn := s.vmidFunc (s.launch l).vmid
  let bytes := olds.flatMap fun o => toBytes 4 o
  (c.place.foldl (fun (s, o) p =>
    let s := match p.2.2 with | some ipa => s.noteLog fn ipa p.2.1 | none => s
    (s.homeWrites none none (cellsAt p.1 ((bytes.drop o).take p.2.1)), o + p.2.1)) (s, 0)).1

/-- The commit's effects and its end (R299–R301): the barriers are tested without the groups that are dormant now (R294; 12, R286), and
groups of a core that was halted meanwhile halt (R308). -/
def endCommit (s : State) (l : Nat) (c : Commit) : State :=
  let x := s.launch l
  let width := x.record.width * 32
  let slots := c.weights.keys
  let counts := copyCounts c.target c.total c.off 0 c.weights.values
  let news := placements slots counts
  let gs := s.launchGroups l
  let frees (k : Nat) : List Nat := lastFrees (s.waitCtx k)
  let old (k : Nat) : Group := let g := s.group k; { g with vregs := (g.spilled.getD g.vregs).filter fun p => !(frees k).contains p.1 }
  let image (j : Nat) : Option Image := (news[j]?).map fun (i, o) =>
    let (k, lane) := launchLane l width i
    { group := k, lane := lane, slot := i, ord := o }
  let teams := (gs.map fun p => p.2.team).eraseDups
  let s := if c.anc then writeAncestors s l c (news.map Prod.fst) else s
  let s := gs.foldl (fun s (k, g) =>
    let first := s.launchNumber g * width
    s.setGroup k ({ g with spilled := none }.resampled old ((List.range g.width).map fun i => image (first + i)) first (x.pop.seq + 1) c.pc)) s
  let s := gs.foldl (fun s (k, _) => s.spillIfShort k) s
  let s := teams.foldl (fun s t => (s.resetWindows t).zeroScratch t) s
  let x := s.launch l
  let pop : Population := { live := c.target, seq := x.pop.seq + 1, total := c.total, off := c.off, surv := counts.countP (· != 0) }
  let s := s.setLaunch l { x with commit := none, arrived := [], pop := pop }
  let s := teams.foldl testBarriers s
  let s := gs.foldl (fun s p => s.traceMasks p.2 (s.group p.1)) s
  let s := (s.launchGroups l).foldl (fun s p => if groupHalted s p.2 && !c.halted.contains p.1 then s.traceStop p.2 0 else s) s
  let s := s.count l 11 c.weights.length
  if c.anc then s.count l 13 (4 * c.target) else s

/-- What the Tilth engine leaves in one of its steps, unless the step spills groups to an image whose pages' log holds writes: it waits then
(R299; 10, R237). -/
def spillsHeld (s : State) (l : Nat) (t : State) : State :=
  let fn := s.vmidFunc (s.launch l).vmid
  if (t.launchGroups l).any fun g => g.2.spilled.isSome && (s.group g.1).spilled.isNone && poolWaits s fn (s.team g.2.team).image then s.logFullSet fn
  else t

/-- `RESAMPLE_COMMIT` (R297, R298) of the launch at `focus`. -/
def execResampleCommit (s : State) : Host.Outcome State Fault Refusal := .next (beginCommit s s.focus)

/-- `RESAMPLE_COMMIT_END` (R299–R301) of the launch at `focus`, once the window and ancestor writes need not wait. -/
def execResampleCommitEnd (s : State) : Host.Outcome State Fault Refusal :=
  .next (match (s.launch s.focus).commit with
    | none => s
    | some c =>
      if !s.partRuns (s.launch s.focus).part then s
      else
        match ancestorWaits s s.focus c with
        | (s, true) => s
        | (s, false) =>
          let teams := ((s.launchGroups s.focus).map fun p => p.2.team).eraseDups
          if teams.any fun t =>
              let x := s.team t
              ((teamCores s x).any fun k => (s.releaseLines k t false).any (s.lineBlocked (some k))) || x.windows.any (s.dirtyClaimed x) ||
                s.windowLogHolds t fun _ => true then s
          else spillsHeld s s.focus (endCommit s s.focus c))

/-! ## `reorder` (R302–R305) -/

/-- The continuation PC of a `reorder` (R302). -/
def continuation (c : Ctx) : Word := target c c.f.aux

/-- The operand rule of R302 on vB. -/
def reorderOperands (c : Ctx) (n : Nat) : Bool := n == 3 && c.f.fn != 0 && (!c.opB.isVec || c.opB.perm != 0)

/-- The checks of R303. -/
def reorderChecks (c : Ctx) : Option TrapInfo :=
  let p := c.f.fn.toNat
  let l := c.launch
  firstTrap
    [(!c.record.coop || decide (2097152 < c.record.teams * c.record.slots * 32), c.illegalConv), wholeGroup c,
     (c.g.loops.any (·.opened), c.loopMisuse),
     (p != 0 && decide (c.record.vregs < c.opB.index + p), c.illegalOperand 3),
     (l.passOn && (l.passPc != continuation c || l.passP != p), c.trap 7)]

/-- What a lane deposits (R303). -/
def depositOf (c : Ctx) (l : Nat) : Deposit :=
  { key := (c.srcA.at l).toNat % 2 ^ 16, payload := (List.range c.f.fn.toNat).map fun i => (nextReg c c.opB i).at l,
    q := laneNumber c.s c.g l, lin := c.g.lin.getD l 0, par := c.g.par.getD l 0, ord := c.g.ord.getD l 0, slotNo := c.g.slotNo.getD l 0 }

def execReorder (f : Fields) (s : State) : Host.Outcome State Fault Refusal :=
  .next (issue 0x281 f reorderChecks noNames
    (fun c =>
      afterRelease c true false 0x05 fun s =>
        let l := s.launch c.launchKey
        let s := s.setLaunch c.launchKey
          { l with deposit := l.deposit ++ (lanesOf c.act).map (depositOf c), passPc := continuation c, passP := f.fn.toNat, passOn := true }
        exitLanes c (c.count 11 c.lanes s) c.act) s reorderOperands)

/-- Insert a deposit by key, then by launch lane. -/
def insertBy (le : Deposit → Deposit → Bool) (x : Deposit) : List Deposit → List Deposit
  | [] => [x]
  | y :: ys => if le x y then x :: y :: ys else y :: insertBy le x ys

/-- Deposits by key, stably in increasing q (R304). -/
def sortDeposits (ds : List Deposit) : List Deposit :=
  ds.foldr (insertBy fun x y => decide (x.key < y.key) || (x.key == y.key && decide (x.q ≤ y.q))) []

/-- The emitted sequence: the full groups of each key first, then the rest (R304). -/
def emitOrder (width : Nat) (ds : List Deposit) : List Deposit :=
  let sorted := sortDeposits ds
  let keys := (sorted.map (·.key)).eraseDups
  let of_ (k : Nat) : List Deposit := sorted.filter fun d => d.key == k
  let full (k : Nat) : Nat := (of_ k).length / width * width
  (keys.flatMap fun k => (of_ k).take (full k)) ++ keys.flatMap fun k => (of_ k).drop (full k)

/-- The pass can close: every lane of the launch has exited or deposited, and what its groups issued has completed
(R303, R304); no clock of its cores stands still, and no quiesce has begun (01, R18; 16, R366). -/
def passReady (s : State) (l : Nat) : Bool :=
  let x := s.launch l
  x.stage == .admitted && x.passOn && x.commit.isNone && x.next == x.record.teams && (s.func (s.vmidFunc x.vmid)).runs && s.partRuns x.part &&
  (s.launchGroups l).all fun p => p.2.exited == p.2.allLanes && !p.2.windows.any fun w => !w.done

/-- A group that receives entries starts again (R305). -/
def Group.relaunched (g : Group) (l : Launch) (es : List Deposit) (first : Nat) : Group :=
  let m := maskOf g.width fun i => decide (i < es.length)
  let at_ (i : Nat) : Deposit := es.getD i { key := 0, payload := [], q := 0, lin := 0, par := 0, ord := 0, slotNo := 0 }
  let name (p : Deposit → Word) : VReg := { vals := (List.range g.width).map fun i => if i < es.length then p (at_ i) else 0, poison := 0 }
  { g with
    exited := g.allLanes &&& ~~~m
    slotA := { pc := l.passPc, rpc := rpcNone, fmt := formatBits l.record.fmtInit, active := m, owned := m }
    slotB := {}
    vregs := (0, name fun d => BitVec.ofNat 32 d.key) :: (List.range l.passP).map fun i => (i + 1, name fun d => d.payload.getD i 0)
    sregs := startScalars l
    spoison := 0
    preds := [], loops := [], latch := [], q0 := none, q1 := none, windows := [], stack := [], deep := 0, deepKinds := [], spill := .none
    lin := laneTable m fun i => (at_ i).lin
    par := laneTable m fun i => (at_ i).par
    ord := laneTable m fun i => (at_ i).ord
    oslot := laneTable m fun i => (at_ i).slotNo
    slotNo := laneTable m fun i => first + i
    dormFmt := none, spilled := none, wait := .none, stall := 0x15, inh := false, trapRegs := [], frame := none, trap := none, replay := none,
    ended := false, lastB := true }

/-- The relaunch (R304, R305). A group of a team that had exited starts when its team is placed again (log 20). -/
def closePass (s : State) (l : Nat) : State :=
  let x := s.launch l
  let width := x.record.width * 32
  let seq := emitOrder width x.deposit
  let s := (s.launchGroups l).foldl (fun s (k, g) =>
    let first := s.launchNumber g * width
    let es := (seq.drop first).take width
    if es.isEmpty then s
    else
      let was := g.ended
      let s := (s.setGroup k (g.relaunched x es first)).spillIfShort k
      let s := s.traceMasks g (s.group k)
      let t := s.team g.team
      if t.resident then (if was then s.joinSched k else s)
      else s.setTeam g.team { t with exited := false, evicted := true }) s
  let teams := ((s.launchGroups l).map fun p => p.2.team).eraseDups
  let s := teams.foldl (fun s t => s.setTeam t { s.team t with barriers := [] }) s
  let y := s.launch l
  s.setLaunch l { y with deposit := [], passOn := false,
                         pop := if x.record.pop then { y.pop with live := x.deposit.length } else y.pop }

/-- `REORDER_PASS_CLOSE` (R304, R305) of the launch at `focus`. -/
def execReorderPassClose (s : State) : Host.Outcome State Fault Refusal :=
  .next (if passReady s s.focus then spillsHeld s s.focus (closePass s s.focus) else s)

/-! ## Queries (R306, R307) -/

/-- The value `popq` reads (Table 13.3). -/
def popqValue (l : Launch) (sel : Nat) : Nat :=
  match sel with
  | 0 => if l.record.pop then l.pop.live else 0
  | 1 => if l.record.pop then l.pop.seq else 0
  | 2 => if l.record.pop then l.record.popCap else 0
  | 3 => if l.record.pop then bitsOf l.pop.total 31 0 else 0
  | 4 => if l.record.pop then bitsOf l.pop.total 63 32 else 0
  | 5 => if l.record.pop then bitsOf l.pop.off 31 0 else 0
  | 6 => if l.record.pop then bitsOf l.pop.off 63 32 else 0
  | 7 => if l.record.pop then l.pop.surv else 0
  | _ => if l.record.coop then l.deposit.length else 0

/-- D of a query with a lookahead window: s0 to s59, a vector name or a RW special register (R306). -/
def queryDest (o : Opnd) : Bool := o.isVec || (o.isScalar && (decide (o.index ≤ 59) || decide (64 ≤ o.index)))

/-- A uniform word read with a lookahead window, with the counter it adds to. -/
def queryWord (c : Ctx) (x : Word) (tally : List (Nat × Nat)) : Res :=
  .next (c.s.setGroup c.k (c.g.openWindow c.opc c.f.la.toNat c.b (if c.any then [windowDest c (spread c x)] else [])
    (if c.any then tally else [])))

def execPopq (f : Fields) (s : State) : Host.Outcome State Fault Refusal :=
  .next (issue 0x282 f noChecks destName
    (fun c => queryWord c (BitVec.ofNat 32 (popqValue c.launch f.fn.toNat)) [(11, if c.opD.isVec then c.lanes else 1)]) s
    fun c n => n == 1 && !queryDest c.opD)

/-- A lane's value of `lineage`; +0 outside a population and from a lane that is not live (R293, R307). -/
def lineageOf (c : Ctx) (t : Tbl Nat) (l : Nat) : Nat := if c.record.pop && !c.g.exited.getLsbD l then t.getD l 0 else 0

def execLineage (f : Fields) (s : State) : Host.Outcome State Fault Refusal :=
  .next (issue 0x283 f
    noChecks
    (fun c => if f.fn == 2 then destName c else [c.opD.index, c.opD.index + 1])
    (fun c =>
      if !c.any then .next c.s
      else
        let lanes (p : Nat → Word) : Value := .lanes c.g.width p
        let out (g : Group) : Res := .next (c.count 11 c.lanes (c.s.setGroup c.k g))
        if f.fn == 2 then
          let v := lanes fun l => BitVec.ofNat 32 (lineageOf c c.g.oslot l)
          out (shiftResult (putDest c.g c.b c.act c.opD v) c.act v)
        else
          let t := if f.fn == 0 then c.g.lin else c.g.par
          let g := putDest c.g c.b c.act c.opD (lanes fun l => half (lineageOf c t l) false)
          out (putDest g c.b c.act { c.opD with index := c.opD.index + 1 } (lanes fun l => half (lineageOf c t l) true))) s
    fun c n => n == 1 && if f.fn == 2 then !(c.opD.isVec || c.opD.isQ0) else !(c.opD.isVec && decide (c.opD.index + 1 < c.record.vregs)))

end Sys2Proof.Machine
end

