-- ==== Sys2Proof/Machine/Network.lean ====
section
/-! DEFINITION. The network instructions (14, R330–R333). -/

namespace Sys2Proof.Machine

/-- Requests of a group that have not completed: of one queue, or of all (14, R332). -/
def postedOpen (s : State) (k : Nat) (queue : Option Nat) : Bool :=
  s.nets.any fun n => n.2.queues.any fun q =>
    (match queue with | some x => x == q.1 | none => q.1 != 16) && q.2.reqs.any fun r => r.group == k && r.peer.isNone

/-- The operand rule of R331. -/
def nwrOperands (c : Ctx) (n : Nat) : Bool :=
  n == 2 && if bitOf c.f.fn.toNat 4 then !(c.opA.isScalar && decide (c.opA.index ≤ 44)) else vectorValued c.g c.b c.opA

/-- `nwr`: the release of R324, the request as registers or scratchpad hold it, and a place in the queue (R331). -/
def execNwr (f : Fields) (s : State) : Host.Outcome State Fault Refusal :=
  .next (issue 0x2A0 f noChecks noNames
    (fun c =>
      if !c.any then .next c.s
      else
        let reg := bitOf f.fn.toNat 4
        let q := f.fnBits 3 0
        let sa := (c.srcA.at 0).toNat
        if !reg && sa % 64 != 0 then holdWhole c c.s { cause := 1 } 0 sa
        else if !reg && !c.s.spAllowed c.g.core c.asid sa 64 then holdWhole c c.s { cause := 2 } 0 sa
        else
          match c.s.netOf c.asid with
          | none => holdWhole c c.s { cause := 4 } 1 (if reg then 0 else sa)
          | some n =>
            if 64 ≤ ((c.s.net n).queues.getD q {}).reqs.length then .wait c.s 0x0F
            else
              afterRelease c true true 0x10 fun s =>
                let (k, off) := State.spPlace c.g.core sa
                match (if reg then (s, false) else s.askFill k off 64) with
                | (s, true) => .wait s 0x10
                | (s, false) =>
                  if !reg && s.spClaimed k off 64 then .wait s 0x10
                  else
                    let raw := if reg then ((List.range 16).map fun i => ((nextReg c c.opA i).at 0).toNat * 2 ^ (32 * i)).sum
                               else ofBytes (s.spBytes k off 64)
                    .next (s.postReq n q { raw := raw, group := c.k, launch := c.launchKey, pc := c.pc, serial := 0, place := some (c.g.core, c.g.sched * 24 + c.g.units.headD 0) })) s nwrOperands)

/-- `nfence`: the group waits until what it posted has completed (R332). -/
def execNfence (f : Fields) (s : State) : Host.Outcome State Fault Refusal :=
  .next (issue 0x2A1 f noChecks noNames
    (fun c =>
      let queue := if bitOf f.fn.toNat 4 then none else some (f.fnBits 3 0)
      if c.any && postedOpen c.s c.k queue then .stay (c.s.startWait c (.nfence queue) 0x09) else .next c.s) s)

/-- The value `nstat` reads of a queue (R333). -/
def nstatValue (q : SendQueue) (sel : Nat) : Nat :=
  match sel with
  | 0 => q.reqs.length
  | 1 => 64 - q.reqs.length
  | 2 => q.code
  | _ => min q.errors 0xFFFFFFFF

def execNstat (f : Fields) (s : State) : Host.Outcome State Fault Refusal :=
  .next (issue 0x2A2 f noChecks destName
    (fun c =>
      let x := match c.s.netOf c.asid with
        | some n => nstatValue ((c.s.net n).queues.getD (f.fnBits 3 0) {}) (f.fnBits 5 4)
        | none => 0
      queryWord c (BitVec.ofNat 32 x) [(11, if c.opD.isVec then c.lanes else 1)]) s plainDest)

/-- Groups whose `nfence` is satisfied go on (R332). -/
def testFences (s : State) : State :=
  s.groups.foldl (fun s (k, _) =>
    match (s.group k).wait with
    | .nfence q => if postedOpen s k q then s else s.release k
    | _ => s) s

end Sys2Proof.Machine
end

