-- ==== Sys2Proof/Machine/System.lean ====
section
/-! DEFINITION. The system instructions (15, R349–R360). -/

namespace Sys2Proof.Machine

/-! ## Traps, the return and the trap registers -/

/-- `trap` (R350). -/
def execTrap (f : Fields) (s : State) : Host.Outcome State Fault Refusal :=
  .next (issue 0x2C0 f noChecks noNames
    (fun c => if c.any then .trap (c.trap 0xB 0 (word f.aux.toNat)) else .next c.s) s)

/-- The checks of `rte` (R351). -/
def rteChecks (c : Ctx) : Option TrapInfo :=
  firstTrap [(!c.g.inh, c.illegalInstr 0), (c.g.live true || c.g.depth != c.g.baseDepth, c.illegalConv)]

/-- `rte`: the return of R338. What every issued word does to the latch and the windows is the handler's, and ends with
it. -/
def execRte (f : Fields) (s : State) : Host.Outcome State Fault Refusal :=
  .next (issue 0x2C1 f rteChecks noNames
    (fun c =>
      if !c.any then .next c.s
      else
        let s := c.s.returnTrap c.k
        let s := match s.groups.find? c.k with
          | some g => s.setGroup c.k { g with issued := true, issuedAt := some c.s.now, went := true, stall := 0 }
          | none => s
        .stay (s.traceIssue c.g (s.group c.k) c.b true)) s)

/-- The group halts before its next instruction (R350, R359; 17, R391). -/
def haltAfter (c : Ctx) : Res := .next (c.s.setGroup c.k { c.s.group c.k with halted := true })

/-- `bkpt`: a halt where the context's debug enable is 1, else the breakpoint trap (R350). -/
def execBkpt (f : Fields) (s : State) : Host.Outcome State Fault Refusal :=
  .next (issue 0x2C2 f noChecks noNames
    (fun c =>
      if !c.any then .next c.s
      else if (c.s.func (c.s.vmidFunc c.launch.vmid)).dbgEn then haltAfter c
      else .trap (c.trap 0xA 0 (word f.aux.toNat))) s)

/-- `rdsr` (R352). -/
def execRdsr (f : Fields) (s : State) : Host.Outcome State Fault Refusal :=
  .next (issue 0x2C3 f
    (fun c => firstTrap [(decide (10 < f.aux.toNat), c.illegalOperand 5)]) destName
    (fun c => giveResult c (spread c (c.g.trapRegs.getD f.aux.toNat 0))) s fun c n => n == 1 && (readDestBad c || c.opD.hold))

/-- `wrsr`: TRESUME takes the low two bits of A (R352). -/
def execWrsr (f : Fields) (s : State) : Host.Outcome State Fault Refusal :=
  .next (issue 0x2C4 f
    (fun c => firstTrap
      [((c.srcA.at 0).toNat % 4 == 3, c.illegalOperand 2),
       (f.aux != 9 || !c.g.inh, c.illegalOperand 5)])
    noNames
    (fun c =>
      if !c.any then .next c.s
      else .next (c.s.setGroup c.k { c.g with trapRegs := c.g.trapRegs.set 9 (word ((c.srcA.at 0).toNat % 4)) })) s uniformA)

/-! ## Cache maintenance -/

/-- The physical ranges of a virtual range, page by page; a page that does not translate is skipped (R353). -/
def translatedRanges (s : State) (core asid base len : Nat) : List (Nat × Nat) :=
  (CopyCmd.pages (len / 65536 + 2) base len).filterMap fun p =>
    match s.translatePlain core asid p.1 .read with
    | .ok x => some (x.pa, p.2)
    | .error _ => none

/-- The operand rules of `cwb`, `cinv` and `tlbi`. -/
def rangeOperands (c : Ctx) : Nat → Bool := fieldsBad [pairRule c.opA 2, uniformRule c c.opB 3]

/-- Write the dirty bytes of a range back, once nothing holds their lines, and go on with the ranges. -/
def writeBackRange (c : Ctx) (k : State → List (Nat × Nat) → State) : Res :=
  if !c.any then .next c.s
  else
    let c := c.walked ((CopyCmd.pages ((c.srcB.at 0).toNat / 65536 + 2) (pairValue c c.opA) (c.srcB.at 0).toNat).map Prod.fst)
    let rs := translatedRanges c.s c.g.core c.asid (pairValue c c.opA) (c.srcB.at 0).toNat
    let inside (a : Nat) : Bool := rs.any fun r => decide (r.1 ≤ a) && decide (a < r.1 + r.2)
    if ((c.s.core c.g.core).l1.filter fun x => inside x.1).any fun x => c.s.lineBlocked (some c.g.core) (lineOf x.1) then .wait c.s 0x10
    else .next (k (c.s.flushBytes c.g.core inside) rs)

def execCwb (f : Fields) (s : State) : Host.Outcome State Fault Refusal :=
  .next (issue 0x2C8 f noChecks noNames (fun c => writeBackRange c fun s _ => s) s rangeOperands)

/-- `cinv`: the lines of the range leave the L1; dirty bytes of a line that the range only touches are written back
before it goes (R353). -/
def execCinv (f : Fields) (s : State) : Host.Outcome State Fault Refusal :=
  .next (issue 0x2C9 f noChecks noNames
    (fun c => writeBackRange c fun s rs =>
      let gone (l : Nat) : Bool := rs.any fun r => r.2 != 0 && decide (lineOf r.1 ≤ l) && decide (l ≤ lineOf (r.1 + r.2 - 1))
      let s := s.flushBytes c.g.core fun a => gone (lineOf a)
      let k := s.core c.g.core
      s.setCore c.g.core { k with lines := k.lines.filter fun l => !gone l, misses := k.misses.filter fun l => !gone l }) s rangeOperands)

/-- `icinv` (R354). -/
def execIcinv (f : Fields) (s : State) : Host.Outcome State Fault Refusal :=
  .next (issue 0x2CA f noChecks noNames
    (fun c =>
      let x := c.s.core c.g.core
      .next (if c.any then c.s.setCore c.g.core { x with icache := [], s0 := { x.s0 with loopBuf := [] }, s1 := { x.s1 with loopBuf := [] } }
        else c.s)) s)

/-- `fbar`: what both slots have fetched is discarded (R355). -/
def execFbar (f : Fields) (s : State) : Host.Outcome State Fault Refusal :=
  .next (issue 0x2CB f noChecks noNames
    (fun c =>
      if c.any then .next (c.s.setGroup c.k { c.g with slotA := { c.g.slotA with stream := [] }, slotB := { c.g.slotB with stream := [] } })
      else .next c.s) s)

/-! ## Submission, counters, trace, halt -/

/-- `launch` (R356; 03, R58). -/
def execLaunch (f : Fields) (s : State) : Host.Outcome State Fault Refusal :=
  .next (issue 0x2D0 f noChecks noNames
    (fun c =>
      if !c.any then .next c.s
      else
        afterRelease c true true 0x10 fun s =>
          let n := (c.srcA.at 0).toNat
          let q := s.queue n
          if 131071 < n || !q.devsub || q.asid != c.asid || q.vmid != c.launch.vmid then holdWhole c s { cause := 4 } 1 (8 * n)
          else .next (s.notify c.launch.vmid n (c.srcB.at 0).toNat)) s fun c => fieldsBad [uniformRule c c.opA 2, uniformRule c c.opB 3])

/-- An earlier instruction of the group has not retired (R357; 17, R380). -/
def unretired (s : State) (k : Nat) : Bool :=
  let g := s.group k
  g.outstanding || s.peersOpen k || (s.core g.core).mq.any fun e => e.group == k

/-- The operand rule of R357: D is an even scalar up to s58, or a vector name with the next below VREGS. -/
def mtrdOperands (c : Ctx) (n : Nat) : Bool :=
  n == 1 && !((c.opD.isScalar && decide (c.opD.index ≤ 58) && c.opD.index % 2 == 0) || (c.opD.isVec && decide (c.opD.index + 1 < c.record.vregs)))

/-- `mtrd` (R357). -/
def execMtrd (f : Fields) (s : State) : Host.Outcome State Fault Refusal :=
  .next (issue 0x2D8 f
    noChecks
    (fun c => if c.opD.isVec then [c.opD.index, c.opD.index + 1] else [])
    (fun c =>
      if c.any && unretired c.s c.k then .wait c.s 0x13
      else
        let x := c.launch.ctrs.getD f.aux.toNat 0
        let dest (i : Nat) (w : Word) : WinDest :=
          { name := if c.opD.isVec then .v (c.opD.index + i) else .s (c.opD.index + i), lanes := c.act, vals := (spread c w).vals, poison := 0 }
        .next (c.s.setGroup c.k (c.g.openWindow c.opc f.la.toNat c.b (if c.any then [dest 0 (half x false), dest 1 (half x true)] else [])))) s mtrdOperands)

/-- `tmark` (R358; 17, Table 17.4). -/
def execTmark (f : Fields) (s : State) : Host.Outcome State Fault Refusal :=
  .next (issue 0x2D9 f noChecks noNames
    (fun c => if c.any then .next (c.s.emit c.g c.g (traceRecord 3 0 3 f.aux.toNat)) else .next c.s) s)

/-- `halt` (R359). -/
def execHalt (f : Fields) (s : State) : Host.Outcome State Fault Refusal :=
  .next (issue 0x2E0 f noChecks noNames (fun c => if c.any then haltAfter c else .next c.s) s)

/-! ## Invalidation of translations (03, R65–R67; 15, R360) -/

/-- What an invalidation names (03, Table 3.8). -/
structure Tlbi where
  kind  : Nat
  asid  : Nat
  vmid  : Nat
  addr  : Nat
  count : Nat

/-- The range of 64 KiB pages that the invalidation names meets the `n` bytes at `a` (03, R67). -/
def Tlbi.overlaps (x : Tlbi) (a n : Nat) : Bool :=
  let count := if x.count = 0 then 65536 else x.count
  decide (a < (x.addr / 65536 + count) * 65536) && decide (x.addr / 65536 * 65536 < a + n)

/-- A cached translation that the invalidation covers. An entry joins both stages, so KIND 3, which takes with it every
stage-1 entry of the VMID, covers every entry of the VMID. -/
def Tlbi.covers (x : Tlbi) (e : TlbEntry) : Bool :=
  match x.kind with
  | 0 => e.vmid == x.vmid
  | 1 => e.asid == x.asid
  | 2 => e.asid == x.asid && x.overlaps (e.page * 2 ^ e.shift) (2 ^ e.shift)
  | 3 => e.vmid == x.vmid
  | _ => true

/-- A table entry cached by the walkers that the invalidation covers. -/
def Tlbi.coversWalk (x : Tlbi) (e : WalkEntry) : Bool :=
  let sh := Xlat.tableShift e.level
  match x.kind with
  | 0 => e.vmid == x.vmid
  | 1 => e.stage == 1 && e.asid == x.asid
  | 2 => e.stage == 1 && e.asid == x.asid && x.overlaps (e.prefix_ * 2 ^ sh) (2 ^ sh)
  | 3 => e.vmid == x.vmid && (e.stage == 1 || x.overlaps (e.prefix_ * 2 ^ sh) (2 ^ sh))
  | _ => true

/-- The address spaces an invalidation concerns. -/
def Tlbi.coversSpace (s : State) (x : Tlbi) (asid : Nat) : Bool :=
  match x.kind with
  | 0 => (s.space asid).vmid == x.vmid
  | 1 => asid == x.asid
  | 2 => asid == x.asid
  | 3 => (s.space asid).vmid == x.vmid
  | _ => true

namespace State

/-- Drop every cached translation that the invalidation covers. -/
def dropTlb (s : State) (x : Tlbi) : State :=
  { s with ctlb := s.ctlb.mapVals fun _ t => t.filter fun e => !x.covers e
           walkers := s.walkers.mapVals fun _ t => t.filter fun e => !x.coversWalk e
           cores := s.cores.mapVals fun _ (c : Core) => { c with tlb := c.tlb.filter fun e => !x.covers e } }

/-- An MMA that locks pages under old translations, or a commit that has translated its ancestor buffer, has still to complete (03, R66). -/
def lockedPages (s : State) (x : Tlbi) : Bool :=
  (s.launches.any fun l => ((l.2.commit.map (·.anc)).getD false) && x.coversSpace s l.2.asid) ||
  s.cores.any fun c => c.2.mq.any fun e => !e.pages.isEmpty && x.coversSpace s (s.launch e.launch).asid

/-- An access to a peer's page made under an old translation is still on its way (03, R66; 14, R325). -/
def peersLeft (s : State) (x : Tlbi) : Bool :=
  s.nets.any fun n => n.2.queues.any fun q => q.2.reqs.any fun r => r.peer.isSome && r.ending.isNone && x.coversSpace s (s.launch r.launch).asid

/-- An invalidation done: records that waited for a translation of their ring slot are tried again (03, R72). -/
def tlbiDone (s : State) (x : Tlbi) : State :=
  { s with funcs := s.funcs.mapVals fun n (f : Func) =>
      if f.fqBlocked && (x.kind == 4 || ((s.funcVmid n).map fun v =>
          v == (if x.kind == 1 || x.kind == 2 then (s.space x.asid).vmid else x.vmid)).getD false)
      then { f with fqBlocked := false } else f }

end State

/-- The invalidation of a `tlbi`. -/
def tlbiOf (c : Ctx) : Tlbi :=
  let b := (c.srcB.at 0).toNat
  { kind := c.f.fnBits 2 0, asid := b % 16384, vmid := b % 256, addr := pairValue c c.opA, count := c.f.aux.toNat }

/-- `tlbi` (R360). -/
def execTlbi (f : Fields) (s : State) : Host.Outcome State Fault Refusal :=
  .next (issue 0x2E1 f
    (fun c => firstTrap [(c.launch.vmid != 0, c.illegalInstr 0)]) noNames
    (fun c =>
      if !c.any then .next c.s
      else
        let x := tlbiOf c
        let s := c.s.dropTlb x
        if c.g.outstanding || s.peersOpen c.k || s.peersLeft x || s.lockedPages x then .wait s 0x13 else .next (s.tlbiDone x)) s rangeOperands)

end Sys2Proof.Machine
end

