-- ==== Sys2Proof/Machine/Registers.lean ====
section
/-! DEFINITION. The package as the host sees it: boot and identity, partitions and clocks, the thermal trip, plain register
writes, and readback (01, R14–R26; 00, R4–R6; 17, R393, R394). -/

namespace Sys2Proof.Machine

/-! ## Boot and identity (01, R24, R25) -/

/-- The PF's flash-update path: the module flash holds another firmware image from now on (01, R24). -/
def State.updateFlash (s : State) (image : List (List Byte)) (version : Nat) : State :=
  { s with root := { s.root with flash := image, version := version } }

/-- The machine after a module reset: as after power-on, but for the flash and what the root of trust keeps over power loss (log 87). -/
def State.moduleReset (s : State) : State :=
  { State.reset with
    agenda := s.agenda, tick := s.tick, now := s.now, focus := s.focus, out := s.out
    root := { flash := s.root.flash, version := s.root.version, draws := s.root.draws }
    pkg := { signed := s.pkg.signed } }

/-- `BOOT`: the root of trust verifies and measures the firmware image and starts it, or the Bervel enters recovery mode; every
core holds split 0 (01, R24; 04, R84). A machine that has booted before is reset first: the event is then a module reset. -/
def execBoot (s : State) : Host.Outcome State Fault Refusal :=
  .next (
    let s := if s.root.running || s.root.recovery then s.moduleReset else s
    let s := { s with cores := s.cores.mapVals fun _ (c : Core) => { c with split := 0 } }
    if Config.firmwareVerifies s.root.flash.flatten && decide (Config.minSecurityVersion ≤ s.root.version) then
      { s with root := { s.root with running := true, measured := s.root.flash.map sha512 } }
    else { s with root := { s.root with recovery := true } })

/-- `SPDM_REQUEST`: certificates, a signed challenge, or the measurement blocks (01, R25); in recovery mode nothing answers (R24). The
layout of SPDM messages is not the spec's; the body is what they carry (log 21). -/
def execSpdmRequest (req : SpdmRequest) (s : State) : Host.Outcome State Fault Refusal :=
  let answer (body : List Byte) (signed : Bool) : State :=
    let sig := if signed then Config.sign 1 s.root.draws body else 0
    { s with out := s.out ++ [.spdm body sig], root := { s.root with draws := s.root.draws + b2n signed } }
  .next (if !s.root.running then s else match req with
    | .certificate => answer Config.certificateChain false
    | .challenge nonce => answer (toBytes 32 nonce) true
    | .measurements nonce => answer (toBytes 32 nonce ++ s.root.measured.flatMap (toBytes 64)) true)

/-! ## Partitions and clocks (01, R15, R18–R23) -/

/-- The package cores of a cluster set. -/
def clusterCores (m : Nat) : List Nat :=
  (List.range 32).flatMap fun c => if bitOf m c then (List.range 48).map fun i => 48 * c + i else []

/-- A launch of the partition has been taken and is not final (01, R15). -/
def partBusy (s : State) (n : Nat) : Bool :=
  s.launches.any fun l => l.2.part == n && (match l.2.stage with | .final _ => false | _ => true)

/-- Why a write of CLUSTERS is refused (01, R15; R24 for a package that has not booted). -/
def clustersRefused (s : State) (n value : Nat) : Bool :=
  let added := fun c => bitOf value c && !bitOf (s.part n).clusters c
  !s.root.running ||
  ((List.range 32).any fun c => added c && s.parts.any fun p => p.1 != n && bitOf p.2.clusters c) ||
  partBusy s n || (s.queues.any fun q => q.2.enable && q.2.part == n) || (s.part n).rstGo

/-- The dirty bytes of a core's L1 are written back, its L1 invalidated and its scratchpad zeroed (01, R15). -/
def State.clearCore (s : State) (c : Nat) : State :=
  let s := s.flushAll c
  s.setCore c { s.core c with lines := [], misses := [], invals := [], scratch := [], spoison := [] }

/-- `PART_CTL` (01, R15, Table 1.6). DESIGN CHOICE (log 88): ERR stays set through a later write that is accepted, until bit 33 is
written 1. -/
def execPartCtlWrite (n value : Nat) (s : State) : Host.Outcome State Fault Refusal :=
  let p := s.part n
  let new := bitsOf value 31 0
  let err := p.err && !bitOf value 33
  .next (
    if new = p.clusters then s.setPart n { p with err := err }
    else if clustersRefused s n new then s.setPart n { p with err := true }
    else
      let gone := (clusterCores p.clusters).filter fun c => !bitOf new (c / 48)
      let s := gone.foldl State.clearCore s
      s.setPart n { p with clusters := new, err := err, cursor := 0, claim := none, last := [131071, 131071, 131071, 131071] })

/-- A core belongs to partition `n`. -/
def coreIn (s : State) (n core : Nat) : Bool := bitOf (s.part n).clusters (core / 48)

/-- `PCLK_CTL` (01, R22). A step change abandons the pre-phases of the partition's cores (09, R212). -/
def execPclkCtlWrite (n value : Nat) (s : State) : Host.Outcome State Fault Refusal :=
  let p := s.part n
  let step := bitsOf value 1 0
  .next (if p.pending then s
    else
      let s' := s.setPart n { p with budget := bitsOf value 15 8, pending := step != p.step, asked := step }
      if step != p.step then abandonPhases s' fun k => coreIn s n (s.group k).core else s')

/-- `CLOCK_STEP_SWITCH` of the partition at `focus`: every started multiply has completed, and no commit of the Tilth engine
runs (01, R19; 13, R308). A copy chunk is one event, so copies stand at chunk boundaries. -/
def execClockStepSwitch (s : State) : Host.Outcome State Fault Refusal :=
  let n := s.focus
  let p := s.part n
  .next (
    if !p.pending || (s.cores.any fun c => coreIn s n c.1 && c.2.mq.any fun e => e.multiplying) ||
        s.launches.any fun l => l.2.part == n && l.2.commit.isSome then s
    else s.setPart n { p with pending := false, step := p.asked })

/-- The thermal trip, where TRIP_EN is 1 and TEMP has reached TRIP_C (01, R21). -/
def State.testTrip (s : State) : State :=
  if s.pkg.tripEn && decide (s.pkg.tripC ≤ s.pkg.temp) && !s.pkg.tripped then
    { s with pkg := { s.pkg with tripped := true }, out := s.out ++ [.management 0] }
  else s

/-- `THERMAL_SAMPLE` (01, R21, R23). -/
def execThermalSample (temp : Nat) (s : State) : Host.Outcome State Fault Refusal :=
  .next (State.testTrip { s with pkg := { s.pkg with temp := temp } })

/-- `THERM_CTL` (01, R21, Table 1.5). DESIGN CHOICE (log 88): a write that changes TRIP_C and writes 1 to TRIPPED compares TEMP with the
TRIP_C that it writes. -/
def execThermCtlWrite (value : Nat) (s : State) : Host.Outcome State Fault Refusal :=
  let tripC := bitsOf value 15 8
  let clear := bitOf value 1 && decide (s.pkg.temp < tripC)
  .next (State.testTrip { s with pkg :=
    { s.pkg with tripC := tripC, tripEn := bitOf value 0, tripped := s.pkg.tripped && !clear } })

/-! ## Plain register writes (00, R4–R6) -/

/-- The nearest value of a range (00, R6). -/
def clamp (lo hi x : Nat) : Nat := max lo (min hi x)

/-- A word of a function block that no event of its own writes (03, Table 3.2; 10, Table 10.6; 15, R345; 17, R387–R390). A
command register written without GO takes its fields and clears what is written 1 to clear. -/
def funcWrite (f : Func) (offset value : Nat) : Func :=
  match offset with
  | 0x60000 => { f with tlbiAddr := value / 65536 * 65536 }
  | 0x60008 =>
    if f.tlbiGo || bitOf value 0 then f
    else { f with tlbiAsid := bitsOf value 49 36, tlbiVmid := bitsOf value 35 28, tlbiCount := bitsOf value 27 12,
                  tlbiKind := bitsOf value 4 2, tlbiErr := f.tlbiErr && !bitOf value 1 }
  | 0x60080 => { f with aperture := value / 2 ^ 36 * 2 ^ 36 }
  | 0x600C0 => { f with logBase := value / 4096 * 4096 }
  | 0x60100 =>
    if f.evGo || bitOf value 63 then f
    else { f with evErr := f.evErr && !bitOf value 62, evPark := bitOf value 61, evQueue := bitsOf value 48 32, evIndex := bitsOf value 31 0 }
  | 0x60120 => { f with ctxPool := value / 65536 * 65536 }
  | 0x60128 => { f with ctxPoolSz := bitsOf value 31 0 }
  | 0x60140 => { f with profBase := value / 4096 * 4096 }
  | 0x60158 => { f with profCons := bitsOf value 31 0 }
  | 0x60180 => { f with trcBase := value / 4096 * 4096 }
  | 0x601A0 => { f with trcSel0 := bitsOf value 48 0 }
  | 0x601A8 => { f with trcSel1 := bitsOf value 36 0 }
  | 0x601C0 => { f with dbgEn := bitOf value 0 }
  | 0x601C8 =>
    if f.dbgGo then { f with dbgErr := true }
    else if bitOf value 63 then f
    else { f with dbgErr := f.dbgErr && !bitOf value 62, dbgCmd := bitsOf value 59 56, dbgCore := bitsOf value 42 32,
                  dbgGslot := bitsOf value 29 24, dbgSlot := bitOf value 23, dbgLane := bitsOf value 22 16 }
  | 0x601D0 => { f with dbgArg := value }
  | _ => f

/-- Words 1 to 3 of an address range entry whose ENABLE is 0 (10, R230, R231). CH_LOG above 5 stores 5 (00, R6); GRAN above 8 is
stored, since check 2 of Table 10.3 refuses it (R231). -/
def rangeWrite (r : RangeEntry) (word value : Nat) : RangeEntry :=
  if r.enable then r
  else
    match word with
    | 1 => { r with keySlot := bitsOf value 63 60, conf := bitOf value 59, part := bitsOf value 55 52, sliceLog := bitsOf value 51 49,
                    sliceBase := bitsOf value 48 42, chLog := min 5 (bitsOf value 41 39), chBase := bitsOf value 38 34,
                    stackLog := bitsOf value 33 32, stackBase := bitsOf value 31 29, gran := bitsOf value 28 25 }
    | 2 => { r with dramOff := bitsOf value 39 29, base := putBits r.base 23 0 (bitsOf value 63 40) }
    | 3 => { r with base := putBits r.base 35 24 (bitsOf value 11 0), limit := bitsOf value 51 16 }
    | _ => r

/-- A word of an address space entry (03, R60, Table 3.4): a VF reaches S1_ROOT and VALID of its own VMID's entries. -/
def spaceWrite (s : State) (func n word value : Nat) : State :=
  let e := s.space n
  if func != 0 && s.funcVmid func != some e.vmid then s
  else
    let e := match word with
      | 0 => { e with valid := bitOf value 0, vmid := if func = 0 then bitsOf value 23 16 else e.vmid }
      | _ => { e with root := bitsOf value 51 0 }
    { s with spaces := s.spaces.set n e }

/-- A word of a VMID entry (03, Table 3.5). -/
def vmidWrite (s : State) (n word value : Nat) : State :=
  let e := s.vm n
  let e := match word with
    | 0 => { e with valid := bitOf value 0, part := bitsOf value 19 16, func := bitsOf value 39 32 }
    | _ => { e with root := bitsOf value 51 0 }
  { s with vmids := s.vmids.set n e }

/-- Words 1 to 3 of a VDN entry (14, Table 14.2): they take effect at the next commit. -/
def vdnWrite (e : VdnEntry) (word value : Nat) : VdnEntry :=
  match word with
  | 1 => { e with ports := bitsOf value 15 0, pid := bitsOf value 29 20, jobid := bitsOf value 63 40 }
  | 2 => { e with fep := putBits e.fep 63 0 value }
  | 3 => { e with fep := putBits e.fep 127 64 value }
  | _ => e

/-- A word of a network context entry (14, Table 14.3); a write of VALID clears the error state of its queues (R333). -/
def netWrite (x : NetCtx) (word value : Nat) : NetCtx :=
  match word with
  | 0 =>
    if !bitOf value 0 then x
    else if x.valid then { x with queues := x.queues.mapVals fun _ (q : SendQueue) => { q with code := 0, errors := 0 } }
    else { x with valid := true, state := 0, queues := x.queues.filter (fun q => q.1 == 16), rx := [], ctrs := [], chain := {} }
  | 1 => { x with asid := bitsOf value 63 50 }
  | 2 => { x with rxSlot := min 4 (bitsOf value 63 60), rxSize := bitsOf value 59 56, jobid := bitsOf value 55 32, selfVdn := bitsOf value 31 20 }
  | 3 => { x with rxBase := value }
  | 4 => { x with rxProd := value }
  | 5 => { x with fwdPid := bitsOf value 31 22 }
  | 6 => { x with fwdFep := putBits x.fwdFep 63 0 value }
  | _ => { x with fwdFep := putBits x.fwdFep 127 64 value }

/-- A word of a Marl block (16, Tables 16.1 and 16.2); GO with the reserved MODE is refused, and a write of GO while GO reads 1 is
ignored (R363). A write without GO takes its fields whether a round runs or not. -/
def marlWrite (x : Stack) (offset value : Nat) : Stack :=
  match offset with
  | 0x00 =>
    let refused := bitOf value 63 && bitsOf value 61 60 == 3
    if bitOf value 63 && (x.go || !refused) then x
    else { x with err := (x.err && !bitOf value 62) || refused, mode := bitsOf value 61 60, dstVdn := bitsOf value 47 36, mctx := bitsOf value 25 16 }
  | 0x08 => { x with src := bitsOf value 51 16 }
  | 0x10 => { x with lim := bitsOf value 51 16 }
  | 0x18 => { x with dst := value / 65536 * 65536 }
  | _ => x

/-- VFCTL's RW and W1C fields as written (16, Table 16.3). -/
def vfctlFields (f : Func) (value : Nat) : Func := { f with vfErr := f.vfErr && !bitOf value 62, vfCmd := bitsOf value 59 56 }

/-- A word of a queue descriptor whose ENABLE is 0 (03, R49, Table 3.3). -/
def queueWrite (q : Queue) (word value : Nat) : Queue :=
  if q.enable then q
  else
    match word with
    | 0 => { q with vmid := bitsOf value 63 56, part := bitsOf value 55 52, size := bitsOf value 51 48, prio := bitsOf value 3 2, devsub := bitOf value 1 }
    | 1 => { q with asid := bitsOf value 17 4, ring := putBits q.ring 31 0 (bitsOf value 63 32) }
    | 2 => { q with ring := putBits q.ring 53 32 (bitsOf value 21 0) }
    | _ => q

/-- The fields of RPT_CMD: KIND, QUEUE and INDEX; the bits that R383 gives to no field read 0 (log 88). -/
def rptFields (value : Nat) : Nat := bitsOf value 31 0 + bitsOf value 48 32 * 2 ^ 32 + bitsOf value 61 60 * 2 ^ 60

/-- A register of the package that stands alone (14, Table 14.1; 16, R374, R378; 17, R383, Table 17.6). -/
def pkgWrite (p : PkgRegs) (offset value : Nat) : PkgRegs :=
  match offset with
  | 0x130000 => { p with movedMax := bitsOf value 39 32, rtoUs := bitsOf value 31 16, retryMax := bitsOf value 7 0 }
  | 0x150000 => { p with errBase := value / 4096 * 4096 }
  | 0x150018 => { p with errCons := bitsOf value 31 0 }
  | 0x150030 => { p with scrubDays := bitsOf value 7 0 }
  | 0x180000 => { p with rptBase := value / 4096 * 4096 }
  | 0x180020 => if bitOf value 63 then p else { p with rptErr := p.rptErr && !bitOf value 62, rptCmd := rptFields value }
  | 0x180028 => if bitOf value 63 then p else { p with jobErr := p.jobErr && !bitOf value 62, jobPid := bitsOf value 9 0 }
  | 0x190000 => { p with notHalted := p.notHalted && !bitOf value 0 }
  | _ => p

/-- Bits [63:0] of a queue descriptor with ENABLE changed have events of their own. -/
def queueWordHere (q : Queue) (word value : Nat) : Bool := word != 0 || (!bitOf value 0 && !q.enable)

/-- A reset of a partition begins, with its cause: its cores stop, and multiply phases and copy chunks are cut off (16, R372, step 1). -/
def State.beginReset (s : State) (n cause : Nat) : State :=
  if (s.part n).rstGo then s
  else
    { s.setPart n { s.part n with rstGo := true, rstNext := cause } with
      cores := s.cores.mapVals fun c (k : Core) => if coreIn s n c then { k with mq := [], copies := [] } else k }

/-- `REGISTER_WRITE`: an aligned 8-byte write through BAR0 to a register that has no event of its own (00, R4–R6; 03, R47,
R48; 17, Table 17.6). A VF has its function block and its view of the address space table. -/
def registerWrite (s : State) (func offset value : Nat) : State :=
  let n (base size : Nat) : Nat := (offset - base) / size
  let w (size : Nat) : Nat := offset % size / 8
  if offset % 8 != 0 || !s.answers func then s
  else if 0x60000 ≤ offset && offset < 0x70000 then s.setFunc func (funcWrite (s.func func) offset value)
  else if 0x80000 ≤ offset && offset < 0xC0000 then spaceWrite s func (n 0x80000 16) (w 16) value
  else if func != 0 then s
  else if 0x20000 ≤ offset && offset < 0x20200 then s.setRange (n 0x20000 32) (rangeWrite (s.range (n 0x20000 32)) (w 32) value)
  else if 0xC0000 ≤ offset && offset < 0xC1000 then vmidWrite s (n 0xC0000 16) (w 16) value
  else if 0x100000 ≤ offset && offset < 0x120000 then s.setVdn (n 0x100000 32) (vdnWrite (s.vdn (n 0x100000 32)) (w 32) value)
  else if 0x120000 ≤ offset && offset < 0x130000 then s.setNet (n 0x120000 64) (netWrite (s.net (n 0x120000 64)) (w 64) value)
  else if 0x140000 ≤ offset && offset < 0x140800 then
    s.setDie (n 0x140000 0x100) (marlWrite (s.die (n 0x140000 0x100)) (offset % 0x100) value)
  else if 0x160000 ≤ offset && offset < 0x160080 then if bitOf value 63 then s.beginReset (n 0x160000 8) 0 else s
  else if 0x170008 ≤ offset && offset < 0x170800 then
    if bitOf value 63 then s else s.setFunc (n 0x170000 8) (vfctlFields (s.func (n 0x170000 8)) value)
  else if 0x180100 ≤ offset && offset < 0x180180 then
    s.setPart (n 0x180100 8) { s.part (n 0x180100 8) with period := min 11 (bitsOf value 3 0) }
  else if 0x1000000 ≤ offset && offset < 0x1400000 then
    let q := s.queue (n 0x1000000 32)
    if queueWordHere q (w 32) value then s.setQueue (n 0x1000000 32) (queueWrite q (w 32) value) else s
  else if 0x2000000 ≤ offset && offset < 0x3800000 && offset % 0x4000 = 8 then
    s.setCore (n 0x2000000 0x4000) { s.core (n 0x2000000 0x4000) with csel := bitsOf value 15 0 }
  else { s with pkg := pkgWrite s.pkg offset value }

def execRegisterWrite (func offset value : Nat) (s : State) : Host.Outcome State Fault Refusal := .next (registerWrite s func offset value)

/-! ## Readback (01, R26; 17, R394) -/

/-- The group in a group slot of a core (04, R75). -/
def groupAt (s : State) (core gslot : Nat) : Option (Nat × Group) :=
  List.find? (fun (p : Nat × Group) => p.2.core == core && p.2.sched * 24 + p.2.units.headD 24 == gslot && (s.team p.2.team).resident && !p.2.ended)
    s.groups

/-- Every long-latency instruction of the group has completed (17, R390). -/
def Group.stable (g : Group) : Bool := g.windows.all (·.done)

/-- Eight bytes of a page view, or none where the page counts as state of a core that is not halted (17, R394). -/
def pageRead (s : State) (core page off : Nat) : Option Nat :=
  let k := s.core core
  let whole (x : Nat) : Option Nat := if coreHalted s core then some x else none
  let ofGroup (gslot : Nat) (read : Group → Nat) : Option Nat :=
    match groupAt s core gslot with
    | some (_, g) => if groupHalted s g && g.stable then some (read g) else none
    | none => whole 0
  if page < 0xC then ofGroup (4 * page + off / 2048) fun g => (groupHeader (State.unspill g) >>> (8 * (off % 2048))) % 2 ^ 64
  else if 0x1000 ≤ page && page < 0x1000 + 16 * 48 then
    ofGroup ((page - 0x1000) / 16) fun g =>
      let v := (State.unspill g).vreg (16 * ((page - 0x1000) % 16) + off / 512)
      let l := off % 512 / 4
      (v.vals.getD l 0).toNat + (v.vals.getD (l + 1) 0).toNat * 2 ^ 32
  else if 0x2000 ≤ page && page < 0x2030 then
    let at_ := 8192 * (page - 0x2000) + off
    whole (if at_ < splitSize k.split then ofBytes (s.spBytes core at_ 8) else 0)
  else if 0x3000 ≤ page && page < 0x3020 then
    let t := tileOf s core ((page - 0x3000) / 4)
    let e := ((page - 0x3000) % 4 * 8192 + off) / 4
    whole ((t.elems.getD e 0).toNat + (t.elems.getD (e + 1) 0).toNat * 2 ^ 32)
  else if 0x4000 ≤ page && page < 0x4100 then whole (ofBytes (Memory.bytes k.kaolin (8192 * (page - 0x4000) + off) 8))
  else some 0

/-- `CSTAT`: HALT 1 halts every group of the core as a debug halt, those resumed since included; 0 after that
releases them all (17, R394; log 76). Pre-phases of the core are abandoned (09, R212);
a group whose launch is in a commit halts at its end (13, R308). -/
def execCstatWrite (core value : Nat) (s : State) : Host.Outcome State Fault Refusal :=
  let halt := bitOf value 1
  let here (g : Group) : Bool := g.core == core && (s.team g.team).resident && !g.ended
  let s' : State := { s.setCore core { s.core core with halt := halt } with
    groups := s.groups.mapVals fun _ (g : Group) => if here g then { g with resumed := false, halted := g.halted && (halt || !(s.core core).halt) } else g }
  .next (if halt then
      abandonPhases (s'.groups.foldl (fun t p => if here p.2 && !groupHalted s (s.group p.1) && groupHalted s' p.2 then t.traceStop p.2 0 else t) s')
        fun k => (s.group k).core == core
    else s')

end Sys2Proof.Machine
end

