-- ==== Sys2Proof/Machine/Reports.lean ====
section
/-! DEFINITION. Signed reports (17, R383–R386) and what the device itself reads and writes in memory on its own account. -/

namespace Sys2Proof.Machine

/-! ## The device's own accesses: at the home, as no core (12, R271, R275) -/

/-- The core number under which the device's own agents translate: of no core, so that each walk is made afresh. -/
def engineCore : Nat := 1536

/-- What a read of the device comes to, with the state once its walks are made: it waits for a line; a fault with its address; or the
bytes. -/
inductive EngineRead where
  | waits (s : State)
  | fault (s : State) (x : XFault) (addr : Nat)
  | ok (s : State) (bs : List Byte)

namespace State

/-- The walks of the device's own agents over some ranges of an address space. -/
def engineWalked (s : State) (asid : Nat) (ps : List (Nat × Nat)) : State := s.walkedAll engineCore asid (ps.map Prod.fst)

/-- Read `n` bytes at a virtual address of an address space, with system scope. -/
def engineRead (s : State) (asid va n : Nat) : EngineRead :=
  let s := s.engineWalked asid (CopyCmd.pages (n / 65536 + 2) va n)
  match s.intervals engineCore asid .read (CopyCmd.pages (n / 65536 + 2) va n) with
  | .error (x, a) => .fault s x a
  | .ok ps =>
    if ps.any fun p => s.rangeBlocked none p.1 p.2.1 then .waits s
    else
      let s := ps.foldl (fun s p => (linesOf p.1 p.2.1).foldl (fun s l => (s.mergeLine l).readLine l) s) s
      .ok s (ps.flatMap fun p => s.homeBytes p.1 p.2.1)

/-- Write bytes at translated places, noting the log; none where a line or the log makes them wait. -/
def engineWriteAt (s : State) (fn : Nat) (ps : List (Nat × Nat × Option Nat)) (bs : List Byte) : State × Bool :=
  if ps.any fun p => s.rangeBlocked none p.1 p.2.1 then (s, false)
  else if (ps.any fun p => p.2.2.isSome) && s.logHolds fn then (s.logFullSet fn, false)
  else
    ((ps.foldl (fun (acc : State × List Byte) p =>
      let s := acc.1
      let s := match p.2.2 with | some ipa => s.noteLog fn ipa p.2.1 | none => s
      let s := (linesOf p.1 p.2.1).foldl mergeLine s
      (s.homeWrites none none (cellsAt p.1 (acc.2.take p.2.1)), acc.2.drop p.2.1)) (s, bs)).1, true)

end State

/-! ## Records of the metering key (R384) -/

/-- The bits of a record's header (Table 17.2). -/
def reportHeader (s : State) (r : ReportReq) (devSeq ctxSeq status : Nat) : Nat :=
  let l := s.launch r.launch
  let net := r.kind != 1
  0x5254454D + 2 ^ 32 + b2n r.final * 2 ^ 48 + r.kind * 2 ^ 56 + (if r.final && !net then status else 0) * 2 ^ 128 +
    s.vmidFunc r.vmid * 2 ^ 144 + r.vmid * 2 ^ 152 + (if net then r.pid * 2 ^ 165 else l.queue * 2 ^ 175 + l.index * 2 ^ 192 + l.record.tag * 2 ^ 224) +
    sha512 Config.identityKey / 2 ^ 448 * 2 ^ 256 + 2 * s.now % 2 ^ 64 * 2 ^ 320 + ctxSeq % 2 ^ 64 * 2 ^ 384 + devSeq % 2 ^ 64 * 2 ^ 448

/-- The 64 words of a record's block: counters and the saturation word, or the words of a formation record, with the
hash of the chain's previous record in words 48 to 55 (R384, R386). -/
def reportBlock (r : ReportReq) (prev : Nat) : List Nat :=
  (List.range 64).map fun i =>
    if 48 ≤ i ∧ i < 56 then bitsOf prev (64 * (i - 48) + 63) (64 * (i - 48))
    else if r.kind ≤ 2 then (if i < 16 ∨ i = 63 then r.ctrs.getD i 0 else 0)
    else r.words.getD i 0

/-- The chain of a record's context. -/
def reportChain (s : State) (r : ReportReq) : Chain := if r.kind = 1 then (s.launch r.launch).chain else (s.net r.pid).chain

/-- The whole 1,088 bytes of a record. -/
def reportBytes (s : State) (r : ReportReq) (status : Nat) : List Byte :=
  let c := reportChain s r
  let body := toBytes 64 (reportHeader s r (Config.devSeqAtPowerOn + s.pkg.signed + 1) (c.seq + 1) status) ++
    (reportBlock r c.hash).flatMap (toBytes 8)
  body ++ toBytes 512 (Config.sign 2 s.root.draws body)

/-- The report ring takes records and has room. -/
def reportRoom (s : State) : Bool := s.pkg.rptEnable && decide (ringUsed s.pkg.rptProd s.pkg.rptCons < 2 ^ s.pkg.rptSize)

/-- FULL is set where the ring is on and has no room (R385). -/
def reportFull (s : State) : State := { s with pkg := { s.pkg with rptFull := s.pkg.rptFull || (s.pkg.rptEnable && !reportRoom s) } }

/-- Append a record whole, advance RPT_PROD and send vector 2 of the PF (R385); none while it has to wait. -/
def appendReport (s : State) (r : ReportReq) (status : Nat) : Option State :=
  let bs := reportBytes s r status
  let slot := s.pkg.rptBase + 2048 * (s.pkg.rptProd % 2 ^ s.pkg.rptSize)
  if !reportRoom s || s.ringWaits 0 (fun i => slot + i) bs.length then none
  else
    (s.ringWrite 0 (fun i => slot + i) bs).map fun s =>
      let chain (c : Chain) : Chain := { seq := c.seq + 1, hash := sha512 bs, closed := r.final }
      let s := if r.kind = 1 then s.setLaunch r.launch { s.launch r.launch with chain := chain (s.launch r.launch).chain }
               else s.setNet r.pid { s.net r.pid with chain := chain (s.net r.pid).chain }
      { s with pkg := { s.pkg with rptProd := (s.pkg.rptProd + 1) % 2 ^ 32, signed := s.pkg.signed + 1,
                                   rptGo := s.pkg.rptGo && r.go != 1, jobGo := s.pkg.jobGo && r.go != 2 }
               root := { s.root with draws := s.root.draws + 1 }
               out := s.out ++ [.msix 0 2] }

/-- The waiting records that the ring takes now, in order. -/
def drainReports : Nat → State → State
  | 0, s => s
  | fuel + 1, s =>
    match s.pkg.rptWait with
    | [] => s
    | r :: rest =>
      match appendReport s r 0 with
      | none => reportFull s
      | some s => drainReports fuel { s with pkg := { s.pkg with rptWait := rest } }

/-- Ask for a record: it is appended now, or waits its turn. -/
def askReport (s : State) (r : ReportReq) : State :=
  drainReports (s.pkg.rptWait.length + 1) { s with pkg := { s.pkg with rptWait := s.pkg.rptWait ++ [r] } }

/-! ## The registers (R383, R385, R386) -/

/-- A launch of a queue and index that is admitted and not final, and whose last report has not been made. -/
def reportable (s : State) (queue index : Nat) : Option (Nat × Launch) :=
  List.find? (fun (l : Nat × Launch) => l.2.queue == queue && l.2.index == index && !l.2.chain.closed &&
    (match l.2.stage with | .admitted => true | .finishing _ => l.2.order != 0 | _ => false)) s.launches

/-- STATE of the function bound to a VMID is 1 or 2 (R385). -/
def chainHeld (s : State) (vmid : Nat) : Bool :=
  (s.func (s.vmidFunc vmid)).stopped

/-- RPT_CMD as written: its fields, ERR cleared where written 1. -/
def rptCmdFields (s : State) (value : Nat) : State :=
  { s with pkg := { s.pkg with rptErr := s.pkg.rptErr && !bitOf value 62, rptCmd := rptFields value } }

/-- ERR of RPT_CMD. -/
def rptRefuse (s : State) : State := { s with pkg := { s.pkg with rptErr := true } }

/-- A write of RPT_CMD with GO and the KIND of the row takes place: GO reads 0. -/
def rptTakes (s : State) (value kind : Nat) : Bool := bitOf value 63 && !s.pkg.rptGo && bitsOf value 61 60 == kind

/-- `RPT_CMD` of KIND 0 (R385). -/
def execRptCmdLaunch (value : Nat) (s : State) : Host.Outcome State Fault Refusal :=
  .next (if !rptTakes s value 0 then s
    else
      let s := rptCmdFields s value
      match reportable s (bitsOf value 48 32) (bitsOf value 31 0) with
      | none => rptRefuse s
      | some (k, l) =>
        if chainHeld s l.vmid then rptRefuse s
        else askReport { s with pkg := { s.pkg with rptGo := true } }
          { kind := 1, final := false, launch := k, pid := 0, vmid := l.vmid, ctrs := l.ctrs, go := 1 })

/-- `RPT_CMD` of KIND 1 (R385). -/
def execRptCmdNetctx (value : Nat) (s : State) : Host.Outcome State Fault Refusal :=
  .next (if !rptTakes s value 1 then s
    else
      let s := rptCmdFields s value
      let n := bitsOf value 9 0
      let x := s.net n
      let vmid := (s.space x.asid).vmid
      if !x.valid || chainHeld s vmid then rptRefuse s
      else askReport { s with pkg := { s.pkg with rptGo := true } }
        { kind := 2, final := false, launch := 0, pid := n, vmid := vmid, ctrs := x.ctrs, go := 1 })

/-- `RPT_CMD` of KIND 2 or 3 (R383). -/
def execRptCmdRefused (value : Nat) (s : State) : Host.Outcome State Fault Refusal :=
  .next (if rptTakes s value 2 || rptTakes s value 3 then rptRefuse (rptCmdFields s value) else s)

/-- The words of a formation record of a network context (R386). -/
def formationWords (s : State) (n : Nat) : List Nat :=
  let x := s.net n
  let hash (h : Nat) : List Nat := (List.range 8).map fun i => bitsOf h (64 * i + 63) (64 * i)
  [x.jobid, x.selfVdn, n] ++ List.replicate 5 0 ++ hash (sha512 (s.root.measured.flatMap (fun m => (toBytes 64 m).reverse))) ++
    hash (sha512 Config.identityKey)

/-- `JOB_CMD` (R386). -/
def execJobCmd (value : Nat) (s : State) : Host.Outcome State Fault Refusal :=
  .next (if !bitOf value 63 || s.pkg.jobGo then s
    else
      let n := bitsOf value 9 0
      let s := { s with pkg := { s.pkg with jobErr := s.pkg.jobErr && !bitOf value 62, jobPid := n } }
      if !(s.net n).valid then { s with pkg := { s.pkg with jobErr := true } }
      else askReport { s with pkg := { s.pkg with jobGo := true } }
        { kind := 3, final := false, launch := 0, pid := n, vmid := (s.space (s.net n).asid).vmid, ctrs := [],
          words := formationWords s n, go := 2 })

/-- `RPT_CTL` (R383): a write of ENABLE 1 zeroes RPT_PROD. -/
def execRptCtlWrite (value : Nat) (s : State) : Host.Outcome State Fault Refusal :=
  .next (drainReports (s.pkg.rptWait.length) { s with pkg :=
    { s.pkg with rptSize := clamp 4 12 (bitsOf value 15 12), rptFull := s.pkg.rptFull && !bitOf value 1, rptEnable := bitOf value 0,
                 rptProd := if bitOf value 0 then 0 else s.pkg.rptProd } })

/-- `RPT_CONS` (R383, R385): slots come free for the records that wait. -/
def execRptConsWrite (value : Nat) (s : State) : Host.Outcome State Fault Refusal :=
  .next (drainReports (s.pkg.rptWait.length) { s with pkg := { s.pkg with rptCons := bitsOf value 31 0 } })

end Sys2Proof.Machine
end

