-- ==== Sys2Proof/Machine/Submission.lean ====
section
/-! DEFINITION. Submission: notify writes, queues, taking and checking records, dependence waits, the first offer, the final
state, and the aperture (02, R33–R35, R42–R45; 03, R46–R57). -/

namespace Sys2Proof.Machine

/-! ## The order of a queue (03, R54) -/

/-- The launch has been neither admitted nor rejected. -/
def Stage.before : Stage → Bool
  | .admitted => false
  | .finishing _ => false
  | .final _ => false
  | _ => true

/-- The head of a queue: the oldest of its launches that has been neither admitted nor rejected. -/
def headOf (s : State) (q : Nat) : Option (Nat × Launch) :=
  List.find? (fun (l : Nat × Launch) => l.2.queue == q && l.2.stage.before) s.launches

/-- The code of the first check of Table 2.6 that fails before any wait: 0x0100, 0x0101 or 0x0103 (02, R43). -/
def recordCheck (r : LaunchRec) (reserved : Bool) : Option Nat :=
  if r.format != 1 || reserved || r.sigAddr % 8 != 0 || r.wait1A % 8 != 0 || r.wait0A % 8 != 0 || r.stackA % 256 != 0 ||
      r.param % 64 != 0 || r.kimg % 256 != 0 then some 0x0100
  else if r.width = 0 || r.slots = 0 || 32 < r.slots || r.slots % r.width != 0 || r.vregs = 0 || 256 < r.vregs ||
      r.vregs < r.vfloor || r.teams = 0 then some 0x0101
  else if (r.pop && !r.coop) || (r.pop && (r.popCap != r.teams * r.slots * 32 || decide (2097152 < r.popCap))) ||
      (!r.pop && r.popCap != 0) then some 0x0103
  else none

/-- Set a launch's stage. -/
def State.setStage (s : State) (l : Nat) (st : Stage) : State := s.setLaunch l { s.launch l with stage := st }

/-- Where a counter lies; none where its address does not translate. -/
def counterPlace (s : State) (asid addr : Nat) : Option Nat :=
  if addr = 0 then none else match s.translatePlain engineCore asid addr .read with | .ok x => some x.pa | .error _ => none

/-- The heads of a queue that have not been checked are checked, each once the one before it is admitted or rejected (02,
R43; 03, R54). -/
def checkHeads : Nat → State → Nat → State
  | 0, s, _ => s
  | fuel + 1, s, q =>
    match headOf s q with
    | some (k, l) =>
      match l.stage with
      | .taken reserved =>
        match recordCheck l.record reserved with
        | none => s.setLaunch k { s.launch k with
            stage := if l.record.wait0A = 0 && l.record.wait1A = 0 then .eligible else .waiting
            place0 := counterPlace s l.asid l.record.wait0A, place1 := counterPlace s l.asid l.record.wait1A }
        | some code => checkHeads fuel (s.setStage k (.finishing code)) q
      | _ => s
    | none => s

/-- The head of a queue has been admitted or rejected: the next is checked. -/
def nextHead (s : State) (q : Nat) : State := checkHeads s.launches.length s q

/-- CONS advances while the record it names is final (03, R54). -/
def advanceCons : Nat → Queue → Queue
  | 0, q => q
  | n + 1, q => if q.finals.contains q.cons then advanceCons n { q with finals := q.finals.erase q.cons, cons := (q.cons + 1) % 2 ^ 32 } else q

/-- The STATUS of a record of a queue is final, or counts as final (03, R54, R56, R60; 02, R44). -/
def recordFinal (s : State) (q index : Nat) : State :=
  let x := s.queue q
  s.setQueue q (advanceCons (x.finals.length + 1) { x with finals := x.finals ++ [index] })

/-! ## Notify writes and queues (03, R49–R53) -/

/-- `NOTIFY_WRITE` through BAR2 (R52). -/
def execNotifyWrite (func offset width value : Nat) (s : State) : Host.Outcome State Fault Refusal :=
  let q := offset / 8
  .next (if !s.root.running then s
    else if (width = 8 || width = 4) && offset % 8 = 0 then
      match s.funcVmid func with
      | some v => s.notify v q value
      | none => if (s.queue q).enable then s.dropNotify else s
    else if (s.queue q).enable then s.dropNotify else s)

/-- The checks of ERROR codes 2 to 4, in order (R50). -/
def queueError (s : State) (x : Queue) : Nat :=
  let a := s.space x.asid
  if !a.valid || a.vmid != x.vmid then 2
  else if x.size < 4 || 15 < x.size then 3
  else if (s.part x.part).clusters = 0 then 4
  else 0

/-- A queue as it is enabled, with the indices it starts from (R50; 16, R368). DESIGN CHOICE (log 91): a stop at a ring-read fault ends
with the enabling; the fault stays held, and its acknowledgement then changes nothing of the queue. -/
def enableQueue (s : State) (q : Nat) (x : Queue) (taken cons prod : Nat) : State :=
  s.setQueue q { x with enable := true, taken := taken, cons := cons, prod := prod, error := queueError s x, held := none, finals := [],
                        epoch := s.serial, todo := 0 }

/-- A write that sets ENABLE: the word's fields, then the enable (R50). -/
def execQueueEnable (queue value : Nat) (s : State) : Host.Outcome State Fault Refusal :=
  let x := s.queue queue
  .next (if x.enable || !bitOf value 0 then s else enableQueue s queue (queueWrite x 0 value) 0 0 0)

/-- A write that clears ENABLE (R49, R50). -/
def execQueueDisable (queue : Nat) (s : State) : Host.Outcome State Fault Refusal :=
  let x := s.queue queue
  .next (if x.enable then s.setQueue queue { x with enable := false } else s)

/-! ## Taking a record (02, R42; 03, R53, R56, R60) -/

/-- A record of a fault of a queue or an engine: no group gives its PC, lanes and place. -/
def engineRecord (x : XFault) (access addr tag asid vmid : Nat) : FaultRec :=
  { addr := addr % 2 ^ 64, ipa := if x.stage = 2 then x.ipa else 0, tag := tag, asid := asid, vmid := vmid, level := x.level,
    stage := x.stage, access := access, replay := x.cause == 3 || x.cause == 6, cause := x.cause }

/-- The function of a VMID is neither quiesced nor on its way to it (16, R366). -/
def funcRuns (s : State) (vmid : Nat) : Bool := (s.func (s.vmidFunc vmid)).runs

/-- The queue takes a record now: its latest evaluation has one still to read (R53). -/
def queueTakes (s : State) (x : Queue) : Bool :=
  x.enable && x.error == 0 && x.held.isNone && decide (0 < x.todo) && funcRuns s x.vmid

/-- The address of the record at an index (R51). -/
def ringAddr (x : Queue) (index : Nat) : Nat := x.ring + 128 * (index % 2 ^ x.size)

/-- The index at TAKEN is passed over: it has no launch (R56). -/
def skipRecord (s : State) (q : Nat) : State :=
  let x := s.queue q
  recordFinal (s.setQueue q { x with taken := (x.taken + 1) % 2 ^ 32, todo := x.todo - 1, held := none }) q x.taken

/-- The launch that a record makes. -/
def launchOfRecord (q : Nat) (x : Queue) (bits : Nat) : Launch :=
  { queue := q, index := x.taken, recAddr := ringAddr x x.taken, record := LaunchRec.ofBits bits, asid := x.asid, vmid := x.vmid,
    part := x.part, prio := x.prio, stage := .taken (reservedRecord bits) }

/-- `TAKE_RECORD`. DESIGN CHOICE (log 91): all 128 B are read at one moment, so a record that is written meanwhile is read wholly as
it stands then; R42 lets each 8-byte word hold either value. -/
def execTakeRecord (queue : Nat) (s : State) : Host.Outcome State Fault Refusal :=
  let x := s.queue queue
  .next (if !queueTakes s x then s
    else
      if !(s.space x.asid).valid then
        let s := (s.report (s.vmidFunc x.vmid) (engineRecord { cause := 7 } 6 (ringAddr x x.taken) queue x.asid x.vmid)).1
        skipRecord s queue
      else
        match s.engineRead x.asid (ringAddr x x.taken) 128 with
        | .waits s => s
        | .fault s e _ =>
          let (s, seq) := s.hold (s.vmidFunc x.vmid) (engineRecord e 6 (ringAddr x x.taken) queue x.asid x.vmid) (.ring queue)
          s.setQueue queue { s.queue queue with held := some seq }
        | .ok s bs =>
          let s := s.setQueue queue { s.queue queue with taken := (x.taken + 1) % 2 ^ 32, todo := x.todo - 1 }
          let key := s.serial + 1
          nextHead ({ s with serial := key }.setLaunch key (launchOfRecord queue x (ofBytes bs))) queue)

/-! ## Dependence waits (02, R45) -/

/-- One wait of a launch: satisfied before, or by the counter as it reads now, with the counter's place. A read that has to wait decides
nothing; one that faults holds the launch. Its place, once found, is kept. -/
def testWait (s : State) (k : Nat) (l : Launch) (got : Bool) (place : Option Nat) (addr value : Nat) : State × Bool × Option Nat :=
  if got || addr = 0 then (s, true, none)
  else
    match s.engineRead l.asid addr 8 with
    | .waits s => (s, false, place)
    | .fault s x _ =>
      ((s.hold (s.vmidFunc l.vmid) (engineRecord x 8 addr l.record.tag l.asid l.vmid) (.dependence k)).1, false, place)
    | .ok s bs =>
      (s, decide (value ≤ ofBytes bs), counterPlace s l.asid addr)

/-- `DEPENDENCE_WAIT`: the waits of the queue's head are evaluated. From then on each write of a counter's line evaluates them too
(`State.noteCounters`). -/
def execDependenceWait (queue : Nat) (s : State) : Host.Outcome State Fault Refusal :=
  .next (match headOf s queue with
    | none => s
    | some (k, l) =>
      if l.stage != .waiting || (s.held.any fun h => h.at_ == .dependence k) || !funcRuns s l.vmid then s
      else
        let (s, a, p) := testWait s k l l.got0 l.place0 l.record.wait0A l.record.wait0V
        let (s, b, q) := if s.held.any fun h => h.at_ == .dependence k then (s, l.got1, l.place1)
                         else testWait s k l l.got1 l.place1 l.record.wait1A l.record.wait1V
        s.setLaunch k { s.launch k with got0 := a, got1 := b, place0 := p, place1 := q, stage := if a && b then .eligible else .waiting })

/-! ## The first offer (02, R33, R35, R43; 03, R55) -/

/-- The distance of a queue above the one whose head was admitted last, wrapping at 131,072. -/
def turnOf (last q : Nat) : Nat := (q + 131072 - last - 1) % 131072

/-- A launch is offered before another: by priority, then by the turn of its queue (03, R55). -/
def offeredBefore (p : Part) (a b : Launch) : Bool :=
  decide (b.prio < a.prio) || (a.prio == b.prio &&
    decide (turnOf (p.last.getD a.prio 131071) a.queue < turnOf (p.last.getD b.prio 131071) b.queue))

/-- Put a launch into a list in the order in which heads are offered. -/
def insertHead (p : Part) (x : Nat × Launch) : List (Nat × Launch) → List (Nat × Launch)
  | [] => [x]
  | y :: ys => if offeredBefore p x.2 y.2 then x :: y :: ys else y :: insertHead p x ys

/-- The eligible heads of a partition's queues, in the order in which they are offered. -/
def offers (s : State) (part : Nat) : List (Nat × Launch) :=
  (s.launches.filter fun (l : Nat × Launch) => l.2.part == part && (l.2.stage == .eligible || l.2.stage == .offered) && funcRuns s l.2.vmid).foldl
    (fun acc l => insertHead (s.part part) l acc) []

/-- The tensor shape records of an image's table, in increasing register order (02, R34). -/
def tableRecords (mask : Nat) (bs : List Byte) : Tbl Nat :=
  let regs := (List.range 16).filter (bitOf mask)
  regs.zipIdx.map fun (n, i) => (n, ofBytes ((bs.drop (64 * i)).take 64))

/-- What the reads of the first offer come to: they wait, the launch is rejected, or it holds its tensor records and
parameters. -/
inductive Offer where
  | waits (s : State)
  | reject (s : State) (code : Nat)
  | ok (s : State) (trecs : Tbl Nat) (params : List Word)

/-- The header read of R35 and the pass of R33 over the tensor table and the parameter block. -/
def offerReads (s : State) (l : Launch) : Offer :=
  let r := l.record
  match s.engineRead l.asid r.kimg 64 with
  | .waits s => .waits s
  | .fault s _ _ => .reject s 0x0102
  | .ok s head =>
    let h := ofBytes head
    let mask := bitsOf h 367 352
    if bitsOf h 31 0 != 0x4B425844 || bitsOf h 47 32 != 1 || r.entry.toNat % 12 != 0 || r.handler.toNat % 12 != 0 then .reject s 0x0102
    else
      match s.engineRead l.asid (r.kimg + bitsOf h 351 320) (64 * popCount mask 16) with
      | .waits s => .waits s
      | .fault s _ _ => .reject s 0x0102
      | .ok s table =>
        match s.engineRead l.asid r.param (if r.param = 0 then 0 else 64) with
        | .waits s => .waits s
        | .fault s _ _ => .reject s 0x0106
        | .ok s block =>
          .ok s (tableRecords mask table) (if r.param = 0 then []
            else (List.range 16).map fun i => BitVec.ofNat 32 (ofBytes ((block.drop (4 * i)).take 4)))

/-- `HEAD_OFFER` in the partition at `focus`: the first eligible head that has not been offered is read. -/
def execHeadOffer (s : State) : Host.Outcome State Fault Refusal :=
  .next (match (offers s s.focus).find? fun l => l.2.stage == .eligible with
    | none => s
    | some (k, l) =>
      match offerReads s l with
      | .waits s => s
      | .reject s code => nextHead (s.setStage k (.finishing code)) l.queue
      | .ok s trecs params => s.setLaunch k { s.launch k with stage := .offered, trecs := trecs, params := params })

/-! ## The final state (02, R44; 17, R385) -/

/-- Requests of the network that a launch posted and that have not completed. -/
def launchPosted (s : State) (k : Nat) : Bool :=
  s.nets.any fun n => n.2.queues.any fun q => q.2.reqs.any fun r => r.launch == k

/-- The cores on which teams of a launch ran. -/
def launchCores (s : State) (k : Nat) : List Nat :=
  ((s.teams.filter fun t => t.2.launch == k && t.2.placed).flatMap fun t => teamCores s t.2).eraseDups

/-- Some dirty line that a launch's release has to write waits. -/
def coresBlocked (s : State) (cs : List Nat) : Bool :=
  cs.any fun c => ((s.core c).l1.any fun x => s.lineBlocked (some c) (lineOf x.1)) || (s.core c).silt.any fun l => s.lineBlocked (some c) l.line

/-- A device write of the final state: it waits, is held by a fault, or is made. -/
def finalWrite (s : State) (l : Launch) (addr : Nat) (bs : List Byte) (access : Nat) (at_ : HeldAt) : State × Bool :=
  let s := s.engineWalked l.asid (CopyCmd.pages 2 addr bs.length)
  match s.intervals engineCore l.asid .write (CopyCmd.pages 2 addr bs.length) with
  | .error (x, _) => ((s.hold (s.vmidFunc l.vmid) (engineRecord x access addr l.record.tag l.asid l.vmid) at_).1, false)
  | .ok ps => s.engineWriteAt (s.vmidFunc l.vmid) ps bs

/-- The launch is gone: its teams and groups with it. -/
def State.forgetLaunch (s : State) (k : Nat) : State :=
  { s with launches := s.launches.erase k
           teams := s.teams.filter fun t => t.2.launch != k
           groups := s.groups.filter fun g => s.launchOf g.2 != k
           saved := s.saved.filter fun t => t.1 / 2 ^ 32 != k
           savedCopies := s.savedCopies.filter fun t => t.1 / 2 ^ 32 != k }

/-- One step of the final state after another, until one has to wait. -/
def finalSteps : Nat → State → Nat → State
  | 0, s, _ => s
  | fuel + 1, s, k =>
    let l := s.launch k
    let code := match l.stage with | .finishing c => c | .final c => c | _ => 0
    let go (s : State) (at_ : FinalStep) : State := finalSteps fuel (s.setLaunch k { s.launch k with finalAt := at_ }) k
    match l.finalAt with
    | .report =>
      if !s.pkg.rptEnable then go s .status
      else if !s.pkg.rptWait.isEmpty then reportFull s
      else
        match appendReport s { kind := 1, final := true, launch := k, pid := 0, vmid := l.vmid, ctrs := l.ctrs } code with
        | none => reportFull s
        | some s => go s .status
    | .status =>
      if s.held.any fun h => h.at_ == .status k then s
      else
        match finalWrite s l (l.recAddr + 112) (toBytes 4 code) 1 (.status k) with
        | (s, false) => s
        | (s, true) => go (recordFinalOf (s.setStage k (.final code)) k) .signal
    | .signal =>
      let a := l.record.sigAddr
      if a = 0 || a % 8 != 0 then go s .done
      else if s.held.any fun h => h.at_ == .signal k then s
      else
        let fn := s.vmidFunc l.vmid
        let s := s.closeLog fn
        if !(s.func fn).logQueue.isEmpty then s
        else
          match s.engineRead l.asid a 8 with
          | .waits s => s
          | .fault s x _ => (s.hold fn (engineRecord x 8 a l.record.tag l.asid l.vmid) (.signal k)).1
          | .ok s bs =>
            match finalWrite s l a (toBytes 8 ((ofBytes bs + l.record.sigInc) % 2 ^ 64)) 8 (.signal k) with
            | (s, false) => s
            | (s, true) => go s .done
    | .done => if s.pkg.rptWait.any fun r => r.kind == 1 && r.launch == k then s else s.forgetLaunch k
where
  /-- The record of a launch of the queue's present enabling is final. -/
  recordFinalOf (s : State) (k : Nat) : State :=
    let l := s.launch k
    if (s.queue l.queue).epoch < k then recordFinal s l.queue l.index else s

/-- The launch may take the steps of its final state: every effect of it is made (R44, R385). -/
def finalReady (s : State) (k : Nat) : Bool :=
  (match (s.launch k).stage with | .finishing _ => true | .final _ => true | _ => false) &&
  (s.teams.all fun t => t.2.launch != k || !(t.2.resident || (t.2.evicted && !t.2.exited))) && !launchPosted s k && funcRuns s (s.launch k).vmid

/-- `LAUNCH_FINAL` of the launch at `focus`. Its writes that are still in an L1 reach their homes first. -/
def execLaunchFinal (s : State) : Host.Outcome State Fault Refusal :=
  let k := s.focus
  .next (if !finalReady s k then s
    else
      let cs := launchCores s k
      if coresBlocked s cs then s
      else
        let s := cs.foldl (fun s c => (s.mergeSilt c fun _ => true).flushAll c) s
        finalSteps 5 s k)

/-! ## The aperture (03, R48) -/

/-- The bytes of a host access, each where stage 2 of the function puts it. -/
def aperturePlaces (s : State) (func addr len : Nat) (acc : Access) : Except XFault (List Xlat) :=
  match len with
  | 0 => .ok []
  | n + 1 =>
    match s.translateFunc func addr acc with
    | .error x => .error x
    | .ok x =>
      if x.kind = 0 then (aperturePlaces s func (addr + 1) n acc).map (x :: ·)
      else .error { cause := 4, stage := 2, level := x.level, ipa := x.ipa }

/-- A host access to a notify page: an aligned 8-byte read, or a write that R52 accepts (03, R64). -/
def apertureSlot (s : State) (func addr len : Nat) (write : Bool) : Option (Nat × Nat) :=
  match s.translateFunc func addr (if write then .write else .read), s.funcVmid func with
  | .ok x, some v =>
    if x.kind = 2 && addr % 8 = 0 && (len = 8 || (write && len = 4)) then some (v, x.pa % 2 ^ 20 / 8) else none
  | _, _ => none

/-- `APERTURE_ACCESS`: a read (`data` none) or a write, with system scope. While the partition that owns the lines is being reset, reads return
all ones and writes are dropped (16, R372). -/
def execApertureAccess (func offset len : Nat) (data : Option (List Byte)) (s : State) : Host.Outcome State Fault Refusal :=
  let addr := (s.func func).aperture + offset
  let n := match data with | some bs => bs.length | none => len
  let answer (s : State) (bs : List Byte) : State := { s with out := s.out ++ [.hostRead bs] }
  .next (if !s.root.running then s
    else
      let s := (CopyCmd.pages (n / 65536 + 2) addr n).foldl (fun s p => s.walkedFunc func p.1) s
      match apertureSlot s func addr n data.isSome, data with
      | some (v, q), some bs => s.notify v q (ofBytes bs)
      | some (_, q), none => answer s (toBytes 8 (s.queue q).prod)
      | none, _ =>
        match aperturePlaces s func addr n (if data.isSome then .write else .read) with
        | .error x =>
          let s := (s.report func (engineRecord x 7 offset 0 0 ((s.funcVmid func).getD 0))).1
          (match data with | some _ => s | none => answer s (List.replicate n 0xFF))
        | .ok ps =>
          let places := ps.map fun x => (x.pa, 1, if x.log then some x.ipa else none)
          let resetting := places.any fun p => match s.rangeOf p.1 with | some (_, r) => (s.part r.part).rstGo | none => false
          match data with
          | some bs => if resetting then s else (s.engineWriteAt func places bs).1
          | none =>
            if resetting then answer s (List.replicate n 0xFF)
            else if places.any fun p => s.rangeBlocked none p.1 1 then s
            else
              let s := ((ps.map fun x => lineOf x.pa).eraseDups).foldl (fun s l => (s.mergeLine l).readLine l) s
              answer s (ps.map fun x => s.homeByte x.pa))

end Sys2Proof.Machine
end

