-- ==== Sys2Proof/Machine/Completion.lean ====
section
/-! DEFINITION. How a work request ends: its fields (14, Table 14.4), its completion counters, its errors and its metering (R318, R323,
R325, R329). -/

namespace Sys2Proof.Machine

namespace WorkReq

/-! ## Fields (Table 14.4) -/

def op (r : WorkReq) : Nat := bitsOf r.raw 3 0
def mode (r : WorkReq) : Nat := bitsOf r.raw 7 6
def psz (r : WorkReq) : Nat := bitsOf r.raw 9 8
def atype (r : WorkReq) : Nat := bitsOf r.raw 11 10
def atop (r : WorkReq) : Nat := bitsOf r.raw 14 12
def fence (r : WorkReq) : Bool := bitOf r.raw 15
def vdn (r : WorkReq) : Nat := bitsOf r.raw 27 16
def length (r : WorkReq) : Nat := bitsOf r.raw 63 32
def laddr (r : WorkReq) : Nat := bitsOf r.raw 127 64
def raddr (r : WorkReq) : Nat := bitsOf r.raw 191 128
def lctr (r : WorkReq) : Nat := bitsOf r.raw 255 192
def rctr (r : WorkReq) : Nat := bitsOf r.raw 319 256
def ectr (r : WorkReq) : Nat := bitsOf r.raw 383 320
def opnd (r : WorkReq) : Nat := bitsOf r.raw 415 384
def anew (r : WorkReq) : Nat := bitsOf r.raw 479 448

/-- It is malformed: code 1 (R318). -/
def malformed (r : WorkReq) : Bool :=
  decide (3 < r.op) || r.mode == 3 || r.psz == 3 || r.atype == 3 || bitsOf r.raw 5 4 != 0 || bitsOf r.raw 31 28 != 0 ||
  bitsOf r.raw 447 416 != 0 || bitsOf r.raw 511 480 != 0 || r.laddr % 4 != 0 || (r.op != 3 && r.raddr % 4 != 0) || r.lctr % 8 != 0 ||
  r.rctr % 8 != 0 || r.ectr % 8 != 0 || decide (2 ^ 31 < r.length) ||
  (r.op == 2 && (r.length != 4 || r.mode == 1 || (r.atype == 2 && [3, 4, 5, 7].contains r.atop)))

/-- Bytes of a packet, and how many packets carry `n` bytes (R319). -/
def packet (r : WorkReq) : Nat := 1024 * 2 ^ r.psz
def packets (n p : Nat) : Nat := max 1 ((n + p - 1) / p)

/-- Network bytes sent and received as it completes (R329). -/
def sent (r : WorkReq) : Nat := match r.op with | 1 => 0 | 2 => if r.atop = 7 then 8 else 4 | _ => r.length
def received (r : WorkReq) : Nat := match r.op with | 1 => r.length | 2 => 4 | _ => 0

end WorkReq

/-- A request of a queue by its serial number. -/
def reqOf (s : State) (p q serial : Nat) : Option WorkReq := ((s.net p).queues.getD q {}).reqs.find? fun r => r.serial == serial

/-- Change or drop the requests of a queue. -/
def changeReqs (s : State) (p q : Nat) (f : WorkReq → Option WorkReq) : State :=
  let x := s.net p
  let sq := x.queues.getD q {}
  s.setNet p { x with queues := x.queues.set q { sq with reqs := sq.reqs.filterMap f } }

/-- Replace a request, by its serial number. -/
def setReq (s : State) (p q : Nat) (r : WorkReq) : State := changeReqs s p q fun x => some (if x.serial == r.serial then r else x)

/-- Remove a request; groups that waited for it alone go on (R332). -/
def dropReq (s : State) (p q serial : Nat) : State := testFences (changeReqs s p q fun x => if x.serial == serial then none else some x)

/-- A fault at the sender holds its queue: one record with LANES 0 and the place of the posting `nwr` (R323). -/
def stallReq (s : State) (p q : Nat) (r : WorkReq) (x : XFault) (access addr : Nat) : State :=
  let fn := s.vmidFunc (s.space (s.net p).asid).vmid
  let e := s.groupRecord (s.group r.group) r.pc x access addr 0 0
  let e := match r.place with | none => e | some (core, gslot) => { e with core := core, gslot := gslot }
  let (s, seq) := s.hold fn e (.send p q)
  setReq s p q { r with stalled := some seq }

/-- One is added to the 64-bit counter at a virtual address, atomically and as a `.sys` release (R320, R323, R324). -/
inductive Bump where
  | waits (s : State)
  | fault (s : State) (x : XFault)
  | ok (s : State)

def bump (s : State) (asid addr : Nat) : Bump :=
  let vmid := (s.space asid).vmid
  let fn := s.vmidFunc vmid
  let s := (s.closeLog fn).engineWalked asid [(addr, 8)]
  match s.intervals engineCore asid .write [(addr, 8)] with
  | .error (x, _) => .fault s x
  | .ok ps =>
    if !(s.func fn).logQueue.isEmpty then .waits s
    else
      match s.engineRead asid addr 8 with
      | .waits s => .waits s
      | .fault s x _ => .fault s x
      | .ok s bs =>
        match s.engineWriteAt fn ps (toBytes 8 ((ofBytes bs + 1) % 2 ^ 64)) with
        | (s, true) => .ok s
        | (s, false) => .waits s

/-- A request whose end is known takes its last step: the counter at LCTR or ECTR, then it leaves its queue and is metered. -/
def finishReq (s : State) (p q serial : Nat) : State :=
  match reqOf s p q serial with
  | none => s
  | some r =>
    match r.ending with
    | none => s
    | some code =>
      let addr := if code = 0 then r.lctr else if r.ectr % 8 = 0 then r.ectr else 0
      let leave (s : State) : State :=
        let s := dropReq s p q serial
        if code = 0 then (s.count r.launch 14 r.sent).count r.launch 15 r.received else s
      if r.stalled.isSome || r.peer.isSome then s
      else if addr = 0 then leave s
      else
        match bump s (s.net p).asid addr with
        | .waits s => s
        | .fault s x => stallReq s p q r x 1 addr
        | .ok s => leave s

/-- The lane of an access to a peer's page has what it asked for: the words join its window, and its amounts count (R325, R329). -/
def deliverPeer (s : State) (p q : Nat) (r : WorkReq) (x : PeerLane) (words : List Word) : State :=
  let s := match s.groups.find? r.group with
    | none => s
    | some g =>
      let out : State.LaneOut := { words := words }
      let o := Opnd.of x.fields.d
      let names := laneNames x.opc x.fields
      let g := if x.win = 0 then g else g.fillWindow x.win names (o.isScalar && !names.isEmpty) [(x.lane, out)] []
      s.setGroup r.group { g with windows := g.windows.map fun (w : Window) =>
        if w.id == x.win && x.win != 0 then { w with pend := w.pend &&& ~~~(BitVec.ofNat 96 (2 ^ x.lane)) } else w }
  let s := (s.count r.launch 14 r.sent).count r.launch 15 r.received
  let s := if 0x241 ≤ x.opc then s.count r.launch (if x.fields.type = 8 then 8 else 11) 1 else s
  dropReq s p q r.serial

/-- A request ends: `code` 0 as completed, else by an error (R318). An error of an access to a peer's page waits for its lane to be
held (R325); one of a Marl message ends its round with the granules dirty again (16, R363). -/
def endReq (s : State) (p q serial code : Nat) : State :=
  match reqOf s p q serial with
  | none => s
  | some r =>
    if r.ending.isSome then s
    else
      match r.marl with
      | some (h, gs) =>
        let d := s.die h
        let s := if code = 0 then s
          else s.setDie h { d with failed := true, dirty := gs.foldl (fun l g => if l.contains g then l else l ++ [g]) d.dirty }
        dropReq s p q serial
      | none =>
        match r.peer with
        | some x =>
          if code = 0 then deliverPeer s p q r x []
          else
            match (s.launch r.launch).stage with
            | .admitted => setReq s p q { r with ending := some code }
            | _ => dropReq s p q serial
        | none =>
          let s := setReq s p q { r with ending := some code }
          let n := s.net p
          let sq := n.queues.getD q {}
          let s := if code = 0 then s else s.setNet p { n with queues := n.queues.set q { sq with code := code, errors := sq.errors + 1 } }
          finishReq s p q serial

end Sys2Proof.Machine
end

