-- ==== Sys2Proof/Machine/Fetch.lean ====
section
/-! DEFINITION. What stands around an instruction: time, which slot issues, arrivals, fetch, and what follows the issue
(05, R113, R114; 06, R118, R124). -/

namespace Sys2Proof.Machine

namespace State

/-- Core cycles pass: the present one ends (04, R88), and the resident groups' `cycle` and their `waita` timeouts count where the clock runs (05, Table 5.5;
12, R288), those of a group none of whose lanes is live no more (13, R305; log 20). -/
def elapse (s : State) (n : Nat) : State :=
  let s := s.endCycles
  { s with now := s.now + n,
           groups := s.groups.mapVals fun _ g =>
             if (s.team g.team).resident && s.clockRuns g.core && !g.ended && g.liveLanes != 0 then
               let g := { g with cycle := (g.cycle + n) % 2 ^ 64 }
               match g.wait with
               | .waita w => if w.timeout = 0xFFFFFFFF then g else { g with wait := .waita { w with timeout := w.timeout - n } }
               | _ => g
             else g }

/-- The group is in its scheduler's active set (04, R86). -/
def seated (s : State) (k : Nat) (g : Group) : Bool := (s.sched g.core g.sched).active.any (·.group == k)

/-- A group may take part in issue (06, R118; 04, R86, R87): resident and in its scheduler's active set, its clock runs
and no step change, quiesce, stop or halt holds it, and it does not wait. One that waits where it stands tries again, in the pending list
too: there to see whether it is ready (`waitTried`). -/
def mayIssue (s : State) (k : Nat) (g : Group) : Bool :=
  s.agentsRun g.team g.core && !g.ended && !groupHalted s g && (g.wait == .again || (g.wait == .none && s.seated k g)) &&
  g.spilled.isNone && g.trap.isNone && g.dormFmt.isNone &&
  (match (s.launch (s.launchOf g)).stage with | .admitted => true | _ => false)

/-- A place in the rotation after the slot that issued last: how far a slot stands behind it (04, R86). -/
def turnOf (x : Sched) (slot : Nat) : Nat := (slot + 23 - x.last) % 24

/-- It is the group's turn: every ready active group that stands before it in the rotation has been tried in this cycle (04, R86). -/
def inTurn (s : State) (k : Nat) (g : Group) : Bool :=
  let x := s.sched g.core g.sched
  x.active.all fun p =>
    let h := s.group p.group
    p.group == k || decide (turnOf x (s.slotNumber k) ≤ turnOf x (s.slotNumber p.group)) || (x.triedAt == s.now && x.tried.contains p.group) ||
      !(s.mayIssue p.group h && s.waitOver p.group h && (s.pickSlot h).isSome)

/-- Why no slot of a group can issue (06, Table 6.4). -/
def stallOf (s : State) (g : Group) : Nat :=
  let waits := g.windows.filter fun w => !w.done && (w.remA == some 0 || w.remB == some 0)
  if waits.any fun w => [0x1C0, 0x1C2, 0x1C4, 0x241, 0x242, 0x259].contains w.opc then 0x0C
  else if !waits.isEmpty then 0x0D
  else if (g.live false && s.windowsFull g false) || (g.live true && s.windowsFull g true) then 0x0E
  else if g.slotA.atJoin || g.slotB.atJoin then 0x12
  else if g.slotA.yieldAt.isSome || g.slotB.yieldAt.isSome then 0x16
  else 0x15

/-! ## Fetch (05, R113, R114) -/

/-- The core's instruction cache takes the line of a code byte: 512 lines of 96 B in 128 sets of four. -/
def fillIcache (s : State) (core pa : Nat) : State :=
  let k := s.core core
  let line := pa / 96
  if (k.icache.find? line).isSome then s
  else
    let mates := (k.icache.filter fun x => x.1 % 128 == line % 128).map Prod.fst
    let rest := if mates.length < 4 then k.icache else k.icache.erase (mates.headD 0)
    let s := (linesOf (96 * line) 96).foldl touch s
    s.setCore core { s.core core with icache := rest.set line (s.homeBytes (96 * line) 96) }

/-- The loop buffer of a group's scheduler takes the words of a bundle that lie in the loop body it holds, 256 instructions at most. -/
def fillLoopBuffer (s : State) (g : Group) (pc : Nat) (ws : List (Nat × List Byte)) : State :=
  let body := (ws.zipIdx.filter fun w => inLoopBuffer g (pc / 48 * 48 + 4 * w.2)).map Prod.fst
  if body.isEmpty then s
  else
    let x := s.sched g.core g.sched
    State.setSched s g.core g.sched { x with loopBuf := (body.foldl (fun t w => Tbl.set t (w.1 / 4) (BitVec.ofNat 32 (ofBytes w.2))) x.loopBuf).take 768 }

/-- The rest of a slot's bundle. -/
def bundlePcs (pc : Nat) : List Nat := ((List.range 4).map fun i => pc / 48 * 48 + 12 * i).filter (pc ≤ ·)

/-- The walks of a bundle's pages are made. -/
def bundleWalked (s : State) (g : Group) (pc : Nat) : State :=
  let l := s.launch (s.launchOf g)
  s.walkedAll g.core l.asid ((CopyCmd.pages 3 (l.record.kimg + pc / 48 * 48) 48).map Prod.fst)

/-- A slot's bundle is fetched: caches and loop buffer take what they hold of it, and the slot's stream the rest of the bundle. -/
def fetchInto (s : State) (k : Nat) (g : Group) (b : Bool) (ws : List (Nat × List Byte)) : State :=
  let p := g.slot b
  let s := ws.foldl (fun s w => fillIcache s g.core w.1) s
  let s := fillLoopBuffer s g p.pc.toNat ws
  s.setGroup k (g.setSlot b { p with stream := (bundlePcs p.pc.toNat).foldl (fun t pc => Tbl.set t pc (bundleWord ws pc)) p.stream })

/-- The word at a slot's PC has been fetched: nothing where the stream holds it, else its bundle, or the fault on the way (05, R113). -/
def fetched (s : State) (k : Nat) (g : Group) (b : Bool) : State × Option (XFault × Nat) :=
  let p := g.slot b
  if (p.stream.find? p.pc.toNat).isSome then (s, none)
  else if p.pc.toNat % 12 != 0 then (s, some ({ cause := 1 }, p.pc.toNat))
  else
    let s := s.bundleWalked g p.pc.toNat
    match s.fetchBundle g p.pc.toNat with
    | .error x => (s, some x)
    | .ok ws => (s.fetchInto k g b ws, none)

/-- A fetch fault holds the group at the instruction that the slot would issue; the record's address is that of the word that faults: R113
and Table 3.10 do not say which of the bundle's (log 93) (05, R113; 15, R340). -/
def fetchFault (s : State) (k : Nat) (g : Group) (b : Bool) (x : XFault × Nat) : State :=
  let p := g.slot b
  let kimg := (s.launch (s.launchOf g)).record.kimg
  let r := s.groupRecord g p.pc x.1 3 (kimg + x.2) p.active (((lanesOf p.active).head?).getD 0)
  s.holdGroup k r { opc := 0, fields := {}, pc := p.pc, slotB := b, whole := true, seq := 0,
                    lanes := (lanesOf p.active).map fun l => { lane := l, addr := kimg + x.2, data := [] } }

/-- The asynchronous trap that is due at this boundary (15, R334, R335). -/
def dueAsync (s : State) (k : Nat) (g : Group) : Option State :=
  match g.asyncs with
  | [] => none
  | i :: rest =>
    if g.inh then none
    else
      let b := if s.slotReady g (!g.lastB) then !g.lastB else g.lastB
      let i := { i with slotB := b, async := true, pc := if i.atPc then i.pc else (g.slot b).pc }
      some ((s.setGroup k { g with asyncs := rest }).takeTrap k i)

/-- The arrivals that are due before the group issues: none, or the state they lead to and whether the group may go on
(06, R124, R125). -/
def arriveBoth (s : State) (k : Nat) (g : Group) : Option (State × Bool) :=
  let run (b : Bool) : State × Bool :=
    match arrive false g.arriveFuel s g b with
    | .ok s h => ((s.setGroup k { h with spill := .none }).traceMasks g { h with spill := .none }, true)
    | .stop why s h b =>
      let s := (s.setGroup k h).traceMasks g h
      let trap (code : Nat) : State := s.takeTrap k { code := code, pc := (h.slot b).pc, mask := (h.slot b).active, slotB := b }
      (match why with
        | .loop => trap 6
        | .broken => trap 3
        | .fault x a j => s.holdSpill k b 0 {} x a j
        | _ => s.setGroup k { h with spill := .wanted, stall := 0x11 }, false)
  if arrivalDue s g false then some (run false) else if arrivalDue s g true then some (run true) else none

/-- The lane of such a request is held: CAUSE 4, the lane's ACCESS; a retry reissues the lane (14, R325). -/
def holdPeer (s : State) (k p : Nat) (r : WorkReq) : State :=
  match r.peer with
  | none => s
  | some x =>
    let n := s.net p
    let q := n.queues.getD 16 {}
    let s := s.setNet p { n with queues := n.queues.set 16 { q with reqs := q.reqs.filter fun y => y.serial != r.serial } }
    let g := s.group k
    let bit : LaneMask := BitVec.ofNat 96 (2 ^ x.lane)
    let s := s.setGroup k { g with windows := g.windows.map fun (w : Window) =>
      if w.id == x.win && x.win != 0 then { w with pend := w.pend &&& ~~~bit, held := w.held ||| bit } else w }
    s.holdGroup k (s.groupRecord g r.pc { cause := 4 } (laneForm x.opc x.fields).access.code x.addr bit x.lane)
      { opc := x.opc, fields := x.fields, pc := r.pc, slotB := x.slotB, whole := false, seq := 0, win := x.win,
        lanes := [{ lane := x.lane, addr := x.addr, data := x.data }] }

/-- A held instruction is reissued: its lanes that faulted, or as a whole with its word and what it captured (15, R338, R340). -/
def reissueHeld (s : State) (k : Nat) (g : Group) (r : Replay) : State × Option Instr :=
  if !r.whole then (s.reissue k r, none)
  else
    match decodeWord (wordBits r.opc r.fields) with
    | .ok i => ({ s.setGroup k { g with wait := .none, replay := none, capture := r.capture, went := false } with cur := k, curB := r.slotB }, some i)
    | .error _ => (s.setGroup k { g with replay := none }, none)

/-- What an issue turn of group `k` comes to before the instruction itself: nothing to issue, or the instruction with
the state it issues in. -/
def comesTo (s : State) (k : Nat) : State × Option Instr :=
  match s.groups.find? k with
  | none => (s, none)
  | some g =>
    if !s.mayIssue k g then (s, none)
    else
      match g.replay with
      | some r =>
        match if r.resumed then s.dueAsync k g else none with
        | some s' => (s', none)
        | none => s.reissueHeld k g r
      | none =>
      match s.failedPeer k with
      | some (p, r) => (s.holdPeer k p r, none)
      | none =>
      match s.dueAsync k g with
      | some s' => (s', none)
      | none =>
        match s.arriveBoth k g with
        | some (s', _) => (s', none)
        | none =>
          match s.pickSlot g with
          | none =>
            let s := s.setGroup k { g with stall := s.stallOf g }
            (if g.lookaheadWait && g.stall != 0x0C && g.stall != 0x0D then s.swapOut k else s, none)
          | some b =>
            if s.seated k g && !s.inTurn k g then (s, none)
            else
            match s.fetched k g b with
            | (s, some x) => (s.fetchFault k g b x, none)
            | (s, none) =>
              let g : Group := { s.group k with wait := .none, went := false }
              let w := ((g.slot b).stream.find? (g.slot b).pc.toNat).getD 0
              let s := s.setGroup k (g.setSlot b { g.slot b with stream := (g.slot b).stream.erase (g.slot b).pc.toNat })
              let s := { s with cur := k, curB := b }
              match decodeWord w with
              | .ok i => (s, some i)
              | .error e =>
                let f := fieldsOf w
                let opc := (w.extractLsb' 0 10).toNat
                let field := match e with | .unusedField => unusedFieldNo opc f | _ => 5
                ((s.takeTrap k { code := 1, field := field, pc := (g.slot b).pc, mask := g.active b f, slotB := b }).haltStep k, none)

/-- What an issue turn comes to; a fault that would hold the group waits for the multiply phases of its core (09, R212). -/
def prepare (s : State) (k : Nat) : State × Option Instr :=
  match s.comesTo k with
  | (t, none) =>
    if (t.group k).faulted && !(s.group k).faulted && multiplies s (s.group k).core then (s.setGroup k { s.group k with stall := 0x0B }, none) else (t, none)
  | r => r

/-- Another group of the scheduler has issued, for the yields that wait on it (06, R144). -/
def noteIssue (s : State) (k : Nat) : State :=
  { s with groups := s.groups.mapVals fun _ g =>
      let note (p : PcSlot) : PcSlot := if p.yieldFor.isEmpty then p else { p with yieldFor := p.yieldFor.filter (· != k) }
      { g with slotA := note g.slotA, slotB := note g.slotB } }

/-- An issue turn of a group has come to nothing: its instruction stands where it was, and its stall goes on. -/
def stalled (g : Group) : Bool := !g.went && (g.wait == .none || g.wait == .again || g.wait == .alloc)

/-- After an issue turn. Where an instruction has issued, the rotation goes on from its group (04, R86), the core has issued and the banks of the group's names wake (16, R377), yields take
note, and a single-stepped group halts again (17, R391); a group that stalls has been tried in this cycle. -/
def afterIssue (s : State) (k : Nat) : State :=
  match s.groups.find? k with
  | none => s
  | some g =>
    let x := s.sched g.core g.sched
    if stalled g then
      s.setSched g.core g.sched { x with tried := if x.triedAt = s.now then k :: x.tried else [k], triedAt := s.now }
    else
      let s := s.setSched g.core g.sched { x with last := g.units.headD 0, tried := [] }
      let s := ((s.setCore g.core { s.core g.core with issueAt := s.now }).wakeBanks g.core g.inBank).noteIssue k
      s.haltStep k

/-- A waiting group of the pending list has tried its instruction, which comes to `t`: where that no longer waits, the group is ready, and
issues once it is active (04, R86–R88). -/
def waitTried (s : State) (k : Nat) (t : State) : State :=
  if (t.group k).wait == .again then s else s.setGroup k { s.group k with wait := .none }

/-- Where the program of `placeProgram` starts, and its first PC. -/
def programBase : Nat := 0x10000000
def programPc : Nat := 0x60

/-- The bytes of the page tables of `placeProgram`: one 1 GiB leaf in each stage, identity, readable, writable and
executable (03, R61, R62). -/
def programTables : List Host.Cell :=
  cellsOf 0x100000 8 0x110003 ++ cellsOf 0x110000 8 0xD ++ cellsOf 0x200000 8 0x240003 ++ cellsOf 0x240000 8 0xD

/-- The launch of `placeProgram` (02, R42). -/
def programLaunch : Launch :=
  { queue := 0, index := 0, asid := 0, vmid := 0, part := 0, prio := 0, stage := .admitted, next := 1,
    record := { kimg := programBase, entry := 0x60, vregs := 256 } }

/-- The group of `placeProgram`: 32 lanes at the program's first word (02, R32). -/
def programGroup : Group :=
  { team := 0, grpid := 0, width := 32, core := 0, sched := 0, units := [0],
    slotA := { pc := 0x60, rpc := rpcNone, active := 0xFFFFFFFF, owned := 0xFFFFFFFF } }

/-- The machine with everything in place for group 0 of launch 0 to issue the given bytes next: a range of the address
map, both stages of translation, a formed partition, the placed team and its group, and its turn (log 3). -/
def placeProgram (s : State) (bs : List Byte) : State :=
  { s with
    agenda := [.issue 0]
    mem := Memory.writeAll s.mem (programTables ++ cellsAt (programBase + programPc) bs)
    bdq := []
    l2 := []
    ranges := [(0, { limit := 0x3FFF, enable := true })]
    spaces := s.spaces.set 0 { root := 0x200000, vmid := 0, valid := true }
    vmids := s.vmids.set 0 { root := 0x100000, valid := true }
    ctlb := s.ctlb.set 0 []
    parts := [(0, { clusters := 1 })]
    pkg := { s.pkg with tripped := false }
    funcs := s.funcs.set 0 {}
    launches := s.launches.set 0 programLaunch
    teams := s.teams.set 0 { launch := 0, teamid := 0, resident := true, placed := true }
    groups := s.groups.set 0 programGroup
    cores := s.cores.set 0 { s0 := { active := [{ group := 0, since := s.now }] } } }

end State

end Sys2Proof.Machine
end

