-- ==== Sys2Proof/Machine/Faults.lean ====
section
/-! DEFINITION. Invalidations and walks (03, R65–R67), the fault queue and its acknowledgements (03, R68–R73), and the
delivery of traps (15, R334–R336, R412). -/

namespace Sys2Proof.Machine

/-! ## Invalidations from the host -/

/-- The invalidation that a function's registers ask for; a VF acts on its own VMID (R67). -/
def funcTlbi (s : State) (func : Nat) : Tlbi :=
  let f := s.func func
  { kind := f.tlbiKind, asid := f.tlbiAsid, vmid := if func = 0 then f.tlbiVmid else (s.funcVmid func).getD 256, addr := f.tlbiAddr,
    count := f.tlbiCount }

/-- TLBI_CMD is refused: KIND 5 to 7, KIND 4 from a VF, or an ASID of another VMID (R67). -/
def tlbiRefused (s : State) (func value : Nat) : Bool :=
  let kind := bitsOf value 4 2
  4 < kind || (func != 0 && (kind == 4 ||
    ((kind == 1 || kind == 2) && s.funcVmid func != some (s.space (bitsOf value 49 36)).vmid)))

/-- The fields of TLBI_CMD as written. -/
def tlbiFields (f : Func) (value : Nat) : Func :=
  { f with tlbiAsid := bitsOf value 49 36, tlbiVmid := bitsOf value 35 28, tlbiCount := bitsOf value 27 12, tlbiKind := bitsOf value 4 2,
           tlbiErr := f.tlbiErr && !bitOf value 1 }

/-- TLBI_CMD with GO and KIND `kind`: the command starts (R67). -/
def tlbiStart (s : State) (func value kind : Nat) : State :=
  let f := s.func func
  if !s.answers func || f.tlbiGo || !bitOf value 0 || bitsOf value 4 2 != kind || tlbiRefused s func value then s
  else
    let s := s.setFunc func { tlbiFields f value with tlbiGo := true }
    s.dropTlb (funcTlbi s func)

def execTlbiCmdVmid (func value : Nat) (s : State) : Host.Outcome State Fault Refusal := .next (tlbiStart s func value 0)
def execTlbiCmdAsid (func value : Nat) (s : State) : Host.Outcome State Fault Refusal := .next (tlbiStart s func value 1)
def execTlbiCmdAsidVa (func value : Nat) (s : State) : Host.Outcome State Fault Refusal := .next (tlbiStart s func value 2)
def execTlbiCmdS2Range (func value : Nat) (s : State) : Host.Outcome State Fault Refusal := .next (tlbiStart s func value 3)
def execTlbiCmdAll (func value : Nat) (s : State) : Host.Outcome State Fault Refusal := .next (tlbiStart s func value 4)

/-- A refused TLBI_CMD sets ERR (R67). -/
def execTlbiCmdRefused (func value : Nat) (s : State) : Host.Outcome State Fault Refusal :=
  .next (if !s.answers func || (s.func func).tlbiGo || !bitOf value 0 || !tlbiRefused s func value then s
    else s.setFunc func { tlbiFields (s.func func) value with tlbiErr := true })

/-- `TLBI_COMPLETE`: no MMA holds a page locked under an old translation, and no access to a peer made under one is open; copies stand at chunk boundaries, since a chunk
is one step (R66). -/
def execTlbiComplete (func : Nat) (s : State) : Host.Outcome State Fault Refusal :=
  .next (
    let x := funcTlbi s func
    if !(s.func func).tlbiGo || s.lockedPages x || s.peersLeft x then s
    else
      let s := s.dropTlb x
      (s.setFunc func { s.func func with tlbiGo := false }).tlbiDone x)

/-- `WALK_COMPLETE`: the homes have read the table entries (R66), a translation enters the core's TLB of 64 entries and its cluster's of 8,192, and the table entries of levels 0 to 2
that it passed enter the caches of its die's walkers; a fault is never cached (R65). How long the walkers keep an entry that no
invalidation drops the spec does not say (log 90). -/
def execWalkComplete (core asid page : Nat) (s : State) : Host.Outcome State Fault Refusal :=
  let s := s.touchAll (s.walkReads core asid (page * 65536))
  .next (match s.walkBoth core asid (page * 65536) with
    | .error _ => s
    | .ok e =>
      let k := s.core core
      let die := core / 192
      let seen := s.walkSeen core asid (page * 65536)
      let old := s.walkers.getD die []
      let into (n : Nat) (t : List TlbEntry) : List TlbEntry :=
        (e :: t.filter fun x => !(x.asid == asid && x.vmid == e.vmid && x.page == page * 65536 / 2 ^ x.shift)).take n
      { s.setCore core { k with tlb := into 64 k.tlb } with
        ctlb := s.ctlb.set (core / 48) (into 8192 (s.ctlb.getD (core / 48) []))
        walkers := s.walkers.set die (old ++ seen.filter fun x => !old.contains x) })

/-! ## The fault ring (R68, R69, R72) -/

def execFqBaseWrite (func value : Nat) (s : State) : Host.Outcome State Fault Refusal :=
  .next (if !s.answers func then s else s.setFunc func { s.func func with fqBase := value / 4096 * 4096, fqBlocked := false })

def execFqCtlWrite (func value : Nat) (s : State) : Host.Outcome State Fault Refusal :=
  let f := s.func func
  .next (if !s.answers func then s
    else s.setFunc func { f with fqSize := clamp 6 15 (bitsOf value 15 12), fqAckErr := f.fqAckErr && !bitOf value 2,
                                 fqFull := f.fqFull && !bitOf value 1, fqEnable := bitOf value 0,
                                 fqProd := if bitOf value 0 then 0 else f.fqProd, fqBlocked := false })

def execFqConsWrite (func value : Nat) (s : State) : Host.Outcome State Fault Refusal :=
  .next (if !s.answers func then s else s.setFunc func { s.func func with fqCons := bitsOf value 31 0, fqBlocked := false })

/-- The 512 bits of a record (Table 3.10). -/
def FaultRec.bits (r : FaultRec) (phase : Nat) : Nat :=
  phase + r.cause * 2 + b2n r.replay * 2 ^ 5 + r.access * 2 ^ 6 + r.stage * 2 ^ 10 + r.level * 2 ^ 12 + r.seq % 2 ^ 64 * 2 ^ 64 + r.vmid * 2 ^ 170 +
    r.asid * 2 ^ 178 + r.lane * 2 ^ 200 + r.gslot * 2 ^ 207 + r.core * 2 ^ 213 + r.pc * 2 ^ 224 + r.tag * 2 ^ 256 + r.lanes * 2 ^ 288 +
    r.ipa % 2 ^ 52 * 2 ^ 384 + r.addr % 2 ^ 64 * 2 ^ 448

/-- `FAULT_RECORD_WRITE`: the oldest waiting record goes into the ring, and FQ_PROD advances as a release at `.sys` (R69, R72; 10, R237). -/
def execFaultRecordWrite (func : Nat) (s : State) : Host.Outcome State Fault Refusal :=
  let f := s.func func
  .next (match f.fqWait with
    | [] => s
    | r :: rest =>
      if !f.fqEnable || f.fqBlocked then s
      else if ringUsed f.fqProd f.fqCons = 2 ^ f.fqSize then s.setFunc func { f with fqFull := true }
      else
        let slot := f.fqBase + 64 * (f.fqProd % 2 ^ f.fqSize)
        if s.ringWaits func (fun i => slot + i) 64 then s.logFullSet func
        else match s.ringWrite func (fun i => slot + i) (toBytes 64 (r.bits (phaseOf f.fqProd f.fqSize))) with
        | none => s.setFunc func { f with fqBlocked := true }
        | some t =>
          match t.logReleased func with
          | none => s.closeLog func
          | some t =>
            let t := t.setFunc func { t.func func with fqWait := rest, fqProd := (f.fqProd + 1) % 2 ^ 32 }
            { t with out := t.out ++ [.msix func 0] })

/-! ## Traps that come later (15, R334–R336, R412) -/

/-- An asynchronous trap falls to a group; to one that has ended or is dormant it ends the launch (R412). -/
def asyncTrap (s : State) (k : Nat) (i : TrapInfo) : State :=
  let g := s.group k
  if g.ended || g.dormFmt.isSome || g.exited == g.allLanes then s.endLaunch (s.launchOf g) 2
  else s.setGroup k { g with asyncs := g.asyncs ++ [{ i with async := true }] }

/-- The group stands between two instructions and can enter its handler. -/
def atBoundary (s : State) (g : Group) : Bool :=
  let t := s.team g.team
  t.resident && !t.stopping && (g.wait == .none || g.wait == .again) && g.trap.isNone && (g.replay.map (·.resumed)).getD true && !groupHalted s g && s.clockRuns g.core

/-- `ASYNC_TRAP_DELIVER` (R334, R412). -/
def execAsyncTrapDeliver (group : Nat) (s : State) : Host.Outcome State Fault Refusal :=
  .next (match s.groups.find? group with
    | none => s
    | some g =>
      if g.asyncs.isEmpty then s
      else if g.ended || g.dormFmt.isSome || g.exited == g.allLanes then s.endLaunch (s.launchOf g) 2
      else if atBoundary s g then (s.dueAsync group g).getD s
      else s)

/-- `TRAP_ENTRY`: the group's long-latency instructions have completed (R336). -/
def execTrapEntry (group : Nat) (s : State) : Host.Outcome State Fault Refusal :=
  .next (match s.groups.find? group with
    | none => s
    | some g =>
      match g.trap with
      | none => s
      | some i =>
        if g.outstanding || !(s.team g.team).resident || !s.clockRuns g.core then s
        else (s.setGroup group { g with trap := none }).takeTrap group i)

/-! ## Acknowledgements (03, R73) -/

/-- The held fault of a function that FQ_ACK names by the low 62 bits of its SEQ, if it is pending. -/
def pendingFault (s : State) (func seq : Nat) : Option Held :=
  if (s.func func).vfState = 2 then none
  else List.find? (fun (h : Held) => h.func == func && h.seq % 2 ^ 62 == seq && h.ack.isNone) s.held

/-- ACK_ERR. -/
def ackError (s : State) (func : Nat) : State := s.setFunc func { s.func func with fqAckErr := true }

/-- The trap of a fault record (15, Table 15.2). -/
def faultTrap (h : Held) (b : Bool) : TrapInfo :=
  { code := 0xC, cause := h.record.cause, access := h.record.access, pc := BitVec.ofNat 32 h.record.pc, info := BitVec.ofNat 32 h.seq,
    addr := h.record.addr, mask := BitVec.ofNat 96 h.record.lanes, slotB := b }

/-- The team at whose agent the fault stands is evicted (15, R340). -/
def heldEvicted (s : State) (h : Held) : Bool :=
  match h.at_ with
  | .group k => !(s.team (s.group k).team).resident
  | .copy t => !(s.team t).resident
  | _ => false

/-- The copy command that fault `h` holds: its number counts within its function. -/
def holdsCopy (s : State) (h : Held) (x : CopyCmd) : Bool :=
  x.held == some h.seq && s.vmidFunc (s.launch (s.team x.team).launch).vmid == h.func

/-- The copy command that a fault holds, wherever it stands, changed or dropped. -/
def changeCopy (s : State) (h : Held) (f : CopyCmd → Option CopyCmd) : State :=
  let each (xs : List CopyCmd) : List CopyCmd := xs.filterMap fun x => if holdsCopy s h x then f x else some x
  { s with cores := s.cores.mapVals fun _ (c : Core) => { c with copies := each c.copies }
           savedCopies := s.savedCopies.mapVals fun _ xs => each xs }

/-- The copy command that a fault holds. -/
def heldCopy (s : State) (h : Held) : Option CopyCmd := (s.cores.values.flatMap Core.copies).find? (holdsCopy s h)

/-- The request that a fault stalls. -/
def stalledReq (s : State) (p q seq : Nat) : Option WorkReq :=
  ((s.net p).queues.getD q {}).reqs.find? fun r => r.stalled == some seq

/-- Messages of a context that a fault on a page holds. -/
def changeRx (s : State) (p page : Nat) (f : RxMsg → RxMsg) : State :=
  let x := s.net p
  s.setNet p { x with rx := x.rx.map fun m => if m.pages.contains page then { f m with pages := m.pages.filter (· != page) } else m }

/-- The final state goes on past an abandoned write (02, R44): a STATUS not written counts as final. -/
def abandonFinal (s : State) (l : Nat) (status : Bool) : State :=
  let x := s.launch l
  let s := s.setLaunch l { x with finalAt := .done }
  if status && (s.queue x.queue).epoch < l then recordFinal s x.queue x.index else s

/-- Action 0: the held access is made again (R73; 15, R340). -/
def ackRetry (s : State) (h : Held) : State :=
  match h.at_ with
  | .group k =>
    let g := s.group k
    s.setGroup k { g with wait := .none, replay := g.replay.bind (·.again) }
  | .copy _ => changeCopy s h fun x => some { x with held := none }
  | .ring q => if (s.queue q).held == some h.seq then s.setQueue q { s.queue q with held := none } else s
  | .send p q =>
    match stalledReq s p q h.seq with
    | some r =>
      let s := setReq s p q { r with stalled := none }
      if (s.net p).state = 0 then finishReq s p q r.serial else s
    | none => s
  | .target p page => changeRx s p page id
  | _ => s

/-- The launch of a fault ends with STATUS 0x0002; the head of its queue may have been waiting to be checked. -/
def endHeld (s : State) (l : Nat) : State := nextHead (s.endLaunch l 2) (s.launch l).queue

/-- Action 1: the trap of the fault (R73), or what takes its place where no group can take it. -/
def ackTrap (s : State) (h : Held) : State :=
  match h.at_ with
  | .group k =>
    let g := s.group k
    let core := s.core g.core
    let s := s.setCore g.core { core with mq := core.mq.filter fun e => e.multiplying || e.opc == 0x188 || e.group != k }
    (s.setGroup k { g with wait := .none }).takeTrap k (faultTrap h ((g.replay.map (·.slotB)).getD false))
  | .copy _ =>
    match heldCopy s h with
    | some x => asyncTrap (changeCopy s h fun _ => none) x.group (faultTrap h false)
    | none => s
  | .ring q => if (s.queue q).held == some h.seq then skipRecord s q else s
  | .dependence l => endHeld s l
  | .status l => abandonFinal s l true
  | .signal l => abandonFinal s l false
  | .ancestor l => trapArrived s l (faultTrap h false)
  | .send p q =>
    match stalledReq s p q h.seq with
    | some r => asyncTrap (dropReq s p q r.serial) r.group (faultTrap h false)
    | none => s
  | .target p page => changeRx s p page fun m => { m with refused := true }
  | .restore t => endHeld s (s.team t).launch

/-- Action 2: the launch ends with STATUS 0x0002 (R73), or what takes its place where there is none; the addition of a request whose launch
ends already is given up (14, R318). -/
def ackEnd (s : State) (h : Held) : State :=
  match h.at_ with
  | .ring _ => ackTrap s h
  | .status _ => ackTrap s h
  | .signal _ => ackTrap s h
  | .target _ _ => ackTrap s h
  | .send p q =>
    match stalledReq s p q h.seq with
    | none => s
    | some r =>
      let s := endHeld s r.launch
      match stalledReq s p q h.seq with
      | some r => dropReq s p q r.serial
      | none => s
  | _ =>
    match s.heldLaunch h with
    | some l => endHeld s l
    | none => s

/-- What an acknowledged fault comes to. -/
def actOn (s : State) (h : Held) (action : Nat) : State :=
  match action with
  | 0 => ackRetry s h
  | 1 => ackTrap s h
  | _ => ackEnd s h

/-- An acknowledgement: one of a team that is evicted is kept until its restore; ending the launch is not (R73; 15, R340). -/
def acknowledge (s : State) (func seq action : Nat) : State :=
  if !s.answers func then s
  else match pendingFault s func seq with
  | none => ackError s func
  | some h =>
    let rest := s.held.filter fun x => !(x.func == func && x.seq == h.seq)
    if heldEvicted s h && action != 2 then { s with held := rest ++ [{ h with ack := some action }] }
    else actOn { s with held := rest } h action

def execFqAckRetry (func seq : Nat) (s : State) : Host.Outcome State Fault Refusal := .next (acknowledge s func seq 0)
def execFqAckTrap (func seq : Nat) (s : State) : Host.Outcome State Fault Refusal := .next (acknowledge s func seq 1)
def execFqAckEnd (func seq : Nat) (s : State) : Host.Outcome State Fault Refusal := .next (acknowledge s func seq 2)

/-- An FQ_ACK of action 3, or one that names no held fault (R73). -/
def execFqAckInvalid (func value : Nat) (s : State) : Host.Outcome State Fault Refusal :=
  .next (if s.answers func && (bitsOf value 1 0 == 3 || (pendingFault s func (value / 4)).isNone) then ackError s func else s)

end Sys2Proof.Machine
end

