-- ==== Sys2Proof/Machine/Placement.lean ====
section
/-! DEFINITION. Placement and admission (04, R74–R85, R92), the register pool and its spills (R90, R91), the rotation of the
active sets (R88), and the ends of groups and teams. -/

namespace Sys2Proof.Machine

/-! ## What a core has left (R74) -/

/-- The room taken on a core: the slot units of each scheduler, the registers reserved, the scratchpad ranges and how many
team entries; with the core's split. -/
structure Room where
  split  : Nat
  units0 : List Nat
  units1 : List Nat
  regs   : Nat
  spans  : List (Nat × Nat)
  teams  : Nat
  deriving DecidableEq, Repr

/-- What a fit check works on: the teams taken away, the spots given away, the cursor and the pool blocks held. -/
structure World where
  gone   : List Nat := []
  added  : List (LaunchRec × Spot) := []
  cursor : Nat
  held   : List (Nat × Nat)

/-- Lanes of a group of a record. -/
def LaunchRec.lanes (r : LaunchRec) : Nat := 32 * r.width

/-- Groups of a team. -/
def LaunchRec.groups (r : LaunchRec) : Nat := r.slots / r.width

/-- The cores of a team whose first core is `core`. -/
def LaunchRec.cores (r : LaunchRec) (core : Nat) : List Nat := if r.span then [core, core + 1] else [core]

/-- Bytes of scratchpad that a team takes on each of its cores (R74, R75). -/
def LaunchRec.span' (r : LaunchRec) : Nat := (if r.span then (r.spad + 1) / 2 else r.spad) * 256

/-- The room taken on a core. -/
def roomOf (s : State) (w : World) (core : Nat) : Room :=
  let teams := s.teams.filter fun t => t.2.resident && !w.gone.contains t.1 && (teamCores s t.2).contains core
  let groups := s.groups.filter fun g => g.2.core == core && teams.any fun t => t.1 == g.2.team
  let mine := w.added.filter fun a => a.2.cores.contains core
  let berths := mine.flatMap fun a => (a.2.groups.filter fun b => b.core == core).map fun b => (a.1, b)
  let units (i : Nat) : List Nat := (groups.filter fun g => g.2.sched == i).flatMap (fun g => g.2.units) ++
    (berths.filter fun b => b.2.sched == i).flatMap fun b => b.2.units
  { split := match mine.getLast? with | some a => a.2.split | none => (s.core core).split
    units0 := units 0, units1 := units 1
    regs := (groups.map fun g => (s.launch (s.launchOf g.2)).record.vfloor * (g.2.width / 32)).sum +
      (berths.map fun b => b.1.vfloor * b.1.width).sum
    spans := (teams.map fun t => (if t.2.core = core then t.2.spOff0 else t.2.spOff1, t.2.spLen)) ++
      mine.flatMap fun a => ((a.2.cores.zip a.2.offs).filter fun p => p.1 == core).map fun p => (p.2, a.2.len)
    teams := teams.length + mine.length }

/-- The lowest `n` free slot units of a scheduler, where there are as many (R75). -/
def freeUnits (used : List Nat) (n : Nat) : Option (List Nat) :=
  let free := (List.range 24).filter fun u => !used.contains u
  if free.length < n then none else some (free.take n)

/-- Assign groups to the schedulers of a core in turn: each goes to the one with more free units (R75). -/
def assign (core units : Nat) : List Nat → Room → Option (List Berth × Room)
  | [], r => some ([], r)
  | g :: gs, r =>
    let second := decide (r.units0.length > r.units1.length)
    match freeUnits (if second then r.units1 else r.units0) units with
    | none => none
    | some us =>
      let r := if second then { r with units1 := r.units1 ++ us } else { r with units0 := r.units0 ++ us }
      (assign core units gs r).map fun (bs, r) => ({ grpid := g, core := core, sched := b2n second, units := us } :: bs, r)

/-- The lowest free range of `len` bytes below `size`, from `o` up (R76). -/
def freeRange (spans : List (Nat × Nat)) (size len : Nat) : Nat → Nat → Option Nat
  | 0, _ => none
  | fuel + 1, o =>
    if size < o + len then none
    else
      match spans.find? fun x => decide (x.1 < o + len) && decide (o < x.1 + x.2) with
      | some x => freeRange spans size len fuel ((x.1 + x.2 + 255) / 256 * 256)
      | none => some o

/-- A change of split that R84 allows: every resident range lies below the smaller scratchpad. -/
def splitAllowed (r : Room) (split : Nat) : Bool := r.spans.all fun x => x.2 = 0 || decide (x.1 + x.2 ≤ splitSize split)

/-- The groups that stand on the cores of a team: all on one core, or the first half, rounded up, on the first (R75). -/
def LaunchRec.halves (r : LaunchRec) : List (List Nat) :=
  let n := r.groups
  if r.span then [List.range ((n + 1) / 2), (List.range (n / 2)).map (· + (n + 1) / 2)] else [List.range n]

/-- Fit some groups and a range on one core at a split. Reservations alone are counted: a new team's may take registers that groups hold
beyond their floors, and the sum of held and reserved registers may then pass 2,048 (log 92). -/
def fitCore (room : Room) (r : LaunchRec) (core split : Nat) (groups : List Nat) : Option (List Berth × Nat) :=
  match assign core r.width groups room, freeRange room.spans (splitSize split) r.span' (room.spans.length + 1) 0 with
  | some (bs, _), some off =>
    if room.regs + groups.length * r.vfloor * r.width ≤ 2048 && room.teams < 16 then some (bs, off) else none
  | _, _ => none

/-- Fit a team of a record on the cores from `core` on; `change`: where a split may change (R83, R84). -/
def fitAt (s : State) (w : World) (r : LaunchRec) (core : Nat) (change : Bool) : Option Spot :=
  let cores := r.cores core
  let ok (c : Nat) : Bool := let room := roomOf s w c; room.split == r.split || (change && splitAllowed room r.split)
  if !cores.all ok then none
  else
    let fits := (cores.zip r.halves).map fun p => fitCore (roomOf s w p.1) r p.1 r.split p.2
    if fits.any (·.isNone) then none
    else
      let fs := fits.filterMap id
      some { core := core, cores := cores, split := r.split, groups := fs.flatMap (·.1), offs := fs.map (·.2), len := r.span' }

/-! ## Positions (R83) -/

/-- The clusters of a partition in increasing package number. -/
def partClusters (s : State) (part : Nat) : List Nat := (List.range 32).filter fun c => bitOf (s.part part).clusters c

/-- How many positions there are for a team. -/
def positions (s : State) (part : Nat) (r : LaunchRec) : Nat := (if r.span then 24 else 48) * (partClusters s part).length

/-- The first core of position `j`. -/
def positionCore (s : State) (part : Nat) (r : LaunchRec) (j : Nat) : Nat :=
  let cs := partClusters s part
  cs.getD (j % cs.length) 0 * 48 + (if r.span then 2 else 1) * (j / cs.length)

/-- The first position from the cursor round where a fit is found: at its split, else after a change, with the cursor that follows (R83).
One cursor serves both numberings, taken modulo the number of positions (log 92). -/
def fromCursor (s : State) (w : World) (part : Nat) (r : LaunchRec) (fit : Nat → Bool → Option Spot) : Option (Spot × Nat) :=
  let n := positions s part r
  let order := (List.range n).map fun i => (w.cursor + i) % n
  let pass (change : Bool) : Option (Spot × Nat) :=
    order.findSome? fun j => (fit (positionCore s part r j) change).map fun sp => (sp, j + 1)
  (pass false).orElse fun _ => pass true

/-- The position of a team never placed (R83). -/
def findSpot (s : State) (w : World) (part : Nat) (r : LaunchRec) : Option (Spot × Nat) :=
  fromCursor s w part r fun core change => fitAt s w r core change

/-- The most bytes that a group record takes (15, R348): header, names up to VREGS, latch entries and those of a trap frame, four windows a slot
of up to 16 names with what they have delivered, two replay entries of up to 16 words a lane. -/
def groupMost (r : LaunchRec) : Nat :=
  2048 + (r.vregs + 10) * laneSize r.lanes + 8 * (16 + 32 * (4 + laneSize r.lanes)) + 2 * (32 + 72 * r.lanes)

/-- The most bytes that a team record takes (15, R346): header and team registers, scratchpad, 16 windows over it, 255 holdings, 32 copy commands
with index lists no longer than the scratchpad, eight tiles and 512 slices a core, the group records; and 64 KiB a group for its end (log
31). -/
def teamMost (r : LaunchRec) : Nat :=
  let cores := if r.span then 2 else 1
  1536 + cores * r.span' + 16 * (32 + 2 * bitmapSize (64 * r.spad)) + 255 * 64 + 32 * (128 + 256 * r.spad) + cores * (8 * 33792 + 512 * 4096) +
    r.groups * (groupMost r + 65536)

/-- The most bytes that a context section and its queue block take (15, R346): every deposit of the population, and 1 MiB for network state and
end (log 31). -/
def contextMost (r : LaunchRec) : Nat := 144 + 72 * r.popCap + 2 ^ 20

/-- Blocks of 64 KiB of the context pool that a team record, and a context section, may need (15, R345). -/
def teamBlocksOf (r : LaunchRec) : Nat := (teamMost r + 65535) / 65536
def contextBlocksOf (r : LaunchRec) : Nat := (contextMost r + 65535) / 65536

/-- A place in the pool of a function for `n` blocks, in a fit check. -/
def worldBlock (s : State) (fn : Nat) (w : World) (n : Nat) : Option Nat :=
  poolFit w.held (s.func fn).ctxPoolSz n (w.held.length + 1) 0

/-! ## Eviction on behalf of a launch (R79) -/

/-- Team `a` is taken before team `b`: lower priority, then later admission, then higher team number. -/
def takenBefore (s : State) (a b : Team) : Bool :=
  let x := s.launch a.launch
  let y := s.launch b.launch
  decide (x.prio < y.prio) || (x.prio == y.prio && (decide (y.order < x.order) || (x.order == y.order && decide (b.teamid < a.teamid))))

/-- Put a team into a list in that order. -/
def insertTaken (s : State) (x : Nat × Team) : List (Nat × Team) → List (Nat × Team)
  | [] => [x]
  | y :: ys => if takenBefore s x.2 y.2 then x :: y :: ys else y :: insertTaken s x ys

/-- The resident teams that a launch of priority `prio` may have evicted, in order. -/
def evictable (s : State) (part prio : Nat) (gone : List Nat) : List Nat :=
  ((s.teams.filter fun t =>
      let l := s.launch t.2.launch
      t.2.resident && !gone.contains t.1 && l.part == part && l.record.preempt && decide (l.prio < prio)).foldl
    (fun acc t => insertTaken s t acc) []).map Prod.fst

/-- A check against free resources first, then with one eligible team taken away after another (R79). -/
def withEvictions {α : Type} (w : World) (check : World → Option α) : List Nat → Option (α × World)
  | [] => (check w).map fun x => (x, w)
  | t :: ts =>
    match check w with
    | some x => some (x, w)
    | none => withEvictions { w with gone := w.gone ++ [t] } check ts

/-- The check of one team of a launch: a position, and room in the pool for its record. -/
def teamCheck (s : State) (l : Launch) (w : World) : Option ((Spot × Nat) × World) :=
  let fn := s.vmidFunc l.vmid
  match worldBlock s fn w (teamBlocksOf l.record) with
  | none => none
  | some b =>
    (withEvictions w (fun w => findSpot s w l.part l.record) (evictable s l.part l.prio w.gone)).map fun (x, w) =>
      (x, { w with added := w.added ++ [(l.record, x.1)], cursor := x.2, held := w.held ++ [(b, teamBlocksOf l.record)] })

/-- Teams of a launch one after another, each against what is left by those before it (R81). -/
def teamsCheck (s : State) (l : Launch) : Nat → World → Option (List Spot × World)
  | 0, w => some ([], w)
  | n + 1, w =>
    match teamCheck s l w with
    | none => none
    | some (x, w) => (teamsCheck s l n w).map fun (xs, w) => (x.1 :: xs, w)

/-- The world as it stands for a partition. -/
def worldNow (s : State) (part fn : Nat) : World := { cursor := (s.part part).cursor, held := poolHeld s fn }

/-! ## Heads that never fit (R82) -/

/-- A core with nothing on it, at a split. -/
def emptyRoom (split : Nat) : Room := { split := split, units0 := [], units1 := [], regs := 0, spans := [], teams := 0 }

/-- How many teams of a record fit on one empty position, at most `n`. -/
def emptyFits (r : LaunchRec) : Nat → List Room → Nat
  | 0, _ => 0
  | n + 1, rooms =>
    let fits := (rooms.zip r.halves).map fun p => (fitCore p.1 r 0 r.split p.2).bind fun f =>
      (assign 0 r.width p.2 p.1).map fun a =>
        { a.2 with regs := a.2.regs + p.2.length * r.vfloor * r.width, spans := a.2.spans ++ [(f.2, r.span')], teams := a.2.teams + 1 }
    if fits.any (·.isNone) then 0 else emptyFits r n (fits.filterMap id) + 1

/-- The launch can never fit its partition or its function's pool. -/
def neverFits (s : State) (l : Launch) : Bool :=
  let r := l.record
  let per := emptyFits r 16 ((r.cores 0).map fun _ => emptyRoom r.split)
  let pool := (s.func (s.vmidFunc l.vmid)).ctxPoolSz
  per = 0 || (r.coop && decide (per * positions s l.part r < r.teams)) ||
    decide (pool < contextBlocksOf r + (if r.coop then r.teams else 1) * teamBlocksOf r)

/-! ## Placing (R75, R76, R84; 02, R32) -/

/-- A core takes a split: where its scratchpad grows, the lines of its L1 are written back and dropped (R84). -/
def takeSplit (s : State) (core split : Nat) : State :=
  let k := s.core core
  if k.split = split then s
  else
    let s := if k.split < split then s.flushAll core else s
    let k := s.core core
    s.setCore core { k with split := split, lines := if k.split < split then [] else k.lines }

/-- The key of group `g` of team `t` of a launch, and its number in the launch. -/
def groupNumber (r : LaunchRec) (t g : Nat) : Nat := t * r.groups + g
def groupKey (l : Nat) (r : LaunchRec) (t g : Nat) : Nat := l * 2 ^ 37 + groupNumber r t g

/-- A group as it starts (02, R32; 13, R293). -/
def startGroup (l : Launch) (team teamid stamp : Nat) (b : Berth) : Group :=
  let r := l.record
  let all : LaneMask := BitVec.ofNat 96 (2 ^ r.lanes - 1)
  let first := groupNumber r teamid b.grpid * r.lanes
  let own (p : Nat → Nat) : Tbl Nat := if r.pop then laneTable all p else []
  { team := team, grpid := b.grpid, width := r.lanes, core := b.core, sched := b.sched, units := b.units, placedAt := stamp,
    slotA := { pc := r.entry, rpc := rpcNone, fmt := formatBits r.fmtInit, active := all, owned := all },
    sregs := startScalars l,
    lin := own (first + ·), par := own fun _ => 2 ^ 64 - 1, ord := own fun _ => 0, slotNo := own (first + ·), oslot := own (first + ·) }

/-- Place a team at a spot: its record, its zeroed range, its groups and their schedulers. A team whose lanes were
regrouped after its exit keeps its groups (13, R305). -/
def placeTeam (s : State) (l teamid : Nat) (sp : Spot) (block : Nat) : State :=
  let x := s.launch l
  let t := l * 2 ^ 32 + teamid
  let old := s.teams.find? t
  let s := sp.cores.foldl (fun s c => takeSplit s c sp.split) s
  let s := s.setTeam t
    { launch := l, teamid := teamid, resident := true, placed := true, core := sp.core, split := sp.split, spOff0 := sp.offs.getD 0 0,
      spOff1 := sp.offs.getD 1 0, spLen := sp.len, trecs := match old with | some o => o.trecs | none => x.trecs,
      image := some (block, teamBlocksOf x.record) }
  let s := s.zeroScratch t
  sp.groups.foldl (fun s b =>
    let k := groupKey l x.record teamid b.grpid
    let s := { s with serial := s.serial + 1 }
    let g := match s.groups.find? k with
      | some g => { g with core := b.core, sched := b.sched, units := b.units, placedAt := s.serial }
      | none => startGroup x t teamid s.serial b
    let s := s.setGroup k g
    if g.ended then s else s.joinSched k) s

/-- Teams of a launch from number `t` on, at their spots. -/
def placeTeams (l : Nat) : List Spot → State → Nat → State
  | [], s, _ => s
  | sp :: rest, s, t =>
    let x := s.launch l
    let n := teamBlocksOf x.record
    let s := placeTeam s l t sp ((poolPlace s (s.vmidFunc x.vmid) n).getD 0)
    placeTeams l rest (s.setLaunch l { s.launch l with next := max (s.launch l).next (t + 1) }) (t + 1)

/-- A decision's placement is made: the partition's cursor moves, and no claim is open. -/
def setCursor (s : State) (part cursor : Nat) : State := s.setPart part { s.part part with cursor := cursor, claim := none }

/-! ## The decisions (R77–R82) -/

/-- What a decision comes to: nothing; evictions with the placement they are made for; the end of such a claim that can no longer be
made good; the rejection of a head; or a placement. -/
inductive Decision where
  | none
  | evict (c : Claim)
  | drop
  | reject (l : Nat)
  | act (p : Placing)

/-- A placement, or the evictions that it needs first (R79–R81). -/
def Decision.of (gone : List Nat) (p : Placing) : Decision := if gone.isEmpty then .act p else .evict { gone := gone, act := p }

/-- A team that waits to be placed: evicted and saved, evicted without a saved record, or never placed. -/
def waitingTeam (t : Team) : Bool := t.evicted && !t.resident && !t.parked && !t.exited

/-- The first unplaced team of a priority: evicted ones first, then by order of admission and team number (R78). -/
def firstUnplaced (s : State) (part prio : Nat) : Option (Nat × Nat) :=
  let ls := s.launches.filter fun (l : Nat × Launch) => l.2.part == part && l.2.prio == prio && l.2.stage == .admitted && funcRuns s l.2.vmid
  let least (xs : List (Nat × Nat)) : Option (Nat × Nat) := xs.foldl (fun best x =>
    match best with
    | none => some x
    | some b => if (s.launch x.1).order < (s.launch b.1).order || (x.1 == b.1 && x.2 < b.2) then some x else best) none
  let evicted := ls.flatMap fun l => (s.teams.filter fun t => t.2.launch == l.1 && waitingTeam t.2).map fun t => (l.1, t.2.teamid)
  let fresh := (ls.filter fun l => l.2.next < l.2.record.teams).map fun l => (l.1, l.2.next)
  (least evicted).orElse fun _ => least fresh

/-- The recorded place of an evicted team is free on the cores from `core` on, at the recorded split, which R84 may give them (15,
R343). -/
def restoreFits (s : State) (w : World) (t : Nat) (core : Nat) (change : Bool) : Bool :=
  let x := s.team t
  let r := (s.launch x.launch).record
  let c := s.saved.getD t { scratch := [], tiles := [], slices := [] }
  (r.cores core).all fun k =>
    let room := roomOf s w k
    let off := if k = core then x.spOff0 else x.spOff1
    let own (i : Nat) : Bool := i / 2 ^ 16 == b2n (k != core)
    (room.split == x.split || (change && splitAllowed room x.split)) && decide (off + x.spLen ≤ splitSize x.split) && (x.spLen = 0 || room.spans.all fun y => decide (y.1 + y.2 ≤ off) || decide (off + x.spLen ≤ y.1)) &&
    (c.tiles.all fun p => !own p.1 || w.gone.any (fun g => (tileOf s k (p.1 % 2 ^ 16)).owner == some g) || (tileOf s k (p.1 % 2 ^ 16)).owner.isNone) &&
    c.slices.all fun p => !own p.1 ||
      (match ((s.core k).slices.getD (p.1 % 2 ^ 16) (none, false)).1 with | none => true | some o => w.gone.contains o)

/-- The first position from the cursor round whose in-cluster index is the recorded one and where an evicted team fits unchanged (R83; 15,
R343). -/
def restoreSpot (s : State) (w : World) (t : Nat) : Option (Spot × Nat) :=
  let x := s.team t
  let l := s.launch x.launch
  let r := l.record
  fromCursor s w l.part r fun core change =>
    if core % 48 != x.core % 48 || !restoreFits s w t core change then none
    else
      let fits := ((r.cores core).zip r.halves).map fun p =>
        let room := roomOf s w p.1
        (assign p.1 r.width p.2 room).bind fun a =>
          if room.regs + p.2.length * r.vfloor * r.width ≤ 2048 && room.teams < 16 then some a.1 else none
      if fits.any (·.isNone) then none
      else some { core := core, cores := r.cores core, split := x.split, groups := (fits.filterMap id).flatten, offs := [x.spOff0, x.spOff1],
                  len := x.spLen }

/-- The decision about one unplaced team: none where it does not fit, or a fault holds its restore: it then stops step 1 too (log 92)
(R78, R79). -/
def teamDecision (s : State) (part l teamid : Nat) : Option Decision :=
  let x := s.launch l
  let t := l * 2 ^ 32 + teamid
  let w := worldNow s part (s.vmidFunc x.vmid)
  if s.saved.any fun y => y.1 == t then
    if s.held.any fun h => h.at_ == .restore t then none
    else
      (withEvictions w (fun w => restoreSpot s w t) (evictable s part x.prio [])).map fun (sp, w) => .of w.gone (.restore t sp.1 sp.2)
  else
    (teamCheck s x w).map fun (sp, w) => .of w.gone (.place l teamid sp.1 sp.2)

/-- The decision about a head: rejection, admission, or none where it does not fit yet (R80–R82). -/
def headDecision (s : State) (part l : Nat) : Option Decision :=
  let x := s.launch l
  let r := x.record
  let fn := s.vmidFunc x.vmid
  if neverFits s x then some (.reject l)
  else
    let w := worldNow s part fn
    match worldBlock s fn w (contextBlocksOf r) with
    | none => none
    | some b =>
      let w := { w with held := w.held ++ [(b, contextBlocksOf r)] }
      (teamsCheck s x (if r.coop then r.teams else 1) w).map fun (sps, w) => .of w.gone (.admits l sps w.cursor)

/-- Step 1 of R78 from priority `p` downward: a decision, or the priority at which a team does not fit. -/
def stepOne (s : State) (part : Nat) : Nat → Option (Decision ⊕ Nat)
  | 0 => none
  | p + 1 =>
    match firstUnplaced s part p with
    | none => stepOne s part p
    | some (l, t) =>
      match teamDecision s part l t with
      | some d => some (.inl d)
      | none => some (.inr p)

/-- Step 2 of R78: the heads in the order in which they are offered, above priority `floor`. A head still to be read stops
the step. -/
def stepTwo (s : State) (part : Nat) (floor : Option Nat) : List (Nat × Launch) → Decision
  | [] => .none
  | (k, l) :: rest =>
    if (match floor with | some p => decide (l.prio ≤ p) | none => false) then .none
    else if l.stage != .offered then .none
    else
      match headDecision s part k with
      | some d => d
      | none => stepTwo s part floor rest

/-- Records of these sizes have room together in the pool of a function. -/
def poolFits (s : State) (fn : Nat) : List Nat → World → Bool
  | [], _ => true
  | n :: ns, w =>
    match worldBlock s fn w n with
    | none => false
    | some b => poolFits s fn ns { w with held := w.held ++ [(b, n)] }

/-- A claim can still be made good: its launch stands as it did, its function runs, and pool and recorded places are free. -/
def claimHolds (s : State) (part : Nat) (p : Placing) : Bool :=
  let pool (x : Launch) (ns : List Nat) : Bool :=
    let fn := s.vmidFunc x.vmid
    funcRuns s x.vmid && poolFits s fn ns (worldNow s part fn)
  match p with
  | .place l teamid _ _ =>
    let x := s.launch l
    x.stage == .admitted && (s.teams.find? (l * 2 ^ 32 + teamid)).all (fun t => !t.resident) && pool x [teamBlocksOf x.record]
  | .admits l sps _ =>
    let x := s.launch l
    x.stage == .offered && pool x (contextBlocksOf x.record :: sps.map fun _ => teamBlocksOf x.record)
  | .restore t sp _ =>
    let y := s.team t
    let x := s.launch y.launch
    x.stage == .admitted && waitingTeam y && pool x [] && !(s.held.any fun h => h.at_ == .restore t) &&
      restoreFits s (worldNow s part (s.vmidFunc x.vmid)) t sp.core true

/-- The next decision of a partition (R77, R78). One whose evictions are not complete goes on, and no other is made meanwhile. -/
def decide' (s : State) (part : Nat) : Decision :=
  let p := s.part part
  if p.clusters = 0 then .none
  else
    match p.claim with
    | some c => if c.gone.any fun t => (s.team t).resident then .none else if claimHolds s part c.act then .act c.act else .drop
    | none =>
    match stepOne s part 4 with
    | some (.inl d) => d
    | some (.inr floor) => stepTwo s part (some floor) (offers s part)
    | none => stepTwo s part none (offers s part)

/-- Teams are chosen for eviction: they stop issue between two instructions (15, R342). -/
def chooseEvicted (s : State) (ts : List Nat) : State := ts.foldl (fun s t => s.setTeam t { s.team t with stopping := true }) s

/-- The cores whose split a spot changes wait for no dirty line. -/
def spotWaits (s : State) (sp : Spot) : Bool := coresBlocked s (sp.cores.filter fun c => (s.core c).split < sp.split)

/-- `ADMISSION_DECISION` of the partition at `focus` (R77–R84). -/
def execAdmissionDecision (s : State) : Host.Outcome State Fault Refusal :=
  let part := s.focus
  .next (match decide' s part with
    | .none => s
    | .evict c => chooseEvicted (s.setPart part { s.part part with claim := some c }) c.gone
    | .drop => s.setPart part { s.part part with claim := none }
    | .reject l => nextHead (s.setStage l (.finishing 0x0104)) (s.launch l).queue
    | .act (.restore _ _ _) => s
    | .act (.place l t sp cursor) => if spotWaits s sp then s else setCursor (placeTeams l [sp] s t) part cursor
    | .act (.admits l sps cursor) =>
      if sps.any (spotWaits s) then s
      else
        let x := s.launch l
        let p := s.part part
        let fn := s.vmidFunc x.vmid
        let n := contextBlocksOf x.record
        let s := s.setPart part { p with cursor := cursor, claim := none, admitted := p.admitted + 1, last := p.last.set x.prio x.queue }
        let s := s.setLaunch l { x with stage := .admitted, order := p.admitted + 1, image := (poolPlace s fn n).map fun b => (b, n),
                                        pop := if x.record.pop then { x.pop with live := x.record.popCap } else x.pop }
        nextHead (placeTeams l sps s 0) x.queue)

/-! ## The active sets (R88) -/

/-- `ACTIVE_SET_ROTATE` of a scheduler: row 4 of Table 4.2, where no event of the rows above it is still to be applied. -/
def execActiveSetRotate (core sched : Nat) (s : State) : Host.Outcome State Fault Refusal :=
  let x := s.sched core sched
  let first (a b : Seat) : Bool :=
    decide (a.since < b.since) || (a.since == b.since && decide ((s.group a.group).units.headD 0 < (s.group b.group).units.headD 0))
  let longest : Option Seat := x.active.foldl (fun best a => match best with | none => some a | some b => if first a b then some a else best) none
  .next (if s.now < x.entry + 2048 || !x.due.isEmpty || !s.clockRuns core then s
    else
      match s.oldestReady x with
      | none => s
      | some p =>
        let enter : Seat := { group := p.group, since := s.now }
        let pending := x.pending.filter (·.group != p.group)
        match longest with
        | none => s.setSched core sched { x with active := [enter], pending := pending, entry := s.now }
        | some o =>
          s.setSched core sched { x with active := x.active.filter (·.group != o.group) ++ [enter],
                                         pending := s.pendNow o.group pending, entry := s.now })

/-! ## The register pool (R90, R91) -/

/-- `REG_ALLOC_GRANT` of the group at `focus`: the oldest that waits, once the pool holds what it asks for. -/
def execRegAllocGrant (s : State) : Host.Outcome State Fault Refusal :=
  let k := s.focus
  .next (match s.groups.find? k with
    | none => s
    | some g =>
      if g.wait != .alloc || !s.clockRuns g.core || s.olderWaits k g || s.poolFree g.core < g.need then s
      else s.setGroup k { g with wait := .none, granted := g.need })

/-- Physical registers that a group holds. -/
def Group.physical (g : Group) : Nat := g.nameCount * (g.width / 32)

/-- A victim class of R91: 0 pending, 1 active and not waiting for registers, 2 waiting for registers. -/
def victimClass (s : State) (k : Nat) (g : Group) : Nat :=
  if (s.sched g.core g.sched).pending.any (·.group == k) then 0 else if g.wait == .alloc then 2 else 1

/-- Victim `a` is spilled before victim `b`. -/
def spilledBefore (s : State) (a b : Nat × Group) : Bool :=
  let x := victimClass s a.1 a.2
  let y := victimClass s b.1 b.2
  decide (x < y) || (x == y && (decide (b.2.physical < a.2.physical) || (b.2.physical == a.2.physical && decide (b.2.placedAt < a.2.placedAt))))

/-- The next victim on a core other than group `k`. -/
def nextVictim (s : State) (core k : Nat) : Option (Nat × Group) :=
  (s.groups.filter fun g => g.2.core == core && g.1 != k && g.2.spilled.isNone && !g.2.ended && !g.2.vregs.isEmpty && (s.team g.2.team).resident &&
      !s.quiesced (s.launchOf g.2)).foldl
    (fun best x => match best with | none => some x | some b => if spilledBefore s x b then some x else best) none

/-- Spill victims until the pool holds what group `k` asks for. -/
def spillUntil (core k need : Nat) : Nat → State → State
  | 0, s => s
  | fuel + 1, s =>
    if need ≤ s.poolFree core then s
    else
      match nextVictim s core k with
      | none => s
      | some (v, _) => spillUntil core k need fuel (spillGroup s v)

/-- The oldest group of a core that waits for registers. -/
def oldestWaiter (s : State) (core : Nat) : Option (Nat × Group) :=
  (s.groups.filter fun g => g.2.core == core && g.2.wait == .alloc && (s.team g.2.team).resident).foldl
    (fun best x => match best with | none => some x | some b => if x.2.placedAt < b.2.placedAt then some x else best) none

/-- What a spilled group takes from the pool to come back: its count less its reservation (R91). -/
def restoreNeed (s : State) (g : Group) : Nat := (g.nameCount - (s.launch (s.launchOf g)).record.vfloor) * (g.width / 32)

/-- The spilled groups of the core that are older than group `k`, which come back before anything is granted to it (R91). -/
def spilledElders (s : State) (g : Group) : List (Nat × Group) :=
  s.groups.filter fun p => p.2.core == g.core && (s.team p.2.team).resident && p.2.spilled.isSome && decide (p.2.placedAt < g.placedAt)

/-- A spilled group comes back (R91). -/
def restoreGroup (s : State) (k : Nat) : State :=
  let g := s.group k
  match g.spilled with
  | some vs => s.setGroup k { g with vregs := vs, spilled := none }
  | none => s

/-- `SPILL_GROUPS` of the core at `focus`: 256 cycles without an issue while a group waits for registers (R91). The elders that stand
spilled come back first, where the core can hold them beside the request (log 79). -/
def execSpillGroups (s : State) : Host.Outcome State Fault Refusal :=
  let core := s.focus
  .next (match oldestWaiter s core with
    | none => s
    | some (k, g) =>
      let elders := spilledElders s g
      let total := g.need + (elders.map fun p => restoreNeed s p.2).sum
      if s.now < (s.core core).issueAt + 256 || !s.clockRuns core || (elders.isEmpty && decide (g.need ≤ s.poolFree core)) ||
          s.quiesced (s.launchOf g) then s
      else if s.teams.any fun t => t.2.resident && (teamCores s t.2).contains core && poolWaits s (s.vmidFunc (s.launch t.2.launch).vmid) t.2.image then s
      else
        let s := spillUntil core k total s.groups.length s
        let s := if total ≤ s.poolFree core then elders.foldl (fun s p => restoreGroup s p.1) s else s
        if s.poolFree core < g.need then s else s.setGroup k { s.group k with wait := .none, granted := g.need })

/-- `SPILL_RESTORE` of the group at `focus` (R91). -/
def execSpillRestore (s : State) : Host.Outcome State Fault Refusal :=
  let k := s.focus
  .next (match s.groups.find? k with
    | none => s
    | some g =>
      if !(s.team g.team).resident || !s.clockRuns g.core || s.olderWaits k g || s.poolFree g.core < restoreNeed s g then s
      else restoreGroup s k)

/-! ## Ends (R92; 06, R141) -/

/-- Where the word of a held lock lies: as its record translates, else as at the grant (12, R292). -/
def lockWord (s : State) (k : Nat) (h : Holding) : Nat :=
  match s.lockPlace (s.who k) h.record with
  | .ok x => x.pa
  | .error _ => h.place

/-- A group that ends releases the locks it holds, as by `lkrel` (12, R292). -/
def dropLocks (s : State) (k : Nat) : State :=
  (s.group k).locks.foldl (fun s h =>
    let pa := lockWord s k h
    (((s.mergeLine (lineOf pa)).readLine (lineOf pa)).dropLock k pa h.record).count (s.launchOf (s.group k)) 13 8) s

/-- A lock word that a group holds waits for its line. -/
def locksWait (s : State) (k : Nat) : Bool :=
  (s.group k).locks.any fun h => s.lineBlocked (some (s.group k).core) (lineOf (lockWord s k h))

/-- The windows of a team with their intervals translated again, or the fault with its address. -/
def windowsAgain (s : State) (core asid : Nat) : List LoamWindow → Except (XFault × Nat) (List LoamWindow)
  | [] => .ok []
  | w :: ws =>
    match s.intervals core asid (if w.writable then .write else .read) (CopyCmd.pages 10 w.gb w.len) with
    | .error x => .error x
    | .ok ps =>
      let words := State.intervalWords ps
      (windowsAgain s core asid ws).map fun rest => { w with place := words.map (·.1), log := words.map (·.2) } :: rest

/-- A team whose launch has ended stays in its image to the end: its groups end there (15, R335; log 99). -/
def endsAway (s : State) (t : Nat) : Bool :=
  let x := s.team t
  x.evicted && !x.resident && !x.exited && (match (s.launch x.launch).stage with | .finishing _ => true | _ => false)

/-- The dirty window words of a team that ends in its image: each with its place, translated again where it translates, its log and its
bytes, and whether they are poisoned. -/
def savedDirty (s : State) (t : Nat) : List (Nat × Option Nat × List Byte × Bool) :=
  let x := s.team t
  let kept := s.saved.getD t { scratch := [], tiles := [], slices := [] }
  let ws := match windowsAgain s x.core (s.launch x.launch).asid x.windows with | .ok ws => ws | .error _ => x.windows
  ws.flatMap fun w =>
    let half := b2n (bitsOf w.sp 24 19 != x.core % 48)
    (State.dirtyWords w).map fun j =>
      let off := bitsOf w.sp 18 0 + 4 * j
      (w.place.getD j 0, w.log.getD j none, Memory.bytes kept.scratch (off + half * 2 ^ 19) 4, kept.spoison.contains (off / 4 + half * 2 ^ 17))

/-- The write-back of a team's windows at its end, from its image (R92; 10, R235); none while a line or the log makes it wait. -/
def writeBackSaved (s : State) (t : Nat) : Option State :=
  let x := s.team t
  let fn := s.vmidFunc (s.launch x.launch).vmid
  let ds := savedDirty s t
  if ds.any (fun d => s.lineBlocked none (lineOf d.1)) || (s.logHolds fn && ds.any fun d => d.2.1.isSome) then none
  else
    let s := ds.foldl (fun (s : State) d =>
      let s := match d.2.1 with | some ipa => s.noteLog fn ipa 4 | none => s
      (s.mergeLine (lineOf d.1)).homeWrite none (some t) (cellsAt d.1 d.2.2.1) (if d.2.2.2 then [d.1 / 32] else [])) s
    some ((s.setTeam t { x with windows := [] }).count x.launch 13 (4 * ds.length))

/-- No lane is left and every long-latency instruction of the group has completed; a group of a population ends only with
its launch (R141; 13, R294). -/
def groupOver (s : State) (k : Nat) (g : Group) : Bool :=
  let l := s.launch (s.launchOf g)
  let ends := match l.stage with | .finishing _ => true | _ => !l.record.pop
  !g.ended && g.exited == g.allLanes && ends && (g.windows.all (·.done)) && !s.peersOpen k && g.asyncs.isEmpty && g.trap.isNone &&
    (((s.team g.team).resident && s.clockRuns g.core) || endsAway s g.team) && funcRuns s l.vmid

/-- The end of a group: its locks are released, it leaves its scheduler, and the barriers are tested without it. -/
def endGroup (s : State) (k : Nat) : State :=
  let s := if (s.group k).locks.isEmpty then s else dropLocks s k
  let g := s.group k
  let s := (s.setGroup k { g with ended := true, windows := [], slotA := {}, slotB := {}, wait := .none, locks := [] }).leaveSched k
  let s := s.traceStop (s.group k) 2
  testGbar (testBarriers s g.team) (s.launchOf g)

/-- `GROUP_END`. -/
def execGroupEnd (group : Nat) (s : State) : Host.Outcome State Fault Refusal :=
  .next (match s.groups.find? group with
    | none => s
    | some g =>
      if !groupOver s group g then s
      else if g.locks.isEmpty then endGroup s group
      else if locksWait s group then s
      else if endsAway s g.team then
        match writeBackSaved s g.team with
        | none => s
        | some s => match s.logReleased (s.vmidFunc (s.launch (s.launchOf g)).vmid) with | none => s.closeLog (s.vmidFunc (s.launch (s.launchOf g)).vmid) | some s => endGroup s group
      else
        match s.release? (s.who group) true true with
        | (s, false) => s
        | (s, true) => endGroup s group)

/-- Every lane of a population has exited, no deposit is held, and all its teams are placed: the launch completes (13, R294). -/
def populationOver (s : State) (l : Nat) : Bool :=
  let x := s.launch l
  x.deposit.isEmpty && x.next == x.record.teams && (s.launchGroups l).all fun g => g.2.exited == g.2.allLanes && g.2.windows.all (·.done)

/-- The engines of a core have nothing more of a team to do. -/
def enginesDone (s : State) (t : Nat) : Bool :=
  !(s.cores.any fun c => (c.2.copies.any fun x => x.team == t) || c.2.mq.any fun e => (s.group e.group).team == t)

/-- The team can exit (R92; 13, R294, R303). -/
def teamOver (s : State) (t : Nat) : Bool :=
  let x := s.team t
  let l := s.launch x.launch
  ((x.resident && (teamCores s x).all s.clockRuns) || endsAway s t) && l.deposit.isEmpty && enginesDone s t && funcRuns s l.vmid &&
    (((s.teamGroups t).all fun g => g.2.ended) || (l.record.pop && l.stage == .admitted && populationOver s x.launch))

/-- What a team held of a core is free again: tiles, and slices zeroed (R92; 09, R203, R207). -/
def freeCore (s : State) (t core : Nat) : State :=
  let k := s.core core
  let mine : List Nat := (k.slices.filter fun (x : Nat × Option Nat × Bool) => x.2.1 == some t).map Prod.fst
  s.setCore core { k with tiles := k.tiles.filter fun x => x.2.owner != some t
                          slices := k.slices.filter fun x => !mine.contains x.1
                          kaolin := k.kaolin.filter fun c => !mine.contains (c.1 / 4096)
                          kpoison := k.kpoison.filter fun w => !mine.contains (w / 512) }

/-- EVICT_CMD.GO reads 1 until none of the named launch's teams waits to be saved: each has been saved, or has exited first (15, R344). -/
def testEvict (s : State) (func : Nat) : State :=
  let f := s.func func
  if !f.evGo then s
  else if s.teams.any fun t => t.2.resident && t.2.stopping && (s.launch t.2.launch).queue == f.evQueue && (s.launch t.2.launch).index == f.evIndex then s
  else s.setFunc func { f with evGo := false }

/-- The VMID is bound to the function. -/
def vmidOf (s : State) (func vmid : Nat) : Bool := vmid != 0 && (s.vm vmid).valid && s.vmidFunc vmid == func

/-- A resume or restore of a function is complete, and GO reads 0, once no team of its waits to be placed again (16, R368). -/
def testRestored (s : State) (func : Nat) : State :=
  let f := s.func func
  if f.vfState != 3 || s.teams.any fun t => waitingTeam t.2 && vmidOf s func (s.launch t.2.launch).vmid then s
  else s.setFunc func { f with vfGo := false, vfState := 0 }

/-- `TEAM_EXIT` (R92). -/
def execTeamExit (team : Nat) (s : State) : Host.Outcome State Fault Refusal :=
  .next (if !teamOver s team then s
    else if endsAway s team then
      match writeBackSaved s team with
      | none => s
      | some s =>
        let s := { s.setTeam team { s.team team with evicted := false, exited := true, windows := [], image := none } with
                   saved := s.saved.erase team, savedCopies := s.savedCopies.erase team }
        testRestored s (s.vmidFunc (s.launch (s.team team).launch).vmid)
    else
      let x := s.team team
      let cores := teamCores s x
      let lines := cores.any fun c => (s.releaseLines c team false).any (s.lineBlocked (some c))
      let holders := (s.teamGroups team).filter fun g => !g.2.ended && !g.2.locks.isEmpty
      if lines || x.windows.any (s.dirtyClaimed x) || (s.windowLogHolds team fun _ => true) || holders.any (fun g => locksWait s g.1) then s
      else
        match holders.foldl (fun (s, b) g => let (s, ok) := s.release? (s.who g.1) true true; (s, b && ok)) (s, true) with
        | (s, false) => s
        | (s, true) =>
        let s := cores.foldl (fun s c => s.mergeSilt c fun l => l.owners.contains team) s
        let s := s.writeBackAll x.core team
        let s := (s.teamGroups team).foldl (fun s g => if g.2.ended then s else endGroup s g.1) s
        let s := cores.foldl (fun s c => freeCore s team c) s
        let s := s.setTeam team { s.team team with resident := false, exited := true, stopping := false, windows := [], image := none }
        let l := s.launch x.launch
        let s := testEvict s (s.vmidFunc l.vmid)
        if l.stage == .admitted && l.next == l.record.teams && s.teams.all (fun t => t.2.launch != x.launch || t.2.exited) then
          s.setStage x.launch (.finishing 1)
        else s)

end Sys2Proof.Machine
end

