-- ==== Sys2Proof/Machine/Groups.lean ====
section
/-! DEFINITION. What comes about for a group between its instructions: fetch, completion of long-latency instructions, the
spill region of its stack, the end of a yield, and the waking of `waita` (05, R111, R113, R114; 06, R121, R144; 12, R288). -/

namespace Sys2Proof.Machine

/-! ## Fetch (05, R113, R114) -/

/-- `INSTRUCTION_FETCH` of a slot's bundle: into the stream, or a held fault attributed to the instruction that the slot
would issue first from it. -/
def execInstructionFetch (group : Nat) (slotB : Bool) (s : State) : Host.Outcome State Fault Refusal :=
  .next (match s.groups.find? group with
    | none => s
    | some g =>
      let p := g.slot slotB
      if p.owned == 0 || p.join || g.wait != .none || g.replay.isSome || g.trap.isSome || !s.agentsRun g.team g.core || groupHalted s g then s
      else if s.fetchWaits g slotB then s
      else
        match s.fetched group g slotB with
        | (t, some x) => if multiplies t g.core then t else t.fetchFault group g slotB x
        | (t, none) => t)

/-! ## Long-latency completion (05, R111) -/

/-- The window of a group at a place, marked complete, and every window that is now due closed. -/
def completeWindow (g : Group) (i : Nat) : Group :=
  let was := g.spilled
  let g := State.unspill g
  let g := Group.closeDue { g with windows := g.windows.zipIdx.map fun (w, j) => if j = i then { w with done := true } else w }
  State.respill was g

/-- `LONG_LATENCY_COMPLETE` of the window that stands at place `window`: no lane of it is held or waits for the network; its
amounts are counted (17, R382). -/
def execLongLatencyComplete (group window : Nat) (s : State) : Host.Outcome State Fault Refusal :=
  .next (match s.groups.find? group with
    | none => s
    | some g =>
      match g.windows[window]? with
      | none => s
      | some w =>
        if w.done || w.held != 0 || w.pend != 0 || !(s.team g.team).resident || !s.clockRuns g.core then s
        else (s.countAll (s.launchOf g) w.tally).setGroup group (completeWindow g window))

/-! ## The spill region of the stack (06, R121) -/

/-- The slot whose operation needs the region. -/
def spillSlot (s : State) (g : Group) : Bool :=
  if arrivalDue s g false then false else if arrivalDue s g true then true else (s.pickSlot g).getD (!g.lastB)

/-- The accesses that the operation may make: the entry that a push writes, or the entries that a pop reads. -/
def spillAccesses (s : State) (g : Group) : List (Access × Nat) :=
  let b := spillSlot s g
  let due := arrivalDue s g b
  let onChip := g.stack.any fun e => e.tag == .group || e.tag == (if b then Tag.slotB else Tag.slotA)
  let push := g.stack.length = 4 && !due && decide (g.deep < (s.launch (s.launchOf g)).record.stackN)
  (if push then [(.write, g.deep)] else []) ++
    if due || g.stack.length < 4 || !onChip then (List.range g.deep).reverse.map fun j => (.read, j) else []

/-- An access of the operation that translates and whose line waits. -/
def spillBlocked (s : State) (g : Group) : Bool :=
  (spillAccesses s g).any fun a =>
    match s.spillXlat g a.2 a.1 with
    | .ok x => s.lineBlocked (some g.core) (lineOf x.pa)
    | .error _ => false

/-- `STACK_SPILL_ACCESS`: the region is reached; the push or pop that waited for it is then made, each of its accesses with the fault it
may meet (`spillFault`). -/
def execStackSpillAccess (group : Nat) (s : State) : Host.Outcome State Fault Refusal :=
  .next (match s.groups.find? group with
    | none => s
    | some g =>
      if g.spill != .wanted || g.wait != .none || !(s.team g.team).resident || !s.clockRuns g.core || spillBlocked s g then s
      else
        match (spillAccesses s g).foldl (fun (s, w) a => let (s, x) := s.spillTouch g a.1 a.2; (s, w || x)) (s, false) with
        | (s, true) => s
        | (s, false) => s.setGroup group { s.group group with spill := .granted })

/-! ## Yields (06, R144) -/

/-- `YIELD_RELEASE`: the other active groups have issued or cannot, or 64 cycles have passed. -/
def execYieldRelease (group : Nat) (slotB : Bool) (s : State) : Host.Outcome State Fault Refusal :=
  .next (match s.groups.find? group with
    | none => s
    | some g =>
      let p := g.slot slotB
      match p.yieldAt with
      | none => s
      | some at_ =>
        let able (k : Nat) : Bool := s.seated k (s.group k) && s.mayIssue k (s.group k) && (s.pickSlot (s.group k)).isSome
        if !(s.team g.team).resident || !s.clockRuns g.core then s
        else if at_ + 64 ≤ s.now || !(p.yieldFor.any able) then s.setGroup group (g.setSlot slotB { p with yieldAt := none, yieldFor := [] })
        else s)

/-! ## `waita` (12, R288) -/

/-- The walk that a waking `waita` needs to find its word is made. -/
def waitaWalked (s : State) (core asid : Nat) (w : WaitaWait) : State :=
  if w.sp || w.addr % (if w.wide then 8 else 4) != 0 then s else s.walked core asid w.addr

/-- `WAITA_WAKE`: the word is found and read again, and the condition tested. -/
def execWaitaWake (group : Nat) (s : State) : Host.Outcome State Fault Refusal :=
  .next (match s.groups.find? group with
    | none => s
    | some g =>
      match g.wait with
      | .waita w =>
        if !w.woken || !s.agentsRun g.team g.core then s
        else
          let s := waitaWalked s g.core (s.who group).asid w
          match waitaPlace s (s.who group) w.sp w.wide w.addr with
          | .error x => if multiplies s g.core then s else s.endWait group fun c => holdWhole c c.s x 0 w.addr
          | .ok (notify, place) =>
            let w := { w with notify := notify, place := place }
            match waitaRead s g.core w with
            | (s, none) => s
            | (s, some v) =>
              if w.holds v then s.endWait group fun c => giveResult c (spread c 1)
              else s.setGroup group { s.group group with wait := .waita { w with woken := false } }
      | _ => s)

/-- `WAITA_TIMEOUT`: the resident cycles have passed. -/
def execWaitaTimeout (group : Nat) (s : State) : Host.Outcome State Fault Refusal :=
  .next (match s.groups.find? group with
    | none => s
    | some g =>
      match g.wait with
      | .waita w => if w.timeout = 0 && s.agentsRun g.team g.core then s.endWait group fun c => giveResult c (spread c 0) else s
      | _ => s)

end Sys2Proof.Machine
end

