-- ==== Sys2Proof/Machine/BaseDie.lean ====
section
/-! DEFINITION. The address map's registers (10, R230, R231), rekeying (R240), the base dies and their packets (R233, R238, R239; 16,
R361, R373, R374), and the error log (16, R378). -/

namespace Sys2Proof.Machine

/-! ## The range checks (10, R231, Table 10.3) -/

namespace RangeEntry

/-- The size S of the range, its channel count N, and its footprint F in each channel, in 1/32 of a byte. -/
def size (r : RangeEntry) : Nat := (r.limit + 1 - r.base) * 65536
def channels (r : RangeEntry) : Nat := 2 ^ (r.stackLog + r.chLog)
def print32 (r : RangeEntry) : Nat := r.size / r.channels * (if r.conf then 33 else 32)

/-- The slices, and the channels as stack · 32 + channel. -/
def slices (r : RangeEntry) : List Nat := (List.range (2 ^ r.sliceLog)).map (r.sliceBase + ·)
def chans (r : RangeEntry) : List Nat :=
  (List.range (2 ^ r.stackLog)).flatMap fun i => (List.range (2 ^ r.chLog)).map fun j => (r.stackBase + i) * 32 + r.chBase + j

/-- Some channel serves both ranges. -/
def shares (r q : RangeEntry) : Bool := r.chans.any q.chans.contains

/-- Where the footprint begins, in 1/32 of a byte. -/
def start32 (r : RangeEntry) : Nat := r.dramOff * 2 ^ 25

end RangeEntry

/-- The first check of Table 10.3 that fails as range `n` with entry `r` is enabled; 0 where none does. -/
def enableError (s : State) (n : Nat) (r : RangeEntry) : Nat :=
  let others := (s.ranges.filter fun (x : Nat × RangeEntry) => x.1 != n && x.2.enable).map Prod.snd
  if r.limit < r.base || others.any fun q => decide (r.base ≤ q.limit) && decide (q.base ≤ r.limit) then 1
  else if 8 < r.gran || r.sliceBase % 2 ^ r.sliceLog != 0 || r.chBase % 2 ^ r.chLog != 0 || r.stackBase % 2 ^ r.stackLog != 0 ||
      decide (128 < r.sliceBase + 2 ^ r.sliceLog) || decide (32 < r.chBase + 2 ^ r.chLog) || decide (8 < r.stackBase + 2 ^ r.stackLog) ||
      r.size % (256 * 2 ^ r.gran * r.channels) != 0 then 2
  else if decide (1536 * 2 ^ 25 < r.start32 + r.print32) || others.any fun q =>
      r.shares q && decide (r.start32 < q.start32 + q.print32) && decide (q.start32 < r.start32 + r.print32) then 3
  else if others.any fun q => q.part != r.part && (r.shares q || r.slices.any q.slices.contains) then 4
  else if r.conf && r.keySlot = 0 then 5
  else 0

/-- The device physical address of a byte of a stack's channel, where an enabled range has it (10, R232). -/
def addressOf (s : State) (stack chan coff : Nat) : Option Nat :=
  s.ranges.findSome? fun (x : Nat × RangeEntry) =>
    let r := x.2
    let g := 256 * 2 ^ r.gran
    let off := coff - r.dramOff * 2 ^ 20
    let n := off / g * r.channels + (chan - r.chBase) * 2 ^ r.stackLog + (stack - r.stackBase)
    if r.enable && decide (r.dramOff * 2 ^ 20 ≤ coff) && decide (off < r.size / r.channels) && decide (r.stackBase ≤ stack) &&
        decide (stack < r.stackBase + 2 ^ r.stackLog) && decide (r.chBase ≤ chan) && decide (chan < r.chBase + 2 ^ r.chLog)
    then some (r.base * 65536 + n * g + off % g) else none

/-- The place of a byte of storage: its stack and channel, and the byte in the channel. -/
def placeKey (p : Nat × Nat × Nat) : Nat := (p.1 * 32 + p.2.1) * 2 ^ 31 + p.2.2

/-- An address lies in range `r`. -/
def RangeEntry.holds (r : RangeEntry) (pa : Nat) : Bool := decide (r.base ≤ pa / 65536) && decide (pa / 65536 ≤ r.limit)

/-- The key that a range's bytes are encrypted under; 0 for none (10, R238). -/
def rangeTag (s : State) (r : RangeEntry) : Nat := if r.conf then 1 + (s.keys.find? r.keySlot).getD (Config.slotKey r.keySlot) else 0

/-- Chunks of a confidential block that have been written or rekeyed: they hold a check under the range's key (10, R238, R240). -/
def ConfBlock.chunks (b : ConfBlock) (k : Nat) : List Nat := if b.major = 0 then b.minor.map Prod.fst else (List.range 64).map (64 * k + ·)

/-- The chunks of range `r` whose bytes stand in its storage: those with a byte that is not 0, and those that hold a check (log 94). -/
def storedChunks (s : State) (r : RangeEntry) : List Nat :=
  let bytes : List Nat := (s.home.filter fun (c : Host.Cell) => r.holds c.1).map fun c => c.1 / 64
  let checked : List Nat := (s.confs.filter fun (b : Nat × ConfBlock) => r.holds (4096 * b.1)).flatMap fun b => b.2.chunks b.1
  (bytes ++ if r.conf then checked else []).eraseDups

/-- What lay in a range's storage shows at its addresses: bytes written under its key as they are, other bytes as ciphertext, and a
chunk whose check so fails in a confidential range (10, R232, R238). -/
def storageIn (s : State) (r : RangeEntry) : State :=
  let tag := rangeTag s r
  let mine := s.cold.filterMap fun (x : Nat × Nat × Byte) =>
    (addressOf s (x.1 / 2 ^ 36) (x.1 / 2 ^ 31 % 32) (x.1 % 2 ^ 31)).bind fun pa => if r.holds pa then some (pa, x) else none
  if mine.isEmpty then s
  else
    { s with
      mem := Memory.writeAll s.mem (mine.map fun y => (y.1, if y.2.2.1 = tag then y.2.2.2 else Config.garbled y.2.1 y.2.2.1 tag y.2.2.2))
      cold := s.cold.filter fun x => !mine.any fun y => y.2.1 == x.1
      macBad := s.macBad ++ if r.conf then ((mine.filter fun y => y.2.2.1 != tag).map fun y => y.1 / 64).eraseDups else [] }

/-- A request without the writes it makes in a range. -/
def BdReq.outside (r : RangeEntry) : BdReq → BdReq
  | .wr cells => .wr (cells.filter fun c => !r.holds c.1)
  | .atom pa op float signed x => if r.holds pa then .wr [] else .atom pa op float signed x
  | q => q

/-- A range's addresses go, and what its storage holds stays there, every write that was under way included; no slice keeps a line of it. -/
def storageOut (s : State) (r : RangeEntry) : State :=
  let tag := rangeTag s r
  let mine := (storedChunks s r).flatMap fun c => (List.range 64).map fun i => 64 * c + i
  { s with
    mem := s.mem.filter fun c => !r.holds c.1
    cold := mine.foldl (fun t a => Tbl.set t (placeKey (State.placeOf r a)) (tag, s.homeByte a)) s.cold
    bdq := s.bdq.map fun p => { p with req := p.req.outside r }
    l2 := s.l2.mapVals fun _ ls => ls.filter fun x => !r.holds (128 * x.line) }

/-- `RANGE_ENABLE`: a write of ENABLE 1 to word 0 of an entry whose ENABLE is 0. -/
def execRangeEnable (n value : Nat) (s : State) : Host.Outcome State Fault Refusal :=
  let r := s.range n
  .next (if r.enable || !bitOf value 0 then s
    else
      let e := enableError s n r
      let s := s.setRange n { r with err := e, enable := e == 0 }
      if e = 0 then storageIn s r else s)

/-- The range's partition holds an admitted launch, or a rekey of the range is running (check 6). -/
def disableRefused (s : State) (r : RangeEntry) : Bool :=
  r.rekey || s.launches.any fun l => l.2.part == r.part && (match l.2.stage with | .admitted => true | .finishing _ => l.2.order != 0 | _ => false)

/-- `RANGE_DISABLE`: a write of ENABLE 0 to an entry whose ENABLE is 1. -/
def execRangeDisable (n : Nat) (s : State) : Host.Outcome State Fault Refusal :=
  let r := s.range n
  .next (if !r.enable then s
    else if disableRefused s r then s.setRange n { r with err := 6 }
    else (storageOut s r).setRange n { r with err := 0, enable := false })

/-- `RANGE_REKEY`: a new key goes into KEY_SLOT and the re-encryption begins (R240). It concerns a range in use, with ENABLE
kept at 1. -/
def execRangeRekey (n : Nat) (s : State) : Host.Outcome State Fault Refusal :=
  let r := s.range n
  .next (if !r.enable || r.rekey then s
    else { s.setRange n { r with rekey := true } with
           keys := s.keys.set r.keySlot (Config.rangeKey s.root.draws), root := { s.root with draws := s.root.draws + 1 } })

/-- `REKEY_COMPLETE`: every block is encrypted anew with every counter 0 (R240). -/
def execRekeyComplete (n : Nat) (s : State) : Host.Outcome State Fault Refusal :=
  let r := s.range n
  .next (if !r.rekey then s
    else
      let inside (a : Nat) : Bool := r.holds a
      { s.setRange n { r with rekey := false, exhausted := false } with
        confs := s.confs.mapVals fun k (b : ConfBlock) => if inside (k * 4096) then { minor := (b.chunks k).map fun c => (c, 0) } else b
        treeCount := s.treeCount.set n 0
        macBad := s.macBad.filter fun c => !inside (c * 64) })

/-! ## The error log (16, R378) -/

/-- What an error record says (Table 16.6). -/
structure ErrorRec where
  cls    : Nat
  poison : Bool := false
  part   : Nat := 0
  chan   : Nat := 0
  stack  : Nat := 0
  slice  : Nat := 0
  core   : Nat := 0
  pa     : Nat := 0

/-- The 256 bits of a record. -/
def ErrorRec.bits (r : ErrorRec) (phase seq : Nat) : Nat :=
  phase + b2n r.poison * 2 + r.cls * 2 ^ 8 + seq % 2 ^ 64 * 2 ^ 64 + r.part * 2 ^ 174 + r.chan * 2 ^ 178 + r.stack * 2 ^ 183 + r.slice * 2 ^ 186 +
    r.core * 2 ^ 193 + r.pa * 2 ^ 204

/-- Append an error record, or drop it and set LOST: so too where the ring's page is logged and the log holds its write (log 41). -/
def State.logError (s : State) (r : ErrorRec) : State :=
  let p := s.pkg
  let lost : State := { s with pkg := { p with errLost := true } }
  if !p.errEnable || decide (2 ^ p.errSize ≤ ringUsed p.errProd p.errCons) then lost
  else
    let slot := p.errBase + 32 * (p.errProd % 2 ^ p.errSize)
    if s.ringWaits 0 (fun i => slot + i) 32 then lost
    else match s.ringWrite 0 (fun i => slot + i) (toBytes 32 (r.bits (phaseOf p.errProd p.errSize) (p.errSeq + 1))) with
    | none => lost
    | some s => { s with pkg := { s.pkg with errProd := (p.errProd + 1) % 2 ^ 32, errSeq := p.errSeq + 1 }, out := s.out ++ [.msix 0 1] }

/-- The die on which an error was corrected: a base die for HBM, else the compute die of its L2 slice or core (01, R14; 10, R232). -/
def ErrorRec.die (r : ErrorRec) : Nat := if r.cls = 3 then 8 + r.stack else if r.slice = 0 then r.core / 192 else r.slice / 16

/-- A corrected error: it counts on its die and in all, and is logged where CE_LOG is 1 (R373, R378). -/
def State.corrected (s : State) (r : ErrorRec) : State :=
  let s := { s with pkg := { s.pkg with ceCount := min (2 ^ 64 - 1) (s.pkg.ceCount + 1), dieCe := s.pkg.dieCe.set r.die (s.pkg.dieCe.getD r.die 0 + 1) } }
  if s.pkg.errCe then s.logError r else s

/-- `ERR_CTL` (R378). -/
def execErrCtlWrite (value : Nat) (s : State) : Host.Outcome State Fault Refusal :=
  .next { s with pkg :=
    { s.pkg with errSize := clamp 6 15 (bitsOf value 15 12), errCe := bitOf value 2, errLost := s.pkg.errLost && !bitOf value 1,
                 errEnable := bitOf value 0, errProd := if bitOf value 0 then 0 else s.pkg.errProd } }

/-- The record of an error at a device physical address in HBM. -/
def hbmError (s : State) (cls : Nat) (poison : Bool) (pa : Nat) : ErrorRec :=
  match s.rangeOf pa with
  | none => { cls := cls, poison := poison, pa := pa }
  | some (_, r) =>
    let p := State.placeOf r pa
    { cls := cls, poison := poison, part := r.part, chan := p.2.1, stack := p.1, pa := pa }

/-! ## Dirty granules (16, R361) -/

/-- The granule of a device physical address, in its stack: channel · 2^22 + byte in the channel / 512. -/
def granuleOf (s : State) (pa : Nat) : Option (Nat × Nat) :=
  (s.rangeOf pa).map fun r => let p := State.placeOf r.2 pa; (p.1, p.2.1 * 2 ^ 22 + p.2.2 / 512)

/-- The pieces of device physical address space that a granule holds: two where GRAN is 0 (R361). -/
def granulePieces (s : State) (stack granule : Nat) : List (Nat × Nat) :=
  let at_ (o : Nat) : Option Nat := addressOf s stack (granule / 2 ^ 22) (granule % 2 ^ 22 * 512 + o)
  match at_ 0, at_ 256 with
  | some a, some b => if b = a + 256 then [(a, 512)] else [(a, 256), (b, 256)]
  | some a, none => [(a, 256)]
  | none, some b => [(b, 256)]
  | none, none => []

/-- Set the dirty bits of the granules that cells are written in. -/
def State.dirtyCells (s : State) (cells : List Host.Cell) : State :=
  ((cells.filterMap fun c => granuleOf s c.1).eraseDups).foldl (fun s g =>
    let d := s.die g.1
    if d.dirty.contains g.2 then s else s.setDie g.1 { d with dirty := d.dirty ++ [g.2] }) s

/-! ## Packets (10, R233) -/

/-- The atoms a request touches. -/
def BdReq.atoms : BdReq → List Nat
  | .rd pa n => (List.range n).map (pa / 32 + ·)
  | .wr cells => (cells.map fun c => c.1 / 32).eraseDups
  | .atom pa _ _ _ _ => [pa / 32]
  | .dtc _ => []

/-- Two packets whose order the base die keeps: they touch one atom, or one tests a granule that the other writes. -/
def packetsMeet (s : State) (a b : BdPacket) : Bool :=
  let tests (p q : BdPacket) : Bool :=
    match p.req with
    | .dtc g => q.req.atoms.any fun x => granuleOf s (32 * x) == some (p.stack, g)
    | _ => false
  a.req.atoms.any b.req.atoms.contains || tests a b || tests b a || a.req == b.req

/-- The packet at `focus` in the order of sending, if it has been sent and the base die may take it now: none before it touches the same
atom. -/
def received (s : State) : Option BdPacket :=
  match s.bdq[s.focus]? with
  | none => none
  | some p => if p.tag.isNone || (s.bdq.take s.focus).any (packetsMeet s p) then none else some p

/-- The packet at `focus` is done with: its reply is on its way. -/
def reply (s : State) (p : BdPacket) (data : List Byte) (poison : List Nat) (granule : Nat) (dirty : Bool) : State :=
  { s with bdq := s.bdq.eraseIdx s.focus
           replies := s.replies ++ [{ die := p.die, stack := p.stack, tag := p.tag.getD 0, data := data, poison := poison, granule := granule, dirty := dirty, marl := p.marl }] }

/-! ## The counters of confidential ranges (10, R238, R239) -/

/-- The largest major counter. -/
def majorMax : Nat := 2 ^ 56 - 1

/-- A write of a chunk of a range would need a new major value that it does not get: the range is exhausted. -/
def needsMajor (s : State) (r : RangeEntry) (pa : Nat) : Bool :=
  let b := s.confs.getD (pa / 4096) {}
  b.minor.getD (pa / 64) 0 == 127 && (r.exhausted || b.major == majorMax)

/-- A counter of range `n` has reached its maximum (R239). -/
def exhaust (s : State) (n : Nat) : State := { s.setRange n { s.range n with exhausted := true } with out := s.out ++ [.management 1] }

/-- One write of a chunk counts, in its block and in the tree; a major or tree counter that reaches its maximum makes the range
read-only. -/
def countChunk (s : State) (n chunk : Nat) : State :=
  let k := chunk / 64
  let b := s.confs.getD k {}
  let m := b.minor.getD chunk 0
  let w := s.treeCount.getD n 0 + 1
  let s := { s with treeCount := s.treeCount.set n w }
  if m < 127 then
    let s := { s with confs := s.confs.set k { b with minor := b.minor.set chunk (m + 1) } }
    if Config.treeFull n w then exhaust s n else s
  else
    let s := { s with confs := s.confs.set k { major := b.major + 1, minor := [(chunk, 1)] } }
    if b.major + 1 = majorMax ∨ Config.treeFull n w then exhaust s n else s

/-- A write waits at the base die: its range is being rekeyed, or a block has no counter left (R239, R240). -/
def writeWaits (s : State) (cells : List Host.Cell) : Bool :=
  cells.any fun c =>
    match s.rangeOf c.1 with
    | none => false
    | some (_, r) => r.rekey || (r.conf && needsMajor s r c.1)

/-- Written bytes: the errors of atoms wholly replaced are gone, and a scrub of an atom written is cancelled (R373, R374). -/
def replaceAtoms (s : State) (cells : List Host.Cell) : State :=
  let atoms := (cells.map fun c => c.1 / 32).eraseDups
  let whole := atoms.filter (State.wholeAtom cells)
  let keep (a : Nat) : Bool := !whole.contains a
  let chunks := (whole.map (· / 2)).filter fun c => whole.contains (2 * c) && whole.contains (2 * c + 1)
  { s with atomPoison := s.atomPoison.filter keep, atomFlipped := s.atomFlipped.filter (fun a => !atoms.contains a),
           atomBad := s.atomBad.filter keep, macBad := s.macBad.filter (fun c => !chunks.contains c),
           dies := s.dies.mapVals fun _ (d : Stack) =>
             { d with scrub := d.scrub.map fun x => (x.1, x.2 || atoms.contains x.1) } }

/-- What a base die does with bytes written: counters, dirty bits, errors (R238; 16, R361, R373, R374). -/
def landed (s : State) (cells : List Host.Cell) : State :=
  let chunks := (cells.map fun c => c.1 / 64).eraseDups
  let s := chunks.foldl (fun s c =>
    match s.rangeOf (64 * c) with
    | some (n, r) => if r.conf then countChunk s n c else s
    | none => s) s
  replaceAtoms (s.dirtyCells cells) cells

/-- Atoms that a write brings poisoned are marked so in the stack's metadata (16, R373). -/
def markPoison (bad : List Nat) (s : State) : State := if bad.isEmpty then s else { s with atomPoison := (s.atomPoison ++ bad).eraseDups }

/-- `BASE_DIE_WR` of the packet at `focus`. -/
def execBaseDieWr (s : State) : Host.Outcome State Fault Refusal :=
  .next (match received s with
    | some p =>
      match p.req with
      | .wr cells =>
        if writeWaits s cells then s
        else reply (markPoison p.bad (landed { s with mem := Memory.writeAll s.mem cells } cells)) p [] [] 0 false
      | _ => s
    | none => s)

/-- Reading an atom meets its error: one bit is corrected, an uncorrectable one is marked poisoned, a failed check poisons what is
delivered. -/
def meetErrors (s : State) (atom : Nat) : State :=
  let pa := 32 * atom
  let s := if s.atomFlipped.contains atom then s.corrected (hbmError s 3 false pa) else s
  let s := if s.atomBad.contains atom then
      ({ s with atomBad := s.atomBad.erase atom, atomPoison := s.atomPoison ++ [atom] }).logError (hbmError s 4 true pa)
    else s
  if s.macBad.contains (atom / 2) then s.logError (hbmError s 5 true pa) else s

/-- `BASE_DIE_ATOM` of the packet at `focus`: the reply carries the old value. -/
def execBaseDieAtom (s : State) : Host.Outcome State Fault Refusal :=
  .next (match received s with
    | some p =>
      match p.req with
      | .atom pa op float signed x =>
        let old := Memory.bytes s.mem pa 4
        let cells := cellsOf pa 4 (combine op float signed (BitVec.ofNat 32 (ofBytes old)) x).toNat
        let t := meetErrors s (pa / 32)
        if writeWaits s cells then s
        else reply (landed { t with mem := Memory.writeAll t.mem cells } cells) p old (if s.diePoisoned (pa / 32) then [0] else []) 0 false
      | _ => s
    | none => s)

/-! ## Reads and their errors (16, R373) -/

/-- `BASE_DIE_RD` of the packet at `focus`: data and a poison bit per atom. -/
def execBaseDieRd (s : State) : Host.Outcome State Fault Refusal :=
  .next (match received s with
    | some p =>
      match p.req with
      | .rd pa n =>
        let atoms := (List.range n).map (pa / 32 + ·)
        let poison := (List.range n).filter fun i => s.diePoisoned (pa / 32 + i)
        reply (atoms.foldl meetErrors s) p (Memory.bytes s.mem (pa / 32 * 32) (32 * n)) poison 0 false
      | _ => s
    | none => s)

/-- `BASE_DIE_DTC` of the packet at `focus`: the granule's dirty bit, read and cleared in one step (R361). -/
def execBaseDieDtc (s : State) : Host.Outcome State Fault Refusal :=
  .next (match received s with
    | some p =>
      match p.req with
      | .dtc g =>
        let d := s.die p.stack
        reply (s.setDie p.stack { d with dirty := d.dirty.erase g }) p [] [] g (d.dirty.contains g)
      | _ => s
    | none => s)

/-- `SCRUB_ATOM` (16, R374): with no read in flight the scrubber reads the atom; the next time it writes the corrected value
back, unless a demand write came between. -/
def execScrubAtom (stack atom : Nat) (s : State) : Host.Outcome State Fault Refusal :=
  let d := s.die stack
  .next (if s.pkg.scrubDays = 0 || s.stackOf (32 * atom) != stack then s
    else
      match d.scrub with
      | none =>
        let s := meetErrors s atom
        if s.atomFlipped.contains atom then s.setDie stack { s.die stack with scrub := some (atom, false) } else s
      | some (a, cancelled) =>
        if a != atom then s
        else
          let s := s.setDie stack { d with scrub := none }
          if cancelled then s else { s with atomFlipped := s.atomFlipped.filter (· != atom) })

end Sys2Proof.Machine
end

