-- ==== Sys2Proof/Machine/Homes.lean ====
section
/-! DEFINITION. What reaches a line's home and what leaves it: write-backs, Silt merges, publishes, invalidations, fills and window
fills (10, R229, R235, R236; 12, R271, R275; 16, R376), lost directory entries (16, R375), drowsy banks (R377), and the write-range
log (10, R237). -/

namespace Sys2Proof.Machine

/-! ## Lines -/

/-- `HOME_WRITE_ARRIVE`: the dirty bytes that a core holds of a line reach its home (R271). -/
def execHomeWriteArrive (core line : Nat) (s : State) : Host.Outcome State Fault Refusal :=
  .next (if s.lineBlocked (some core) line then s else s.flushLine core line)

/-- `NARROW_HOLDER_PUBLISH`: the holder writes back what was dirty at its latest narrow release and the record clears (R275); so does a
core with a pending L1 whose buffered reduction a read of the line is to merge. -/
def execNarrowHolderPublish (core line : Nat) (s : State) : Host.Outcome State Fault Refusal :=
  .next (if State.namesHolder (s.core core) line then s.publish core else s)

/-- `SILT_MERGE` of the lines that a core holds of an address (R236). -/
def execSiltMerge (core line : Nat) (s : State) : Host.Outcome State Fault Refusal :=
  .next (if s.lineBlocked (some core) line then s else s.mergeSilt core fun l => l.line == line)

/-- A core gives up its copy of a line: its dirty bytes and Silt words go home first. -/
def dropCopy (s : State) (core line : Nat) : State :=
  let s := (s.flushLine core line).mergeSilt core fun l => l.line == line
  let k := s.core core
  s.setCore core { k with lines := k.lines.filter (· != line) }

/-- A core has acknowledged the recall of a line (R375). -/
def ackRecall (s : State) (core line : Nat) : State :=
  match s.recalls.find? line with
  | none => s
  | some r => { s with recalls := s.recalls.set line { r with cores := r.cores.filter (· != core) } }

/-- `INVALIDATION_RECEIVE`: the copy is dropped; a pending miss of the line is not touched. An invalidation of a recall also
publishes narrow data (R375, R376). -/
def execInvalidationReceive (core line : Nat) (s : State) : Host.Outcome State Fault Refusal :=
  let k := s.core core
  .next (if !k.invals.contains line then s
    else
      let recalled := (s.recalls.find? line).isSome
      let s := if recalled && State.namesHolder k line then s.publish core else s
      let s := if recalled || k.lines.contains line then dropCopy s core line else s
      ackRecall (s.setCore core { s.core core with invals := (s.core core).invals.filter (· != line) }) core line)

/-- `LINE_FILL`: the home reads the line and sends its sectors on the ordered channel, behind every invalidation of the line that is on its
way (10, R229; R376). -/
def execLineFill (core line : Nat) (s : State) : Host.Outcome State Fault Refusal :=
  let k := s.core core
  .next (if !k.misses.contains line || k.invals.contains line || (s.recalls.find? line).isSome then s
    else
      let s := s.readLine line
      let k := s.core core
      s.setCore core { k with misses := k.misses.filter (· != line), lines := if k.lines.contains line then k.lines else k.lines ++ [line] })

/-! ## Lost directory entries (R375) -/

/-- The partition of a line's home. -/
def linePart (s : State) (line : Nat) : Option Nat := (s.rangeOf (128 * line)).map fun r => r.2.part

/-- `DIRECTORY_RECALL` of the line at `focus`: every request to it is held, and every core of its partition is recalled. -/
def execDirectoryRecall (s : State) : Host.Outcome State Fault Refusal :=
  let line := s.focus
  .next (match linePart s line with
    | none => s
    | some p =>
      if (s.recalls.find? line).isSome then s
      else
        let cores := clusterCores (s.part p).clusters
        let s := { s with
          recalls := s.recalls.set line { cores := cores, since := s.now, part := p }
          cores := cores.foldl (fun t c =>
            let k := Tbl.getD t c {}
            Tbl.set t c { k with invals := if k.invals.contains line then k.invals else k.invals ++ [line] }) s.cores }
        s.logError { hbmError s 6 false (128 * line) with
                     slice := match s.rangeOf (128 * line) with | some (_, r) => State.homeSlice r (128 * line) | none => 0 })

/-- `DIRECTORY_REBUILD` of the line at `focus`: every core has acknowledged, and no copy engine owns the line. -/
def execDirectoryRebuild (s : State) : Host.Outcome State Fault Refusal :=
  let line := s.focus
  .next (match s.recalls.find? line with
    | none => s
    | some r => if !r.cores.isEmpty || s.lineClaimed line then s else { s with recalls := s.recalls.erase line })

/-! ## Drowsy banks (R377) -/

/-- `BANK_DROWSY`: none of the groups with a name in the bank has issued for 4,096 cycles. It changes timing only. -/
def execBankDrowsy (core bank : Nat) (s : State) : Host.Outcome State Fault Refusal :=
  let k := s.core core
  .next (if (s.groups.any fun g => g.2.core == core && (s.team g.2.team).resident && g.2.inBank bank && g.2.issuedAt.any fun t => decide (s.now < t + 4096)) ||
        k.drowsy.contains bank then s
    else s.setCore core { k with drowsy := k.drowsy ++ [bank] })

/-! ## Errors of storage (16, R373) -/

namespace State

/-- An uncorrectable error of a core's SRAM is logged, with whether it leaves data poisoned. -/
def coreError (s : State) (core : Nat) (poison : Bool) : State :=
  s.logError { cls := 2, poison := poison, part := (s.partOf core).getD 0, core := core }

/-- A storage error comes about: data with an uncorrectable one is poisoned where it stands; a translation, and a line that is clean, are
dropped and fetched again (R373; 15, R341; log 98). -/
def upset (s : State) : Upset → State
  | .atom pa single =>
    let a := pa / 32
    if (s.rangeOf pa).isNone || s.atomBad.contains a || s.atomPoison.contains a then s
    else if single && !s.atomFlipped.contains a then { s with atomFlipped := s.atomFlipped ++ [a] }
    else { s with atomFlipped := s.atomFlipped.filter (· != a), atomBad := s.atomBad ++ [a] }
  | .corrected core => s.corrected { cls := 1, part := (s.partOf core).getD 0, core := core }
  | .correctedSlice n => s.corrected { cls := 1, slice := n }
  | .name k n lane =>
    let g := s.group k
    match g.vregs.find? n with
    | none => s
    | some v => (s.setGroup k { g with vregs := g.vregs.set n { v with poison := v.poison ||| BitVec.ofNat 96 (2 ^ lane) } }).coreError g.core true
  | .scalar k n =>
    let g := s.group k
    if 63 < n ∨ (60 ≤ n ∧ n ≤ 62) then s else (s.setGroup k { g with spoison := g.spoison ||| BitVec.ofNat 64 (2 ^ n) }).coreError g.core true
  | .scratch core off =>
    let x := s.core core
    let w := off / 8 * 2
    (s.setCore core { x with spoison := x.spoison.filter (fun y => y != w && y != w + 1) ++ [w, w + 1] }).coreError core true
  | .tile core t e =>
    let x := s.core core
    match x.tiles.find? t with
    | none => s
    | some y => (s.setCore core { x with tiles := x.tiles.set t { y with poison := y.poison.filter (· != e) ++ [e] } }).coreError core true
  | .kaolin core off =>
    let x := s.core core
    (s.setCore core { x with kpoison := x.kpoison.filter (· != off / 8) ++ [off / 8] }).coreError core true
  | .tlb core n =>
    let x := s.core core
    if x.tlb.length ≤ n then s else (s.setCore core { x with tlb := x.tlb.eraseIdx n }).coreError core false
  | .ctlb c n =>
    let t := s.ctlb.getD c []
    if t.length ≤ n then s else ({ s with ctlb := s.ctlb.set c (t.eraseIdx n) }).logError { cls := 2, part := (s.partOf (48 * c)).getD 0 }
  | .walk d n =>
    let t := s.walkers.getD d []
    if t.length ≤ n then s else ({ s with walkers := s.walkers.set d (t.eraseIdx n) }).logError { cls := 2 }
  | .line core l =>
    let x := s.core core
    if !x.lines.contains l || x.l1.any (fun c => lineOf c.1 == l) then s
    else (s.setCore core { x with lines := x.lines.filter (· != l) }).coreError core false
  | .dirty core w =>
    let x := s.core core
    if !x.l1.any (fun c => c.1 / 4 == w) then s
    else (s.setCore core { x with l1Poison := x.l1Poison.filter (· != w) ++ [w] }).coreError core true
  | .slice l =>
    if (s.l2.any fun y => y.2.any (·.line == l)) then
      { s with l2 := s.l2.mapVals fun _ ys => ys.filter (·.line != l) }.logError
        { cls := 2, part := (linePart s l).getD 0, slice := match s.rangeOf (128 * l) with | some (_, r) => State.homeSlice r (128 * l) | none => 0, pa := 128 * l }
    else s

end State

/-! ## Window fills (10, R235) -/

/-- The window of a team that holds a word of scratchpad, by word address, with the places of the words of its sector. -/
def sectorOf (s : State) (t word : Nat) : Option (Nat × LoamWindow × List Nat) :=
  (s.team t).windows.zipIdx.findSome? fun (w, i) =>
    if w.sp / 4 ≤ word ∧ word < (w.sp + w.len) / 4 then
      some (i, w, (List.range (w.len / 4)).filter fun j => (w.sp + 4 * j) / 64 == word / 16)
    else none

/-- `WINDOW_FILL` of the sector of a word that a read waits for: its invalid words come from their homes, as a read of the
holding team (R235; 12, R276; 11, Table 11.5). -/
def execWindowFill (team word : Nat) (s : State) : Host.Outcome State Fault Refusal :=
  .next (match sectorOf s team word with
    | none => s
    | some (i, w, js) =>
      let t := s.team team
      let need := js.filter fun j => !w.valid.getD j true
      let places := need.map fun j => w.place.getD j 0
      if !t.resident || !(js.any w.want.contains) || places.any (fun p => s.lineBlocked (some t.core) (lineOf p)) then s
      else
        let k := t.core / 48 * 48 + bitsOf w.sp 24 19
        let s := need.foldl (fun s j => s.fillWord t k (bitsOf w.sp 18 0 + 4 * j) (w.place.getD j 0)) s
        let s := s.setWindow team i fun x =>
          { x with valid := x.valid.zipIdx.map fun (v, j) => v || need.contains j, want := x.want.filter fun j => !js.contains j }
        s.count t.launch 12 (4 * need.length))

/-! ## The write-range log (10, R237) -/

/-- `LOG_CTL`. -/
def execLogCtlWrite (func value : Nat) (s : State) : Host.Outcome State Fault Refusal :=
  let f := s.func func
  .next (if !s.answers func then s
    else s.setFunc func { f with logSize := clamp 6 15 (bitsOf value 15 12), logFull := f.logFull && !bitOf value 1, logEnable := bitOf value 0,
                                 logProd := if bitOf value 0 then 0 else f.logProd })

/-- `LOG_CONS`: space appears. -/
def execLogConsWrite (func value : Nat) (s : State) : Host.Outcome State Fault Refusal :=
  .next (if !s.answers func then s else s.setFunc func { s.func func with logCons := bitsOf value 31 0 })

/-- `LOG_RECORD_APPEND`: the oldest record that is to be appended goes into the ring, where there is space. -/
def execLogRecordAppend (func : Nat) (s : State) : Host.Outcome State Fault Refusal :=
  let f := s.func func
  .next (match f.logQueue with
    | [] => s
    | _ :: _ => if s.logHolds func then s.logFullSet func else (s.appendRange func).getD s)

end Sys2Proof.Machine
end

