-- ==== Sys2Proof/Machine/Engines.lean ====
section
/-! DEFINITION. The copy engine of a core as it runs: a command begins, its chunks, its completion word (11, R259, R262–R265, R267). -/

namespace Sys2Proof.Machine

/-- The command at the head of a core's engine, where the engine runs and no fault holds it (R259, R262, R265). -/
def runningCopy (s : State) (core : Nat) : Option CopyCmd :=
  match (s.core core).copies with
  | c :: _ => if c.held.isNone && s.agentsRun c.team core then some c else none
  | [] => none

/-- Change the command at the head of a core's engine. -/
def setHead (s : State) (core : Nat) (c : CopyCmd) : State :=
  let k := s.core core
  s.setCore core { k with copies := c :: k.copies.drop 1 }

/-- Another core's command owns the line, or it is recalled, or another core is its narrow holder. -/
def heldElsewhere (s : State) (core line : Nat) : Bool :=
  s.narrowElsewhere (some core) line || (s.recalls.find? line).isSome ||
    { s with cores := s.cores.set core { s.core core with copies := [] } }.lineClaimed line

/-- Another core's command owns one of `n` scratchpad bytes. -/
def spElsewhere (s : State) (core k off n : Nat) : Bool :=
  { s with cores := s.cores.set core { s.core core with copies := [] } }.spClaimed k off n

/-! ## A command begins (R262) -/

/-- The walks of some pieces of a command's ranges are made. -/
def copyWalked (s : State) (core : Nat) (c : CopyCmd) (rs : List (Nat × Nat)) : State :=
  s.walkedAll core (s.launch (s.team c.team).launch).asid (rs.map Prod.fst)

/-- The device physical ranges of a command's global destination that translate. -/
def destinationLines (s : State) (core : Nat) (c : CopyCmd) : List Nat :=
  let asid := (s.launch (s.team c.team).launch).asid
  ((CopyCmd.globalLeft { c with begun := true }).flatMap fun (r : Nat × Nat) =>
    match s.translatePlain core asid r.1 .write with
    | .ok x => State.linesOf x.pa r.2
    | .error _ => []).eraseDups

/-- Every core gives up what it holds of a line: dirty bytes and Silt words go home, narrow data is published. -/
def takeLine (s : State) (line : Nat) : State :=
  s.cores.keys.foldl (fun s k =>
    let s := if (s.core k).holds.contains line then s.publish k else s
    (s.flushLine k line).mergeSilt k fun l => l.line == line) s

/-- `COPY_COMMAND_BEGIN` on the core at `focus`: the engine owns its destination lines and bytes. -/
def execCopyCommandBegin (s : State) : Host.Outcome State Fault Refusal :=
  let core := s.focus
  .next (match runningCopy s core with
    | none => s
    | some c =>
      let (k, off) := State.spPlace core c.dst
      let s := if c.begun then s else copyWalked s core c (CopyCmd.globalLeft { c with begun := true })
      let lines := destinationLines s core c
      if c.begun || (c.toScratch && spElsewhere s core k off c.total) ||
          lines.any (fun l => (s.recalls.find? l).isSome || s.lineClaimed l) then s
      else setHead (lines.foldl takeLine s) core { c with begun := true })

/-! ## A chunk (R259, R263) -/

/-- How many chunks a command has. -/
def CopyCmd.chunks (c : CopyCmd) : Nat := (c.total + 4095) / 4096

/-- Where one piece of a chunk lies: device physical bytes with the stage-2 address of a logged page, scratchpad bytes, or bytes of
the Kaolin store. -/
inductive Piece where
  | mem (pa n : Nat) (log : Option Nat)
  | sp (core off n : Nat)
  | kaolin (off n : Nat)

/-- The pieces of the source of a chunk, or its fault with the address. -/
def sourcePieces (s : State) (core asid : Nat) (c : CopyCmd) (lo hi : Nat) : Except (XFault × Nat) (List Piece) :=
  if c.fromGlobal then
    (s.intervals core asid .read (c.ranges (c.form == .gat) c.src lo hi)).map fun ps => ps.map fun p => .mem p.1 p.2.1 p.2.2
  else
    let (k, off) := State.spPlace core (c.src + lo)
    if s.spAllowed core asid (c.src + lo) (hi - lo) then .ok [.sp k off (hi - lo)] else .error ({ cause := 2 }, c.src + lo)

/-- The pieces of the destination of a chunk, or its fault with the address: a page or window that may not be written, a slice
of another team (R207, R263; 10, R239). -/
def targetPieces (s : State) (core asid : Nat) (c : CopyCmd) (lo hi : Nat) : Except (XFault × Nat) (List Piece) :=
  if c.toGlobal then
    let rs := c.ranges true c.dst lo hi
    match s.intervals core asid .write rs with
    | .error x => .error x
    | .ok ps =>
      match (rs.zip ps).find? fun x => ((s.rangeOf x.2.1).map (·.2.exhausted)).getD false with
      | some x => .error ({ cause := 4 }, x.1.1)
      | none => .ok (ps.map fun p => .mem p.1 p.2.1 p.2.2)
  else if c.toKaolin then
    let slices := (List.range ((c.dst + hi - 1) / 4096 + 1 - (c.dst + lo) / 4096)).map ((c.dst + lo) / 4096 + ·)
    match slices.find? fun n => (match ((s.core core).slices.getD n (none, false)).1 with | some t => t != c.team | none => false) with
    | some n => .error ({ cause := 2 }, max (4096 * n) (c.dst + lo))
    | none => .ok [.kaolin (c.dst + lo) (hi - lo)]
  else
    let (k, off) := State.spPlace core (c.dst + lo)
    if !s.spAllowed core asid (c.dst + lo) (hi - lo) then .error ({ cause := 2 }, c.dst + lo)
    else if s.readOnlyAt k off (hi - lo) then .error ({ cause := 4 }, c.dst + lo)
    else .ok [.sp k off (hi - lo)]

/-- Some piece of the source waits; what that asks for is asked for. -/
def sourceWaits (s : State) (core : Nat) (ps : List Piece) : State × Bool :=
  ps.foldl (fun (s, b) p =>
    match p with
    | .mem pa n _ => (s, b || (State.linesOf pa n).any (heldElsewhere s core))
    | .sp k off n => let (s, w) := s.askFill k off n; (s, b || w || spElsewhere s core k off n)
    | .kaolin _ _ => (s, b)) (s, false)

/-- An earlier matrix instruction still reads rows that the bytes lie in (09, R208). -/
def rowsRead (s : State) (core : Nat) (c : CopyCmd) (off n : Nat) : Bool :=
  (s.core core).mq.any fun e =>
    e.opc != 0x18B && decide (e.serial < c.serial) && decide (off < (e.row + e.rows) * 1024) && decide (e.row * 1024 < off + n)

/-- Some piece of the destination waits: for the log, or for a matrix instruction. -/
def targetWaits (s : State) (core fn : Nat) (c : CopyCmd) (ps : List Piece) : State × Bool :=
  ps.foldl (fun (s, b) p =>
    match p with
    | .mem _ _ log => if log.isSome && s.logHolds fn then (s.logFullSet fn, true) else (s, b)
    | .sp k off n => (s, b || spElsewhere s core k off n)
    | .kaolin off n => (s, b || rowsRead s core c off n)) (s, false)

/-- A core's earlier accesses to a line have reached its home, and so have all Silt words (R259; 12, R271); the home reads the line once the
poison that its bytes bring is known. -/
def settleLine (s : State) (core line : Nat) : State := (s.flushLine core line).mergeLine line

/-- The bytes of a source, each with its poison. -/
def readPiece (s : State) (core : Nat) : Piece → List (Byte × Bool)
  | .mem pa n _ => (List.range n).map fun i => (s.homeByte (pa + i), s.memPoisoned core (pa + i))
  | .sp k off n => (List.range n).map fun i => (Memory.read (s.core k).scratch (off + i), s.spPoisoned k (off + i))
  | .kaolin off n => (List.range n).map fun i => (Memory.read (s.core core).kaolin (off + i), (s.core core).kpoison.contains ((off + i) / 8))

/-- The numbers of the units of `w` bytes from `off` on that hold a poisoned byte. -/
def poisonUnits (w off : Nat) (bs : List (Byte × Bool)) : List Nat :=
  ((bs.zipIdx.filter fun b => b.1.2).map fun b => (off + b.2) / w).eraseDups

/-- Write bytes into the Kaolin store of a core: free slices become the team's, and every slice written is dirty (09, R207). -/
def writeKaolin (s : State) (core team off : Nat) (bs : List (Byte × Bool)) : State :=
  let k := s.core core
  let slices := (List.range ((off + bs.length - 1) / 4096 + 1 - off / 4096)).map (off / 4096 + ·)
  s.setCore core { k with
    kaolin := Memory.writeAll k.kaolin (cellsAt off (bs.map Prod.fst))
    kpoison := (k.kpoison.filter fun w => !(decide (off / 8 ≤ w) && decide (w ≤ (off + bs.length - 1) / 8))) ++ poisonUnits 8 off bs
    slices := slices.foldl (fun t n => Tbl.set t n (some team, true)) k.slices }

/-- Write a piece of the destination (R263). -/
def writePiece (s : State) (core fn : Nat) (c : CopyCmd) (bs : List (Byte × Bool)) : Piece → State
  | .mem pa n log =>
    let s := match log with | some ipa => s.noteLog fn ipa n | none => s
    ((State.linesOf pa n).foldl takeLine s).homeWrites none none (cellsAt pa (bs.map Prod.fst))
  | .sp k off _ =>
    let s := s.spStore k off (bs.map Prod.fst)
    let x := s.core k
    s.setCore k { x with spoison := x.spoison ++ poisonUnits 4 off bs }
  | .kaolin off _ => writeKaolin s core c.team off bs

/-- The length of a piece. -/
def Piece.len : Piece → Nat
  | .mem _ n _ => n
  | .sp _ _ n => n
  | .kaolin _ n => n

/-- Write the pieces of a destination in order. -/
def writePieces (s : State) (core fn : Nat) (c : CopyCmd) (bs : List (Byte × Bool)) (ps : List Piece) : State :=
  (ps.foldl (fun (acc : State × List (Byte × Bool)) p =>
    (writePiece acc.1 core fn c (acc.2.take p.len) p, acc.2.drop p.len)) (s, bs)).1

/-- A chunk's fault holds the command: one record with LANES 0 and the PC of the copy (R262). -/
def holdCopy (s : State) (core : Nat) (c : CopyCmd) (x : XFault) (access addr : Nat) : State :=
  let fn := s.vmidFunc (s.launch (s.team c.team).launch).vmid
  let (s, seq) := s.hold fn (s.groupRecord (s.group c.group) c.pc x access addr 0 0) (.copy c.team)
  setHead s core { c with held := some seq }

/-- `COPY_CHUNK` on the core at `focus`: it translates, reads its whole source, and writes its whole destination. -/
def execCopyChunk (s : State) : Host.Outcome State Fault Refusal :=
  let core := s.focus
  .next (match runningCopy s core with
    | none => s
    | some c =>
      let lo := 4096 * c.chunk
      let hi := min (lo + 4096) c.total
      let l := s.launch (s.team c.team).launch
      let fn := s.vmidFunc l.vmid
      if !c.begun || c.total ≤ lo then s
      else
        let s := copyWalked s core c ((if c.fromGlobal then c.ranges (c.form == .gat) c.src lo hi else []) ++
          if c.toGlobal then c.ranges true c.dst lo hi else [])
        match sourcePieces s core l.asid c lo hi with
        | .error (x, a) => holdCopy s core c x 4 a
        | .ok src =>
          match targetPieces s core l.asid c lo hi with
          | .error (x, a) => holdCopy s core c x 5 a
          | .ok dst =>
            match sourceWaits s core src with
            | (s, true) => s
            | (s, false) =>
              match targetWaits s core fn c dst with
              | (s, true) => s
              | (s, false) =>
                let lines := (src.flatMap fun p => match p with | .mem pa n _ => State.linesOf pa n | _ => []).eraseDups
                let s := lines.foldl (fun s x => settleLine s core x) s
                let s := src.foldl (fun s p => match p with | .sp k off n => s.spPublish core k off n | _ => s) s
                let bs := src.flatMap (readPiece s core)
                let s := lines.foldl State.readLine s
                let s := setHead (writePieces s core fn c bs dst) core { c with chunk := c.chunk + 1 }
                let x := (s.team c.team).launch
                if c.fromGlobal then s.count x 12 (hi - lo) else if c.toGlobal then s.count x 13 (hi - lo) else s)

/-! ## Completion (R264) -/

/-- `COPY_COMPLETION` on the core at `focus`: after the last payload byte the completion word is written, and the command
leaves the queue. -/
def execCopyCompletion (s : State) : Host.Outcome State Fault Refusal :=
  let core := s.focus
  .next (match runningCopy s core with
    | none => s
    | some c =>
      let n := if c.cw64 then 8 else 4
      let (k, off) := State.spPlace core c.cwAddr
      let pop (s : State) : State := s.setCore core { s.core core with copies := (s.core core).copies.drop 1 }
      if !c.begun || c.chunk < c.chunks then s
      else if !c.cwe then pop s
      else if s.readOnlyAt k off n then holdCopy s core c { cause := 4 } 5 c.cwAddr
      else if spElsewhere s core k off n then s
      else pop (s.spStore k off (toBytes n c.cwVal)))

end Sys2Proof.Machine
end

