-- ==== Sys2Proof/Machine/Delivery.lean ====
section
/-! DEFINITION. The network engine: virtual device numbers, contexts and their moves, the start of a work request, its packets and their
answers at the sender, and the packets that arrive (14, R310–R328). -/

namespace Sys2Proof.Machine

/-! ## Tables (R313, R326) -/

/-- `VDN_COMMIT`: a write of bits [63:0] of an entry. -/
def execVdnCommit (n value : Nat) (s : State) : Host.Outcome State Fault Refusal :=
  let e := s.vdn n
  .next (s.setVdn n { e with vmid := bitsOf value 55 48, valid := bitOf value 0, gen := (e.gen + 1) % 256,
                             cFep := e.fep, cJob := e.jobid, cPid := e.pid, cPorts := e.ports })

/-- T_fwd in core cycles: 2 ms (01, Table 1.3). -/
def forwardCycles : Nat := 1200000

/-- `NETCTX_ARM`: a context that is normal or stopped begins to forward. -/
def execNetctxArm (n : Nat) (s : State) : Host.Outcome State Fault Refusal :=
  let x := s.net n
  .next (if x.valid && (x.state == 0 || x.state == 3) then s.setNet n { x with state := 1, armedAt := s.now } else s)

/-- `FORWARD_TIMER_EXPIRE`. -/
def execForwardTimerExpire (n : Nat) (s : State) : Host.Outcome State Fault Refusal :=
  let x := s.net n
  .next (if x.state == 1 && x.armedAt + forwardCycles ≤ s.now then s.setNet n { x with state := 2 } else s)

/-- `NETCTX_INVALIDATE`: its final report, then the entry is free and its error state clear; accesses to peers that it carried end
in an error (R325, R326, R333; 17, R385). -/
def execNetctxInvalidate (n : Nat) (s : State) : Host.Outcome State Fault Refusal :=
  let x := s.net n
  .next (if !x.valid then s
    else
      let s := if s.pkg.rptEnable then
          askReport s { kind := 2, final := true, launch := 0, pid := n, vmid := (s.space x.asid).vmid, ctrs := x.ctrs } else s
      let s := ((s.net n).queues.getD 17 {}).reqs.foldl (fun s r => endReq s n 17 r.serial 5) s
      let x := s.net n
      let peers := ((x.queues.getD 16 {}).reqs.filter fun r => r.peer.isSome && (s.launch r.launch).stage == .admitted).map fun r =>
        { r with ending := r.ending.orElse fun _ => some 5 }
      testFences (s.setNet n { x with valid := false, state := 0, rx := [],
                                      queues := if peers.isEmpty then [] else [(16, { reqs := peers, serial := (x.queues.getD 16 {}).serial })] }))

/-! ## Sending (R316, R319, R322) -/

/-- The mode and operation of a packet. -/
def modeOf : Nat → NetMode
  | 0 => .rud
  | 1 => .rudi
  | 2 => .rod
  | _ => .uud
def opOf : Nat → NetOp
  | 0 => .put
  | 1 => .get
  | 2 => .atomic
  | _ => .send

/-- Packet `k` of a request, to the entry of its VDN as it is committed now (R313, R319). -/
def packetOf (s : State) (p q : Nat) (r : WorkReq) (k : Nat) (data : List Byte) : NetPacket :=
  let v := s.vdn r.vdn
  { jobid := v.cJob, src := (s.net p).selfVdn, pid := v.cPid, queue := q, msg := r.msg, pkt := k, mode := modeOf r.mode, op := opOf r.op,
    length := r.length, psz := r.psz, raddr := r.raddr, rctr := r.rctr, atop := r.atop, atype := r.atype, opnd := r.opnd, anew := r.anew,
    data := data }

/-- The ports that a mask allows: with 0 all sixteen (R310, R312). -/
def allowedPorts (mask : Nat) : List Nat := if mask % 65536 = 0 then List.range 16 else (List.range 16).filter (bitOf mask)

namespace State

/-- The port that the next packet to leave takes among those of a mask: which one the spraying takes is free (R319, log 96). -/
def port (s : State) (mask : Nat) : Nat := (allowedPorts mask).getD (Config.spray s.pkg.sprayed % (allowedPorts mask).length) 0

/-- A packet leaves by a port of a mask. -/
def wire (s : State) (mask : Nat) (out : Nat → Out) : State :=
  { s with out := s.out ++ [out (s.port mask)], pkg := { s.pkg with sprayed := s.pkg.sprayed + 1 } }

end State

/-- Bytes cut into the payloads of packets. -/
def payloads (size : Nat) : Nat → List Byte → List (List Byte)
  | 0, _ => []
  | n + 1, bs => bs.take size :: payloads size n (bs.drop size)

/-- The payload of a packet that its record does not hold, as after a restore: a lane's data, or LADDR's bytes read again (16, R368, log 97);
none where a line makes the read wait or a page does not translate. -/
def payloadAgain (s : State) (p : Nat) (r : WorkReq) (x : SentPkt) : State × Option (List Byte) :=
  let o := x.pkt * r.packet
  let n := min r.packet (r.length - o)
  if !x.data.isEmpty || n = 0 || (r.op != 0 && r.op != 3) || r.marl.isSome then (s, some x.data)
  else
    match r.peer with
    | some y => (s, some (((State.storeBytes (laneForm y.opc y.fields) y.data).drop o).take n))
    | none => match s.engineRead (s.net p).asid (r.laddr + o) n with
      | .ok s bs => (s, some bs)
      | .waits s => (s, none)
      | .fault s _ _ => (s, none)

/-- A packet leaves, and the GEN it used is recorded with it; `f` says what else changes in its record. -/
def sendPacket (s : State) (p q serial k : Nat) (f : SentPkt → SentPkt) : State :=
  match reqOf s p q serial with
  | none => s
  | some r =>
    match r.pkts.find? fun x => x.pkt == k with
    | none => s
    | some x =>
      match payloadAgain s p r x with
      | (s, none) => s
      | (s, some bs) =>
        let y := f { x with data := bs, gen := (s.vdn r.vdn).gen, at_ := s.now, recheck := none }
        let s := setReq s p q { r with pkts := r.pkts.map fun z => if z.pkt == k then y else z }
        s.wire (s.vdn r.vdn).cPorts fun port => .packet port (s.vdn r.vdn).cFep (packetOf s p q r k bs)

/-- The packets of a request as they are first sent. -/
def firstPackets (r : WorkReq) (data : List Byte) : List SentPkt :=
  let n := if r.op = 0 ∨ r.op = 3 then WorkReq.packets data.length r.packet else 1
  (payloads r.packet n data).zipIdx.map fun (d, k) => { pkt := k, data := d, acked := false, gen := 0, at_ := 0, tries := 0, moved := 0, recheck := none }

/-- The request starts: its packets are sent. -/
def launchPackets (s : State) (p q : Nat) (r : WorkReq) (pkts : List SentPkt) : State :=
  let x := s.net p
  let sq := x.queues.getD q {}
  let s := s.setNet p { x with queues := x.queues.set q { sq with nextMsg := (sq.nextMsg + 1) % 2 ^ 32 } }
  let s := setReq s p q { r with started := true, msg := sq.nextMsg, pkts := pkts }
  pkts.foldl (fun s x => sendPacket s p q r.serial x.pkt id) s

/-- The virtual range of LADDR that a request reads or writes, with the access. -/
def localRange (r : WorkReq) : Nat × Access := if r.op = 0 ∨ r.op = 3 then (r.length, .read) else (r.length, .write)

/-- The walks of a request's local addresses are made. -/
def localWalked (s : State) (asid : Nat) (r : WorkReq) : State :=
  let counter (a : Nat) : List (Nat × Nat) := if a = 0 then [] else [(a, 8)]
  s.engineWalked asid (CopyCmd.pages ((localRange r).1 / 65536 + 2) r.laddr (localRange r).1 ++ counter r.lctr ++ counter r.ectr)

/-- The first local address of a request that does not translate: LADDR, LCTR, ECTR (R323). -/
def localFault (s : State) (asid : Nat) (r : WorkReq) : Option (XFault × Nat × Nat) :=
  let (n, acc) := localRange r
  let miss (acc : Access) (ps : List (Nat × Nat)) : Option (XFault × Nat × Nat) :=
    match s.intervals engineCore asid acc ps with | .error (x, a) => some (x, a, acc.code) | .ok _ => none
  let counter (a : Nat) : List (Nat × Nat) := if a = 0 then [] else [(a, 8)]
  (miss acc (CopyCmd.pages (n / 65536 + 2) r.laddr n)).orElse fun _ =>
    (miss .write (counter r.lctr)).orElse fun _ => miss .write (counter r.ectr)

/-- The next request of a queue that may start: no fault holds the queue, FENCE and the order of ROD let it (R316, R319, R323). -/
def nextReq (s : State) (p q : Nat) : Option WorkReq :=
  let reqs := ((s.net p).queues.getD q {}).reqs
  let before := reqs.takeWhile (·.started)
  match reqs.drop before.length with
  | [] => none
  | r :: _ =>
    if (reqs.any fun x => x.stalled.isSome) || (r.fence && !before.isEmpty) ||
        (r.mode == 2 && before.any fun x => x.mode == 2 && x.vdn == r.vdn && x.ending.isNone) then none
    else some r

/-- The VDN that a request names may not be used by its sender: code 2 (R318). -/
def vdnRefused (s : State) (p : Nat) (r : WorkReq) : Bool := !(s.vdn r.vdn).valid || (s.vdn r.vdn).vmid != (s.space (s.net p).asid).vmid

/-- The engine sends for the context: it is valid and in STATE 0, and its function has not quiesced (R326; 16, R366). -/
def netRuns (s : State) (p : Nat) : Bool := (s.net p).valid && (s.net p).state == 0 && !(s.func (s.vmidFunc (s.space (s.net p).asid).vmid)).stopped

/-- `WR_START` of a queue's next request; one whose last step still waits takes it first. Requests of queue 16 are the accesses of
peers' pages, of queue 17 Marl messages: what they carry is theirs already. -/
def execWrStart (pid queue : Nat) (s : State) : Host.Outcome State Fault Refusal :=
  .next (if !netRuns s pid then s
    else
      match ((s.net pid).queues.getD queue {}).reqs.find? fun r => r.ending.isSome && r.stalled.isNone && r.peer.isNone with
      | some r => finishReq s pid queue r.serial
      | none =>
        match nextReq s pid queue with
        | none => s
        | some r =>
          let asid := (s.net pid).asid
          match r.peer with
          | some x =>
            if vdnRefused s pid r then endReq s pid queue r.serial 2
            else
              let m := laneForm x.opc x.fields
              launchPackets s pid queue r (firstPackets r (if r.op = 0 then State.storeBytes m x.data else []))
          | none =>
            if r.marl.isSome then
              if vdnRefused s pid r then endReq s pid queue r.serial 2 else launchPackets s pid queue r r.pkts
            else if r.malformed then endReq s pid queue r.serial 1
            else if vdnRefused s pid r then endReq s pid queue r.serial 2
            else
              let s := localWalked s asid r
              match localFault s asid r with
              | some (x, a, acc) => stallReq s pid queue r x acc a
              | none =>
                if r.op = 0 ∨ r.op = 3 then
                  match s.engineRead asid r.laddr r.length with
                  | .waits s => s
                  | .fault s x a => stallReq s pid queue r x 0 a
                  | .ok s bs => launchPackets s pid queue r (firstPackets r bs)
                else launchPackets s pid queue r (firstPackets r []))

/-! ## Answers at the sender (R322, R323, R327) -/

/-- The request that an answer names: started, and not yet at its end. -/
def answered (s : State) (pid queue msg : Nat) : Option WorkReq :=
  if !netRuns s pid then none
  else ((s.net pid).queues.getD queue {}).reqs.find? fun r => r.started && r.msg == msg && r.ending.isNone

/-- An answer that arrives while its context moves, which no request here may take: in STATE 1 it is sent on, and in the other states data and
acknowledgements are answered as packets are, to the device that the request names (R326, log 96). -/
def movedAnswer (s : State) (pid queue msg : Nat) (a : Answer) : State :=
  let x := s.net pid
  let back (out : Nat → Nat → Out) : State :=
    match (x.queues.getD queue {}).reqs.find? fun r => r.started && r.msg == msg with
    | some r => s.wire (s.vdn r.vdn).cPorts (out r.vdn)
    | none => s
  if !x.valid || x.state == 0 then s
  else if x.state == 1 then s.wire 0 fun port => .sentOn port x.fwdFep x.fwdPid a
  else
    match a with
    | .ack k => back fun vdn port => if x.state == 2 then .moved port vdn queue msg (k.placed.headD 0) else .notReady port vdn queue msg (k.placed.headD 0)
    | .resp r => back fun vdn port => if x.state == 2 then .moved port vdn queue msg r.pkt else .notReady port vdn queue msg r.pkt
    | .notReady .. => s
    | .moved .. => s

/-- `PACKET_ACK_RECEIVE`. -/
def execPacketAckReceive (ack : NetAck) (s : State) : Host.Outcome State Fault Refusal :=
  .next (match answered s ack.pid ack.queue ack.msg with
    | none => movedAnswer s ack.pid ack.queue ack.msg (.ack ack)
    | some r =>
      if ack.refused then endReq s ack.pid ack.queue r.serial 5
      else
        let pkts := r.pkts.map fun x => if ack.placed.contains x.pkt then { x with acked := true } else x
        let s := setReq s ack.pid ack.queue { r with pkts := pkts }
        let resend := (pkts.filter fun x => !x.acked && ack.missing.contains x.pkt).map (·.pkt)
        let s := resend.foldl (fun s k => sendPacket s ack.pid ack.queue r.serial k id) s
        if (r.op = 0 ∨ r.op = 3) ∧ pkts.all (·.acked) then endReq s ack.pid ack.queue r.serial 0 else s)

/-- `RESPONSE_RECEIVE`: data of a get, or an old value, goes to LADDR or to the lane that asked. -/
def execResponseReceive (resp : NetResponse) (s : State) : Host.Outcome State Fault Refusal :=
  .next (match answered s resp.pid resp.queue resp.msg with
    | none => movedAnswer s resp.pid resp.queue resp.msg (.resp resp)
    | some r =>
      if (r.op != 1 && r.op != 2) || r.stalled.isSome || r.got.contains resp.pkt then s
      else
        let total := if r.op = 1 then WorkReq.packets r.length r.packet else 1
        let o := resp.pkt * r.packet
        let bs := resp.data.take (min r.packet (r.length - o))
        if total ≤ resp.pkt then s
        else
          match r.peer with
          | some x => deliverPeer s resp.pid resp.queue r x (State.loadWords (laneForm x.opc x.fields) bs)
          | none =>
            let n := s.net resp.pid
            let s := s.engineWalked n.asid (CopyCmd.pages 2 (r.laddr + o) bs.length)
            match s.intervals engineCore n.asid .write (CopyCmd.pages 2 (r.laddr + o) bs.length) with
            | .error (x, a) => stallReq s resp.pid resp.queue r x 1 a
            | .ok ps =>
              match s.engineWriteAt (s.vmidFunc (s.space n.asid).vmid) ps bs with
              | (s, false) => s
              | (s, true) =>
                let got := r.got ++ [resp.pkt]
                let s := setReq s resp.pid resp.queue { r with got := got }
                if got.length = total then endReq s resp.pid resp.queue r.serial 0 else s)

/-- The record of a packet that still waits for its answer. -/
def waitingPacket (s : State) (pid queue msg pkt : Nat) : Option (WorkReq × SentPkt) :=
  (answered s pid queue msg).bind fun r => if r.stalled.isSome then none else (r.pkts.find? fun x => x.pkt == pkt && !x.acked).map fun x => (r, x)

/-- Change the record of a packet. -/
def setPacket (s : State) (p q : Nat) (r : WorkReq) (x : SentPkt) : State :=
  setReq s p q { r with pkts := r.pkts.map fun y => if y.pkt == x.pkt then x else y }

/-- `NOT_READY_RECEIVE`: the packet's timer starts again. -/
def execNotReadyReceive (pid queue msg pkt : Nat) (s : State) : Host.Outcome State Fault Refusal :=
  .next (match waitingPacket s pid queue msg pkt with
    | none => movedAnswer s pid queue msg (.notReady queue msg pkt)
    | some (r, x) => setPacket s pid queue r { x with at_ := s.now })

/-- RTO_US in core cycles, RETRY_MAX and MOVED_MAX, where 0 acts as 1 (R311). -/
def rtoCycles (s : State) : Nat := max 1 s.pkg.rtoUs * 600
def retryMax (s : State) : Nat := max 1 s.pkg.retryMax
def movedMax (s : State) : Nat := max 1 s.pkg.movedMax

/-- `RETRANSMIT_TIMEOUT`. -/
def execRetransmitTimeout (pid queue msg pkt : Nat) (s : State) : Host.Outcome State Fault Refusal :=
  .next (match waitingPacket s pid queue msg pkt with
    | none => s
    | some (r, x) =>
      if x.recheck.isSome || s.now < x.at_ + rtoCycles s then s
      else if retryMax s ≤ x.tries + 1 then endReq s pid queue r.serial 3
      else sendPacket s pid queue r.serial pkt fun y => { y with tries := x.tries + 1 })

/-- `MOVED_RECEIVE`. -/
def execMovedReceive (pid queue msg pkt : Nat) (s : State) : Host.Outcome State Fault Refusal :=
  .next (match waitingPacket s pid queue msg pkt with
    | none => movedAnswer s pid queue msg (.moved queue msg pkt)
    | some (r, x) =>
      if movedMax s ≤ x.moved + 1 then endReq s pid queue r.serial 4
      else if (s.vdn r.vdn).gen != x.gen then sendPacket s pid queue r.serial pkt fun y => { y with moved := x.moved + 1 }
      else setPacket s pid queue r { x with moved := x.moved + 1, recheck := some (s.now + rtoCycles s) })

/-- `MOVED_RECHECK`. -/
def execMovedRecheck (pid queue msg pkt : Nat) (s : State) : Host.Outcome State Fault Refusal :=
  .next (match waitingPacket s pid queue msg pkt with
    | none => s
    | some (r, x) =>
      match x.recheck with
      | none => s
      | some t =>
        if s.now < t then s
        else if (s.vdn r.vdn).gen != x.gen then sendPacket s pid queue r.serial pkt id
        else setPacket s pid queue r { x with recheck := some (s.now + rtoCycles s) })

/-! ## Arriving packets (R315, R319–R321, R326) -/

/-- What the target keeps of a packet's message. -/
def rxOf (s : State) (p : NetPacket) : RxMsg :=
  ((s.net p.pid).rx.find? fun m => m.jobid == p.jobid && m.src == p.src && m.queue == p.queue && m.msg == p.msg).getD
    { jobid := p.jobid, src := p.src, queue := p.queue, msg := p.msg, placed := [], counted := false, refused := false, slot := none, answer := none,
      total := match p.op with | .put => WorkReq.packets p.length (1024 * 2 ^ p.psz) | .send => WorkReq.packets p.length (1024 * 2 ^ p.psz) | _ => 1 }

/-- Keep a message. -/
def setRx (s : State) (pid : Nat) (m : RxMsg) : State :=
  let x := s.net pid
  let same (y : RxMsg) : Bool := y.jobid == m.jobid && y.src == m.src && y.queue == m.queue && y.msg == m.msg
  s.setNet pid { x with rx := if x.rx.any same then x.rx.map fun y => if same y then m else y else x.rx ++ [m] }

/-- A page whose fault a packet of the message met: where that fault ends by trap or end-the-launch, the message is refused (R321). -/
def RxMsg.noteHeld (m : RxMsg) (page : Nat) : RxMsg := if m.pages.contains page then m else { m with pages := m.pages ++ [page] }

/-- Answers: the packets placed, a refusal, or "not ready". -/
def ackPlaced (s : State) (p : NetPacket) (placed : List Nat) : State :=
  s.wire (s.vdn p.src).cPorts fun port =>
    .ackOut port p.src p.jobid { pid := (s.vdn p.src).cPid, queue := p.queue, msg := p.msg, placed := placed, missing := [], refused := false }
def refusePacket (s : State) (p : NetPacket) : State :=
  s.wire (s.vdn p.src).cPorts fun port =>
    .ackOut port p.src p.jobid { pid := (s.vdn p.src).cPid, queue := p.queue, msg := p.msg, placed := [], missing := [], refused := true }
def notReady (s : State) (p : NetPacket) : State := s.wire (s.vdn p.src).cPorts fun port => .notReady port p.src p.queue p.msg p.pkt

/-- An access at the target faults: one record for its page, while the message waits (R321). -/
def arrivalFault (s : State) (p : NetPacket) (m : RxMsg) (x : XFault) (access addr : Nat) : State :=
  let n := s.net p.pid
  let vmid := (s.space n.asid).vmid
  let page := addr / 65536
  let s := setRx s p.pid (m.noteHeld page)
  let s := if s.held.any fun h => h.at_ == .target p.pid page then s
    else (s.hold (s.vmidFunc vmid) (engineRecord x access addr 0 n.asid vmid) (.target p.pid page)).1
  notReady s p

/-- A page that a fault holds is among those of a range: packets that touch it are not ready. -/
def pageHeld (s : State) (pid addr n : Nat) : Option Nat :=
  ((CopyCmd.pages (n / 65536 + 2) addr n).map fun r => r.1 / 65536).find? fun page => s.held.any fun h => h.at_ == .target pid page

/-- What an access of the target's engine comes to. -/
inductive Reach (α : Type) where
  | waits (s : State)
  | fault (s : State)
  | ok (s : State) (x : α)

/-- Write bytes at a virtual address of the context. -/
def targetWrite (s : State) (p : NetPacket) (m : RxMsg) (addr : Nat) (bs : List Byte) : Reach Unit :=
  let n := s.net p.pid
  match pageHeld s p.pid addr bs.length with
  | some page => .fault (notReady (setRx s p.pid (m.noteHeld page)) p)
  | none =>
    let s := s.engineWalked n.asid (CopyCmd.pages (bs.length / 65536 + 2) addr bs.length)
    match s.intervals engineCore n.asid .write (CopyCmd.pages (bs.length / 65536 + 2) addr bs.length) with
    | .error (x, a) => .fault (arrivalFault s p m x 1 a)
    | .ok ps =>
      match s.engineWriteAt (s.vmidFunc (s.space n.asid).vmid) ps bs with
      | (s, true) => .ok s ()
      | (s, false) => .waits s

/-- Read bytes at a virtual address of the context. -/
def targetRead (s : State) (p : NetPacket) (m : RxMsg) (addr n access : Nat) : Reach (List Byte) :=
  match pageHeld s p.pid addr n with
  | some page => .fault (notReady (setRx s p.pid (m.noteHeld page)) p)
  | none =>
    match s.engineRead (s.net p.pid).asid addr n with
    | .waits s => .waits s
    | .fault s x a => .fault (arrivalFault s p m x access a)
    | .ok s bs => .ok s bs

/-- Add one to a counter of the context's address space. -/
def targetBump (s : State) (p : NetPacket) (m : RxMsg) (addr : Nat) : Reach Unit :=
  match pageHeld s p.pid addr 8 with
  | some page => .fault (notReady (setRx s p.pid (m.noteHeld page)) p)
  | none =>
    match bump s (s.net p.pid).asid addr with
    | .waits s => .waits s
    | .fault s x => .fault (arrivalFault s p m x 1 addr)
    | .ok s => .ok s ()

/-- Add one at RCTR, if it is nonzero (R320). -/
def targetCount (s : State) (p : NetPacket) (m : RxMsg) : Reach Unit := if p.rctr = 0 then .ok s () else targetBump s p m p.rctr

/-- Amounts of the target side go to the context's own block (R329; 17, R381, R382). -/
def countNet (s : State) (pid i n : Nat) : State :=
  let x := s.net pid
  if (s.func (s.vmidFunc (s.space x.asid).vmid)).stopped then s else s.setNet pid { x with ctrs := addCounter x.ctrs i n }

/-- Slot size, and the virtual address of a slot (R315). -/
def slotSize (x : NetCtx) : Nat := 2 ^ (x.rxSlot + 10)
def slotAddr (x : NetCtx) (m : Nat) : Nat := x.rxBase + m % 2 ^ x.rxSize * slotSize x

/-- The header of a received message (R315). -/
def slotHeader (p : NetPacket) : List Byte := toBytes 8 (p.length + p.src * 2 ^ 32 + 2 ^ 63) ++ toBytes 8 p.opnd

/-- A message all of whose packets are placed: the ring header and count of a send, then the counter at RCTR, then its last
acknowledgement and the metering (R315, R320, R329). Every address is reached first, so that the counters move together. -/
def completeMessage (s : State) (p : NetPacket) (m : RxMsg) : State :=
  let n := s.net p.pid
  let done (s : State) : State :=
    countNet (ackPlaced (setRx s p.pid { m with counted := true, pages := [] }) p m.placed) p.pid 15 p.length
  let count (s : State) : State :=
    match targetCount s p m with
    | .waits s => setRx s p.pid m
    | .fault s => s
    | .ok s _ => done s
  match m.slot with
  | none => count s
  | some k =>
    let s := if p.rctr = 0 then s else s.engineWalked n.asid [(p.rctr, 8)]
    let reachable : Option State := if p.rctr = 0 then none
      else match s.intervals engineCore n.asid .write [(p.rctr, 8)] with
        | .error (x, a) => some (arrivalFault s p m x 1 a)
        | .ok _ => none
    match reachable with
    | some s => s
    | none =>
      match targetWrite s p m (slotAddr n k) (slotHeader p) with
      | .waits s => setRx s p.pid m
      | .fault s => s
      | .ok s _ =>
        match targetBump s p m n.rxProd with
        | .waits s => setRx s p.pid m
        | .fault s => s
        | .ok s _ =>
          let m := { m with slot := none }
          match targetCount s p m with
          | .waits s => setRx s p.pid m
          | .fault s => s
          | .ok s _ => countNet (ackPlaced (setRx s p.pid { m with counted := true, pages := [] }) p m.placed) p.pid 15 p.length

/-- Place a packet at an address, then complete the message or acknowledge the packet. A duplicate is written again under RUDI
alone. -/
def placePacket (s : State) (p : NetPacket) (m : RxMsg) (addr : Nat) : State :=
  let dup := m.placed.contains p.pkt
  if dup && m.counted then
    if p.mode == .rudi then
      match targetWrite s p m addr p.data with
      | .waits s => s
      | .fault s => s
      | .ok s _ => ackPlaced s p m.placed
    else ackPlaced s p m.placed
  else
    match (if dup && p.mode != .rudi then .ok s () else targetWrite s p m addr p.data) with
    | .waits s => setRx s p.pid m
    | .fault s => s
    | .ok s _ =>
      let m := { m with placed := if dup then m.placed else m.placed ++ [p.pkt] }
      if m.placed.length = m.total then completeMessage s p m else ackPlaced (setRx s p.pid m) p m.placed

/-- A packet of a send: its slot is taken as its first packet arrives; a full ring is "not ready" (R315, R321). What arrives again under
RUDI goes to its place in the slot that the message took (R319, log 96). -/
def placeSend (s : State) (p : NetPacket) (m : RxMsg) : State :=
  let n := s.net p.pid
  let at_ (k : Nat) : Nat := slotAddr n k + 16 + p.pkt * (1024 * 2 ^ p.psz)
  if m.counted || (m.slot.isNone && m.placed.length = m.total) then placePacket s p m (at_ m.spot)
  else
    match m.slot with
    | some k => placePacket s p m (at_ k)
    | none =>
      match targetRead s p m n.rxProd 16 1 with
      | .waits s => s
      | .fault s => s
      | .ok s bs =>
        let prod := ofBytes (bs.take 8)
        let taken := (n.rx.filter fun y => y.slot.isSome).length
        if 2 ^ n.rxSize ≤ (prod + taken + 2 ^ 64 - ofBytes (bs.drop 8)) % 2 ^ 64 then notReady s p
        else
          let k := prod + taken
          placePacket s p { m with slot := some k, spot := k } (at_ k)

/-- The data packets that answer a get, or the old value (R319, R320). -/
def respond (s : State) (p : NetPacket) (bs : List Byte) : State :=
  let size := 1024 * 2 ^ p.psz
  (payloads size (WorkReq.packets bs.length size) bs).zipIdx.foldl (fun s (d, k) => s.wire (s.vdn p.src).cPorts fun port =>
    .respOut port p.src p.jobid { pid := (s.vdn p.src).cPid, queue := p.queue, msg := p.msg, pkt := k, data := d }) s

/-- A get: read after the request arrives; served once as far as metering goes (R320, R329). -/
def serveGet (s : State) (p : NetPacket) (m : RxMsg) : State :=
  match targetRead s p m p.raddr p.length 0 with
  | .waits s => s
  | .fault s => s
  | .ok s bs =>
    let s := respond (setRx s p.pid { m with counted := true, pages := [] }) p bs
    if m.counted then s else countNet s p.pid 14 p.length

/-- The new word of an atomic that arrives (R320; 12, R284). -/
def targetAtomic (p : NetPacket) (old : Word) : Option Word :=
  let x := BitVec.ofNat 32 p.opnd
  if p.atop = 7 then (if old == x then some (BitVec.ofNat 32 p.anew) else none)
  else some (combine p.atop (p.atype == 2) (p.atype == 0) old x)

/-- An atomic: performed once at the word's home; a duplicate is given the kept answer. -/
def serveAtomic (s : State) (p : NetPacket) (m : RxMsg) : State :=
  match m.answer with
  | some old => respond s p (toBytes 4 old.toNat)
  | none =>
    if p.raddr % 4 != 0 then refusePacket (setRx s p.pid { m with refused := true }) p
    else
      let s := s.engineWalked (s.net p.pid).asid [(p.raddr, 4)]
      match s.intervals engineCore (s.net p.pid).asid .atomic [(p.raddr, 4)] with
      | .error (x, a) => arrivalFault s p m x 2 a
      | .ok ps =>
        match targetRead s p m p.raddr 4 2 with
        | .waits s => s
        | .fault s => s
        | .ok s bs =>
          let old := BitVec.ofNat 32 (ofBytes bs)
          let wrote := match targetAtomic p old with
            | none => (s, true)
            | some y => s.engineWriteAt (s.vmidFunc (s.space (s.net p.pid).asid).vmid) ps (toBytes 4 y.toNat)
          match wrote with
          | (s, false) => s
          | (s, true) =>
            let s := respond (setRx s p.pid { m with answer := some old, counted := true, pages := [] }) p bs
            countNet (countNet s p.pid 15 (if p.atop = 7 then 8 else 4)) p.pid 14 4

/-- A message of ROD waits for an earlier one of its queue that has arrived in part (R319). -/
def rodWaits (s : State) (p : NetPacket) : Bool :=
  p.mode == .rod && (s.net p.pid).rx.any fun m =>
    m.jobid == p.jobid && m.src == p.src && m.queue == p.queue && decide (m.msg < p.msg) && !m.counted && !m.refused

/-- What the target refuses: a mismatched job, a send with no ring or longer than its slot less 16, a message ended by its fault
(R318, code 5). -/
def packetRefused (x : NetCtx) (p : NetPacket) (m : RxMsg) : Bool :=
  x.jobid != p.jobid || m.refused || (p.op == .send && (x.rxBase == 0 || decide (slotSize x < p.length + 16)))

/-- The partition that serves a context is being reset (16, R372). -/
def netReset (s : State) (pid : Nat) : Bool :=
  let v := s.vm (s.space (s.net pid).asid).vmid
  v.valid && (s.part v.part).rstGo

/-- `PACKET_RECEIVE`. While the context's partition is being reset its packets are not ready, and the reset's end refuses their messages (16,
R372). -/
def execPacketReceive (packet : NetPacket) (s : State) : Host.Outcome State Fault Refusal :=
  let p := packet
  let x := s.net p.pid
  .next (if p.mode == .uud then s
    else if !x.valid then refusePacket s p
    else if x.state == 1 then s.wire 0 fun port => .packet port x.fwdFep { p with pid := x.fwdPid }
    else if x.state == 2 then s.wire (s.vdn p.src).cPorts fun port => .moved port p.src p.queue p.msg p.pkt
    else if x.state == 3 then notReady s p
    else if netReset s p.pid then notReady (if x.jobid == p.jobid then setRx s p.pid (rxOf s p) else s) p
    else
      let m := rxOf s p
      if packetRefused x p m then refusePacket (if x.jobid != p.jobid then s else setRx s p.pid { m with refused := true }) p
      else if m.total ≤ p.pkt then s
      else if rodWaits s p then notReady s p
      else
        match p.op with
        | .put => placePacket s p m (p.raddr + p.pkt * (1024 * 2 ^ p.psz))
        | .send => placeSend s p m
        | .get => serveGet s p m
        | .atomic => serveAtomic s p m)

end Sys2Proof.Machine
end

