-- ==== Sys2Proof/Machine/ImageRead.lean ====
section
/-! DEFINITION. Context images as they are read back (15, R345–R348; 16, R368): every field of R346 to R348 from its place, the rest as
`GroupRest`, `TeamRest` and `LaunchRest` give it (log 30, 81). -/

namespace Sys2Proof.Machine

/-! ## Names and values (15, R348) -/

/-- A name's words and poison bits. -/
def readLanes (w : Nat) (bs : List Byte) : VReg :=
  { vals := (wordsOfBytes (bs.take (4 * w))).map (BitVec.ofNat 32), poison := BitVec.ofNat 96 (ofBytes ((bs.drop (4 * w)).take (laneSize w - 4 * w))) }

/-- Names one after another. -/
def readNames (w : Nat) : List Nat → List Byte → Tbl VReg × List Byte
  | [], bs => ([], bs)
  | n :: ns, bs => let r := readNames w ns (bs.drop (laneSize w)); ((n, readLanes w bs) :: r.1, r.2)

/-- Latch and last-result entries by their LATCHD codes: a value with its age. -/
def readLive (w : Nat) : List Nat → List Byte → List (Option Value × Nat) × List Byte
  | [], bs => ([], bs)
  | c :: cs, bs =>
    if c % 4 = 0 then let r := readLive w cs bs; ((none, 0) :: r.1, r.2)
    else
      let v := readLanes w bs
      let r := readLive w cs (bs.drop (laneSize w))
      ((some { vec := c % 4 != 1, vals := if c % 4 = 1 then v.vals.take 1 else v.vals, poison := if c % 4 = 1 then v.poison &&& 1 else v.poison },
        c / 4) :: r.1, r.2)

/-- The latch of three entries, with their slots. -/
def latchOf (vs : List (Option Value × Nat)) (slots : List Bool) : List LatchEntry :=
  (List.range 3).map fun i =>
    let v := vs.getD i (none, 0)
    { value := v.1.getD { vec := false, vals := [], poison := 0 }, age := if v.1.isSome then v.2 else 0, slotB := slots.getD i false }

/-! ## Windows and the replay entry (05, R112; 15, R340, R348) -/

/-- A listed name's words: of a vector name, a scalar or special register, or a predicate, whose lanes stand in the poison mask's place. -/
def readNamed (w n : Nat) (bs : List Byte) : VReg × List Byte :=
  if n < 256 then (readLanes w bs, bs.drop (laneSize w))
  else if 320 ≤ n ∧ n < 327 then ({ vals := [], poison := BitVec.ofNat 96 (ofBytes (bs.take 12)) }, bs.drop 12)
  else ({ vals := [BitVec.ofNat 32 (ofBytes (bs.take 4))], poison := 0 }, bs.drop 4)

/-- Listed names: shadows, or where `lanes` all in the form of vector names. -/
def readListed (w : Nat) (lanes : Bool) : Nat → List Byte → Tbl VReg × List Byte
  | 0, bs => ([], bs)
  | k + 1, bs =>
    let n := ofBytes (bs.take 4)
    let v := if lanes then (readLanes w (bs.drop 4), bs.drop (4 + laneSize w)) else readNamed w n (bs.drop 4)
    let r := readListed w lanes k v.2
    ((n, v.1) :: r.1, r.2)

/-- A window's entry for one slot: the count left, its shadows, and what its lanes have delivered. -/
def readEntry (w : Nat) (bs : List Byte) : (Nat × Tbl VReg × Tbl VReg) × List Byte :=
  let n := min 16 (ofBytes ((bs.drop 8).take 4))
  let shadows := readListed w false n (bs.drop 16)
  let got := if ofBytes ((bs.drop 12).take 4) % 2 = 1 then readListed w true n shadows.2 else ([], shadows.2)
  ((ofBytes ((bs.drop 4).take 4), shadows.1, got.1), got.2)

/-- Windows one after another, with the shadows of their names. -/
def readWindows (w : Nat) : List Window → List Byte → (List Window × Tbl VReg) × List Byte
  | [], bs => (([], []), bs)
  | x :: xs, bs =>
    let a := if x.remA.isSome then some (readEntry w bs) else none
    let bs := match a with | some r => r.2 | none => bs
    let b := if x.remB.isSome then some (readEntry w bs) else none
    let bs := match b with | some r => r.2 | none => bs
    let one := match a with | some r => r.1 | none => match b with | some r => r.1 | none => (0, [], [])
    let x := { x with
      remA := a.map fun r => r.1.1, remB := b.map fun r => r.1.1
      dests := x.dests.map fun d =>
        match one.2.2.find? d.name.number with
        | some v => { d with vals := v.vals, poison := v.poison }
        | none => d }
    let r := readWindows w xs bs
    ((x :: r.1.1, one.2.1 ++ r.1.2), r.2)

/-- A replay entry: of its lanes those that the mask names, each with its address and operands. -/
def readReplay (x : Replay) (bs : List Byte) : Replay × List Byte :=
  let word := BitVec.ofNat 96 (ofBytes (bs.take 12))
  let mask := ofBytes ((bs.drop 20).take 12)
  let r := x.lanes.foldl (fun (acc : List ReplayLane × List Byte) l =>
    let bs := acc.2.drop 8
    (acc.1 ++ [{ l with addr := ofBytes (acc.2.take 8), data := (wordsOfBytes (bs.take (4 * l.data.length))).map (BitVec.ofNat 32) }],
      bs.drop (4 * l.data.length))) ([], bs.drop 32)
  ({ x with opc := (word.extractLsb' 0 10).toNat, fields := fieldsOf word, pc := BitVec.ofNat 32 (ofBytes ((bs.drop 12).take 4)),
            slotB := ofBytes ((bs.drop 16).take 4) != 0, lanes := r.1.filter fun l => bitOf mask l.lane }, r.2)

/-- A replay entry that may be absent. -/
def readReplay? : Option Replay → List Byte → Option Replay × List Byte
  | none, bs => (none, bs)
  | some x, bs => let r := readReplay x bs; (some r.1, r.2)

/-! ## The group record (15, R348) -/

/-- A slot block. -/
def readSlot (x : Nat) (yield : Option Nat) : PcSlot :=
  { pc := BitVec.ofNat 32 x, rpc := BitVec.ofNat 32 (x >>> 32), fmt := BitVec.ofNat 32 (x >>> 64), active := BitVec.ofNat 96 (x >>> 96),
    owned := BitVec.ofNat 96 (x >>> 192), join := bitOf x 289, yieldAt := yield }

/-- What a completed window delivers to a name, as the record's names show it: of the latest such window. -/
def shownDest (w : Nat) (regs : Tbl VReg) (scalar : Nat → Word) (pred : Nat → LaneMask) (d : WinDest) : WinDest :=
  match d.name with
  | .v n =>
    match regs.find? n with
    | none => d
    | some v => { d with vals := (List.range w).map fun l => if d.lanes.getLsbD l then v.vals.getD l 0 else d.vals.getD l 0,
                         poison := (d.poison &&& ~~~d.lanes) ||| (v.poison &&& d.lanes) }
  | .s n => if d.lanes = 0 then d else { d with vals := [scalar n] }
  | .special n => if d.lanes = 0 then d else { d with vals := [scalar n] }
  | .p n => { d with vals := (List.range w).map fun l => if d.lanes.getLsbD l then (if (pred n).getLsbD l then 1 else 0) else d.vals.getD l 0 }

/-- Windows with what the record shows of them. -/
def showWindows (f : WinDest → WinDest) : List Window → List Window
  | [] => []
  | x :: xs =>
    let later (n : DName) : Bool := xs.any fun y => y.done && y.dests.any (·.name == n)
    (if x.done then { x with dests := x.dests.map fun d => if later d.name then d else f d } else x) :: showWindows f xs

/-- A group of `w` lanes from its record and its rest, with the bytes that follow. -/
def readGroup (w : Nat) (x : GroupRest) (bs : List Byte) : Group × List Byte :=
  let h := ofBytes (bs.take 2048)
  let word (lo : Nat) : Word := BitVec.ofNat 32 (h >>> lo)
  let names := (List.range 256).filter fun n => bitOf h (1792 + n)
  let regs := readNames w names (bs.drop 2048)
  let live := readLive w ((List.range 5).map fun i => bitsOf h (2563 + 4 * i) (2560 + 4 * i)) regs.2
  let inh := bitOf h 1248
  let saved := match x.frame with | some f => if inh then readLive w f.2.1 live.2 else ([], live.2) | none => ([], live.2)
  let wins := readWindows w x.windows saved.2
  let replay := readReplay? x.replay wins.2
  let replays := readReplay? (x.frame.bind fun f => f.2.2.2.1) replay.2
  let shadow (n : Nat) : Option VReg := wins.1.2.find? n
  let sreg (n : Nat) : Word := word (4096 + 32 * n)
  let special (n : Nat) : Word := if n = 87 then word 1088 &&& 1 else word (1088 + 32 * (n - 87))
  let pred (n : Nat) : LaneMask := BitVec.ofNat 96 (h >>> (3424 + 96 * n))
  let oldWord (n : Nat) (now : Word) : Word := match shadow n with | some v => v.vals.getD 0 0 | none => now
  let vregs : Tbl VReg := (names.filter fun n => x.mapped.contains n || !x.windows.any fun y => y.dests.any (·.name == .v n)).map fun n =>
    (n, match shadow n with | some v => v | none => (regs.1.find? n).getD { vals := [], poison := 0 })
  let onchip := min 4 (bitsOf h 1234 1232)
  let wait := match x.wait with
    | .waita y => .waita { y with timeout := bitsOf h 1311 1280 }
    | .barrier _ p => .barrier (bitsOf h 1267 1264) p
    | y => y
  ({ team := 0, grpid := bitsOf h 1247 1240, width := w, core := 0, sched := 0, units := []
     slotA := readSlot h (x.yields.getD 0 none), slotB := readSlot (h >>> 512) (x.yields.getD 1 none), lastB := x.lastB, exited := x.exited
     vregs := if x.spilled then [] else vregs, spilled := if x.spilled then some vregs else none
     sregs := ((List.range 64).filter fun n => n < 60 || n == 63).map fun n => (n, oldWord (256 + n) (sreg n))
     spoison := x.spoison, preds := (List.range 7).map fun n => match shadow (320 + n) with | some v => v.poison | none => pred n
     loops := (List.range 3).map fun i =>
       { opened := bitOf h (1344 + 128 * i + 112), count := word (1344 + 128 * i), start := word (1376 + 128 * i), stop := word (1408 + 128 * i),
         depth := bitsOf h (1344 + 128 * i + 111) (1344 + 128 * i + 96) }
     cbs := (List.range 4).map fun n => (n, bitsOf h (256 * n + 6399) (256 * n + 6144))
     latch := latchOf live.1 x.latchB, q0 := (live.1.getD 3 (none, 0)).1, q1 := (live.1.getD 4 (none, 0)).1
     windows := showWindows (shownDest w regs.1 (fun n => if n < 64 then sreg n else special n) pred) wins.1.1
     stack := ((List.range onchip).reverse.map fun i => StackEntry.ofBits w (bitsOf h (256 * i + 7423) (256 * i + 7168))).filterMap id
     deep := bitsOf h 1231 1216 - onchip, deepKinds := x.deepKinds
     spill := match x.spill with | 0 => .none | 1 => .wanted | _ => .granted
     sat := oldWord 343 (special 87) != 0, uflow := oldWord 344 (special 88), mflush := oldWord 345 (special 89), mwrap := oldWord 346 (special 90)
     cycle := bitsOf h 1087 1024
     lin := x.lineage.getD 0 [], par := x.lineage.getD 1 [], ord := x.lineage.getD 2 [], slotNo := x.lineage.getD 3 [], oslot := x.lineage.getD 4 []
     dormFmt := x.dormFmt, wait := wait, waitOpc := x.waitOpc, waitWord := x.waitWord, waitB := x.waitB, stall := x.stall
     inh := inh, trapRegs := (List.range 11).map fun n => word (2048 + 32 * n)
     frame := x.frame.map fun f =>
       { slotA := readSlot (h >>> 8192) (f.2.2.1.getD 0 none), slotB := readSlot (h >>> 8704) (f.2.2.1.getD 1 none), depth := bitsOf h 9247 9232
         latch := latchOf saved.1 f.1, q0 := (saved.1.getD 3 (none, 0)).1, q1 := (saved.1.getD 4 (none, 0)).1, replay := replays.1, capture := f.2.2.2.2 }
     asyncs := x.asyncs, replay := replay.1, capture := x.capture, ended := x.ended, issued := x.issued, need := x.need }, replays.2)

/-- Group records one after another. -/
def readGroups (w : Nat) : List GroupRest → List Byte → List Group
  | [], _ => []
  | x :: xs, bs => let r := readGroup w x bs; r.1 :: readGroups w xs r.2

/-! ## The team record (15, R346, R347) -/

/-- `n` bits of a bitmap. -/
def readBitmap (n : Nat) (bs : List Byte) : List Bool := let x := ofBytes (bs.take (bitmapSize n)); (List.range n).map (bitOf x)

/-- Loam windows one after another; the places of their words are found again. -/
def readLoam : Nat → List Byte → List LoamWindow × List Byte
  | 0, bs => ([], bs)
  | n + 1, bs =>
    let len := ofBytes ((bs.drop 16).take 8)
    let words := len / 4
    let size := bitmapSize words
    let r := readLoam n (bs.drop (32 + 2 * size))
    ({ sp := ofBytes (bs.take 8), gb := ofBytes ((bs.drop 8).take 8), len := len, writable := ofBytes ((bs.drop 24).take 8) != 0,
       place := List.replicate words 0, valid := readBitmap words (bs.drop 32), dirty := readBitmap words (bs.drop (32 + size)),
       log := List.replicate words none } :: r.1, r.2)

/-- Holdings one after another, each with its holder. -/
def readHoldings : Nat → List Byte → List (Nat × Holding) × List Byte
  | 0, bs => ([], bs)
  | n + 1, bs =>
    let x := ofBytes (bs.take 64)
    let r := readHoldings n (bs.drop 64)
    ((bitsOf x 95 64, { record := bitsOf x 63 0, ranges := (List.range 3).map fun i =>
      (bitsOf x (255 + 64 * i) (192 + 64 * i), bitsOf x (127 + 32 * i) (96 + 32 * i)) }) :: r.1, r.2)

/-- The form of a copy command's word. -/
def copyFormOf (word : Nat) : CopyForm :=
  match word % 1024 with
  | 0x1E0 => .g2s | 0x1E1 => .s2g | 0x1E2 => .g2k | 0x1E3 => .s2k | 0x1E4 => .s2s | 0x1E5 => .gat | _ => .sct

/-- Copy commands one after another; `group` gives the key of a group of the team. -/
def readCopies (team : Nat) (group : Nat → Nat) : Nat → List Byte → List CopyCmd × List Byte
  | 0, bs => ([], bs)
  | n + 1, bs =>
    let x := ofBytes (bs.take 128)
    let rows := bitsOf x 511 480
    let r := readCopies team group n (bs.drop (128 + 4 * rows))
    ({ form := copyFormOf x, word := bitsOf x 95 0, group := group (bitsOf x 311 304), team := team, pc := BitVec.ofNat 32 (bitsOf x 127 96),
       dst := bitsOf x 191 128, src := bitsOf x 255 192, len := bitsOf x 287 256, rl := bitsOf x 295 288,
       index := wordsOfBytes ((bs.drop 128).take (4 * rows)), cwe := bitOf x 296, cw64 := bitOf x 297, cwAddr := bitsOf x 383 320,
       cwVal := bitsOf x 447 384, serial := bitsOf x 639 576, chunk := bitsOf x 479 448,
       held := if bitOf x 298 then some (bitsOf x 575 512) else none } :: r.1, r.2)

/-- Tiles one after another. -/
def readTiles : List Nat → List Byte → Tbl (Tbl Word × List Nat) × List Byte
  | [], bs => ([], bs)
  | n :: ns, bs =>
    let elems : Tbl Word := ((wordsOfBytes (bs.take 32768)).zipIdx.filter (·.1 != 0)).map fun e => (e.2, BitVec.ofNat 32 e.1)
    let bad := ofBytes ((bs.drop 32768).take 1024)
    let r := readTiles ns (bs.drop 33792)
    ((n, elems, (List.range 8192).filter (bitOf bad)) :: r.1, r.2)

/-- Kaolin slices one after another, with the place of each from `off` on. -/
def readSlices (off : Nat) : List Nat → List Byte → (Tbl (List Host.Cell) × Tbl Nat) × List Byte
  | [], bs => (([], []), bs)
  | n :: ns, bs =>
    let r := readSlices (off + 4096) ns (bs.drop 4096)
    (((n, (cellsAt (4096 * (n % 2 ^ 16)) (bs.take 4096)).filter (·.2 != 0)) :: r.1.1, (n, off) :: r.1.2), r.2)

/-- What a team's record tells: the team, its groups, what its cores keep of it and its copies. -/
structure TeamImage where
  team   : Team
  groups : Tbl Group := []
  kept   : SavedCore
  copies : List CopyCmd := []
  deriving DecidableEq, Repr, Inhabited

/-- A team of launch `l`, number and place in the pool as `base` has them, from its record; `kin` is what is known of it where the record's
end tells nothing. -/
def readTeam (l : Nat) (r : LaunchRec) (base : Team) (kin : TeamRest) (bs : List Byte) : TeamImage :=
  let rest := (readEnd Codec.teamRest bs).getD kin
  let h := ofBytes (bs.take 512)
  let t := l * 2 ^ 32 + base.teamid
  let halves := if r.span then [0, 1] else [0]
  let key (g : Nat) : Nat := groupKey l r base.teamid g
  let some_ (lo n : Nat) : List Nat := (List.range n).filter fun i => bitOf h (lo + i)
  let both (a b n w : Nat) : List Nat := some_ a n ++ if r.span then (some_ b n).map (· + w) else []
  let trecs : Tbl Nat := ((List.range 16).map fun i => (i, ofBytes ((bs.drop (512 + 64 * i)).take 64))).filter (·.2 != 0)
  let offs := [bitsOf h 154 136, bitsOf h 178 160]
  let scratch := halves.flatMap fun i => (cellsAt (offs.getD i 0 + i * 2 ^ 19) ((bs.drop (1536 + i * r.span')).take r.span')).filter (·.2 != 0)
  let loam := readLoam (min 16 (bitsOf h 212 208)) (bs.drop (1536 + halves.length * r.span'))
  let locks := readHoldings (bitsOf h 223 216) loam.2
  let copies := readCopies t key (min 32 (bitsOf h 229 224)) locks.2
  let tiles := readTiles (both 192 200 8 (2 ^ 16)) copies.2
  let slices := readSlices (bs.length - tiles.2.length) (both 256 768 512 (2 ^ 16)) tiles.2
  let groups := readGroups r.lanes (rest.groups.take (bitsOf h 101 96)) slices.2
  { team := { base with
      launch := l, parked := rest.parked, core := base.core / 48 * 48 + bitsOf h 133 128, split := bitsOf h 106 105, spOff0 := offs.getD 0 0,
      spOff1 := offs.getD 1 0, spLen := r.span', windows := loam.1, trecs := trecs, imaged := slices.1.2
      barriers := (List.range 16).map fun b =>
        (b, { mask := bitsOf h (64 * b + 1311) (64 * b + 1280), count := bitsOf h (64 * b + 1317) (64 * b + 1312), phase := bitOf h (64 * b + 1318) }) }
    groups := groups.foldl (fun m g =>
      m.set (key g.grpid) { g with team := t, locks := (locks.1.filter fun x => x.1 == g.grpid).map Prod.snd }) []
    kept := { scratch := scratch, spoison := rest.spoison, tiles := tiles.1, slices := slices.1.1, kpoison := rest.kpoison, bytes := bs }
    copies := copies.1 }

end Sys2Proof.Machine
end

