-- ==== Sys2Proof/Machine/Eviction.lean ====
section
/-! DEFINITION. Eviction and restore of teams (15, R340, R342–R344). -/

namespace Sys2Proof.Machine

/-! ## The host's request (R344) -/

/-- The function whose contexts a launch belongs to. -/
def launchFunc (s : State) (l : Launch) : Nat := s.vmidFunc l.vmid

/-- The launch that EVICT_CMD of a function names, if it may: admitted, with PREEMPT 1, of a queue of the function's VMID. -/
def evictTarget (s : State) (func queue index : Nat) : Option Nat :=
  (List.find? (fun (l : Nat × Launch) => l.2.queue == queue && l.2.index == index && l.2.stage == .admitted && l.2.record.preempt &&
    launchFunc s l.2 == func && (s.funcVmid func) == some l.2.vmid) s.launches).map Prod.fst

/-- `EVICT_CMD` with GO: the resident teams of the launch are chosen, in decreasing team number. -/
def execEvictCmd (func value : Nat) (s : State) : Host.Outcome State Fault Refusal :=
  let f := s.func func
  .next (if !s.answers func || f.evGo || !bitOf value 63 then s
    else
      let park := bitOf value 61
      let f := { f with evErr := f.evErr && !bitOf value 62, evPark := park, evQueue := bitsOf value 48 32, evIndex := bitsOf value 31 0 }
      match evictTarget s func f.evQueue f.evIndex with
      | none => s.setFunc func { f with evErr := true }
      | some l =>
        let s := s.setFunc func { f with evGo := true }
        let s := { s with teams := s.teams.mapVals fun _ (t : Team) =>
          if t.launch != l then t
          else if t.resident then { t with stopping := true, parked := park }
          else if park then t else { t with parked := false } }
        testRestored (testEvict s func) func)

/-! ## Eviction (R342) -/

/-- Step 2: multiply phases and the releases behind them, long-latency instructions that no fault holds, and a commit of the launch have ended; a trap that
waits for them has been entered. No team is saved while the clock of its core stands, or once its function is quiesced (01, R18, R21; 16,
R366). -/
def evictReady (s : State) (t : Nat) : Bool :=
  let x := s.team t
  x.resident && x.stopping && s.clockRuns x.core && !s.quiesced x.launch && (s.launch x.launch).commit.isNone &&
  !(s.cores.any fun c => c.2.mq.any fun e => (e.multiplying || e.opc == 0x188) && (s.group e.group).team == t) &&
  (s.teamGroups t).all fun g => (g.2.trap.isNone || g.2.ended) && g.2.windows.all fun w => w.done || w.held != 0

/-- Pre-phases and lock requests of a team are abandoned: the instructions issue again (09, R212; 12, R290). -/
def abandon (s : State) (t : Nat) : State :=
  let mine (k : Nat) : Bool := (s.group k).team == t
  let s := abandonPhases s mine
  { s with
    lockq := s.lockq.mapVals fun _ q => q.filter fun k => !mine k
    groups := s.groups.mapVals fun _ (g : Group) =>
      if g.team != t then g
      else match g.wait with
        | .nfence _ => { g with wait := .none }
        | .barrierNext _ => { g with wait := .none }
        | _ => g }

/-- What a core of a team keeps of it: `second` for the second core of a pair. -/
def savedOf (s : State) (t core : Nat) (second : Bool) (acc : SavedCore) : SavedCore :=
  let x := s.team t
  let off := if second then x.spOff1 else x.spOff0
  let k := s.core core
  let b := b2n second
  let inside (a : Nat) : Bool := decide (off ≤ a) && decide (a < off + x.spLen)
  let slices := ownedSlices s core t
  { scratch := acc.scratch ++ (k.scratch.filter fun c => inside c.1).map fun c => (c.1 + b * 2 ^ 19, c.2)
    spoison := acc.spoison ++ (k.spoison.filter fun w => inside (4 * w)).map (· + b * 2 ^ 17)
    tiles := (ownedTiles s core t).foldl (fun m y => Tbl.set m (y.1 + b * 2 ^ 16) (y.2.elems, y.2.poison)) acc.tiles
    slices := slices.foldl (fun m n => Tbl.set m (n + b * 2 ^ 16) (k.kaolin.filter fun c => c.1 / 4096 == n)) acc.slices
    kpoison := acc.kpoison ++ (k.kpoison.filter fun w => slices.contains (w / 512)).map (· + b * 2 ^ 18) }

/-- A core takes back what its team's record holds of it. -/
def loadCore (s : State) (t core : Nat) (second : Bool) (c : SavedCore) : State :=
  let b := b2n second
  let mine (n w : Nat) : Bool := n / w == b
  let k := s.core core
  let slices := c.slices.filter fun y => mine y.1 (2 ^ 16)
  s.setCore core { k with
    scratch := Memory.writeAll k.scratch ((c.scratch.filter fun y => mine y.1 (2 ^ 19)).map fun y => (y.1 % 2 ^ 19, y.2))
    spoison := k.spoison ++ (c.spoison.filter fun w => mine w (2 ^ 17)).map (· % 2 ^ 17)
    tiles := (c.tiles.filter fun y => mine y.1 (2 ^ 16)).foldl (fun (m : Tbl Tile) y =>
      m.set (y.1 % 2 ^ 16) { owner := some t, elems := y.2.1, poison := y.2.2 }) k.tiles
    slices := slices.foldl (fun m y => Tbl.set m (y.1 % 2 ^ 16) (some t, false)) k.slices
    kaolin := Memory.writeAll k.kaolin (slices.flatMap fun y => y.2)
    kpoison := k.kpoison ++ (c.kpoison.filter fun w => mine w (2 ^ 18)).map (· % 2 ^ 18) }

/-- The record of a team is written to its image and kept (R342, step 5; R346–R348); the banks that it reads wake (16, R377). -/
def saveTeam (s : State) (t : Nat) : State :=
  let x := s.team t
  let cores := teamCores s x
  let kept := (cores.zipIdx).foldl (fun acc c => savedOf s t c.1 (c.2 == 1) acc) { scratch := [], tiles := [], slices := [] }
  let kept := { kept with bytes := (recordBytes s t).take (65536 * (x.image.getD (0, 0)).2) }
  let copies := teamCopies s t
  let s := (s.teamGroups t).foldl (fun s g => s.wakeBanks g.2.core g.2.inBank) s
  let s := writeTeamRecord s (launchFunc s (s.launch x.launch)) t
  { s with saved := s.saved.set t kept, savedCopies := s.savedCopies.set t (copies.map fun c => { c with begun := false }) }

/-- The team's resources are free (R342, step 6; R92, step 1); its halts end (17, R391), and what it had fetched, and whom it yielded to, is discarded. -/
def freeTeam (s : State) (t : Nat) : State :=
  let x := s.team t
  let cores := teamCores s x
  let gs := s.teamGroups t
  let halted := gs.any fun g => groupHalted s g.2 && !g.2.ended
  let s := gs.foldl (fun s g => if g.2.ended then s else (s.leaveSched g.1).traceStop g.2 1) s
  let s := { s with groups := s.groups.mapVals fun _ (g : Group) => if g.team == t then { g with halted := false, stepOnce := false, slotA := { g.slotA with stream := [], yieldFor := [] }, slotB := { g.slotB with stream := [], yieldFor := [] } } else g }
  let s := cores.foldl (fun s c => freeCore s t c) s
  let s := { s with cores := s.cores.mapVals fun _ (c : Core) =>
    { c with copies := c.copies.filter (fun y => y.team != t), mq := c.mq.filter fun y => (s.group y.group).team != t } }
  let s := s.setTeam t { x with resident := false, evicted := true, stopping := false }
  let fn := launchFunc s (s.launch x.launch)
  if halted then s.setFunc fn { s.func fn with dbgReleased := true } else s

/-- Steps 3 to 6 of R342 for a team whose agents have come to rest. -/
def evictTeam (s : State) (t : Nat) : State :=
  let cores := teamCores s (s.team t)
  let s := abandon s t
  let s := cores.foldl (fun s c => (s.mergeSilt c fun _ => true).flushAll c) s
  freeTeam (saveTeam s t) t

/-- `TEAM_EVICT`. -/
def execTeamEvict (team : Nat) (s : State) : Host.Outcome State Fault Refusal :=
  let fn := launchFunc s (s.launch (s.team team).launch)
  .next (if !evictReady s team || coresBlocked s (teamCores s (s.team team)) then s
    else if poolWaits s fn (s.team team).image then s.logFullSet fn
    else testEvict (evictTeam s team) fn)

/-! ## Restore (R343) -/

/-- The holdings of a group with their guarded ranges translated again, or the fault with its address. -/
def holdingsAgain (s : State) (core asid : Nat) : List Holding → Except (XFault × Nat) (List Holding)
  | [] => .ok []
  | h :: hs =>
    match s.pieces core asid .read (h.ranges.flatMap fun r => CopyCmd.pages 258 r.1 r.2) with
    | .error x => .error x
    | .ok gs =>
      let place := match s.translatePlain core asid h.record .read with | .ok x => x.pa | .error _ => h.place
      (holdingsAgain s core asid hs).map fun rest => { h with guards := gs, place := place } :: rest

/-- The walks that a team's windows and its groups' locks need on its core are made. -/
def imageWalked (s : State) (core asid : Nat) (ws : List LoamWindow) (gs : List (Nat × Group)) : State :=
  (s.walkedAll core asid ((ws.flatMap fun w => CopyCmd.pages 10 w.gb w.len).map Prod.fst)).walkedAll core asid
    (gs.flatMap fun g => g.2.locks.flatMap fun h => h.record :: (h.ranges.flatMap fun r => CopyCmd.pages 258 r.1 r.2).map Prod.fst)

/-- Those of each of some groups. -/
def locksAgain (s : State) (core asid : Nat) : List (Nat × Group) → Except (XFault × Nat) (List (Nat × List Holding))
  | [] => .ok []
  | (k, g) :: gs =>
    match holdingsAgain s core asid g.locks with
    | .error x => .error x
    | .ok hs => (locksAgain s core asid gs).map fun rest => (k, hs) :: rest

/-! ### The image as it stands (R345) -/

/-- What this machine knows of a team that stays in its image, beside what the record's fields say. -/
def restKept (s : State) (t : Nat) : TeamRest :=
  let kept := s.saved.getD t default
  { parked := (s.team t).parked, spoison := kept.spoison, kpoison := kept.kpoison, groups := (s.teamGroups t).map fun g => g.2.rest }

/-- A team's record is taken: the team, its groups, and what its cores and its copies will take from it. -/
def putImage (s : State) (t : Nat) (x : TeamImage) : State :=
  let place (k : Nat) (g : Group) : Group :=
    match s.groups.find? k with
    | some o => { g with core := o.core, sched := o.sched, units := o.units, placedAt := o.placedAt, issuedAt := o.issuedAt }
    | none => g
  { s with teams := s.teams.set t x.team
           groups := x.groups.foldl (fun m g => Tbl.set m g.1 (place g.1 g.2)) (s.groups.filter fun g => g.2.team != t)
           saved := s.saved.set t x.kept
           savedCopies := s.savedCopies.set t x.copies }

/-- The team as its image stands in the pool: one that was written over since its save is restored as it stands then (R345, log 81). An image
that does not translate is restored as it was saved. -/
def takeImage (s : State) (t : Nat) : State :=
  let l := (s.team t).launch
  let kept := s.saved.getD t default
  match readImage s (launchFunc s (s.launch l)) (s.team t).image kept.bytes.length with
  | (s, none) => s
  | (s, some bs) => if bs == kept.bytes then s else putImage s t (readTeam l (s.launch l).record (s.team t) (restKept s t) bs)

/-- A group starts again where it stood: `waita` waits are tested anew and a withdrawn lock request is made again by its
instruction. -/
def restartGroup (g : Group) (b : Berth) (stamp : Nat) : Group :=
  { g with core := b.core, sched := b.sched, units := b.units, placedAt := stamp
           wait := match g.wait with | .lock _ => .none | .waita w => .waita { w with woken := true } | w => w }

/-- Acknowledgements that came while the team was away are acted on (R340). -/
def actKept (s : State) (t : Nat) : State :=
  (s.held.filter fun h => h.ack.isSome).foldl (fun s h =>
    let mine := match h.at_ with | .group k => (s.group k).team == t | .copy x => x == t | _ => false
    if !mine then s
    else actOn { s with held := s.held.filter fun x => !(x.func == h.func && x.seq == h.seq) } { h with ack := none } (h.ack.getD 0)) s

/-- The team stands at its spot again: its groups, an `accst` that a fault holds at its place in the matrix queue, and its copies. -/
def restoreTeam (s : State) (t : Nat) (sp : Spot) (windows : List LoamWindow) (locks : List (Nat × List Holding)) : State :=
  let x := s.team t
  let kept := s.saved.getD t { scratch := [], tiles := [], slices := [] }
  let copies := s.savedCopies.getD t []
  let s := sp.cores.foldl (fun s c => takeSplit s c sp.split) s
  let s := s.setTeam t { x with resident := true, evicted := false, core := sp.core, windows := windows }
  let s := s.zeroScratch t
  let s := (sp.cores.zipIdx).foldl (fun s c => loadCore s t c.1 (c.2 == 1) kept) s
  let s := sp.groups.foldl (fun s b =>
    let k := groupKey x.launch (s.launch x.launch).record x.teamid b.grpid
    match s.groups.find? k with
    | none => s
    | some g =>
      let s := { s with serial := s.serial + 1 }
      let s := s.setGroup k (restartGroup { g with locks := (Tbl.find? locks k).getD g.locks } b s.serial)
      if g.ended then s else s.joinSched k) s
  let s := sp.groups.foldl (fun s b =>
    let k := groupKey x.launch (s.launch x.launch).record x.teamid b.grpid
    match (s.group k).replay with
    | some r => if r.opc = 0x18B then enqueue s b.core { group := k, launch := x.launch, opc := 0x18B, tile := r.fields.fnBits 6 4 } else s
    | none => s) s
  let s := copies.foldl (fun s c =>
    let core := (s.group c.group).core
    let k := s.core core
    s.setCore core { k with copies := k.copies ++ [c] }) s
  let s := { s with saved := s.saved.erase t, savedCopies := s.savedCopies.erase t }
  let s := (s.teamGroups t).foldl (fun s g =>
    match s.tracer g.2 with | some fn => s.setFunc fn { s.func fn with trcSync := true } | none => s) s
  testGbar (testBarriers (actKept s t) t) x.launch

/-- `TEAM_RESTORE` of the team that its partition's next decision names. -/
def execTeamRestore (team : Nat) (s : State) : Host.Outcome State Fault Refusal :=
  let l := s.launch (s.team team).launch
  .next (match decide' s l.part with
    | .act (.restore t sp cursor) =>
      if t != team || spotWaits s sp then s
      else
        let s := takeImage s team
        let s := imageWalked s sp.core l.asid (s.team team).windows (s.teamGroups team)
        let x := s.team team
        let fault (e : XFault) (a : Nat) : State :=
          let g := (((s.teamGroups team).head?).map Prod.snd).getD default
          (s.hold (launchFunc s l) { engineRecord e 0 a l.record.tag l.asid l.vmid with pc := g.slotA.pc.toNat } (.restore team)).1
        match windowsAgain s sp.core l.asid x.windows with
        | .error (e, a) => fault e a
        | .ok ws =>
          match locksAgain s sp.core l.asid (s.teamGroups team) with
          | .error (e, a) => fault e a
          | .ok hs => testRestored (setCursor (restoreTeam s team sp ws hs) l.part cursor) (launchFunc s l)
    | _ => s)

end Sys2Proof.Machine
end

