-- ==== Sys2Proof/Machine/Migration.lean ====
section
/-! DEFINITION. Dirty granules copied to another module: the Marl engines (16, R361–R363), and the replies of base dies (10, R233). -/

namespace Sys2Proof.Machine

/-! ## Where a round is (R363) -/

/-- A request of a Marl engine to its own stack. DEDUCED (log 94): the engines have tags of their own, beside those of the compute dies. -/
def sendMarl (s : State) (h : Nat) (req : BdReq) : State :=
  { s with bdq := s.bdq ++ [{ die := 8, stack := h, tag := s.freeTag 8 h, req := req, marl := true }] }

/-- The granules under a summary bit: 64 KiB of channel space (R361). -/
def underSummary (n : Nat) : List Nat := (List.range 128).map (128 * n + ·)

/-- The lowest device physical address in [MARL_SRC, MARL_LIM] that a summary bit's space holds. -/
def summaryAddress (s : State) (h n : Nat) : Option Nat :=
  let d := s.die h
  (((underSummary n).flatMap fun g => granulePieces s h g).filterMap fun p =>
    let a := max p.1 (d.src * 65536)
    if a < p.1 + p.2 && decide (a < (d.lim + 1) * 65536) then some a else none).min?

/-- The next summary bit that is set, in increasing address order, with its address. -/
def nextSummary (s : State) (h : Nat) : Option (Nat × Nat) :=
  let d := s.die h
  let set := ((d.dirty.map (· / 128)).eraseDups).filterMap fun n =>
    (summaryAddress s h n).bind fun a => if d.from_ ≤ a then some (a, n) else none
  set.foldl (fun best x => match best with | none => some x | some b => if x.1 < b.1 then some x else some b) none

/-- The granules of the range [MARL_SRC, MARL_LIM] that are dirty. -/
def dirtyInRange (s : State) (h : Nat) : Nat :=
  let d := s.die h
  (d.dirty.filter fun g => (granulePieces s h g).any fun p => decide (d.src * 65536 < p.1 + p.2) && decide (p.1 < (d.lim + 1) * 65536)).length

/-- Granules whose bits are set again. -/
def Stack.redirty (d : Stack) (gs : List Nat) : Stack := { d with dirty := gs.foldl (fun l g => if l.contains g then l else l ++ [g]) d.dirty }

/-! ## Messages (R363) -/

/-- The run that has been read goes out as one RUD put with PSZ 2 through context MCTX. -/
def sendRun (s : State) (h : Nat) : State :=
  let d := s.die h
  match d.run with
  | none => s
  | some (pa, bs, gs) =>
    let raddr := (d.dst + 2 ^ 64 + pa - d.src * 65536) % 2 ^ 64
    let raw := 2 * 2 ^ 8 + d.dstVdn * 2 ^ 16 + bs.length * 2 ^ 32 + raddr * 2 ^ 128
    let r : WorkReq := { raw := raw, group := 0, launch := 0, pc := 0, serial := 0, marl := some (h, gs) }
    let s := s.setDie h { d with run := none }
    if (s.net d.mctx).valid then s.postReq d.mctx 17 { r with pkts := firstPackets r bs }
    else s.setDie h { (s.die h).redirty gs with failed := true }

/-- The longest message. -/
def runMax : Nat := 65536

/-- Bytes that were read join the run where they follow it, or begin a new one. -/
def joinRun (s : State) (h pa : Nat) (bs : List Byte) : State :=
  let d := s.die h
  let fresh (s : State) : State := s.setDie h { s.die h with run := some (pa, bs, [d.granule]) }
  match d.run with
  | none => fresh s
  | some (a, old, gs) =>
    if a + old.length = pa ∧ old.length + bs.length ≤ runMax then
      s.setDie h { d with run := some (a, old ++ bs, if gs.contains d.granule then gs else gs ++ [d.granule]) }
    else fresh (sendRun s h)

/-! ## The engine -/

/-- Atoms of one read: what is left of the piece in its line. -/
def pieceAtoms (pa n : Nat) : Nat := min n (128 - pa % 128) / 32

/-- The engine's next request: the rest of the granule it copies, the next granule's DTC, or the next summary bit; at the end of a pass
the run that is left goes out. -/
def marlAdvance (s : State) (h : Nat) : State :=
  let d := s.die h
  if !d.go || d.failed then s
  else
    match d.reading with
    | (pa, n) :: _ => sendMarl s h (.rd pa (pieceAtoms pa n))
    | [] =>
      match d.visit with
      | g :: rest => sendMarl (s.setDie h { d with visit := rest }) h (.dtc g)
      | [] =>
        match nextSummary s h with
        | none => sendRun s h
        | some (a, n) => sendMarl (s.setDie h { d with from_ := a + 1, visit := (underSummary n).drop 1 }) h (.dtc (128 * n))

/-- What a reply brings its engine: a granule that was dirty is read, or only counted clear; bytes read join the run. -/
def marlReply (s : State) (r : BdReply) : State :=
  let h := r.stack
  let d := s.die h
  let s := match d.reading with
    | (pa, n) :: rest =>
      let k := 32 * pieceAtoms pa n
      let s := s.setDie h { d with reading := if n = k then rest else (pa + k, n - k) :: rest }
      if d.failed then s else joinRun s h pa (r.data.take k)
    | [] =>
      if !r.dirty then s
      else if d.failed || !d.go then s.setDie h (d.redirty [r.granule])
      else if d.mode = 1 then s.setDie h { d with found := true }
      else s.setDie h { d with found := true, sent := d.sent + 1, granule := r.granule, reading := granulePieces s h r.granule }
  marlAdvance s h

/-- The reply that a stack has sent with a tag, which is the compute die's number times 4,096 and the packet's 12-bit tag. -/
def BdReply.bears (stack tag : Nat) (r : BdReply) : Bool := r.stack == stack && r.die * 4096 + r.tag == tag

/-- `BASE_DIE_REPLY`: the tag is free again, and the reply reaches the home or the engine that asked (10, R233). -/
def execBaseDieReply (stack tag : Nat) (s : State) : Host.Outcome State Fault Refusal :=
  .next (match s.replies.find? (BdReply.bears stack tag) with
    | none => s
    | some r =>
      let s := State.giveTags { s with replies := s.replies.filter fun r => !r.bears stack tag }
      if r.marl then marlReply s r else s)

/-- Some enabled range holds part of [MARL_SRC, MARL_LIM]. -/
def marlRangeOk (s : State) (d : Stack) : Bool :=
  decide (d.src ≤ d.lim) && s.ranges.any fun r => r.2.enable && decide (r.2.base ≤ d.lim) && decide (d.src ≤ r.2.limit)

/-- A write of GO with MODE `mode` to MARL_CTL. -/
def marlGo (s : State) (h mode value : Nat) : State :=
  let d := s.die h
  if d.go || !bitOf value 63 || bitsOf value 61 60 != mode then s
  else
    let d := { d with err := d.err && !bitOf value 62, mode := mode, dstVdn := bitsOf value 47 36, mctx := bitsOf value 25 16 }
    if !marlRangeOk s d || !(s.net d.mctx).valid then s.setDie h { d with err := true }
    else marlAdvance (s.setDie h { d with go := true, sent := 0, visit := [], from_ := 0, reading := [], run := none, found := false, failed := false }) h

/-- `MARL_COPY_ROUND`, `MARL_CLEAR_ROUND`, `MARL_DRAIN_ROUND` (R363). -/
def execMarlCopyRound (stack value : Nat) (s : State) : Host.Outcome State Fault Refusal := .next (marlGo s stack 0 value)
def execMarlClearRound (stack value : Nat) (s : State) : Host.Outcome State Fault Refusal := .next (marlGo s stack 1 value)
def execMarlDrainRound (stack value : Nat) (s : State) : Host.Outcome State Fault Refusal := .next (marlGo s stack 2 value)

/-- The engine of a stack waits for a base die's reply, or a message of it has not completed. -/
def marlOutstanding (s : State) (h : Nat) : Bool :=
  (s.bdq.any fun p => p.stack == h && p.marl) || (s.replies.any fun r => r.stack == h && r.marl) ||
  s.nets.any fun n => (n.2.queues.getD 17 {}).reqs.any fun r => match r.marl with | some x => x.1 == h | none => false

/-- A function whose contexts use the range has quiesced (R363, R366). -/
def marlQuiesced (s : State) (d : Stack) : Bool :=
  s.vmids.any fun v => v.2.valid && (s.func v.2.func).stopped &&
    s.ranges.any fun r => r.2.enable && r.2.part == v.2.part && decide (r.2.base ≤ d.lim) && decide (d.src ≤ r.2.limit)

/-- The round is over. -/
def marlStop (s : State) (h : Nat) : State :=
  let d := s.die h
  let gs := (match d.run with | some r => r.2.2 | none => []) ++ if d.reading.isEmpty then [] else [d.granule]
  let s := s.setDie h { (if d.failed then d.redirty gs else d) with
    go := false, err := d.err || d.failed, visit := [], reading := [], run := none }
  s.setDie h { s.die h with left := dirtyInRange s h }

/-- `MARL_ROUND_END` of the stack at `focus`: every message has completed; a drain begins its next pass where this one found a dirty
granule and the quiesce has completed. -/
def execMarlRoundEnd (s : State) : Host.Outcome State Fault Refusal :=
  let h := s.focus
  let d := s.die h
  .next (if !d.go || marlOutstanding s h then s
    else if d.failed then marlStop s h
    else if !d.reading.isEmpty || !d.visit.isEmpty || d.run.isSome || (nextSummary s h).isSome then marlAdvance s h
    else if d.mode = 2 ∧ d.found then
      if marlQuiesced s d then marlAdvance (s.setDie h { d with from_ := 0, found := false }) h else s
    else marlStop s h)

end Sys2Proof.Machine
end

