-- ==== Sys2Proof/Machine/Incoming.lean ====
section
/-! DEFINITION. The context sections and queue blocks of a function's context pool, written by a save and read back by a restore (15, R345,
R346; 16, R364, R367, R368; log 30, 97). -/

namespace Sys2Proof.Machine

/-! ## What is a function's -/

/-- Its launches, its resident teams, and the cores on which its teams have run. -/
def funcLaunches (s : State) (func : Nat) : List Nat := (s.launches.filter fun (l : Nat × Launch) => vmidOf s func l.2.vmid).map Prod.fst
def funcTeams (s : State) (func : Nat) : List Nat :=
  (s.teams.filter fun (t : Nat × Team) => t.2.resident && vmidOf s func (s.launch t.2.launch).vmid).map Prod.fst
def funcCores (s : State) (func : Nat) : List Nat := ((funcLaunches s func).flatMap (launchCores s)).eraseDups

/-- Its network contexts. -/
def funcNets (s : State) (func : Nat) : List Nat :=
  (s.nets.filter fun (n : Nat × NetCtx) => n.2.valid && vmidOf s func (s.space n.2.asid).vmid).map Prod.fst

/-- The queues of its VMIDs (R367). -/
def funcQueues (s : State) (func : Nat) : Tbl Queue := s.queues.filter fun (q : Nat × Queue) => vmidOf s func q.2.vmid

/-! ## Sections and queue blocks in the pool -/

/-- The word by which a section is known for one: the low half of the eight bytes that name its save. -/
def sectionMark : Nat := 0x54435844

/-- A section's head in its first 144 bytes: FORMAT, length, and the number of its save. FORMAT 0 stands for a section of no launch, which only
carries a queue block. -/
def sectionHead (bs : List Byte) : Option (Nat × Nat × Nat) :=
  let format := ofBytes (bs.take 1)
  let n := ofBytes ((bs.drop 128).take 8)
  let x := ofBytes ((bs.drop 136).take 8)
  if format ≤ 1 && decide (144 ≤ n) && x % 2 ^ 32 == sectionMark then some (format, n, x / 2 ^ 32) else none

/-- The sections that stand at the blocks of a pool: block, FORMAT, length and save. -/
def poolSections (s : State) (func : Nat) : State × List (Nat × Nat × Nat × Nat) :=
  (List.range (s.func func).ctxPoolSz).foldl (fun (acc : State × List (Nat × Nat × Nat × Nat)) b =>
    match readImage acc.1 func (some (b, 1)) 144 with
    | (s, none) => (s, acc.2)
    | (s, some bs) => (s, match sectionHead bs with | some h => acc.2 ++ [(b, h)] | none => acc.2)) (s, [])

/-- The number of the latest save, and its sections. -/
def latestSave (xs : List (Nat × Nat × Nat × Nat)) : Nat := xs.foldl (fun n x => max n x.2.2.2) 0
def latestSections (xs : List (Nat × Nat × Nat × Nat)) : List (Nat × Nat × Nat × Nat) := xs.filter fun x => x.2.2.2 == latestSave xs

/-- What a queue block says beside the rule's four words of each queue: VMID, the fault that holds it and final indices of each, their held
faults, launches without a section by their records, and network contexts of no launch with their counters and chains. -/
structure QueueRest where
  queues   : List (Nat × Nat × Option Nat × List Nat)
  rings    : List Held
  launches : List (Nat × LaunchRest)
  nets     : List (NetRest × Tbl Nat × Nat × Nat)
  deriving Repr, Inhabited

def Codec.queueRest : Codec QueueRest :=
  ((list (nat.and (nat.and ((opt nat).and nats)))).and ((list held).and ((list (nat.and launchRest)).and
    (list (netRest.and ((tbl nat).and (nat.and nat))))))).map
    (fun (a, b, c, d) => ⟨a, b, c, d⟩) fun x => (x.queues, x.rings, x.launches, x.nets)

/-- What a function's queue block says beside those words. -/
def queueRest (s : State) (func : Nat) : QueueRest :=
  let asids := (funcLaunches s func).map fun l => (s.launch l).asid
  { queues := (funcQueues s func).map fun q => (q.1, q.2.vmid, q.2.held, q.2.finals)
    rings := s.held.filter fun h => match h.at_ with | .ring q => vmidOf s func (s.queue q).vmid | _ => false
    launches := ((funcLaunches s func).filter fun l => (s.launch l).image.isNone).map fun l => ((s.launch l).record.bits, launchRest s l)
    nets := ((funcNets s func).filter fun n => !asids.contains (s.net n).asid).map fun n =>
      let x := s.net n
      ({ netRest 0 n x with reqs := [] }, x.ctrs, x.chain.seq, x.chain.hash) }

/-- The queue block: how many queues and how many bytes; number, TAKEN, CONS and PROD of each queue (R367); the rest. -/
def queueBlock (s : State) (func : Nat) : List Byte :=
  let qs := funcQueues s func
  let body := (qs.flatMap fun q => toBytes 4 q.1 ++ toBytes 4 q.2.taken ++ toBytes 4 q.2.cons ++ toBytes 4 q.2.prod) ++
    endBytes Codec.queueRest (queueRest s func)
  toBytes 8 qs.length ++ toBytes 8 (16 + body.length) ++ body

/-- The sections of save `n` are written, each with the queue block behind it; a function with none has the block alone at the start of its
pool. -/
def writeSections (s : State) (func n : Nat) : State :=
  let stamp := n * 2 ^ 32 + sectionMark
  let block := queueBlock s func
  match (funcLaunches s func).filter fun l => (s.launch l).image.isSome with
  | [] =>
    if (s.func func).ctxPoolSz = 0 then s
    else writeImage s func (some (0, (s.func func).ctxPoolSz)) (toBytes 128 0 ++ toBytes 8 144 ++ toBytes 8 stamp ++ block)
  | ls => ls.foldl (fun s l => writeImage s func (s.launch l).image (contextBytes s l stamp ++ block)) s

/-- The sections of the latest save are used up. -/
def dropSections (s : State) (func : Nat) : State :=
  let r := poolSections s func
  (latestSections r.2).foldl (fun s x => writeImage s func (some (x.1, 1)) (toBytes 8 0) 136) r.1

/-! ## A section as it is read back (R346) -/

/-- Deposits one after another. -/
def readDeposits : Nat → List Byte → List Deposit × List Byte
  | 0, bs => ([], bs)
  | n + 1, bs =>
    let at_ (lo k : Nat) : Nat := ofBytes ((bs.drop lo).take k)
    let words := at_ 32 8
    let r := readDeposits n (bs.drop (40 + 4 * words))
    ({ q := at_ 0 4, key := at_ 4 4, ord := at_ 8 4, slotNo := at_ 12 4, lin := at_ 16 8, par := at_ 24 8,
       payload := (wordsOfBytes ((bs.drop 40).take (4 * words))).map (BitVec.ofNat 32) } :: r.1, r.2)

/-- The 64 counters of a block. -/
def readCounters (bs : List Byte) : Tbl Nat := ((List.range 64).map fun i => (i, ofBytes ((bs.drop (8 * i)).take 8))).filter (·.2 != 0)

/-- Requests one after another: their 64 B, their progress and the acknowledged packets. -/
def readReqs : List (Nat × WorkReq) → List Byte → List (Nat × WorkReq) × List Byte
  | [], bs => ([], bs)
  | (q, r) :: xs, bs =>
    let p := ofBytes ((bs.drop 64).take 16)
    let acked := readBitmap r.pkts.length (bs.drop 80)
    let t := readReqs xs (bs.drop (80 + bitmapSize r.pkts.length))
    ((q, { r with raw := ofBytes (bs.take 64), started := bitOf p 0, ending := if bitOf p 1 then some (bitsOf p 15 8) else none, msg := bitsOf p 95 64,
                  pkts := (r.pkts.zip acked).map fun (y, b) => { y with acked := b } }) :: t.1, t.2)

/-- Messages one after another, of those not yet complete: what of each has been placed. -/
def readRx : List RxMsg → List Byte → List RxMsg × List Byte
  | [], bs => ([], bs)
  | m :: ms, bs =>
    if m.counted then let t := readRx ms bs; (m :: t.1, t.2)
    else
      let at_ (lo k : Nat) : Nat := ofBytes ((bs.drop lo).take k)
      let total := at_ 28 4
      let t := readRx ms (bs.drop (32 + bitmapSize total))
      ({ m with jobid := at_ 0 4, src := at_ 4 2, queue := at_ 6 2, msg := at_ 8 8, spot := at_ 16 8,
                slot := if at_ 24 4 = 0 then none else some (m.slot.getD 0), total := total,
                placed := (List.range total).filter fun i => (readBitmap total (bs.drop 32)).getD i false } :: t.1, t.2)

/-- Network contexts one after another: counters, chain, and what each has received. -/
def readNets : List NetRest → List Byte → List (NetRest × Tbl Nat × Nat × Nat)
  | [], _ => []
  | n :: ns, bs =>
    let r := readRx n.rx (bs.drop 584)
    ({ n with rx := r.1 }, readCounters bs, ofBytes ((bs.drop 512).take 8), ofBytes ((bs.drop 520).take 64)) :: readNets ns r.2

/-- A launch of key `k` with what its section's parts say, and the bytes behind them. -/
def readSection (k : Nat) (x : Launch) (gbar : List Nat) (bs : List Byte) : Launch × List Byte :=
  let at_ (lo n : Nat) : Nat := ofBytes ((bs.drop lo).take n)
  let ds := readDeposits (min (at_ 200 8) (bs.length / 40)) (bs.drop 208)
  let rest := ds.2.drop 16
  ({ x with
      record := LaunchRec.ofBits (at_ 0 128)
      pop := { live := at_ 144 8, seq := at_ 152 8, total := at_ 160 8, off := at_ 168 8, surv := at_ 176 8 }
      passOn := at_ 184 4 != 0, passPc := BitVec.ofNat 32 (at_ 188 4), passP := at_ 192 8, deposit := ds.1
      gbar := (gbar.take (ofBytes (ds.2.take 8))).map (k * 2 ^ 37 + ·), gphase := ofBytes ((ds.2.drop 8).take 8)
      ctrs := readCounters rest, chain := { x.chain with seq := ofBytes ((rest.drop 512).take 8), hash := ofBytes ((rest.drop 520).take 64) } },
    rest.drop 584)

/-! ## A launch that arrives (R368) -/

/-- A launch that the pool tells of: its record, the rest, and its section, with its block, where it has one. -/
structure Arriving where
  record  : Nat
  rest    : LaunchRest
  body : Option (Nat × List Byte)
  deriving Repr, Inhabited

/-- By what the fault numbers of an arrival differ from those of the machine, until they are recorded anew. -/
def foreign : Nat := 2 ^ 64

/-- A launch of a section is set up under key `k`, its faults under `foreign` numbers. -/
def Arriving.launch (s : State) (k : Nat) (a : Arriving) : Launch :=
  let r := a.rest
  let part := (s.vm r.vmid).part
  let x : Launch :=
    { queue := r.queue, index := r.index, recAddr := r.recAddr, record := LaunchRec.ofBits a.record, asid := r.asid, vmid := r.vmid, part := part,
      prio := r.prio, stage := r.stage, got0 := r.got.1, got1 := r.got.2, order := (s.part part).admitted + r.order, params := r.params, trecs := r.trecs,
      next := r.next, finalAt := r.finalAt, gbar := r.gbar.map (k * 2 ^ 37 + ·), arrived := r.arrived.map fun y => (k * 2 ^ 37 + y.1, y.2),
      ancHold := r.ancHold, chain := { closed := r.closed }, image := a.body.bind fun b => r.image.map fun i => (b.1, i.2) }
  match a.body with
  | some b => (readSection k x r.gbar b.2).1
  | none => x

/-- Fault numbers of a group and of a request become foreign. -/
def Group.toForeign (g : Group) : Group :=
  { g with replay := g.replay.map fun r => { r with seq := r.seq + foreign }
           frame := g.frame.map fun fr => { fr with replay := fr.replay.map fun r => { r with seq := r.seq + foreign } }
           wait := match g.wait with | .fault n => .fault (n + foreign) | w => w }

/-- A request goes into its queue in the order of posting. -/
def insertReq (r : WorkReq) : List WorkReq → List WorkReq
  | [] => [r]
  | x :: xs => if r.serial < x.serial then r :: x :: xs else x :: insertReq r xs

/-- A network context takes up what it had sent and received, with the requests of launch `k`; its counters and chain are the image's,
and times of sending count from now on (log 97). -/
def putNet (s : State) (func k : Nat) (n : NetRest) (reqs : List (Nat × WorkReq)) (ctrs : Tbl Nat) (seq hash : Nat) : State :=
  let x := s.net n.pid
  if !x.valid || !vmidOf s func (s.space x.asid).vmid then s
  else
    let queues := n.queues.foldl (fun (m : Tbl SendQueue) (q, next, serial, code, errors) =>
      let old := m.getD q {}
      let mine := (reqs.filter (·.1 == q)).map fun p =>
        { p.2 with launch := k, group := k * 2 ^ 37 + p.2.group, stalled := p.2.stalled.map (· + foreign)
                   pkts := p.2.pkts.map fun y => { y with at_ := s.now, recheck := y.recheck.map fun _ => s.now + rtoCycles s } }
      m.set q { old with nextMsg := next, serial := serial, code := code, errors := errors,
                         reqs := mine.foldl (fun l r => insertReq r l) (old.reqs.filter fun r => r.launch != k || r.marl.isSome) }) x.queues
    s.setNet n.pid { x with state := 3, queues := queues, rx := n.rx, ctrs := ctrs, chain := { seq := seq, hash := hash, closed := n.closed } }

/-- The requests and contexts of a section, behind the launch's own parts. -/
def putNets (s : State) (func k : Nat) (nets : List NetRest) (bs : List Byte) : State :=
  let reqs := readReqs (nets.flatMap (·.reqs)) bs
  let split := nets.foldl (fun (acc : List (List (Nat × WorkReq)) × List (Nat × WorkReq)) n =>
    (acc.1 ++ [acc.2.take n.reqs.length], acc.2.drop n.reqs.length)) ([], reqs.1)
  ((readNets nets reqs.2).zip split.1).foldl (fun s p => putNet s func k p.1.1 p.2 p.1.2.1 p.1.2.2.1 p.1.2.2.2) s

/-- A team of an arriving launch: unplaced, from its image where it has one. -/
def putTeam (s : State) (func k : Nat) (r : LaunchRec) (p : TeamPlace) : State :=
  let base : Team := { launch := k, teamid := p.teamid, placed := p.placed, parked := p.parked, exited := p.exited, evicted := p.image.isSome, image := p.image }
  let t := k * 2 ^ 32 + p.teamid
  if p.image.isNone then s.setTeam t base
  else
    match readImage s func p.image p.bytes with
    | (s, none) => s
    | (s, some bs) =>
      let x := readTeam k r base default bs
      { s with
        teams := s.teams.set t x.team
        groups := x.groups.foldl (fun m g => Tbl.set m g.1 g.2.toForeign) s.groups
        saved := s.saved.set t x.kept
        savedCopies := s.savedCopies.set t (x.copies.map fun y => { y with held := y.held.map (· + foreign) }) }

/-- A launch of the pool becomes a launch of the machine under key `k`, with its teams, its groups, its requests and its held faults. -/
def putArriving (s : State) (func k : Nat) (a : Arriving) : State :=
  let x := a.launch s k
  let p := s.part x.part
  let s := (s.setLaunch k x).setPart x.part { p with admitted := max p.admitted x.order }
  let s := a.rest.teams.foldl (fun s t => putTeam s func k x.record t) s
  let s := a.rest.loose.foldl (fun s (n, size, value, rest) =>
    let g := (readGroup x.record.lanes rest (toBytes size value)).1
    s.setGroup (k * 2 ^ 37 + n) { g.toForeign with team := k * 2 ^ 32 + n / x.record.groups }) s
  let s := match a.body with
    | some b => putNets s func k a.rest.nets (readSection k x [] b.2).2
    | none => a.rest.nets.foldl (fun s n => let y := s.net n.pid; putNet s func k n n.reqs y.ctrs y.chain.seq y.chain.hash) s
  a.rest.held.foldl (fun s h =>
    let seq := h.seq + foreign
    if s.held.any fun y => y.func == func && y.seq == seq then s
    else
      let h := h.rekey (k * 2 ^ 37 + ·) (k * 2 ^ 32 + ·) fun _ => k
      { s with held := s.held ++ [{ h with func := func, seq := seq }] }) s

/-- An arriving launch goes into a list in the order in which the launches were taken. -/
def insertArriving (a : Arriving) : List Arriving → List Arriving
  | [] => [a]
  | x :: xs => if a.rest.key < x.rest.key then a :: x :: xs else x :: insertArriving a xs

/-- A queue block at a place of the pool: the queues with their four words, and the rest. -/
def readQueueBlock (s : State) (func b off : Nat) : State × Option (List (Nat × Nat × Nat × Nat) × QueueRest) :=
  match readImage s func (some (b, 1)) 16 off with
  | (s, none) => (s, none)
  | (s, some head) =>
    match readImage s func (some (b, 1)) (ofBytes (head.drop 8)) off with
    | (s, none) => (s, none)
    | (s, some bs) =>
      let n := min (ofBytes (head.take 8)) (bs.length / 16)
      let word (i j : Nat) : Nat := ofBytes ((bs.drop (16 + 16 * i + 4 * j)).take 4)
      (s, (readEnd Codec.queueRest bs).map fun r => ((List.range n).map fun i => (word i 0, word i 1, word i 2, word i 3), r))

/-- The launches of the latest save's sections, and the block behind them. -/
def readSections (s : State) (func : Nat) : State × List Arriving × Option (List (Nat × Nat × Nat × Nat) × QueueRest) :=
  let r := poolSections s func
  (latestSections r.2).foldl (fun (acc : State × List Arriving × Option (List (Nat × Nat × Nat × Nat) × QueueRest)) x =>
    let (b, format, n, _) := x
    let (s, block) := match acc.2.2 with | some q => (acc.1, some q) | none => readQueueBlock acc.1 func b n
    match readImage s func (some (b, 1)) n with
    | (s, none) => (s, acc.2.1, block)
    | (s, some bs) =>
      match (if format = 0 then none else readEnd Codec.launchRest bs) with
      | none => (s, acc.2.1, block)
      | some rest => (s, insertArriving { record := ofBytes (bs.take 128), rest := rest, body := some (b, bs) } acc.2.1, block)) (r.1, [], none)

/-- The machine may take a launch: its VMID and ASID are the function's, and it does not hold the launch already. -/
def Arriving.fits (s : State) (func : Nat) (a : Arriving) : Bool :=
  let r := a.rest
  vmidOf s func r.vmid && (s.space r.asid).vmid == r.vmid &&
    !s.launches.any fun l => l.2.queue == r.queue && l.2.index == r.index && l.2.vmid == r.vmid

/-- Steps 1 and 3 of R368: what the function's pool tells of launches, teams, queues and network contexts becomes the machine's. -/
def takeIncoming (s : State) (func : Nat) : State :=
  let (s, found, block) := readSections s func
  let (queues, rest) := block.getD ([], default)
  let found := rest.launches.foldl (fun l a => insertArriving { record := a.1, rest := a.2, body := none } l) found
  let found := (found.filter (Arriving.fits s func)).zipIdx (s.serial + 1)
  let first := s.serial
  let s := { s with serial := s.serial + found.length }
  let s := found.foldl (fun s p => putArriving s func p.2 p.1) s
  let s := rest.nets.foldl (fun s n => putNet s func 0 n.1 [] n.2.1 n.2.2.1 n.2.2.2) s
  let epoch (q : Nat) : Nat := found.foldl (fun n p => if p.1.rest.queue = q && p.1.rest.older then max n p.2 else n) first
  { s with
    held := s.held ++ (rest.rings.map fun h => { h with func := func, seq := h.seq + foreign })
    savedQueues := queues.foldl (fun m (q, taken, cons, prod) =>
      match rest.queues.find? fun y => y.1 == q with
      | none => m
      | some (_, vmid, held, finals) =>
        Tbl.set m q { vmid := vmid, taken := taken, cons := cons, prod := prod, held := held.map (· + foreign), finals := finals, epoch := epoch q }) s.savedQueues }

/-- A launch that was saved here goes on as its section stands in the pool: one that was written over since the save is restored as it then
stands (15, R345). -/
def takeSection (s : State) (func l : Nat) : State :=
  let x := s.launch l
  match readImage s func x.image 144 with
  | (s, none) => s
  | (s, some head) =>
    match sectionHead head with
    | none => s
    | some (_, n, save) =>
      match readImage s func x.image n with
      | (s, none) => s
      | (s, some bs) =>
        if bs == contextBytes s l (save * 2 ^ 32 + sectionMark) then s
        else
          let r := launchRest s l
          let y := readSection l x r.gbar bs
          putNets (s.setLaunch l y.1) func l r.nets y.2

end Sys2Proof.Machine
end

