-- ==== Sys2Proof/Machine/Stopping.lean ====
section
/-! DEFINITION. The stop phase of a migration: VFCTL's quiesce, save, resume and restore (16, R365–R368; 17, R386). -/

namespace Sys2Proof.Machine

/-! ## What is a function's -/

/-- The VMID at which a held fault stands. -/
def heldVmid (s : State) (h : Held) : Nat :=
  match h.at_ with
  | .ring q => (s.queue q).vmid
  | .status l => (s.launch l).vmid
  | .signal l => (s.launch l).vmid
  | .send p _ => (s.space (s.net p).asid).vmid
  | .target p _ => (s.space (s.net p).asid).vmid
  | _ => match s.heldLaunch h with | some l => (s.launch l).vmid | none => 0

/-! ## Commands (R365) -/

/-- The function runs nothing: none of its teams is resident, and none of its queues is enabled. -/
def runsNothing (s : State) (func : Nat) : Bool := (funcTeams s func).isEmpty && !s.queues.any fun q => q.2.enable && vmidOf s func q.2.vmid

/-- The command is accepted from the state that the function stands in; none while GO reads 1 (log 88). -/
def vfAccepts (s : State) (func cmd : Nat) : Bool :=
  let f := s.func func
  decide (1 ≤ func) && decide (func < 256) && !f.vfGo &&
    match cmd with
    | 1 => f.vfState == 0
    | 2 => f.vfState == 1
    | 3 => f.vfState == 1 || f.vfState == 2
    | 4 => f.vfState == 0 && runsNothing s func
    | _ => false

/-- A write of GO with command `cmd` that is accepted: VFCTL with its fields taken. -/
def vfTakes (s : State) (func cmd value : Nat) : Option Func :=
  if bitOf value 63 && bitsOf value 59 56 == cmd && vfAccepts s func cmd then some (vfctlFields (s.func func) value) else none

/-- `VFCTL_REFUSED`: GO with a command that is not accepted. -/
def execVfctlRefused (func value : Nat) (s : State) : Host.Outcome State Fault Refusal :=
  .next (if !bitOf value 63 || vfAccepts s func (bitsOf value 59 56) || func = 0 then s else s.setFunc func { vfctlFields (s.func func) value with vfErr := true })

/-! ## Quiesce (R366) -/

/-- `VF_QUIESCE`: step 1. Queues take no record, nothing is admitted and no group issues while GO is 1. -/
def execVfQuiesce (w : VfctlWrite) (s : State) : Host.Outcome State Fault Refusal :=
  .next (match vfTakes s w.func 1 w.value with
    | some f => s.setFunc w.func { f with vfGo := true, vfSince := s.now }
    | none => s)

/-- Steps 1a and 2: no commit, no multiply phase, no long-latency instruction but held ones, no trap still to be entered. -/
def quiesceReady (s : State) (func : Nat) : Bool :=
  ((funcLaunches s func).all fun l => (s.launch l).commit.isNone) &&
  (funcTeams s func).all fun t =>
    !(s.cores.any fun c => c.2.mq.any fun e => (e.multiplying || e.opc == 0x188) && (s.group e.group).team == t) &&
    (s.teamGroups t).all fun g => (g.2.trap.isNone || g.2.ended) && g.2.windows.all fun w => w.done || w.held != 0

/-- Steps 3 and 4: what the cores still hold is written, and the network contexts stop. -/
def quiesce (s : State) (func : Nat) : State :=
  let s := (funcTeams s func).foldl abandon s
  let s := (funcCores s func).foldl (fun s c => (s.mergeSilt c fun _ => true).flushAll c) s
  let s := (funcNets s func).foldl (fun s n => s.setNet n { s.net n with state := 3 }) s
  let f := s.func func
  s.setFunc func { f with vfGo := false, vfState := 1, vfQcyc := min (s.now - f.vfSince) (2 ^ 32 - 1) }

/-- `QUIESCE_COMPLETE`. -/
def execQuiesceComplete (func : Nat) (s : State) : Host.Outcome State Fault Refusal :=
  let f := s.func func
  .next (if !f.vfGo || f.vfState != 0 || !quiesceReady s func || coresBlocked s (funcCores s func) then s else quiesce s func)

/-! ## Save (R367) -/

/-- An image or a section of the function cannot be written while the log holds writes to its pages (10, R237). -/
def saveWaits (s : State) (func : Nat) : Bool :=
  (funcTeams s func).any (fun t => poolWaits s func (s.team t).image) || (funcLaunches s func).any (fun l => poolWaits s func (s.launch l).image) ||
    poolWaits s func (some (0, 1))

/-- Every team is saved and kept unplaced, and the context sections are written. -/
def saveFunc (s : State) (func : Nat) : State :=
  let s := (funcTeams s func).foldl (fun s t => freeTeam (saveTeam s t) t) s
  let r := poolSections s func
  testEvict (writeSections r.1 func (latestSave r.2 + 1)) func

/-- An accepted save is made, unless the log makes it wait. -/
def trySave (s : State) (func : Nat) : State :=
  if saveWaits s func then s.logFullSet func else saveFunc (s.setFunc func { s.func func with vfPending := false }) func

/-- `VF_SAVE`. -/
def execVfSave (w : VfctlWrite) (s : State) : Host.Outcome State Fault Refusal :=
  .next (match vfTakes s w.func 2 w.value with
    | some f => trySave (s.setFunc w.func { f with vfGo := true, vfPending := true }) w.func
    | none => s)

/-- `SAVE_COMPLETE`: the end of a save that has been made. -/
def execSaveComplete (func : Nat) (s : State) : Host.Outcome State Fault Refusal :=
  let f := s.func func
  .next (if !f.vfGo || f.vfState != 1 then s
    else if f.vfPending then trySave s func
    else s.setFunc func { f with vfGo := false, vfState := 2 })

/-! ## Resume and restore (R368) -/

/-- Held faults under their new numbers, wherever they stand: each fault with its number. -/
def renumber (news : List (Held × Nat)) (func : Nat) (s : State) : State :=
  let x (n : Nat) : Nat := ((news.find? fun p => p.1.seq == n).map Prod.snd).getD n
  { s with
    held := s.held.map fun h =>
      if news.any fun p => p.1.func == h.func && p.1.seq == h.seq then
        { h with func := func, seq := x h.seq, record := { h.record with seq := x h.seq } }
      else h
    groups := s.groups.mapVals fun _ (g : Group) =>
      if s.vmidFunc (s.launch (s.launchOf g)).vmid != func then g
      else { g with replay := g.replay.map fun r => { r with seq := x r.seq }
                    frame := g.frame.map fun fr => { fr with replay := fr.replay.map fun r => { r with seq := x r.seq } }
                    wait := match g.wait with | .fault n => .fault (x n) | w => w }
    cores := s.cores.mapVals fun _ (c : Core) =>
      { c with copies := c.copies.map fun y => if s.vmidFunc (s.launch (s.team y.team).launch).vmid != func then y else { y with held := y.held.map x } }
    savedCopies := s.savedCopies.mapVals fun t ys =>
      if s.vmidFunc (s.launch (s.team t).launch).vmid != func then ys else ys.map fun y => { y with held := y.held.map x }
    queues := s.queues.mapVals fun _ (q : Queue) => if s.vmidFunc q.vmid != func then q else { q with held := q.held.map x }
    nets := s.nets.mapVals fun _ (n : NetCtx) =>
      if s.vmidFunc (s.space n.asid).vmid != func then n
      else { n with queues := n.queues.mapVals fun _ (q : SendQueue) => { q with reqs := q.reqs.map fun r => { r with stalled := r.stalled.map x } } } }

/-- Step 4: one new record for each fault that the restored contexts hold. -/
def recordAgain (s : State) (func : Nat) : State :=
  let hs := s.held.filter fun h => vmidOf s func (heldVmid s h)
  let (s, news) := hs.foldl (fun (acc : State × List (Held × Nat)) h =>
    let (s, seq) := acc.1.report func h.record
    (s, acc.2 ++ [(h, seq)])) (s, [])
  renumber news func s

/-- Step 3: the network contexts go on; each has its arrival recorded (17, R386). -/
def resumeNets (s : State) (func : Nat) : State :=
  let nets := (s.nets.filter fun (n : Nat × NetCtx) => n.2.valid && n.2.state == 3 && vmidOf s func (s.space n.2.asid).vmid).map Prod.fst
  nets.foldl (fun s n =>
    let s := s.setNet n { s.net n with state := 0 }
    askReport s { kind := 4, final := false, launch := 0, pid := n, vmid := (s.space (s.net n).asid).vmid, ctrs := [], words := formationWords s n }) s

/-- Groups that stayed resident go on: withdrawn lock requests are made again by their instructions, `waita` waits are tested anew. -/
def resumeGroups (s : State) (func : Nat) : State :=
  { s with groups := s.groups.mapVals fun _ (g : Group) =>
      if !vmidOf s func (s.launch (s.launchOf g)).vmid || !(s.team g.team).resident then g
      else { g with wait := match g.wait with | .lock _ => .none | .waita w => .waita { w with woken := true } | w => w } }

/-- Step 2: queues that the host has configured with the same numbers and left disabled. DESIGN CHOICE (log 91): the checks of ERROR codes 2
to 4 come first, and a queue that fails one makes no evaluation of R53. -/
def restoreQueues (s : State) (func : Nat) : State :=
  let s := (s.savedQueues.filter fun (q : Nat × Queue) => vmidOf s func q.2.vmid && !(s.queue q.1).enable && (s.queue q.1).vmid == q.2.vmid).foldl (fun s q =>
    let s := enableQueue s q.1 (s.queue q.1) q.2.taken q.2.cons q.2.prod
    State.testOverrun (s.setQueue q.1 { s.queue q.1 with held := q.2.held, finals := q.2.finals, epoch := q.2.epoch }) q.1) s
  { s with savedQueues := s.savedQueues.filter fun (q : Nat × Queue) => !vmidOf s func q.2.vmid
           held := s.held.filter fun h => match h.at_ with | .ring q => h.func != func || (s.queue q).held == some h.seq | _ => true }

/-- `VF_RESUME` of a quiesced or a saved function: a saved one's launches go on as their sections stand, its teams wait to be placed, and its
held faults are recorded anew. -/
def execVfResume (w : VfctlWrite) (s : State) : Host.Outcome State Fault Refusal :=
  .next (match vfTakes s w.func 3 w.value with
    | none => s
    | some f =>
      let func := w.func
      if f.vfState = 2 then
        let s := s.setFunc func { f with vfGo := true, vfState := 3 }
        let s := dropSections ((funcLaunches s func).foldl (fun s l => takeSection s func l) s) func
        testRestored (recordAgain (resumeNets (resumeGroups s func) func) func) func
      else resumeNets (resumeGroups (s.setFunc func { f with vfState := 0 }) func) func)

/-- `VF_RESTORE` on a function that runs nothing: the contexts that its pool holds, of this module or another (log 32, 97). -/
def execVfRestore (w : VfctlWrite) (s : State) : Host.Outcome State Fault Refusal :=
  .next (match vfTakes s w.func 4 w.value with
    | none => s
    | some f =>
      let func := w.func
      let s := dropSections (takeIncoming (s.setFunc func { f with vfGo := true, vfState := 3 }) func) func
      testRestored (recordAgain (resumeNets (restoreQueues s func) func) func) func)

end Sys2Proof.Machine
end

