-- ==== Sys2Proof/Machine/Reset.lean ====
section
/-! DEFINITION. The contained reset of a partition (16, R371, R372, R375). -/

namespace Sys2Proof.Machine

/-- A partition's launches, teams and groups. -/
def partLaunch (s : State) (n l : Nat) : Bool := (s.launch l).part == n && (s.launches.find? l).isSome
def partGroups (s : State) (n : Nat) : List (Nat × Group) := s.groups.filter fun g => partLaunch s n (s.launchOf g.2)

/-- Its network contexts: those of address spaces of its VMIDs. -/
def partNet (s : State) (n p : Nat) : Bool :=
  let v := (s.space (s.net p).asid).vmid
  (s.net p).valid && v != 0 && (s.vm v).valid && (s.vm v).part == n

/-! ## Step 3: what is cleared (R372) -/

/-- The lock words whose holding or queue lies in the partition. -/
def partLocks (s : State) (n : Nat) : List Nat :=
  ((((partGroups s n).flatMap fun g => g.2.locks.map fun h => lockWord s g.1 h) ++
    (s.lockq.filter fun q => q.2.any fun k => partLaunch s n (s.launchOf (s.group k))).map Prod.fst)).eraseDups

/-- HELD of a lock word becomes 0; its other bits stay. -/
def freeLockWord (s : State) (pa : Nat) : State := s.homeWrite none none [(pa, s.homeByte pa &&& 0xFE)]

/-- A core of the partition as the reset leaves it: its split and its window selector stay. -/
def resetCore (k : Core) : Core := { split := k.split, csel := k.csel, issueAt := k.issueAt }

/-- Cores, caches, engines and their queues. -/
def resetCores (s : State) (n : Nat) : State :=
  { s with
    cores := s.cores.mapVals fun c k => if coreIn s n c then resetCore k else k
    clusters := s.clusters.mapVals fun c (g : Governor) => if bitOf (s.part n).clusters c then { g with waiting := [], leave := [] } else g
    lockq := s.lockq.filter fun q => !q.2.any fun k => partLaunch s n (s.launchOf (s.group k))
    recalls := s.recalls.filter fun (r : Nat × Recall) => r.2.part != n
    l2 := s.l2.mapVals fun _ ls => ls.filter fun x => (s.rangeOf (128 * x.line)).map (·.2.part) != some n }

/-- Halts of groups of the partition end, and their functions see RELEASED (17, R391). -/
def releaseHalts (s : State) (n : Nat) : State :=
  let fns := (((partGroups s n).filter fun g => groupHalted s g.2 && !g.2.ended).map fun g => s.vmidFunc (s.launch (s.launchOf g.2)).vmid).eraseDups
  fns.foldl (fun s f => s.setFunc f { s.func f with dbgReleased := true }) s

/-! ## Step 4: the Tilth root, Marl rounds and network contexts (R372; 14, R328) -/

/-- A Marl round over a range of the partition ends with ERR; a granule whose bit it had cleared and not sent is dirty again. -/
def cutRound (n : Nat) (s : State) (h : Nat) : State :=
  let d := s.die h
  if !d.go || !(s.ranges.any fun r => r.2.enable && r.2.part == n && decide (r.2.base ≤ d.lim) && decide (d.src ≤ r.2.limit)) then s
  else
    let lost := (s.replies.filter fun r => r.stack == h && r.marl && r.dirty).map (·.granule)
    let s := { s with bdq := s.bdq.filter fun p => !(p.stack == h && p.marl), replies := s.replies.filter fun r => !(r.stack == h && r.marl) }
    let s := s.giveTags
    marlStop (s.setDie h { (s.die h).redirty lost with failed := true }) h

/-- A network context discards what has not completed: requests leave, incomplete messages are refused from now on. -/
def cutNet (s : State) (p : Nat) : State :=
  let s := ((s.net p).queues.getD 17 {}).reqs.foldl (fun s r => endReq s p 17 r.serial 5) s
  let x := s.net p
  { s.setNet p { x with
      queues := x.queues.mapVals fun _ (q : SendQueue) => { q with reqs := [] }
      rx := x.rx.map fun m => if m.counted || m.answer.isSome then m else { m with refused := true, pages := [] } } with
    held := s.held.filter fun h => match h.at_ with | .send p' _ => p' != p | .target p' _ => p' != p | _ => true }

/-! ## Step 5: its launches end -/

/-- Every taken or admitted launch of the partition ends with STATUS 0x0003; nothing of any launch stays resident. -/
def cutLaunches (s : State) (n : Nat) : State :=
  let mine (t : Nat) : Bool := partLaunch s n (s.team t).launch
  let cut : State :=
    { s with
      teams := s.teams.mapVals fun _ (t : Team) =>
        if partLaunch s n t.launch then { t with resident := false, evicted := false, stopping := false, exited := true, windows := [],
                                                 barriers := [], image := none } else t
      groups := s.groups.mapVals fun _ (g : Group) =>
        if mine g.team then { g.cut with ended := true, windows := [], locks := [], halted := false, stepOnce := false } else g
      saved := s.saved.filter fun t => !mine t.1
      savedCopies := s.savedCopies.filter fun t => !mine t.1 }
  ((s.launches.filter fun l => l.2.part == n).map Prod.fst).foldl (fun s l => s.endLaunch l 3) cut

/-- EVICT_CMD commands, resumes and restores whose teams are gone are done. -/
def testEvicts (s : State) : State := s.funcs.foldl (fun s f => testRestored (testEvict s f.1) f.1) s

/-! ## The reset -/

/-- Steps 3 to 5 of the reset of partition `n` that has begun, and its place in the error log. -/
def resetPart (s : State) (n : Nat) : State :=
  let locks := partLocks s n
  let s := releaseHalts s n
  let s := resetCores s n
  let s := locks.foldl freeLockWord s
  let s := (List.range 8).foldl (cutRound n) s
  let s := ((s.nets.map Prod.fst).filter (partNet s n)).foldl cutNet s
  let s := testEvicts (cutLaunches s n)
  let p := s.part n
  let s := s.setPart n { p with rstGo := false, rstAuto := p.rstNext != 0, rstCause := p.rstNext, rstNext := 0, rstCount := min (2 ^ 32 - 1) (p.rstCount + 1),
                                cursor := 0, claim := none, last := [131071, 131071, 131071, 131071] }
  s.logError { cls := 7, part := n }

/-- `PARTITION_RESET`: the reset of a partition begins, by the host's write of GO (cause 0) or an uncorrectable error in control state (2, 3);
where one has begun, it comes to its end (R371–R373). -/
def execPartitionReset (part cause : Nat) (s : State) : Host.Outcome State Fault Refusal :=
  .next (if (s.part part).rstGo then resetPart s part else if cause = 0 ∨ cause = 2 ∨ cause = 3 then s.beginReset part cause else s)

/-- `RECALL_TIMEOUT` of the line at `focus`: 120,000 cycles without the last acknowledgement, of a core or of a copy engine that owns the
line: the partition's reset begins (R375). -/
def execRecallTimeout (s : State) : Host.Outcome State Fault Refusal :=
  .next (match s.recalls.find? s.focus with
    | none => s
    | some r => if (!r.cores.isEmpty || s.lineClaimed s.focus) && decide (r.since + 120000 ≤ s.now) then s.beginReset r.part 1 else s)

end Sys2Proof.Machine
end

