-- ==== Sys2Proof/Machine/Observe.lean ====
section
/-! DEFINITION. Sampling, the trace's registers, and the debug commands (17, R387–R392). -/

namespace Sys2Proof.Machine

/-! ## Sampling (R387) -/

/-- `PROF_CTL`. -/
def execProfCtlWrite (func value : Nat) (s : State) : Host.Outcome State Fault Refusal :=
  let f := s.func func
  .next (if !s.answers func then s
    else s.setFunc func { f with profSize := clamp 6 15 (bitsOf value 15 12), profFull := f.profFull && !bitOf value 1, profEnable := bitOf value 0,
                                 profProd := if bitOf value 0 then 0 else f.profProd })

/-- The next instruction of the group reads two vector names of one bank (05, R103). -/
def bankConflict (s : State) (k : Nat) (g : Group) : Bool :=
  match s.pickSlot g with
  | none => false
  | some b =>
    match s.fetchWord g b with
    | .ok w =>
      let names := namesRead { s := s, k := k, g := g, b := b, opc := (w.extractLsb' 0 10).toNat, f := fieldsOf w, act := 0 }
      names.any fun n => names.any fun m => n != m && n % 4 == m % 4
    | .error _ => false

/-- A live slot stands at an unsatisfied lookahead wait on a memory access, or on something else (06, Table 6.4). -/
def lookaheadOn (g : Group) (memory : Bool) : Bool :=
  [false, true].any fun b => g.live b && g.windows.any fun w =>
    !w.done && !w.frozen && (if b then w.remB else w.remA) == some 0 && [0x1C0, 0x1C2, 0x1C4, 0x241, 0x242, 0x259].contains w.opc == memory

/-- The conditions of Table 6.4 that hold of a group in the present cycle (06, R133): each with its code. What a slot found when it was
tried stands until it is tried again (log 77). -/
def stallConditions (s : State) (k : Nat) (g : Group) : List (Nat × Bool) :=
  let w (p : Wait → Bool) : Bool := p g.wait
  let x := s.sched g.core g.sched
  let liveAny (p : Bool → Bool) : Bool := [false, true].any fun b => g.live b && p b
  let shows (n : Nat) : Bool := (g.wait == .again && g.stall == n) || liveAny fun b => (if b then g.triedB else g.triedA) == some ((g.slot b).pc, n)
  let free := (s.pickSlot g).isSome && g.wait == .none
  [(0x00, g.issuedAt == some s.now), (0x01, groupHalted s g), (0x02, w fun | .fault _ => true | _ => false), (0x03, g.spilled.isSome), (0x04, g.wait == .alloc),
   (0x05, g.wait == .resample || g.wait == .dormant || g.dormFmt.isSome || shows 0x05), (0x06, g.wait == .gbar || shows 0x06),
   (0x07, (w fun | .barrier _ _ => true | .barrierNext _ => true | _ => false) || shows 0x07), (0x08, (w fun | .lock _ => true | _ => false) || shows 0x08),
   (0x09, (w fun | .waita _ => true | .nfence _ => true | _ => false) || shows 0x09), (0x0A, shows 0x0A), (0x0B, g.wait == .mma || shows 0x0B),
   (0x0C, lookaheadOn g true), (0x0D, lookaheadOn g false), (0x0E, liveAny (s.windowsFull g)), (0x0F, shows 0x0F), (0x10, shows 0x10),
   (0x11, shows 0x11 || g.spill == .wanted), (0x12, (s.pickSlot g).isNone && (g.slotA.atJoin || g.slotB.atJoin)),
   (0x13, shows 0x13 || (free && Config.interlocked s.now k)), (0x14, free && bankConflict s k g && Config.bankBusy s.now k),
   (0x15, liveAny (s.fetchWaits g)), (0x16, g.slotA.yieldAt.isSome || g.slotB.yieldAt.isSome), (0x17, x.active.any (·.group == k)), (0x18, true)]

/-- The group's stall reason: the lowest code whose condition holds. -/
def stallReason (s : State) (k : Nat) (g : Group) : Nat := (((stallConditions s k g).find? (·.2)).map Prod.fst).getD 0x18

/-- The PC of a sample: of the slot that would issue next, else of slot A, or of slot B where A is empty. -/
def samplePc (s : State) (g : Group) : Nat :=
  match s.pickSlot g with
  | some b => (g.slot b).pc.toNat
  | none => (if g.slotA.vacant then g.slotB.pc else g.slotA.pc).toNat

/-- The occupied group slots of a scheduler, with their groups. -/
def occupied (s : State) (core sched : Nat) : List (Nat × Nat × Group) :=
  ((List.range 24).filterMap fun u => (groupAt s core (sched * 24 + u)).map fun g => (u, g))

/-- The next occupied slot in rotation after slot `last`. -/
def nextOccupied (s : State) (core sched last : Nat) : Option (Nat × Nat × Group) :=
  let xs := occupied s core sched
  (xs.find? fun x => last < x.1).orElse fun _ => xs.head?

/-- The bits of a sample record (Table 17.3). -/
def sampleBits (s : State) (k : Nat) (g : Group) (gslot phase : Nat) : Nat :=
  let l := s.launch (s.launchOf g)
  phase + b2n g.issued * 2 ^ 27 + stallReason s k g * 2 ^ 28 + gslot * 2 ^ 33 + g.core * 2 ^ 39 + l.asid * 2 ^ 50 +
    samplePc s g * 2 ^ 64 + l.record.tag * 2 ^ 96

/-- `SAMPLE_TICK` of a scheduler: N = 2^(LOG + 5) cycles after the one before. -/
def execSampleTick (core sched : Nat) (s : State) : Host.Outcome State Fault Refusal :=
  let log := match s.partOf core with | some n => (s.part n).period | none => 0
  .next (if log = 0 || s.now < (s.sched core sched).sampleAt then s
    else
      match nextOccupied s core sched (s.sched core sched).sampled with
      | none => s
      | some (u, k, g) =>
        let fn := s.vmidFunc (s.launch (s.launchOf g)).vmid
        let f := s.func fn
        let gslot := sched * 24 + u
        let x := s.sched core sched
        let done (s : State) : State := (s.setSched core sched { x with sampled := u, sampleAt := s.now + 2 ^ (log + 5) }).setGroup k { g with issued := false }
        if !f.profEnable then done s
        else if 2 ^ f.profSize ≤ ringUsed f.profProd f.profCons then
          done (s.setFunc fn { f with profFull := true, profDrop := min (2 ^ 64 - 1) (f.profDrop + 1) })
        else
          let at_ := f.profBase + 16 * (f.profProd % 2 ^ f.profSize)
          if s.ringWaits fn (fun i => at_ + i) 16 then s.logFullSet fn
          else match s.ringWrite fn (fun i => at_ + i) (toBytes 16 (sampleBits s k g gslot (phaseOf f.profProd f.profSize))) with
          | none => done s
          | some s => done (s.setFunc fn { s.func fn with profProd := (f.profProd + 1) % 2 ^ 32 }))

/-! ## The trace's registers (R388, R389) -/

/-- The group that a function traces. -/
def tracedGroup (s : State) (func : Nat) : Option Group := (List.find? (fun (g : Nat × Group) => s.tracer g.2 == some func) s.groups).map Prod.snd

/-- Where records have been lost: the gap record and a sync record are written, if space has returned for both (R389). -/
def State.traceReturn (s : State) (func : Nat) : State :=
  let f := s.func func
  if f.trcLost = 0 || !f.trcEnable then s
  else
    let gap := traceRecord 5 0 5 (min f.trcLost (2 ^ 35 - 1))
    let bs := match tracedGroup s func with
      | some g => (if f.trcSync then syncRecord s g else []) ++ gap ++ syncRecord s g
      | none => gap
    match s.traceBytes func bs with
    | none => s
    | some s => s.setFunc func { s.func func with trcLost := 0, trcSync := (tracedGroup s func).isNone, trcSince := (f.trcSince + 1) % 256 }

/-- `TRC_CTL`: a larger ring, or the trace on again, may give space back. -/
def execTrcCtlWrite (func value : Nat) (s : State) : Host.Outcome State Fault Refusal :=
  let f := s.func func
  let on := bitOf value 0
  .next (if !s.answers func then s
    else
      (s.setFunc func { f with trcSize := clamp 2 12 (bitsOf value 15 12), trcGap := f.trcGap && !bitOf value 1, trcEnable := on,
                               trcSync := f.trcSync || (on && !f.trcEnable),
                               trcSince := if on && !f.trcEnable then 0 else f.trcSince }).traceReturn func)

/-- `TRC_CONS`: space returns. -/
def execTrcConsWrite (func value : Nat) (s : State) : Host.Outcome State Fault Refusal :=
  .next (if s.answers func then (s.setFunc func { s.func func with trcCons := bitsOf value 31 0 }).traceReturn func else s)

/-! ## Debug commands (R390–R392) -/

/-- The group that DBG_CMD names, if it is of the function's VMID. -/
def dbgTarget (s : State) (func core gslot : Nat) : Option (Nat × Group) :=
  match groupAt s core gslot with
  | none => none
  | some (k, g) => if s.funcVmid func == some (s.launch (s.launchOf g)).vmid then some (k, g) else none

/-- DBG_CMD's fields as written. -/
def dbgFields (f : Func) (value : Nat) : Func :=
  { f with dbgErr := f.dbgErr && !bitOf value 62, dbgCmd := bitsOf value 59 56, dbgCore := bitsOf value 42 32, dbgGslot := bitsOf value 29 24,
           dbgSlot := bitOf value 23, dbgLane := bitsOf value 22 16 }

/-- A commit or relaunch of the group's launch runs: a halt waits for its end (13, R308). -/
def commitRuns (s : State) (g : Group) : Bool := (s.launch (s.launchOf g)).commit.isSome

/-- A write of GO with command `cmd`: refused, or it acts on its target. -/
def dbgCommand (s : State) (func value cmd : Nat) (act : State → Nat → Group → Option State) : State :=
  let f := s.func func
  if !s.answers func || f.dbgGo || !bitOf value 63 || bitsOf value 59 56 != cmd then s
  else
    let s := s.setFunc func (dbgFields f value)
    let refuse : State := s.setFunc func { s.func func with dbgErr := true }
    match dbgTarget s func (bitsOf value 42 32) (bitsOf value 29 24) with
    | none => refuse
    | some (k, g) => (act s k g).getD refuse

/-- The group stops between two instructions; its pre-phase is abandoned (09, R212). -/
def haltGroup (s : State) (func k : Nat) : State :=
  let g := s.group k
  if g.halted then s
  else
    let s := s.setGroup k { g with halted := true, stepOnce := false, stall := 0x01 }
    let s := s.setFunc func { s.func func with dbgReleased := false }
    abandonPhases (s.traceStop (s.group k) 0) (· == k)

/-- `DBG_HALT`: the group stops at once, or where a commit runs, at its end (13, R308); the command ends when the multiply phases of the
core have ended (09, R212). Until then GO reads 1 and the event comes about again. -/
def execDbgHalt (func value : Nat) (s : State) : Host.Outcome State Fault Refusal :=
  let f := s.func func
  .next (if f.dbgGo then
      if f.dbgCmd != 1 then s
      else
        let finish (s : State) : State := s.setFunc func { s.func func with dbgGo := false }
        match dbgTarget s func f.dbgCore f.dbgGslot with
        | none => finish s
        | some (k, g) => if commitRuns s g then s else let t := haltGroup s func k; if multiplies t g.core then t else finish t
    else
      dbgCommand s func value 1 fun s k g =>
        let t := if commitRuns s g then s else haltGroup s func k
        some (t.setFunc func { t.func func with dbgGo := commitRuns s g || multiplies t g.core }))

/-- `DBG_RESUME`. -/
def execDbgResume (func value : Nat) (s : State) : Host.Outcome State Fault Refusal :=
  .next (dbgCommand s func value 2 fun s k g => some (s.setGroup k { g with halted := false, resumed := true, stepOnce := false }))

/-- `DBG_STEP`: the group halts again after one instruction. -/
def execDbgStep (func value : Nat) (s : State) : Host.Outcome State Fault Refusal :=
  .next (dbgCommand s func value 3 fun s k g => some (if groupHalted s g then s.setGroup k { g with halted := false, resumed := true, stepOnce := true } else s))

/-- What lane focus asks for (R392). -/
def focusAllowed (s : State) (g : Group) (b : Bool) (lane j : Nat) : Bool :=
  groupHalted s g && decide (lane < g.width) && (g.slot b).active.getLsbD lane && g.latch.all (fun e => e.age == 0) && g.q0.isNone && g.q1.isNone &&
  j % 12 == 0 && decide (j < 2 ^ 32) && decide (g.depth + 2 ≤ 4 + (s.launch (s.launchOf g)).record.stackN)

/-- The divergence that runs lane `lane` of slot `b` alone up to `j` (R392; 06, R123); none where the spill region that it needs does not
translate. -/
def focusLane (s : State) (k : Nat) (g : Group) (b : Bool) (lane j : Nat) : Option State :=
  let p := g.slot b
  let tag := if b then Tag.slotB else Tag.slotA
  let one : LaneMask := BitVec.ofNat 96 (2 ^ lane)
  let join : StackEntry := { kind := .join, tag := if (g.slot (!b)).vacant then .group else tag, fmt := p.fmt, rpc := p.rpc, pc := BitVec.ofNat 32 j, mask := p.owned }
  let rest : StackEntry := { kind := .pending, tag := tag, fmt := p.fmt, rpc := BitVec.ofNat 32 j, pc := p.pc, mask := p.owned &&& ~~~one }
  let asid := (s.launch (s.launchOf g)).asid
  let region := (List.range (g.stack.length + 2 - 4)).all fun i =>
    match s.translatePlain g.core asid (s.spillAddr g (g.deep + i)) .write with | .ok _ => true | .error _ => false
  match if region then pushAll s { g with spill := .granted } [join, rest] else .needs with
  | .ok s g' =>
    let h := ({ g' with spill := .none } : Group).setSlot b { p with rpc := BitVec.ofNat 32 j, active := one, owned := one }
    some ((s.setGroup k h).traceMasks g h)
  | _ => none

/-- `DBG_LANE_FOCUS`. -/
def execDbgLaneFocus (func value : Nat) (s : State) : Host.Outcome State Fault Refusal :=
  .next (dbgCommand s func value 4 fun s k g =>
    let j := (s.func func).dbgArg
    let b := bitOf value 23
    let lane := bitsOf value 22 16
    if focusAllowed s g b lane j then focusLane s k g b lane j else none)

/-- The record that a read-record command would write waits for the log of its page (10, R237). -/
def recordWaits (s : State) (func value : Nat) : Bool :=
  let f := s.func func
  s.answers func && !f.dbgGo && bitOf value 63 && bitsOf value 59 56 == 5 &&
    match dbgTarget s func (bitsOf value 42 32) (bitsOf value 29 24) with
    | some (_, g) => groupHalted s g && g.stable && s.ringWaits func (fun i => f.dbgArg + i) (groupRecordBytes g).length
    | none => false

/-- `DBG_READ_RECORD`: the group's record goes to DBG_ARG in the function's stage-2 space; a record that does not translate for
write is refused (log 33), and one whose page's log holds the write waits, command and all (log 41). -/
def execDbgReadRecord (func value : Nat) (s : State) : Host.Outcome State Fault Refusal :=
  .next (if recordWaits s func value then s.logFullSet func
    else dbgCommand s func value 5 fun s _ g =>
    if groupHalted s g && g.stable then (s.wakeBanks g.core g.inBank).ringWrite func (fun i => (s.func func).dbgArg + i) (groupRecordBytes g) else none)

/-- `DBG_CMD_REFUSED`: GO written while it reads 1, an unknown command, or a target that is missing or another VMID's. -/
def execDbgCmdRefused (func value : Nat) (s : State) : Host.Outcome State Fault Refusal :=
  let f := s.func func
  let cmd := bitsOf value 59 56
  .next (if !bitOf value 63 || !s.answers func then s
    else if f.dbgGo then s.setFunc func { f with dbgErr := true }
    else if cmd = 0 || 5 < cmd || (dbgTarget s func (bitsOf value 42 32) (bitsOf value 29 24)).isNone then
      s.setFunc func { dbgFields f value with dbgErr := true }
    else s)

end Sys2Proof.Machine
end

