-- ==== Sys2Proof/Machine/Readback.lean ====
section
/-! DEFINITION. What the host reads: a function's registers, the notify slots, and the management window with its core windows (00, R4–R6;
01, R26; 03, R47, R48, R52, R60; 17, R393, R394). -/

namespace Sys2Proof.Machine

/-! ## Words of the tables -/

/-- The 256 bits of a queue descriptor (03, Table 3.3). -/
def Queue.bits (q : Queue) : Nat :=
  b2n q.enable + b2n q.devsub * 2 + q.prio * 2 ^ 2 + q.error * 2 ^ 32 + q.size * 2 ^ 48 + q.part * 2 ^ 52 + q.vmid * 2 ^ 56 + q.asid * 2 ^ 68 +
    q.ring * 2 ^ 96 + q.cons * 2 ^ 160 + q.taken * 2 ^ 192

/-- The 128 bits of an address space entry (03, Table 3.4). -/
def AsEntry.bits (e : AsEntry) : Nat := b2n e.valid + e.vmid * 2 ^ 16 + e.root * 2 ^ 64

/-- The 128 bits of a VMID entry (03, Table 3.5). -/
def VmEntry.bits (e : VmEntry) : Nat := b2n e.valid + e.part * 2 ^ 16 + e.func * 2 ^ 32 + e.root * 2 ^ 64

/-- The 256 bits of an address range entry (10, Table 10.2). -/
def RangeEntry.bits (r : RangeEntry) : Nat :=
  b2n r.enable + b2n r.exhausted * 2 ^ 2 + b2n r.rekey * 2 ^ 3 + r.err * 2 ^ 4 + r.gran * 2 ^ 89 + r.stackBase * 2 ^ 93 + r.stackLog * 2 ^ 96 +
    r.chBase * 2 ^ 98 + r.chLog * 2 ^ 103 + r.sliceBase * 2 ^ 106 + r.sliceLog * 2 ^ 113 + r.part * 2 ^ 116 + b2n r.conf * 2 ^ 123 +
    r.keySlot * 2 ^ 124 + r.dramOff * 2 ^ 157 + r.base * 2 ^ 168 + r.limit * 2 ^ 208

/-- The 256 bits of a VDN entry (14, Table 14.2). -/
def VdnEntry.bits (e : VdnEntry) : Nat :=
  b2n e.valid + e.vmid * 2 ^ 48 + e.gen * 2 ^ 56 + e.ports * 2 ^ 64 + e.pid * 2 ^ 84 + e.jobid * 2 ^ 104 + e.fep * 2 ^ 128

/-- The 512 bits of a network context entry (14, Table 14.3). -/
def NetCtx.bits (x : NetCtx) : Nat :=
  b2n x.valid + x.state * 2 ^ 2 + x.asid * 2 ^ 114 + x.selfVdn * 2 ^ 148 + x.jobid * 2 ^ 160 + x.rxSize * 2 ^ 184 + x.rxSlot * 2 ^ 188 +
    x.rxBase * 2 ^ 192 + x.rxProd * 2 ^ 256 + x.fwdPid * 2 ^ 342 + x.fwdFep * 2 ^ 384

/-- Eight bytes of an entry of `size` bytes in a table that begins at `base`. -/
def entryWord (bits : Nat → Nat) (base size offset : Nat) : Nat :=
  bits ((offset - base) / size) / 2 ^ (64 * ((offset - base) % size / 8)) % 2 ^ 64

/-! ## Registers -/

/-- DBG_STAT: RELEASED, and HALTED and STABLE of the group that DBG_CMD names (17, R390). -/
def debugStatus (s : State) (func : Nat) : Nat :=
  let f := s.func func
  b2n f.dbgReleased * 2 ^ 2 +
    match dbgTarget s func f.dbgCore f.dbgGslot with
    | some (_, g) => b2n (groupHalted s g) * 2 + b2n (groupHalted s g && g.stable)
    | none => 0

/-- A register of a function block (03, Table 3.2, R67, R68, R73; 10, Table 10.6; 15, R344, R345; 17, R387, R388, R390). -/
def funcRead (s : State) (func offset : Nat) : Nat :=
  let f := s.func func
  match offset with
  | 0x60000 => f.tlbiAddr
  | 0x60008 => b2n f.tlbiGo + b2n f.tlbiErr * 2 + f.tlbiKind * 2 ^ 2 + f.tlbiCount * 2 ^ 12 + f.tlbiVmid * 2 ^ 28 + f.tlbiAsid * 2 ^ 36
  | 0x60040 => f.fqBase
  | 0x60048 => b2n f.fqEnable + b2n f.fqFull * 2 + b2n f.fqAckErr * 2 ^ 2 + f.fqSize * 2 ^ 12
  | 0x60050 => f.fqProd
  | 0x60058 => f.fqCons
  | 0x60080 => f.aperture
  | 0x600C0 => f.logBase
  | 0x600C8 => b2n f.logEnable + b2n f.logFull * 2 + f.logSize * 2 ^ 12
  | 0x600D0 => f.logProd
  | 0x600D8 => f.logCons
  | 0x60100 => f.evIndex + f.evQueue * 2 ^ 32 + b2n f.evPark * 2 ^ 61 + b2n f.evErr * 2 ^ 62 + b2n f.evGo * 2 ^ 63
  | 0x60120 => f.ctxPool
  | 0x60128 => f.ctxPoolSz
  | 0x60140 => f.profBase
  | 0x60148 => b2n f.profEnable + b2n f.profFull * 2 + f.profSize * 2 ^ 12
  | 0x60150 => f.profProd
  | 0x60158 => f.profCons
  | 0x60160 => f.profDrop
  | 0x60180 => f.trcBase
  | 0x60188 => b2n f.trcEnable + b2n f.trcGap * 2 + f.trcSize * 2 ^ 12
  | 0x60190 => f.trcProd
  | 0x60198 => f.trcCons
  | 0x601A0 => f.trcSel0
  | 0x601A8 => f.trcSel1
  | 0x601C0 => b2n f.dbgEn
  | 0x601C8 => f.dbgLane * 2 ^ 16 + b2n f.dbgSlot * 2 ^ 23 + f.dbgGslot * 2 ^ 24 + f.dbgCore * 2 ^ 32 + f.dbgCmd * 2 ^ 56 + b2n f.dbgErr * 2 ^ 62 +
      b2n f.dbgGo * 2 ^ 63
  | 0x601D0 => f.dbgArg
  | 0x601D8 => debugStatus s func
  | _ => 0

/-- A word of an address space entry: the PF reads all of it, a VF S1_ROOT and VALID of its own VMID's entries (03, R60). -/
def spaceRead (s : State) (func n word : Nat) : Nat :=
  let e := s.space n
  if func = 0 then e.bits / 2 ^ (64 * word) % 2 ^ 64
  else if s.funcVmid func != some e.vmid then 0
  else if word = 0 then b2n e.valid else e.root

/-- A register of a Marl block (16, Tables 16.1 and 16.2). -/
def marlRead (x : Stack) (offset : Nat) : Nat :=
  match offset with
  | 0x00 => x.mctx * 2 ^ 16 + x.dstVdn * 2 ^ 36 + x.mode * 2 ^ 60 + b2n x.err * 2 ^ 62 + b2n x.go * 2 ^ 63
  | 0x08 => x.src * 2 ^ 16
  | 0x10 => x.lim * 2 ^ 16
  | 0x18 => x.dst
  | 0x20 => x.sent
  | 0x28 => x.left
  | _ => 0

/-- PART_CTL (01, Table 1.6), PCLK_CTL (01, Table 1.4) and PRST_CTL (16, Table 16.5) of a partition. -/
def Part.ctl (p : Part) : Nat := p.clusters + b2n (p.clusters != 0) * 2 ^ 32 + b2n p.err * 2 ^ 33
def Part.pclk (p : Part) : Nat := p.asked + b2n p.pending * 2 ^ 3 + p.budget * 2 ^ 8
def Part.prst (p : Part) : Nat := p.rstCount + p.rstCause * 2 ^ 48 + b2n p.rstAuto * 2 ^ 62 + b2n p.rstGo * 2 ^ 63

/-- VFCTL (16, Table 16.3). -/
def Func.vfctl (f : Func) : Nat := f.vfQcyc + f.vfState * 2 ^ 44 + f.vfCmd * 2 ^ 56 + b2n f.vfErr * 2 ^ 62 + b2n f.vfGo * 2 ^ 63

/-- A register of the package that stands alone (01, Table 1.5; 14, Table 14.1; 16, R374, R378; 17, R383, Table 17.6). -/
def pkgRead (p : PkgRegs) (offset : Nat) : Nat :=
  match offset with
  | 0x40080 => b2n p.tripEn + b2n p.tripped * 2 + p.tripC * 2 ^ 8 + p.temp * 2 ^ 16
  | 0x130000 => p.retryMax + p.rtoUs * 2 ^ 16 + p.movedMax * 2 ^ 32
  | 0x150000 => p.errBase
  | 0x150008 => b2n p.errEnable + b2n p.errLost * 2 + b2n p.errCe * 2 ^ 2 + p.errSize * 2 ^ 12
  | 0x150010 => p.errProd
  | 0x150018 => p.errCons
  | 0x150020 => p.ceCount
  | 0x150030 => p.scrubDays
  | 0x180000 => p.rptBase
  | 0x180008 => b2n p.rptEnable + b2n p.rptFull * 2 + p.rptSize * 2 ^ 12
  | 0x180010 => p.rptProd
  | 0x180018 => p.rptCons
  | 0x180020 => p.rptCmd + b2n p.rptErr * 2 ^ 62 + b2n p.rptGo * 2 ^ 63
  | 0x180028 => p.jobPid + b2n p.jobErr * 2 ^ 62 + b2n p.jobGo * 2 ^ 63
  | 0x180030 => p.notifyDrop
  | 0x180038 => Config.devSeqAtPowerOn + p.signed
  | 0x190000 => b2n p.notHalted
  | _ => 0

/-- A register of the management window outside the function block, the address space table and the core windows (17, Table 17.6). -/
def windowRead (s : State) (offset : Nat) : Nat :=
  if 0x20000 ≤ offset && offset < 0x20200 then entryWord (fun n => (s.range n).bits) 0x20000 32 offset
  else if 0x30000 ≤ offset && offset < 0x30080 then (s.part ((offset - 0x30000) / 8)).ctl
  else if 0x40000 ≤ offset && offset < 0x40080 then (s.part ((offset - 0x40000) / 8)).pclk
  else if 0xC0000 ≤ offset && offset < 0xC1000 then entryWord (fun n => (s.vm n).bits) 0xC0000 16 offset
  else if 0x100000 ≤ offset && offset < 0x120000 then entryWord (fun n => (s.vdn n).bits) 0x100000 32 offset
  else if 0x120000 ≤ offset && offset < 0x130000 then entryWord (fun n => (s.net n).bits) 0x120000 64 offset
  else if 0x140000 ≤ offset && offset < 0x140800 then marlRead (s.die ((offset - 0x140000) / 0x100)) (offset % 0x100)
  else if 0x160000 ≤ offset && offset < 0x160080 then (s.part ((offset - 0x160000) / 8)).prst
  else if 0x170008 ≤ offset && offset < 0x170800 then (s.func ((offset - 0x170000) / 8)).vfctl
  else if 0x180100 ≤ offset && offset < 0x180180 then (s.part ((offset - 0x180100) / 8)).period
  else if 0x1000000 ≤ offset && offset < 0x1400000 then entryWord (fun n => (s.queue n).bits) 0x1000000 32 offset
  else pkgRead s.pkg offset

/-! ## The read -/

/-- A read of a core window: CSTAT, CSEL, or the page that CSEL selects; state of a core that is not halted reads zero and sets
NOT_HALTED (01, R26; 17, R394). A read of a register wakes its bank (16, R377). -/
def coreRead (s : State) (offset : Nat) : State × Nat :=
  let core := (offset - 0x2000000) / 0x4000
  let reg := offset % 0x4000
  let k := s.core core
  if reg = 0 then (s, b2n (coreHalted s core) + b2n k.halt * 2)
  else if reg = 8 then (s, k.csel)
  else if reg < 0x2000 then (s, 0)
  else
    match pageRead s core k.csel (reg - 0x2000) with
    | some x => (if 0x1000 ≤ k.csel && k.csel < 0x1000 + 16 * 48 then s.wakeBanks core (· == (reg - 0x2000) / 512 % 4) else s, x)
    | none => ({ s with pkg := { s.pkg with notHalted := true } }, 0)

/-- What an aligned 8-byte read through BAR0 returns: the PF has the management window, a VF its function block and its view of the address
space table (03, R47). Other offsets read 0 (17, R393). -/
def bar0Read (s : State) (func offset : Nat) : State × Nat :=
  if 0x60000 ≤ offset && offset < 0x70000 then (s, funcRead s func offset)
  else if 0x80000 ≤ offset && offset < 0xC0000 then (s, spaceRead s func ((offset - 0x80000) / 16) (offset % 16 / 8))
  else if func != 0 then (s, 0)
  else if 0x2000000 ≤ offset && offset < 0x3800000 then coreRead s offset
  else (s, windowRead s offset)

/-- `MGMT_CORE_READ`: a host read through BAR0 or BAR2. One that is not aligned and of 8 bytes returns
zero (03, R48); a slot read through BAR2 returns the last PROD accepted (R52), and only to a function that reaches the queue (R46). In
recovery mode the management window alone answers (01, R24). -/
def execMgmtCoreRead (r : HostRead) (s : State) : Host.Outcome State Fault Refusal :=
  let answer (s : State) (x : Nat) : State := { s with out := s.out ++ [.hostRead (toBytes r.len x)] }
  .next (
    if !s.answers r.func || (r.bar2 && !s.root.running) then s
    else if r.len != 8 || r.offset % 8 != 0 then answer s 0
    else if r.bar2 then
      let q := s.queue (r.offset / 8)
      answer s (if s.funcVmid r.func == some q.vmid then q.prod else 0)
    else
      let (t, x) := bar0Read s r.func r.offset
      answer t x)

end Sys2Proof.Machine
end

