-- ==== Sys2Proof/Machine/Dispatch.lean ====
section
/-! DEFINITION. The meaning of each step, one arm per constructor of `Instr`. -/

namespace Sys2Proof.Machine

def exec (i : Instr) (s : State) : Host.Outcome State Fault Refusal :=
  match i with
  | .spdmRequest req => Sys2Proof.Machine.execSpdmRequest req s
  | .mgmtCoreRead r => Sys2Proof.Machine.execMgmtCoreRead r s
  | .registerWrite func offset value => Sys2Proof.Machine.execRegisterWrite func offset value s
  | .partCtlWrite n value => Sys2Proof.Machine.execPartCtlWrite n value s
  | .pclkCtlWrite n value => Sys2Proof.Machine.execPclkCtlWrite n value s
  | .thermalSample temp => Sys2Proof.Machine.execThermalSample temp s
  | .thermCtlWrite value => Sys2Proof.Machine.execThermCtlWrite value s
  | .notifyWrite func offset width value => Sys2Proof.Machine.execNotifyWrite func offset width value s
  | .takeRecord queue => Sys2Proof.Machine.execTakeRecord queue s
  | .dependenceWait queue => Sys2Proof.Machine.execDependenceWait queue s
  | .apertureAccess func offset len data => Sys2Proof.Machine.execApertureAccess func offset len data s
  | .queueEnable queue value => Sys2Proof.Machine.execQueueEnable queue value s
  | .queueDisable queue => Sys2Proof.Machine.execQueueDisable queue s
  | .tlbiCmdVmid func value => Sys2Proof.Machine.execTlbiCmdVmid func value s
  | .tlbiCmdAsid func value => Sys2Proof.Machine.execTlbiCmdAsid func value s
  | .tlbiCmdAsidVa func value => Sys2Proof.Machine.execTlbiCmdAsidVa func value s
  | .tlbiCmdS2Range func value => Sys2Proof.Machine.execTlbiCmdS2Range func value s
  | .tlbiCmdAll func value => Sys2Proof.Machine.execTlbiCmdAll func value s
  | .tlbiCmdRefused func value => Sys2Proof.Machine.execTlbiCmdRefused func value s
  | .tlbiComplete func => Sys2Proof.Machine.execTlbiComplete func s
  | .walkComplete core asid page => Sys2Proof.Machine.execWalkComplete core asid page s
  | .fqBaseWrite func value => Sys2Proof.Machine.execFqBaseWrite func value s
  | .fqCtlWrite func value => Sys2Proof.Machine.execFqCtlWrite func value s
  | .fqConsWrite func value => Sys2Proof.Machine.execFqConsWrite func value s
  | .faultRecordWrite func => Sys2Proof.Machine.execFaultRecordWrite func s
  | .fqAckRetry func seq => Sys2Proof.Machine.execFqAckRetry func seq s
  | .fqAckTrap func seq => Sys2Proof.Machine.execFqAckTrap func seq s
  | .fqAckEnd func seq => Sys2Proof.Machine.execFqAckEnd func seq s
  | .fqAckInvalid func value => Sys2Proof.Machine.execFqAckInvalid func value s
  | .activeSetRotate core sched => Sys2Proof.Machine.execActiveSetRotate core sched s
  | .instructionFetch group slotB => Sys2Proof.Machine.execInstructionFetch group slotB s
  | .longLatencyComplete group window => Sys2Proof.Machine.execLongLatencyComplete group window s
  | .stackSpillAccess group => Sys2Proof.Machine.execStackSpillAccess group s
  | .yieldRelease group slotB => Sys2Proof.Machine.execYieldRelease group slotB s
  | .trapEntry group => Sys2Proof.Machine.execTrapEntry group s
  | .asyncTrapDeliver group => Sys2Proof.Machine.execAsyncTrapDeliver group s
  | .groupEnd group => Sys2Proof.Machine.execGroupEnd group s
  | .teamExit team => Sys2Proof.Machine.execTeamExit team s
  | .mmaMultiplyStart group => Sys2Proof.Machine.execMmaMultiplyStart group s
  | .accTileRelease core tile => Sys2Proof.Machine.execAccTileRelease core tile s
  | .rangeEnable n value => Sys2Proof.Machine.execRangeEnable n value s
  | .rangeDisable n => Sys2Proof.Machine.execRangeDisable n s
  | .rangeRekey n => Sys2Proof.Machine.execRangeRekey n s
  | .rekeyComplete n => Sys2Proof.Machine.execRekeyComplete n s
  | .baseDieReply stack tag => Sys2Proof.Machine.execBaseDieReply stack tag s
  | .homeWriteArrive core line => Sys2Proof.Machine.execHomeWriteArrive core line s
  | .narrowHolderPublish core line => Sys2Proof.Machine.execNarrowHolderPublish core line s
  | .siltMerge core line => Sys2Proof.Machine.execSiltMerge core line s
  | .invalidationReceive core line => Sys2Proof.Machine.execInvalidationReceive core line s
  | .lineFill core line => Sys2Proof.Machine.execLineFill core line s
  | .windowFill team word => Sys2Proof.Machine.execWindowFill team word s
  | .logCtlWrite func value => Sys2Proof.Machine.execLogCtlWrite func value s
  | .logRecordAppend func => Sys2Proof.Machine.execLogRecordAppend func s
  | .waitaWake group => Sys2Proof.Machine.execWaitaWake group s
  | .waitaTimeout group => Sys2Proof.Machine.execWaitaTimeout group s
  | .vdnCommit n value => Sys2Proof.Machine.execVdnCommit n value s
  | .netctxArm n => Sys2Proof.Machine.execNetctxArm n s
  | .netctxInvalidate n => Sys2Proof.Machine.execNetctxInvalidate n s
  | .forwardTimerExpire n => Sys2Proof.Machine.execForwardTimerExpire n s
  | .wrStart pid queue => Sys2Proof.Machine.execWrStart pid queue s
  | .packetReceive packet => Sys2Proof.Machine.execPacketReceive packet s
  | .packetAckReceive ack => Sys2Proof.Machine.execPacketAckReceive ack s
  | .responseReceive resp => Sys2Proof.Machine.execResponseReceive resp s
  | .notReadyReceive pid queue msg pkt => Sys2Proof.Machine.execNotReadyReceive pid queue msg pkt s
  | .retransmitTimeout pid queue msg pkt => Sys2Proof.Machine.execRetransmitTimeout pid queue msg pkt s
  | .movedReceive pid queue msg pkt => Sys2Proof.Machine.execMovedReceive pid queue msg pkt s
  | .movedRecheck pid queue msg pkt => Sys2Proof.Machine.execMovedRecheck pid queue msg pkt s
  | .evictCmd func value => Sys2Proof.Machine.execEvictCmd func value s
  | .teamEvict team => Sys2Proof.Machine.execTeamEvict team s
  | .teamRestore team => Sys2Proof.Machine.execTeamRestore team s
  | .marlCopyRound stack value => Sys2Proof.Machine.execMarlCopyRound stack value s
  | .marlClearRound stack value => Sys2Proof.Machine.execMarlClearRound stack value s
  | .marlDrainRound stack value => Sys2Proof.Machine.execMarlDrainRound stack value s
  | .vfQuiesce w => Sys2Proof.Machine.execVfQuiesce w s
  | .quiesceComplete func => Sys2Proof.Machine.execQuiesceComplete func s
  | .vfSave w => Sys2Proof.Machine.execVfSave w s
  | .saveComplete func => Sys2Proof.Machine.execSaveComplete func s
  | .vfResume w => Sys2Proof.Machine.execVfResume w s
  | .vfRestore w => Sys2Proof.Machine.execVfRestore w s
  | .vfctlRefused func value => Sys2Proof.Machine.execVfctlRefused func value s
  | .partitionReset part cause => Sys2Proof.Machine.execPartitionReset part cause s
  | .scrubAtom stack atom => Sys2Proof.Machine.execScrubAtom stack atom s
  | .errCtlWrite value => Sys2Proof.Machine.execErrCtlWrite value s
  | .bankDrowsy core bank => Sys2Proof.Machine.execBankDrowsy core bank s
  | .rptCmdLaunch value => Sys2Proof.Machine.execRptCmdLaunch value s
  | .rptCmdNetctx value => Sys2Proof.Machine.execRptCmdNetctx value s
  | .rptCmdRefused value => Sys2Proof.Machine.execRptCmdRefused value s
  | .jobCmd value => Sys2Proof.Machine.execJobCmd value s
  | .rptCtlWrite value => Sys2Proof.Machine.execRptCtlWrite value s
  | .profCtlWrite func value => Sys2Proof.Machine.execProfCtlWrite func value s
  | .trcCtlWrite func value => Sys2Proof.Machine.execTrcCtlWrite func value s
  | .sampleTick core sched => Sys2Proof.Machine.execSampleTick core sched s
  | .dbgHalt func value => Sys2Proof.Machine.execDbgHalt func value s
  | .dbgResume func value => Sys2Proof.Machine.execDbgResume func value s
  | .dbgStep func value => Sys2Proof.Machine.execDbgStep func value s
  | .dbgLaneFocus func value => Sys2Proof.Machine.execDbgLaneFocus func value s
  | .dbgReadRecord func value => Sys2Proof.Machine.execDbgReadRecord func value s
  | .dbgCmdRefused func value => Sys2Proof.Machine.execDbgCmdRefused func value s
  | .cstatWrite core value => Sys2Proof.Machine.execCstatWrite core value s
  | .nop f => Sys2Proof.Machine.execNop f s
  | .bra f => Sys2Proof.Machine.execBra f s
  | .brc f => Sys2Proof.Machine.execBrc f s
  | .brx f => Sys2Proof.Machine.execBrx f s
  | .call f => Sys2Proof.Machine.execCall f s
  | .callx f => Sys2Proof.Machine.execCallx f s
  | .ret f => Sys2Proof.Machine.execRet f s
  | .exit f => Sys2Proof.Machine.execExit f s
  | .loop f => Sys2Proof.Machine.execLoop f s
  | .lbrk f => Sys2Proof.Machine.execLbrk f s
  | .yield f => Sys2Proof.Machine.execYield f s
  | .setfmt f => Sys2Proof.Machine.execSetfmt f s
  | .getfmt f => Sys2Proof.Machine.execGetfmt f s
  | .wrmask f => Sys2Proof.Machine.execWrmask f s
  | .iadd f => Sys2Proof.Machine.execIadd f s
  | .iaddc f => Sys2Proof.Machine.execIaddc f s
  | .isub f => Sys2Proof.Machine.execIsub f s
  | .isubb f => Sys2Proof.Machine.execIsubb f s
  | .imul f => Sys2Proof.Machine.execImul f s
  | .imulh f => Sys2Proof.Machine.execImulh f s
  | .imad f => Sys2Proof.Machine.execImad f s
  | .iabs f => Sys2Proof.Machine.execIabs f s
  | .ineg f => Sys2Proof.Machine.execIneg f s
  | .imin f => Sys2Proof.Machine.execImin f s
  | .imax f => Sys2Proof.Machine.execImax f s
  | .addsat f => Sys2Proof.Machine.execAddsat f s
  | .pmad2 f => Sys2Proof.Machine.execPmad2 f s
  | .rshr f => Sys2Proof.Machine.execRshr f s
  | .dp4 f => Sys2Proof.Machine.execDp4 f s
  | .bitAnd f => Sys2Proof.Machine.execBitAnd f s
  | .bitOr f => Sys2Proof.Machine.execBitOr f s
  | .bitXor f => Sys2Proof.Machine.execBitXor f s
  | .bitNot f => Sys2Proof.Machine.execBitNot f s
  | .shl f => Sys2Proof.Machine.execShl f s
  | .shr f => Sys2Proof.Machine.execShr f s
  | .sar f => Sys2Proof.Machine.execSar f s
  | .rot f => Sys2Proof.Machine.execRot f s
  | .bfe f => Sys2Proof.Machine.execBfe f s
  | .bfi f => Sys2Proof.Machine.execBfi f s
  | .popc f => Sys2Proof.Machine.execPopc f s
  | .clz f => Sys2Proof.Machine.execClz f s
  | .brev f => Sys2Proof.Machine.execBrev f s
  | .icmp f => Sys2Proof.Machine.execIcmp f s
  | .sel f => Sys2Proof.Machine.execSel f s
  | .mov f => Sys2Proof.Machine.execMov f s
  | .movi f => Sys2Proof.Machine.execMovi f s
  | .fadd f => Sys2Proof.Machine.execFadd f s
  | .fsub f => Sys2Proof.Machine.execFsub f s
  | .fmul f => Sys2Proof.Machine.execFmul f s
  | .ffma f => Sys2Proof.Machine.execFfma f s
  | .fmin f => Sys2Proof.Machine.execFmin f s
  | .fmax f => Sys2Proof.Machine.execFmax f s
  | .fcmp f => Sys2Proof.Machine.execFcmp f s
  | .fclass f => Sys2Proof.Machine.execFclass f s
  | .fround f => Sys2Proof.Machine.execFround f s
  | .hadd2 f => Sys2Proof.Machine.execHadd2 f s
  | .hmul2 f => Sys2Proof.Machine.execHmul2 f s
  | .hfma2 f => Sys2Proof.Machine.execHfma2 f s
  | .rcp f => Sys2Proof.Machine.execRcp f s
  | .rsqrt f => Sys2Proof.Machine.execRsqrt f s
  | .sqrt f => Sys2Proof.Machine.execSqrt f s
  | .exp2 f => Sys2Proof.Machine.execExp2 f s
  | .log2 f => Sys2Proof.Machine.execLog2 f s
  | .sin f => Sys2Proof.Machine.execSin f s
  | .cos f => Sys2Proof.Machine.execCos f s
  | .cvt f => Sys2Proof.Machine.execCvt f s
  | .i2f f => Sys2Proof.Machine.execI2f f s
  | .f2i f => Sys2Proof.Machine.execF2i f s
  | .rand f => Sys2Proof.Machine.execRand f s
  | .shfl f => Sys2Proof.Machine.execShfl f s
  | .slide f => Sys2Proof.Machine.execSlide f s
  | .vote f => Sys2Proof.Machine.execVote f s
  | .ballot f => Sys2Proof.Machine.execBallot f s
  | .redux f => Sys2Proof.Machine.execRedux f s
  | .scan f => Sys2Proof.Machine.execScan f s
  | .rdlane f => Sys2Proof.Machine.execRdlane f s
  | .wrlane f => Sys2Proof.Machine.execWrlane f s
  | .pand f => Sys2Proof.Machine.execPand f s
  | .por f => Sys2Proof.Machine.execPor f s
  | .pxor f => Sys2Proof.Machine.execPxor f s
  | .pnot f => Sys2Proof.Machine.execPnot f s
  | .mmaS f => Sys2Proof.Machine.execMmaS f s
  | .mmaV f => Sys2Proof.Machine.execMmaV f s
  | .mmaG f => Sys2Proof.Machine.execMmaG f s
  | .accz f => Sys2Proof.Machine.execAccz f s
  | .accrd f => Sys2Proof.Machine.execAccrd f s
  | .accwr f => Sys2Proof.Machine.execAccwr f s
  | .accst f => Sys2Proof.Machine.execAccst f s
  | .qnt f => Sys2Proof.Machine.execQnt f s
  | .ldcb f => Sys2Proof.Machine.execLdcb f s
  | .ld f => Sys2Proof.Machine.execLd f s
  | .st f => Sys2Proof.Machine.execSt f s
  | .lds f => Sys2Proof.Machine.execLds f s
  | .sts f => Sys2Proof.Machine.execSts f s
  | .ldTensor f => Sys2Proof.Machine.execLdTensor f s
  | .stTensor f => Sys2Proof.Machine.execStTensor f s
  | .tset f => Sys2Proof.Machine.execTset f s
  | .pref f => Sys2Proof.Machine.execPref f s
  | .wmap f => Sys2Proof.Machine.execWmap f s
  | .wunmap f => Sys2Proof.Machine.execWunmap f s
  | .wsync f => Sys2Proof.Machine.execWsync f s
  | .winv f => Sys2Proof.Machine.execWinv f s
  | .cpyG2s f => Sys2Proof.Machine.execCpyG2s f s
  | .cpyS2g f => Sys2Proof.Machine.execCpyS2g f s
  | .cpyG2k f => Sys2Proof.Machine.execCpyG2k f s
  | .cpyS2k f => Sys2Proof.Machine.execCpyS2k f s
  | .cpyS2s f => Sys2Proof.Machine.execCpyS2s f s
  | .cpyGat f => Sys2Proof.Machine.execCpyGat f s
  | .cpySct f => Sys2Proof.Machine.execCpySct f s
  | .fence f => Sys2Proof.Machine.execFence f s
  | .atom f => Sys2Proof.Machine.execAtom f s
  | .atomc f => Sys2Proof.Machine.execAtomc f s
  | .red f => Sys2Proof.Machine.execRed f s
  | .barSync f => Sys2Proof.Machine.execBarSync f s
  | .barArv f => Sys2Proof.Machine.execBarArv f s
  | .barWt f => Sys2Proof.Machine.execBarWt f s
  | .gbar f => Sys2Proof.Machine.execGbar f s
  | .waita f => Sys2Proof.Machine.execWaita f s
  | .lkacq f => Sys2Proof.Machine.execLkacq f s
  | .lktry f => Sys2Proof.Machine.execLktry f s
  | .lkrel f => Sys2Proof.Machine.execLkrel f s
  | .resample f => Sys2Proof.Machine.execResample f s
  | .reorder f => Sys2Proof.Machine.execReorder f s
  | .popq f => Sys2Proof.Machine.execPopq f s
  | .lineage f => Sys2Proof.Machine.execLineage f s
  | .nwr f => Sys2Proof.Machine.execNwr f s
  | .nfence f => Sys2Proof.Machine.execNfence f s
  | .nstat f => Sys2Proof.Machine.execNstat f s
  | .trap f => Sys2Proof.Machine.execTrap f s
  | .rte f => Sys2Proof.Machine.execRte f s
  | .bkpt f => Sys2Proof.Machine.execBkpt f s
  | .rdsr f => Sys2Proof.Machine.execRdsr f s
  | .wrsr f => Sys2Proof.Machine.execWrsr f s
  | .cwb f => Sys2Proof.Machine.execCwb f s
  | .cinv f => Sys2Proof.Machine.execCinv f s
  | .icinv f => Sys2Proof.Machine.execIcinv f s
  | .fbar f => Sys2Proof.Machine.execFbar f s
  | .launch f => Sys2Proof.Machine.execLaunch f s
  | .mtrd f => Sys2Proof.Machine.execMtrd f s
  | .tmark f => Sys2Proof.Machine.execTmark f s
  | .halt f => Sys2Proof.Machine.execHalt f s
  | .tlbi f => Sys2Proof.Machine.execTlbi f s
  | .logConsWrite func value => Sys2Proof.Machine.execLogConsWrite func value s
  | .rptConsWrite value => Sys2Proof.Machine.execRptConsWrite value s
  | .trcConsWrite func value => Sys2Proof.Machine.execTrcConsWrite func value s
  | .boot => Sys2Proof.Machine.execBoot s
  | .clockStepSwitch => Sys2Proof.Machine.execClockStepSwitch s
  | .governorWindow => Sys2Proof.Machine.execGovernorWindow s
  | .tokenGrant => Sys2Proof.Machine.execTokenGrant s
  | .headOffer => Sys2Proof.Machine.execHeadOffer s
  | .admissionDecision => Sys2Proof.Machine.execAdmissionDecision s
  | .launchFinal => Sys2Proof.Machine.execLaunchFinal s
  | .spillGroups => Sys2Proof.Machine.execSpillGroups s
  | .spillRestore => Sys2Proof.Machine.execSpillRestore s
  | .regAllocGrant => Sys2Proof.Machine.execRegAllocGrant s
  | .mmaComplete => Sys2Proof.Machine.execMmaComplete s
  | .baseDieRd => Sys2Proof.Machine.execBaseDieRd s
  | .baseDieWr => Sys2Proof.Machine.execBaseDieWr s
  | .baseDieAtom => Sys2Proof.Machine.execBaseDieAtom s
  | .baseDieDtc => Sys2Proof.Machine.execBaseDieDtc s
  | .copyCommandBegin => Sys2Proof.Machine.execCopyCommandBegin s
  | .copyChunk => Sys2Proof.Machine.execCopyChunk s
  | .copyCompletion => Sys2Proof.Machine.execCopyCompletion s
  | .resampleCommit => Sys2Proof.Machine.execResampleCommit s
  | .resampleCommitEnd => Sys2Proof.Machine.execResampleCommitEnd s
  | .reorderPassClose => Sys2Proof.Machine.execReorderPassClose s
  | .marlRoundEnd => Sys2Proof.Machine.execMarlRoundEnd s
  | .directoryRecall => Sys2Proof.Machine.execDirectoryRecall s
  | .directoryRebuild => Sys2Proof.Machine.execDirectoryRebuild s
  | .recallTimeout => Sys2Proof.Machine.execRecallTimeout s

end Sys2Proof.Machine
end

