-- ==== Sys2Proof/Machine/Step.lean ====
section
/-! DEFINITION. One step: the next turn is taken, by an instruction of a group, an event, time, the host's flash update, or an error of storage. -/

namespace Sys2Proof.Machine

/-- An issue turn: arrivals and waits, or the instruction that group `k` issues (06, R118, R124). -/
def stepIssue (s : State) (k : Nat) : Host.Outcome State Fault Refusal :=
  match s.prepare k with
  | (s', none) => .next s'
  | (s', some i) =>
    match exec i s' with
    | .next t => .next (if s.seated k (s.group k) then t.afterIssue k else s.waitTried k t)
    | r => r

/-- One turn. An event turn that names an instruction of the device's own code, or an event with operands outside
their ranges, does nothing: groups alone issue instructions, and such an event cannot come about. -/
def runTurn (s : State) : Turn → Host.Outcome State Fault Refusal
  | .issue k => stepIssue s k
  | .event i place =>
    if (Forms.wordOf i).isNone && i.wellFormed then exec i { s with focus := place } else .next s
  | .elapse n => .next (s.elapse n)
  | .flash image version => .next (s.updateFlash image version)
  | .upset error => .next (s.upset error)

/-- One step: the first turn of the agenda, or where it is empty the turn that is free (log 2). -/
def step (s : State) : Host.Outcome State Fault Refusal :=
  match s.agenda with
  | t :: rest => runTurn { s with agenda := rest } t
  | [] => runTurn { s with tick := s.tick + 1 } (Config.turn s.tick)

/-- The machine with the instruction whose bits are `w` placed where the next step fetches it. -/
def State.withFetchWord (s : State) (nbits w : Nat) : State :=
  s.placeProgram (toBytes 12 (w % 2 ^ nbits))

end Sys2Proof.Machine
end

