-- ==== Sys2Proof/Safety.lean ====
section
/-! DEFINITION. What a safe run is: memory stays in its canonical form, and the machine never stops. -/

namespace Sys2Proof.Machine

/-- The memory of the base dies is in canonical form: equal memories are equal data. -/
def State.Canonical (s : State) : Prop := Memory.wf s.mem = true

/-- A step that the machine takes. -/
def Steps (s t : State) : Prop := step s = .next t

/-- States that a run from `s` reaches. -/
inductive Reaches : State → State → Prop where
  | here (s : State) : Reaches s s
  | next {s t u : State} (h : Reaches s t) (h' : Steps t u) : Reaches s u

/-- The machine never stops: every state that a run reaches has a next one, in canonical form. -/
def State.Safe (s : State) : Prop := ∀ t, Reaches s t → t.Canonical ∧ ∃ u, Steps t u

end Sys2Proof.Machine
end

