-- ==== Sys2Proof/Spec.lean ====
section
/-! DEFINITION. The words the statements are written in: when a word issues
normally, what a computing word leaves, and the arithmetic of the spec written over the integers and the rationals. -/

namespace Sys2Proof.Spec

open Sys2Proof.Machine

/-! ## When a word issues normally -/

/-- Word `f` of opcode `opc` issues in state `s` with nothing in its way, seen by its group as `c`: a group stands to
issue, the word has no illegal field or operand (05, R109, steps 1 and 2), it may stand at the END of a loop (06, R132), it
is not a never-execute word (05, R95), no active lane consumes a poisoned word (15, R341), a long-latency word finds fewer
than four open windows of its slot (05, R111) and the vector names `names` have registers (04, R90). `own`: the fields that break a rule of
the entry's own on its operands. -/
structure Issues (opc : Nat) (f : Fields) (names : Ctx → List Nat) (s : State) (c : Ctx) (own : Ctx → Nat → Bool := noOperands) : Prop where
  ctx   : s.ctx opc f = some c
  form  : formTrap c own = none
  atEnd : endMisuse c.g opc c.pc = false
  run   : f.never = false
  clean : poisoned c = 0
  room  : Forms.longLatency opc = true → c.g.openWindows c.b < 4
  regs  : needsRegister c (names c) = false

/-- The same, in a group that is not traced (17, R388), has not ended, neither waits nor is held (04, R87; 15, R340), and of
whose open windows none is to close yet; the word is not one that was held and is reissued with what it captured (15, R338). -/
structure Calm (opc : Nat) (f : Fields) (names : Ctx → List Nat) (s : State) (c : Ctx) (own : Ctx → Nat → Bool := noOperands) : Prop
    extends Issues opc f names s c own where
  untraced : s.tracer c.g = none
  alive    : c.g.ended = false
  awake    : c.g.wait = .none
  free     : c.g.replay = none
  windows  : ∀ w ∈ c.g.windows, w.done = false
  fresh    : c.g.captured c.b = none

/-- The PC a slot goes on to: START or past END where the innermost loop ends at the word, else the next word (06, R131). -/
def nextPc (c : Ctx) : Word :=
  match loopAt c.g c.pc with
  | some (_, l) => if 1 < l.count.toNat then l.start else l.stop + 12
  | none => c.pc + 12

/-- Level `n` of the loops as the group has it. -/
def keepLoops (c : Ctx) (n : Nat) : LoopLevel := c.g.loops.getD n {}

/-- Level `n` after the loop action of the word: at END the innermost level counts down or closes (06, R131). -/
def nextLoops (c : Ctx) (n : Nat) : LoopLevel :=
  match loopAt c.g c.pc with
  | some (m, l) => if n = m then (if 1 < l.count.toNat then { l with count := l.count - 1 } else {}) else keepLoops c n
  | none => keepLoops c n

/-- The operand latch once the word has pushed some values, in their order: the slot's older entries are one instruction older, and h2 falls out
(05, R106). -/
def latched (c : Ctx) (vs : List Value) : List LatchEntry :=
  vs.foldl (fun l v => ({ value := v, age := 2, slotB := c.b } :: l).take 3)
    (c.g.latch.map fun e => if e.slotB = c.b then { e with age := e.age - 1 } else e)

/-- The group that issued, in a later state. -/
def after (c : Ctx) (t : State) : Group := t.group c.k

/-- Nothing outside the group that issued has changed but the metering counters of launches: no byte of memory, no other
group, no team, core, queue, context, or host register. -/
structure OnlyGroup (c : Ctx) (t : State) : Prop where
  machine : t = { c.s with groups := t.groups, launches := t.launches }
  others  : ∀ j, j ≠ c.k → t.groups.find? j = c.s.groups.find? j
  meters  : ∀ l, t.launch l = { c.s.launch l with ctrs := (t.launch l).ctrs }

/-- In the group, only what a computing word may change has changed: registers, the latch and the last-result file, the
windows' counts, SAT and the counting specials, the loop levels, the slots, and the marks of an issue. -/
def OnlyResult (c : Ctx) (g : Group) : Prop :=
  g = { c.g with vregs := g.vregs, sregs := g.sregs, spoison := g.spoison, preds := g.preds, latch := g.latch, q0 := g.q0,
                 q1 := g.q1, windows := g.windows, sat := g.sat, uflow := g.uflow, mflush := g.mflush, mwrap := g.mwrap,
                 loops := g.loops, slotA := g.slotA, slotB := g.slotB, lastB := c.b, issued := true,
                 issuedAt := some c.s.now, went := true, stall := 0,
                 spill := .none, granted := 0 }

/-- Every register but D, and but the vector names that LAST frees, is as it was; of the issuing slot only the PC has
changed, and the active mask where D is s60 to s62; the other slot is as it was. The loop levels took the loop action (06, R131); the latch
took what HOLD on the sources pushes, in the order A, B, C, and then what D holds where HOLD stands on it (05, R106); a scalar D is no longer
poisoned (15, R341). -/
structure OtherRegs (c : Ctx) (g : Group) : Prop where
  vecs    : ∀ n, ¬(c.opD.isVec = true ∧ c.opD.index = n) → n ∉ lastFrees c → g.vregs.find? n = c.g.vregs.find? n
  preds   : ∀ n, ¬(c.opD.isPred = true ∧ c.opD.index = n + 16) → n < 7 → g.preds.getD n 0 = c.g.preds.getD n 0
  scalars : ∀ n, ¬(c.opD.isScalar = true ∧ c.opD.index = n) → g.sregs.find? n = c.g.sregs.find? n
  uflow   : ¬(c.opD.isScalar = true ∧ c.opD.index = 88) → g.uflow = c.g.uflow
  mflush  : ¬(c.opD.isScalar = true ∧ c.opD.index = 89) → g.mflush = c.g.mflush
  mwrap   : ¬(c.opD.isScalar = true ∧ c.opD.index = 90) → g.mwrap = c.g.mwrap
  slot    : ¬(c.opD.isScalar = true ∧ 60 ≤ c.opD.index ∧ c.opD.index ≤ 62) → g.slot c.b = { c.slot with pc := nextPc c }
  pc      : (g.slot c.b).pc = nextPc c
  other   : g.slot (!c.b) = c.g.slot (!c.b)
  loops   : ∀ n, n < 3 → g.loops.getD n {} = nextLoops c n
  latch   : g.latch = latched c (sourceHolds c ++ if c.opD.hold then [namedSource c.s g c.b c.opD] else [])
  poison  : ∀ n, n < 64 → g.spoison.getLsbD n =
    (c.g.spoison.getLsbD n && !(c.opD.isScalar && decide (c.opD.index = n) && !(decide (60 ≤ n) && decide (n ≤ 62))))

/-- D holds the result `R` of each lane (05, R98, R105): a vector name in the active lanes, its other lanes as they were, or
+0 where LAST on a source freed the name before the write; a predicate its bit 0; a scalar the one evaluation; s60 to s62 a
part of the active mask, with every owned lane where none is left (06, R127); the writable special registers. q0 is the
last-result file alone. -/
def Dest (c : Ctx) (R : Nat → Word) (g : Group) : Prop :=
  let i := c.opD.index
  match c.opD.cls with
  | 0 => ∀ l, l < c.g.width → l < 96 →
      (g.vreg i).vals.getD l 0 =
        if c.act.getLsbD l then R l else if i ∈ lastFrees c then 0 else (c.g.vreg i).vals.getD l 0
  | 1 => i = 8 ∨ ∀ l, l < c.g.width → l < 96 →
      (g.pred (i - 16)).getLsbD l = if c.act.getLsbD l then (R l).getLsbD 0 else (c.g.pred (i - 16)).getLsbD l
  | _ =>
    if 60 ≤ i ∧ i ≤ 62 then
      let m : LaneMask := BitVec.ofNat 96 (putBits c.slot.active.toNat (32 * (i - 60) + 31) (32 * (i - 60)) (R 0).toNat) &&& c.slot.owned
      g.slot c.b = { c.slot with pc := nextPc c, active := if m = 0 then c.slot.owned else m }
    else if i < 64 then g.sregs.getD i 0 = R 0
    else if i = 87 then g.sat = (R 0).getLsbD 0
    else if i = 88 then g.uflow = R 0
    else if i = 89 then g.mflush = R 0
    else g.mwrap = R 0

/-- The last-result file took the result: q0 holds it in the active lanes and +0 in the others, q1 what q0 held (05, R107). -/
def LastResult (c : Ctx) (R : Nat → Word) (g : Group) : Prop :=
  g.q1 = c.g.q0 ∧
  ∃ v, g.q0 = some v ∧ v.vec = !c.opD.isScalar ∧
    if c.opD.isScalar then v.at 0 = R 0
    else ∀ l, l < c.g.width → v.at l = if c.act.getLsbD l then R l else 0

/-- The launch's counter `ctr` counts one per active lane, one for a scalar D, and saturates (17, R381, R382). -/
def Metered (c : Ctx) (ctr : Nat) (t : State) : Prop :=
  (c.s.func (c.s.vmidFunc c.launch.vmid)).stopped = false →
    (t.launch c.launchKey).ctrs.getD ctr 0 = min (c.launch.ctrs.getD ctr 0 + if c.opD.isScalar then 1 else c.lanes) (2 ^ 64 - 1)

/-- SAT stays set, and is set where `S` holds of a lane that was evaluated (07, R149; 08, R175). -/
def Flagged (c : Ctx) (S : Nat → Bool) (g : Group) : Prop :=
  ¬(c.opD.isScalar = true ∧ c.opD.index = 87) →
    g.sat = (c.g.sat || if c.opD.isScalar then S 0 else (lanesOf c.act).any S)

/-- D and the last-result file hold the result `R`, and nothing else of the machine has changed but what every issued word
changes. -/
structure Given (c : Ctx) (t : State) (R : Nat → Word) : Prop where
  frame : OnlyGroup c t
  group : OnlyResult c (after c t)
  regs  : OtherRegs c (after c t)
  dest  : Dest c R (after c t)
  last  : LastResult c R (after c t)

/-- What a computing word leaves: the result `R` in D and in the last-result file, SAT, its counter, and the frame. -/
structure Result (c : Ctx) (t : State) (ctr : Nat) (R : Nat → Word) (S : Nat → Bool) : Prop extends Given c t R where
  sat   : Flagged c S (after c t)
  meter : Metered c ctr t

/-- Instruction `i`, of opcode `opc` and fields `f`, computes: wherever its word issues with a lane active and `own` holds,
it answers a next state with a result that `P` says is right in every lane, where `S` says which lanes set SAT. -/
def Computes (i : Instr) (opc : Nat) (f : Fields) (ctr : Nat) (own : Ctx → Prop) (P : Ctx → Nat → Word → Prop)
    (S : Ctx → Nat → Bool := fun _ _ => false) : Prop :=
  ∀ s c, Calm opc f destName s c → own c → c.any = true →
    ∃ t R, exec i s = .next t ∧ Result c t ctr R (S c) ∧ ∀ l, P c l (R l)

/-- No condition of its own. -/
def always (_ : Ctx) : Prop := True

/-- D is neither a scalar nor a special register (08, R176). -/
def notScalar (c : Ctx) : Prop := c.opD.isScalar = false

/-! ## Integers -/

/-- The signed and the unsigned value of a word (07, R147). -/
def sv (x : Word) : Int := x.toInt
def uv (x : Word) : Int := x.toNat

/-- Width, and least and greatest value, of an integer type code (07, Table 7.1). -/
def tw (t : Nat) : Nat := if t % 4 = 0 then 32 else if t % 4 = 1 then 16 else 8
def lo (t : Nat) : Int := if t < 4 then -2 ^ (tw t - 1) else 0
def hi (t : Nat) : Int := if t < 4 then 2 ^ (tw t - 1) - 1 else 2 ^ tw t - 1

/-- The value of element `k` of a word of packed type `t` (07, R147, Table 7.2). -/
def ev (t : Nat) (x : Word) (k : Nat) : Int :=
  let e : Int := (x.toNat / 2 ^ (tw t * k) % 2 ^ tw t : Nat)
  if t < 4 ∧ 2 ^ (tw t - 1) ≤ e then e - 2 ^ tw t else e

/-- The word nearest to `x` that lies between `a` and `b`. -/
def clampI (a b x : Int) : Int := max a (min b x)

/-- A 32-bit word from an integer, modulo 2^32 (07, R148). -/
def w32 (x : Int) : Word := BitVec.ofInt 32 x

/-- Sources as the words of a 32-bit operation, and as words of the packed type in TYPE (08, R172). -/
def xA (c : Ctx) (l : Nat) : Word := c.srcA.at l
def xB (c : Ctx) (l : Nat) : Word := c.srcB.at l
def xC (c : Ctx) (l : Nat) : Word := c.srcC.at l
def pA (c : Ctx) (l : Nat) : Word := (typed (immOf c.f) c.opA false c.srcA).at l
def pB (c : Ctx) (l : Nat) : Word := (typed (immOf c.f) c.opB c.f.imm32 c.srcB).at l

/-! ## Floating formats -/

/-- The rational an exact finite value is (07, R152). -/
def rat : Float.FVal → Option ℚ
  | .fin n m e => some ((if n then -1 else 1) * (m : ℚ) * (2 : ℚ) ^ e)
  | _ => none

/-- `x` is the pattern of `q` rounded by `mode` to format `fm`, with the sign of a zero left open (07, R157). -/
def Rounded (mode : Float.Mode) (fm : Float.Format) (q : ℚ) (x : Nat) : Prop :=
  ∃ v, rat v = some q ∧ x = Float.roundVal mode fm v

/-- Sources of an FP32 operation. -/
def fA (c : Ctx) (l : Nat) : Nat := ((typed .single c.opA false c.srcA).at l).toNat
def fB (c : Ctx) (l : Nat) : Nat := ((typed .single c.opB c.f.imm32 c.srcB).at l).toNat
def fC (c : Ctx) (l : Nat) : Nat := ((typed .single c.opC false c.srcC).at l).toNat

/-- Half `k` of a source of a packed half-precision operation (08, R188). -/
def hA (c : Ctx) (k l : Nat) : Nat := ((typed (.half c.f.type) c.opA false c.srcA).at l).toNat / 2 ^ (16 * k) % 2 ^ 16
def hB (c : Ctx) (k l : Nat) : Nat := ((typed (.half c.f.type) c.opB c.f.imm32 c.srcB).at l).toNat / 2 ^ (16 * k) % 2 ^ 16
def hC (c : Ctx) (k l : Nat) : Nat := ((typed (.half c.f.type) c.opC false c.srcC).at l).toNat / 2 ^ (16 * k) % 2 ^ 16

/-- The sign bit of a value. -/
def negative : Float.FVal → Bool
  | .nan => false
  | .inf n => n
  | .fin n _ _ => n

/-- A zero of a format, by its sign. -/
def zeroPat (fm : Float.Format) (neg : Bool) : Nat := if neg then 2 ^ (fm.width - 1) else 0

/-- The sign of an exact zero sum of `a`, of value `p`, and `b`: theirs where both are zeros of one sign, else + but − under rdn (07, R158). -/
def zeroSum (mode : Float.Mode) (p : ℚ) (a b : Bool) : Bool := if p = 0 ∧ a = b then a else decide (mode = .rdn)

/-- The result of an addition: a NaN source or two infinities of opposite sign give the canonical NaN, an infinity stays,
and finite sources give the rounded exact sum, a zero with the sign of R158 (07, R158; 08, R184). -/
def IsSum (mode : Float.Mode) (fm : Float.Format) (a b : Float.FVal) (x : Nat) : Prop :=
  match a, b with
  | .nan, _ => x = fm.nanPat
  | _, .nan => x = fm.nanPat
  | .inf p, .inf q => x = if p = q then Float.roundVal mode fm (.inf p) else fm.nanPat
  | .inf p, _ => x = Float.roundVal mode fm (.inf p)
  | _, .inf p => x = Float.roundVal mode fm (.inf p)
  | a, b => ∃ p q, rat a = some p ∧ rat b = some q ∧ Rounded mode fm (p + q) x ∧
      (p + q = 0 → x = zeroPat fm (zeroSum mode p (negative a) (negative b)))

/-- The result of a multiplication: zero times infinity is a NaN, and a zero takes the exclusive OR of the signs (07, R158; 08, R184). -/
def IsProduct (mode : Float.Mode) (fm : Float.Format) (a b : Float.FVal) (x : Nat) : Prop :=
  match a, b with
  | .nan, _ => x = fm.nanPat
  | _, .nan => x = fm.nanPat
  | .inf p, .inf q => x = Float.roundVal mode fm (.inf (p != q))
  | .inf p, .fin n m _ => x = if m = 0 then fm.nanPat else Float.roundVal mode fm (.inf (p != n))
  | .fin n m _, .inf p => x = if m = 0 then fm.nanPat else Float.roundVal mode fm (.inf (p != n))
  | a, b => ∃ p q, rat a = some p ∧ rat b = some q ∧ Rounded mode fm (p * q) x ∧
      (p * q = 0 → x = zeroPat fm (negative a != negative b))

/-- A zero of either sign. -/
def IsZero (a : Float.FVal) : Prop := rat a = some 0

/-- An infinity of either sign. -/
def IsInf (a : Float.FVal) : Prop := a = .inf true ∨ a = .inf false

/-- The result of a fused multiply and add (07, R158; 08, R184): a NaN source, zero times infinity and infinities of opposite sign give the
canonical NaN; another infinite product, or an infinite z, stays; finite sources give one rounding of the exact x·y + z, a zero with the
sign of R158. -/
def IsFused (mode : Float.Mode) (fm : Float.Format) (a b z : Float.FVal) (x : Nat) : Prop :=
  let s := negative a != negative b
  let nan : Prop := a = .nan ∨ b = .nan ∨ z = .nan
  let bad : Prop := (IsInf a ∧ IsZero b) ∨ (IsZero a ∧ IsInf b)
  (nan ∨ bad → x = fm.nanPat) ∧
  (¬nan → ¬bad → IsInf a ∨ IsInf b → x = if z = .inf (!s) then fm.nanPat else Float.roundVal mode fm (.inf s)) ∧
  (¬nan → ¬IsInf a → ¬IsInf b → IsInf z → x = Float.roundVal mode fm z) ∧
  ∀ p q r, rat a = some p → rat b = some q → rat z = some r → Rounded mode fm (p * q + r) x ∧
    (p * q + r = 0 → x = zeroPat fm (zeroSum mode (p * q) s (negative z)))

/-- `x` is the smaller of two numbers, −0 below +0 and a NaN no number (08, R185); `wrong`, the order that is wrong. -/
def IsLeast (wrong : Ordering) (zero : Bool → Bool → Bool) (a b x : Nat) : Prop :=
  let v := Float.value Float.f32
  if v a = .nan then (if v b = .nan then x = 0x7FC00000 else x = b)
  else if v b = .nan then x = a
  else (x = a ∨ x = b) ∧ Float.compare (v x) (v a) ≠ some wrong ∧ Float.compare (v x) (v b) ≠ some wrong ∧
    (Float.compare (v a) (v b) = some .eq → x.testBit 31 = zero (a.testBit 31) (b.testBit 31))

/-- The integers a rounding mode takes a rational to (07, Table 7.6). -/
def RoundsTo (mode : Float.Mode) (q : ℚ) (n : Int) : Prop :=
  match mode with
  | .rz => (0 ≤ q → n = ⌊q⌋) ∧ (q < 0 → n = ⌈q⌉)
  | .rdn => n = ⌊q⌋
  | .rup => n = ⌈q⌉
  | .rne => |q - n| ≤ 1 / 2 ∧ (|q - n| = 1 / 2 → n % 2 = 0)

end Sys2Proof.Spec
end

