-- ==== Sys2Proof/Certificates/Slice0/Obligations.lean ====
section
/-! DEFINITION. The statements for the provers, family by family in the order of the opcode table, in the words of
Sys2Proof/Spec.lean; the statements about events follow, then the machine as a whole. -/


open Sys2Proof Sys2Proof.Machine Sys2Proof.Spec

/-! # Integer arithmetic -/

/-- 07, R149; 08, R177: the 32-bit sums, differences, products and multiply-adds wrap modulo 2^32; `imulh` is the high word of the
exact product of its type; `iabs` and `ineg` wrap, or with SATF saturate to INT32 and then set SAT. -/
def Obligations.IntegerArithmetic : Prop :=
  ∀ f : Fields,
    Computes (.iadd f) 0x040 f ctrInt always (fun c l x => x = w32 (uv (xA c l) + uv (xB c l))) ∧
    Computes (.isub f) 0x042 f ctrInt always (fun c l x => x = w32 (uv (xA c l) - uv (xB c l))) ∧
    Computes (.imul f) 0x044 f ctrInt always (fun c l x => x = w32 (uv (xA c l) * uv (xB c l))) ∧
    Computes (.imulh f) 0x045 f ctrInt always
      (fun c l x => x = w32 (⌊((ev f.type (xA c l) 0 * ev f.type (xB c l) 0 : Int) : ℚ) / 2 ^ 32⌋)) ∧
    Computes (.imad f) 0x046 f ctrInt always (fun c l x => x = w32 (uv (xA c l) * uv (xB c l) + uv (xC c l))) ∧
    Computes (.iabs f) 0x047 f ctrInt always
      (fun c l x => x = w32 (if f.x then min |sv (xA c l)| (2 ^ 31 - 1) else |sv (xA c l)|))
      (fun c l => f.x && decide (sv (xA c l) = -2 ^ 31)) ∧
    Computes (.ineg f) 0x048 f ctrInt always
      (fun c l x => x = w32 (if f.x then min (-sv (xA c l)) (2 ^ 31 - 1) else -sv (xA c l)))
      (fun c l => f.x && decide (sv (xA c l) = -2 ^ 31))

/-- 08, R177, R179, R180, R181: the packed minimum, maximum and saturating addition act on every element of their type alone, and an
element that saturates sets SAT; `pmad2` adds two INT16 products to C and saturates to INT32; `rshr` rounds half up and
saturates to its type; `dp4` adds four byte products to C, and with SATF saturates. -/
def Obligations.PackedArithmetic : Prop :=
  ∀ f : Fields,
    Computes (.imin f) 0x049 f ctrInt always
      (fun c l x => ∀ k, k < 32 / tw f.type → ev f.type x k = min (ev f.type (pA c l) k) (ev f.type (pB c l) k)) ∧
    Computes (.imax f) 0x04A f ctrInt always
      (fun c l x => ∀ k, k < 32 / tw f.type → ev f.type x k = max (ev f.type (pA c l) k) (ev f.type (pB c l) k)) ∧
    Computes (.addsat f) 0x04B f ctrInt always
      (fun c l x => ∀ k, k < 32 / tw f.type →
        ev f.type x k = clampI (lo f.type) (hi f.type) (ev f.type (pA c l) k + ev f.type (pB c l) k))
      (fun c l => (List.range (32 / tw f.type)).any fun k =>
        let y := ev f.type (pA c l) k + ev f.type (pB c l) k
        decide (y < lo f.type) || decide (hi f.type < y)) ∧
    Computes (.pmad2 f) 0x04C f ctrInt always
      (fun c l x =>
        sv x = clampI (-2 ^ 31) (2 ^ 31 - 1) (sv (xC c l) + ev 1 (pA c l) 0 * ev 1 (pB c l) 0 + ev 1 (pA c l) 1 * ev 1 (pB c l) 1))
      (fun c l =>
        let y := sv (xC c l) + ev 1 (pA c l) 0 * ev 1 (pB c l) 0 + ev 1 (pA c l) 1 * ev 1 (pB c l) 1
        decide (y < -2 ^ 31) || decide (2 ^ 31 - 1 < y)) ∧
    Computes (.rshr f) 0x04D f ctrInt always
      (fun c l x =>
        let n := (xB c l).toNat % 32
        x = w32 (clampI (lo f.type) (hi f.type) ⌊(sv (xA c l) : ℚ) / 2 ^ n + if n = 0 then 0 else 1 / 2⌋))
      (fun c l =>
        let n := (xB c l).toNat % 32
        let y := ⌊(sv (xA c l) : ℚ) / 2 ^ n + if n = 0 then 0 else 1 / 2⌋
        decide (y < lo f.type) || decide (hi f.type < y)) ∧
    Computes (.dp4 f) 0x04E f ctrInt always
      (fun c l x =>
        let t := if f.type = 2 then 0 else 4
        let y := ev t (xC c l) 0 + ev f.type (pA c l) 0 * ev f.type (pB c l) 0 + ev f.type (pA c l) 1 * ev f.type (pB c l) 1 +
          ev f.type (pA c l) 2 * ev f.type (pB c l) 2 + ev f.type (pA c l) 3 * ev f.type (pB c l) 3
        x = w32 (if f.x then clampI (lo t) (hi t) y else y))
      (fun c l =>
        let t := if f.type = 2 then 0 else 4
        let y := ev t (xC c l) 0 + ev f.type (pA c l) 0 * ev f.type (pB c l) 0 + ev f.type (pA c l) 1 * ev f.type (pB c l) 1 +
          ev f.type (pA c l) 2 * ev f.type (pB c l) 2 + ev f.type (pA c l) 3 * ev f.type (pB c l) 3
        f.x && (decide (y < lo t) || decide (hi t < y)))

/-- 08, R178: `iaddc` and `isubb` leave in a vector D the low word of A ± B ± the carry in, and in predicate pCP, which SEL
names, the carry or borrow out of the zero-extended operation; with X the predicate's old bit is the carry in. Every other
register but what the loop action and HOLD change is as it was. CP 7 is reserved, and a D that is no vector name traps. -/
def Obligations.CarryForms : Prop :=
  ∀ (f : Fields) (s : State) (c : Ctx),
    let cp := f.sel % 8
    let cin (l : Nat) : Int := if f.x ∧ (c.g.pred cp).getLsbD l then 1 else 0
    let carries (i : Instr) (opc : Nat) (y : Nat → Int) (out : Int → Bool) : Prop :=
      Calm opc f destName s c → ∃ t, exec i s = .next t ∧ OnlyGroup c t ∧ OnlyResult c (after c t) ∧
        (∀ l, l < c.g.width → l < 96 →
          (c.act.getLsbD l = true →
            ((after c t).vreg c.opD.index).vals.getD l 0 = w32 (y l) ∧ ((after c t).pred cp).getLsbD l = out (y l)) ∧
          (c.act.getLsbD l = false →
            ((after c t).vreg c.opD.index).vals.getD l 0 =
              (if c.opD.index ∈ lastFrees c then 0 else (c.g.vreg c.opD.index).vals.getD l 0) ∧
            ((after c t).pred cp).getLsbD l = (c.g.pred cp).getLsbD l)) ∧
        (∀ n, n ≠ c.opD.index → n ∉ lastFrees c → (after c t).vregs.find? n = c.g.vregs.find? n) ∧
        (∀ n, n ≠ cp → n < 7 → (after c t).preds.getD n 0 = c.g.preds.getD n 0) ∧ (after c t).sregs = c.g.sregs ∧
        (after c t).spoison = c.g.spoison ∧ (∀ n, n < 3 → (after c t).loops.getD n {} = nextLoops c n) ∧
        (after c t).latch = latched c (sourceHolds c ++ if c.opD.hold then [namedSource c.s (after c t) c.b c.opD] else []) ∧
        (after c t).sat = c.g.sat ∧ (after c t).uflow = c.g.uflow ∧ (after c t).mflush = c.g.mflush ∧ (after c t).mwrap = c.g.mwrap ∧
        (after c t).q0 = c.g.q0 ∧ (after c t).q1 = c.g.q1 ∧
        (after c t).slot c.b = { c.slot with pc := nextPc c } ∧ (after c t).slot (!c.b) = c.g.slot (!c.b) ∧ Metered c ctrInt t
    (c.any = true → c.opD.isVec = true →
      carries (.iaddc f) 0x041 (fun l => uv (xA c l) + uv (xB c l) + cin l) (fun y => decide (2 ^ 32 ≤ y)) ∧
      carries (.isubb f) 0x043 (fun l => uv (xA c l) - uv (xB c l) - cin l) (fun y => decide (y < 0))) ∧
    (c.opD.isVec = false →
      (Calm 0x041 f destName s c → exec (.iaddc f) s = .next (s.takeTrap c.k (c.illegalOperand 1))) ∧
      (Calm 0x043 f destName s c → exec (.isubb f) s = .next (s.takeTrap c.k (c.illegalOperand 1)))) ∧
    ∀ i ∈ [Instr.iaddc f, .isubb f], i.wellFormed = true → f.type = 4 ∧ f.sel < 7

/-- 08, R182: logic bit by bit; shifts by 32 or more give 0, or the sign; `rot` moves bit i to bit i + n modulo 32; `bfe` and
`bfi` take their position and length from two bytes; `popc`, `clz` and `brev`. None takes a type but `bfe`, and those with fewer or more than
two sources no 32-bit immediate. -/
def Sys2Proof.Spec.partLogicAndBitFields : Prop :=
  ∀ f : Fields,
    Computes (.bitAnd f) 0x050 f ctrInt always (fun c l x => ∀ i, x.getLsbD i = ((xA c l).getLsbD i && (xB c l).getLsbD i)) ∧
    Computes (.bitOr f) 0x051 f ctrInt always (fun c l x => ∀ i, x.getLsbD i = ((xA c l).getLsbD i || (xB c l).getLsbD i)) ∧
    Computes (.bitXor f) 0x052 f ctrInt always (fun c l x => ∀ i, x.getLsbD i = ((xA c l).getLsbD i != (xB c l).getLsbD i)) ∧
    Computes (.bitNot f) 0x053 f ctrInt always (fun c l x => ∀ i, i < 32 → x.getLsbD i = !(xA c l).getLsbD i) ∧
    Computes (.shl f) 0x054 f ctrInt always (fun c l x => x.toNat = (xA c l).toNat * 2 ^ (xB c l).toNat % 2 ^ 32) ∧
    Computes (.shr f) 0x055 f ctrInt always (fun c l x => x.toNat = (xA c l).toNat / 2 ^ (xB c l).toNat) ∧
    Computes (.sar f) 0x056 f ctrInt always (fun c l x => sv x = ⌊(sv (xA c l) : ℚ) / 2 ^ min (xB c l).toNat 31⌋) ∧
    Computes (.rot f) 0x057 f ctrInt always
      (fun c l x => ∀ i, i < 32 → x.getLsbD ((i + (xB c l).toNat) % 32) = (xA c l).getLsbD i) ∧
    Computes (.bfe f) 0x058 f ctrInt always
      (fun c l x =>
        let pos := (xB c l).toNat % 256
        let len := min ((xB c l).toNat / 256 % 256) 32
        let a : Int := if f.type = 0 then sv (xA c l) else uv (xA c l)
        let y := ⌊(a : ℚ) / 2 ^ pos⌋ % 2 ^ len
        x = if len = 0 then 0 else w32 (if f.type = 0 ∧ 2 ^ (len - 1) ≤ y then y - 2 ^ len else y)) ∧
    Computes (.bfi f) 0x059 f ctrInt always
      (fun c l x =>
        let pos := (xC c l).toNat % 256
        let len := min ((xC c l).toNat / 256 % 256) 32
        ∀ i, i < 32 → x.getLsbD i = if pos ≤ i ∧ i < pos + len then (xA c l).getLsbD (i - pos) else (xB c l).getLsbD i) ∧
    Computes (.popc f) 0x05A f ctrInt always
      (fun c l x => x.toNat = ((List.range 32).filter fun i => (xA c l).getLsbD i).length) ∧
    Computes (.clz f) 0x05B f ctrInt always
      (fun c l x => (xA c l = 0 → x = 32) ∧
        (xA c l ≠ 0 → x.toNat < 32 ∧ 2 ^ (31 - x.toNat) ≤ (xA c l).toNat ∧ (xA c l).toNat < 2 ^ (32 - x.toNat))) ∧
    Computes (.brev f) 0x05C f ctrInt always (fun c l x => ∀ i, i < 32 → x.getLsbD i = (xA c l).getLsbD (31 - i)) ∧
    (∀ i ∈ [Instr.bitAnd f, .bitOr f, .bitXor f, .bitNot f, .shl f, .shr f, .sar f, .rot f, .bfi f, .popc f, .clz f, .brev f], i.wellFormed = true → f.type = 0) ∧
    ((Instr.bfe f).wellFormed = true → f.type = 4 ∨ f.type = 0) ∧
    ∀ i ∈ [Instr.bitNot f, .bfi f, .popc f, .clz f, .brev f], i.wellFormed = true → f.imm32 = false

/-- 08, R183: `icmp` gives 1 or 0 by the condition of SEL over the values of its type; `sel` takes A where bit 0 of C is 1, else
B; `mov` takes A; `movi` takes the immediate B·2^16 + AUX of its word. Conditions 6 and 7 are reserved; `movi` must have its immediate, and
names no A. -/
def Obligations.CompareSelectMove : Prop :=
  ∀ f : Fields,
    Computes (.icmp f) 0x060 f ctrInt always
      (fun c l x =>
        let a := ev f.type (xA c l) 0
        let b := ev f.type (xB c l) 0
        (f.sel = 0 → (x = 1 ↔ a = b)) ∧ (f.sel = 1 → (x = 1 ↔ a ≠ b)) ∧ (f.sel = 2 → (x = 1 ↔ a < b)) ∧
        (f.sel = 3 → (x = 1 ↔ a ≤ b)) ∧ (f.sel = 4 → (x = 1 ↔ b < a)) ∧ (f.sel = 5 → (x = 1 ↔ b ≤ a)) ∧ (x = 0 ∨ x = 1)) ∧
    Computes (.sel f) 0x061 f ctrInt always (fun c l x => x = if (xC c l).getLsbD 0 then xA c l else xB c l) ∧
    Computes (.mov f) 0x062 f ctrInt always (fun c l x => x = xA c l) ∧
    Computes (.movi f) 0x063 f ctrInt always (fun _ _ x => x.toNat = f.b.toNat * 2 ^ 16 + f.aux.toNat) ∧
    ((Instr.icmp f).wellFormed = true → (f.type = 0 ∨ f.type = 4) ∧ f.sel < 6) ∧
    (∀ i ∈ [Instr.sel f, .mov f], i.wellFormed = true → f.imm32 = false) ∧
    ((Instr.movi f).wellFormed = true → f.imm32 = true ∧ f.a = 0)

/-- 07, R157, R158; 08, R184: the FP32 sum, difference, product and fused multiply-add are the exact value rounded once in the mode of RM, with
the canonical NaN where an input is a NaN, where infinities of opposite sign meet, and for zero times infinity; an infinity stays, and a zero
takes the sign of R158. -/
def Obligations.Fp32Arithmetic : Prop :=
  ∀ f : Fields,
    let v := Sys2Proof.Float.value Sys2Proof.Float.f32
    let m := Sys2Proof.Float.Mode.ofBits f.mode
    Computes (.fadd f) 0x0C0 f ctrFloat always (fun c l x => IsSum m Sys2Proof.Float.f32 (v (fA c l)) (v (fB c l)) x.toNat) ∧
    Computes (.fsub f) 0x0C1 f ctrFloat always (fun c l x => IsSum m Sys2Proof.Float.f32 (v (fA c l)) (Sys2Proof.Float.neg (v (fB c l))) x.toNat) ∧
    Computes (.fmul f) 0x0C2 f ctrFloat always (fun c l x => IsProduct m Sys2Proof.Float.f32 (v (fA c l)) (v (fB c l)) x.toNat) ∧
    Computes (.ffma f) 0x0C3 f ctrFloat always
      (fun c l x => IsFused m Sys2Proof.Float.f32 (v (fA c l)) (v (fB c l)) (v (fC c l)) x.toNat)

/-- 08, R184–R187: the minimum and the maximum number, with −0 below +0; the eight float conditions; the class of a number; and
`fround`, an integer in the mode of RM with the sign kept. -/
def Obligations.Fp32CompareAndRound : Prop :=
  ∀ f : Fields,
    let v := Sys2Proof.Float.value Sys2Proof.Float.f32
    Computes (.fmin f) 0x0C4 f ctrFloat always (fun c l x => IsLeast .gt (· || ·) (fA c l) (fB c l) x.toNat) ∧
    Computes (.fmax f) 0x0C5 f ctrFloat always (fun c l x => IsLeast .lt (· && ·) (fA c l) (fB c l) x.toNat) ∧
    Computes (.fcmp f) 0x0C6 f ctrFloat always
      (fun c l x =>
        let o := Sys2Proof.Float.compare (v (fA c l)) (v (fB c l))
        (x = 0 ∨ x = 1) ∧
        (f.sel = 0 → (x = 1 ↔ o = some .eq)) ∧ (f.sel = 1 → (x = 1 ↔ o ≠ some .eq)) ∧ (f.sel = 2 → (x = 1 ↔ o = some .lt)) ∧
        (f.sel = 3 → (x = 1 ↔ o = some .lt ∨ o = some .eq)) ∧ (f.sel = 4 → (x = 1 ↔ o = some .gt)) ∧
        (f.sel = 5 → (x = 1 ↔ o = some .gt ∨ o = some .eq)) ∧ (f.sel = 6 → (x = 1 ↔ o ≠ none)) ∧ (f.sel = 7 → (x = 1 ↔ o = none))) ∧
    Computes (.fclass f) 0x0C7 f ctrFloat always
      (fun c l x => ∃ k, k < 10 ∧ x.toNat = 2 ^ k ∧
        match v (fA c l) with
        | .nan => k = if (fA c l).testBit 22 then 9 else 8
        | .inf n => k = if n then 0 else 7
        | .fin n m _ =>
          if m = 0 then k = if n then 3 else 4
          else if m < 2 ^ 23 then k = if n then 2 else 5
          else k = if n then 1 else 6) ∧
    Computes (.fround f) 0x0C8 f ctrFloat always
      (fun c l x => match v (fA c l) with
        | .nan => x = 0x7FC00000
        | .inf _ => x.toNat = fA c l
        | w => x.toNat.testBit 31 = (fA c l).testBit 31 ∧
            ∃ q n, rat w = some q ∧ RoundsTo (Sys2Proof.Float.Mode.ofBits f.mode) q n ∧ rat (v x.toNat) = some (n : ℚ))

/-- 07, R157, R158; 08, R188: each half of a packed half-precision word is added, multiplied or fused alone, in FP16 or BF16 by TYPE, with the
rules of the FP32 operations for NaN, infinities and the sign of a zero. -/
def Obligations.PackedHalves : Prop :=
  ∀ f : Fields,
    let fm := Sys2Proof.Float.ofType f.type
    let v := Sys2Proof.Float.value fm
    let m := Sys2Proof.Float.Mode.ofBits f.mode
    let half (x : Word) (k : Nat) : Nat := x.toNat / 2 ^ (16 * k) % 2 ^ 16
    Computes (.hadd2 f) 0x0D0 f ctrHalf always
      (fun c l x => ∀ k, k < 2 → IsSum m fm (v (hA c k l)) (v (hB c k l)) (half x k)) ∧
    Computes (.hmul2 f) 0x0D1 f ctrHalf always
      (fun c l x => ∀ k, k < 2 → IsProduct m fm (v (hA c k l)) (v (hB c k l)) (half x k)) ∧
    Computes (.hfma2 f) 0x0D2 f ctrHalf always
      (fun c l x => ∀ k, k < 2 → IsFused m fm (v (hA c k l)) (v (hB c k l)) (v (hC c k l)) (half x k))

/-- The floating formats of a lane (07, Table 7.3). -/
def Sys2Proof.Spec.formats : List Sys2Proof.Float.Format :=
  [Sys2Proof.Float.f32, Sys2Proof.Float.bf16, Sys2Proof.Float.f16, Sys2Proof.Float.e4m3, Sys2Proof.Float.e5m2, Sys2Proof.Float.e2m1]

/-- 07, R157: a finite value that a format holds is rounded to itself in every mode, so no conversion within a format changes a
number. -/
def Sys2Proof.Spec.partRoundingKeepsExactValues : Prop :=
  ∀ fm ∈ formats,
    ∀ (mode : Sys2Proof.Float.Mode) (x : Nat) (n : Bool) (m : Nat) (e : Int), x < 2 ^ fm.width → Sys2Proof.Float.value fm x = .fin n m e →
      Sys2Proof.Float.round mode fm n m e = x

/-- 07, R157, Table 7.6: directed rounding is on the side its mode names: toward zero never away from it, and, wherever the
result is finite and is not the largest magnitude of its format (which saturation may give), down never above the value and up never below it. -/
def Sys2Proof.Spec.partDirectedRounding : Prop :=
  ∀ fm ∈ formats,
    ∀ (n : Bool) (m : Nat) (e : Int) (p q : ℚ), rat (.fin n m e) = some q →
      (rat (Sys2Proof.Float.value fm (Sys2Proof.Float.round .rz fm n m e)) = some p → |p| ≤ |q|) ∧
      (rat (Sys2Proof.Float.value fm (Sys2Proof.Float.round .rdn fm n m e)) = some p → Sys2Proof.Float.round .rdn fm n m e % 2 ^ (fm.width - 1) < fm.maxPat → p ≤ q) ∧
      (rat (Sys2Proof.Float.value fm (Sys2Proof.Float.round .rup fm n m e)) = some p → Sys2Proof.Float.round .rup fm n m e % 2 ^ (fm.width - 1) < fm.maxPat → q ≤ p)

/-- 07, R157, Table 7.6: rounding to nearest gives, wherever it gives a finite value, a value of the format with none nearer, and of two values
equally near the one of even mantissa. -/
def Sys2Proof.Spec.partNearestRounding : Prop :=
  ∀ fm ∈ formats, ∀ (n : Bool) (m : Nat) (e : Int) (y : Nat) (p q r : ℚ),
    let x := Sys2Proof.Float.round .rne fm n m e
    rat (.fin n m e) = some q → rat (Sys2Proof.Float.value fm x) = some p → rat (Sys2Proof.Float.value fm y) = some r →
      |q - p| ≤ |q - r| ∧ (|q - p| = |q - r| → p ≠ r → x % 2 = 0)

/-- 07, R157, Table 7.7: a value beyond the largest magnitude of its format gives an infinity where its mode rounds away from zero, or to nearest
from half a step beyond that magnitude, in FP32, BF16 and FP16; else the largest magnitude, with the sign of the value. -/
def Sys2Proof.Spec.partOverflow : Prop :=
  ∀ fm ∈ formats, ∀ (n : Bool) (m : Nat) (e : Int) (q : ℚ) (M : Nat) (E : Int),
    let most := (if n then 2 ^ (fm.width - 1) else 0) + fm.maxPat
    let wide : Prop := fm ∈ [Sys2Proof.Float.f32, Sys2Proof.Float.bf16, Sys2Proof.Float.f16]
    rat (.fin n m e) = some q → Sys2Proof.Float.value fm fm.maxPat = .fin false M E →
      ((M : ℚ) * 2 ^ E < |q| → Sys2Proof.Float.round .rz fm n m e = most ∧
        (wide → Sys2Proof.Float.round .rdn fm n m e = (if n then most + 1 else most) ∧
          Sys2Proof.Float.round .rup fm n m e = (if n then most else most + 1)) ∧
        (¬wide → Sys2Proof.Float.round .rdn fm n m e = most ∧ Sys2Proof.Float.round .rup fm n m e = most ∧ Sys2Proof.Float.round .rne fm n m e = most)) ∧
      (wide → ((M : ℚ) + 1 / 2) * 2 ^ E ≤ |q| → Sys2Proof.Float.round .rne fm n m e = most + 1)

/-- 07, R159, R160; 08, R191, R192, R201: a conversion acts on each element alone: `cvt` rounds the value of the source element to the
destination format, `i2f` rounds the integer, with 0 as +0, and `f2i` takes the integer of the mode of RM, clamped to the type, and sets SAT where
it was clamped or no number. With equal element counts element k comes from element k; a widening conversion takes slice EL of A; a narrowing one
fills slice EL of D and keeps D's other elements. A class-11 A, a predicate D and a q0 D of a narrowing conversion trap. EL is below the ratio of
the element counts, and the types differ. -/
def Obligations.Conversions : Prop :=
  ∀ f : Fields,
    let ns := Forms.perLane f.sel
    let nd := Forms.perLane f.type
    let index := f.aux.toNat
    let el (n : Nat) (x : Word) (k : Nat) : Nat := x.toNat / 2 ^ (32 / n * k) % 2 ^ (32 / n)
    let source (k : Nat) : Nat := if ns < nd then k - ns * index else if nd < ns then nd * index + k else k
    let filled (k : Nat) : Prop := k < nd ∧ (ns < nd → ns * index ≤ k ∧ k < ns * index + ns)
    let m := Sys2Proof.Float.Mode.ofBits f.mode
    let from_ := Sys2Proof.Float.ofType f.sel
    let into := Sys2Proof.Float.ofType f.type
    let plain (c : Ctx) : Prop := c.opD.isPred = false ∧ (ns < nd → c.opD.isQ0 = false) ∧ c.opA.isImm = false
    let kept (c : Ctx) (l : Nat) (x : Word) : Prop :=
      ∀ k, k < nd → ¬filled k → el nd x k = el nd ((namedSource c.s c.g c.b c.opD).at l) k
    Computes (.cvt f) 0x0F0 f ctrFloat plain
      (fun c l x => kept c l x ∧ ∀ k, filled k →
        el nd x k = Sys2Proof.Float.roundVal m into (Sys2Proof.Float.value from_ (el ns (xA c l) (source k)))) ∧
    Computes (.i2f f) 0x0F1 f ctrFloat plain
      (fun c l x => kept c l x ∧ ∀ k, filled k →
        Rounded m into (ev f.sel (xA c l) (source k)) (el nd x k) ∧ (ev f.sel (xA c l) (source k) = 0 → el nd x k = 0)) ∧
    Computes (.f2i f) 0x0F2 f ctrFloat plain
      (fun c l x => kept c l x ∧ ∀ k, filled k →
        match Sys2Proof.Float.value from_ (el ns (xA c l) (source k)) with
        | .nan => ev f.type x k = 0
        | .inf s => ev f.type x k = if s then lo f.type else hi f.type
        | w => ∃ q y, rat w = some q ∧ RoundsTo m q y ∧ ev f.type x k = clampI (lo f.type) (hi f.type) y)
      (fun c l => (List.range nd).any fun k => decide (ns < nd → ns * index ≤ k ∧ k < ns * index + ns) &&
        (Sys2Proof.Float.toInteger m (Sys2Proof.Float.value from_ (el ns (xA c l) (source k))) (lo f.type) (hi f.type)).2) ∧
    (∀ (s : State) (c : Ctx) (i : Instr) (opc : Nat), (i, opc) ∈ [(Instr.cvt f, 0x0F0), (.i2f f, 0x0F1), (.f2i f, 0x0F2)] → Calm opc f destName s c →
      (c.opD.isPred = true ∨ (ns < nd ∧ c.opD.isQ0 = true) → exec i s = .next (s.takeTrap c.k (c.illegalOperand 1))) ∧
      (c.opD.isPred = false → ¬(ns < nd ∧ c.opD.isQ0 = true) → c.opA.isImm = true → exec i s = .next (s.takeTrap c.k (c.illegalOperand 2)))) ∧
    ∀ i ∈ [Instr.cvt f, .i2f f, .f2i f], i.wellFormed = true → index < max ns nd / min ns nd ∧ f.type ≠ f.sel

/-- 07, R169; 08, R176, R193: `rand` gives word MODE of Philox-4x32-10, keyed by the launch, at the lane's own counter: its lineage
in a population launch, else its number in the launch. A scalar D traps. -/
def Obligations.RandomWords : Prop :=
  ∀ f : Fields,
    Computes (.rand f) 0x0F3 f ctrInt notScalar
      (fun c l x =>
        let n := if f.imm32 then f.immediate.toNat else (xA c l).toNat
        let lane := (c.team.teamid * (32 * c.record.slots) + c.g.grpid * c.g.width + l) % 2 ^ 32
        let ctr := if c.record.pop then (c.g.lin.getD l 0 % 2 ^ 32, c.g.lin.getD l 0 / 2 ^ 32, n, 0) else (lane, 2 ^ 32 - 1, n, 0)
        x = BitVec.ofNat 32 (philoxWord (philox c.record.key ctr) f.mode)) ∧
    ∀ (s : State) (c : Ctx), Calm 0x0F3 f destName s c → c.opD.isScalar = true → exec (.rand f) s = .next (s.takeTrap c.k (c.illegalOperand 1))

/-- 08, R194–R197, R199: `shfl` and `rdlane` read A in the lane they name, +0 from beyond the group and from an exited lane of a
vector name or a predicate; `slide` shifts the group's elements by n and fills from C; `vote` and `ballot` give every active lane one value
over the active lanes alone. A scalar D traps, and so does a vector-valued n, lane number or quota. -/
def Sys2Proof.Spec.partCrossLane : Prop :=
  (∀ f : Fields,
    let uB (c : Ctx) : Prop := vectorValued c.g c.b c.opB = false
    Computes (.shfl f) 0x140 f ctrInt notScalar
      (fun c l x =>
        let n : Int := (xB c l).toNat
        let p : Int := if f.mode = 0 then n else if f.mode = 1 then l - n else if f.mode = 2 then l + n else (Nat.xor l (xB c l).toNat : Nat)
        x = if p < 0 ∨ (c.g.width : Int) ≤ p ∨ ((c.opA.isVec = true ∨ c.opA.isPred = true) ∧ c.g.exited.getLsbD p.toNat = true) then 0
            else xA c p.toNat) ∧
    Computes (.rdlane f) 0x146 f ctrInt (fun c => notScalar c ∧ uB c)
      (fun c _ x =>
        let p := (xB c 0).toNat
        x = if c.g.width ≤ p ∨ ((c.opA.isVec = true ∨ c.opA.isPred = true) ∧ c.g.exited.getLsbD p = true) then 0 else xA c p) ∧
    Computes (.slide f) 0x141 f ctrInt (fun c => notScalar c ∧ uB c)
      (fun c l x =>
        let e := 32 / tw f.type
        let total := c.g.width * e
        let n := min (xB c 0).toNat total
        let el (y : Word) (k : Nat) : Nat := y.toNat / 2 ^ (tw f.type * k) % 2 ^ tw f.type
        let src (o : Opnd) (v : Value) (i : Nat) : Nat := el (lanev c o v ((i / e : Nat) : Int)) (i % e)
        let a := src c.opA (typed (immOf f) c.opA false c.srcA)
        let z := src c.opC (typed (immOf f) c.opC false c.srcC)
        ∀ k, k < e →
          let i := l * e + k
          el x k = if f.mode = 1 then (if i + n < total then a (i + n) else z (i + n - total))
                   else (if n ≤ i then a (i - n) else z (total - n + i))) ∧
    Computes (.vote f) 0x142 f ctrInt (fun c => notScalar c ∧ (f.mode = 1 → uB c))
      (fun c _ x =>
        let n := ((lanesOf c.act).filter fun l => (xA c l).getLsbD 0).length
        let q := if xB c 0 = 0 then c.lanes else (xB c 0).toNat
        (f.mode = 0 → x.toNat = n) ∧ (f.mode = 1 → x = if q ≤ n then 1 else 0) ∧
        (f.mode = 2 → (x = 1 ↔ ∀ i ∈ lanesOf c.act, ∀ j ∈ lanesOf c.act, xA c i = xA c j) ∧ (x = 0 ∨ x = 1))) ∧
    Computes (.ballot f) 0x143 f ctrInt notScalar
      (fun c _ x => ∀ i, i < 32 → x.getLsbD i =
        (decide (32 * f.mode + i < c.g.width) && c.act.getLsbD (32 * f.mode + i) && (xA c (32 * f.mode + i)).getLsbD 0))) ∧
  ∀ (f : Fields) (s : State) (c : Ctx),
    let traps (i : Instr) (opc n : Nat) : Prop := Calm opc f destName s c → exec i s = .next (s.takeTrap c.k (c.illegalOperand n))
    (c.opD.isScalar = true → traps (.shfl f) 0x140 1 ∧ traps (.slide f) 0x141 1 ∧ traps (.vote f) 0x142 1 ∧ traps (.ballot f) 0x143 1 ∧
      traps (.rdlane f) 0x146 1) ∧
    (c.opD.isScalar = false → vectorValued c.g c.b c.opB = true →
      traps (.slide f) 0x141 3 ∧ (f.mode = 1 → traps (.vote f) 0x142 3) ∧ traps (.rdlane f) 0x146 3)

/-- 08, R198, Table 8.14: the operations of a reduction and their exclusive identities, by OP: the wrapping sum, the least and the greatest value of
the type, and, or, exclusive or; for .f32 the sum rounded in the mode of RM and the minimum and maximum number. -/
def Sys2Proof.Spec.partReductionOperations : Prop :=
  ∀ (f : Fields) (r x : Word),
    let v := Sys2Proof.Float.value Sys2Proof.Float.f32
    let y := reduceOp f r x
    (f.type = 0 ∨ f.type = 4 →
      (f.sel = 0 → y = w32 (uv r + uv x)) ∧ (f.sel = 1 → ev f.type y 0 = min (ev f.type r 0) (ev f.type x 0)) ∧
      (f.sel = 2 → ev f.type y 0 = max (ev f.type r 0) (ev f.type x 0)) ∧
      (f.sel = 3 → ∀ i, y.getLsbD i = (r.getLsbD i && x.getLsbD i)) ∧ (f.sel = 4 → ∀ i, y.getLsbD i = (r.getLsbD i || x.getLsbD i)) ∧
      (f.sel = 5 → ∀ i, y.getLsbD i = (r.getLsbD i != x.getLsbD i)) ∧
      (f.sel = 0 ∨ f.sel = 4 ∨ f.sel = 5 → reduceId f = 0) ∧ (f.sel = 1 → ev f.type (reduceId f) 0 = hi f.type) ∧
      (f.sel = 2 → ev f.type (reduceId f) 0 = lo f.type) ∧ (f.sel = 3 → reduceId f = 0xFFFFFFFF)) ∧
    (f.type = 8 →
      (f.sel = 0 → IsSum (Sys2Proof.Float.Mode.ofBits f.mode) Sys2Proof.Float.f32 (v r.toNat) (v x.toNat) y.toNat ∧ reduceId f = 0x80000000) ∧
      (f.sel = 1 → IsLeast .gt (· || ·) r.toNat x.toNat y.toNat ∧ reduceId f = 0x7F800000) ∧
      (f.sel = 2 → IsLeast .lt (· && ·) r.toNat x.toNat y.toNat ∧ reduceId f = 0xFF800000))

/-- 08, R176, R198: `redux` combines A over the active lanes in increasing order, and every active lane takes it; `scan` gives each
active lane the combination up to and with it, or with EXCL of those before it, beginning from the identity. A scalar D traps. -/
def Sys2Proof.Spec.partReductions : Prop :=
  ∀ f : Fields,
    let ctr := if f.type = 8 then ctrFloat else ctrInt
    let a (c : Ctx) (l : Nat) : Word := (typed (if f.type = 8 then .single else .plain) c.opA false c.srcA).at l
    Computes (.redux f) 0x144 f ctr notScalar
      (fun c _ x => ∃ l ls, lanesOf c.act = l :: ls ∧ x = (ls.map (a c)).foldl (reduceOp f) (a c l)) ∧
    Computes (.scan f) 0x145 f ctr notScalar
      (fun c l x => c.act.getLsbD l = true → l < 96 →
        x = ((lanesOf c.act).filter fun i => if f.x then decide (i < l) else decide (i ≤ l)).foldl (fun r i => reduceOp f r (a c i)) (reduceId f)) ∧
    (∀ (s : State) (c : Ctx), c.opD.isScalar = true →
      (Calm 0x144 f destName s c → exec (.redux f) s = .next (s.takeTrap c.k (c.illegalOperand 1))) ∧
      (Calm 0x145 f destName s c → exec (.scan f) s = .next (s.takeTrap c.k (c.illegalOperand 1)))) ∧
    ∀ i ∈ [Instr.redux f, .scan f], i.wellFormed = true → (f.type = 0 ∨ f.type = 4 ∨ f.type = 8) ∧ f.sel < (if f.type = 8 then 3 else 6) ∧
      (f.mode ≠ 0 → f.type = 8 ∧ f.sel = 0)

/-- 08, R199; 05, R107: `wrlane` writes A into lane B of D, a vector name or a predicate, where B names an active lane, and nothing elsewhere:
every other lane of D and every other register is as it was; q0 holds what was written in that lane and +0 in the others. A scalar D traps, and
so does a vector-valued A or B; with no lane active no register changes. -/
def Sys2Proof.Spec.partWriteLane : Prop :=
  ∀ (f : Fields) (s : State) (c : Ctx), Calm 0x147 f destName s c →
    let i := c.opD.index
    let hit (l : Nat) : Bool := decide (l = (xB c 0).toNat) && c.act.getLsbD l
    let uA : Prop := vectorValued c.g c.b c.opA = false
    let uB : Prop := vectorValued c.g c.b c.opB = false
    (c.opD.isScalar = false → uA → uB →
      ∃ t, exec (.wrlane f) s = .next t ∧ OnlyGroup c t ∧ OnlyResult c (after c t) ∧ OtherRegs c (after c t) ∧ (after c t).sat = c.g.sat ∧
        (c.any = false → t.launches = c.s.launches ∧ (after c t).vregs = c.g.vregs ∧ (after c t).preds = c.g.preds ∧ (after c t).q0 = c.g.q0 ∧
          (after c t).q1 = c.g.q1) ∧
        (c.any = true → Metered c ctrInt t ∧ (after c t).q1 = c.g.q0 ∧
          (∃ v, (after c t).q0 = some v ∧ v.vec = true ∧ ∀ l, l < c.g.width → v.at l = if hit l then xA c 0 else 0) ∧
          ∀ l, l < c.g.width → l < 96 →
            (c.opD.isVec = true → ((after c t).vreg i).vals.getD l 0 = if hit l then xA c 0 else (c.g.vreg i).vals.getD l 0) ∧
            (c.opD.isPred = true → ((after c t).pred (i - 16)).getLsbD l = if hit l then (xA c 0).getLsbD 0 else (c.g.pred (i - 16)).getLsbD l))) ∧
    (c.opD.isScalar = true → exec (.wrlane f) s = .next (s.takeTrap c.k (c.illegalOperand 1))) ∧
    (c.opD.isScalar = false → ¬uA → exec (.wrlane f) s = .next (s.takeTrap c.k (c.illegalOperand 2))) ∧
    (c.opD.isScalar = false → uA → ¬uB → exec (.wrlane f) s = .next (s.takeTrap c.k (c.illegalOperand 3)))

/-- 08, R200: the predicate operations act on bit 0 of their sources, each inverted where its bit of MODE is set; `pnot` inverts no source. None
takes a 32-bit immediate. -/
def Sys2Proof.Spec.partPredicateLogic : Prop :=
  ∀ f : Fields,
    let p (c : Ctx) (l : Nat) : Bool := (xA c l).getLsbD 0 != f.mode.testBit 0
    let q (c : Ctx) (l : Nat) : Bool := (xB c l).getLsbD 0 != f.mode.testBit 1
    Computes (.pand f) 0x150 f ctrInt always (fun c l x => x = if p c l ∧ q c l then 1 else 0) ∧
    Computes (.por f) 0x151 f ctrInt always (fun c l x => x = if p c l ∨ q c l then 1 else 0) ∧
    Computes (.pxor f) 0x152 f ctrInt always (fun c l x => x = if p c l = q c l then 0 else 1) ∧
    Computes (.pnot f) 0x153 f ctrInt always (fun c l x => x = if p c l then 0 else 1) ∧
    ((Instr.pnot f).wellFormed = true → f.mode = 0) ∧
    ∀ i ∈ [Instr.pand f, .por f, .pxor f, .pnot f], i.wellFormed = true → f.imm32 = false

/-- 08, R189, R190, Table 8.11: the special values of the special functions, and their exact results: a NaN gives the canonical NaN; `rcp` rounds
the exact reciprocal in the mode of RM; `exp2` of an integer from −149 to 127 is exact, overflows from 128 on and is +0 from −150 down; `log2` of a
power of two is exact. -/
def Sys2Proof.Spec.partSpecialValues : Prop :=
  ∀ (m : Sys2Proof.Float.Mode) (a : Nat), a < 2 ^ 32 →
    let v := Sys2Proof.Float.value Sys2Proof.Float.f32
    let nan := 0x7FC00000
    let all (r s q e l i o : Nat) : Prop := Sys2Proof.Float.rcp m a = r ∧ Sys2Proof.Float.rsqrt m a = s ∧ Sys2Proof.Float.sqrt m a = q ∧
      Sys2Proof.Float.exp2 a = e ∧ Sys2Proof.Float.log2 a = l ∧ Sys2Proof.Float.sin a = i ∧ Sys2Proof.Float.cos a = o
    (v a = .nan → all nan nan nan nan nan nan nan) ∧
    (v a = .inf true → all 0x80000000 nan nan 0 nan nan nan) ∧
    (a = 0x80000000 → all 0xFF800000 0xFF800000 0x80000000 0x3F800000 0xFF800000 0x80000000 0x3F800000) ∧
    (a = 0 → all 0x7F800000 0x7F800000 0 0x3F800000 0xFF800000 0 0x3F800000) ∧
    (v a = .inf false → all 0 0 0x7F800000 0x7F800000 0x7F800000 nan nan) ∧
    ∀ q, rat (v a) = some q →
      (q < 0 → Sys2Proof.Float.rsqrt m a = nan ∧ Sys2Proof.Float.sqrt m a = nan ∧ Sys2Proof.Float.log2 a = nan) ∧
      (q ≠ 0 → Rounded m Sys2Proof.Float.f32 (1 / q) (Sys2Proof.Float.rcp m a)) ∧
      (∀ n : Int, q = n → -149 ≤ n → n ≤ 127 → rat (v (Sys2Proof.Float.exp2 a)) = some ((2 : ℚ) ^ n)) ∧
      (128 ≤ q → Sys2Proof.Float.exp2 a = 0x7F800000) ∧ (q ≤ -150 → Sys2Proof.Float.exp2 a = 0) ∧
      (∀ n : Int, q = (2 : ℚ) ^ n → rat (v (Sys2Proof.Float.log2 a)) = some (n : ℚ)) ∧ (q = 1 → Sys2Proof.Float.log2 a = 0)

/-- 05, R105, R106, R111; 06, R131; 08, R189; 17, R382: a special function opens a lookahead window of LA instructions, which holds the result of every
active lane for D, what it adds to its counter, and the names that LAST frees when it closes; until then every register reads as before, D
among them. The results of `exp2`, `log2`, `sin` and `cos` outside the cases of R190 are those of the model's series: that they are the correctly
rounded values is DEDUCED (log 12). -/
def Sys2Proof.Spec.partSpecialWindows : Prop :=
  ∀ (f : Fields) (s : State) (c : Ctx),
    let m := Sys2Proof.Float.Mode.ofBits f.mode
    let i := c.opD.index
    let bare (w : Window) : Window := { w with remA := none, remB := none }
    let opens (i' : Instr) (opc : Nat) (op : Nat → Nat) : Prop :=
      Calm opc f destName s c → ∃ t ws d, exec i' s = .next t ∧ t = { c.s with groups := t.groups } ∧
        (∀ j, j ≠ c.k → t.groups.find? j = c.s.groups.find? j) ∧ OnlyResult c (after c t) ∧
        ws.map bare = c.g.windows.map bare ∧ (after c t).windows = ws ++ [
          { opc := opc, remA := (if c.b then none else some f.la.toNat), remB := (if c.b then some f.la.toNat else none), done := false, held := 0,
            dests := (if c.any then [d] else []), frees := lastFrees c,
            tally := [(ctrSpecial, if !c.any then 0 else if c.opD.isScalar then 1 else c.lanes)] }] ∧
        d.lanes = c.act ∧ d.poison = 0 ∧ (c.opD.isVec = true → d.name = .v i) ∧ (c.opD.isPred = true → d.name = .p (i - 16)) ∧
        (c.opD.isScalar = true → d.name = (if i < 64 then .s i else .special i) ∧ d.vals.getD 0 0 = BitVec.ofNat 32 (op (fA c 0))) ∧
        (c.opD.isScalar = false → ∀ l, c.act.getLsbD l = true → l < c.g.width → d.vals.getD l 0 = BitVec.ofNat 32 (op (fA c l))) ∧
        (after c t).vregs = c.g.vregs ∧ (after c t).sregs = c.g.sregs ∧ (after c t).preds = c.g.preds ∧ (after c t).q0 = c.g.q0 ∧
        (after c t).q1 = c.g.q1 ∧ (after c t).sat = c.g.sat ∧ (after c t).uflow = c.g.uflow ∧ (after c t).mflush = c.g.mflush ∧
        (after c t).mwrap = c.g.mwrap ∧ (after c t).spoison = c.g.spoison ∧ (after c t).latch = latched c (sourceHolds c) ∧
        (∀ n, n < 3 → (after c t).loops.getD n {} = nextLoops c n) ∧
        (after c t).slot c.b = { c.slot with pc := nextPc c } ∧ (after c t).slot (!c.b) = c.g.slot (!c.b)
    opens (.rcp f) 0x0E0 (Sys2Proof.Float.rcp m) ∧ opens (.rsqrt f) 0x0E1 (Sys2Proof.Float.rsqrt m) ∧ opens (.sqrt f) 0x0E2 (Sys2Proof.Float.sqrt m) ∧
    opens (.exp2 f) 0x0E3 Sys2Proof.Float.exp2 ∧ opens (.log2 f) 0x0E4 Sys2Proof.Float.log2 ∧ opens (.sin f) 0x0E5 Sys2Proof.Float.sin ∧
    opens (.cos f) 0x0E6 Sys2Proof.Float.cos

/-- 05, R95, R106; 06, R131; 08, R173: with no lane active these computing words, one or more of each shape, write no register and set no flag; the
slot goes on and takes the loop action, LAST frees its names, and HOLD pushes what it names. -/
def Obligations.NoLaneActive : Prop :=
  ∀ (f : Fields) (s : State) (c : Ctx), c.any = false →
    let idle (i : Instr) (opc : Nat) : Prop := Calm opc f destName s c → c.opD.isVec = true →
      ∃ t, exec i s = .next t ∧ t = { c.s with groups := t.groups } ∧ OnlyResult c (after c t) ∧
        (∀ n, n ∉ lastFrees c → (after c t).vregs.find? n = c.g.vregs.find? n) ∧ (∀ n, n ∈ lastFrees c → (after c t).vregs.find? n = none) ∧
        (after c t).sregs = c.g.sregs ∧ (after c t).preds = c.g.preds ∧ (after c t).sat = c.g.sat ∧ (after c t).spoison = c.g.spoison ∧
        (after c t).q0 = c.g.q0 ∧ (after c t).q1 = c.g.q1 ∧ (∀ n, n < 3 → (after c t).loops.getD n {} = nextLoops c n) ∧
        (after c t).latch = latched c (sourceHolds c ++ if c.opD.hold then [namedSource c.s (after c t) c.b c.opD] else []) ∧
        (after c t).slot c.b = { c.slot with pc := nextPc c }
    idle (.iadd f) 0x040 ∧ idle (.imin f) 0x049 ∧ idle (.iaddc f) 0x041 ∧ idle (.shl f) 0x054 ∧ idle (.mov f) 0x062 ∧
    idle (.fadd f) 0x0C0 ∧ idle (.hadd2 f) 0x0D0 ∧ idle (.shfl f) 0x140 ∧ idle (.redux f) 0x144 ∧ idle (.pand f) 0x150

/-- The logic and bit-field operations, and the logic of predicates: `Spec.partLogicAndBitFields`, `Spec.partPredicateLogic` (rules and tier in their docstrings). -/
def Obligations.LogicAndBitFields : Prop :=
  Sys2Proof.Spec.partLogicAndBitFields ∧ Sys2Proof.Spec.partPredicateLogic

/-- The lane permutations, and the write of one lane: `Spec.partCrossLane`, `Spec.partWriteLane` (rules and tier in their docstrings). -/
def Obligations.CrossLane : Prop :=
  Sys2Proof.Spec.partCrossLane ∧ Sys2Proof.Spec.partWriteLane

/-- What rounding to a format is: a value the format holds is kept, a directed mode rounds to its side, nearest rounds to the nearest value, and what an overflow gives: `Spec.partRoundingKeepsExactValues`, `Spec.partDirectedRounding`, `Spec.partNearestRounding`, `Spec.partOverflow` (rules and tier in their docstrings). -/
def Obligations.Rounding : Prop :=
  Sys2Proof.Spec.partRoundingKeepsExactValues ∧ Sys2Proof.Spec.partDirectedRounding ∧ Sys2Proof.Spec.partNearestRounding ∧ Sys2Proof.Spec.partOverflow

/-- The reductions: their operations and identities, and `redux` and `scan`: `Spec.partReductionOperations`, `Spec.partReductions` (rules and tier in their docstrings). -/
def Obligations.Reductions : Prop :=
  Sys2Proof.Spec.partReductionOperations ∧ Sys2Proof.Spec.partReductions

/-- The special functions: their special values, and the window that holds a result: `Spec.partSpecialValues`, `Spec.partSpecialWindows` (rules and tier in their docstrings). -/
def Obligations.SpecialFunctions : Prop :=
  Sys2Proof.Spec.partSpecialValues ∧ Sys2Proof.Spec.partSpecialWindows

/-! # Operands (05) -/

/-- The lane that lane `l` of a source reads, by its PERM, the width and AUX (05, Table 5.6). -/
def Sys2Proof.Spec.fromLane (perm width aux l : Nat) : Nat :=
  if perm = 0 then l
  else if perm ≤ 6 then Nat.xor l (2 ^ (perm - 1))
  else if perm = 7 then 8 * (l / 8) + (l + 1) % 8
  else if perm = 8 then 8 * (l / 8) + (l + 7) % 8
  else if perm = 9 then 32 * (l / 32) + 31 - l % 32
  else if perm = 10 then width - 1 - l
  else if perm = 11 then aux % 128
  else 0

/-- 05, R97–R101, R104–R107, Tables 5.3 to 5.6; 04, R76; 07, R161; 15, R338: what a source reads. Lane l of a vector value reads the lane its PERM
names: +0 from beyond the group, and for a vector name or a predicate from an exited lane; a uniform value is every lane's. A vector name that no
write mapped is +0; p7 is 1; h0 to h2, q0 and q1 give what they hold, +0 where they were never written; s60 to s62 are the active mask; the special
registers are those of Table 5.5; an immediate is the signed INDEX, in a floating type its exact value, in a packed type in each element. A word that
is reissued reads what it captured. That an empty q0 or q1 is uniform is the model's choice (log 101), and so is the 0 of `spbase1` for a paired team without
scratchpad (log 103). -/
def Sys2Proof.Spec.partSources : Prop :=
  ∀ (opc : Nat) (f : Fields) (s : State) (c : Ctx), s.ctx opc f = some c → c.g.width ≤ 96 →
    let o := c.opA
    let i := o.index
    let lanes (named : Bool) (v : Nat → Word) : Prop := ∀ l, l < c.g.width →
      let p := fromLane o.perm c.g.width f.aux.toNat l
      xA c l = if c.g.width ≤ p ∨ (named = true ∧ c.g.exited.getLsbD p = true) then 0 else v p
    let held (v : Value) (named : Bool) : Prop := if v.vec then lanes named v.at else ∀ l, xA c l = v.at 0
    let each (x : Word) : Prop := ∀ l, xA c l = x
    let pair (x n : Nat) : Prop := (i = n → each (BitVec.ofNat 32 x)) ∧ (i = n + 1 → each (BitVec.ofNat 32 (x / 2 ^ 32)))
    let mine (x : Nat → Nat) (p : Nat) : Word := if c.record.pop = true ∧ c.g.exited.getLsbD p = false then BitVec.ofNat 32 (x p) else 0
    (∀ x v, c.g.captured c.b = some x → x.vals.find? o.key = some v → held v (o.isVec || o.isPred)) ∧
    (c.g.captured c.b = none →
      (o.cls = 0 → (∀ r, c.g.vregs.find? i = some r → lanes true fun p => r.vals.getD p 0) ∧ (c.g.vregs.find? i = none → lanes true fun _ => 0)) ∧
      (o.cls = 1 →
        (i ≤ 2 → ∀ e, c.g.latch[i]? = some e → e.age ≠ 0 → e.slotB = c.b → held e.value false) ∧
        (i = 8 → (∀ v, c.g.q0 = some v → held v false) ∧ (c.g.q0 = none → each 0)) ∧
        (i = 9 → (∀ v, c.g.q1 = some v → held v false) ∧ (c.g.q1 = none → each 0)) ∧
        (16 ≤ i → i < 23 → lanes true fun p => if (c.g.preds.getD (i - 16) 0).getLsbD p then 1 else 0) ∧ (i = 23 → lanes true fun _ => 1)) ∧
      (o.cls = 2 →
        (i < 60 ∨ i = 63 → each (c.g.sregs.getD i 0)) ∧ (60 ≤ i → i ≤ 62 → each (BitVec.ofNat 32 (c.slot.active.toNat / 2 ^ (32 * (i - 60))))) ∧
        (i = 64 → lanes false fun p => BitVec.ofNat 32 p) ∧ (i = 65 → lanes false (mine fun p => c.g.slotNo.getD p 0)) ∧
        (i = 66 → lanes false (mine fun p => c.g.lin.getD p 0)) ∧ (i = 67 → lanes false (mine fun p => c.g.lin.getD p 0 / 2 ^ 32)) ∧
        (i = 68 → lanes false (mine fun p => c.g.par.getD p 0)) ∧ (i = 69 → lanes false (mine fun p => c.g.par.getD p 0 / 2 ^ 32)) ∧
        (i = 70 → lanes false (mine fun p => c.g.ord.getD p 0)) ∧
        (i = 72 → each (BitVec.ofNat 32 c.g.grpid)) ∧ (i = 73 → each (BitVec.ofNat 32 c.team.teamid)) ∧
        (i = 74 → each (BitVec.ofNat 32 c.g.width)) ∧ (i = 75 → each (BitVec.ofNat 32 c.record.teams)) ∧
        pair c.record.kimg 76 ∧ pair c.record.param 78 ∧ (i = 80 → each (BitVec.ofNat 32 (c.team.core % 48 * 2 ^ 19 + c.team.spOff0))) ∧
        (i = 81 → each (if c.record.span = true ∧ c.team.spLen ≠ 0 then BitVec.ofNat 32 ((c.team.core % 48 + 1) * 2 ^ 19 + c.team.spOff1) else 0)) ∧
        pair c.g.cycle 82 ∧ (84 ≤ i → i ≤ 86 → each (c.g.loops.getD (i - 84) {}).count) ∧ (i = 87 → each (if c.g.sat then 1 else 0)) ∧
        (i = 88 → each c.g.uflow) ∧ (i = 89 → each c.g.mflush) ∧ (i = 90 → each c.g.mwrap) ∧ (i = 91 → each (BitVec.ofNat 32 c.g.core))) ∧
      (o.cls = 3 →
        let n : Int := if i < 128 then i else i - 256
        ∀ l, sv (xA c l) = n ∧ rat (Sys2Proof.Float.value Sys2Proof.Float.f32 (fA c l)) = some (n : ℚ) ∧
          (∀ k, k < 2 → f.type = 9 ∨ f.type = 10 → rat (Sys2Proof.Float.value (Sys2Proof.Float.ofType f.type) (hA c k l)) = some (n : ℚ)) ∧
          ∀ t ∈ [0, 1, 2, 4, 5, 6], ∀ k, k < 32 / tw t →
            ev t ((typed (.packed t) o false c.srcA).at l) k = if t < 4 then n else n % 2 ^ tw t))

/-- 05, R106, R108, R109: a read of a latch entry that was never pushed, that the slot pushed more than two instructions ago or that the other slot
pushed traps, and with both slots live so do every HOLD bit and every read of h0 to h2, q0 and q1. -/
def Sys2Proof.Spec.partLatchTraps : Prop :=
  ∀ (f : Fields) (s : State) (c : Ctx), s.ctx 0x040 f = some c → Forms.check 0x040 f = none →
    c.opD.isVec = true → c.opD.index < c.record.vregs → c.opD.perm = 0 → c.opD.last = false → c.opD.hold = false →
    (c.opA.cls = 1 ∧ c.opA.index ≤ 2 ∧ (∀ e, c.g.latch[c.opA.index]? = some e → e.age = 0 ∨ e.slotB ≠ c.b)) ∨
      (c.g.bothLive = true ∧ (c.opA.hold = true ∨ (c.opA.cls = 1 ∧ c.opA.index ≤ 9))) →
    exec (.iadd f) s = .next (s.takeTrap c.k (c.illegalOperand 2))

/-- 05, R95, R106, R111: a never-execute word, GRD 0xF, of an arithmetic, cross-lane, memory, control, synchronising or system form changes no register,
latch entry, mapping, byte or counter: the slot goes on and takes the loop action, its older latch entries are one instruction older, and its
windows count one issue. -/
def Sys2Proof.Spec.partNeverExecute : Prop :=
  ∀ (f : Fields) (s : State) (c : Ctx), f.never = true →
    ∀ i opc own, (i, opc, own) ∈ [(Instr.iadd f, 0x040, noOperands), (.fadd f, 0x0C0, noOperands), (.shfl f, 0x140, noOperands),
        (.ld f, 0x1C0, loadOperands), (.st f, 0x1C1, storeOperands), (.bra f, 0x002, noOperands), (.call f, 0x005, noOperands),
        (.exit f, 0x008, noOperands), (.fence f, 0x240, noOperands), (.red f, 0x243, redOperands), (.trap f, 0x2C0, noOperands),
        (.halt f, 0x2E0, noOperands)] →
      s.ctx opc f = some c → formTrap c own = none → endMisuse c.g opc c.pc = false → s.tracer c.g = none → c.g.ended = false →
      (∀ w ∈ c.g.windows, w.done = false) → c.g.captured c.b = none →
      ∃ t, exec i s = .next t ∧ t = { c.s with groups := t.groups } ∧ (∀ j, j ≠ c.k → t.groups.find? j = c.s.groups.find? j) ∧
        OnlyResult c (after c t) ∧ (after c t).vregs = c.g.vregs ∧ (after c t).sregs = c.g.sregs ∧ (after c t).preds = c.g.preds ∧
        (after c t).spoison = c.g.spoison ∧ (after c t).q0 = c.g.q0 ∧ (after c t).q1 = c.g.q1 ∧ (after c t).sat = c.g.sat ∧
        (after c t).uflow = c.g.uflow ∧ (after c t).mflush = c.g.mflush ∧ (after c t).mwrap = c.g.mwrap ∧
        (after c t).latch = latched c [] ∧ (∀ n, n < 3 → (after c t).loops.getD n {} = nextLoops c n) ∧
        (after c t).windows = c.g.windows.map (fun w => if w.frozen then w
          else if c.b then { w with remB := w.remB.map (· - 1) } else { w with remA := w.remA.map (· - 1) }) ∧
        (after c t).slot c.b = { c.slot with pc := nextPc c } ∧ (after c t).slot (!c.b) = c.g.slot (!c.b)

/-- What a source reads, when the operand latch may be read, and that a never-execute word has no effect: `Spec.partSources`, `Spec.partLatchTraps`, `Spec.partNeverExecute` (rules and tier in their docstrings). -/
def Obligations.SourceOperands : Prop :=
  Sys2Proof.Spec.partSources ∧ Sys2Proof.Spec.partLatchTraps ∧ Sys2Proof.Spec.partNeverExecute

namespace Sys2Proof.Spec

open Sys2Proof.Machine

/-! ## Control -/

/-- In the group, only what a control word may change has changed: the slots, the stack, the loop levels, freed names, the
latch, the last-result file, the windows, and the marks of an issue. -/
def OnlyPath (c : Ctx) (g : Group) : Prop :=
  g = { c.g with vregs := g.vregs, latch := g.latch, q0 := g.q0, q1 := g.q1, windows := g.windows, stack := g.stack, loops := g.loops,
                 slotA := g.slotA, slotB := g.slotB, lastB := c.b, issued := true,
                 issuedAt := some c.s.now, went := true, stall := 0, spill := .none, granted := 0 }

/-- No vector name has changed but those that LAST frees, which are unmapped (05, R105). -/
def OnlyFreed (c : Ctx) (g : Group) : Prop :=
  (∀ n, n ∉ lastFrees c → g.vregs.find? n = c.g.vregs.find? n) ∧ ∀ n, n ∈ lastFrees c → g.vregs.find? n = none


/-- The word has issued and the issuing slot is `p`, the loop levels are `L` and the stack is `st`; of the machine, nothing else
has changed but what every issued word changes: no byte of memory, no register, no metering counter. -/
structure Goes (c : Ctx) (t : State) (p : PcSlot) (L : Nat → LoopLevel) (st : List StackEntry) : Prop where
  machine : t = { c.s with groups := t.groups }
  others  : ∀ j, j ≠ c.k → t.groups.find? j = c.s.groups.find? j
  group   : OnlyPath c (after c t)
  regs    : OnlyFreed c (after c t)
  files   : (after c t).q0 = c.g.q0 ∧ (after c t).q1 = c.g.q1
  slot    : (after c t).slot c.b = p
  other   : (after c t).slot (!c.b) = c.g.slot (!c.b)
  loops   : ∀ n, n < 3 → (after c t).loops.getD n {} = L n
  stack   : (after c t).stack = st

/-- A target that does not leave the body of the innermost open loop (06, R132). -/
def stays (c : Ctx) (x : Word) : Prop :=
  ∀ n l, innermost c.g = some (n, l) → c.g.inh = false → l.start.toNat ≤ c.pc.toNat → c.pc.toNat ≤ l.stop.toNat →
    l.start.toNat ≤ x.toNat ∧ x.toNat ≤ l.stop.toNat

/-- The next PC plus a count of instructions (06, R134). -/
def instrs (c : Ctx) (n : Int) : Word := w32 (uv c.pc + 12 * n)

/-- The slot of a path, and the pending entry of one (06, R123). -/
def pathSlot (c : Ctx) (r : Word) (x : Word × LaneMask) : PcSlot :=
  { pc := x.1, rpc := r, fmt := c.slot.fmt, active := x.2, owned := x.2 }
def pathEntry (c : Ctx) (r : Word) (x : Word × LaneMask) : StackEntry :=
  { kind := .pending, tag := if c.b then .slotB else .slotA, fmt := c.slot.fmt, rpc := r, pc := x.1, mask := x.2 }

/-- How many entries a divergence into paths `p`, `q` and `ps` pushes (06, R123). -/
def pushed (c : Ctx) (ps : List (Word × LaneMask)) : Nat := if (c.g.slot (!c.b)).vacant then 1 + ps.length else 2 + ps.length

/-- The issuing slot has diverged into the paths `p`, `q` and `ps`, in the order of their lowest lanes, with reconvergence
PC `r` (06, R123; 05, R108). -/
structure Splits (c : Ctx) (t : State) (p q : Word × LaneMask) (ps : List (Word × LaneMask)) (r : Word) : Prop where
  machine : t = { c.s with groups := t.groups }
  others  : ∀ j, j ≠ c.k → t.groups.find? j = c.s.groups.find? j
  group   : OnlyPath c (after c t)
  regs    : OnlyFreed c (after c t)
  loops   : ∀ n, n < 3 → (after c t).loops.getD n {} = keepLoops c n
  first   : (after c t).slot c.b = pathSlot c r p
  second  : (c.g.slot (!c.b)).vacant = true →
    (after c t).slot (!c.b) = pathSlot c r q ∧ (after c t).latch = [] ∧ (after c t).q0 = none ∧ (after c t).q1 = none ∧
    (after c t).stack = ps.map (pathEntry c r) ++
      { kind := .join, tag := .group, fmt := c.slot.fmt, rpc := c.slot.rpc, pc := r, mask := c.slot.owned } :: c.g.stack
  third   : (c.g.slot (!c.b)).vacant = false →
    (after c t).slot (!c.b) = c.g.slot (!c.b) ∧ (after c t).q0 = c.g.q0 ∧ (after c t).q1 = c.g.q1 ∧
    (after c t).stack = (q :: ps).map (pathEntry c r) ++
      { kind := .join, tag := if c.b then .slotB else .slotA, fmt := c.slot.fmt, rpc := c.slot.rpc, pc := r, mask := c.slot.owned } ::
        c.g.stack

end Sys2Proof.Spec

/-! # Control (06) -/

/-- 06, R135, R144–R146, R127; 05, R98, R107: `nop` has no effect; `yield` holds its slot from now on, the other groups of its scheduler's active
set noted; `setfmt` writes its immediate or the value of a uniform A to the slot's format register with the reserved bits 0; `wrmask` makes the
slot's active mask a predicate as its A reads it, or its meet with the mask, within the owned set, and every owned lane where none is left; `getfmt` gives the format
register to a vector name, q0 or one of s0 to s59, and with no lane active to none. A vector-valued A of `setfmt`, an A of `wrmask` that is no
predicate and any other D of `getfmt` trap. -/
def Obligations.FormatAndMaskWords : Prop :=
  ∀ (f : Fields) (s : State) (c : Ctx),
    let reads : Prop := c.opD.isVec = true ∨ c.opD.isQ0 = true ∨ c.opD.isScalar = true ∧ c.opD.index ≤ 59
    (Calm 0x001 f noNames s c → ∃ t, exec (.nop f) s = .next t ∧ Goes c t { c.slot with pc := nextPc c } (nextLoops c) c.g.stack) ∧
    (Calm 0x00B f noNames s c → ∃ t, exec (.yield f) s = .next t ∧
      Goes c t { c.slot with pc := nextPc c, yieldAt := some c.s.now,
                             yieldFor := ((c.s.sched c.g.core c.g.sched).active.map fun x => x.group).filter fun j => j != c.k } (nextLoops c) c.g.stack) ∧
    (Calm 0x00C f noNames s c →
      (f.imm32 = true ∨ vectorValued c.g c.b c.opA = false → ∃ t, exec (.setfmt f) s = .next t ∧
        Goes c t { c.slot with pc := nextPc c, fmt := (if f.imm32 then f.immediate else xA c 0) &&& 0x0FFF1FFF } (nextLoops c) c.g.stack) ∧
      (f.imm32 = false → vectorValued c.g c.b c.opA = true → exec (.setfmt f) s = .next (s.takeTrap c.k (c.illegalOperand 2)))) ∧
    (Calm 0x00E f noNames s c →
      (c.opA.isPred = true → ∃ t, exec (.wrmask f) s = .next t ∧
        let p := maskOf c.g.width (fun l => (xA c l).getLsbD 0) &&& c.slot.owned
        let m := if f.fn = 0 then p else p &&& c.slot.active
        Goes c t { c.slot with pc := nextPc c, active := if m = 0 then c.slot.owned else m } (nextLoops c) c.g.stack) ∧
      (c.opA.isPred = false → exec (.wrmask f) s = .next (s.takeTrap c.k (c.illegalOperand 2)))) ∧
    (Calm 0x00D f destName s c →
      (reads → c.any = true → ∃ t, exec (.getfmt f) s = .next t ∧ Given c t (fun _ => c.slot.fmt) ∧ (after c t).sat = c.g.sat ∧
        t.launches = c.s.launches) ∧
      (reads → c.any = false → ∃ t, exec (.getfmt f) s = .next t ∧ Goes c t { c.slot with pc := nextPc c } (nextLoops c) c.g.stack) ∧
      (¬reads → exec (.getfmt f) s = .next (s.takeTrap c.k (c.illegalOperand 1))))

/-- 06, R136, R137, R123: `bra` goes to its target; `brc` goes to PC + 12 with no lane taken, to its target with every owned
lane taken, and else diverges into the two paths, the one with the lowest lane first. -/
def Sys2Proof.Spec.partBranches : Prop :=
  ∀ (f : Fields) (s : State) (c : Ctx),
    let T := instrs c f.aux.toInt
    let R := instrs c f.b.toInt
    let rest := c.slot.owned &&& ~~~c.act
    (Calm 0x002 f noNames s c → stays c T → ∃ t, exec (.bra f) s = .next t ∧
      Goes c t { c.slot with pc := T } (keepLoops c) c.g.stack) ∧
    (Calm 0x003 f noNames s c → c.act &&& ~~~c.slot.owned = 0 →
      (c.any = false → c.g.depth ≤ 4 + c.record.stackN → ∃ t, exec (.brc f) s = .next t ∧
        Goes c t { c.slot with pc := c.pc + 12 } (keepLoops c) c.g.stack) ∧
      (c.any = true → stays c T → rest = 0 ∨ (T = c.pc + 12 ∧ f.bh ≠ 3) → c.g.depth ≤ 4 + c.record.stackN →
        ∃ t, exec (.brc f) s = .next t ∧ Goes c t { c.slot with pc := T } (keepLoops c) c.g.stack) ∧
      (c.any = true → stays c T → rest ≠ 0 → T ≠ c.pc + 12 → f.bh ≠ 3 → c.g.depth + pushed c [] ≤ 4 + c.record.stackN →
        c.g.stack.length + pushed c [] ≤ 4 → ∃ t p q, exec (.brc f) s = .next t ∧ Splits c t p q [] R ∧
          (∀ l, (∀ i, i < l → c.slot.owned.getLsbD i = false) → c.slot.owned.getLsbD l = true →
            if c.act.getLsbD l then p = (T, c.act) ∧ q = (c.pc + 12, rest) else p = (c.pc + 12, rest) ∧ q = (T, c.act))))

/-- 06, R138, R123: `brx` sends every active lane to its own target and the other owned lanes to PC + 12; one path is a jump,
more diverge. -/
def Sys2Proof.Spec.partIndexedBranches : Prop :=
  ∀ (f : Fields) (s : State) (c : Ctx), Calm 0x004 f noNames s c →
    let R := instrs c f.b.toInt
    let paths := pathsOf c.slot.owned fun l => if c.act.getLsbD l then xA c l else c.pc + 12
    (∀ l, c.act.getLsbD l = true → (xA c l).toNat % 12 = 0 ∧ stays c (xA c l)) →
    (∀ p, paths = [p] → c.g.depth ≤ 4 + c.record.stackN → ∃ t, exec (.brx f) s = .next t ∧
      Goes c t { c.slot with pc := p.1 } (keepLoops c) c.g.stack) ∧
    (∀ p q ps, paths = p :: q :: ps → f.bh ≠ 3 → c.g.depth + pushed c ps ≤ 4 + c.record.stackN →
      c.g.stack.length + pushed c ps ≤ 4 → ∃ t, exec (.brx f) s = .next t ∧ Splits c t p q ps R)

/-- 06, R123, step 1: the paths of a branch are the sets of lanes with a common next PC: every owned lane stands in exactly the
path of its next PC, no two paths have one PC, none is empty, and they stand in the order of their lowest lanes. -/
def Sys2Proof.Spec.partPathsOfABranch : Prop :=
  ∀ (owned : LaneMask) (next : Nat → Word),
    let ps := pathsOf owned next
    let lowest (m : LaneMask) (l : Nat) : Prop := m.getLsbD l = true ∧ ∀ i, i < l → m.getLsbD i = false
    (ps.map (·.1)).Nodup ∧ (∀ p ∈ ps, ∀ l, p.2.getLsbD l = (owned.getLsbD l && decide (next l = p.1))) ∧
    (∀ l, owned.getLsbD l = true → ∃ p ∈ ps, p.1 = next l) ∧ (∀ p ∈ ps, p.2 ≠ 0) ∧
    ps.Pairwise fun p q => ∀ i j, lowest p.2 i → lowest q.2 j → i < j

/-- 06, R124, R139, R140: `call` and `callx` push a return entry with PC + 12, the slot's owned set and its RPC, and go to their target
with RPC NONE; `ret` pops the slot's return entry and takes its PC, its RPC and its lanes that have not exited, and with none left
the slot waits to arrive (R124). -/
def Obligations.CallsAndReturns : Prop :=
  ∀ (f : Fields) (s : State) (c : Ctx),
    let entry : StackEntry :=
      { kind := .ret, tag := if c.b then .slotB else .slotA, fmt := 0, rpc := c.slot.rpc, pc := c.pc + 12, mask := c.slot.owned }
    let room : Prop := c.g.depth + 1 ≤ 4 + c.record.stackN ∧ c.g.stack.length < 4
    (Calm 0x005 f noNames s c → room → ∃ t, exec (.call f) s = .next t ∧
      Goes c t { c.slot with pc := instrs c f.aux.toInt, rpc := 0xFFFFFFFF } (keepLoops c) (entry :: c.g.stack)) ∧
    (Calm 0x006 f noNames s c → room → vectorValued c.g c.b c.opA = false → (xA c 0).toNat % 12 = 0 → ∃ t, exec (.callx f) s = .next t ∧
      Goes c t { c.slot with pc := xA c 0, rpc := 0xFFFFFFFF } (keepLoops c) (entry :: c.g.stack)) ∧
    (Calm 0x007 f noNames s c → ∀ i e, topEntry c.s c.g c.b = some (i, some e) → e.kind = .ret → i < c.g.stack.length →
      1 < c.g.stack.length ∨ c.g.deep = 0 → (∀ l ∈ c.g.loops, l.opened = true → l.depth < c.g.depth) → ∃ t, exec (.ret f) s = .next t ∧
      let m := e.mask &&& c.g.liveLanes
      Goes c t { c.slot with pc := e.pc, rpc := e.rpc, owned := m, active := m, join := m == 0 }
        (keepLoops c) (c.g.stack.eraseIdx i))

/-- 06, R130–R132, R142, R143: `loop` opens the lowest closed level with its count, START, END and DEPTH, or with count 0 goes past
the body; `lbrk` in every active lane closes the innermost level and goes past END, in none it does nothing; at END `nop`, `yield` and the
computing words, of which four stand here and the others say it through `Spec.Given`, count the level down and go back to START, and at count 1
close it and go past END. -/
def Obligations.Loops : Prop :=
  ∀ (f : Fields) (s : State) (c : Ctx),
    (Calm 0x009 f noNames s c → vectorValued c.g c.b c.opA = false → c.g.inh = false → c.g.live true = false →
      f.fn.toNat < 3 → (∀ m, m < f.fn.toNat → (keepLoops c m).opened = true) → (keepLoops c f.fn.toNat).opened = false →
      (xA c 0 = 0 → ∃ t, exec (.loop f) s = .next t ∧ Goes c t { c.slot with pc := instrs c (f.aux.toNat + 1) } (keepLoops c) c.g.stack) ∧
      (xA c 0 ≠ 0 → ∃ t, exec (.loop f) s = .next t ∧ Goes c t { c.slot with pc := c.pc + 12 }
        (fun n => if n = f.fn.toNat then { opened := true, count := xA c 0, start := c.pc + 12, stop := instrs c f.aux.toNat, depth := c.g.depth }
                  else keepLoops c n) c.g.stack)) ∧
    (Calm 0x00A f noNames s c → c.g.inh = false → c.g.live true = false → ∀ n l, innermost c.g = some (n, l) → c.g.depth = l.depth →
      (c.any = false → ∃ t, exec (.lbrk f) s = .next t ∧ Goes c t { c.slot with pc := c.pc + 12 } (keepLoops c) c.g.stack) ∧
      (c.any = true → c.act = c.slot.active → ∃ t, exec (.lbrk f) s = .next t ∧
        Goes c t { c.slot with pc := l.stop + 12 } (fun m => if m = n then {} else keepLoops c m) c.g.stack)) ∧
    ∀ n l, loopAt c.g c.pc = some (n, l) →
      let pc := if 1 < l.count.toNat then l.start else l.stop + 12
      let L (m : Nat) : LoopLevel := if m = n then (if 1 < l.count.toNat then { l with count := l.count - 1 } else {}) else keepLoops c m
      (Calm 0x001 f noNames s c → ∃ t, exec (.nop f) s = .next t ∧ Goes c t { c.slot with pc := pc } L c.g.stack) ∧
      (Calm 0x00B f noNames s c → ∃ t, exec (.yield f) s = .next t ∧ ((after c t).slot c.b).pc = pc ∧ ∀ m, m < 3 → (after c t).loops.getD m {} = L m) ∧
      ∀ i opc, (i, opc) ∈ [(Instr.iadd f, 0x040), (.mov f, 0x062), (.fadd f, 0x0C0), (.pand f, 0x150)] → Calm opc f destName s c →
        ∃ t, exec i s = .next t ∧ ((after c t).slot c.b).pc = pc ∧ ∀ m, m < 3 → (after c t).loops.getD m {} = L m

/-- 06, R128, R141: the active lanes of `exit` leave the slot's masks for good, parked lanes come back where none is left active,
and open windows drop what they hold for them under a vector name or a predicate; with no active lane it does nothing. The last lanes of a group with nothing on
its stack leave the group without a path. -/
def Obligations.Exits : Prop :=
  ∀ (f : Fields) (s : State) (c : Ctx), Calm 0x008 f noNames s c →
    (c.any = false → ∃ t, exec (.exit f) s = .next t ∧ Goes c t { c.slot with pc := c.pc + 12 } (keepLoops c) c.g.stack) ∧
    (c.any = true → c.g.inh = false →
      let owned := c.slot.owned &&& ~~~c.act
      let left := c.slot.active &&& ~~~c.act
      let gone (t : State) : Prop := t = { c.s with groups := t.groups } ∧ (∀ j, j ≠ c.k → t.groups.find? j = c.s.groups.find? j) ∧
        (after c t).exited = c.g.exited ||| c.act ∧ (after c t).vregs = c.g.vregs ∧ (after c t).sregs = c.g.sregs ∧
        (after c t).preds = c.g.preds ∧ (after c t).slot (!c.b) = c.g.slot (!c.b) ∧ (after c t).stack = c.g.stack ∧
        (after c t).windows.length = c.g.windows.length ∧
        ∀ w ∈ (after c t).windows, ∀ d ∈ w.dests, (∃ n, d.name = .v n ∨ d.name = .p n) → d.lanes &&& c.act = 0
      (owned ≠ 0 → ∃ t, exec (.exit f) s = .next t ∧ gone t ∧
        (after c t).slot c.b = { c.slot with pc := c.pc + 12, owned := owned, active := if left = 0 then owned else left }) ∧
      (owned = 0 → c.g.stack = [] → c.g.deep = 0 → (c.g.slot (!c.b)).vacant = true → c.record.pop = false →
        ∃ t, exec (.exit f) s = .next t ∧ gone t ∧ (after c t).slot c.b = {}))

/-- Branches: plain, conditional, and by a target in every lane, and the paths they part into: `Spec.partBranches`, `Spec.partIndexedBranches`, `Spec.partPathsOfABranch` (rules and tier in their docstrings). -/
def Obligations.Branches : Prop :=
  Sys2Proof.Spec.partBranches ∧ Sys2Proof.Spec.partIndexedBranches ∧ Sys2Proof.Spec.partPathsOfABranch

namespace Sys2Proof.Spec

open Sys2Proof.Machine

/-! ## Words that act outside their group -/

/-- The group has moved past the word, which gave no register a value: freed names apart its registers stand, and the issuing
slot is at its next PC. -/
structure Passes (c : Ctx) (t : State) : Prop where
  group : OnlyPath c (after c t)
  regs  : OnlyFreed c (after c t)
  files : (after c t).q0 = c.g.q0 ∧ (after c t).q1 = c.g.q1
  slot  : (after c t).slot c.b = { c.slot with pc := nextPc c }
  other : (after c t).slot (!c.b) = c.g.slot (!c.b)
  loops : ∀ n, n < 3 → (after c t).loops.getD n {} = nextLoops c n
  stack : (after c t).stack = c.g.stack

/-- What a group keeps when an instruction acts on nothing but state that the statement names: its registers and its mask. -/
structure KeepsGroup (c : Ctx) (t : State) : Prop where
  vecs  : (after c t).vregs = c.g.vregs
  regs  : (after c t).sregs = c.g.sregs ∧ (after c t).preds = c.g.preds ∧ (after c t).sat = c.g.sat
  slot  : (after c t).slot c.b = { c.slot with pc := nextPc c }
  other : (after c t).slot (!c.b) = c.g.slot (!c.b)
  stack : (after c t).stack = c.g.stack

/-- The group has moved past a long-latency word, whose window `w` stands open last: LA instructions of the slot may still issue,
nothing is delivered yet, and what LAST names is freed at its close (05, R105, R111). -/
structure Opens (c : Ctx) (t : State) (w : Window) : Prop where
  group : OnlyPath c (after c t)
  regs  : (after c t).vregs = c.g.vregs
  files : (after c t).q0 = c.g.q0 ∧ (after c t).q1 = c.g.q1
  slot  : (after c t).slot c.b = { c.slot with pc := nextPc c }
  other : (after c t).slot (!c.b) = c.g.slot (!c.b)
  loops : ∀ n, n < 3 → (after c t).loops.getD n {} = nextLoops c n
  stack : (after c t).stack = c.g.stack
  last  : (after c t).windows.getLast? = some w ∧ (after c t).windows.length = c.g.windows.length + 1
  word  : w.opc = c.opc ∧ (if c.b then w.remB else w.remA) = some c.f.la.toNat ∧ w.frees = lastFrees c
  still : w.done = false ∧ w.held = 0 ∧ w.pend = 0

/-- The group stands at the word and waits, for stall reason `n`. -/
def StandsAt (c : Ctx) (t : State) (w : Wait) (n : Nat) : Prop :=
  after c t = { c.g with wait := w, waitOpc := c.opc, waitWord := c.f, waitB := c.b, stall := n }

/-- No other group has changed. -/
def Alone (c : Ctx) (t : State) : Prop := ∀ j, j ≠ c.k → t.groups.find? j = c.s.groups.find? j

/-- No other group has changed but for a wake-up of its wait (12, R288). -/
def OnlyWoken (c : Ctx) (t : State) : Prop := ∀ j, j ≠ c.k → t.group j = { c.s.group j with wait := (t.group j).wait }

/-- The amounts `ns`, each a counter and a number, were added to the group's launch; nothing else of any launch has changed
(17, R381, R382). -/
def Counted (c : Ctx) (t : State) (ns : List (Nat × Nat)) : Prop :=
  (∀ l, t.launch l = { c.s.launch l with ctrs := (t.launch l).ctrs }) ∧
  ((c.s.func (c.s.vmidFunc c.launch.vmid)).stopped = false → ∀ i, i < 63 →
    let n := ((ns.filter fun x => x.1 == i).map (·.2)).sum
    (t.launch c.launchKey).ctrs.getD i 0 =
      if n = 0 then c.launch.ctrs.getD i 0 else min (c.launch.ctrs.getD i 0 + n) (2 ^ 64 - 1))

/-- The bytes of a memory over which cells are laid, the later over the earlier. -/
def overlay (cells : List Host.Cell) (old : Nat → Byte) (a : Nat) : Byte :=
  ((cells.reverse.find? fun x => x.1 == a).map (·.2)).getD (old a)

/-- The core the group runs on. -/
def here (c : Ctx) : Core := c.s.core c.g.core

/-- Groups act as a whole: converged, with every active lane taken (12, R281). -/
def Whole (c : Ctx) : Prop := converged c.g = true ∧ c.act = c.slot.active

/-! ## Tiles -/

/-- The tile may be used now: it is free or the team's own, and no earlier entry of the matrix queue names it (09, R203,
R204). -/
def TileReady (c : Ctx) (n : Nat) : Prop :=
  ((tileOf c.s c.g.core n).owner = none ∨ (tileOf c.s c.g.core n).owner = some c.g.team) ∧
  ∀ e ∈ (here c).mq, e.tile = n → e.opc = 0x18B ∧ e.group = c.k

/-- The element of the view that a lane of `accrd` or `accwr` names, `T` the transposed one (09, R219). -/
def accCell (c : Ctx) (l : Nat) : Option Nat :=
  let e := (xB c 0).toNat * c.g.width + l
  if 8192 ≤ e then none else some (if c.f.fn.toNat.testBit 3 then e % 64 * 128 + e / 64 else e)

/-- Of the machine, only the group, its core's tiles and counters have changed, and of the tiles only tile `n`. -/
def OnlyTile (c : Ctx) (t : State) (n : Nat) : Prop :=
  t = { c.s with groups := t.groups, cores := t.cores, launches := t.launches } ∧ Alone c t ∧
  (∀ j, j ≠ c.g.core → t.core j = c.s.core j) ∧ t.core c.g.core = { here c with tiles := (t.core c.g.core).tiles } ∧
  ∀ m, m ≠ n → tileOf t c.g.core m = tileOf c.s c.g.core m

/-! ## Where lanes reach -/

/-- The lanes whose access is made: one where D is a scalar that is written (11, R243). -/
def reaching (c : Ctx) : List Nat := accessLanes c

/-- Bytes of one lane's access. -/
def bytesOf (c : Ctx) : Nat := (laneForm c.opc c.f).w

/-- The access at address `a` passes the checks of R247 and lands at `tg`, where nothing makes it wait; what its translation reads, the walkers
or the homes' slices hold already (03, R66; 10, R229). -/
def Lands (c : Ctx) (a : Nat) (tg : Target) : Prop :=
  c.s.laneWalked (c.s.who c.k) (laneForm c.opc c.f) a = c.s ∧
  c.s.aim (c.s.who c.k) (laneForm c.opc c.f) a = .ok tg ∧ c.s.prepared (c.s.who c.k) (laneForm c.opc c.f) tg = (c.s, false)

/-- No core holds a Silt word of the line (12, R278). -/
def NoSilt (s : State) (pa : Nat) : Prop := ∀ p ∈ s.cores, ∀ y ∈ p.2.silt, y.line ≠ lineOf pa

/-- No other core than `core` has to publish before it reaches these scratchpad bytes (12, R272). -/
def NoHold (s : State) (core k off n : Nat) : Prop :=
  ∀ p ∈ s.cores, p.1 ≠ core → ∀ w ∈ p.2.spHolds, ¬(w.1 = k ∧ off / 4 ≤ w.2 ∧ w.2 < (off + n + 3) / 4)

/-- No launch waits for a dependence counter (02, R45). -/
def NoWaits (s : State) : Prop := ∀ p ∈ s.launches, p.2.stage ≠ .waiting

/-- The core's L1 has room for `n` lines more (10, R229). -/
def Room (c : Ctx) (n : Nat) : Prop := (here c).lines.length + (here c).misses.length + n ≤ State.l1Lines (here c).split

/-- A read at address `a` finds the bytes `bs`, and word `i` of them is poisoned where `bad i`: global memory as the core sees it, the
scratchpad, or a notify slot's producer index (03, R52; 11, R245; 15, R341). -/
def Finds (c : Ctx) (a : Nat) (bs : List Byte) (bad : Nat → Bool) : Prop :=
  ∃ tg, Lands c a tg ∧
    match tg with
    | .mem pa _ => NoSilt c.s pa ∧ bs = c.s.coreBytes c.g.core pa (bytesOf c) ∧
        ∀ i, bad i = (decide (4 * i < bytesOf c) && c.s.memPoisoned c.g.core ((pa / 4 + i) * 4))
    | .sp k off => NoHold c.s c.g.core k off (bytesOf c) ∧ bs = c.s.spBytes k off (bytesOf c) ∧
        ∀ i, bad i = (decide (4 * i < bytesOf c) && c.s.spPoisoned k ((off / 4 + i) * 4))
    | .slot q => bs = toBytes 8 (c.s.queue q).prod ∧ (c.s.queue q).prod < 2 ^ 32 ∧ ∀ i, bad i = false
    | .peer _ _ _ => False

/-- Word `i` that a load makes of its bytes: extended by its type where narrower than a word (11, R245). -/
def loaded (c : Ctx) (bs : List Byte) (i : Nat) : Word :=
  if bytesOf c < 4 then
    let n : Int := ofBytes bs
    w32 (if c.f.type < 4 ∧ 2 ^ (8 * bytesOf c - 1) ≤ n then n - 2 ^ (8 * bytesOf c) else n)
  else BitVec.ofNat 32 (ofBytes ((bs.drop (4 * i)).take 4))

/-- A load of addresses `addr`, none where a lane makes no access and reads +0: it opens a window with a destination for every
word of D's block, which holds what each lane found. -/
def Loads (c : Ctx) (i : Instr) (addr : Nat → Option Nat) : Prop :=
  ∀ (bs : Nat → List Byte) (bad : Nat → Nat → Bool), Room c (reaching c).length →
    (∀ l ∈ reaching c, ∀ a, addr l = some a → Finds c a (bs l) (bad l)) →
    ∃ t w, exec i c.s = .next t ∧ Opens c t w ∧ Alone c t ∧
      t = { c.s with groups := t.groups, cores := t.cores, serial := c.s.serial + 1 } ∧
      (∀ j, t.core j = { c.s.core j with misses := (t.core j).misses }) ∧
      w.dests.length = max 1 (bytesOf c / 4) ∧
      (∀ n d, w.dests[n]? = some d →
        let word (l : Nat) : Word := if (addr l).isSome then loaded c (bs l) n else 0
        if c.opD.isVec then
          d.name = .v (c.opD.index + n) ∧ d.lanes = c.act ∧
            ∀ l, c.act.getLsbD l = true → l < c.g.width →
              d.vals.getD l 0 = word l ∧ d.poison.getLsbD l = ((addr l).isSome && bad l n)
        else d.name = .s (c.opD.index + n) ∧ d.lanes = 1 ∧ d.vals.getD 0 0 = word (((lanesOf c.act).head?).getD 0)) ∧
      ((w.tally.filter fun x => x.1 == 12).map (·.2)).sum =
        if (laneForm c.opc c.f).sp then 0 else bytesOf c * ((reaching c).filter fun l => (addr l).isSome).length

/-- The bytes a lane stores: the low bytes of D's block of words (11, R246). -/
def stored (c : Ctx) (l : Nat) : List Byte := ((laneData c l).flatMap fun x => toBytes 4 x.toNat).take (bytesOf c)

/-- Of the teams, only window words have lost their valid bit (12, R276). -/
def OnlyStale (c : Ctx) (t : State) : Prop := ∀ j, t.team j = { c.s.team j with windows := (t.team j).windows } ∧
  (t.team j).windows.map (fun w => { w with valid := [] }) = (c.s.team j).windows.map fun w => { w with valid := [] }

/-- A store of addresses `addr`, none where a lane makes no access: into global memory, the core's own view of every byte is what
the lanes stored, in increasing order of lanes, over what it was, and nothing reaches the homes yet; into the scratchpad, the
bytes of that scratchpad alone; clean window words of bytes stored are read afresh. That a store acts at issue in the core's own view, and on
its home only later, is the model's choice (log 8). -/
def Stores (c : Ctx) (i : Instr) (addr : Nat → Option Nat) : Prop :=
  (∀ (pa : Nat → Nat) (log : Nat → Option Nat), c.any = true → Room c (reaching c).length →
    (∀ l ∈ reaching c, ∀ a, addr l = some a → Lands c a (.mem (pa l) (log l)) ∧ NoSilt c.s (pa l)) →
    ∃ t, exec i c.s = .next t ∧ Passes c t ∧ OnlyWoken c t ∧
      t = { c.s with groups := t.groups, cores := t.cores, launches := t.launches, teams := t.teams, serial := c.s.serial + 1 } ∧
      OnlyStale c t ∧ (∀ j, j ≠ c.g.core → t.core j = c.s.core j) ∧
      t.core c.g.core = { here c with l1 := (t.core c.g.core).l1, l1Poison := (t.core c.g.core).l1Poison, misses := (t.core c.g.core).misses, logs := (t.core c.g.core).logs } ∧
      (∀ a, t.coreByte c.g.core a =
        overlay (((reaching c).filter fun l => (addr l).isSome).flatMap fun l => cellsAt (pa l) (stored c l)) (c.s.coreByte c.g.core) a) ∧
      Counted c t [(13, bytesOf c * ((reaching c).filter fun l => (addr l).isSome).length)]) ∧
  ∀ (k off : Nat → Nat), c.any = true → (∀ l ∈ reaching c, ∃ a, addr l = some a ∧ Lands c a (.sp (k l) (off l)) ∧ NoHold c.s c.g.core (k l) (off l) (bytesOf c)) →
    ∃ t, exec i c.s = .next t ∧ Passes c t ∧ OnlyWoken c t ∧
      t = { c.s with groups := t.groups, cores := t.cores, teams := t.teams, serial := c.s.serial + 1 } ∧
      ∀ j, t.core j = { c.s.core j with scratch := (t.core j).scratch, spoison := (t.core j).spoison, spHolds := (t.core j).spHolds } ∧
        ∀ a, Memory.read (t.core j).scratch a =
          overlay (((reaching c).filter fun l => k l == j).flatMap fun l => cellsAt (off l) (stored c l))
            (Memory.read (c.s.core j).scratch) a

end Sys2Proof.Spec

/-! # The matrix array (09) -/

/-- 09, R204, R211, R212: an MMA that passes its checks enters the matrix queue of its core with the formats of the format register,
its K, its Kaolin row and its codebooks, and the group waits at it; no register or tile has changed yet. -/
def Obligations.MatrixInstructionsQueue : Prop :=
  ∀ (f : Fields) (s : State) (c : Ctx), c.any = true → mmaChecks c = none → (∀ n, mmaOperands c n = false) →
    let fmt := c.slot.fmt.toNat
    let queues (i : Instr) (opc : Nat) : Prop := Calm opc f noNames s c → ∃ t e, exec i s = .next t ∧ StandsAt c t .mma 0x0B ∧ Alone c t ∧
      t = { c.s with groups := t.groups, cores := t.cores, serial := c.s.serial + 1 } ∧ (∀ j, j ≠ c.g.core → t.core j = c.s.core j) ∧
      t.core c.g.core = { here c with mq := (here c).mq ++ [e], s0 := (t.core c.g.core).s0, s1 := (t.core c.g.core).s1 } ∧
      e.group = c.k ∧ e.launch = c.launchKey ∧ e.opc = opc ∧ e.tile = f.fn.toNat % 8 ∧ e.zero = f.fn.toNat.testBit 3 ∧
      e.k = 32 * (f.fn.toNat / 16 % 128 + 1) ∧ e.afmt = fmt % 16 ∧ e.bfmt = fmt / 16 % 16 ∧ e.scaled = fmt.testBit 12 ∧
      e.row = (xB c 0).toNat ∧ e.abook = c.g.cbs.getD (fmt / 256 % 4) 0 ∧ e.bbook = c.g.cbs.getD (fmt / 1024 % 4) 0 ∧
      e.stage = false ∧ e.multiplying = false
    queues (.mmaS f) 0x180 ∧ queues (.mmaV f) 0x181 ∧ queues (.mmaG f) 0x182

/-- 09, R219–R222: `accz` clears the tile of its team, and with `.rel` it enters the matrix queue behind multiply phases, to release the tile in its turn; `accwr` writes A into the elements its lanes name;
`accrd` opens a window that holds them. Elements from 8,192 on do not exist: a read of one gives +0, a write does nothing. When a tile
is claimed, and that these words wait for earlier entries of the queue on it, is settled by log 25. -/
def Sys2Proof.Spec.partAccumulators : Prop :=
  ∀ (f : Fields) (s : State) (c : Ctx),
    let n := f.fn.toNat % 8
    let old := tileOf c.s c.g.core n
    (Calm 0x188 f noNames s c → c.any = true → f.fn.toNat.testBit 3 = true → old.owner = none ∨ old.owner = some c.g.team →
      (∀ e ∈ (here c).mq, e.tile = n → e.multiplying = true) → ∃ t e, exec (.accz f) s = .next t ∧ Passes c t ∧ t.launches = c.s.launches ∧
      (t.core c.g.core).mq = (here c).mq ++ [e] ∧ e.opc = 0x188 ∧ e.tile = n ∧ e.group = c.k ∧ t.mem = c.s.mem ∧
      tileOf t c.g.core n = { old with owner := some c.g.team } ∧ ∀ j, j ≠ n → tileOf t c.g.core j = tileOf c.s c.g.core j) ∧
    (c.any = true → TileReady c n →
    (Calm 0x188 f noNames s c → f.fn.toNat.testBit 3 = false → ∃ t, exec (.accz f) s = .next t ∧ Passes c t ∧ OnlyTile c t n ∧
      t.launches = c.s.launches ∧ tileOf t c.g.core n = { owner := some c.g.team }) ∧
    (Calm 0x18A f noNames s c → vectorValued c.g c.b c.opB = false → old.poison.Nodup → ∃ t, exec (.accwr f) s = .next t ∧ Passes c t ∧
      OnlyTile c t n ∧ Counted c t [(11, c.lanes)] ∧ (tileOf t c.g.core n).owner = some c.g.team ∧
      (∀ l e, c.act.getLsbD l = true → accCell c l = some e →
        (tileOf t c.g.core n).elems.getD e 0 = xA c l ∧ e ∉ (tileOf t c.g.core n).poison) ∧
      ∀ e, (∀ l, c.act.getLsbD l = true → accCell c l ≠ some e) → (tileOf t c.g.core n).elems.getD e 0 = old.elems.getD e 0) ∧
    (Calm 0x189 f destName s c → c.opD.isVec = true → vectorValued c.g c.b c.opB = false →
      (∀ l e, c.act.getLsbD l = true → accCell c l = some e → e ∉ old.poison) → ∃ t w d, exec (.accrd f) s = .next t ∧ Opens c t w ∧
      OnlyTile c t n ∧ t.launches = c.s.launches ∧ tileOf t c.g.core n = { old with owner := some c.g.team } ∧ w.dests = [d] ∧
      w.tally = [(11, c.lanes)] ∧ d.name = .v c.opD.index ∧ d.lanes = c.act ∧ d.poison = 0 ∧
      ∀ l, l < c.g.width → d.vals.getD l 0 = ((accCell c l).map fun e => old.elems.getD e 0).getD 0))

/-- 09, R223: `accst` stores all 8,192 elements row by row at the pitch of B, FP32 and INT32 whole, FP16 and BF16 rounded to nearest
even; the bytes stand in the core's own view of memory, as a store's do (log 8). -/
def Sys2Proof.Spec.partAccumulatorStore : Prop :=
  ∀ (f : Fields) (s : State) (c : Ctx), Calm 0x18B f noNames s c → c.any = true → Whole c →
    let n := f.fn.toNat / 16 % 8
    let w := if f.type = 8 ∨ f.type = 0 then 4 else 2
    let addr := pairValue c c.opA
    let pitch := (xB c 0).toNat
    let old := tileOf c.s c.g.core n
    let pat (e : Nat) : Nat :=
      if w = 4 then (old.elems.getD e 0).toNat
      else Sys2Proof.Float.convert .rne Sys2Proof.Float.f32 (Sys2Proof.Float.ofType f.type) (old.elems.getD e 0).toNat
    let bytes := (List.range 8192).flatMap fun e => toBytes w (pat e)
    let fn := c.s.vmidFunc c.launch.vmid
    TileReady c n → old.poison = [] → c.opA.isScalar = true → c.opA.index ≤ 58 → c.opA.index % 2 = 0 → vectorValued c.g c.b c.opB = false →
    addr % 16 = 0 → pitch % 16 = 0 → 128 * w ≤ pitch →
    ∀ ps, c.s.intervals c.g.core c.asid .write ((accstPieces addr pitch w).map fun p => (p.1, p.2.1)) = .ok ps →
      c.s.walkedAll c.g.core c.asid ((accstPieces addr pitch w).map (·.1)) = c.s →
      (∀ p ∈ ps, ∀ r, c.s.rangeOf p.1 = some r → r.2.exhausted = false) →
      (∀ p ∈ ps, c.s.rangeBlocked (some c.g.core) p.1 p.2.1 = false ∧ (p.2.2 = none ∨ c.s.logHolds fn = false)) →
      (∀ p ∈ ps, ∀ y ∈ (here c).silt, y.line ∉ State.linesOf p.1 p.2.1) → Room c ((ps.map fun p => (State.linesOf p.1 p.2.1).length).sum) →
      ∃ t, exec (.accst f) s = .next t ∧ Passes c t ∧ OnlyWoken c t ∧ t.mem = c.s.mem ∧ t.bdq = c.s.bdq ∧
        (∀ j, j ≠ c.g.core → t.core j = c.s.core j) ∧ tileOf t c.g.core n = { old with owner := some c.g.team } ∧
        Counted c t [(11, 1), (13, 8192 * w)] ∧
        ∀ a, t.coreByte c.g.core a =
          overlay ((ps.zip (accstPieces addr pitch w)).flatMap fun (p, q) => cellsAt p.1 ((bytes.drop q.2.2).take p.2.1))
            (c.s.coreByte c.g.core) a

/-- 07, R166–R168; 09, R224, R225: `qnt` gives each lane's blocks of 32 values a scale and their elements, and counts what underflowed:
elements in D's block, scales in B's bytes, counts in C's bytes; `ldcb` loads a codebook from lanes 0 to 7 of A. -/
def Obligations.QuantiseAndCodebooks : Prop :=
  ∀ (f : Fields) (s : State) (c : Ctx), c.any = true →
    let t' := Sys2Proof.Float.ofType f.type
    let per := if f.type = 0xD then 8 else 4
    let blocks := f.fn.toNat / 32 % 4 + 1
    let v (l b : Nat) : List Nat := (List.range 32).map fun k => ((c.g.vreg (c.opA.index + 32 * b + k)).vals.getD l 0).toNat
    let x (l b : Nat) : Nat := qntScale t' (f.fn.toNat.testBit 4) (fmtUthr c.slot.fmt) (fmtSthr c.slot.fmt) (v l b)
    (Calm 0x190 f (fun c => (List.range (qntNames f)).map (c.opD.index + ·) ++ [c.opB.index, c.opC.index]) s c → (∀ n, qntOperands c n = false) →
      ∃ t, exec (.qnt f) s = .next t ∧ OnlyGroup c t ∧ OnlyResult c (after c t) ∧
        (∀ l, c.act.getLsbD l = true → l < c.g.width →
          (∀ i, i < 32 * blocks →
            (((after c t).vreg (c.opD.index + i / per)).vals.getD l 0).toNat / 2 ^ (32 / per * (i % per)) % 2 ^ (32 / per) =
              Sys2Proof.Float.quantElem t' (x l (i / 32)) ((v l (i / 32)).getD (i % 32) 0) % 2 ^ (32 / per)) ∧
          ∀ b, b < blocks →
            (c.opB.index ≠ c.opC.index →
              (((after c t).vreg c.opB.index).vals.getD l 0).toNat / 2 ^ (8 * b) % 256 = x l b % 256) ∧
            (((after c t).vreg c.opC.index).vals.getD l 0).toNat / 2 ^ (8 * b) % 256 =
              Sys2Proof.Float.underflows t' (x l b) (v l b) % 256) ∧
        (∀ n, (n < c.opD.index ∨ c.opD.index + 32 * blocks / per ≤ n) → n ≠ c.opB.index → n ≠ c.opC.index →
          (after c t).vregs.find? n = c.g.vregs.find? n) ∧
        (after c t).uflow.toNat = min (c.g.uflow.toNat +
          ((lanesOf c.act).map fun l => ((List.range blocks).map fun b => Sys2Proof.Float.underflows t' (x l b) (v l b)).sum).sum) (2 ^ 32 - 1) ∧
        (after c t).sregs = c.g.sregs ∧ (after c t).preds = c.g.preds ∧ (after c t).spoison = c.g.spoison ∧ (after c t).latch = latched c [] ∧
        (∀ n, n < 3 → (after c t).loops.getD n {} = nextLoops c n) ∧ (after c t).slot c.b = { c.slot with pc := nextPc c } ∧
        Counted c t [(ctrFloat, c.lanes)]) ∧
    (Calm 0x191 f noNames s c → c.opA.isVec = true → ∃ t, exec (.ldcb f) s = .next t ∧
      (∀ k, k < 8 → (after c t).cbs.getD f.fn.toNat 0 / 2 ^ (32 * k) % 2 ^ 32 =
        if c.g.width ≤ k ∨ c.g.exited.getLsbD k = true then 0 else (xA c k).toNat) ∧
      (∀ n, n ≠ f.fn.toNat → (after c t).cbs.getD n 0 = c.g.cbs.getD n 0) ∧ OnlyFreed c (after c t) ∧ Alone c t ∧
      t = { c.s with groups := t.groups, launches := t.launches } ∧ (after c t).sregs = c.g.sregs ∧ (after c t).preds = c.g.preds ∧
      (after c t).slot c.b = { c.slot with pc := nextPc c } ∧ Counted c t [(ctrInt, 1)])

/-! # Memory instructions (11) -/

/-- 11, R241–R245, R247, R248, R252, R253: a load reads the bytes at base, index and offset in each active lane, or once where D is a
scalar, and its window holds their words for D's block; a tensor load outside the tensor under CLIP 0 reads +0. That the window holds what the
core's view gives in the issuing step is the model's choice (log 8). -/
def Obligations.LoadsReadMemory : Prop :=
  ∀ (f : Fields) (s : State) (c : Ctx), c.any = true →
    (Calm 0x1C0 f blockNames s c → loadDestBad c = false → pairOk c.opA = true → Loads c (.ld f) fun l => some (laneAddr c l)) ∧
    (Calm 0x1C2 f blockNames s c → loadDestBad c = false → vectorValued c.g c.b c.opA = false →
      Loads c (.lds f) fun l => some (laneAddr c l)) ∧
    (Calm 0x1C4 f blockNames s c → tensorChecks c = none → (∀ n, tensorOperands loadDestBad c n = false) →
      (∀ l ∈ reaching c, Tensor.inside (recordOf c) (laneCoords c l) = true ∨ Tensor.clip (recordOf c) = 0) →
      Loads c (.ldTensor f) fun l =>
        if Tensor.inside (recordOf c) (laneCoords c l) then some (Tensor.addr (recordOf c) (laneCoords c l)) else none)

/-- 11, R241–R243, R246–R248, R253; 10, R229: a store writes the bytes of D's block at base, index and offset in each active lane, the
lane numbers increasing; a tensor store outside the tensor under CLIP 0 stores nothing. That it acts at issue in the core's own view is the
model's choice (log 8). -/
def Obligations.StoresWriteMemory : Prop :=
  ∀ (f : Fields) (s : State) (c : Ctx),
    (Calm 0x1C1 f noNames s c → storeDataBad c = false → pairOk c.opA = true → Stores c (.st f) fun l => some (laneAddr c l)) ∧
    (Calm 0x1C3 f noNames s c → storeDataBad c = false → vectorValued c.g c.b c.opA = false →
      Stores c (.sts f) fun l => some (laneAddr c l)) ∧
    (Calm 0x1C5 f noNames s c → tensorChecks c = none → (∀ n, tensorOperands storeDataBad c n = false) →
      (∀ l ∈ reaching c, Tensor.inside (recordOf c) (laneCoords c l) = true ∨ Tensor.clip (recordOf c) = 0) →
      Stores c (.stTensor f) fun l =>
        if Tensor.inside (recordOf c) (laneCoords c l) then some (Tensor.addr (recordOf c) (laneCoords c l)) else none)

/-- The accumulator words, and the store of a whole tile: `Spec.partAccumulators`, `Spec.partAccumulatorStore` (rules and tier in their docstrings). -/
def Obligations.Accumulators : Prop :=
  Sys2Proof.Spec.partAccumulators ∧ Sys2Proof.Spec.partAccumulatorStore

/-- 11, R254, R255: `tset` writes one word of a shape record of the team; `pref` changes nothing that a program sees. -/
def Obligations.TensorRecordsAndPrefetch : Prop :=
  ∀ (f : Fields) (s : State) (c : Ctx),
    let n := f.fn.toNat % 16
    let k := f.fn.toNat / 16 % 16
    (Calm 0x1C8 f noNames s c → c.any = true → f.imm32 = true ∨ vectorValued c.g c.b c.opA = false → ∃ t, exec (.tset f) s = .next t ∧
      Passes c t ∧ Alone c t ∧ t = { c.s with groups := t.groups, teams := t.teams } ∧
      (∀ j, j ≠ c.g.team → t.team j = c.s.team j) ∧ t.team c.g.team = { c.team with trecs := (t.team c.g.team).trecs } ∧
      (∀ j, j ≠ n → (t.team c.g.team).trec j = c.team.trec j) ∧
      ∀ i, ((t.team c.g.team).trec n).testBit i =
        if 32 * k ≤ i ∧ i < 32 * k + 32 then (if f.imm32 then f.immediate else xA c 0).getLsbD (i - 32 * k) else (c.team.trec n).testBit i) ∧
    (Calm 0x1C9 f noNames s c → pairOk c.opA = true → ∃ t, exec (.pref f) s = .next t ∧
      Goes c t { c.slot with pc := nextPc c } (nextLoops c) c.g.stack)

/-- 11, R256; 10, R234, R235: `wmap` registers a window of the team's scratchpad over an interval of its address space, every word at
its place, invalid and clean; with length 0 it does nothing. -/
def Sys2Proof.Spec.partWindowsAreRegistered : Prop :=
  ∀ (f : Fields) (s : State) (c : Ctx), Calm 0x1D0 f noNames s c → c.any = true → vectorValued c.g c.b c.opA = false →
    pairOk c.opB = true → vectorValued c.g c.b c.opC = false →
    let sp := (xA c 0).toNat
    let gb := pairValue c c.opB
    let len := (xC c 0).toNat
    let w := decide (f.fn = 1)
    (len = 0 → ∃ t, exec (.wmap f) s = .next t ∧ Goes c t { c.slot with pc := nextPc c } (nextLoops c) c.g.stack) ∧
    ∀ ps, len ≠ 0 → sp % 4 = 0 → gb % 4 = 0 → len % 4 = 0 → sp % 64 = gb % 64 → c.s.ownRange c.team sp len = true →
      c.team.windows.length < 16 → c.s.coreWindows (State.spPlace c.team.core sp).1 < 64 →
      c.s.walkedAll c.g.core c.asid ((CopyCmd.pages 10 gb len).map Prod.fst) = c.s →
      c.s.intervals c.g.core c.asid (if w then .write else .read) (CopyCmd.pages 10 gb len) = .ok ps →
      c.s.tableFull ((State.intervalWords ps).map (·.1)) = false → c.s.overlaps w ((State.intervalWords ps).map (·.1)) = false →
      (∀ x ∈ c.team.windows, x.sp + x.len ≤ sp ∨ sp + len ≤ x.sp) →
      ∃ t x, exec (.wmap f) s = .next t ∧ Passes c t ∧ Alone c t ∧ t = { c.s with groups := t.groups, teams := t.teams } ∧
        (∀ j, j ≠ c.g.team → t.team j = c.s.team j) ∧ t.team c.g.team = { c.team with windows := c.team.windows ++ [x] } ∧
        x.sp = sp ∧ x.gb = gb ∧ x.len = len ∧ x.writable = w ∧ x.place = (State.intervalWords ps).map (·.1) ∧
        x.log = (State.intervalWords ps).map (·.2) ∧ (∀ b ∈ x.valid, b = false) ∧ ∀ b ∈ x.dirty, b = false

/-- 11, R257; 10, R235: `winv` makes the clean words of the windows it names invalid; `wsync` writes their dirty words to their homes
and leaves them clean; `wunmap` writes them to their homes in the same way and takes the windows away: once the earlier stores and reductions of the
team's cores to those lines have gone there, so that the homes end with what the window held. The instruction names windows by scratchpad
address, or with FN 2 all of the team. -/
def Sys2Proof.Spec.partWindowsAreKept : Prop :=
  ∀ (f : Fields) (s : State) (c : Ctx), c.any = true → f.fn = 2 ∨ vectorValued c.g c.b c.opA = false →
    let chosen (w : LoamWindow) : Bool := f.fn == 2 || w.sp == (xA c 0).toNat
    let ws := c.team.windows.filter chosen
    let lands (t : State) : Prop := NoWaits c.s → ∀ w, ws = [w] → (∀ j, j < w.len / 4 → w.dirty.getD j false = true → w.place.getD j 0 % 4 = 0) →
      (∀ i j, i < w.len / 4 → w.dirty.getD i false = true → j < w.len / 4 → w.dirty.getD j false = true → i ≠ j → w.place.getD i 0 ≠ w.place.getD j 0) →
      ∀ j, j < w.len / 4 → w.dirty.getD j false = true → t.homeBytes (w.place.getD j 0) 4 =
        c.s.spBytes (c.team.core / 48 * 48 + w.sp / 2 ^ 19 % 64) (w.sp % 2 ^ 19 + 4 * j) 4
    let dirty (w : LoamWindow) (j : Nat) : Prop := j < w.len / 4 ∧ w.dirty.getD j false = true
    let ready : Prop :=
      (∀ w ∈ ws, ∀ j, dirty w j → c.s.lineBlocked (some c.g.core) (lineOf (w.place.getD j 0)) = false) ∧
      (∀ w ∈ ws, c.s.dirtyClaimed c.team w = false) ∧ ∀ w ∈ ws, ∀ j, dirty w j → w.log.getD j none = none
    (Calm 0x1D3 f noNames s c → ∃ t, exec (.winv f) s = .next t ∧ Passes c t ∧ Alone c t ∧
      t = { c.s with groups := t.groups, teams := t.teams } ∧ (∀ j, j ≠ c.g.team → t.team j = c.s.team j) ∧
      t.team c.g.team = { c.team with windows := c.team.windows.map fun w =>
        (if chosen w then { w with valid := List.zipWith (· && ·) w.valid w.dirty } else w) }) ∧
    (Calm 0x1D2 f noNames s c → ready → ∃ t, exec (.wsync f) s = .next t ∧ Passes c t ∧ OnlyWoken c t ∧
      (t.team c.g.team).windows.length = c.team.windows.length ∧
      (∀ i w, c.team.windows[i]? = some w → chosen w = true → ∀ b ∈ ((t.team c.g.team).windows.getD i default).dirty, b = false) ∧
      (∀ j, (t.core j).scratch = (c.s.core j).scratch) ∧ t.mem = c.s.mem ∧ lands t) ∧
    (Calm 0x1D1 f noNames s c → ready → ∃ t, exec (.wunmap f) s = .next t ∧ Passes c t ∧ OnlyWoken c t ∧ t.mem = c.s.mem ∧ lands t ∧
      (t.team c.g.team).windows.length + ws.length = c.team.windows.length ∧
      ∀ w ∈ (t.team c.g.team).windows, ∃ x ∈ c.team.windows, chosen x = false ∧ w.sp = x.sp ∧ w.gb = x.gb ∧ w.len = x.len)

/-- 11, R259–R261, R266: a copy instruction whose operands pass its checks puts one command, with the values that its operands and
index list hold now, at the end of its core's queue of 32; nothing is copied yet. A copy of 64 KiB or more needs leave first. -/
def Obligations.CopiesQueue : Prop :=
  ∀ (f : Fields) (s : State) (c : Ctx), c.any = true →
    let word (o : Opnd) : Nat := ((nextReg c o 0).at 0).toNat
    let sc := f.aux.toNat % 64
    let list := scalarAt c (f.aux.toNat / 64 % 64)
    let queues (i : Instr) (opc : Nat) (form : CopyForm) (toGlobal fromGlobal rows : Bool) : Prop :=
      Calm opc f noNames s c → (∀ n, copyOperands form c n = false) → copyFault c (copyCommand form c) list = none →
      (copyCommand form c).total < 65536 → (here c).copies.length < 32 →
      (rows = true → let p := State.spPlace c.g.core list
        c.s.askFill p.1 p.2 (4 * word c.opB) = (c.s, false) ∧ c.s.spClaimed p.1 p.2 (4 * word c.opB) = false) →
      ∃ t x, exec i s = .next t ∧ Passes c t ∧ Alone c t ∧
        t = { c.s with groups := t.groups, cores := t.cores, serial := c.s.serial + 1 } ∧ (∀ j, j ≠ c.g.core → t.core j = c.s.core j) ∧
        t.core c.g.core = { here c with copies := (here c).copies ++ [x] } ∧
        x.form = form ∧ x.group = c.k ∧ x.team = c.g.team ∧ x.pc = c.pc ∧ x.len = word c.opB ∧ x.begun = false ∧ x.chunk = 0 ∧ x.held = none ∧
        x.dst = (if toGlobal then pairValue c c.opD else word c.opD) ∧ x.src = (if fromGlobal then pairValue c c.opA else word c.opA) ∧
        x.cwe = f.fn.toNat.testBit 9 ∧ x.cwAddr = scalarAt c sc ∧
        x.cwVal = scalarAt c (sc + 1) + (if f.x then scalarAt c (sc + 2) * 2 ^ 32 else 0) ∧
        (rows = true → x.rl = f.fn.toNat / 16 % 32 ∧ x.index = (List.range (word c.opB)).map fun i =>
          ofBytes (c.s.spBytes (State.spPlace c.g.core list).1 ((State.spPlace c.g.core list).2 + 4 * i) 4))
    queues (.cpyG2s f) 0x1E0 .g2s false true false ∧ queues (.cpyS2g f) 0x1E1 .s2g true false false ∧
    queues (.cpyG2k f) 0x1E2 .g2k false true false ∧ queues (.cpyS2k f) 0x1E3 .s2k false false false ∧
    queues (.cpyS2s f) 0x1E4 .s2s false false false ∧ queues (.cpyGat f) 0x1E5 .gat false true true ∧
    queues (.cpySct f) 0x1E6 .sct true false true

/-! # Ordering, atomics and synchronisation (12) -/

/-- 12, R274, R275, R278, R282: a fence without a release has no effect of its own (in this model, in which every access acts when it issues: logs 8
and 34); a release at device or system scope leaves no
dirty byte in its core's L1, no Silt line of its core and no dirty word in its team's windows: what its core had written stands at
its home, where no launch waits for a counter (a wait that is evaluated merges more, 02, R45). -/
def Obligations.FencesRelease : Prop :=
  ∀ (f : Fields) (s : State) (c : Ctx), Calm 0x240 f noNames s c →
    let mo := f.fn.toNat / 128 % 16
    let wide : Bool := decide (mo ≠ 0) && decide (3 ≤ (mo - 1) % 5)
    let sys : Bool := decide (mo ≠ 0) && decide ((mo - 1) % 5 = 4)
    (mo < 6 → ∃ t, exec (.fence f) s = .next t ∧ Goes c t { c.slot with pc := nextPc c } (nextLoops c) c.g.stack) ∧
    (6 ≤ mo → (c.s.releaseLines c.g.core c.g.team wide).any (c.s.lineBlocked (some c.g.core)) = false → c.s.peersOpen c.k = false →
      c.s.windowLogHolds c.g.team (fun _ => true) = false → (c.s.release? (c.s.who c.k) wide sys).2 = true →
      ∃ t, exec (.fence f) s = .next t ∧ Passes c t ∧ OnlyWoken c t ∧ t.mem = c.s.mem ∧ (t.core c.g.core).silt = [] ∧
        (∀ w ∈ (t.team c.g.team).windows, ∀ b ∈ w.dirty, b = false) ∧ (∀ j, (t.core j).scratch = (c.s.core j).scratch) ∧
        (wide = true → (t.core c.g.core).l1 = [] ∧
          (NoWaits c.s → (here c).silt = [] → ((here c).l1.map Prod.fst).Nodup → (∀ w ∈ c.team.windows, ∀ b ∈ w.dirty, b = false) → ∀ a, t.homeByte a = c.s.coreByte c.g.core a)))

/-- 12, R283–R285: an atomic in one lane reads the word, combines it with its data and writes it in one step: `atom` and `atomc` open
a window with the old word for D, `atomc` writes only where the word is the one compared; `red` returns nothing. In the
scratchpad the word is the scratchpad's; in global memory it is the home's, with what the core itself holds dirty there. That the atomic acts in its
issuing step is the model's choice (log 8). -/
def Obligations.Atomics : Prop :=
  ∀ (f : Fields) (s : State) (c : Ctx) (l : Nat), c.any = true → reaching c = [l] → l < c.g.width → ((here c).l1.map Prod.fst).Nodup →
    let op := f.fn.toNat / 16 % 8
    let addr := laneAddr c l
    let new (old x : Word) : Word := combine op (decide (f.type = 8)) (decide (f.type = 0)) old x
    let datum (i : Nat) : Word := (nextReg c c.opD i).at l
    let count : List (Nat × Nat) := [(if f.type = 8 then 8 else 11, 1)]
    let baseOk : Prop := if f.aux.toNat.testBit 15 then vectorValued c.g c.b c.opA = false else pairOk c.opA = true
    let mo := f.fn.toNat / 128 % 16
    let returns (i : Instr) (opc n : Nat) (put : Word → Option Word) : Prop :=
      Calm opc f destName s c → baseOk → (c.opD.isVec = true ∧ c.opD.index + n ≤ c.record.vregs) ∨ (c.opD.isScalar = true ∧ c.opD.index + n ≤ 60) →
      mo < 6 ∨ c.s.release? (c.s.who c.k) (moWide mo) (moSys mo) = (c.s, true) →
      (∀ k off, Lands c addr (.sp k off) → NoHold c.s c.g.core k off 4 → ∃ t w d, exec i s = .next t ∧ Opens c t w ∧ OnlyWoken c t ∧ w.dests = [d] ∧
        let old := BitVec.ofNat 32 (ofBytes (c.s.spBytes k off 4))
        d.vals.getD (if c.opD.isScalar then 0 else l) 0 = old ∧
        (∀ x ∈ w.tally, x.2 = 0 ∨ x = (if f.type = 8 then 8 else 11, 1)) ∧ t.mem = c.s.mem ∧ t.bdq = c.s.bdq ∧
        t.spBytes k off 4 = toBytes 4 ((put old).getD old).toNat ∧
        ∀ j a, (j ≠ k ∨ a < off ∨ off + 4 ≤ a) → Memory.read (t.core j).scratch a = Memory.read (c.s.core j).scratch a) ∧
      (∀ pa, Lands c addr (.mem pa none) → NoSilt c.s pa → pa % 4 = 0 → ∃ t w d, exec i s = .next t ∧ Opens c t w ∧ OnlyWoken c t ∧ w.dests = [d] ∧
        let old := BitVec.ofNat 32 (ofBytes (c.s.coreBytes c.g.core pa 4))
        d.vals.getD (if c.opD.isScalar then 0 else l) 0 = old ∧ t.homeNat pa 4 = ((put old).getD old).toNat ∧ t.mem = c.s.mem ∧
        ∀ a, (a < pa ∨ pa + 4 ≤ a) → t.coreByte c.g.core a = c.s.coreByte c.g.core a)
    returns (.atom f) 0x241 1 (fun old => some (new old (datum 0))) ∧
    returns (.atomc f) 0x242 2 (fun old => if old = datum 0 then some (datum 1) else none) ∧
    (Calm 0x243 f noNames s c → baseOk → (c.opD.isScalar = true → vectorValued c.g c.b c.opA = false ∧ vectorValued c.g c.b c.opB = false) → c.opD.isPred = false → c.opD.isQ0 = false → (c.opD.isScalar = true → c.opD.index < 64) →
      (∀ k off, Lands c addr (.sp k off) → NoHold c.s c.g.core k off 4 → ∃ t, exec (.red f) s = .next t ∧ Passes c t ∧ OnlyWoken c t ∧ Counted c t count ∧
        t.spBytes k off 4 = toBytes 4 (new (BitVec.ofNat 32 (ofBytes (c.s.spBytes k off 4))) (c.srcD.at l)).toNat) ∧
      (∀ pa, Lands c addr (.mem pa none) → NoSilt c.s pa → (here c).silt.length < 64 → ∃ t, exec (.red f) s = .next t ∧ Passes c t ∧ Alone c t ∧
        Counted c t ((13, 4) :: count) ∧ t.mem = c.s.mem ∧ t.bdq = c.s.bdq ∧
        ∃ y, (t.core c.g.core).silt = y :: (here c).silt ∧ y.line = pa / 128 ∧ y.op = op ∧ y.words = [(pa % 128 / 4, c.srcD.at l)]))

/-- 12, R281, R286, R287: the arrival of a whole group, once its release is done, sets its bit; one that does not complete the barrier goes on
after `bar.arv` and waits after `bar.sync`, and one that completes it flips the phase, clears the mask and lets every group that waits on the phase
go on. A group whose bit is set waits for the next phase; `bar.wt` waits exactly while that bit is set. `gbar` waits for the groups of its launch,
and the last to arrive lets all go on. A count beyond the groups of the team or other than the open one's traps, as do a vector-valued count, a
group that is not whole, and `gbar` in a launch that is not cooperative. (Where a completion finds a group that waits to arrive in the next phase,
that arrival follows in the same step: the clauses on completion are of barriers without one.) -/
def Obligations.Barriers : Prop :=
  ∀ (f : Fields) (s : State) (c : Ctx), (c.s.groups.map Prod.fst).Nodup →
    let id := f.fn.toNat % 16
    let b := c.team.barriers.getD id {}
    let n := (xA c 0).toNat
    let uA : Prop := vectorValued c.g c.b c.opA = false
    let fits : Prop := n ≤ c.record.slots * 32 / c.g.width ∧ (b.mask ≠ 0 → n = b.count)
    let set : Bool := b.mask.testBit c.g.grpid
    let mayArrive : Prop := Whole c ∧ uA ∧ set = false ∧ fits ∧ (c.s.release? (c.s.who c.k) false false).2 = true
    let now : Barrier := { mask := b.mask + 2 ^ c.g.grpid, count := if b.mask = 0 then n else b.count, phase := b.phase }
    let done : Prop := if now.count = 0 then ∀ p ∈ c.s.groups, p.2.team = c.g.team → p.2.counts = true → now.mask.testBit p.2.grpid = true
                       else now.count ≤ ((List.range 32).filter fun i => now.mask.testBit i).length
    let barriers (t : State) (x : Barrier) : Prop := (t.team c.g.team).barriers.getD id {} = x ∧
      ∀ j, j ≠ id → (t.team c.g.team).barriers.getD j {} = c.team.barriers.getD j {}
    let lone : Prop := ∀ p ∈ c.s.groups, p.2.team = c.g.team → p.2.wait ≠ .barrierNext id
    let completed (t : State) : Prop := barriers t { now with mask := 0, phase := !b.phase } ∧
      ∀ p ∈ c.s.groups, p.2.team = c.g.team → p.2.wait = .barrier id b.phase → (t.group p.1).wait = .none
    let arrivals (i : Instr) : Prop :=
      (uA → ¬Whole c → exec i s = .next (s.takeTrap c.k c.illegalConv)) ∧ (¬uA → exec i s = .next (s.takeTrap c.k (c.illegalOperand 2))) ∧
      (uA → Whole c → set = false → ¬fits → exec i s = .next (s.takeTrap c.k (c.illegalOperand 2))) ∧
      (uA → Whole c → set = true → ∃ t, exec i s = .next t ∧ StandsAt c t (.barrierNext id) 0x07 ∧ Alone c t ∧ t.teams = c.s.teams)
    (Calm 0x249 f noNames s c → arrivals (.barArv f) ∧
      (mayArrive → ¬done → ∃ t, exec (.barArv f) s = .next t ∧ Passes c t ∧ OnlyWoken c t ∧ barriers t now) ∧
      (mayArrive → done → lone → ∃ t, exec (.barArv f) s = .next t ∧ Passes c t ∧ completed t)) ∧
    (Calm 0x248 f noNames s c → arrivals (.barSync f) ∧
      (mayArrive → ¬done → ∃ t, exec (.barSync f) s = .next t ∧ StandsAt c t (.barrier id b.phase) 0x07 ∧ OnlyWoken c t ∧ barriers t now) ∧
      (mayArrive → done → lone → ∃ t, exec (.barSync f) s = .next t ∧ (after c t).wait = .none ∧ KeepsGroup c t ∧ completed t)) ∧
    (Calm 0x24A f noNames s c →
      (¬Whole c → exec (.barWt f) s = .next (s.takeTrap c.k c.illegalConv)) ∧
      (Whole c → set = false → ∃ t, exec (.barWt f) s = .next t ∧ Goes c t { c.slot with pc := nextPc c } (nextLoops c) c.g.stack) ∧
      (Whole c → set = true → ∃ t, exec (.barWt f) s = .next t ∧ StandsAt c t (.barrier id b.phase) 0x07 ∧ Alone c t ∧ t.teams = c.s.teams)) ∧
    (Calm 0x24B f noNames s c →
      (c.record.coop = false ∨ ¬Whole c → exec (.gbar f) s = .next (s.takeTrap c.k c.illegalConv)) ∧
      (c.record.coop = true → Whole c → (c.s.release? (c.s.who c.k) true false).2 = true → c.g.counts = true →
        ((∃ p ∈ c.s.groups, p.1 ≠ c.k ∧ c.s.launchOf p.2 = c.launchKey ∧ p.2.counts = true ∧ p.2.wait = .none) →
          ∃ t, exec (.gbar f) s = .next t ∧ StandsAt c t .gbar 0x06 ∧ OnlyWoken c t ∧ (t.launch c.launchKey).gbar = c.launch.gbar ++ [c.k]) ∧
        (c.launch.next = c.record.teams →
          (∀ p ∈ c.s.groups, p.1 ≠ c.k → c.s.launchOf p.2 = c.launchKey → p.2.counts = true → p.2.wait = .gbar) →
          ∃ t, exec (.gbar f) s = .next t ∧ (after c t).wait = .none ∧ KeepsGroup c t ∧ (t.launch c.launchKey).gbar = [] ∧
            (t.launch c.launchKey).gphase = c.launch.gphase + 1 ∧
            ∀ p ∈ c.s.groups, c.s.launchOf p.2 = c.launchKey → p.2.counts = true → (t.group p.1).wait = .none)))

/-- The windows of a team: registered, made invalid, written back, and taken away: `Spec.partWindowsAreRegistered`, `Spec.partWindowsAreKept` (rules and tier in their docstrings). -/
def Obligations.WindowsAreRegistered : Prop :=
  Sys2Proof.Spec.partWindowsAreRegistered ∧ Sys2Proof.Spec.partWindowsAreKept

namespace Sys2Proof.Spec

open Sys2Proof.Machine

/-- The release of scope `wide` and `sys` finds nothing to write: the state as it is has been released. -/
def Released (c : Ctx) (wide sys : Bool) : Prop := c.s.release? (c.s.who c.k) wide sys = (c.s, true)

/-- The window holds one destination, D, with `x` in every active lane. -/
def HoldsWord (c : Ctx) (w : Window) (x : Word) : Prop :=
  ∃ d, w.dests = [d] ∧ d.lanes = c.act ∧ d.poison = 0 ∧
    if c.opD.isVec then d.name = .v c.opD.index ∧ ∀ l, l < c.g.width → d.vals.getD l 0 = x
    else d.vals.getD 0 0 = x ∧ (c.opD.index < 64 → d.name = .s c.opD.index)

/-- The group has entered its handler by a precise trap of this instruction, without any other effect of it (15, R334, R336,
Table 15.2). -/
structure Enters (c : Ctx) (t : State) (code : Nat) (info : Word) : Prop where
  machine : t = { c.s with groups := t.groups }
  alone   : Alone c t
  group   : after c t = { c.g with trap := none, trapRegs := (after c t).trapRegs, replay := none, inh := true, went := true, capture := none, slotA := (after c t).slotA,
                                   slotB := {}, latch := [], q0 := none, q1 := none, spill := .none, wait := .none,
                                   frame := (after c t).frame, windows := c.g.windows.map fun w => { w with frozen := true } }
  frame   : (after c t).frame = some { slotA := { c.g.slotA with stream := [] }, slotB := { c.g.slotB with stream := [] }, latch := c.g.latch, q0 := c.g.q0, q1 := c.g.q1,
                                       depth := c.g.depth, replay := c.g.replay, capture := c.g.capture }
  slot    : (after c t).slotA = { pc := c.record.handler, rpc := 0xFFFFFFFF, fmt := c.slot.fmt, active := c.g.liveLanes,
                                  owned := c.g.liveLanes }
  cause   : (after c t).trapRegs.getD 0 0 = BitVec.ofNat 32 code
  tpc     : (after c t).trapRegs.getD 1 0 = c.pc
  tinfo   : (after c t).trapRegs.getD 2 0 = info
  tmask   : ∀ i, i < 3 → (after c t).trapRegs.getD (5 + i) 0 = BitVec.ofNat 32 (c.act.toNat / 2 ^ (32 * i))
  tlane   : (after c t).trapRegs.getD 8 0 = BitVec.ofNat 32 (((lanesOf c.act).head?).getD 0)
  resume  : (after c t).trapRegs.getD 9 0 = if code = 0xA ∨ code = 0xB then 1 else 0
  status  : (after c t).trapRegs.getD 10 0 = if c.b then 3 else 1

/-- The group's core has its clock, and the group is resident (01, R18, R21; 15, R342). -/
def Runs (c : Ctx) : Prop := c.s.clockRuns c.g.core = true ∧ c.team.resident = true

/-- A handler is there to enter, and no long-latency instruction is outstanding (15, R335, R336). -/
def CanEnter (c : Ctx) : Prop := Runs c ∧ c.record.handler ≠ 0 ∧ c.g.inh = false ∧ c.g.outstanding = false

end Sys2Proof.Spec

/-- 12, R280, R281, R288: `waita` whose condition holds of the word gives 1; with a timeout of 0 it gives 0; else the group waits. The word is
global memory as the core sees it, the scratchpad, or a notify slot's producer index. A group that is not whole traps, and so does a field that
breaks a rule of R280 or R288, the first of them. (Of a word whose translation the walkers or the slices need not fetch.) -/
def Obligations.WaitsOnMemory : Prop :=
  ∀ (f : Fields) (s : State) (c : Ctx), Calm 0x250 f destName s c →
    let sp := f.fn.toNat.testBit 3
    let wide := f.fn.toNat.testBit 2
    let n := if wide then 8 else 4
    let addr := if sp then (xA c 0).toNat else pairValue c c.opA
    let cmp := waitaCompare c wide
    let okD : Prop := (c.opD.isVec = true ∨ (c.opD.isScalar = true ∧ c.opD.index ≤ 59)) ∧ c.opD.hold = false
    let okA : Prop := if sp then vectorValued c.g c.b c.opA = false else pairOk c.opA = true
    let okB : Prop := vectorValued c.g c.b c.opB = false ∧
      (wide = true → c.opB.isImm = true ∨ (c.opB.isScalar = true ∧ c.opB.index ≤ 58 ∧ c.opB.index % 2 = 0))
    let okC : Prop := vectorValued c.g c.b c.opC = false
    let traps (x : TrapInfo) : Prop := exec (.waita f) s = .next (s.takeTrap c.k x)
    (¬okD → traps (c.illegalOperand 1)) ∧ (okD → ¬okA → traps (c.illegalOperand 2)) ∧ (okD → okA → ¬okB → traps (c.illegalOperand 3)) ∧
    (okD → okA → okB → ¬okC → traps (c.illegalOperand 4)) ∧ (okD → okA → okB → okC → ¬Whole c → traps c.illegalConv) ∧
    (okD → okA → okB → okC → Whole c → c.any = true →
      (sp = false → addr % n = 0 → c.s.walkedAll c.g.core c.asid [addr] = c.s) →
      ∀ notify place v, waitaPlace c.s (c.s.who c.k) sp wide addr = .ok (notify, place) →
      (if notify then v = (c.s.queue place).prod
       else if sp then c.s.spClaimed (place / 2 ^ 19) (place % 2 ^ 19) n = false ∧ c.s.askFill (place / 2 ^ 19) (place % 2 ^ 19) n = (c.s, false) ∧
         NoHold c.s c.g.core (place / 2 ^ 19) (place % 2 ^ 19) n ∧ v = ofBytes (c.s.spBytes (place / 2 ^ 19) (place % 2 ^ 19) n)
       else c.s.lineBlocked (some c.g.core) (lineOf place) = false ∧ NoSilt c.s place ∧ v = ofBytes (c.s.coreBytes c.g.core place n)) →
      let seen : Ctx := { c with s := if notify || sp then c.s else c.s.readLine (lineOf place) }
      let cond : Prop := (f.fn.toNat % 4 = 0 → v = cmp) ∧ (f.fn.toNat % 4 = 1 → v ≠ cmp) ∧ (f.fn.toNat % 4 = 2 → cmp ≤ v) ∧
        (f.fn.toNat % 4 = 3 → v < cmp)
      (cond → ∃ t, exec (.waita f) s = .next t ∧ Given seen t (fun _ => 1) ∧ t.launches = c.s.launches ∧ (after c t).sat = c.g.sat) ∧
      (¬cond → xC c 0 = 0 → ∃ t, exec (.waita f) s = .next t ∧ Given seen t (fun _ => 0) ∧ t.launches = c.s.launches ∧
        (after c t).sat = c.g.sat) ∧
      (¬cond → xC c 0 ≠ 0 → ∃ t w, exec (.waita f) s = .next t ∧ StandsAt c t (.waita w) 0x09 ∧ Alone c t ∧ w.place = place ∧
        w.notify = notify ∧ w.cmp = cmp ∧ w.cond = f.fn.toNat % 4 ∧ w.timeout = (xC c 0).toNat ∧ w.woken = false))

/-- 12, R281, R289–R291; 17, R382: a free lock passes to the group that asks: the lock word names it, its grants count one more (said here of a
record that guards no range, and of translations that the walkers or the slices need not fetch), and it goes on; a group that holds it goes on; one that another holds waits in its home's queue, or with `lktry`
goes on with 0. `lkrel` of the holder frees the lock, or passes it to the head of the queue (said of one that guards no range); of another group it
changes no byte. An A that is no pair, a D of `lktry` that may take no result and a group that is not whole trap. -/
def Obligations.Locks : Prop :=
  ∀ (f : Fields) (s : State) (c : Ctx),
    let va := pairValue c c.opA
    let tag (k : Nat) : Nat := c.s.launchNumber (c.s.group k) % (2 ^ 31 - 1) + 1
    let pair : Prop := pairOk c.opA = true
    let okD : Prop := c.opD.isVec = true ∨ (c.opD.isScalar = true ∧ c.opD.index ≤ 59)
    let fails (i : Instr) : Prop := (¬pair → exec i s = .next (s.takeTrap c.k (c.illegalOperand 2))) ∧
      (pair → ¬Whole c → exec i s = .next (s.takeTrap c.k c.illegalConv))
    (Calm 0x258 f noNames s c → fails (.lkacq f)) ∧ (Calm 0x25A f noNames s c → fails (.lkrel f)) ∧
    (Calm 0x259 f destName s c → (¬okD → exec (.lktry f) s = .next (s.takeTrap c.k (c.illegalOperand 1))) ∧ (okD → fails (.lktry f))) ∧
    (c.any = true → Whole c → pair → ∀ pa h, NoSilt c.s pa → (∀ p ∈ c.s.cores, ∀ x ∈ p.2.l1, lineOf x.1 ≠ lineOf pa) →
    c.s.lineBlocked (some c.g.core) (lineOf pa) = false → c.s.walkedAll c.g.core c.asid [va] = c.s →
    c.s.rangesWalked c.g.core c.asid (State.lockRanges (c.s.homeNat pa 64)) = c.s →
    (∀ y, c.s.lockPlace (c.s.who c.k) va = .ok y → y.log = false ∨ c.s.logHolds (c.s.vmidFunc c.launch.vmid) = false) →
    let word := c.s.homeNat pa 4
    let grants := c.s.homeNat (pa + 4) 4
    let mine := 1 + 2 * tag c.k
    let kept (t : State) : Prop := t.mem = c.s.mem ∧ ∀ a, t.homeByte a = c.s.homeByte a
    let taken (t : State) : Prop := ((∀ r ∈ h.ranges, r.2 = 0) → t.homeNat pa 4 = mine ∧ t.homeNat (pa + 4) 4 = (grants + 1) % 2 ^ 32) ∧
      (∃ ps, (after c t).locks = c.g.locks ++ [{ h with guards := ps }]) ∧ t.mem = c.s.mem
    (Calm 0x258 f noNames s c → c.s.lockAt (c.s.who c.k) va true = .ok (pa, h) →
      (word % 2 = 0 → ∃ t, exec (.lkacq f) s = .next t ∧ taken t ∧ KeepsGroup c t ∧ OnlyWoken c t) ∧
      (word = mine → ∃ t, exec (.lkacq f) s = .next t ∧ Passes c t ∧ Alone c t ∧ Counted c t [(12, 8), (13, 8)] ∧ kept t) ∧
      (word % 2 = 1 → word ≠ mine → c.s.lockQueued pa < 1024 → ∃ t, exec (.lkacq f) s = .next t ∧ StandsAt c t (.lock h) 0x08 ∧
        Alone c t ∧ t.lockq.getD pa [] = c.s.lockq.getD pa [] ++ [c.k] ∧ kept t)) ∧
    (Calm 0x259 f destName s c → okD → c.s.lockAt (c.s.who c.k) va true = .ok (pa, h) →
      (word % 2 = 0 → ∃ t w, exec (.lktry f) s = .next t ∧ taken t ∧ KeepsGroup c t ∧ OnlyWoken c t ∧
        (after c t).windows.getLast? = some w ∧ w.opc = 0x259 ∧ w.done = false ∧ HoldsWord c w 1) ∧
      (word = mine → ∃ t w, exec (.lktry f) s = .next t ∧ Opens c t w ∧ Alone c t ∧ HoldsWord c w 1 ∧ w.tally = [(12, 8), (13, 8)] ∧ kept t) ∧
      (word % 2 = 1 → word ≠ mine → ∃ t w, exec (.lktry f) s = .next t ∧ Opens c t w ∧ Alone c t ∧ HoldsWord c w 0 ∧ w.tally = [(12, 8)] ∧ kept t)) ∧
    (Calm 0x25A f noNames s c → Released c true true → c.s.lockAt (c.s.who c.k) va false = .ok (pa, h) →
      let left (t : State) : Prop := KeepsGroup c t ∧ (after c t).locks = c.g.locks.filter (fun x => x.record != va) ∧ t.mem = c.s.mem
      (word ≠ mine → ∃ t, exec (.lkrel f) s = .next t ∧ left t ∧ Alone c t ∧ kept t ∧ t.lockq = c.s.lockq) ∧
      (word = mine → c.s.lockq.getD pa [] = [] → ∃ t, exec (.lkrel f) s = .next t ∧ left t ∧ OnlyWoken c t ∧ t.homeNat pa 4 = 2 * tag c.k ∧
        t.homeNat (pa + 4) 4 = grants) ∧
      (∀ k rest x, word = mine → c.s.lockq.getD pa [] = k :: rest → (c.s.group k).wait = .lock x → (∀ r ∈ x.ranges, r.2 = 0) →
        c.s.tracer (c.s.group k) = none →
        ∃ t, exec (.lkrel f) s = .next t ∧ left t ∧ t.lockq.getD pa [] = rest ∧ (t.group k).wait = .none ∧ t.homeNat pa 4 = 1 + 2 * tag k ∧
          t.homeNat (pa + 4) 4 = (grants + 1) % 2 ^ 32)))

/-! # Populations (13) -/

/-- 13, R295, R296, R302, R303: a group that meets the conditions of `resample` arrives with its target, its ancestor address and
the weight of each lane, and waits; `reorder` deposits key, payload and lineage of every active lane, and those lanes exit. -/
def Obligations.ResampleAndReorder : Prop :=
  ∀ (f : Fields) (s : State) (c : Ctx), c.any = true → Released c true false → c.g.windows = [] →
    (Calm 0x280 f noNames s c → resampleChecks c = none → (∀ n, resampleOperands c n = false) → (∀ p ∈ c.s.groups, c.s.launchOf p.2 = c.launchKey → p.2.wait ≠ .gbar) →
      let sc := f.aux.toNat % 64
      ∃ t a, exec (.resample f) s = .next t ∧ StandsAt c t .resample 0x05 ∧ Alone c t ∧ (t.launch c.launchKey).arrived.find? c.k = some a ∧
        a.target = (xA c 0).toNat ∧ a.pc = c.pc ∧ (a.anc = true ↔ f.fn = 1) ∧
        a.address = (if f.fn = 1 then scalarAt c sc + scalarAt c (sc + 1) * 2 ^ 32 else 0) ∧
        (∀ l, a.weights.find? l = if c.act.getLsbD l then some (xB c l).toNat else none) ∧ t.mem = c.s.mem ∧ t.teams = c.s.teams) ∧
    (Calm 0x281 f noNames s c → reorderChecks c = none → (∀ n, reorderOperands c n = false) → c.g.inh = false → c.slot.owned &&& ~~~c.act = 0 → c.g.stack = [] → c.g.deep = 0 →
      (c.g.slot (!c.b)).vacant = true → c.record.pop = false → ∃ (t : State) (ds : List Deposit), exec (.reorder f) s = .next t ∧ Alone c t ∧
        (t.launch c.launchKey).deposit = c.launch.deposit ++ ds ∧ (t.launch c.launchKey).passOn = true ∧
        (t.launch c.launchKey).passPc = instrs c f.aux.toInt ∧ (t.launch c.launchKey).passP = f.fn.toNat ∧
        (after c t).exited = c.g.exited ||| c.act ∧ (after c t).slot c.b = {} ∧ t.mem = c.s.mem ∧
        ds.length = c.lanes ∧ ∀ (i : Nat) (d : Deposit), ds[i]? = some d → ∃ l, (lanesOf c.act)[i]? = some l ∧ d.key = (xA c l).toNat % 2 ^ 16 ∧
          d.payload = (List.range f.fn.toNat).map (fun j => (nextReg c c.opB j).at l) ∧ d.q = c.s.launchNumber c.g * c.g.width + l ∧
          d.lin = c.g.lin.getD l 0 ∧ d.par = c.g.par.getD l 0 ∧ d.ord = c.g.ord.getD l 0 ∧ d.slotNo = c.g.slotNo.getD l 0)

/-- 13, R306, R307, R293: `popq` opens a window with the population value that FN names, 0 outside a population; `lineage` gives the
64-bit lineage or parent of each active lane in two names, or its old slot, 0 outside a population and from a lane that is not
live. -/
def Obligations.PopulationQueries : Prop :=
  ∀ (f : Fields) (s : State) (c : Ctx), c.any = true →
    let l := c.launch
    let q : Nat := if l.record.pop = false then (if f.fn.toNat = 8 ∧ l.record.coop = true then l.deposit.length else 0)
      else match f.fn.toNat with
        | 0 => l.pop.live
        | 1 => l.pop.seq
        | 2 => l.record.popCap
        | 3 => l.pop.total % 2 ^ 32
        | 4 => l.pop.total / 2 ^ 32 % 2 ^ 32
        | 5 => l.pop.off % 2 ^ 32
        | 6 => l.pop.off / 2 ^ 32 % 2 ^ 32
        | 7 => l.pop.surv
        | _ => if l.record.coop then l.deposit.length else 0
    let of_ (t : Tbl Nat) (i : Nat) : Nat := if l.record.pop = true ∧ c.g.exited.getLsbD i = false then t.getD i 0 else 0
    (Calm 0x282 f destName s c → f.fn.toNat ≤ 8 → c.opD.isVec = true ∨ (c.opD.isScalar = true ∧ c.opD.index ≤ 59) →
      ∃ t w, exec (.popq f) s = .next t ∧ Opens c t w ∧ Alone c t ∧ t = { c.s with groups := t.groups } ∧ HoldsWord c w (BitVec.ofNat 32 q) ∧
        w.tally = [(11, if c.opD.isVec then c.lanes else 1)]) ∧
    (Calm 0x283 f destName s c → f.fn = 2 → c.opD.isVec = true ∨ c.opD.isQ0 = true → ∃ t, exec (.lineage f) s = .next t ∧
      Given c t (fun i => BitVec.ofNat 32 (of_ c.g.oslot i)) ∧ Counted c t [(11, c.lanes)]) ∧
    (Calm 0x283 f (fun c => [c.opD.index, c.opD.index + 1]) s c → f.fn ≠ 2 → c.opD.isVec = true → c.opD.index + 1 < c.record.vregs →
      ∃ t, exec (.lineage f) s = .next t ∧ OnlyGroup c t ∧ OnlyResult c (after c t) ∧ Counted c t [(11, c.lanes)] ∧
        (∀ i, i < c.g.width → i < 96 →
          let x := of_ (if f.fn = 0 then c.g.lin else c.g.par) i
          let old (n : Nat) : Word := (c.g.vreg n).vals.getD i 0
          ((after c t).vreg c.opD.index).vals.getD i 0 = (if c.act.getLsbD i then BitVec.ofNat 32 x else old c.opD.index) ∧
          ((after c t).vreg (c.opD.index + 1)).vals.getD i 0 =
            if c.act.getLsbD i then BitVec.ofNat 32 (x / 2 ^ 32) else old (c.opD.index + 1)) ∧
        (∀ n, n ≠ c.opD.index → n ≠ c.opD.index + 1 → (after c t).vregs.find? n = c.g.vregs.find? n) ∧
        (after c t).sregs = c.g.sregs ∧ (after c t).spoison = c.g.spoison ∧ (∀ n, n < 3 → (after c t).loops.getD n {} = nextLoops c n) ∧
        (after c t).latch = latched c (if c.opD.hold then [namedSource c.s (after c t) c.b c.opD] else []) ∧
        (after c t).q0 = c.g.q0 ∧ (after c t).slot c.b = { c.slot with pc := nextPc c })

/-! # The network instructions (14) -/

/-- 14, R330–R333: `nwr` posts the 64-byte request that 16 scalars or the scratchpad hold to the queue it names of the context of
its address space; `nfence` waits while a request that the group posted is open; `nstat` opens a window with the queue's
number of requests, its room, its error code or its errors. -/
def Obligations.NetworkInstructions : Prop :=
  ∀ (f : Fields) (s : State) (c : Ctx), c.any = true →
    let q := f.fn.toNat % 16
    let reg := f.fn.toNat.testBit 4
    let queue (t : State) (n : Nat) : SendQueue := (t.net n).queues.getD q {}
    (Calm 0x2A0 f noNames s c → ∀ n, c.s.netOf c.asid = some n → (queue c.s n).reqs.length < 64 → Released c true true →
      let sa := (xA c 0).toNat
      let p := State.spPlace c.g.core sa
      (if reg then c.opA.isScalar = true ∧ c.opA.index ≤ 44
       else vectorValued c.g c.b c.opA = false ∧ sa % 64 = 0 ∧ c.s.spAllowed c.g.core c.asid sa 64 = true ∧
         c.s.askFill p.1 p.2 64 = (c.s, false) ∧ c.s.spClaimed p.1 p.2 64 = false) →
      ∃ t r, exec (.nwr f) s = .next t ∧ Passes c t ∧ Alone c t ∧ t = { c.s with groups := t.groups, nets := t.nets } ∧
        (queue t n).reqs = (queue c.s n).reqs ++ [r] ∧ r.group = c.k ∧ r.launch = c.launchKey ∧ r.pc = c.pc ∧ r.started = false ∧
        r.peer = none ∧ r.ending = none ∧ (∀ m, m ≠ n → t.net m = c.s.net m) ∧
        r.raw = if reg then ((List.range 16).map fun i => ((nextReg c c.opA i).at 0).toNat * 2 ^ (32 * i)).sum
                else ofBytes (c.s.spBytes p.1 p.2 64)) ∧
    (Calm 0x2A1 f noNames s c →
      let queues : Option Nat := if reg then none else some q
      (postedOpen c.s c.k queues = false → ∃ t, exec (.nfence f) s = .next t ∧ Goes c t { c.slot with pc := nextPc c } (nextLoops c) c.g.stack) ∧
      (postedOpen c.s c.k queues = true → ∃ t, exec (.nfence f) s = .next t ∧ StandsAt c t (.nfence queues) 0x09 ∧ Alone c t ∧ t.nets = c.s.nets)) ∧
    (Calm 0x2A2 f destName s c → c.opD.isVec = true ∨ (c.opD.isScalar = true ∧ c.opD.index ≤ 59) → ∀ n, c.s.netOf c.asid = some n →
      let x := queue c.s n
      ∃ t w, exec (.nstat f) s = .next t ∧ Opens c t w ∧ Alone c t ∧ t = { c.s with groups := t.groups } ∧
        HoldsWord c w (BitVec.ofNat 32 (match f.fn.toNat / 16 % 4 with
          | 0 => x.reqs.length
          | 1 => 64 - x.reqs.length
          | 2 => x.code
          | _ => min x.errors (2 ^ 32 - 1))) ∧ w.tally = [(11, if c.opD.isVec then c.lanes else 1)])

/-! # Traps and the system instructions (15) -/

/-- 15, R334–R336, R350; Tables 15.1 and 15.2: `trap` and, with no debugger, `bkpt` take their trap: PC, both slots, latch and
last-result file are saved, the trap registers say what it was, and the group goes on at its handler in slot A with every lane
that has not exited; with a debugger `bkpt` halts the group after it. A launch without a handler ends with STATUS 2. -/
def Obligations.TrapEntry : Prop :=
  ∀ (f : Fields) (s : State) (c : Ctx), c.any = true →
    let info : Word := BitVec.ofNat 32 f.aux.toNat
    let debug := (c.s.func (c.s.vmidFunc c.launch.vmid)).dbgEn
    let ends (i : Instr) : Prop := Runs c → c.record.handler = 0 → c.launch.stage = .admitted → ∃ t, exec i s = .next t ∧
      (t.launch c.launchKey).stage = .finishing 2 ∧ t.mem = c.s.mem
    (Calm 0x2C0 f noNames s c → (CanEnter c → ∃ t, exec (.trap f) s = .next t ∧ Enters c t 0xB info) ∧ ends (.trap f)) ∧
    (Calm 0x2C2 f noNames s c →
      (debug = false → (CanEnter c → ∃ t, exec (.bkpt f) s = .next t ∧ Enters c t 0xA info) ∧ ends (.bkpt f)) ∧
      (debug = true → ∃ t, exec (.bkpt f) s = .next t ∧ (after c t).halted = true ∧ KeepsGroup c t ∧ Alone c t ∧
        t = { c.s with groups := t.groups }))

/-- 05, R109; 15, R334–R336: a word that an illegal-instruction or illegal-operand condition of the word's form stops, whatever its instruction,
has no effect but the trap; where an operand breaks such a rule, the field of the trap is that one or an earlier one that breaks a rule of the
instruction's own. -/
def Sys2Proof.Spec.partIllegalWordsTrap : Prop :=
  ∀ (i : Instr) (opc : Nat) (f : Fields) (s : State) (c : Ctx) (x : TrapInfo), Forms.wordOf i = some (opc, f) → s.ctx opc f = some c →
    s.tracer c.g = none → CanEnter c → formTrap c = some x →
    ∃ t, exec i s = .next t ∧ (after c t).inh = true ∧ (after c t).vregs = c.g.vregs ∧ (after c t).sregs = c.g.sregs ∧
      (after c t).preds = c.g.preds ∧ t = { c.s with groups := t.groups } ∧ Alone c t ∧ (after c t).trapRegs.getD 1 0 = c.pc ∧
      (x.code = 1 ∨ x.code = 2) ∧ ∃ n, (after c t).trapRegs.getD 0 0 = BitVec.ofNat 32 (x.code + n * 2 ^ 8) ∧ n ≤ x.field ∧
        (x.code = 1 → n = x.field)

/-- 03, R69, R71; 11, R247; 15, R338–R340: a load or a store each of whose lanes fails its checks is held: nothing of it lands, no byte of memory
or of a scratchpad has changed, a fault record joins the function's ring with the lanes that failed and the cause that ranks first, and the
group waits on it with those lanes as its replay entry. -/
def Sys2Proof.Spec.partFailedLanesHold : Prop :=
  ∀ (f : Fields) (s : State) (c : Ctx) (i : Instr) (opc : Nat) (names : Ctx → List Nat) (own : Ctx → Nat → Bool),
    (i, opc, names, own) ∈ [(Instr.ld f, 0x1C0, blockNames, loadOperands), (.lds f, 0x1C2, blockNames, loadOperands),
      (.st f, 0x1C1, noNames, storeOperands), (.sts f, 0x1C3, noNames, storeOperands)] →
    Calm opc f names s c own → c.any = true → multiplies s c.g.core = false →
    let fails (l : Nat) (x : XFault) : Prop := c.s.aim (c.s.who c.k) (laneForm opc f) (laneAddr c l) = .error x
    let fn := c.s.vmidFunc c.launch.vmid
    (∀ l ∈ reaching c, c.s.laneWalked (c.s.who c.k) (laneForm opc f) (laneAddr c l) = c.s ∧ ∃ x, fails l x) →
    ∃ t r e l x, exec i s = .next t ∧ Alone c t ∧
      t = { c.s with groups := t.groups, funcs := t.funcs, held := t.held, launches := t.launches, serial := c.s.serial + 1 } ∧
      (∀ j, j ≠ fn → t.func j = c.s.func j) ∧ (t.func fn).fqWait = (c.s.func fn).fqWait ++ [r] ∧
      t.held = c.s.held ++ [{ func := fn, seq := r.seq, record := r, at_ := .group c.k }] ∧
      l ∈ reaching c ∧ fails l x ∧ (∀ l' x', l' ∈ reaching c → fails l' x' → causeRank x.cause ≤ causeRank x'.cause) ∧
      r.cause = x.cause ∧ r.stage = x.stage ∧ r.level = x.level ∧ r.addr = laneAddr c l % 2 ^ 64 ∧ r.lane = l ∧ r.pc = c.pc.toNat ∧
      r.access = (laneForm opc f).access.code ∧ r.tag = c.record.tag ∧ r.asid = c.asid ∧ r.vmid = c.launch.vmid ∧ r.core = c.g.core ∧
      (∀ j, r.lanes.testBit j = decide (j ∈ reaching c)) ∧
      (after c t).wait = .fault r.seq ∧ (after c t).replay = some e ∧ e.lanes.map (fun y => (y.lane, y.addr)) = (reaching c).map (fun j => (j, laneAddr c j)) ∧
      e.pc = c.pc ∧ e.seq = r.seq ∧ (after c t).sregs = c.g.sregs ∧ (after c t).preds = c.g.preds ∧
      (∀ n, n ∉ lastFrees c → (after c t).vregs.find? n = c.g.vregs.find? n)

/-- Words that do not run: a word that an issue check stops, and a load or store whose lanes all fail theirs: `Spec.partIllegalWordsTrap`, `Spec.partFailedLanesHold` (rules and tier in their docstrings). -/
def Obligations.IllegalWordsTrap : Prop :=
  Sys2Proof.Spec.partIllegalWordsTrap ∧ Sys2Proof.Spec.partFailedLanesHold

/-- 15, R338, R351: `rte` ends the handler: both slots, latch and last-result file are as they were saved, but the trapped slot's PC:
TPC with TRESUME 0, TPC + 12 with TRESUME 1; with TRESUME 2 the launch ends with STATUS 2. -/
def Obligations.ReturnFromTrap : Prop :=
  ∀ (f : Fields) (s : State) (c : Ctx) (fr : TrapFrame), Calm 0x2C1 f noNames s c → c.any = true → c.g.inh = true → c.g.live true = false →
    c.g.depth = c.g.baseDepth → c.g.frame = some fr → fr.replay = none →
    let resume := (c.g.trapRegs.getD 9 0).toNat % 4
    let tpc := c.g.trapRegs.getD 1 0
    let b := (c.g.trapRegs.getD 10 0).getLsbD 1
    let saved (x : Bool) : PcSlot := if x then fr.slotB else fr.slotA
    (resume < 2 → ∃ t, exec (.rte f) s = .next t ∧ Alone c t ∧ t = { c.s with groups := t.groups } ∧ (after c t).inh = false ∧
      (after c t).frame = none ∧ (after c t).slot b = { saved b with pc := if resume = 0 then tpc else tpc + 12 } ∧
      (after c t).slot (!b) = saved (!b) ∧ (after c t).latch = fr.latch ∧ (after c t).q0 = fr.q0 ∧ (after c t).q1 = fr.q1 ∧
      (after c t).vregs = c.g.vregs ∧ (after c t).sregs = c.g.sregs ∧ (after c t).preds = c.g.preds ∧ (after c t).stack = c.g.stack ∧
      (after c t).loops = c.g.loops ∧ ∀ w ∈ (after c t).windows, w.frozen = false) ∧
    (resume = 2 → c.launch.stage = .admitted → ∃ t, exec (.rte f) s = .next t ∧ (t.launch c.launchKey).stage = .finishing 2)

/-- 15, R349, R352, R357; 17, R380, R381: `rdsr` gives a trap register, and traps on HOLD of its D, a D that it may not write and an index above 10;
`wrsr` writes TRESUME, in a handler alone, and traps on the value 3 and on any other index; `mtrd` opens a window
with a 64-bit counter of the launch in two registers, once what the group issued has retired. -/
def Obligations.SystemRegisters : Prop :=
  ∀ (f : Fields) (s : State) (c : Ctx), c.any = true →
    (Calm 0x2C3 f destName s c → f.aux.toNat ≤ 10 → c.opD.isVec = true ∨ c.opD.isQ0 = true ∨ (c.opD.isScalar = true ∧ c.opD.index ≤ 59) →
      c.opD.hold = false → ∃ t, exec (.rdsr f) s = .next t ∧ Given c t (fun _ => c.g.trapRegs.getD f.aux.toNat 0) ∧ t.launches = c.s.launches) ∧
    (Calm 0x2C3 f destName s c →
      let good : Prop := (c.opD.isVec = true ∨ c.opD.isQ0 = true ∨ (c.opD.isScalar = true ∧ c.opD.index ≤ 59)) ∧ c.opD.hold = false
      (¬good → exec (.rdsr f) s = .next (s.takeTrap c.k (c.illegalOperand 1))) ∧
      (good → 10 < f.aux.toNat → exec (.rdsr f) s = .next (s.takeTrap c.k (c.illegalOperand 5)))) ∧
    (Calm 0x2C4 f noNames s c → vectorValued c.g c.b c.opA = false →
      ((xA c 0).toNat % 4 = 3 → exec (.wrsr f) s = .next (s.takeTrap c.k (c.illegalOperand 2))) ∧
      ((xA c 0).toNat % 4 ≠ 3 → f.aux ≠ 9 ∨ c.g.inh = false → exec (.wrsr f) s = .next (s.takeTrap c.k (c.illegalOperand 5)))) ∧
    (Calm 0x2C4 f noNames s c → f.aux = 9 → c.g.inh = true → vectorValued c.g c.b c.opA = false → (xA c 0).toNat % 4 ≠ 3 →
      ∃ t, exec (.wrsr f) s = .next t ∧ KeepsGroup c t ∧ Alone c t ∧ t = { c.s with groups := t.groups } ∧
        (after c t).trapRegs = c.g.trapRegs.set 9 (BitVec.ofNat 32 ((xA c 0).toNat % 4))) ∧
    (Calm 0x2D8 f (fun c => if c.opD.isVec then [c.opD.index, c.opD.index + 1] else []) s c → unretired c.s c.k = false →
      (c.opD.isScalar = true ∧ c.opD.index ≤ 58 ∧ c.opD.index % 2 = 0) ∨ (c.opD.isVec = true ∧ c.opD.index + 1 < c.record.vregs) →
      ∃ t w d e, exec (.mtrd f) s = .next t ∧ Opens c t w ∧ Alone c t ∧ t = { c.s with groups := t.groups } ∧ w.dests = [d, e] ∧
        let x := c.launch.ctrs.getD f.aux.toNat 0
        (if c.opD.isVec then d.name = .v c.opD.index ∧ e.name = .v (c.opD.index + 1)
         else d.name = .s c.opD.index ∧ e.name = .s (c.opD.index + 1)) ∧ d.lanes = c.act ∧ e.lanes = c.act ∧
        ∀ l, l < (if c.opD.isVec then c.g.width else 1) →
          d.vals.getD l 0 = BitVec.ofNat 32 x ∧ e.vals.getD l 0 = BitVec.ofNat 32 (x / 2 ^ 32))

/-- 15, R353–R355; 12, R271: `cwb` brings the dirty bytes of a range from the core's L1 to their homes; `cinv` takes the lines it
touches out of the L1, having written back what was dirty; `icinv` empties the core's instruction cache and loop buffers; `fbar` discards what
both slots have fetched. That `cinv` writes back dirty bytes that lie outside its range is the model's choice (log 42). (Of words whose translation the
walkers or the slices need not fetch; the homes' bytes where no launch waits for a counter.) -/
def Obligations.CacheMaintenance : Prop :=
  ∀ (f : Fields) (s : State) (c : Ctx), c.any = true →
    let rs := translatedRanges c.s c.g.core c.asid (pairValue c c.opA) (xB c 0).toNat
    let inside (a : Nat) : Prop := ∃ r ∈ rs, r.1 ≤ a ∧ a < r.1 + r.2
    let touched (a : Nat) : Prop := ∃ r ∈ rs, r.2 ≠ 0 ∧ lineOf r.1 ≤ lineOf a ∧ lineOf a ≤ lineOf (r.1 + r.2 - 1)
    let ready : Prop := pairOk c.opA = true ∧ vectorValued c.g c.b c.opB = false ∧ ((here c).l1.map Prod.fst).Nodup ∧
      c.s.walkedAll c.g.core c.asid ((CopyCmd.pages ((xB c 0).toNat / 65536 + 2) (pairValue c c.opA) (xB c 0).toNat).map Prod.fst) = c.s ∧
      ∀ x ∈ (here c).l1, inside x.1 → c.s.lineBlocked (some c.g.core) (lineOf x.1) = false
    let written (gone : Nat → Prop) (t : State) : Prop := t.mem = c.s.mem ∧
      (∀ a, gone a → (t.core c.g.core).l1.find? a = none ∧ (NoWaits c.s → t.homeByte a = c.s.coreByte c.g.core a)) ∧
      ∀ a, ¬gone a → (t.core c.g.core).l1.find? a = (here c).l1.find? a ∧ (NoWaits c.s → t.homeByte a = c.s.homeByte a)
    (Calm 0x2C8 f noNames s c → ready → ∃ t, exec (.cwb f) s = .next t ∧ Passes c t ∧ OnlyWoken c t ∧ written inside t) ∧
    (Calm 0x2C9 f noNames s c → ready → ∃ t, exec (.cinv f) s = .next t ∧ Passes c t ∧ OnlyWoken c t ∧
      written (fun a => inside a ∨ touched a) t ∧
      (t.core c.g.core).lines = (here c).lines.filter (fun l => !decide (touched (128 * l))) ∧ (t.core c.g.core).misses = (here c).misses.filter fun l => !decide (touched (128 * l))) ∧
    (Calm 0x2CA f noNames s c → ∃ t, exec (.icinv f) s = .next t ∧ Passes c t ∧ Alone c t ∧
      t = { c.s with groups := t.groups, cores := t.cores } ∧ (∀ j, j ≠ c.g.core → t.core j = c.s.core j) ∧
      t.core c.g.core = { here c with icache := [], s0 := { (here c).s0 with loopBuf := [] }, s1 := { (here c).s1 with loopBuf := [] } }) ∧
    (Calm 0x2CB f noNames s c → ∃ t, exec (.fbar f) s = .next t ∧ Alone c t ∧ t = { c.s with groups := t.groups } ∧
      OnlyPath c (after c t) ∧ OnlyFreed c (after c t) ∧ (after c t).slot c.b = { c.slot with pc := nextPc c, stream := [] } ∧
      (after c t).slot (!c.b) = { c.g.slot (!c.b) with stream := [] } ∧ (after c t).stack = c.g.stack)

/-- 15, R356, R358–R360; 03, R52, R65, R66: `launch` writes the notify slot of an enabled queue of the same address space; `tmark` of a group
that is not traced does nothing; `halt` halts the group after it; `tlbi`, of VMID 0 alone, drops every cached translation that it
names, and of another VMID traps. What a `tlbi` waits for is the model's reading: row 80 of the assumption log. -/
def Obligations.SubmissionAndHalt : Prop :=
  ∀ (f : Fields) (s : State) (c : Ctx), c.any = true →
    let n := (xA c 0).toNat
    let q := c.s.queue n
    let value := (xB c 0).toNat
    (Calm 0x2D0 f noNames s c → vectorValued c.g c.b c.opA = false → vectorValued c.g c.b c.opB = false → Released c true true →
      n ≤ 131071 → q.devsub = true → q.asid = c.asid → q.vmid = c.launch.vmid →
      (q.enable = true → q.error = 0 → (value + 2 ^ 32 - q.cons) % 2 ^ 32 ≤ 2 ^ q.size → ∃ t, exec (.launch f) s = .next t ∧ Passes c t ∧
        OnlyWoken c t ∧ t = { c.s with groups := t.groups, queues := t.queues } ∧ t.queue n = { q with prod := value, todo := (value + 2 ^ 32 - q.cons) % 2 ^ 32 - (q.taken + 2 ^ 32 - q.cons) % 2 ^ 32 } ∧
        ∀ j, j ≠ n → t.queue j = c.s.queue j) ∧
      (q.enable = false → ∃ t, exec (.launch f) s = .next t ∧ Goes c t { c.slot with pc := nextPc c } (nextLoops c) c.g.stack)) ∧
    (Calm 0x2D9 f noNames s c → ∃ t, exec (.tmark f) s = .next t ∧ Goes c t { c.slot with pc := nextPc c } (nextLoops c) c.g.stack) ∧
    (Calm 0x2E0 f noNames s c → ∃ t, exec (.halt f) s = .next t ∧ (after c t).halted = true ∧ KeepsGroup c t ∧ Alone c t ∧
      t = { c.s with groups := t.groups }) ∧
    (Calm 0x2E1 f noNames s c → pairOk c.opA = true → vectorValued c.g c.b c.opB = false →
      let x := tlbiOf c
      (c.launch.vmid ≠ 0 → exec (.tlbi f) s = .next (s.takeTrap c.k (c.illegalInstr 0))) ∧
      (c.launch.vmid = 0 → c.g.outstanding = false → c.s.peersOpen c.k = false → c.s.peersLeft x = false → c.s.lockedPages x = false →
      ∃ t, exec (.tlbi f) s = .next t ∧ Passes c t ∧ Alone c t ∧ t.mem = c.s.mem ∧ t.bdq = c.s.bdq ∧
        (∀ j, t.core j = { c.s.core j with tlb := (c.s.core j).tlb.filter fun e => !x.covers e }) ∧
        (∀ j, t.ctlb.getD j [] = (c.s.ctlb.getD j []).filter fun e => !x.covers e) ∧
        ∀ j, t.walkers.getD j [] = (c.s.walkers.getD j []).filter fun e => !x.coversWalk e))

/-! # The events (the rows of the opcode table that are not instruction words) -/

/-- 01, R24–R26; 17, R394: boot verifies and measures the firmware or stays in recovery; the root of trust signs what it is asked;
core windows answer by page, a core's state only while it is halted; CSTAT halts and releases a core. Signatures, keys and the contents of
the root of trust's answers, and a boot of a machine that runs, are the model's choice: rows 10, 21, 76 and 87 of the assumption log. -/
def Sys2Proof.Spec.partBootAndReadback : Prop :=
  ∀ s : State,
    -- 01, R24; 04, R84: the firmware is verified and measured, or the package stays in recovery
    (s.root.running = false → s.root.recovery = false →
      (Config.firmwareVerifies s.root.flash.flatten = true → Config.minSecurityVersion ≤ s.root.version →
        ∃ t, exec .boot s = .next t ∧
          t = { s with cores := t.cores, root := { s.root with running := true, measured := s.root.flash.map sha512 } } ∧
          ∀ c, t.core c = { s.core c with split := 0 }) ∧
      (Config.firmwareVerifies s.root.flash.flatten = false ∨ s.root.version < Config.minSecurityVersion →
        ∃ t, exec .boot s = .next t ∧ t = { s with cores := t.cores, root := { s.root with recovery := true } })) ∧
    -- 01, R24, R25: in recovery no request is answered; else certificates; a signed nonce; the nonce with the measurement blocks, signed
    (s.root.running = false → ∀ req, exec (.spdmRequest req) s = .next s) ∧
    (s.root.running = true → exec (.spdmRequest .certificate) s = .next { s with out := s.out ++ [.spdm Config.certificateChain 0] } ∧
      ∀ nonce, ∃ t u, exec (.spdmRequest (.challenge nonce)) s = .next t ∧ exec (.spdmRequest (.measurements nonce)) s = .next u ∧
        t = { s with out := s.out ++ [.spdm (toBytes 32 nonce) (Config.sign 1 s.root.draws (toBytes 32 nonce))],
                     root := { s.root with draws := s.root.draws + 1 } } ∧
        let body := toBytes 32 nonce ++ s.root.measured.flatMap (toBytes 64)
        u = { s with out := s.out ++ [.spdm body (Config.sign 1 s.root.draws body)], root := { s.root with draws := s.root.draws + 1 } }) ∧
    -- 01, R26; 17, R394: a core window answers its page selector, and a scratchpad page of a halted core
    (∀ c, c < 1536 →
      exec (.mgmtCoreRead { offset := 0x2000000 + 0x4000 * c + 8 }) s = .next { s with out := s.out ++ [.hostRead (toBytes 8 (s.core c).csel)] } ∧
      ∀ p off, p < 0x30 → off < 0x2000 → off % 8 = 0 → (s.core c).csel = 0x2000 + p →
        (coreHalted s c = true → exec (.mgmtCoreRead { offset := 0x2000000 + 0x4000 * c + 0x2000 + off }) s =
          .next { s with out := s.out ++ [.hostRead (if 8192 * p + off < (128 + 64 * (s.core c).split) * 1024 then s.spBytes c (8192 * p + off) 8 else toBytes 8 0)] }) ∧
        (coreHalted s c = false → exec (.mgmtCoreRead { offset := 0x2000000 + 0x4000 * c + 0x2000 + off }) s =
          .next { s with out := s.out ++ [.hostRead (toBytes 8 0)], pkg := { s.pkg with notHalted := true } })) ∧
    -- 00, R4; 03, R48, R52, R60; 01, R15, R26: registers read what they hold, a VF's as the PF's; a slot reads PROD; a VF reads no other
    -- VMID's address space
    (∀ func, func = 0 ∨ s.root.running = true →
      let answer (x : Nat) : Host.Outcome State Fault Refusal := .next { s with out := s.out ++ [.hostRead (toBytes 8 x)] }
      exec (.mgmtCoreRead { func := func, offset := 0x60050 }) s = answer (s.func func).fqProd ∧
      exec (.mgmtCoreRead { func := func, offset := 0x60080 }) s = answer (s.func func).aperture ∧
      exec (.mgmtCoreRead { func := func, offset := 0x60060 }) s = answer 0 ∧
      (∀ n, n < 16384 → func ≠ 0 → s.funcVmid func ≠ some (s.space n).vmid →
        exec (.mgmtCoreRead { func := func, offset := 0x80000 + 16 * n + 8 }) s = answer 0) ∧
      (∀ n, n < 16 → exec (.mgmtCoreRead { offset := 0x30000 + 8 * n }) s =
        answer ((s.part n).clusters + (if (s.part n).clusters = 0 then 0 else 2 ^ 32) + (if (s.part n).err then 2 ^ 33 else 0))) ∧
      ∀ q, q < 131072 → s.root.running = true → s.funcVmid func = some (s.queue q).vmid →
        exec (.mgmtCoreRead { func := func, bar2 := true, offset := 8 * q }) s = answer (s.queue q).prod) ∧
    -- 17, R394: CSTAT halts and releases a core
    (∀ core value, ∃ t, exec (.cstatWrite core value) s = .next t ∧ (t.core core).halt = value.testBit 1 ∧ t.mem = s.mem ∧
      ∀ j, j ≠ core → (t.core j).halt = (s.core j).halt)

/-- 01, R15, R19, R21–R23: PART_CTL gives a partition its clusters and clears the cores that it loses; a refused write sets ERR; the
clock step follows PCLK_CTL once no multiply or commit runs; the trip latches at TRIP_C and clears below it. That ERR stays set through a
later accepted write, and the TRIP_C that a clearing write is held to, are the model's choice: row 88 of the assumption log. -/
def Obligations.PartitionsAndClocks : Prop :=
  ∀ (s : State) (n value : Nat),
    let p := s.part n
    let new := value % 2 ^ 32
    let free : Prop := s.root.running = true ∧ partBusy s n = false ∧ (∀ q ∈ s.queues, q.2.enable = true → q.2.part ≠ n) ∧
      p.rstGo = false ∧ ∀ c, c < 32 → new.testBit c = true → p.clusters.testBit c = false → ∀ x ∈ s.parts, x.1 ≠ n → x.2.clusters.testBit c = false
    (new ≠ p.clusters → free → ∃ t, exec (.partCtlWrite n value) s = .next t ∧ t.mem = s.mem ∧ (t.part n).clusters = new ∧
      (t.part n).err = (p.err && !value.testBit 33) ∧ (t.part n).cursor = 0 ∧ (∀ j, j ≠ n → t.part j = s.part j) ∧
      ∀ c, c < 1536 → p.clusters.testBit (c / 48) = true → new.testBit (c / 48) = false →
        (t.core c).lines = [] ∧ (t.core c).l1 = [] ∧ (t.core c).scratch = []) ∧
    (new ≠ p.clusters → ¬free → exec (.partCtlWrite n value) s = .next (s.setPart n { p with err := true })) ∧
    (p.pending = false → value % 4 = p.step → exec (.pclkCtlWrite n value) s =
      .next (s.setPart n { p with budget := value / 256 % 256, asked := value % 4 })) ∧
    (p.pending = false → value % 4 ≠ p.step → ∃ t, exec (.pclkCtlWrite n value) s = .next t ∧
      t.part n = { p with budget := value / 256 % 256, asked := value % 4, pending := true } ∧ (∀ j, j ≠ n → t.part j = s.part j) ∧
      t = { s with parts := t.parts, clusters := t.clusters, cores := t.cores, groups := t.groups } ∧
      ∀ k g, s.groups.find? k = some g → coreIn s n g.core = true → g.wait = .mma → t.group k = { g with wait := .none }) ∧
    ((s.part s.focus).pending = true → (∀ c ∈ s.cores, coreIn s s.focus c.1 = true → ∀ e ∈ c.2.mq, e.multiplying = false) →
      (∀ l ∈ s.launches, l.2.part = s.focus → l.2.commit = none) →
      exec .clockStepSwitch s =
        .next (s.setPart s.focus { s.part s.focus with pending := false, step := (s.part s.focus).asked })) ∧
    (∃ t, exec (.thermalSample value) s = .next t ∧ t.pkg.temp = value ∧
      t.pkg.tripped = (s.pkg.tripped || (s.pkg.tripEn && decide (s.pkg.tripC ≤ value))) ∧
      t = { s with pkg := { s.pkg with temp := value, tripped := t.pkg.tripped },
                   out := if t.pkg.tripped && !s.pkg.tripped then s.out ++ [.management 0] else s.out }) ∧
    (∃ t, exec (.thermCtlWrite value) s = .next t ∧ t.pkg.tripC = value / 256 % 256 ∧ t.pkg.tripEn = value.testBit 0 ∧
      t.pkg.tripped = ((t.pkg.tripEn && decide (t.pkg.tripC ≤ s.pkg.temp)) ||
        (s.pkg.tripped && !(value.testBit 1 && decide (s.pkg.temp < t.pkg.tripC)))))

/-- 00, R4–R6; 03, R47–R49; 10, R231; 01, R16: an aligned register write takes the fields of its word. A field that is too large takes the
nearest value; a queue's fields stand while it is enabled, and a range's while it is. A VF has no registers of the package. Which
unnamed bits a register keeps is the model's choice: rows 84 and 88 of the assumption log. -/
def Sys2Proof.Spec.partRegisterWrites : Prop :=
  ∀ (s : State) (func value : Nat),
    (func = 0 ∨ s.root.running = true →
      exec (.registerWrite func 0x60080 value) s = .next (s.setFunc func { s.func func with aperture := value / 2 ^ 36 * 2 ^ 36 }) ∧
      exec (.registerWrite func 0x60128 value) s = .next (s.setFunc func { s.func func with ctxPoolSz := value % 2 ^ 32 })) ∧
    (∀ n, n < 131072 → exec (.registerWrite 0 (0x1000000 + 32 * n + 8) value) s = .next (s.setQueue n
      (if (s.queue n).enable then s.queue n
       else { s.queue n with asid := value / 16 % 2 ^ 14, ring := (s.queue n).ring / 2 ^ 32 * 2 ^ 32 + value / 2 ^ 32 % 2 ^ 32 }))) ∧
    (∀ n, n < 16 → (s.range n).enable = true → exec (.registerWrite 0 (0x20000 + 32 * n + 16) value) s = .next (s.setRange n (s.range n))) ∧
    (∀ n, n < 16 → exec (.registerWrite 0 (0x180100 + 8 * n) value) s = .next (s.setPart n { s.part n with period := min 11 (value % 16) })) ∧
    (∀ n, n < 256 → exec (.registerWrite 0 (0xC0000 + 16 * n + 8) value) s =
      .next { s with vmids := s.vmids.set n { s.vm n with root := value % 2 ^ 52 } }) ∧
    (func ≠ 0 → exec (.registerWrite func 0x180030 value) s = .next s)

/-- What the host does to registers: boot and readback, and the writes of each register: `Spec.partBootAndReadback`, `Spec.partRegisterWrites` (rules and tier in their docstrings). -/
def Obligations.HostRegisters : Prop :=
  Sys2Proof.Spec.partBootAndReadback ∧ Sys2Proof.Spec.partRegisterWrites

namespace Sys2Proof.Spec

open Sys2Proof.Machine

/-- The device reads the bytes `bs` at virtual address `va` of an address space, with nothing to bring home first: of the state only the
slices that read a line and the packets they send are other. -/
def DeviceReads (s : State) (asid va n : Nat) (s' : State) (bs : List Byte) : Prop :=
  s.engineRead asid va n = .ok s' bs ∧ s' = { s with l2 := s'.l2, bdq := s'.bdq }

/-- The walks made between `s` and `r` have changed nothing but the slices that read a line and the packets they send (03, R66). -/
def WalksMade (s r : State) : Prop := r = { s with l2 := r.l2, bdq := r.bdq } ∧ ∀ a, r.homeByte a = s.homeByte a

/-- A device physical address lies in no range of a partition that is being reset (16, R372). -/
def NoReset (s : State) (pa : Nat) : Prop := ∀ n r, s.rangeOf pa = some (n, r) → (s.part r.part).rstGo = false

/-- A dependence wait of a launch that tests `m`: satisfied before, absent, or its counter is read now (02, R45). -/
def Tests (s s' : State) (asid : Nat) (got : Bool) (addr value : Nat) (m : Bool) : Prop :=
  ((got = true ∨ addr = 0) ∧ s' = s ∧ m = true) ∨
  (got = false ∧ addr ≠ 0 ∧ ∃ bs, DeviceReads s asid addr 8 s' bs ∧ m = decide (value ≤ ofBytes bs))

/-- Plain device bytes at `ps`: no line of them waits, no Silt line holds a part of them, and none is logged. -/
def Plain (s : State) (ps : List (Nat × Nat × Option Nat)) : Prop :=
  ∀ p ∈ ps, s.rangeBlocked none p.1 p.2.1 = false ∧ p.2.2 = none ∧ ∀ i, i < p.2.1 → NoSilt s (p.1 + i)

/-- Memory at its homes holds `bs` from `pa` up and is otherwise as it was: so where no launch waits for a counter, whose read may bring
other bytes of a written line home (02, R45). -/
def Holds (s t : State) (pa : Nat) (bs : List Byte) : Prop :=
  t.mem = s.mem ∧ (NoWaits s → ∀ a, t.homeByte a = if pa ≤ a ∧ a < pa + bs.length then bs.getD (a - pa) 0 else s.homeByte a)

/-- The ERROR code an enable leaves (03, R50). -/
def errorOf (s : State) (x : Queue) : Nat :=
  if (s.space x.asid).valid = false ∨ (s.space x.asid).vmid ≠ x.vmid then 2
  else if x.size < 4 ∨ 15 < x.size then 3
  else if (s.part x.part).clusters = 0 then 4
  else 0

end Sys2Proof.Spec

open Sys2Proof.Spec in
/-- 03, R49–R53: an enable starts the queue at 0 with the first error code that applies; a notify write of the queue's own VMID sets
PROD, one that overruns the ring sets ERROR 1, one of another VMID is dropped and counted. How many records an evaluation takes is the
model's reading (log 49). -/
def Sys2Proof.Spec.partQueuesAndNotify : Prop :=
  ∀ (s : State) (q : Nat),
    let x := s.queue q
    (∀ value, x.enable = false → value.testBit 0 = true → ∃ t, exec (.queueEnable q value) s = .next t ∧
      t = { s with queues := t.queues } ∧ (∀ j, j ≠ q → t.queue j = s.queue j) ∧
      let y := t.queue q
      y = { x with enable := true, taken := 0, cons := 0, prod := 0, held := none, finals := [], epoch := s.serial, todo := 0, error := errorOf s y,
                   vmid := value / 2 ^ 56 % 256, part := value / 2 ^ 52 % 16, size := value / 2 ^ 48 % 16, prio := value / 4 % 4,
                   devsub := value.testBit 1 }) ∧
    (x.enable = true → exec (.queueDisable q) s = .next (s.setQueue q { x with enable := false })) ∧
    ∀ func width value v, s.root.running = true → width = 4 ∨ width = 8 → s.funcVmid func = some v → x.enable = true →
      let pending := (value % 2 ^ 32 + 2 ^ 32 - x.cons) % 2 ^ 32
      (x.vmid ≠ v → exec (.notifyWrite func (8 * q) width value) s =
        .next { s with pkg := { s.pkg with notifyDrop := min (2 ^ 64 - 1) (s.pkg.notifyDrop + 1) } }) ∧
      (x.vmid = v → x.error ≠ 0 → ∃ t, exec (.notifyWrite func (8 * q) width value) s = .next t ∧
        t = { s with groups := t.groups, queues := s.queues.set q { x with prod := value % 2 ^ 32 } }) ∧
      (x.vmid = v → x.error = 0 → pending ≤ 2 ^ x.size → ∃ t, exec (.notifyWrite func (8 * q) width value) s = .next t ∧
        t = { s with groups := t.groups,
                     queues := s.queues.set q { x with prod := value % 2 ^ 32, todo := pending - (x.taken + 2 ^ 32 - x.cons) % 2 ^ 32 } }) ∧
      (x.vmid = v → x.error = 0 → 2 ^ x.size < pending → ∃ t, exec (.notifyWrite func (8 * q) width value) s = .next t ∧
        t.queue q = { x with prod := value % 2 ^ 32, error := 1, todo := 0 })

open Sys2Proof.Spec in
/-- 02, R33–R35, R42–R45; 03, R53, R54: a queue takes the record at TAKEN and, where it is the head, checks it; the dependence
counters make it eligible; the first offer reads its image's tables and its parameters. That all of a record is read at one moment is the
model's choice (log 91). -/
def Sys2Proof.Spec.partRecordsToOffers : Prop :=
  ∀ (s : State) (q : Nat),
    let x := s.queue q
    (∀ bs r, x.enable = true → x.error = 0 → x.held = none → 0 < x.todo → funcRuns s x.vmid = true → (s.space x.asid).valid = true →
      headOf s q = none → DeviceReads s x.asid (x.ring + 128 * (x.taken % 2 ^ x.size)) 128 r bs →
      ∃ t l, exec (.takeRecord q) s = .next t ∧ t.queue q = { x with taken := (x.taken + 1) % 2 ^ 32, todo := x.todo - 1 } ∧
        t = { r with serial := s.serial + 1, queues := t.queues, launches := s.launches.set (s.serial + 1) l } ∧
        l.queue = q ∧ l.index = x.taken ∧ l.record = LaunchRec.ofBits (ofBytes bs) ∧ l.asid = x.asid ∧ l.vmid = x.vmid ∧ l.part = x.part ∧
        l.prio = x.prio ∧
        l.stage = match recordCheck l.record (reservedRecord (ofBytes bs)) with
          | some code => .finishing code
          | none => if l.record.wait0A = 0 ∧ l.record.wait1A = 0 then .eligible else .waiting) ∧
    (∀ k s1 s2 m0 m1, let l := s.launch k
      headOf s q = some (k, l) → l.stage = .waiting → (∀ h ∈ s.held, h.at_ ≠ .dependence k) → funcRuns s l.vmid = true →
      Tests s s1 l.asid l.got0 l.record.wait0A l.record.wait0V m0 → Tests s1 s2 l.asid l.got1 l.record.wait1A l.record.wait1V m1 →
      ∃ p0 p1, exec (.dependenceWait q) s =
        .next (s2.setLaunch k { l with got0 := m0, got1 := m1, place0 := p0, place1 := p1, stage := if m0 && m1 then .eligible else .waiting })) ∧
    (∀ k head table block s1 s2 s3, let l := s.launch k
      (offers s s.focus).find? (fun l => l.2.stage == .eligible) = some (k, l) →
      DeviceReads s l.asid l.record.kimg 64 s1 head →
      let h := ofBytes head
      let mask := h / 2 ^ 352 % 2 ^ 16
      let good : Prop := h % 2 ^ 32 = 0x4B425844 ∧ h / 2 ^ 32 % 2 ^ 16 = 1 ∧ l.record.entry.toNat % 12 = 0 ∧ l.record.handler.toNat % 12 = 0
      (¬good → (s.launches.map Prod.fst).Nodup → ∃ t, exec .headOffer s = .next t ∧ (t.launch k).stage = .finishing 0x0102) ∧
      (good → DeviceReads s1 l.asid (l.record.kimg + h / 2 ^ 320 % 2 ^ 32) (64 * popCount mask 16) s2 table →
        DeviceReads s2 l.asid l.record.param (if l.record.param = 0 then 0 else 64) s3 block →
        exec .headOffer s = .next (s3.setLaunch k { l with stage := .offered, trecs := tableRecords mask table, params := (if l.record.param = 0 then []
          else (List.range 16).map fun i => BitVec.ofNat 32 (ofBytes ((block.drop (4 * i)).take 4))) })))

open Sys2Proof.Spec in
/-- 02, R44; 03, R48, R54; 16, R372: a launch whose effects are all made writes its STATUS, its queue moves on past it, and it is gone; the
aperture reads and writes memory through the stage 2 of its function, but while the partition that owns a line is being reset, reads return
all ones and writes are dropped. What precedes the STATUS is the model's reading (log 51). -/
def Obligations.FinalStateAndAperture : Prop :=
  ∀ s : State,
    (∀ code pa, let k := s.focus
      let l := s.launch k
      let x := s.queue l.queue
      let s1 := s.setLaunch k { l with finalAt := .status }
      let r := s1.engineWalked l.asid (CopyCmd.pages 2 (l.recAddr + 112) 4)
      l.stage = .finishing code → l.finalAt = .report → s.pkg.rptEnable = false → l.record.sigAddr = 0 →
      (∀ t ∈ s.teams, t.2.launch ≠ k) → launchPosted s k = false → funcRuns s l.vmid = true →
      (∀ h ∈ s.held, h.at_ ≠ .status k) → (∀ q ∈ s.pkg.rptWait, q.kind = 1 → q.launch ≠ k) → WalksMade s1 r →
      r.intervals engineCore l.asid .write (CopyCmd.pages 2 (l.recAddr + 112) 4) = .ok [(pa, 4, none)] → Plain r [(pa, 4, none)] → x.epoch < k → x.finals = [] → x.cons = l.index →
      ∃ t, exec .launchFinal s = .next t ∧ Holds s t pa (toBytes 4 code) ∧ t.launches.find? k = none ∧
        (∀ j, j ≠ k → (s.launch j).stage ≠ .waiting → t.launches.find? j = s.launches.find? j) ∧ t.queue l.queue = { x with cons := (x.cons + 1) % 2 ^ 32 }) ∧
    (∀ func offset len ps, let addr := (s.func func).aperture + offset
      let r := (CopyCmd.pages (len / 65536 + 2) addr len).foldl (fun s p => s.walkedFunc func p.1) s
      s.root.running = true → WalksMade s r → apertureSlot r func addr len false = none → aperturePlaces r func addr len .read = .ok ps →
      ((∀ x ∈ ps, NoReset s x.pa) → Plain r (ps.map fun x => (x.pa, 1, none)) →
        ∃ t, exec (.apertureAccess func offset len none) s = .next t ∧ (∀ a, t.homeByte a = s.homeByte a) ∧
          t = { s with l2 := t.l2, bdq := t.bdq, out := s.out ++ [.hostRead (ps.map fun x => s.homeByte x.pa)] }) ∧
      ((∃ x ∈ ps, ¬NoReset s x.pa) →
        exec (.apertureAccess func offset len none) s = .next { r with out := s.out ++ [.hostRead (List.replicate len 0xFF)] })) ∧
    ∀ func offset len bs ps, let addr := (s.func func).aperture + offset
      let r := (CopyCmd.pages (bs.length / 65536 + 2) addr bs.length).foldl (fun s p => s.walkedFunc func p.1) s
      s.root.running = true → WalksMade s r → apertureSlot r func addr bs.length true = none →
      aperturePlaces r func addr bs.length .write = .ok ps →
      ((∀ x ∈ ps, NoReset s x.pa) → Plain r (ps.map fun x => (x.pa, 1, none)) → (∀ x ∈ ps, x.log = false) → (ps.map (·.pa)).Nodup →
        ∃ t, exec (.apertureAccess func offset len (some bs)) s = .next t ∧ t.mem = s.mem ∧
          (∀ (i : Nat) (x : Xlat), ps[i]? = some x → t.homeByte x.pa = bs.getD i 0) ∧
          ∀ a, a ∉ ps.map (·.pa) → t.homeByte a = s.homeByte a) ∧
      ((∃ x ∈ ps, ¬NoReset s x.pa) → exec (.apertureAccess func offset len (some bs)) s = .next r)

/-- From a queue header to an offer of a launch: the queue, NOTIFY, and the records taken: `Spec.partQueuesAndNotify`, `Spec.partRecordsToOffers` (rules and tier in their docstrings). -/
def Obligations.Submission : Prop :=
  Sys2Proof.Spec.partQueuesAndNotify ∧ Sys2Proof.Spec.partRecordsToOffers

namespace Sys2Proof.Spec

open Sys2Proof.Machine

/-- Group `g` has entered its handler as `h` for a trap of these registers (15, R336). -/
structure InHandler (g h : Group) (handler : Word) (x : TrapInfo) : Prop where
  same  : h = { g with trap := none, trapRegs := h.trapRegs, replay := none, capture := none, inh := true, went := true, slotA := h.slotA, slotB := {},
                       latch := [], q0 := none, q1 := none, spill := .none, wait := .none, frame := h.frame,
                       windows := g.windows.map fun w => { w with frozen := true } }
  frame : h.frame = some { slotA := { g.slotA with stream := [] }, slotB := { g.slotB with stream := [] }, latch := g.latch, q0 := g.q0, q1 := g.q1,
                           depth := g.depth, replay := g.replay, capture := g.capture.filter fun y => x.async || y.slotB != x.slotB }
  slot  : h.slotA = { pc := handler, rpc := 0xFFFFFFFF, fmt := (g.slot x.slotB).fmt, active := g.liveLanes, owned := g.liveLanes }
  cause : h.trapRegs.getD 0 0 = BitVec.ofNat 32 (x.code + x.field * 2 ^ 8 + x.cause * 2 ^ 12 + x.access * 2 ^ 16)
  tpc   : h.trapRegs.getD 1 0 = x.pc
  tinfo : h.trapRegs.getD 2 0 = x.info

/-- Only group `k` of the machine has changed. -/
def OnlyTheGroup (s t : State) (k : Nat) : Prop := t = { s with groups := t.groups } ∧ ∀ j, j ≠ k → t.groups.find? j = s.groups.find? j

end Sys2Proof.Spec

open Sys2Proof.Spec in
/-- 03, R65–R67: TLBI_CMD starts an invalidation of the KIND it names, which drops every cached translation that it covers; a VF acts on its
own VMID and its own address spaces; a refused command sets ERR; it completes once no multiply holds a page and no access to a peer made
under an old translation is open; a walk's result is cached. When it is complete is the model's reading (log 80), ERR's reset by a later
command its choice (log 88). -/
def Sys2Proof.Spec.partInvalidations : Prop :=
  ∀ (s : State) (func value : Nat),
    let f := s.func func
    let kind := value / 4 % 8
    let asid := value / 2 ^ 36 % 2 ^ 14
    let vmid := if func = 0 then value / 2 ^ 28 % 2 ^ 8 else (s.funcVmid func).getD 256
    let count := value / 2 ^ 12 % 2 ^ 16
    let own : Prop := kind ≤ 4 ∧ (func = 0 ∨ kind = 0 ∨ kind = 3 ∨ (kind < 3 ∧ s.funcVmid func = some (s.space asid).vmid))
    let cmd : Instr := match kind with
      | 0 => .tlbiCmdVmid func value
      | 1 => .tlbiCmdAsid func value
      | 2 => .tlbiCmdAsidVa func value
      | 3 => .tlbiCmdS2Range func value
      | _ => .tlbiCmdAll func value
    let drops (e : TlbEntry) : Prop := match kind with
      | 0 => e.vmid = vmid
      | 1 => e.asid = asid
      | 2 => e.asid = asid ∧ e.page * 2 ^ e.shift < (f.tlbiAddr / 65536 + if count = 0 then 65536 else count) * 65536 ∧
          f.tlbiAddr / 65536 * 65536 < e.page * 2 ^ e.shift + 2 ^ e.shift
      | 3 => e.vmid = vmid
      | _ => True
    (s.answers func = true → f.tlbiGo = false → value.testBit 0 = true →
      (own → ∃ t, exec cmd s = .next t ∧ (t.func func).tlbiGo = true ∧
        t = { s with funcs := t.funcs, cores := t.cores, ctlb := t.ctlb, walkers := t.walkers } ∧
        (∀ c e, e ∈ (t.core c).tlb ↔ e ∈ (s.core c).tlb ∧ ¬drops e) ∧ ∀ c e, e ∈ t.ctlb.getD c [] ↔ e ∈ s.ctlb.getD c [] ∧ ¬drops e) ∧
      (¬own → ∃ t, exec (.tlbiCmdRefused func value) s = .next t ∧ t = { s with funcs := t.funcs } ∧ (t.func func).tlbiErr = true ∧
        (t.func func).tlbiGo = false)) ∧
    (f.tlbiGo = true → s.lockedPages (funcTlbi s func) = false → s.peersLeft (funcTlbi s func) = false → ∃ t, exec (.tlbiComplete func) s = .next t ∧ (t.func func).tlbiGo = false ∧
      t = { s with funcs := t.funcs, cores := t.cores, ctlb := t.ctlb, walkers := t.walkers }) ∧
    ∀ core a page e, let r := s.touchAll (s.walkReads core a (page * 65536))
      r.walkBoth core a (page * 65536) = .ok e → ∃ t, exec (.walkComplete core a page) s = .next t ∧
      t = { r with cores := t.cores, ctlb := t.ctlb, walkers := t.walkers } ∧ t.cached core a (page * 65536) = some e ∧
      (t.core core).tlb.length ≤ 64 ∧ (t.core core).l1 = (r.core core).l1 ∧ ∀ c, c ≠ core → t.core c = r.core c

open Sys2Proof.Spec in
/-- 03, R68, R69, R72: the registers of the fault ring; the oldest waiting record goes into the slot that PROD names, with the PHASE of the
pass and an interrupt once the write-range log has taken what is open, or sets FULL where the ring is; it waits for a ring page that does
not translate, and for a log that holds its write (log 41). -/
def Sys2Proof.Spec.partFaultRing : Prop :=
  ∀ (s : State) (func value : Nat),
    let f := s.func func
    (s.answers func = true → exec (.fqBaseWrite func value) s = .next (s.setFunc func { f with fqBase := value / 4096 * 4096, fqBlocked := false }) ∧
    exec (.fqConsWrite func value) s = .next (s.setFunc func { f with fqCons := value % 2 ^ 32, fqBlocked := false }) ∧
    (∃ t, exec (.fqCtlWrite func value) s = .next t ∧ t = s.setFunc func (t.func func) ∧ t.func func =
      { f with fqSize := max 6 (min 15 (value / 4096 % 16)), fqAckErr := f.fqAckErr && !value.testBit 2, fqFull := f.fqFull && !value.testBit 1,
               fqEnable := value.testBit 0, fqProd := (if value.testBit 0 then 0 else f.fqProd), fqBlocked := false })) ∧
    ∀ r rest, f.fqWait = r :: rest → f.fqEnable = true → f.fqBlocked = false →
      ((f.fqProd + 2 ^ 32 - f.fqCons) % 2 ^ 32 = 2 ^ f.fqSize →
        exec (.faultRecordWrite func) s = .next (s.setFunc func { f with fqFull := true })) ∧
      let at_ (i : Nat) : Nat := f.fqBase + 64 * (f.fqProd % 2 ^ f.fqSize) + i
      let made := s.ringWrite func at_ (toBytes 64 (r.bits (1 - f.fqProd / 2 ^ f.fqSize % 2)))
      ((f.fqProd + 2 ^ 32 - f.fqCons) % 2 ^ 32 ≠ 2 ^ f.fqSize →
        (s.ringWaits func at_ 64 = true → exec (.faultRecordWrite func) s = .next (s.setFunc func { f with logFull := true })) ∧
        (s.ringWaits func at_ 64 = false →
          (made = none → exec (.faultRecordWrite func) s = .next (s.setFunc func { f with fqBlocked := true })) ∧
          ∀ u v, made = some u → u.logReleased func = some v →
            ∃ t, exec (.faultRecordWrite func) s = .next t ∧ t = { v with funcs := t.funcs, out := v.out ++ [.msix func 0] } ∧
              t.func func = { v.func func with fqWait := rest, fqProd := (f.fqProd + 1) % 2 ^ 32 } ∧ ∀ j, j ≠ func → t.func j = v.func j))

open Sys2Proof.Spec in
/-- 03, R73; 15, R334–R336, R412: an acknowledgement releases a held group, gives it the fault as a trap or ends its launch; one that names no
held fault sets ACK_ERR; a pending trap is entered once nothing is outstanding; an asynchronous one at the next boundary, which is no
wait (log 53). -/
def Sys2Proof.Spec.partAcknowledgementsAndTraps : Prop :=
  ∀ (s : State) (func seq k : Nat),
    let g := s.group k
    let handler := (s.launch (s.launchOf g)).record.handler
    let canEnter : Prop := handler ≠ 0 ∧ g.inh = false ∧ g.outstanding = false ∧ s.tracer g = none ∧ s.clockRuns g.core = true
    (s.answers func = true → ∀ h, pendingFault s func seq = some h → h.at_ = .group k → (s.team g.team).resident = true →
      let others := s.held.filter fun x => !(x.func == func && x.seq == h.seq)
      (∃ t, exec (.fqAckRetry func seq) s = .next t ∧ t = { s with held := others, groups := t.groups } ∧
        (∀ j, j ≠ k → t.groups.find? j = s.groups.find? j) ∧ (t.group k).wait = .none ∧ ∀ r, (t.group k).replay = some r ↔ g.replay = some r ∧ r.opc ≠ 0) ∧
      (canEnter → ∃ t, exec (.fqAckTrap func seq) s = .next t ∧ t = { s with held := others, groups := t.groups, cores := t.cores } ∧
        (∀ j, j ≠ k → t.groups.find? j = s.groups.find? j) ∧ InHandler { g with wait := .none } (t.group k) handler
          { code := 0xC, cause := h.record.cause, access := h.record.access, pc := BitVec.ofNat 32 h.record.pc, info := BitVec.ofNat 32 h.seq,
            slotB := (g.replay.map (·.slotB)).getD false }) ∧
      ((s.launches.map Prod.fst).Nodup → (s.launch (s.launchOf g)).stage = .admitted → ∃ t, exec (.fqAckEnd func seq) s = .next t ∧
        t.mem = s.mem ∧ (t.launch (s.launchOf g)).stage = .finishing 2 ∧ (t.group k).exited = g.allLanes ∧ h ∉ t.held)) ∧
    (s.answers func = true → ∀ value, value % 4 = 3 ∨ pendingFault s func (value / 4) = none →
      exec (.fqAckInvalid func value) s = .next (s.setFunc func { s.func func with fqAckErr := true })) ∧
    (∀ x, s.groups.find? k = some g → g.trap = some x → canEnter → (s.team g.team).resident = true → ∃ t, exec (.trapEntry k) s = .next t ∧ OnlyTheGroup s t k ∧ InHandler g (t.group k) handler x) ∧
    ∀ x rest, s.groups.find? k = some g → g.asyncs = x :: rest → g.ended = false → g.dormFmt = none → g.exited ≠ g.allLanes →
      atBoundary s g = true → canEnter → ∃ t b, exec (.asyncTrapDeliver k) s = .next t ∧ OnlyTheGroup s t k ∧
        InHandler { g with asyncs := rest } (t.group k) handler
          { x with slotB := b, async := true, pc := if x.atPc then x.pc else (g.slot b).pc }

/-- The events of invalidation, of the fault ring, and of acknowledgements and traps from outside: `Spec.partInvalidations`, `Spec.partFaultRing`, `Spec.partAcknowledgementsAndTraps` (rules and tier in their docstrings). -/
def Obligations.FaultsAndTrapsOfHost : Prop :=
  Sys2Proof.Spec.partInvalidations ∧ Sys2Proof.Spec.partFaultRing ∧ Sys2Proof.Spec.partAcknowledgementsAndTraps

open Sys2Proof.Spec in
/-- 04, R74–R84, R88, R90–R92; 06, R141: an admission takes the launch's place and starts the groups of its first team; a head that never
fits is rejected; teams that are in the way are chosen for eviction; registers are granted, spilled and brought back; the longest resident
active group gives way; a group that is over ends, and a team whose groups have ended exits and may complete its launch. What a decision
and a team's end leave open the model settles in logs 54, 55 and 92, the age of a group and the elders of a spill in log 79. -/
def Sys2Proof.Spec.partPlacementAndEnds : Prop :=
  ∀ (s : State) (k : Nat),
    let g := s.group k
    (∀ l sp cursor, decide' s s.focus = .act (.admits l [sp] cursor) → spotWaits s sp = false → (s.launches.map Prod.fst).Nodup →
      (sp.groups.map (·.grpid)).Nodup →
      let x := s.launch l
      ∃ t, exec .admissionDecision s = .next t ∧ t.mem = s.mem ∧ (t.launch l).stage = .admitted ∧ (t.part s.focus).cursor = cursor ∧
        (t.part s.focus).admitted = (s.part s.focus).admitted + 1 ∧ (t.launch l).order = (s.part s.focus).admitted + 1 ∧
        let tm := t.team (l * 2 ^ 32)
        tm.launch = l ∧ tm.teamid = 0 ∧ tm.resident = true ∧ tm.core = sp.core ∧ tm.spLen = sp.len ∧
        (∀ off, tm.spOff0 ≤ off → off < tm.spOff0 + tm.spLen → Memory.read (t.core sp.core).scratch off = 0) ∧
        ∀ b ∈ sp.groups, s.groups.find? (groupKey l x.record 0 b.grpid) = none →
          let h := t.group (groupKey l x.record 0 b.grpid)
          h.team = l * 2 ^ 32 ∧ h.grpid = b.grpid ∧ h.core = b.core ∧ h.sched = b.sched ∧ h.units = b.units ∧ h.width = 32 * x.record.width ∧
          h.slotA.pc = x.record.entry ∧ h.slotA.fmt = x.record.fmtInit &&& 0x0FFF1FFF ∧ h.slotB = {}) ∧
    (∀ l, decide' s s.focus = .reject l → (s.launches.map Prod.fst).Nodup →
      ∃ t, exec .admissionDecision s = .next t ∧ (t.launch l).stage = .finishing 0x0104) ∧
    (∀ c, decide' s s.focus = .evict c → ∃ t, exec .admissionDecision s = .next t ∧ t = { s with teams := t.teams, parts := t.parts } ∧
      (t.part s.focus).claim = some c ∧ ∀ i, t.team i = if i ∈ c.gone then { s.team i with stopping := true } else s.team i) ∧
    (s.focus = k → s.groups.find? k = some g → g.wait = .alloc → s.clockRuns g.core = true → s.olderWaits k g = false → g.need ≤ s.poolFree g.core →
      exec .regAllocGrant s = .next (s.setGroup k { g with wait := .none, granted := g.need })) ∧
    (∀ v gv, oldestWaiter s s.focus = some (k, g) → (s.core s.focus).issueAt + 256 ≤ s.now → s.clockRuns s.focus = true → s.quiesced (s.launchOf g) = false → s.poolFree s.focus < g.need →
      spilledElders s g = [] → (∀ t ∈ s.teams, t.2.resident = true → (teamCores s t.2).contains s.focus = true →
        poolWaits s (s.vmidFunc (s.launch t.2.launch).vmid) t.2.image = false) →
      nextVictim s s.focus k = some (v, gv) → g.need ≤ (spillGroup s v).poolFree s.focus → ∃ t, exec .spillGroups s = .next t ∧
        (t.group k).wait = .none ∧ (t.group k).granted = g.need ∧ (t.group v).vregs = [] ∧ (t.group v).spilled = some (s.group v).vregs ∧
        t.mem = s.mem) ∧
    (oldestWaiter s s.focus = some (k, g) → (s.core s.focus).issueAt + 256 ≤ s.now → s.clockRuns s.focus = true → s.quiesced (s.launchOf g) = false →
      spilledElders s g ≠ [] → (∀ t ∈ s.teams, t.2.resident = true → (teamCores s t.2).contains s.focus = true →
        poolWaits s (s.vmidFunc (s.launch t.2.launch).vmid) t.2.image = false) →
      let r := (spilledElders s g).foldl (fun u p => restoreGroup u p.1) s
      g.need + ((spilledElders s g).map fun p => restoreNeed s p.2).sum ≤ s.poolFree s.focus → g.need ≤ r.poolFree s.focus →
      ∃ t, exec .spillGroups s = .next t ∧ (t.group k).wait = .none ∧ (t.group k).granted = g.need ∧ t = { s with groups := t.groups } ∧
        ∀ p ∈ spilledElders s g, (t.group p.1).spilled = none) ∧
    (∀ vs, s.focus = k → s.groups.find? k = some g → g.spilled = some vs → (s.team g.team).resident = true → s.clockRuns g.core = true →
      s.olderWaits k g = false → (g.nameCount - (s.launch (s.launchOf g)).record.vfloor) * (g.width / 32) ≤ s.poolFree g.core →
      exec .spillRestore s = .next (s.setGroup k { g with vregs := vs, spilled := none })) ∧
    (∀ core sched p, let x := s.sched core sched
      x.entry + 2048 ≤ s.now → x.due = [] → s.clockRuns core = true → s.oldestReady x = some p → x.active ≠ [] → ∃ t o, exec (.activeSetRotate core sched) s = .next t ∧
        o ∈ x.active ∧ (∀ a ∈ x.active, o.since ≤ a.since) ∧ t = { s with cores := t.cores } ∧
        t.sched core sched = { x with active := x.active.filter (·.group != o.group) ++ [{ group := p.group, since := s.now }], entry := s.now,
                                      pending := s.pendNow o.group (x.pending.filter (·.group != p.group)) }) ∧
    (s.groups.find? k = some g → groupOver s k g = true → g.locks = [] → ∃ t, exec (.groupEnd k) s = .next t ∧ t.mem = s.mem ∧
      (t.group k).ended = true ∧ (t.group k).windows = [] ∧ (t.group k).slotA = {} ∧ (t.group k).slotB = {}) ∧
    ∀ team, let x := s.team team
      Tbl.sortedFrom 0 s.teams = true → teamOver s team = true → x.resident = true → (∀ c ∈ teamCores s x, (s.releaseLines c team false).any (s.lineBlocked (some c)) = false) →
      x.windows.any (s.dirtyClaimed x) = false →
      s.windowLogHolds team (fun _ => true) = false → (∀ h ∈ s.teamGroups team, h.2.ended = true ∧ h.2.locks = []) →
      ∃ t, exec (.teamExit team) s = .next t ∧ t.mem = s.mem ∧ (t.team team).resident = false ∧ (t.team team).exited = true ∧
        (t.team team).windows = [] ∧ (∀ c ∈ teamCores s x, ∀ y ∈ (t.core c).tiles, y.2.owner ≠ some team) ∧
        ((s.launch x.launch).stage = .admitted → (s.launch x.launch).next = (s.launch x.launch).record.teams →
          (∀ y ∈ s.teams, y.2.launch = x.launch → y.1 = team ∨ y.2.exited = true) → (t.launch x.launch).stage = .finishing 1)

open Sys2Proof.Spec in
/-- 05, R111, R113; 06, R121, R144; 12, R288; 15, R342–R344: a fetch fills the slot's stream; a long-latency instruction completes and a
window whose count is used up delivers; the spill region is reached; a yield ends; a sleeper wakes to a condition that holds, sleeps on, or
times out; teams are chosen for eviction, leave with their state saved, and return to the same offsets with their scratchpad. What closes a
window and what a bundle's fault names are settled in log 93, which accesses reach the spill region in log 57, parking in log 70,
and which image is restored in log 81. -/
def Sys2Proof.Spec.partGroupsComeAndGo : Prop :=
  ∀ (s : State) (k : Nat) (b : Bool),
    let g := s.group k
    let p := g.slot b
    s.groups.find? k = some g →
    (∀ ws, p.owned ≠ 0 → p.join = false → g.wait = .none → g.replay = none → g.trap = none → s.agentsRun g.team g.core = true →
      groupHalted s g = false → p.pc.toNat % 12 = 0 → p.stream.find? p.pc.toNat = none → s.fetchWaits g b = false →
      let r := s.bundleWalked g p.pc.toNat
      WalksMade s r → r.fetchBundle g p.pc.toNat = .ok ws → (∀ c ∈ s.cores, c.2.silt = []) →
      ∃ t, exec (.instructionFetch k b) s = .next t ∧
        t = { s with groups := t.groups, cores := t.cores, l2 := t.l2, bdq := t.bdq } ∧ (∀ a, t.homeByte a = s.homeByte a) ∧
        (∀ j, j ≠ k → t.groups.find? j = s.groups.find? j) ∧
        (∀ pc ∈ State.bundlePcs p.pc.toNat, ((t.group k).slot b).stream.find? pc = some (State.bundleWord ws pc)) ∧
        ((t.group k).slot b).pc = p.pc ∧ (t.group k).vregs = g.vregs) ∧
    (∀ i w, g.windows[i]? = some w → w.done = false → w.held = 0 → w.pend = 0 → (s.team g.team).resident = true → s.clockRuns g.core = true → g.spilled = none →
      (w.remA ≠ some 0 → w.remB ≠ some 0 → (∀ x ∈ g.windows, x.closes = false) → ∃ t, exec (.longLatencyComplete k i) s = .next t ∧
        t = { s with groups := t.groups, launches := t.launches } ∧ t.group k = { g with windows := g.windows.set i { w with done := true } }) ∧
      (∀ n d, g.windows = [w] → w.remA = some 0 → w.frees = [] → w.dests = [d] → d.name = .v n → ∃ t, exec (.longLatencyComplete k i) s = .next t ∧
        t = { s with groups := t.groups, launches := t.launches } ∧ (t.group k).windows = [] ∧
        (∀ j, j ≠ n → (t.group k).vregs.find? j = g.vregs.find? j) ∧ ∀ l, l < g.width → l < 96 →
          ((t.group k).vreg n).vals.getD l 0 = if (d.lanes &&& g.liveLanes).getLsbD l then d.vals.getD l 0 else (g.vreg n).vals.getD l 0)) ∧
    (g.spill = .wanted → g.wait = .none → (s.team g.team).resident = true → s.clockRuns g.core = true →
      spillBlocked s g = false → ∀ r, (spillAccesses s g).foldl (fun (u, w) a => let (u, x) := u.spillTouch g a.1 a.2; (u, w || x)) (s, false) = (r, false) →
      WalksMade s r → ∃ t, exec (.stackSpillAccess k) s = .next t ∧
        t = { s with groups := s.groups.set k { g with spill := .granted }, l2 := t.l2, bdq := t.bdq } ∧ ∀ a, t.homeByte a = s.homeByte a) ∧
    (∀ n, p.yieldAt = some n → n + 64 ≤ s.now → (s.team g.team).resident = true → s.clockRuns g.core = true →
      exec (.yieldRelease k b) s = .next (s.setGroup k (g.setSlot b { p with yieldAt := none, yieldFor := [] }))) ∧
    (∀ w, let c := s.waitCtx k
      g.wait = .waita w → s.agentsRun g.team g.core = true → g.spilled = none → s.tracer g = none → (∀ x ∈ g.windows, x.done = false) →
      c.any = true → c.opD.isVec = true ∨ (c.opD.isScalar = true ∧ c.opD.index ≤ 59) →
      (w.timeout = 0 → ∃ t, exec (.waitaTimeout k) s = .next t ∧ Given c t fun _ => 0) ∧
      ∀ notify place v r, let q := waitaWalked s g.core (s.who k).asid w
        w.woken = true → WalksMade s q → waitaPlace q (q.who k) w.sp w.wide w.addr = .ok (notify, place) →
        waitaRead q g.core { w with notify := notify, place := place } = (r, some v) → r = { s with l2 := r.l2, bdq := r.bdq } →
        let met : Prop := match w.cond with
          | 0 => v = w.cmp
          | 1 => v ≠ w.cmp
          | 2 => w.cmp ≤ v
          | _ => v < w.cmp
        (met → ∃ t, exec (.waitaWake k) s = .next t ∧ Given (r.waitCtx k) t fun _ => 1) ∧
        (¬met → exec (.waitaWake k) s = .next (r.setGroup k { g with wait := .waita { w with notify := notify, place := place, woken := false } }))) ∧
    (∀ func value, s.answers func = true → (s.func func).evGo = false → value.testBit 63 = true →
      (∀ l, evictTarget s func (value / 2 ^ 32 % 2 ^ 17) (value % 2 ^ 32) = some l → ∃ t, exec (.evictCmd func value) s = .next t ∧
        t = { s with teams := t.teams, funcs := t.funcs } ∧ (t.func func).evPark = value.testBit 61 ∧
        ∀ i x, s.teams.find? i = some x → x.launch = l → x.resident = true → t.team i = { x with stopping := true, parked := value.testBit 61 }) ∧
      (evictTarget s func (value / 2 ^ 32 % 2 ^ 17) (value % 2 ^ 32) = none → ∃ t, exec (.evictCmd func value) s = .next t ∧
        t = { s with funcs := t.funcs } ∧ (t.func func).evErr = true)) ∧
    (evictReady s g.team = true → coresBlocked s (teamCores s (s.team g.team)) = false →
      poolWaits s (launchFunc s (s.launch (s.launchOf g))) (s.team g.team).image = false → ∃ t, exec (.teamEvict g.team) s = .next t ∧
      (t.team g.team).resident = false ∧ (t.team g.team).evicted = true ∧ (t.team g.team).stopping = false ∧
      (t.saved.find? g.team).isSome = true ∧ t.mem = s.mem ∧ (t.group k).vregs = g.vregs ∧ (t.group k).sregs = g.sregs ∧
      (t.group k).slotA = { g.slotA with stream := [], yieldFor := [] } ∧ (t.group k).slotB = { g.slotB with stream := [], yieldFor := [] }) ∧
    ∀ team sp cursor ws kept, let x := s.team team
      let l := s.launch x.launch
      decide' s l.part = .act (.restore team sp cursor) → spotWaits s sp = false →
      let q := imageWalked (takeImage s team) sp.core l.asid ((takeImage s team).team team).windows ((takeImage s team).teamGroups team)
      WalksMade s q → windowsAgain q sp.core l.asid x.windows = .ok ws → (∃ hs, locksAgain q sp.core l.asid (s.teamGroups team) = .ok hs) →
      s.saved.find? team = some kept → l.record.span = false → sp.cores = [sp.core] → Memory.wf kept.scratch = true → Memory.wf (s.core sp.core).scratch = true → ∃ t, exec (.teamRestore team) s = .next t ∧ (t.part l.part).cursor = cursor ∧
        (t.team team).resident = true ∧ (t.team team).evicted = false ∧ (t.team team).core = sp.core ∧ t.saved.find? team = none ∧
        ∀ off, x.spOff0 ≤ off → off < x.spOff0 + x.spLen → off < 2 ^ 19 → Memory.read (t.core sp.core).scratch off = Memory.read kept.scratch off

/-- The events of placement: teams placed and ended, groups made resident, entered, swapped and ended: `Spec.partPlacementAndEnds`, `Spec.partGroupsComeAndGo` (rules and tier in their docstrings). -/
def Obligations.PlacementEvents : Prop :=
  Sys2Proof.Spec.partPlacementAndEnds ∧ Sys2Proof.Spec.partGroupsComeAndGo

namespace Sys2Proof.Spec

open Sys2Proof.Machine

/-- The value of an INT8 operand's pattern, signed under code 2 and unsigned under code 6 (07, R147). -/
def int8 (code p : Nat) : Int := if code = 2 ∧ p.testBit 7 then (p : Int) - 256 else p

/-- The bytes that a piece of a copy's source holds, where they stand: the scratchpad, or memory as the copy's core sees it. -/
def PieceHolds (s : State) (core : Nat) (bs : List Byte) : Piece → Prop
  | .mem pa n _ => bs = s.coreBytes core pa n ∧ ((s.core core).l1.map Prod.fst).Nodup ∧ ∀ i, i < n → NoSilt s (pa + i)
  | .sp k off n => bs = s.spBytes k off n
  | .kaolin off n => bs = Memory.bytes (s.core core).kaolin off n

end Sys2Proof.Spec

open Sys2Proof.Spec in
/-- 09, R203, R204, R211–R214; 01, R22: an MMA whose operands can be read and that has leave starts to multiply, and its group goes on; as it
completes its tile holds the sums, an INT8 element the old value (or 0) plus the products of its row and column modulo 2^32; the oldest
entry of a tile, if it is an `accz.rel`, frees it; the governor opens its windows and grants within the budget. How accumulator words wait
in the queue, and what an MMA held by a fault leaves there, is the model's reading (logs 25, 26). -/
def Sys2Proof.Spec.partMultiplyEvents : Prop :=
  ∀ (s : State) (k : Nat),
    let g := s.group k
    (∀ e a poison pages bytes r m, let e' : MqEntry := { e with stage := true }
      let s' := setEntry s g.core e'
      let c := walkedA { s.waitCtx k with s := s' } e'
      (s.core g.core).mq.find? (fun e => e.group == k && !e.multiplying && e.opc != 0x18B && e.opc != 0x188) = some e → g.wait = .mma →
      s.agentsRun g.team g.core = true → e.loaded = false → stageFree s g.core e = true →
      (∀ x ∈ earlierOn s g.core e, x.multiplying = true) →
      (match e.opc with
        | 0x180 => readScratchA c e'
        | 0x181 => readVectorA c e'
        | _ => readGlobalA c e') = .ok r a poison pages bytes →
      r = { s' with l2 := r.l2, bdq := r.bdq, cores := r.cores } → (∀ j, j ≠ g.core → r.core j = s'.core j) →
      r.core g.core = { s'.core g.core with misses := m } → kaolinFault c.s g.core g.team e' = false → kaolinPending r g.core e' = false →
      s.budgetOf (g.core / 48) = 255 → (s.cluster (g.core / 48)).waiting = [] →
      (tileOf s g.core e.tile).owner = none ∨ (tileOf s g.core e.tile).owner = some g.team →
      s.groups.find? k = some g → g.spilled = none → s.tracer g = none → (∀ x ∈ g.windows, x.done = false) →
      ∃ t x, exec (.mmaMultiplyStart k) s = .next t ∧ t.mem = s.mem ∧ x ∈ (t.core g.core).mq ∧ x.serial = e.serial ∧ x.multiplying = true ∧
        x.stage = true ∧ x.a = a ∧ x.apoison = poison ∧ x.tile = e.tile ∧ (tileOf t g.core e.tile).owner = some g.team ∧
        (t.group k).wait = .none ∧ ((t.group k).slot g.waitB).pc = nextPc (s.waitCtx k) ∧ (t.group k).sregs = g.sregs) ∧
    (∀ e, let core := s.focus
      s.clockRuns core = true → nextDone (s.core core).mq [] = some e → ∃ t, exec .mmaComplete s = .next t ∧ t.mem = s.mem ∧
        (∀ x ∈ (t.core core).mq, x.serial ≠ e.serial) ∧ (∀ n, n ≠ e.tile → tileOf t core n = tileOf s core n) ∧
        tileOf t core e.tile = (mmaEffect (s.core core) e (tileOf s core e.tile)).1 ∧
        (e.afmt = 2 ∨ e.afmt = 6 → e.bfmt = 2 ∨ e.bfmt = 6 → e.k % 32 = 0 → ∀ i j, i < 64 → j < 128 →
          (tileOf t core e.tile).elems.getD (i * 128 + j) 0 =
            w32 ((if e.zero then 0 else uv ((tileOf s core e.tile).elems.getD (i * 128 + j) 0)) +
              ((List.range e.k).map fun kk => int8 e.afmt ((e.a.getD i []).getD kk 0) * int8 e.bfmt (kaolinElem (s.core core) e kk j)).sum))) ∧
    (∀ core n e, (s.core core).mq.find? (fun e => e.tile == n) = some e → e.opc = 0x188 → s.clockRuns core = true →
      ∃ t, exec (.accTileRelease core n) s = .next t ∧ tileOf t core n = {} ∧ t = { s with cores := t.cores } ∧
        (t.core core).mq = (s.core core).mq.filter (fun x => x.serial != e.serial) ∧ ∀ j, j ≠ n → tileOf t core j = tileOf s core j) ∧
    let x := s.cluster s.focus
    (x.since / 1024 < s.now / 1024 → exec .governorWindow s = .next (s.setCluster s.focus { x with granted := 0, since := s.now })) ∧
    ∀ j n rest, x.waiting = (j, n) :: rest →
      (s.budgetOf s.focus = 255 ∨ (0 < s.budgetOf s.focus ∧ x.since / 1024 = s.now / 1024 ∧
        (x.granted + n ≤ s.budgetOf s.focus ∨ (s.budgetOf s.focus < n ∧ x.granted = 0)))) →
      exec .tokenGrant s = .next (s.setCluster s.focus { x with granted := x.granted + n, waiting := rest, leave := x.leave ++ [{ group := j, tokens := n, since := x.since }] })

open Sys2Proof.Spec in
/-- 11, R259, R262–R264: a copy that begins takes its destination lines from every core; a chunk reads its source and its destination holds
those bytes; after the last chunk the completion word is written and the command leaves its queue. When a copy may begin, and what it does
with poison, is the model's reading (logs 35, 64). -/
def Sys2Proof.Spec.partCopyEvents : Prop :=
  ∀ (s : State) (c : CopyCmd), runningCopy s s.focus = some c →
    let core := s.focus
    let at_ := State.spPlace core c.dst
    let cw := State.spPlace core c.cwAddr
    (let q := copyWalked s core c (CopyCmd.globalLeft { c with begun := true });
      c.begun = false → WalksMade s q → (c.toScratch = true → spElsewhere q core at_.1 at_.2 c.total = false) →
      (∀ l ∈ destinationLines q core c, s.recalls.find? l = none ∧ q.lineClaimed l = false) → ∃ t, exec .copyCommandBegin s = .next t ∧
        t.mem = s.mem ∧ (t.core core).copies = { c with begun := true } :: (s.core core).copies.drop 1 ∧
        ∀ l ∈ destinationLines q core c, ∀ j a, lineOf a = l → (t.core j).l1.find? a = none) ∧
    (∀ src dst bs, let lo := 4096 * c.chunk
      let hi := min (lo + 4096) c.total
      let asid := (s.launch (s.team c.team).launch).asid
      let fn := s.vmidFunc (s.launch (s.team c.team).launch).vmid
      let q := copyWalked s core c ((if c.fromGlobal then c.ranges (c.form == .gat) c.src lo hi else []) ++
        if c.toGlobal then c.ranges true c.dst lo hi else [])
      c.begun = true → lo < c.total → WalksMade s q → sourcePieces q core asid c lo hi = .ok [src] → targetPieces q core asid c lo hi = .ok [dst] →
      sourceWaits q core [src] = (q, false) → targetWaits q core fn c [dst] = (q, false) → PieceHolds s core bs src → bs.length = dst.len →
      bs.length = hi - lo → ∃ t, exec .copyChunk s = .next t ∧ t.mem = s.mem ∧
        (t.core core).copies = { c with chunk := c.chunk + 1 } :: (s.core core).copies.drop 1 ∧
        match dst with
        | .mem pa n _ => NoWaits s → t.homeBytes pa n = bs
        | .sp k off n => t.spBytes k off n = bs
        | .kaolin off n => Memory.bytes (t.core core).kaolin off n = bs ∧
            ∀ i, off / 4096 ≤ i → i ≤ (off + n - 1) / 4096 → (t.core core).slices.find? i = some (some c.team, true)) ∧
    (c.begun = true → c.chunks ≤ c.chunk →
      (c.cwe = false → ∃ t, exec .copyCompletion s = .next t ∧ t = s.setCore core { s.core core with copies := (s.core core).copies.drop 1 }) ∧
      let n := if c.cw64 then 8 else 4
      (c.cwe = true → s.readOnlyAt cw.1 cw.2 n = false → spElsewhere s core cw.1 cw.2 n = false → ∃ t, exec .copyCompletion s = .next t ∧
        t.mem = s.mem ∧ (t.core core).copies = (s.core core).copies.drop 1 ∧ t.spBytes cw.1 cw.2 n = toBytes n c.cwVal))

open Sys2Proof.Spec in
/-- 13, R294, R297–R301, R304, R305: a commit begins once every live group has arrived with the same operands, with the offset that the launch's
key draws; at its end each new slot holds the image of its parent, with its lineage and copy ordinal, and the surplus lanes have exited; a
reorder pass closes by starting its groups at the continuation with the emitted deposits. Where its core's pool is too small a group is
spilled to its image. What a trap frame keeps over a commit is the model's choice (log 95). -/
def Sys2Proof.Spec.partPopulationEvents : Prop :=
  ∀ s : State,
    let l := s.focus
    let x := s.launch l
    let width := x.record.width * 32
    (∀ k a rest, commitReady s l = true → x.arrived = (k, a) :: rest → x.deposit = [] → a.anc = false →
      (∀ b ∈ rest, b.2.target = a.target ∧ b.2.pc = a.pc ∧ b.2.anc = a.anc ∧ b.2.address = a.address) → 0 < a.target →
      a.target ≤ x.record.popCap → let ws := arrivedWeights s l
      let w := (ws.map fun p => p.2).sum
      let r := philox x.record.key (x.pop.seq + 1, 0, 0, 0)
      0 < w → exec .resampleCommit s = .next (s.setLaunch l { x with commit := some (
        { target := a.target, anc := false, address := a.address, weights := ws, total := w, off := (r.2.1 * 2 ^ 32 + r.1) * w / 2 ^ 64, pc := a.pc,
          halted := ((s.launchGroups l).filter fun p => groupHalted s p.2).map Prod.fst } : Commit) })) ∧
    (∀ c, x.commit = some c → s.partRuns x.part = true → c.anc = false → c.place = [] → Tbl.sortedFrom 0 s.groups = true →
      (∀ p ∈ s.launchGroups l, let y := s.team p.2.team
        (∀ core ∈ teamCores s y, (s.releaseLines core p.2.team false).any (s.lineBlocked (some core)) = false) ∧ y.windows.any (s.dirtyClaimed y) = false ∧
        s.windowLogHolds p.2.team (fun _ => true) = false ∧ poolWaits s (s.vmidFunc x.vmid) y.image = false) →
      let counts := copyCounts c.target c.total c.off 0 c.weights.values
      let news := placements c.weights.keys counts
      ∃ t, exec .resampleCommitEnd s = .next t ∧ t.mem = s.mem ∧ (t.launch l).commit = none ∧ (t.launch l).arrived = [] ∧
        (t.launch l).pop = { live := c.target, seq := x.pop.seq + 1, total := c.total, off := c.off, surv := counts.countP (· != 0) } ∧
        ∀ p ∈ s.launchGroups l, ∀ i, i < p.2.width → i < 96 →
          let h := t.group p.1
          let slot := s.launchNumber p.2 * width + i
          match news[slot]? with
          | none => h.exited.getLsbD i = true
          | some (old, o) =>
            let q := launchLane l width old
            h.exited.getLsbD i = false ∧ h.slotA.pc = c.pc + 12 ∧ h.slotA.active.getLsbD i = true ∧ h.wait = .none ∧
            h.lin.getD i 0 = slot + (x.pop.seq + 1) * 2 ^ 32 ∧ h.par.getD i 0 = (s.group q.1).lin.getD q.2 0 ∧ h.ord.getD i 0 = o ∧
            h.oslot.getD i 0 = old ∧ h.slotNo.getD i 0 = slot ∧ h.sregs = p.2.sregs ∧
            ((s.group q.1).spilled = none → lastFrees (s.waitCtx q.1) = [] → h.spilled = none → ∀ n, (h.vreg n).vals.getD i 0 = ((s.group q.1).vreg n).vals.getD q.2 0)) ∧
    (passReady s l = true → Tbl.sortedFrom 0 s.groups = true →
      (∀ p ∈ s.launchGroups l, poolWaits s (s.vmidFunc x.vmid) (s.team p.2.team).image = false) → ∃ t, exec .reorderPassClose s = .next t ∧ t.mem = s.mem ∧
      (t.launch l).deposit = [] ∧ (t.launch l).passOn = false ∧
      ∀ p ∈ s.launchGroups l, ∀ i d, ((emitOrder width x.deposit).drop (s.launchNumber p.2 * width))[i]? = some d → i < width → i < p.2.width → i < 96 →
        let h := t.group p.1
        h.exited.getLsbD i = false ∧ h.slotA.pc = x.passPc ∧ h.slotA.active.getLsbD i = true ∧ h.slotA.fmt = x.record.fmtInit &&& 0x0FFF1FFF ∧
        h.lin.getD i 0 = d.lin ∧ h.par.getD i 0 = d.par ∧ h.ord.getD i 0 = d.ord ∧ h.oslot.getD i 0 = d.slotNo ∧
        (h.spilled = none → (h.vreg 0).vals.getD i 0 = BitVec.ofNat 32 d.key ∧
          ∀ j, j < x.passP → (h.vreg (j + 1)).vals.getD i 0 = d.payload.getD j 0))

/-- The events of the engines: matrix queues, copies, and populations: `Spec.partMultiplyEvents`, `Spec.partCopyEvents`, `Spec.partPopulationEvents` (rules and tier in their docstrings). -/
def Obligations.EngineEvents : Prop :=
  Sys2Proof.Spec.partMultiplyEvents ∧ Sys2Proof.Spec.partCopyEvents ∧ Sys2Proof.Spec.partPopulationEvents

open Sys2Proof.Spec in
/-- 10, R230, R231, R233, R238–R240; 16, R361, R373: an enable checks the range and sets ERR; a rekey draws a new key and ends with every
counter 0; a base die takes a packet that no earlier one meets: a write changes exactly its bytes, an atomic answers the old value, a read
answers data with a poison bit per atom, a dirty-bit test reads and clears; a reply frees its tag. The values of keys, the packets of
cold pages and the order of a stack's packets are the model's choice: rows 59, 86 and 94 of the assumption log. -/
def Obligations.AddressMapAndBaseDies : Prop :=
  ∀ (s : State) (n value : Nat),
    let r := s.range n
    (r.enable = false → value.testBit 0 = true →
      (enableError s n r = 0 → ∃ t, exec (.rangeEnable n value) s = .next t ∧ t.range n = { r with err := 0, enable := true } ∧
        (∀ j, j ≠ n → t.range j = s.range j) ∧ (s.cold = [] → t = s.setRange n { r with err := 0, enable := true })) ∧
      (r.limit < r.base ∨ (∃ x ∈ s.ranges, x.1 ≠ n ∧ x.2.enable = true ∧ r.base ≤ x.2.limit ∧ x.2.base ≤ r.limit) →
        exec (.rangeEnable n value) s = .next (s.setRange n { r with err := 1, enable := false }))) ∧
    (r.enable = true →
      (r.rekey = false → (∀ l ∈ s.launches, l.2.part = r.part → l.2.stage ≠ .admitted ∧ ∀ c, l.2.stage ≠ .finishing c) →
        ∃ t, exec (.rangeDisable n) s = .next t ∧ t.range n = { r with err := 0, enable := false } ∧ (∀ j, j ≠ n → t.range j = s.range j) ∧
          ∀ a, ¬(r.base ≤ a / 65536 ∧ a / 65536 ≤ r.limit) → Memory.read t.mem a = Memory.read s.mem a) ∧
      (r.rekey = false → exec (.rangeRekey n) s = .next { s.setRange n { r with rekey := true } with
        keys := s.keys.set r.keySlot (Config.rangeKey s.root.draws), root := { s.root with draws := s.root.draws + 1 } })) ∧
    (r.rekey = true → ∃ t, exec (.rekeyComplete n) s = .next t ∧ t.mem = s.mem ∧ t.range n = { r with rekey := false, exhausted := false } ∧
      (∀ b ∈ t.confs, r.base ≤ b.1 * 4096 / 65536 ∧ b.1 * 4096 / 65536 ≤ r.limit → b.2.major = 0 ∧ ∀ x ∈ b.2.minor, x.2 = 0) ∧
      ∀ b, ¬(r.base ≤ b * 4096 / 65536 ∧ b * 4096 / 65536 ≤ r.limit) → t.confs.find? b = s.confs.find? b) ∧
    (∀ p, received s = some p →
      let answered (t : State) (data : List Byte) (poison : List Nat) (g : Nat) (dirty : Bool) : Prop := t.bdq = s.bdq.eraseIdx s.focus ∧
        t.replies = s.replies ++ [{ die := p.die, stack := p.stack, tag := p.tag.getD 0, data := data, poison := poison, granule := g, dirty := dirty, marl := p.marl }]
      (∀ cells, p.req = .wr cells → writeWaits s cells = false → ∃ t, exec .baseDieWr s = .next t ∧ answered t [] [] 0 false ∧
        (∀ a, Memory.read t.mem a = overlay cells (Memory.read s.mem) a) ∧ t.cores = s.cores ∧ t.groups = s.groups) ∧
      (∀ pa op float signed x, let old := Memory.bytes s.mem pa 4
        let cells := cellsOf pa 4 (combine op float signed (BitVec.ofNat 32 (ofBytes old)) x).toNat
        p.req = .atom pa op float signed x → writeWaits s cells = false → pa / 32 ∉ s.atomFlipped → pa / 32 ∉ s.atomBad → pa / 64 ∉ s.macBad → ∃ t, exec .baseDieAtom s = .next t ∧
        answered t old (if pa / 32 ∈ s.atomPoison then [0] else []) 0 false ∧ (∀ a, Memory.read t.mem a = overlay cells (Memory.read s.mem) a)) ∧
      (∀ pa m, p.req = .rd pa m → (∀ i, i < m → pa / 32 + i ∉ s.atomFlipped ∧ pa / 32 + i ∉ s.atomBad ∧ (pa / 32 + i) / 2 ∉ s.macBad) →
        ∃ t, exec .baseDieRd s = .next t ∧ t = { s with bdq := t.bdq, replies := t.replies } ∧
          answered t (Memory.bytes s.mem (pa / 32 * 32) (32 * m)) ((List.range m).filter fun i => s.atomPoison.contains (pa / 32 + i)) 0 false) ∧
      ∀ g, p.req = .dtc g → ∃ t, exec .baseDieDtc s = .next t ∧ t = { s with bdq := t.bdq, replies := t.replies, dies := t.dies } ∧
        answered t [] [] g ((s.die p.stack).dirty.contains g) ∧
        t.die p.stack = { s.die p.stack with dirty := (s.die p.stack).dirty.erase g }) ∧
    ∀ x stack tag, s.replies.find? (fun r => r.stack == stack && r.die * 4096 + r.tag == tag) = some x → x.marl = false →
      (∀ p ∈ s.bdq, p.tag ≠ none) →
      exec (.baseDieReply stack tag) s = .next { s with replies := s.replies.filter fun r => !(r.stack == stack && r.die * 4096 + r.tag == tag) }

open Sys2Proof.Spec in
/-- 10, R235–R237; 12, R271, R275; 16, R376: what a core holds of a line comes home; the narrow holder publishes; Silt words combine at
home; an invalidation drops the copy and a fill brings one; a window's sector is read from its home; the write-range log's registers and ring. That
a fill takes the team's own dirty bytes, that a line is written through, and what a full log holds back are the model's reading: rows 41, 63
and 94 of the assumption log. -/
def Sys2Proof.Spec.partLineEvents : Prop :=
  ∀ (s : State) (c line func value : Nat),
    let k := s.core c
    let brought (gone : Nat → Prop) (t : State) : Prop := t.mem = s.mem ∧
      (∀ a, gone a → (t.core c).l1.find? a = none ∧ t.homeByte a = s.coreByte c a) ∧
      ∀ a, ¬gone a → (t.core c).l1.find? a = k.l1.find? a ∧ t.homeByte a = s.homeByte a
    (NoWaits s → (k.l1.map Prod.fst).Nodup →
      (s.lineBlocked (some c) line = false → ∃ t, exec (.homeWriteArrive c line) s = .next t ∧ brought (fun a => lineOf a = line) t) ∧
      (line ∈ k.holds → ∃ t, exec (.narrowHolderPublish c line) s = .next t ∧ brought (fun a => lineOf a ∈ k.narrow) t ∧
        (t.core c).holds = [] ∧ (t.core c).narrow = []) ∧
      (∀ x, s.lineBlocked (some c) line = false → k.silt.filter (fun y => y.line == line) = [x] → (x.words.map Prod.fst).Nodup →
        (∀ w ∈ x.words, w.1 < 32) → ∃ t, exec (.siltMerge c line) s = .next t ∧ t.mem = s.mem ∧
        (t.core c).silt = k.silt.filter (fun y => !(y.line == line)) ∧
        ∀ w ∈ x.words, t.homeBytes (128 * line + 4 * w.1) 4 = toBytes 4
          (combine x.op x.float x.signed (BitVec.ofNat 32 (ofBytes (s.coreBytes c (128 * line + 4 * w.1) 4))) w.2).toNat)) ∧
    (NoWaits s → line ∈ k.invals → ∃ t, exec (.invalidationReceive c line) s = .next t ∧ t.mem = s.mem ∧
      (t.core c).invals = k.invals.filter (fun l => l != line) ∧ (t.core c).lines = k.lines.filter (fun l => l != line) ∧ (t.core c).misses = k.misses ∧
      t.recalls.find? line = (s.recalls.find? line).map fun r => { r with cores := r.cores.filter fun j => j != c }) ∧
    (line ∈ k.misses → line ∉ k.invals → s.recalls.find? line = none → ∃ t, exec (.lineFill c line) s = .next t ∧
      t = { s.setCore c { k with misses := k.misses.filter (· != line), lines := if line ∈ k.lines then k.lines else k.lines ++ [line] } with
            bdq := t.bdq, l2 := t.l2 }) ∧
    (∀ team word i w js, let tm := s.team team
      let sp := tm.core / 48 * 48 + w.sp / 2 ^ 19 % 64
      let off := w.sp % 2 ^ 19
      let needed (j : Nat) : Prop := j ∈ js ∧ w.valid.getD j true = false
      sectorOf s team word = some (i, w, js) → tm.resident = true → (∃ j ∈ js, j ∈ w.want) → (s.launch tm.launch).record.span = false →
      (∀ j, needed j → s.lineBlocked (some tm.core) (lineOf (w.place.getD j 0)) = false ∧ NoSilt s (w.place.getD j 0) ∧ w.place.getD j 0 % 4 = 0) →
      NoWaits s → ((s.core tm.core).l1.map Prod.fst).Nodup → ∃ t, exec (.windowFill team word) s = .next t ∧ t.mem = s.mem ∧
        ∀ j, needed j → t.spBytes sp (off + 4 * j) 4 = s.coreBytes tm.core (w.place.getD j 0) 4 ∧
          ∀ y, (t.team team).windows[i]? = some y → j < y.valid.length → y.valid.getD j false = true) ∧
    let f := s.func func
    (s.answers func = true → (∃ t, exec (.logCtlWrite func value) s = .next t ∧ t = s.setFunc func (t.func func) ∧ t.func func =
      { f with logSize := max 6 (min 15 (value / 4096 % 16)), logFull := f.logFull && !value.testBit 1, logEnable := value.testBit 0,
               logProd := (if value.testBit 0 then 0 else f.logProd) }) ∧
    exec (.logConsWrite func value) s = .next (s.setFunc func { f with logCons := value % 2 ^ 32 })) ∧
    ∀ r rest u, f.logQueue = r :: rest → f.logEnable = true → (f.logProd + 2 ^ 32 - f.logCons) % 2 ^ 32 < 2 ^ f.logSize →
      s.ringWrite func (fun i => f.logBase + 16 * (f.logProd % 2 ^ f.logSize) + i) (toBytes 16 (r.bits (1 - f.logProd / 2 ^ f.logSize % 2))) = some u →
      ∃ t, exec (.logRecordAppend func) s = .next t ∧ t = { u with funcs := t.funcs } ∧
        (t.func func).logQueue = (u.func func).logQueue.drop 1 ∧ (t.func func).logProd = (f.logProd + 1) % 2 ^ 32

open Sys2Proof.Spec in
/-- 16, R371–R375, R377, R378: a lost directory entry recalls its line from every core of the partition, and is rebuilt once all have answered;
a recall that no one ends, and the host, reset the partition: GO is 1 and nothing of it runs, then its launches end with STATUS 3 and its
cores are cleared; a scrubber corrects an atom; the error log's register; banks go drowsy. The two steps of a reset, the two of a scrub,
how engines acknowledge a recall and the base die that counts an atom's error are the model's reading: rows 60 to 62, 74 and 98 of the
assumption log. -/
def Sys2Proof.Spec.partErrorsAndResets : Prop :=
  ∀ s : State,
    let line := s.focus
    let reset (n cause : Nat) (t : State) : Prop := t.mem = s.mem ∧
      (t.part n).rstGo = false ∧ (t.part n).rstCause = cause ∧ (t.part n).rstAuto = decide (cause ≠ 0) ∧
      (t.part n).rstCount = min (2 ^ 32 - 1) ((s.part n).rstCount + 1) ∧ (t.part n).clusters = (s.part n).clusters ∧
      (∀ c ∈ clusterCores (s.part n).clusters, (t.core c).l1 = [] ∧ (t.core c).lines = [] ∧ (t.core c).scratch = [] ∧ (t.core c).tiles = [] ∧
        (t.core c).mq = [] ∧ (t.core c).copies = [] ∧ (t.core c).split = (s.core c).split) ∧
      (Tbl.sortedFrom 0 s.launches = true → ∀ l x, s.launches.find? l = some x → x.part = n →
        (x.stage = .admitted → (t.launch l).stage = .finishing 3) ∧
        ∀ i y, s.teams.find? i = some y → y.launch = l → (t.team i).resident = false ∧ (t.team i).exited = true)
    let begins (n cause : Nat) (t : State) : Prop := t = { s with parts := t.parts, cores := t.cores } ∧
      t.part n = { s.part n with rstGo := true, rstNext := cause } ∧ (∀ j, j ≠ n → t.part j = s.part j) ∧ t.partRuns n = false ∧
      (∀ c, coreIn s n c = true → (t.core c).mq = [] ∧ (t.core c).copies = []) ∧ ∀ c, coreIn s n c = false → t.core c = s.core c
    (∀ p, linePart s line = some p → s.recalls.find? line = none → ∃ t, exec .directoryRecall s = .next t ∧ t.mem = s.mem ∧
      t.recalls.find? line = some { cores := clusterCores (s.part p).clusters, since := s.now, part := p } ∧
      ∀ c ∈ clusterCores (s.part p).clusters, line ∈ (t.core c).invals) ∧
    (∀ r, s.recalls.find? line = some r →
      (r.cores = [] → s.lineClaimed line = false → exec .directoryRebuild s = .next { s with recalls := s.recalls.erase line }) ∧
      ((r.cores ≠ [] ∨ s.lineClaimed line = true) → r.since + 120000 ≤ s.now → (s.part r.part).rstGo = false →
        ∃ t, exec .recallTimeout s = .next t ∧ begins r.part 1 t)) ∧
    (∀ n cause, ((s.part n).rstGo = false → cause = 0 ∨ cause = 2 ∨ cause = 3 →
        ∃ t, exec (.partitionReset n cause) s = .next t ∧ begins n cause t) ∧
      ((s.part n).rstGo = true → ∃ t, exec (.partitionReset n cause) s = .next t ∧ reset n (s.part n).rstNext t)) ∧
    (∀ core bank, bank ∉ (s.core core).drowsy →
      (∀ g ∈ s.groups, g.2.core = core → (s.team g.2.team).resident = true → g.2.inBank bank = true → ∀ at_, g.2.issuedAt = some at_ → at_ + 4096 ≤ s.now) →
      exec (.bankDrowsy core bank) s = .next (s.setCore core { s.core core with drowsy := (s.core core).drowsy ++ [bank] })) ∧
    (∀ stack atom, let d := s.die stack
      s.pkg.scrubDays ≠ 0 → s.stackOf (32 * atom) = stack →
      (d.scrub = none → atom ∈ s.atomFlipped → atom ∉ s.atomBad → atom / 2 ∉ s.macBad → s.pkg.errCe = false →
        let counts := s.pkg.dieCe.set (8 + stack) (s.pkg.dieCe.getD (8 + stack) 0 + 1)
        exec (.scrubAtom stack atom) s = .next ({ s with pkg := { s.pkg with ceCount := min (2 ^ 64 - 1) (s.pkg.ceCount + 1), dieCe := counts } }.setDie stack
          { d with scrub := some (atom, false) })) ∧
      (d.scrub = some (atom, false) → exec (.scrubAtom stack atom) s = .next { s.setDie stack { d with scrub := none } with
        atomFlipped := s.atomFlipped.filter fun a => a != atom })) ∧
    ∀ value, ∃ t, exec (.errCtlWrite value) s = .next t ∧ t = { s with pkg := t.pkg } ∧ t.pkg =
      { s.pkg with errSize := max 6 (min 15 (value / 4096 % 16)), errCe := value.testBit 2, errLost := s.pkg.errLost && !value.testBit 1,
                   errEnable := value.testBit 0, errProd := (if value.testBit 0 then 0 else s.pkg.errProd) }

/-- The events of lines and windows, of memory errors, and of resets: `Spec.partLineEvents`, `Spec.partErrorsAndResets` (rules and tier in their docstrings). -/
def Obligations.LinesAndErrors : Prop :=
  Sys2Proof.Spec.partLineEvents ∧ Sys2Proof.Spec.partErrorsAndResets

namespace Sys2Proof.Spec

open Sys2Proof.Machine

/-- The packets that carry `bs`, in pieces of `size` bytes (14, R319). -/
def pieces (size : Nat) (bs : List Byte) : List (List Byte) :=
  (List.range (max 1 ((bs.length + size - 1) / size))).map fun k => (bs.drop (size * k)).take size

/-- The port of the `n`-th packet to leave from now by the ports of a mask; which of them it is, is free (14, R310, R312, R319). -/
def nthPort (s : State) (mask n : Nat) : Nat :=
  let ports := allowedPorts mask
  ports.getD (Config.spray (s.pkg.sprayed + n) % ports.length) 0

/-- The packet of request `r` that goes out as number `k`, under message number `msg`, the `n`-th to leave from now (14, R313, R319, Table
14.4). -/
def packetFor (s : State) (p q : Nat) (r : WorkReq) (n msg k : Nat) (data : List Byte) : Out :=
  let v := s.vdn r.vdn
  .packet (nthPort s v.cPorts n) v.cFep
                 { jobid := v.cJob, src := (s.net p).selfVdn, pid := v.cPid, queue := q, msg := msg, pkt := k, mode := modeOf r.mode, op := opOf r.op,
                   length := r.length, psz := r.psz, raddr := r.raddr, rctr := r.rctr, atop := r.atop, atype := r.atype, opnd := r.opnd,
                   anew := r.anew, data := data }

/-- A counter of a launch has grown by `n`: so while its function does not stand quiesced (16, R366; 17, R381, R382). -/
def Grown (s t : State) (l i n : Nat) : Prop :=
  (s.func (s.vmidFunc (s.launch l).vmid)).stopped = false →
    (t.launch l).ctrs.getD i 0 = if n = 0 then (s.launch l).ctrs.getD i 0 else min ((s.launch l).ctrs.getD i 0 + n) (2 ^ 64 - 1)

end Sys2Proof.Spec

open Sys2Proof.Spec in
/-- 14, R312, R313, R326, R333: a VDN commit makes the entry's fields current under a new GEN; a packet leaves by a port that the mask allows,
with mask 0 by any of the sixteen; a context arms, forwards when its timer ends, and is free once invalidated. Which port is free, and what
becomes of what an invalid context still holds is the model's reading: rows 65 and 96 of the assumption log. -/
def Sys2Proof.Spec.partNetworkTables : Prop :=
  ∀ (s : State) (n value : Nat),
    let e := s.vdn n
    let x := s.net n
    exec (.vdnCommit n value) s = .next (s.setVdn n { e with vmid := value / 2 ^ 48 % 256, valid := value.testBit 0, gen := (e.gen + 1) % 256,
                                                             cFep := e.fep, cJob := e.jobid, cPid := e.pid, cPorts := e.ports }) ∧
    (∀ mask k, nthPort s mask k < 16 ∧ (mask % 2 ^ 16 ≠ 0 → mask.testBit (nthPort s mask k) = true)) ∧
    (x.valid = true → x.state = 0 ∨ x.state = 3 → exec (.netctxArm n) s = .next (s.setNet n { x with state := 1, armedAt := s.now })) ∧
    (x.state = 1 → x.armedAt + 1200000 ≤ s.now → exec (.forwardTimerExpire n) s = .next (s.setNet n { x with state := 2 })) ∧
    (x.valid = true → s.pkg.rptEnable = false → (x.queues.getD 16 {}).reqs = [] → (x.queues.getD 17 {}).reqs = [] →
      ∃ t, exec (.netctxInvalidate n) s = .next t ∧ t.mem = s.mem ∧ t.net n = { x with valid := false, state := 0, rx := [], queues := [] } ∧
        ∀ j, j ≠ n → t.net j = s.net j)

open Sys2Proof.Spec in
/-- 14, R316–R319, R322, R323, R327, R329: a put starts by sending its bytes in packets; it ends when every packet is acknowledged, a get when
its data stands at LADDR; a packet is sent again after its timeout or to a moved device's new entry, until the limits end the request. Which
port a packet takes and that a restored context reads its bytes again are the model's choice: rows 66, 96 and 97 of the assumption log. -/
def Sys2Proof.Spec.partSenderEvents : Prop :=
  ∀ (s : State) (p q : Nat) (r : WorkReq), netRuns s p = true → reqOf s p q r.serial = some r → r.peer = none → r.marl = none → r.stalled = none →
    let sq := (s.net p).queues.getD q {}
    let asid := (s.net p).asid
    let walked (r : WorkReq) : State := localWalked s asid r
    let again (t : State) (k : Nat) (x : SentPkt) (tries moved : Nat) : Prop := t.mem = s.mem ∧ t.out = s.out ++ [packetFor s p q r 0 r.msg k x.data] ∧
      ∃ y, reqOf t p q r.serial = some y ∧ (y.pkts.find? fun z => z.pkt == k) =
        some { x with gen := (s.vdn r.vdn).gen, at_ := s.now, recheck := none, tries := tries, moved := moved }
    let failed (t : State) (code : Nat) : Prop := t.mem = s.mem ∧ reqOf t p q r.serial = none ∧ ((t.net p).queues.getD q {}).code = code ∧
      ((t.net p).queues.getD q {}).errors = sq.errors + 1
    (∀ bs u, (∀ x ∈ sq.reqs, x.ending = none) → nextReq s p q = some r → r.malformed = false → vdnRefused s p r = false → WalksMade s (walked r) →
      localFault (walked r) asid r = none → r.op = 0 → DeviceReads (walked r) asid r.laddr r.length u bs → ∃ t, exec (.wrStart p q) s = .next t ∧ t.mem = s.mem ∧
        t.out = s.out ++ (pieces (1024 * 2 ^ r.psz) bs).zipIdx.map (fun d => packetFor s p q r d.2 sq.nextMsg d.2 d.1) ∧
        ∃ y, reqOf t p q r.serial = some y ∧ y.started = true ∧ y.msg = sq.nextMsg ∧ y.raw = r.raw) ∧
    (∀ placed missing, answered s p q r.msg = some r → (r.op = 0 ∨ r.op = 3) → r.lctr = 0 → (∀ x ∈ r.pkts, x.acked = true ∨ x.pkt ∈ placed) →
      ∃ t, exec (.packetAckReceive { pid := p, queue := q, msg := r.msg, placed := placed, missing := missing, refused := false }) s = .next t ∧
        t.mem = s.mem ∧ reqOf t p q r.serial = none ∧ Grown s t r.launch 14 r.length) ∧
    (∀ data pa, (∀ f ∈ s.funcs, f.2.trcEnable = false) → answered s p q r.msg = some r → r.op = 1 → r.lctr = 0 → r.got = [] → 0 < r.length → r.length ≤ 1024 * 2 ^ r.psz → data.length = r.length →
      let w := s.engineWalked asid (CopyCmd.pages 2 r.laddr r.length)
      WalksMade s w → w.intervals engineCore asid .write (CopyCmd.pages 2 r.laddr r.length) = .ok [(pa, r.length, none)] →
      Plain w [(pa, r.length, none)] → ∃ t, exec (.responseReceive { pid := p, queue := q, msg := r.msg, pkt := 0, data := data }) s = .next t ∧ Holds s t pa data ∧
        reqOf t p q r.serial = none ∧ Grown s t r.launch 15 r.length) ∧
    ∀ k x, waitingPacket s p q r.msg k = some (r, x) → (r.pkts.find? fun z => z.pkt == k) = some x →
      let left := min (1024 * 2 ^ r.psz) (r.length - k * (1024 * 2 ^ r.psz))
      let has := x.data ≠ [] ∨ (r.op ≠ 0 ∧ r.op ≠ 3) ∨ left = 0
      exec (.notReadyReceive p q r.msg k) s = .next (setPacket s p q r { x with at_ := s.now }) ∧
      (x.recheck = none → x.at_ + max 1 s.pkg.rtoUs * 600 ≤ s.now →
        (x.tries + 1 < max 1 s.pkg.retryMax →
          (has → ∃ t, exec (.retransmitTimeout p q r.msg k) s = .next t ∧ again t k x (x.tries + 1) x.moved) ∧
          ∀ bs u, ¬has → DeviceReads s asid (r.laddr + k * (1024 * 2 ^ r.psz)) left u bs →
            ∃ t, exec (.retransmitTimeout p q r.msg k) s = .next t ∧ t.out = s.out ++ [packetFor s p q r 0 r.msg k bs]) ∧
        (max 1 s.pkg.retryMax ≤ x.tries + 1 → r.ectr = 0 → ∃ t, exec (.retransmitTimeout p q r.msg k) s = .next t ∧ failed t 3)) ∧
      (x.moved + 1 < max 1 s.pkg.movedMax →
        ((s.vdn r.vdn).gen ≠ x.gen → has → ∃ t, exec (.movedReceive p q r.msg k) s = .next t ∧ again t k x x.tries (x.moved + 1)) ∧
        ((s.vdn r.vdn).gen = x.gen → exec (.movedReceive p q r.msg k) s =
          .next (setPacket s p q r { x with moved := x.moved + 1, recheck := some (s.now + max 1 s.pkg.rtoUs * 600) }))) ∧
      (max 1 s.pkg.movedMax ≤ x.moved + 1 → r.ectr = 0 → ∃ t, exec (.movedReceive p q r.msg k) s = .next t ∧ failed t 4) ∧
      ∀ n, x.recheck = some n → n ≤ s.now →
        ((s.vdn r.vdn).gen ≠ x.gen → has → ∃ t, exec (.movedRecheck p q r.msg k) s = .next t ∧ again t k x x.tries x.moved) ∧
        ((s.vdn r.vdn).gen = x.gen → exec (.movedRecheck p q r.msg k) s =
          .next (setPacket s p q r { x with recheck := some (s.now + max 1 s.pkg.rtoUs * 600) }))

open Sys2Proof.Spec in
/-- 14, R315, R318–R321, R326: a packet for a free context is refused; one for a context that forwards is sent on, one for a moved context is
answered so, one for a stopped context or one whose partition is being reset is not ready; a put's bytes are placed and acknowledged, a get
answers its bytes, an atomic combines once and answers the old word; an answer that reaches a context that forwards is sent on. How
duplicates and answers on the move are told apart is the model's reading: rows 67, 68 and 96 of the assumption log. -/
def Obligations.TargetEvents : Prop :=
  ∀ (s : State) (p : NetPacket), p.mode ≠ .uud →
    let x := s.net p.pid
    let m := rxOf s p
    let port (n : Nat) : Nat := nthPort s (s.vdn p.src).cPorts n
    let sends (o : Out) : State := { s with out := s.out ++ [o], pkg := { s.pkg with sprayed := s.pkg.sprayed + 1 } }
    let ack (placed : List Nat) (refused : Bool) : Out :=
      .ackOut (port 0) p.src p.jobid { pid := (s.vdn p.src).cPid, queue := p.queue, msg := p.msg, placed := placed, missing := [], refused := refused }
    let resp (k : Nat) (data : List Byte) : Out :=
      .respOut (port k) p.src p.jobid { pid := (s.vdn p.src).cPid, queue := p.queue, msg := p.msg, pkt := k, data := data }
    (x.valid = false → exec (.packetReceive p) s = .next (sends (ack [] true))) ∧
    (x.valid = true →
      (x.state = 1 → exec (.packetReceive p) s = .next (sends (.packet (nthPort s 0 0) x.fwdFep { p with pid := x.fwdPid }))) ∧
      (x.state = 2 → exec (.packetReceive p) s = .next (sends (.moved (port 0) p.src p.queue p.msg p.pkt))) ∧
      (x.state = 3 → exec (.packetReceive p) s = .next (sends (.notReady (port 0) p.src p.queue p.msg p.pkt))) ∧
      (x.state = 1 → ∀ a b, a.pid = p.pid → b.pid = p.pid →
        exec (.packetAckReceive a) s = .next (sends (.sentOn (nthPort s 0 0) x.fwdFep x.fwdPid (.ack a))) ∧
        exec (.responseReceive b) s = .next (sends (.sentOn (nthPort s 0 0) x.fwdFep x.fwdPid (.resp b)))) ∧
      let v := s.vm (s.space x.asid).vmid
      let cut := v.valid = true ∧ (s.part v.part).rstGo = true
      (x.state = 0 → cut → ∃ t, exec (.packetReceive p) s = .next t ∧ t = { sends (.notReady (port 0) p.src p.queue p.msg p.pkt) with nets := t.nets }) ∧
      (x.state = 0 → ¬cut → x.jobid = p.jobid → m.refused = false → m.placed = [] → m.counted = false → m.slot = none → m.answer = none → m.total = 1 → p.pkt = 0 →
        rodWaits s p = false →
        (∀ pa, p.op = .put → pageHeld s p.pid p.raddr p.data.length = none → p.rctr = 0 →
          let ps := CopyCmd.pages (p.data.length / 65536 + 2) p.raddr p.data.length
          let w := s.engineWalked x.asid ps
          WalksMade s w → w.intervals engineCore x.asid .write ps = .ok [(pa, p.data.length, none)] → Plain w [(pa, p.data.length, none)] → ∃ t, exec (.packetReceive p) s = .next t ∧ Holds s t pa p.data ∧ t.out = s.out ++ [ack [0] false]) ∧
        (∀ bs u, p.op = .get → pageHeld s p.pid p.raddr p.length = none → DeviceReads s x.asid p.raddr p.length u bs →
          ∃ t, exec (.packetReceive p) s = .next t ∧ t.mem = s.mem ∧ (∀ a, t.homeByte a = s.homeByte a) ∧
            t.out = s.out ++ (pieces (1024 * 2 ^ p.psz) bs).zipIdx.map fun d => resp d.2 d.1) ∧
        ∀ pa bs u, p.op = .atomic → p.atop ≠ 7 → p.raddr % 4 = 0 → pageHeld s p.pid p.raddr 4 = none →
          let w := s.engineWalked x.asid [(p.raddr, 4)]
          WalksMade s w → w.intervals engineCore x.asid .atomic [(p.raddr, 4)] = .ok [(pa, 4, none)] → Plain u [(pa, 4, none)] →
          DeviceReads w x.asid p.raddr 4 u bs →
          ∃ t, exec (.packetReceive p) s = .next t ∧ t.out = s.out ++ [resp 0 bs] ∧ Holds s t pa (toBytes 4
            (combine p.atop (p.atype == 2) (p.atype == 0) (BitVec.ofNat 32 (ofBytes bs)) (BitVec.ofNat 32 p.opnd)).toNat)))

/-- The tables of the network, and what a sender does: `Spec.partNetworkTables`, `Spec.partSenderEvents` (rules and tier in their docstrings). -/
def Obligations.NetworkSide : Prop :=
  Sys2Proof.Spec.partNetworkTables ∧ Sys2Proof.Spec.partSenderEvents

open Sys2Proof.Spec in
/-- 16, R361–R368: a Marl round starts over an enabled range and through a valid context, and ends with its granules counted; VFCTL quiesces a
function once its agents rest, with its writes at their homes and its contexts stopped; a save keeps its teams unplaced; resume and
restore set it going, with its queues at their indices, STATE 3 while teams of it wait to be placed. What rests at a quiesce, what a pool
says beside the rules' own bytes, a pass of a round, and a save that a full log holds back are the model's reading: rows 41, 71 to 73 and 97 of
the assumption log. -/
def Sys2Proof.Spec.partMigrationAndStop : Prop :=
  ∀ (s : State) (h func value : Nat),
    let d := s.die h
    let mode := value / 2 ^ 60 % 4
    let round : Instr := match mode with
      | 0 => .marlCopyRound h value
      | 1 => .marlClearRound h value
      | _ => .marlDrainRound h value
    let inRange : Prop := d.src ≤ d.lim ∧ ∃ r ∈ s.ranges, r.2.enable = true ∧ r.2.base ≤ d.lim ∧ d.src ≤ r.2.limit
    let mctx := value / 2 ^ 16 % 2 ^ 10
    (d.go = false → value.testBit 63 = true → mode < 3 →
      (inRange → (s.net mctx).valid = true → ∃ t, exec round s = .next t ∧ t.mem = s.mem ∧ (t.die h).go = true ∧ (t.die h).mode = mode ∧
        (t.die h).mctx = mctx ∧ (t.die h).dstVdn = value / 2 ^ 36 % 2 ^ 12 ∧ (t.die h).sent = 0 ∧ (t.die h).dirty = d.dirty ∧
        (d.dirty = [] → t.bdq = s.bdq)) ∧
      (¬inRange ∨ (s.net mctx).valid = false → ∃ t, exec round s = .next t ∧ t = { s with dies := t.dies } ∧ (t.die h).err = true ∧ (t.die h).go = false)) ∧
    (s.focus = h → d.go = true → d.failed = false → marlOutstanding s h = false → d.reading = [] → d.visit = [] → d.run = none →
      nextSummary s h = none → d.mode ≠ 2 ∨ d.found = false → ∃ t, exec .marlRoundEnd s = .next t ∧ t = { s with dies := t.dies } ∧
      t.die h = { d with go := false, left := dirtyInRange s h }) ∧
    let f := s.func func
    let w : VfctlWrite := { func := func, value := value }
    let errLeft := f.vfErr && !value.testBit 62
    let saved (t : State) : Prop := t.mem = s.mem ∧ (t.func func).vfGo = true ∧ (t.func func).vfPending = false ∧
      ∀ i ∈ funcTeams s func, (t.team i).resident = false ∧ (t.team i).evicted = true ∧ (t.saved.find? i).isSome = true
    let goesOn (t : State) : Prop :=
      if t.teams.any (fun y => waitingTeam y.2 && vmidOf t func (t.launch y.2.launch).vmid) = true
      then (t.func func).vfGo = true ∧ (t.func func).vfState = 3 else (t.func func).vfGo = false ∧ (t.func func).vfState = 0
    (1 ≤ func → func < 256 → value.testBit 63 = true → f.vfGo = false →
      (value / 2 ^ 56 % 16 = 1 → f.vfState = 0 → exec (.vfQuiesce w) s =
        .next (s.setFunc func { f with vfGo := true, vfErr := errLeft, vfCmd := 1, vfSince := s.now })) ∧
      (value / 2 ^ 56 % 16 = 2 → f.vfState = 1 →
        (saveWaits s func = false → ∃ t, exec (.vfSave w) s = .next t ∧ saved t ∧ (t.func func).vfErr = errLeft) ∧
        (saveWaits s func = true → exec (.vfSave w) s =
          .next ((s.setFunc func { f with vfGo := true, vfErr := errLeft, vfCmd := 2, vfPending := true }).logFullSet func))) ∧
      (value / 2 ^ 56 % 16 = 3 → Tbl.sortedFrom 0 s.nets = true →
        (f.vfState = 1 → ∃ t, exec (.vfResume w) s = .next t ∧ t.mem = s.mem ∧ (t.func func).vfGo = false ∧ (t.func func).vfState = 0 ∧
          ∀ n ∈ funcNets s func, (s.net n).state = 3 → (t.net n).state = 0) ∧
        (f.vfState = 2 → ∃ t, exec (.vfResume w) s = .next t ∧ t.mem = s.mem ∧ goesOn t ∧
          ∀ n ∈ funcNets s func, (s.net n).state = 3 → (t.net n).state = 0)) ∧
      (value / 2 ^ 56 % 16 = 4 → f.vfState = 0 → runsNothing s func = true → ∃ t, exec (.vfRestore w) s = .next t ∧ t.mem = s.mem ∧ goesOn t ∧
        let u := takeIncoming (s.setFunc func { f with vfGo := true, vfErr := errLeft, vfCmd := 4, vfState := 3 }) func
        (Tbl.sortedFrom 0 u.savedQueues = true → ∀ n q, u.savedQueues.find? n = some q → vmidOf u func q.vmid = true → (u.queue n).enable = false →
          (u.queue n).vmid = q.vmid → let y := t.queue n
          y.enable = true ∧ y.taken = q.taken ∧ y.cons = q.cons ∧ y.prod = q.prod ∧ t.savedQueues.find? n = none))) ∧
    (f.vfGo = true → f.vfState = 0 → quiesceReady s func = true → coresBlocked s (funcCores s func) = false → ∃ t, exec (.quiesceComplete func) s = .next t ∧
      t.mem = s.mem ∧ (t.func func).vfGo = false ∧ (t.func func).vfState = 1 ∧ (t.func func).vfQcyc = min (s.now - f.vfSince) (2 ^ 32 - 1) ∧
      (∀ n ∈ funcNets s func, (t.net n).state = 3) ∧ ∀ c ∈ funcCores s func, (t.core c).l1 = []) ∧
    (f.vfGo = true → f.vfState = 1 →
      (f.vfPending = false → exec (.saveComplete func) s = .next (s.setFunc func { f with vfGo := false, vfState := 2 })) ∧
      (f.vfPending = true → saveWaits s func = false → ∃ t, exec (.saveComplete func) s = .next t ∧ saved t)) ∧
    (value.testBit 63 = true → func ≠ 0 → vfAccepts s func (value / 2 ^ 56 % 16) = false →
      exec (.vfctlRefused func value) s = .next (s.setFunc func { f with vfErr := true, vfCmd := value / 2 ^ 56 % 16 }))

open Sys2Proof.Spec in
/-- 17, R383–R389: a report command appends a signed record of its launch or context, or is refused; the rings' registers; a sample tick
writes the next occupied slot's record; room in the trace ring brings the gap record. A command while GO is 1, a record that a full log holds
back, a trace record without a place, and how the conditions of a sample are seen are the model's reading: rows 10, 40, 41, 58 and 77 of the
assumption log. -/
def Sys2Proof.Spec.partReportsSamplesTraces : Prop :=
  ∀ (s : State) (func value : Nat),
    let p := s.pkg
    let appended (r : ReportReq) (t u : State) : Prop := t.pkg.rptProd = (p.rptProd + 1) % 2 ^ 32 ∧ t.pkg.signed = p.signed + 1 ∧
      t.pkg.rptWait = [] ∧ t.out = u.out ++ [.msix 0 2] ∧ t.bdq = u.bdq ∧
      let chain (c : Chain) : Chain := { seq := c.seq + 1, hash := sha512 (reportBytes s r 0) }
      if r.kind = 1 then (t.launch r.launch).chain = chain (s.launch r.launch).chain else (t.net r.pid).chain = chain (s.net r.pid).chain
    let slot (i : Nat) : Nat := p.rptBase + 2048 * (p.rptProd % 2 ^ p.rptSize) + i
    let writes (r : ReportReq) (u : State) : Prop := s.ringWaits 0 slot 1088 = false ∧ p.rptEnable = true ∧ (p.rptProd + 2 ^ 32 - p.rptCons) % 2 ^ 32 < 2 ^ p.rptSize ∧ p.rptWait = [] ∧
      s.ringWrite 0 slot (reportBytes s r 0) = some u
    (value.testBit 63 = true → p.rptGo = false → let kind := value / 2 ^ 60 % 4
      (∀ k l u, let r : ReportReq := { kind := 1, final := false, launch := k, pid := 0, vmid := l.vmid, ctrs := l.ctrs, go := 1 }
        kind = 0 → reportable s (value / 2 ^ 32 % 2 ^ 17) (value % 2 ^ 32) = some (k, l) → chainHeld s l.vmid = false → writes r u →
        ∃ t, exec (.rptCmdLaunch value) s = .next t ∧ appended r t u ∧ t.pkg.rptGo = false) ∧
      (∀ u, let n := value % 2 ^ 10
        let vmid := (s.space (s.net n).asid).vmid
        let r : ReportReq := { kind := 2, final := false, launch := 0, pid := n, vmid := vmid, ctrs := (s.net n).ctrs, go := 1 }
        kind = 1 → (s.net n).valid = true → chainHeld s vmid = false → writes r u → ∃ t, exec (.rptCmdNetctx value) s = .next t ∧
        appended r t u ∧ t.pkg.rptGo = false) ∧
      (2 ≤ kind → ∃ t, exec (.rptCmdRefused value) s = .next t ∧ t = { s with pkg := t.pkg } ∧ t.pkg.rptErr = true)) ∧
    (value.testBit 63 = true → p.jobGo = false → ∀ u, let n := value % 2 ^ 10
      let r : ReportReq := { kind := 3, final := false, launch := 0, pid := n, vmid := (s.space (s.net n).asid).vmid, ctrs := [], words := formationWords s n, go := 2 }
      (s.net n).valid = true → writes r u → ∃ t, exec (.jobCmd value) s = .next t ∧ appended r t u ∧ t.pkg.jobGo = false) ∧
    (p.rptWait = [] →
      (∃ t, exec (.rptCtlWrite value) s = .next t ∧ t = { s with pkg := t.pkg } ∧ t.pkg =
        { p with rptSize := max 4 (min 12 (value / 4096 % 16)), rptFull := p.rptFull && !value.testBit 1, rptEnable := value.testBit 0,
                 rptProd := (if value.testBit 0 then 0 else p.rptProd) }) ∧
      exec (.rptConsWrite value) s = .next { s with pkg := { p with rptCons := value % 2 ^ 32 } }) ∧
    let f := s.func func
    (s.answers func = true → ∃ t, exec (.profCtlWrite func value) s = .next t ∧ t = s.setFunc func (t.func func) ∧ t.func func =
      { f with profSize := max 6 (min 15 (value / 4096 % 16)), profFull := f.profFull && !value.testBit 1, profEnable := value.testBit 0,
               profProd := (if value.testBit 0 then 0 else f.profProd) }) ∧
    (s.answers func = true → f.trcLost = 0 → ∃ t, exec (.trcCtlWrite func value) s = .next t ∧ t = s.setFunc func (t.func func) ∧ (t.func func).trcSize = max 2 (min 12 (value / 4096 % 16)) ∧
      (t.func func).trcEnable = value.testBit 0 ∧ (t.func func).trcGap = (f.trcGap && !value.testBit 1) ∧ (t.func func).trcProd = f.trcProd ∧
      ((t.func func).trcSync = true ↔ f.trcSync = true ∨ (value.testBit 0 = true ∧ f.trcEnable = false))) ∧
    (s.answers func = true → f.trcLost = 0 → exec (.trcConsWrite func value) s = .next (s.setFunc func { f with trcCons := value % 2 ^ 32 })) ∧
    (∀ g u, let s' := s.setFunc func { f with trcCons := value % 2 ^ 32 }
      let n := min f.trcLost (2 ^ 35 - 1)
      let gap : List Byte := [0x28, BitVec.ofNat 8 (n % 128), BitVec.ofNat 8 (n / 2 ^ 7 % 128), BitVec.ofNat 8 (n / 2 ^ 14 % 128),
        BitVec.ofNat 8 (n / 2 ^ 21 % 128), BitVec.ofNat 8 (n / 2 ^ 28 % 128)]
      s.answers func = true → f.trcLost ≠ 0 → f.trcEnable = true → f.trcSync = false → tracedGroup s' func = some g →
      s'.traceBytes func (gap ++ syncRecord s' g) = some u → tracedGroup u func = some g → exec (.trcConsWrite func value) s =
        .next (u.setFunc func { u.func func with trcLost := 0, trcSync := false, trcSince := (f.trcSince + 1) % 256 })) ∧
    ∀ core sched n slot k u, let g := s.group k
      let fn := s.vmidFunc (s.launch (s.launchOf g)).vmid
      let f := s.func fn
      s.partOf core = some n → (s.part n).period ≠ 0 → (s.sched core sched).sampleAt ≤ s.now → nextOccupied s core sched (s.sched core sched).sampled = some (slot, k, g) →
      f.profEnable = true → (f.profProd + 2 ^ 32 - f.profCons) % 2 ^ 32 < 2 ^ f.profSize →
      s.ringWaits fn (fun i => f.profBase + 16 * (f.profProd % 2 ^ f.profSize) + i) 16 = false →
      s.ringWrite fn (fun i => f.profBase + 16 * (f.profProd % 2 ^ f.profSize) + i)
        (toBytes 16 (sampleBits s k g (sched * 24 + slot) (1 - f.profProd / 2 ^ f.profSize % 2))) = some u →
      ∃ t, exec (.sampleTick core sched) s = .next t ∧ t.mem = s.mem ∧ t.bdq = u.bdq ∧ (t.func fn).profProd = (f.profProd + 1) % 2 ^ 32 ∧
        (t.sched core sched).sampled = slot ∧ (t.group k).issued = false

open Sys2Proof.Spec in
/-- 17, R390–R392, R394; 06, R123: a debug command acts on the group in the slot that it names, of the function's own VMID, or sets ERR: it
halts the group, lets it go, lets it take one instruction, runs one lane alone up to a point, or writes its record. A record without a place,
the tags of lane focus, and a halt that a commit or a multiply phase holds back are the model's reading: rows 33, 75 and 76 of the
assumption log. -/
def Sys2Proof.Spec.partDebugCommands : Prop :=
  ∀ (s : State) (func value : Nat),
    let f := s.func func
    let cmd := value / 2 ^ 56 % 16
    let target := dbgTarget s func (value / 2 ^ 32 % 2 ^ 11) (value / 2 ^ 24 % 2 ^ 6)
    s.answers func = true → value.testBit 63 = true → f.dbgGo = false →
    (cmd = 0 ∨ 5 < cmd ∨ target = none → ∃ t, exec (.dbgCmdRefused func value) s = .next t ∧ t = { s with funcs := t.funcs } ∧ (t.func func).dbgErr = true) ∧
    ∀ k, let g := s.group k
      target = some (k, g) →
      (cmd = 1 → commitRuns s g = false → g.halted = false → ∃ t, exec (.dbgHalt func value) s = .next t ∧ t.mem = s.mem ∧
        (t.group k).halted = true ∧ (t.group k).vregs = g.vregs ∧ (t.group k).slotA = g.slotA ∧ (t.group k).slotB = g.slotB ∧
        (t.func func).dbgReleased = false ∧ (t.func func).dbgGo = multiplies s g.core) ∧
      (cmd = 1 → commitRuns s g = true → ∃ t, exec (.dbgHalt func value) s = .next t ∧ t = { s with funcs := t.funcs } ∧ (t.func func).dbgGo = true) ∧
      (cmd = 2 → ∃ t, exec (.dbgResume func value) s = .next t ∧ t = { s with funcs := t.funcs, groups := t.groups } ∧
        t.group k = { g with halted := false, resumed := true, stepOnce := false }) ∧
      (cmd = 3 → groupHalted s g = true → ∃ t, exec (.dbgStep func value) s = .next t ∧ t = { s with funcs := t.funcs, groups := t.groups } ∧
        t.group k = { g with halted := false, resumed := true, stepOnce := true }) ∧
      (let b := value.testBit 23
        let lane := value / 2 ^ 16 % 2 ^ 7
        let x := g.slot b
        let one : LaneMask := BitVec.ofNat 96 (2 ^ lane)
        let j : Word := BitVec.ofNat 32 f.dbgArg
        cmd = 4 → focusAllowed s g b lane f.dbgArg = true → g.stack.length ≤ 2 → s.tracer g = none → ∃ t, exec (.dbgLaneFocus func value) s = .next t ∧
          t = { s with funcs := t.funcs, groups := t.groups } ∧ (t.group k).slot b = { x with rpc := j, active := one, owned := one } ∧
          (t.group k).slot (!b) = g.slot (!b) ∧ (t.group k).stack =
            { kind := .pending, tag := if b then .slotB else .slotA, fmt := x.fmt, rpc := j, pc := x.pc, mask := x.owned &&& ~~~one } ::
            { kind := .join, tag := if (g.slot (!b)).vacant then .group else if b then .slotB else .slotA, fmt := x.fmt, rpc := x.rpc, pc := j,
              mask := x.owned } :: g.stack) ∧
      ∀ u, cmd = 5 → groupHalted s g = true → g.stable = true →
        s.ringWaits func (fun i => f.dbgArg + i) (groupRecordBytes g).length = false → s.ringWrite func (fun i => f.dbgArg + i) (groupRecordBytes g) = some u → ∃ t, exec (.dbgReadRecord func value) s = .next t ∧
          t = { u with funcs := t.funcs, cores := t.cores } ∧ (t.func func).dbgErr = (f.dbgErr && !value.testBit 62) ∧
          ∀ c, t.core c = { u.core c with drowsy := (t.core c).drowsy } ∧ (c = g.core → ∀ b ∈ (t.core c).drowsy, g.inBank b = false)

/-- The events of migration and stop, of reports, samples and traces, and of debug: `Spec.partMigrationAndStop`, `Spec.partReportsSamplesTraces`, `Spec.partDebugCommands` (rules and tier in their docstrings). -/
def Obligations.StopAndObserve : Prop :=
  Sys2Proof.Spec.partMigrationAndStop ∧ Sys2Proof.Spec.partReportsSamplesTraces ∧ Sys2Proof.Spec.partDebugCommands

namespace Sys2Proof.Spec

open Sys2Proof.Machine

/-- The state in which the word at slot `b` of group `k` issues: the group waits no more, the fetched word leaves the slot's stream, and the
group and its slot are the current ones. -/
def issuing (s : State) (k : Nat) (b : Bool) : State :=
  let g : Group := { s.group k with wait := .none, went := false }
  let u := s.setGroup k (g.setSlot b { g.slot b with stream := (g.slot b).stream.erase (g.slot b).pc.toNat })
  { u with cur := k, curB := b }

/-- Nothing stands before the word at slot `b` of group `k`: the group is active and may take part in issue (06, R118), no reissue, failed
access to a peer, asynchronous trap or arrival is due, slot `b` is the one that issues, and the rotation has come to the group (04, R86). -/
structure Ready (s : State) (k : Nat) (g : Group) (b : Bool) : Prop where
  group  : s.groups.find? k = some g
  seated : s.seated k g = true
  may    : s.mayIssue k g = true
  replay : g.replay = none
  peer   : s.failedPeer k = none
  async  : s.dueAsync k g = none
  arrive : s.arriveBoth k g = none
  slot   : s.pickSlot g = some b
  turn   : s.inTurn k g = true

/-- Words the spec assembles by hand, as the instructions they print. -/
def examples : List (BitVec 96 × Instr) :=
  [ (0x0000000F_ED306000_52C00040, .iadd { grd := 0xB, d := 0x0014, a := 0x4C18, b := 0x03FB }),
    (0x80001000_18000000_00800003, .brc { grd := 0x2, b := 6, aux := 4, bh := 2 }),
    (0x00000000_00000000_01C00001, .nop {}),
    (0x0000A000_30002000_A1C0044C, .pmad2 { fn := 0x001, d := 0x0028, a := 0x0008, b := 0x000C, aux := 0x0028 }),
    (0x00000000_C8009800_01C3E980, .mmaS { fn := 0x0FA, a := 0x0026, b := 0x0032 }),
    (0x08000000_10008800_41C211C0, .ld { fn := 0x084, d := 0x0010, a := 0x0022, b := 0x0004, la := 2 }),
    (0x04004000_30008800_51DC1241, .atom { fn := 0x704, d := 0x0014, a := 0x0022, b := 0x000C, aux := 0x0010, la := 1 }),
    (0x00002800_90004800_01C00680, .resample { fn := 0x001, a := 0x0012, b := 0x0024, aux := 10 }),
    (0x00000000_00010800_01C04AA0, .nwr { fn := 0x012, a := 0x0042 }),
    (0x00004800_00000000_01C002C0, .trap { aux := 0x12 }),
    (0x00001402_80B28000_85C020C2, .fmul { fn := 0x008, d := 0x0021, a := 0x2CA0, b := 0x00A0, aux := 5 }),
    (0x00005000_2C004000_85C01541, .slide { fn := 0x005, d := 0x0021, a := 0x0010, b := 0x000B, aux := 0x0014 }),
    (0x00012800_08010800_01C001D0, .wmap { a := 0x0042, b := 0x0002, aux := 0x004A }),
    (0x000FFC00_4C006802_89C01A50, .waita { fn := 0x006, d := 0x00A2, a := 0x001A, b := 0x0013, aux := 0x03FF }) ]

end Sys2Proof.Spec

/-- The words that the spec assembles in its worked examples decode to the instructions they stand for, in every field (05,
R93; 06, 08, 09, 11, 12, 13, 14, 15, 18, 19, 20, worked examples). Tier 1. -/
def Obligations.DecodeExamples : Prop :=
  ∀ p ∈ Sys2Proof.Spec.examples, Sys2Proof.decodeWord p.1 = .ok p.2

open Sys2Proof Sys2Proof.Machine Sys2Proof.Spec in
/-- A step whose turn is an issue of group `k` runs the instruction that the twelve bytes at the PC of its issuing slot, in their
bundle, decode to, or the word that its stream holds for that PC, in the state `issuing`, and then only what follows every issue
(`afterIssue`) (05, R93, R113; 06, R118). An event turn runs the event at its place, and time passes by itself. That a fetch takes the whole rest
of its bundle is the model's choice: row 93 of the assumption log. Tier 1. -/
def Sys2Proof.Spec.partStepRunsInstruction : Prop :=
  (∀ (s : State) (k : Nat) (rest : List Turn) (g : Group) (b : Bool) (i : Instr),
    let s' : State := { s with agenda := rest }
    let pc := (g.slot b).pc.toNat
    let runs (u : State) : Prop := i.wellFormed = true ∧ ∃ t, exec i (issuing u k b) = .next t ∧ step s = .next (t.afterIssue k)
    s.agenda = .issue k :: rest → Ready s' k g b →
    (∀ w, (g.slot b).stream.find? pc = some w → decodeWord w = .ok i → runs s') ∧
    ∀ ws, (g.slot b).stream.find? pc = none → pc % 12 = 0 → (s'.bundleWalked g pc).fetchBundle g pc = .ok ws →
      decode (((ws.flatMap Prod.snd).drop (pc % 48)).take 12) = .ok (i, []) → runs ((s'.bundleWalked g pc).fetchInto k g b ws)) ∧
  (∀ (s : State) (i : Instr) (place : Nat) (rest : List Turn),
    s.agenda = .event i place :: rest → Forms.wordOf i = none → i.wellFormed = true →
    ∃ t, exec i { s with agenda := rest, focus := place } = .next t ∧ step s = .next t) ∧
  ∀ (s : State) (n : Nat) (rest : List Turn), s.agenda = .elapse n :: rest →
    step s = .next (State.elapse { s with agenda := rest } n)

open Sys2Proof Sys2Proof.Machine in
/-- What reset leaves, as the register tables give it: no partition is formed and every register of the host-facing tables
holds its reset value, every core holds split 0, nothing is resident, no entry of a table is valid, and memory is in
canonical form (01, Tables 1.4 to 1.6; 03, Tables 3.8, 3.9; 03, R55, R59; 04, R84; 10, R230; 14, R311; 16, R365, R371,
R374). The values of registers to which the spec gives no reset value are not stated here. Tier 1. -/
def Obligations.ResetState : Prop :=
  let s := State.reset
  (∀ p, let r := s.part p
    r.clusters = 0 ∧ r.err = false ∧ r.budget = 0xFF ∧ r.pending = false ∧ r.step = 0 ∧ r.cursor = 0 ∧
    r.last = [131071, 131071, 131071, 131071] ∧ r.rstGo = false ∧ r.rstAuto = false ∧ r.rstCause = 0 ∧ r.rstCount = 0) ∧
  (∀ f, let r := s.func f
    r.tlbiGo = false ∧ r.tlbiErr = false ∧ r.fqSize = 6 ∧ r.fqAckErr = false ∧ r.fqFull = false ∧ r.fqEnable = false ∧
    r.aperture = 0) ∧
  s.pkg.temp = 0 ∧ s.pkg.tripC = 0x69 ∧ s.pkg.tripped = false ∧ s.pkg.tripEn = true ∧
  s.pkg.movedMax = 8 ∧ s.pkg.rtoUs = 100 ∧ s.pkg.retryMax = 16 ∧ s.pkg.scrubDays = 1 ∧
  (∀ n, (s.ranges.getD n {}).enable = false ∧ (s.spaces.getD n {}).valid = false ∧ (s.vmids.getD n {}).valid = false ∧
    (s.vdns.getD n {}).valid = false) ∧
  (∀ c, (s.core c).split = 0) ∧ s.groups = [] ∧ s.teams = [] ∧ s.launches = [] ∧ s.Canonical

/-- Decoding undoes encoding and the reverse: the twelve bytes of a well-formed instruction decode to it with every operand at
every value its fields allow, and a word that decodes is the word of the instruction it decodes to (05, R93, R116). Tier 3. -/
def Obligations.DecodeEncode : Prop :=
  (∀ (i : Sys2Proof.Instr) (bytes rest : List Sys2Proof.Byte), i.wellFormed = true → Sys2Proof.encodeBytes i = some bytes →
    Sys2Proof.decode (bytes ++ rest) = .ok (i, rest)) ∧
  (∀ (w : BitVec 96) (i : Sys2Proof.Instr), Sys2Proof.decodeWord w = .ok i →
    Sys2Proof.encode i = some w ∧ i.wellFormed = true)

open Sys2Proof.Machine in
/-- Every step keeps the memory of the base dies in canonical form: each byte listed once, at rising addresses, none that
reads as an unlisted byte does, so that equal memories are equal data. Whatever instruction, event or passing of time the
step is. What an unlisted byte reads as is the model's choice (log 1). Tier 3. -/
def Obligations.CanonicalMemoryKept : Prop :=
  ∀ s t : State, s.Canonical → step s = .next t → t.Canonical

open Sys2Proof.Machine in
/-- Every step of the table ends in a next state, whatever the state: every condition the spec describes is a trap, a held
fault, an error code or a refusal in a register, and the machine goes on (15, R334, R340). Tier 1. -/
def Sys2Proof.Spec.partEveryStepGoesOn : Prop :=
  (∀ (i : Sys2Proof.Instr) (s : State), ∃ t, exec i s = .next t) ∧ ∀ s : State, ∃ t, step s = .next t

/-- A step runs the instruction it decodes, and every step goes on: `Spec.partStepRunsInstruction`, `Spec.partEveryStepGoesOn` (rules and tier in their docstrings). -/
def Obligations.StepRunsInstruction : Prop :=
  Sys2Proof.Spec.partStepRunsInstruction ∧ Sys2Proof.Spec.partEveryStepGoesOn
end

