-- ==== Sys2Proof/Laws/Decode.lean ====
section
/-! SUPPORT. The bit fields of a word and its bytes, put together and taken apart. -/

namespace Sys2Proof

/-- A field that stands above the lowest part of a word. -/
theorem extract_append_high {n m : Nat} (x : BitVec n) (y : BitVec m) (s k : Nat) (h : m ≤ s) :
    (x ++ y).extractLsb' s k = x.extractLsb' (s - m) k := by
  apply BitVec.eq_of_getLsbD_eq
  intro j _
  simp [BitVec.getLsbD_append, show ¬(s + j < m) by omega, show s + j - m = s - m + j by omega]

/-- The lowest field of a word. -/
theorem extract_append_low {n m : Nat} (x : BitVec n) (y : BitVec m) : (x ++ y).extractLsb' 0 m = y := by
  apply BitVec.eq_of_getLsbD_eq
  intro j hj
  simp [BitVec.getLsbD_append, hj]

theorem extract_all {n : Nat} (x : BitVec n) : x.extractLsb' 0 n = x := by
  apply BitVec.eq_of_getLsbD_eq
  intro j hj
  simp [hj]

theorem fieldsOf_wordBits (opc : Nat) (f : Fields) : fieldsOf (wordBits opc f) = f := by
  obtain ⟨fn, grd, d, a, b, aux, la, bh⟩ := f
  simp only [fieldsOf, Fields.mk.injEq]
  have e : ∀ s k, (wordBits opc ⟨fn, grd, d, a, b, aux, la, bh⟩).extractLsb' s k
      = (bh ++ la ++ aux ++ b ++ a ++ d ++ grd ++ fn ++ BitVec.ofNat 10 opc).extractLsb' s k := fun _ _ => rfl
  simp only [e]
  refine ⟨?_, ?_, ?_, ?_, ?_, ?_, ?_, ?_⟩
  all_goals
    repeat rw [extract_append_high _ _ _ _ (by decide)]
    first | exact extract_append_low _ _ | exact extract_all _

theorem opcode_wordBits (opc : Nat) (f : Fields) : (wordBits opc f).extractLsb' 0 10 = BitVec.ofNat 10 opc :=
  extract_append_low _ _

/-- A word put together from its own parts. -/
theorem wordBits_fieldsOf (w : BitVec 96) : wordBits (w.extractLsb' 0 10).toNat (fieldsOf w) = w := by
  apply BitVec.eq_of_getLsbD_eq
  intro j hj
  have e : (wordBits (w.extractLsb' 0 10).toNat (fieldsOf w)).getLsbD j
      = (w.extractLsb' 94 2 ++ w.extractLsb' 90 4 ++ w.extractLsb' 74 16 ++ w.extractLsb' 58 16 ++ w.extractLsb' 42 16 ++
         w.extractLsb' 26 16 ++ w.extractLsb' 22 4 ++ w.extractLsb' 10 12 ++
         BitVec.ofNat 10 (w.extractLsb' 0 10).toNat).getLsbD j := rfl
  rw [e]
  simp only [BitVec.getLsbD_append, BitVec.getLsbD_extractLsb', BitVec.ofNat_toNat, BitVec.setWidth_eq]
  split_ifs <;> first
    | (simp only [show j - 10 - 12 - 4 - 16 - 16 - 16 - 16 - 4 < 2 by omega, decide_true, Bool.true_and]; congr 1; omega)
    | (simp (disch := omega) only [decide_eq_true, Bool.true_and]; congr 1; omega)

/-- The word of a well-formed instruction of opcode `opc` decodes to it. -/
theorem decodeWord_encode {i : Instr} (opc : Nat) (f : Fields) (hw : Forms.wordOf i = some (opc, f))
    (ho : ofOpcode opc f = some i) (hlt : opc < 1024) (h : i.wellFormed = true) {w : BitVec 96} (he : encode i = some w) :
    decodeWord w = .ok i := by
  simp only [encode, hw, Option.map_some, Option.some.injEq] at he
  simp only [Instr.wellFormed, hw, Option.isNone_iff_eq_none] at h
  subst he
  have hopc : ((wordBits opc f).extractLsb' 0 10).toNat = opc := by
    rw [opcode_wordBits, BitVec.toNat_ofNat]; omega
  simp only [decodeWord, hopc, fieldsOf_wordBits, ho, h]

/-- An event has no word. -/
theorem decodeWord_event {i : Instr} (h : encode i = none) : i.wellFormed = true → ∀ w, encode i = some w → decodeWord w = .ok i :=
  fun _ _ hw => by rw [h] at hw; exact absurd hw (by simp)

/-- Bytes little-endian, put together again (00, R3). -/
theorem ofBytes_toBytes (n x : Nat) (h : x < 256 ^ n) : ofBytes (toBytes n x) = x := by
  induction n generalizing x with
  | zero => simp [toBytes, ofBytes] at *; omega
  | succ n ih =>
    have : x / 256 < 256 ^ n := by rw [Nat.pow_succ] at h; omega
    simp [toBytes, ofBytes, ih _ this]; omega

theorem length_toBytes (n x : Nat) : (toBytes n x).length = n := by
  induction n generalizing x with
  | zero => rfl
  | succ n ih => simp [toBytes, ih]

end Sys2Proof
end

