-- ==== Sys2Proof/Laws/Issue.lean ====
section
/-! SUPPORT. What `issue` comes to, said once: which check stops a word, and what a word that passes them all becomes. -/

namespace Sys2Proof.Machine

/-- A word whose issue checks all pass is settled by its own entry (05, R109; 06, R134). -/
theorem issue_runs {opc : Nat} {f : Fields} {checks : Ctx → Option TrapInfo} {names : Ctx → List Nat} {run : Ctx → Res}
    {own : Ctx → Nat → Bool} {s : State} {c : Ctx} (hc : s.ctx opc f = some c) (hform : formTrap c own = none) (hown : entryTrap c checks = none)
    (hn : f.never = false) (hp : poisoned c = 0)
    (hw : Forms.longLatency opc = true → c.g.openWindows c.b < 4) (hr : needsRegister c (names c) = false) :
    issue opc f checks names run s own = settle c s (run c) := by
  have hl : (Forms.longLatency opc && decide (4 ≤ c.g.openWindows c.b)) = false := by
    cases h : Forms.longLatency opc
    · rfl
    · simpa using hw h
  simp [issue, hc, hform, hown, hn, hp, hl, hr]

/-- No group is to issue: nothing happens. -/
theorem issue_none {opc : Nat} {f : Fields} {checks : Ctx → Option TrapInfo} {names : Ctx → List Nat} {run : Ctx → Res}
    {own : Ctx → Nat → Bool} {s : State} (hc : s.ctx opc f = none) : issue opc f checks names run s own = s := by
  simp [issue, hc]

/-- An illegal-instruction or illegal-operand condition traps before anything else (05, R109). -/
theorem issue_form_trap {opc : Nat} {f : Fields} {checks : Ctx → Option TrapInfo} {names : Ctx → List Nat} {run : Ctx → Res}
    {own : Ctx → Nat → Bool} {s : State} {c : Ctx} {i : TrapInfo} (hc : s.ctx opc f = some c) (hform : formTrap c own = some i) :
    issue opc f checks names run s own = s.takeTrap c.k i := by
  simp [issue, hc, hform]

/-- The entry's own conditions come next (06, R134). -/
theorem issue_entry_trap {opc : Nat} {f : Fields} {checks : Ctx → Option TrapInfo} {names : Ctx → List Nat} {run : Ctx → Res}
    {own : Ctx → Nat → Bool} {s : State} {c : Ctx} {i : TrapInfo} (hc : s.ctx opc f = some c) (hform : formTrap c own = none)
    (hown : entryTrap c checks = some i) : issue opc f checks names run s own = s.takeTrap c.k i := by
  simp [issue, hc, hform, hown]

/-- A never-execute word only issues (05, R95). -/
theorem issue_never {opc : Nat} {f : Fields} {checks : Ctx → Option TrapInfo} {names : Ctx → List Nat} {run : Ctx → Res}
    {own : Ctx → Nat → Bool} {s : State} {c : Ctx} (hc : s.ctx opc f = some c) (hform : formTrap c own = none) (hown : entryTrap c checks = none)
    (hn : f.never = true) : issue opc f checks names run s own = settle c s (.next s) := by
  simp [issue, hc, hform, hown, hn]

/-- Where no loop ends at the word, its entry's checks alone decide (06, R132, R134). -/
theorem entryTrap_eq {c : Ctx} {checks : Ctx → Option TrapInfo} (he : endMisuse c.g c.opc c.pc = false)
    (hn : c.f.never = false) : entryTrap c checks = checks c := by
  simp [entryTrap, he, hn]

/-- What `State.ctx` gives. -/
theorem ctx_eq {s : State} {opc : Nat} {f : Fields} {c : Ctx} (h : s.ctx opc f = some c) :
    ∃ g, s.groups.find? s.cur = some g ∧
      c = { s := s, k := s.cur, g := g, b := s.curB, opc := opc, f := f, act := g.active s.curB f } := by
  unfold State.ctx at h
  cases hg : s.groups.find? s.cur with
  | none => simp [hg] at h
  | some g => exact ⟨g, rfl, by simpa [hg] using h.symm⟩

end Sys2Proof.Machine
end

