-- ==== Sys2Proof/Laws/Table.lean ====
section
/-! SUPPORT. The laws of the sparse table: what is read after a listing, an unlisting or a change of every value, and that
each keeps the keys rising. -/

namespace Sys2Proof.Tbl

variable {α : Type}

@[simp] theorem find?_nil (k : Nat) : find? ([] : Tbl α) k = none := rfl

theorem find?_cons (i : Nat) (v : α) (t : Tbl α) (k : Nat) :
    find? ((i, v) :: t) k = if i = k then some v else find? t k := rfl

@[simp] theorem find?_set_self (t : Tbl α) (k : Nat) (v : α) : find? (set t k v) k = some v := by
  induction t with
  | nil => simp [set, find?]
  | cons p t ih =>
    obtain ⟨i, w⟩ := p
    unfold set
    split
    · simp [find?_cons]
    · split
      · simp [find?_cons]
      · rename_i h; simp [find?_cons, h, ih]

theorem find?_set_ne (t : Tbl α) {k j : Nat} (v : α) (h : j ≠ k) : find? (set t k v) j = find? t j := by
  induction t with
  | nil => simp [set, find?, Ne.symm h]
  | cons p t ih =>
    obtain ⟨i, w⟩ := p
    unfold set
    split
    · simp [find?_cons, Ne.symm h]
    · split
      · rename_i h2; subst h2; simp [find?_cons, Ne.symm h]
      · simp [find?_cons, ih]

@[simp] theorem find?_erase_self (t : Tbl α) (k : Nat) : find? (erase t k) k = none := by
  induction t with
  | nil => rfl
  | cons p t ih =>
    obtain ⟨i, w⟩ := p
    unfold erase
    split
    · exact ih
    · rename_i h; simp [find?_cons, h, ih]

theorem find?_erase_ne (t : Tbl α) {k j : Nat} (h : j ≠ k) : find? (erase t k) j = find? t j := by
  induction t with
  | nil => rfl
  | cons p t ih =>
    obtain ⟨i, w⟩ := p
    unfold erase
    split
    · rename_i h2; subst h2; simp [find?_cons, Ne.symm h, ih]
    · simp [find?_cons, ih]

@[simp] theorem getD_set_self (t : Tbl α) (k : Nat) (v d : α) : getD (set t k v) k d = v := by simp [getD]

theorem getD_set_ne (t : Tbl α) {k j : Nat} (v d : α) (h : j ≠ k) : getD (set t k v) j d = getD t j d := by
  simp [getD, find?_set_ne t v h]

@[simp] theorem getD_erase_self (t : Tbl α) (k : Nat) (d : α) : getD (erase t k) k d = d := by simp [getD]

theorem getD_erase_ne (t : Tbl α) {k j : Nat} (d : α) (h : j ≠ k) : getD (erase t k) j d = getD t j d := by
  simp [getD, find?_erase_ne t h]

theorem find?_mapVals (f : Nat → α → α) (t : Tbl α) (k : Nat) : find? (mapVals f t) k = (find? t k).map (f k) := by
  induction t with
  | nil => rfl
  | cons p t ih =>
    obtain ⟨i, w⟩ := p
    simp only [mapVals, List.map_cons, find?_cons]
    split
    · rename_i h; subst h; simp
    · exact ih

/-- A table whose keys rise from `lo` has none below `lo`. -/
theorem find?_below {t : Tbl α} {lo k : Nat} (h : sortedFrom lo t = true) (hk : k < lo) : find? t k = none := by
  induction t generalizing lo with
  | nil => rfl
  | cons p t ih =>
    obtain ⟨i, w⟩ := p
    simp only [sortedFrom, Bool.and_eq_true, decide_eq_true_eq] at h
    rw [find?_cons, if_neg (by omega), ih h.2 (by omega)]

theorem sortedFrom_mono {t : Tbl α} {lo lo' : Nat} (h : sortedFrom lo t = true) (hl : lo' ≤ lo) : sortedFrom lo' t = true := by
  cases t with
  | nil => rfl
  | cons p t =>
    obtain ⟨i, w⟩ := p
    simp only [sortedFrom, Bool.and_eq_true, decide_eq_true_eq] at h ⊢
    exact ⟨by omega, h.2⟩

/-- Listing keeps the keys rising. -/
theorem sortedFrom_set {t : Tbl α} {lo : Nat} (k : Nat) (v : α) (h : sortedFrom lo t = true) (hk : lo ≤ k) :
    sortedFrom lo (set t k v) = true := by
  induction t generalizing lo with
  | nil => simpa [set, sortedFrom] using hk
  | cons p t ih =>
    obtain ⟨i, w⟩ := p
    simp only [sortedFrom, Bool.and_eq_true, decide_eq_true_eq] at h
    unfold set
    split
    · simp only [sortedFrom, Bool.and_eq_true, decide_eq_true_eq]
      exact ⟨hk, by omega, h.2⟩
    · split
      · rename_i h2; subst h2
        simp only [sortedFrom, Bool.and_eq_true, decide_eq_true_eq]
        exact ⟨hk, h.2⟩
      · simp only [sortedFrom, Bool.and_eq_true, decide_eq_true_eq]
        exact ⟨h.1, ih h.2 (by omega)⟩

/-- Unlisting keeps the keys rising. -/
theorem sortedFrom_erase {t : Tbl α} {lo : Nat} (k : Nat) (h : sortedFrom lo t = true) : sortedFrom lo (erase t k) = true := by
  induction t generalizing lo with
  | nil => rfl
  | cons p t ih =>
    obtain ⟨i, w⟩ := p
    simp only [sortedFrom, Bool.and_eq_true, decide_eq_true_eq] at h
    unfold erase
    split
    · exact ih (sortedFrom_mono h.2 (by omega))
    · simp only [sortedFrom, Bool.and_eq_true, decide_eq_true_eq]
      exact ⟨h.1, ih h.2⟩

/-- Every listed pair of a listing was listed, or is the new one. -/
theorem mem_set {t : Tbl α} {k : Nat} {v : α} {p : Nat × α} (h : p ∈ set t k v) : p ∈ t ∨ p = (k, v) := by
  induction t with
  | nil => exact .inr (by simpa [set] using h)
  | cons q t ih =>
    obtain ⟨i, w⟩ := q
    unfold set at h
    split at h
    · rcases List.mem_cons.1 h with h | h
      · exact .inr h
      · exact .inl h
    · split at h
      · rcases List.mem_cons.1 h with h | h
        · exact .inr h
        · exact .inl (List.mem_cons_of_mem _ h)
      · rcases List.mem_cons.1 h with h | h
        · exact .inl (h ▸ List.mem_cons_self)
        · rcases ih h with h | h
          · exact .inl (List.mem_cons_of_mem _ h)
          · exact .inr h

/-- Every listed pair of an unlisting was listed. -/
theorem mem_erase {t : Tbl α} {k : Nat} {p : Nat × α} (h : p ∈ erase t k) : p ∈ t := by
  induction t with
  | nil => exact h
  | cons q t ih =>
    obtain ⟨i, w⟩ := q
    unfold erase at h
    split at h
    · exact List.mem_cons_of_mem _ (ih h)
    · rcases List.mem_cons.1 h with h | h
      · exact h ▸ List.mem_cons_self
      · exact List.mem_cons_of_mem _ (ih h)

/-- Two tables with rising keys that read alike at every key are the same data. -/
theorem ext {t u : Tbl α} {lo : Nat} (ht : sortedFrom lo t = true) (hu : sortedFrom lo u = true)
    (h : ∀ k, find? t k = find? u k) : t = u := by
  induction t generalizing lo u with
  | nil =>
    cases u with
    | nil => rfl
    | cons q u => obtain ⟨j, w⟩ := q; simpa [find?_cons] using h j
  | cons p t ih =>
    obtain ⟨i, v⟩ := p
    cases u with
    | nil => simpa [find?_cons] using h i
    | cons q u =>
      obtain ⟨j, w⟩ := q
      simp only [sortedFrom, Bool.and_eq_true, decide_eq_true_eq] at ht hu
      have hij : i = j := by
        rcases Nat.lt_trichotomy i j with hlt | heq | hgt
        · have := h i
          rw [find?_cons, if_pos rfl, find?_cons, if_neg (by omega), find?_below hu.2 (by omega)] at this
          exact absurd this (by simp)
        · exact heq
        · have := h j
          rw [find?_cons, if_neg (by omega), find?_below ht.2 (by omega), find?_cons, if_pos rfl] at this
          exact absurd this (by simp)
      subst hij
      have hv : v = w := by simpa [find?_cons] using h i
      subst hv
      congr 1
      refine ih ht.2 hu.2 fun k => ?_
      have := h k
      rw [find?_cons, find?_cons] at this
      by_cases hk : i = k
      · subst hk
        rw [find?_below ht.2 (by omega), find?_below hu.2 (by omega)]
      · rwa [if_neg hk, if_neg hk] at this

end Sys2Proof.Tbl
end

