-- ==== Sys2Proof/Laws/Memory.lean ====
section
/-! SUPPORT. The laws of memory: a byte reads as last written, no other byte changes, and every operation keeps the
canonical form, in which equal memories are equal data. -/

namespace Sys2Proof.Machine

namespace Memory

theorem wf_iff {m : List Host.Cell} :
    Memory.wf m = true ↔ Tbl.sortedFrom 0 m = true ∧ ∀ c ∈ m, c.2 ≠ 0 := by
  simp [Memory.wf]

theorem read_write_self (m : List Host.Cell) (a : Nat) (b : Byte) : read (write m a b) a = b := by
  unfold read write
  split
  · rename_i h; simp [h]
  · simp

theorem read_write_ne (m : List Host.Cell) {a x : Nat} (b : Byte) (h : x ≠ a) : read (write m a b) x = read m x := by
  unfold read write
  split
  · exact Tbl.getD_erase_ne m 0 h
  · exact Tbl.getD_set_ne m b 0 h

/-- A store of one byte keeps the canonical form. -/
theorem wf_write {m : List Host.Cell} (a : Nat) (b : Byte) (h : Memory.wf m = true) : Memory.wf (write m a b) = true := by
  rw [wf_iff] at h ⊢
  unfold write
  split
  · exact ⟨Tbl.sortedFrom_erase a h.1, fun c hc => h.2 c (Tbl.mem_erase hc)⟩
  · rename_i hb
    refine ⟨Tbl.sortedFrom_set a b h.1 (Nat.zero_le a), fun c hc => ?_⟩
    rcases Tbl.mem_set hc with hc | rfl
    · exact h.2 c hc
    · exact hb

/-- A store of several bytes keeps the canonical form. -/
theorem wf_writeAll {m : List Host.Cell} (cs : List Host.Cell) (h : Memory.wf m = true) : Memory.wf (writeAll m cs) = true := by
  unfold writeAll
  induction cs generalizing m with
  | nil => exact h
  | cons c cs ih => exact ih (wf_write c.1 c.2 h)

/-- A byte that no cell of a store names reads as before. -/
theorem read_writeAll_ne (m : List Host.Cell) (cs : List Host.Cell) {x : Nat} (h : ∀ c ∈ cs, c.1 ≠ x) :
    read (writeAll m cs) x = read m x := by
  unfold writeAll
  induction cs generalizing m with
  | nil => rfl
  | cons c cs ih =>
    rw [List.foldl_cons, ih _ fun d hd => h d (List.mem_cons_of_mem _ hd)]
    exact read_write_ne m c.2 (Ne.symm (h c List.mem_cons_self))

/-- Memories in canonical form that read alike at every address are the same data. -/
theorem ext {m n : List Host.Cell} (hm : Memory.wf m = true) (hn : Memory.wf n = true) (h : ∀ a, read m a = read n a) :
    m = n := by
  rw [wf_iff] at hm hn
  refine Tbl.ext hm.1 hn.1 fun k => ?_
  have hk := h k
  unfold read Tbl.getD at hk
  have listed : ∀ {t : List Host.Cell} {v : Byte}, Tbl.find? t k = some v → (k, v) ∈ t := by
    intro t v
    induction t with
    | nil => simp
    | cons p t ih =>
      obtain ⟨i, w⟩ := p
      rw [Tbl.find?_cons]
      split
      · rename_i h; subst h; intro h; cases h; exact List.mem_cons_self
      · intro h; exact List.mem_cons_of_mem _ (ih h)
  cases e : Tbl.find? m k with
  | none =>
    cases e' : Tbl.find? n k with
    | none => rfl
    | some v => rw [e, e'] at hk; exact absurd hk.symm (hn.2 _ (listed e'))
  | some v =>
    cases e' : Tbl.find? n k with
    | none => rw [e, e'] at hk; exact absurd hk (hm.2 _ (listed e))
    | some w => rw [e, e'] at hk; simpa using hk

end Memory

/-- What a base die does with a request keeps the canonical form. -/
theorem wf_applyReq {m : List Host.Cell} (r : BdReq) (h : Memory.wf m = true) : Memory.wf (State.applyReq m r) = true := by
  cases r with
  | wr cells => exact Memory.wf_writeAll cells h
  | atom pa op float signed x => exact Memory.wf_writeAll _ h
  | rd _ _ => exact h
  | dtc _ => exact h

/-- The home's view of a memory in canonical form is in canonical form. -/
theorem wf_home {s : State} (h : Memory.wf s.mem = true) : Memory.wf s.home = true := by
  unfold State.home
  have : ∀ (q : List BdPacket) (m : List Host.Cell), Memory.wf m = true →
      Memory.wf (q.foldl (fun m p => State.applyReq m p.req) m) = true := by
    intro q
    induction q with
    | nil => exact fun m hm => hm
    | cons p q ih => exact fun m hm => ih _ (wf_applyReq p.req hm)
  exact this s.bdq s.mem h

end Sys2Proof.Machine
end

