-- ==== Sys2Proof/Laws/PerInstr.lean ====
section
/-! SUPPORT. Per instruction: the word of a well-formed instruction decodes to it (05, R93, R116); an event has no word. -/

namespace Sys2Proof.Laws.WordForm

/-- Every word that the encoder gives the instruction, where the instruction is well-formed, decodes to it. -/
def Statement (i : Instr) : Prop := i.wellFormed = true → ∀ w, encode i = some w → decodeWord w = .ok i

theorem spdmRequest : ∀ req, Statement (.spdmRequest req) := by intros; exact decodeWord_event rfl
theorem mgmtCoreRead : ∀ r, Statement (.mgmtCoreRead r) := by intros; exact decodeWord_event rfl
theorem registerWrite : ∀ func offset value, Statement (.registerWrite func offset value) := by intros; exact decodeWord_event rfl
theorem partCtlWrite : ∀ n value, Statement (.partCtlWrite n value) := by intros; exact decodeWord_event rfl
theorem pclkCtlWrite : ∀ n value, Statement (.pclkCtlWrite n value) := by intros; exact decodeWord_event rfl
theorem thermalSample : ∀ temp, Statement (.thermalSample temp) := by intros; exact decodeWord_event rfl
theorem thermCtlWrite : ∀ value, Statement (.thermCtlWrite value) := by intros; exact decodeWord_event rfl
theorem notifyWrite : ∀ func offset width value, Statement (.notifyWrite func offset width value) := by intros; exact decodeWord_event rfl
theorem takeRecord : ∀ queue, Statement (.takeRecord queue) := by intros; exact decodeWord_event rfl
theorem dependenceWait : ∀ queue, Statement (.dependenceWait queue) := by intros; exact decodeWord_event rfl
theorem apertureAccess : ∀ func offset len data, Statement (.apertureAccess func offset len data) := by intros; exact decodeWord_event rfl
theorem queueEnable : ∀ queue value, Statement (.queueEnable queue value) := by intros; exact decodeWord_event rfl
theorem queueDisable : ∀ queue, Statement (.queueDisable queue) := by intros; exact decodeWord_event rfl
theorem tlbiCmdVmid : ∀ func value, Statement (.tlbiCmdVmid func value) := by intros; exact decodeWord_event rfl
theorem tlbiCmdAsid : ∀ func value, Statement (.tlbiCmdAsid func value) := by intros; exact decodeWord_event rfl
theorem tlbiCmdAsidVa : ∀ func value, Statement (.tlbiCmdAsidVa func value) := by intros; exact decodeWord_event rfl
theorem tlbiCmdS2Range : ∀ func value, Statement (.tlbiCmdS2Range func value) := by intros; exact decodeWord_event rfl
theorem tlbiCmdAll : ∀ func value, Statement (.tlbiCmdAll func value) := by intros; exact decodeWord_event rfl
theorem tlbiCmdRefused : ∀ func value, Statement (.tlbiCmdRefused func value) := by intros; exact decodeWord_event rfl
theorem tlbiComplete : ∀ func, Statement (.tlbiComplete func) := by intros; exact decodeWord_event rfl
theorem walkComplete : ∀ core asid page, Statement (.walkComplete core asid page) := by intros; exact decodeWord_event rfl
theorem fqBaseWrite : ∀ func value, Statement (.fqBaseWrite func value) := by intros; exact decodeWord_event rfl
theorem fqCtlWrite : ∀ func value, Statement (.fqCtlWrite func value) := by intros; exact decodeWord_event rfl
theorem fqConsWrite : ∀ func value, Statement (.fqConsWrite func value) := by intros; exact decodeWord_event rfl
theorem faultRecordWrite : ∀ func, Statement (.faultRecordWrite func) := by intros; exact decodeWord_event rfl
theorem fqAckRetry : ∀ func seq, Statement (.fqAckRetry func seq) := by intros; exact decodeWord_event rfl
theorem fqAckTrap : ∀ func seq, Statement (.fqAckTrap func seq) := by intros; exact decodeWord_event rfl
theorem fqAckEnd : ∀ func seq, Statement (.fqAckEnd func seq) := by intros; exact decodeWord_event rfl
theorem fqAckInvalid : ∀ func value, Statement (.fqAckInvalid func value) := by intros; exact decodeWord_event rfl
theorem activeSetRotate : ∀ core sched, Statement (.activeSetRotate core sched) := by intros; exact decodeWord_event rfl
theorem instructionFetch : ∀ group slotB, Statement (.instructionFetch group slotB) := by intros; exact decodeWord_event rfl
theorem longLatencyComplete : ∀ group window, Statement (.longLatencyComplete group window) := by intros; exact decodeWord_event rfl
theorem stackSpillAccess : ∀ group, Statement (.stackSpillAccess group) := by intros; exact decodeWord_event rfl
theorem yieldRelease : ∀ group slotB, Statement (.yieldRelease group slotB) := by intros; exact decodeWord_event rfl
theorem trapEntry : ∀ group, Statement (.trapEntry group) := by intros; exact decodeWord_event rfl
theorem asyncTrapDeliver : ∀ group, Statement (.asyncTrapDeliver group) := by intros; exact decodeWord_event rfl
theorem groupEnd : ∀ group, Statement (.groupEnd group) := by intros; exact decodeWord_event rfl
theorem teamExit : ∀ team, Statement (.teamExit team) := by intros; exact decodeWord_event rfl
theorem mmaMultiplyStart : ∀ group, Statement (.mmaMultiplyStart group) := by intros; exact decodeWord_event rfl
theorem accTileRelease : ∀ core tile, Statement (.accTileRelease core tile) := by intros; exact decodeWord_event rfl
theorem rangeEnable : ∀ n value, Statement (.rangeEnable n value) := by intros; exact decodeWord_event rfl
theorem rangeDisable : ∀ n, Statement (.rangeDisable n) := by intros; exact decodeWord_event rfl
theorem rangeRekey : ∀ n, Statement (.rangeRekey n) := by intros; exact decodeWord_event rfl
theorem rekeyComplete : ∀ n, Statement (.rekeyComplete n) := by intros; exact decodeWord_event rfl
theorem baseDieReply : ∀ stack tag, Statement (.baseDieReply stack tag) := by intros; exact decodeWord_event rfl
theorem homeWriteArrive : ∀ core line, Statement (.homeWriteArrive core line) := by intros; exact decodeWord_event rfl
theorem narrowHolderPublish : ∀ core line, Statement (.narrowHolderPublish core line) := by intros; exact decodeWord_event rfl
theorem siltMerge : ∀ core line, Statement (.siltMerge core line) := by intros; exact decodeWord_event rfl
theorem invalidationReceive : ∀ core line, Statement (.invalidationReceive core line) := by intros; exact decodeWord_event rfl
theorem lineFill : ∀ core line, Statement (.lineFill core line) := by intros; exact decodeWord_event rfl
theorem windowFill : ∀ team word, Statement (.windowFill team word) := by intros; exact decodeWord_event rfl
theorem logCtlWrite : ∀ func value, Statement (.logCtlWrite func value) := by intros; exact decodeWord_event rfl
theorem logRecordAppend : ∀ func, Statement (.logRecordAppend func) := by intros; exact decodeWord_event rfl
theorem waitaWake : ∀ group, Statement (.waitaWake group) := by intros; exact decodeWord_event rfl
theorem waitaTimeout : ∀ group, Statement (.waitaTimeout group) := by intros; exact decodeWord_event rfl
theorem vdnCommit : ∀ n value, Statement (.vdnCommit n value) := by intros; exact decodeWord_event rfl
theorem netctxArm : ∀ n, Statement (.netctxArm n) := by intros; exact decodeWord_event rfl
theorem netctxInvalidate : ∀ n, Statement (.netctxInvalidate n) := by intros; exact decodeWord_event rfl
theorem forwardTimerExpire : ∀ n, Statement (.forwardTimerExpire n) := by intros; exact decodeWord_event rfl
theorem wrStart : ∀ pid queue, Statement (.wrStart pid queue) := by intros; exact decodeWord_event rfl
theorem packetReceive : ∀ packet, Statement (.packetReceive packet) := by intros; exact decodeWord_event rfl
theorem packetAckReceive : ∀ ack, Statement (.packetAckReceive ack) := by intros; exact decodeWord_event rfl
theorem responseReceive : ∀ resp, Statement (.responseReceive resp) := by intros; exact decodeWord_event rfl
theorem notReadyReceive : ∀ pid queue msg pkt, Statement (.notReadyReceive pid queue msg pkt) := by intros; exact decodeWord_event rfl
theorem retransmitTimeout : ∀ pid queue msg pkt, Statement (.retransmitTimeout pid queue msg pkt) := by intros; exact decodeWord_event rfl
theorem movedReceive : ∀ pid queue msg pkt, Statement (.movedReceive pid queue msg pkt) := by intros; exact decodeWord_event rfl
theorem movedRecheck : ∀ pid queue msg pkt, Statement (.movedRecheck pid queue msg pkt) := by intros; exact decodeWord_event rfl
theorem evictCmd : ∀ func value, Statement (.evictCmd func value) := by intros; exact decodeWord_event rfl
theorem teamEvict : ∀ team, Statement (.teamEvict team) := by intros; exact decodeWord_event rfl
theorem teamRestore : ∀ team, Statement (.teamRestore team) := by intros; exact decodeWord_event rfl
theorem marlCopyRound : ∀ stack value, Statement (.marlCopyRound stack value) := by intros; exact decodeWord_event rfl
theorem marlClearRound : ∀ stack value, Statement (.marlClearRound stack value) := by intros; exact decodeWord_event rfl
theorem marlDrainRound : ∀ stack value, Statement (.marlDrainRound stack value) := by intros; exact decodeWord_event rfl
theorem vfQuiesce : ∀ w, Statement (.vfQuiesce w) := by intros; exact decodeWord_event rfl
theorem quiesceComplete : ∀ func, Statement (.quiesceComplete func) := by intros; exact decodeWord_event rfl
theorem vfSave : ∀ w, Statement (.vfSave w) := by intros; exact decodeWord_event rfl
theorem saveComplete : ∀ func, Statement (.saveComplete func) := by intros; exact decodeWord_event rfl
theorem vfResume : ∀ w, Statement (.vfResume w) := by intros; exact decodeWord_event rfl
theorem vfRestore : ∀ w, Statement (.vfRestore w) := by intros; exact decodeWord_event rfl
theorem vfctlRefused : ∀ func value, Statement (.vfctlRefused func value) := by intros; exact decodeWord_event rfl
theorem partitionReset : ∀ part cause, Statement (.partitionReset part cause) := by intros; exact decodeWord_event rfl
theorem scrubAtom : ∀ stack atom, Statement (.scrubAtom stack atom) := by intros; exact decodeWord_event rfl
theorem errCtlWrite : ∀ value, Statement (.errCtlWrite value) := by intros; exact decodeWord_event rfl
theorem bankDrowsy : ∀ core bank, Statement (.bankDrowsy core bank) := by intros; exact decodeWord_event rfl
theorem rptCmdLaunch : ∀ value, Statement (.rptCmdLaunch value) := by intros; exact decodeWord_event rfl
theorem rptCmdNetctx : ∀ value, Statement (.rptCmdNetctx value) := by intros; exact decodeWord_event rfl
theorem rptCmdRefused : ∀ value, Statement (.rptCmdRefused value) := by intros; exact decodeWord_event rfl
theorem jobCmd : ∀ value, Statement (.jobCmd value) := by intros; exact decodeWord_event rfl
theorem rptCtlWrite : ∀ value, Statement (.rptCtlWrite value) := by intros; exact decodeWord_event rfl
theorem profCtlWrite : ∀ func value, Statement (.profCtlWrite func value) := by intros; exact decodeWord_event rfl
theorem trcCtlWrite : ∀ func value, Statement (.trcCtlWrite func value) := by intros; exact decodeWord_event rfl
theorem sampleTick : ∀ core sched, Statement (.sampleTick core sched) := by intros; exact decodeWord_event rfl
theorem dbgHalt : ∀ func value, Statement (.dbgHalt func value) := by intros; exact decodeWord_event rfl
theorem dbgResume : ∀ func value, Statement (.dbgResume func value) := by intros; exact decodeWord_event rfl
theorem dbgStep : ∀ func value, Statement (.dbgStep func value) := by intros; exact decodeWord_event rfl
theorem dbgLaneFocus : ∀ func value, Statement (.dbgLaneFocus func value) := by intros; exact decodeWord_event rfl
theorem dbgReadRecord : ∀ func value, Statement (.dbgReadRecord func value) := by intros; exact decodeWord_event rfl
theorem dbgCmdRefused : ∀ func value, Statement (.dbgCmdRefused func value) := by intros; exact decodeWord_event rfl
theorem cstatWrite : ∀ core value, Statement (.cstatWrite core value) := by intros; exact decodeWord_event rfl
theorem nop (f : Fields) : Statement (.nop f) := fun h w hw => decodeWord_encode 0x001 f rfl rfl (by decide) h hw
theorem bra (f : Fields) : Statement (.bra f) := fun h w hw => decodeWord_encode 0x002 f rfl rfl (by decide) h hw
theorem brc (f : Fields) : Statement (.brc f) := fun h w hw => decodeWord_encode 0x003 f rfl rfl (by decide) h hw
theorem brx (f : Fields) : Statement (.brx f) := fun h w hw => decodeWord_encode 0x004 f rfl rfl (by decide) h hw
theorem call (f : Fields) : Statement (.call f) := fun h w hw => decodeWord_encode 0x005 f rfl rfl (by decide) h hw
theorem callx (f : Fields) : Statement (.callx f) := fun h w hw => decodeWord_encode 0x006 f rfl rfl (by decide) h hw
theorem ret (f : Fields) : Statement (.ret f) := fun h w hw => decodeWord_encode 0x007 f rfl rfl (by decide) h hw
theorem exit (f : Fields) : Statement (.exit f) := fun h w hw => decodeWord_encode 0x008 f rfl rfl (by decide) h hw
theorem loop (f : Fields) : Statement (.loop f) := fun h w hw => decodeWord_encode 0x009 f rfl rfl (by decide) h hw
theorem lbrk (f : Fields) : Statement (.lbrk f) := fun h w hw => decodeWord_encode 0x00A f rfl rfl (by decide) h hw
theorem yield (f : Fields) : Statement (.yield f) := fun h w hw => decodeWord_encode 0x00B f rfl rfl (by decide) h hw
theorem setfmt (f : Fields) : Statement (.setfmt f) := fun h w hw => decodeWord_encode 0x00C f rfl rfl (by decide) h hw
theorem getfmt (f : Fields) : Statement (.getfmt f) := fun h w hw => decodeWord_encode 0x00D f rfl rfl (by decide) h hw
theorem wrmask (f : Fields) : Statement (.wrmask f) := fun h w hw => decodeWord_encode 0x00E f rfl rfl (by decide) h hw
theorem iadd (f : Fields) : Statement (.iadd f) := fun h w hw => decodeWord_encode 0x040 f rfl rfl (by decide) h hw
theorem iaddc (f : Fields) : Statement (.iaddc f) := fun h w hw => decodeWord_encode 0x041 f rfl rfl (by decide) h hw
theorem isub (f : Fields) : Statement (.isub f) := fun h w hw => decodeWord_encode 0x042 f rfl rfl (by decide) h hw
theorem isubb (f : Fields) : Statement (.isubb f) := fun h w hw => decodeWord_encode 0x043 f rfl rfl (by decide) h hw
theorem imul (f : Fields) : Statement (.imul f) := fun h w hw => decodeWord_encode 0x044 f rfl rfl (by decide) h hw
theorem imulh (f : Fields) : Statement (.imulh f) := fun h w hw => decodeWord_encode 0x045 f rfl rfl (by decide) h hw
theorem imad (f : Fields) : Statement (.imad f) := fun h w hw => decodeWord_encode 0x046 f rfl rfl (by decide) h hw
theorem iabs (f : Fields) : Statement (.iabs f) := fun h w hw => decodeWord_encode 0x047 f rfl rfl (by decide) h hw
theorem ineg (f : Fields) : Statement (.ineg f) := fun h w hw => decodeWord_encode 0x048 f rfl rfl (by decide) h hw
theorem imin (f : Fields) : Statement (.imin f) := fun h w hw => decodeWord_encode 0x049 f rfl rfl (by decide) h hw
theorem imax (f : Fields) : Statement (.imax f) := fun h w hw => decodeWord_encode 0x04A f rfl rfl (by decide) h hw
theorem addsat (f : Fields) : Statement (.addsat f) := fun h w hw => decodeWord_encode 0x04B f rfl rfl (by decide) h hw
theorem pmad2 (f : Fields) : Statement (.pmad2 f) := fun h w hw => decodeWord_encode 0x04C f rfl rfl (by decide) h hw
theorem rshr (f : Fields) : Statement (.rshr f) := fun h w hw => decodeWord_encode 0x04D f rfl rfl (by decide) h hw
theorem dp4 (f : Fields) : Statement (.dp4 f) := fun h w hw => decodeWord_encode 0x04E f rfl rfl (by decide) h hw
theorem bitAnd (f : Fields) : Statement (.bitAnd f) := fun h w hw => decodeWord_encode 0x050 f rfl rfl (by decide) h hw
theorem bitOr (f : Fields) : Statement (.bitOr f) := fun h w hw => decodeWord_encode 0x051 f rfl rfl (by decide) h hw
theorem bitXor (f : Fields) : Statement (.bitXor f) := fun h w hw => decodeWord_encode 0x052 f rfl rfl (by decide) h hw
theorem bitNot (f : Fields) : Statement (.bitNot f) := fun h w hw => decodeWord_encode 0x053 f rfl rfl (by decide) h hw
theorem shl (f : Fields) : Statement (.shl f) := fun h w hw => decodeWord_encode 0x054 f rfl rfl (by decide) h hw
theorem shr (f : Fields) : Statement (.shr f) := fun h w hw => decodeWord_encode 0x055 f rfl rfl (by decide) h hw
theorem sar (f : Fields) : Statement (.sar f) := fun h w hw => decodeWord_encode 0x056 f rfl rfl (by decide) h hw
theorem rot (f : Fields) : Statement (.rot f) := fun h w hw => decodeWord_encode 0x057 f rfl rfl (by decide) h hw
theorem bfe (f : Fields) : Statement (.bfe f) := fun h w hw => decodeWord_encode 0x058 f rfl rfl (by decide) h hw
theorem bfi (f : Fields) : Statement (.bfi f) := fun h w hw => decodeWord_encode 0x059 f rfl rfl (by decide) h hw
theorem popc (f : Fields) : Statement (.popc f) := fun h w hw => decodeWord_encode 0x05A f rfl rfl (by decide) h hw
theorem clz (f : Fields) : Statement (.clz f) := fun h w hw => decodeWord_encode 0x05B f rfl rfl (by decide) h hw
theorem brev (f : Fields) : Statement (.brev f) := fun h w hw => decodeWord_encode 0x05C f rfl rfl (by decide) h hw
theorem icmp (f : Fields) : Statement (.icmp f) := fun h w hw => decodeWord_encode 0x060 f rfl rfl (by decide) h hw
theorem sel (f : Fields) : Statement (.sel f) := fun h w hw => decodeWord_encode 0x061 f rfl rfl (by decide) h hw
theorem mov (f : Fields) : Statement (.mov f) := fun h w hw => decodeWord_encode 0x062 f rfl rfl (by decide) h hw
theorem movi (f : Fields) : Statement (.movi f) := fun h w hw => decodeWord_encode 0x063 f rfl rfl (by decide) h hw
theorem fadd (f : Fields) : Statement (.fadd f) := fun h w hw => decodeWord_encode 0x0C0 f rfl rfl (by decide) h hw
theorem fsub (f : Fields) : Statement (.fsub f) := fun h w hw => decodeWord_encode 0x0C1 f rfl rfl (by decide) h hw
theorem fmul (f : Fields) : Statement (.fmul f) := fun h w hw => decodeWord_encode 0x0C2 f rfl rfl (by decide) h hw
theorem ffma (f : Fields) : Statement (.ffma f) := fun h w hw => decodeWord_encode 0x0C3 f rfl rfl (by decide) h hw
theorem fmin (f : Fields) : Statement (.fmin f) := fun h w hw => decodeWord_encode 0x0C4 f rfl rfl (by decide) h hw
theorem fmax (f : Fields) : Statement (.fmax f) := fun h w hw => decodeWord_encode 0x0C5 f rfl rfl (by decide) h hw
theorem fcmp (f : Fields) : Statement (.fcmp f) := fun h w hw => decodeWord_encode 0x0C6 f rfl rfl (by decide) h hw
theorem fclass (f : Fields) : Statement (.fclass f) := fun h w hw => decodeWord_encode 0x0C7 f rfl rfl (by decide) h hw
theorem fround (f : Fields) : Statement (.fround f) := fun h w hw => decodeWord_encode 0x0C8 f rfl rfl (by decide) h hw
theorem hadd2 (f : Fields) : Statement (.hadd2 f) := fun h w hw => decodeWord_encode 0x0D0 f rfl rfl (by decide) h hw
theorem hmul2 (f : Fields) : Statement (.hmul2 f) := fun h w hw => decodeWord_encode 0x0D1 f rfl rfl (by decide) h hw
theorem hfma2 (f : Fields) : Statement (.hfma2 f) := fun h w hw => decodeWord_encode 0x0D2 f rfl rfl (by decide) h hw
theorem rcp (f : Fields) : Statement (.rcp f) := fun h w hw => decodeWord_encode 0x0E0 f rfl rfl (by decide) h hw
theorem rsqrt (f : Fields) : Statement (.rsqrt f) := fun h w hw => decodeWord_encode 0x0E1 f rfl rfl (by decide) h hw
theorem sqrt (f : Fields) : Statement (.sqrt f) := fun h w hw => decodeWord_encode 0x0E2 f rfl rfl (by decide) h hw
theorem exp2 (f : Fields) : Statement (.exp2 f) := fun h w hw => decodeWord_encode 0x0E3 f rfl rfl (by decide) h hw
theorem log2 (f : Fields) : Statement (.log2 f) := fun h w hw => decodeWord_encode 0x0E4 f rfl rfl (by decide) h hw
theorem sin (f : Fields) : Statement (.sin f) := fun h w hw => decodeWord_encode 0x0E5 f rfl rfl (by decide) h hw
theorem cos (f : Fields) : Statement (.cos f) := fun h w hw => decodeWord_encode 0x0E6 f rfl rfl (by decide) h hw
theorem cvt (f : Fields) : Statement (.cvt f) := fun h w hw => decodeWord_encode 0x0F0 f rfl rfl (by decide) h hw
theorem i2f (f : Fields) : Statement (.i2f f) := fun h w hw => decodeWord_encode 0x0F1 f rfl rfl (by decide) h hw
theorem f2i (f : Fields) : Statement (.f2i f) := fun h w hw => decodeWord_encode 0x0F2 f rfl rfl (by decide) h hw
theorem rand (f : Fields) : Statement (.rand f) := fun h w hw => decodeWord_encode 0x0F3 f rfl rfl (by decide) h hw
theorem shfl (f : Fields) : Statement (.shfl f) := fun h w hw => decodeWord_encode 0x140 f rfl rfl (by decide) h hw
theorem slide (f : Fields) : Statement (.slide f) := fun h w hw => decodeWord_encode 0x141 f rfl rfl (by decide) h hw
theorem vote (f : Fields) : Statement (.vote f) := fun h w hw => decodeWord_encode 0x142 f rfl rfl (by decide) h hw
theorem ballot (f : Fields) : Statement (.ballot f) := fun h w hw => decodeWord_encode 0x143 f rfl rfl (by decide) h hw
theorem redux (f : Fields) : Statement (.redux f) := fun h w hw => decodeWord_encode 0x144 f rfl rfl (by decide) h hw
theorem scan (f : Fields) : Statement (.scan f) := fun h w hw => decodeWord_encode 0x145 f rfl rfl (by decide) h hw
theorem rdlane (f : Fields) : Statement (.rdlane f) := fun h w hw => decodeWord_encode 0x146 f rfl rfl (by decide) h hw
theorem wrlane (f : Fields) : Statement (.wrlane f) := fun h w hw => decodeWord_encode 0x147 f rfl rfl (by decide) h hw
theorem pand (f : Fields) : Statement (.pand f) := fun h w hw => decodeWord_encode 0x150 f rfl rfl (by decide) h hw
theorem por (f : Fields) : Statement (.por f) := fun h w hw => decodeWord_encode 0x151 f rfl rfl (by decide) h hw
theorem pxor (f : Fields) : Statement (.pxor f) := fun h w hw => decodeWord_encode 0x152 f rfl rfl (by decide) h hw
theorem pnot (f : Fields) : Statement (.pnot f) := fun h w hw => decodeWord_encode 0x153 f rfl rfl (by decide) h hw
theorem mmaS (f : Fields) : Statement (.mmaS f) := fun h w hw => decodeWord_encode 0x180 f rfl rfl (by decide) h hw
theorem mmaV (f : Fields) : Statement (.mmaV f) := fun h w hw => decodeWord_encode 0x181 f rfl rfl (by decide) h hw
theorem mmaG (f : Fields) : Statement (.mmaG f) := fun h w hw => decodeWord_encode 0x182 f rfl rfl (by decide) h hw
theorem accz (f : Fields) : Statement (.accz f) := fun h w hw => decodeWord_encode 0x188 f rfl rfl (by decide) h hw
theorem accrd (f : Fields) : Statement (.accrd f) := fun h w hw => decodeWord_encode 0x189 f rfl rfl (by decide) h hw
theorem accwr (f : Fields) : Statement (.accwr f) := fun h w hw => decodeWord_encode 0x18A f rfl rfl (by decide) h hw
theorem accst (f : Fields) : Statement (.accst f) := fun h w hw => decodeWord_encode 0x18B f rfl rfl (by decide) h hw
theorem qnt (f : Fields) : Statement (.qnt f) := fun h w hw => decodeWord_encode 0x190 f rfl rfl (by decide) h hw
theorem ldcb (f : Fields) : Statement (.ldcb f) := fun h w hw => decodeWord_encode 0x191 f rfl rfl (by decide) h hw
theorem ld (f : Fields) : Statement (.ld f) := fun h w hw => decodeWord_encode 0x1C0 f rfl rfl (by decide) h hw
theorem st (f : Fields) : Statement (.st f) := fun h w hw => decodeWord_encode 0x1C1 f rfl rfl (by decide) h hw
theorem lds (f : Fields) : Statement (.lds f) := fun h w hw => decodeWord_encode 0x1C2 f rfl rfl (by decide) h hw
theorem sts (f : Fields) : Statement (.sts f) := fun h w hw => decodeWord_encode 0x1C3 f rfl rfl (by decide) h hw
theorem ldTensor (f : Fields) : Statement (.ldTensor f) := fun h w hw => decodeWord_encode 0x1C4 f rfl rfl (by decide) h hw
theorem stTensor (f : Fields) : Statement (.stTensor f) := fun h w hw => decodeWord_encode 0x1C5 f rfl rfl (by decide) h hw
theorem tset (f : Fields) : Statement (.tset f) := fun h w hw => decodeWord_encode 0x1C8 f rfl rfl (by decide) h hw
theorem pref (f : Fields) : Statement (.pref f) := fun h w hw => decodeWord_encode 0x1C9 f rfl rfl (by decide) h hw
theorem wmap (f : Fields) : Statement (.wmap f) := fun h w hw => decodeWord_encode 0x1D0 f rfl rfl (by decide) h hw
theorem wunmap (f : Fields) : Statement (.wunmap f) := fun h w hw => decodeWord_encode 0x1D1 f rfl rfl (by decide) h hw
theorem wsync (f : Fields) : Statement (.wsync f) := fun h w hw => decodeWord_encode 0x1D2 f rfl rfl (by decide) h hw
theorem winv (f : Fields) : Statement (.winv f) := fun h w hw => decodeWord_encode 0x1D3 f rfl rfl (by decide) h hw
theorem cpyG2s (f : Fields) : Statement (.cpyG2s f) := fun h w hw => decodeWord_encode 0x1E0 f rfl rfl (by decide) h hw
theorem cpyS2g (f : Fields) : Statement (.cpyS2g f) := fun h w hw => decodeWord_encode 0x1E1 f rfl rfl (by decide) h hw
theorem cpyG2k (f : Fields) : Statement (.cpyG2k f) := fun h w hw => decodeWord_encode 0x1E2 f rfl rfl (by decide) h hw
theorem cpyS2k (f : Fields) : Statement (.cpyS2k f) := fun h w hw => decodeWord_encode 0x1E3 f rfl rfl (by decide) h hw
theorem cpyS2s (f : Fields) : Statement (.cpyS2s f) := fun h w hw => decodeWord_encode 0x1E4 f rfl rfl (by decide) h hw
theorem cpyGat (f : Fields) : Statement (.cpyGat f) := fun h w hw => decodeWord_encode 0x1E5 f rfl rfl (by decide) h hw
theorem cpySct (f : Fields) : Statement (.cpySct f) := fun h w hw => decodeWord_encode 0x1E6 f rfl rfl (by decide) h hw
theorem fence (f : Fields) : Statement (.fence f) := fun h w hw => decodeWord_encode 0x240 f rfl rfl (by decide) h hw
theorem atom (f : Fields) : Statement (.atom f) := fun h w hw => decodeWord_encode 0x241 f rfl rfl (by decide) h hw
theorem atomc (f : Fields) : Statement (.atomc f) := fun h w hw => decodeWord_encode 0x242 f rfl rfl (by decide) h hw
theorem red (f : Fields) : Statement (.red f) := fun h w hw => decodeWord_encode 0x243 f rfl rfl (by decide) h hw
theorem barSync (f : Fields) : Statement (.barSync f) := fun h w hw => decodeWord_encode 0x248 f rfl rfl (by decide) h hw
theorem barArv (f : Fields) : Statement (.barArv f) := fun h w hw => decodeWord_encode 0x249 f rfl rfl (by decide) h hw
theorem barWt (f : Fields) : Statement (.barWt f) := fun h w hw => decodeWord_encode 0x24A f rfl rfl (by decide) h hw
theorem gbar (f : Fields) : Statement (.gbar f) := fun h w hw => decodeWord_encode 0x24B f rfl rfl (by decide) h hw
theorem waita (f : Fields) : Statement (.waita f) := fun h w hw => decodeWord_encode 0x250 f rfl rfl (by decide) h hw
theorem lkacq (f : Fields) : Statement (.lkacq f) := fun h w hw => decodeWord_encode 0x258 f rfl rfl (by decide) h hw
theorem lktry (f : Fields) : Statement (.lktry f) := fun h w hw => decodeWord_encode 0x259 f rfl rfl (by decide) h hw
theorem lkrel (f : Fields) : Statement (.lkrel f) := fun h w hw => decodeWord_encode 0x25A f rfl rfl (by decide) h hw
theorem resample (f : Fields) : Statement (.resample f) := fun h w hw => decodeWord_encode 0x280 f rfl rfl (by decide) h hw
theorem reorder (f : Fields) : Statement (.reorder f) := fun h w hw => decodeWord_encode 0x281 f rfl rfl (by decide) h hw
theorem popq (f : Fields) : Statement (.popq f) := fun h w hw => decodeWord_encode 0x282 f rfl rfl (by decide) h hw
theorem lineage (f : Fields) : Statement (.lineage f) := fun h w hw => decodeWord_encode 0x283 f rfl rfl (by decide) h hw
theorem nwr (f : Fields) : Statement (.nwr f) := fun h w hw => decodeWord_encode 0x2A0 f rfl rfl (by decide) h hw
theorem nfence (f : Fields) : Statement (.nfence f) := fun h w hw => decodeWord_encode 0x2A1 f rfl rfl (by decide) h hw
theorem nstat (f : Fields) : Statement (.nstat f) := fun h w hw => decodeWord_encode 0x2A2 f rfl rfl (by decide) h hw
theorem trap (f : Fields) : Statement (.trap f) := fun h w hw => decodeWord_encode 0x2C0 f rfl rfl (by decide) h hw
theorem rte (f : Fields) : Statement (.rte f) := fun h w hw => decodeWord_encode 0x2C1 f rfl rfl (by decide) h hw
theorem bkpt (f : Fields) : Statement (.bkpt f) := fun h w hw => decodeWord_encode 0x2C2 f rfl rfl (by decide) h hw
theorem rdsr (f : Fields) : Statement (.rdsr f) := fun h w hw => decodeWord_encode 0x2C3 f rfl rfl (by decide) h hw
theorem wrsr (f : Fields) : Statement (.wrsr f) := fun h w hw => decodeWord_encode 0x2C4 f rfl rfl (by decide) h hw
theorem cwb (f : Fields) : Statement (.cwb f) := fun h w hw => decodeWord_encode 0x2C8 f rfl rfl (by decide) h hw
theorem cinv (f : Fields) : Statement (.cinv f) := fun h w hw => decodeWord_encode 0x2C9 f rfl rfl (by decide) h hw
theorem icinv (f : Fields) : Statement (.icinv f) := fun h w hw => decodeWord_encode 0x2CA f rfl rfl (by decide) h hw
theorem fbar (f : Fields) : Statement (.fbar f) := fun h w hw => decodeWord_encode 0x2CB f rfl rfl (by decide) h hw
theorem launch (f : Fields) : Statement (.launch f) := fun h w hw => decodeWord_encode 0x2D0 f rfl rfl (by decide) h hw
theorem mtrd (f : Fields) : Statement (.mtrd f) := fun h w hw => decodeWord_encode 0x2D8 f rfl rfl (by decide) h hw
theorem tmark (f : Fields) : Statement (.tmark f) := fun h w hw => decodeWord_encode 0x2D9 f rfl rfl (by decide) h hw
theorem halt (f : Fields) : Statement (.halt f) := fun h w hw => decodeWord_encode 0x2E0 f rfl rfl (by decide) h hw
theorem tlbi (f : Fields) : Statement (.tlbi f) := fun h w hw => decodeWord_encode 0x2E1 f rfl rfl (by decide) h hw
theorem logConsWrite : ∀ func value, Statement (.logConsWrite func value) := by intros; exact decodeWord_event rfl
theorem rptConsWrite : ∀ value, Statement (.rptConsWrite value) := by intros; exact decodeWord_event rfl
theorem trcConsWrite : ∀ func value, Statement (.trcConsWrite func value) := by intros; exact decodeWord_event rfl
theorem boot : Statement .boot := decodeWord_event rfl
theorem clockStepSwitch : Statement .clockStepSwitch := decodeWord_event rfl
theorem governorWindow : Statement .governorWindow := decodeWord_event rfl
theorem tokenGrant : Statement .tokenGrant := decodeWord_event rfl
theorem headOffer : Statement .headOffer := decodeWord_event rfl
theorem admissionDecision : Statement .admissionDecision := decodeWord_event rfl
theorem launchFinal : Statement .launchFinal := decodeWord_event rfl
theorem spillGroups : Statement .spillGroups := decodeWord_event rfl
theorem spillRestore : Statement .spillRestore := decodeWord_event rfl
theorem regAllocGrant : Statement .regAllocGrant := decodeWord_event rfl
theorem mmaComplete : Statement .mmaComplete := decodeWord_event rfl
theorem baseDieRd : Statement .baseDieRd := decodeWord_event rfl
theorem baseDieWr : Statement .baseDieWr := decodeWord_event rfl
theorem baseDieAtom : Statement .baseDieAtom := decodeWord_event rfl
theorem baseDieDtc : Statement .baseDieDtc := decodeWord_event rfl
theorem copyCommandBegin : Statement .copyCommandBegin := decodeWord_event rfl
theorem copyChunk : Statement .copyChunk := decodeWord_event rfl
theorem copyCompletion : Statement .copyCompletion := decodeWord_event rfl
theorem resampleCommit : Statement .resampleCommit := decodeWord_event rfl
theorem resampleCommitEnd : Statement .resampleCommitEnd := decodeWord_event rfl
theorem reorderPassClose : Statement .reorderPassClose := decodeWord_event rfl
theorem marlRoundEnd : Statement .marlRoundEnd := decodeWord_event rfl
theorem directoryRecall : Statement .directoryRecall := decodeWord_event rfl
theorem directoryRebuild : Statement .directoryRebuild := decodeWord_event rfl
theorem recallTimeout : Statement .recallTimeout := decodeWord_event rfl

end Sys2Proof.Laws.WordForm
end

