-- ==== Sys2Proof/Laws/State.lean ====
section
/-! SUPPORT. What each update of one table of the state leaves of every field, and what each table reads after it. -/

namespace Sys2Proof.Machine.State

/-! ## `setCore` -/

@[simp] theorem setCore_agenda (s : State) (k : Nat) (x : Core) : (s.setCore k x).agenda = s.agenda := rfl
@[simp] theorem setCore_tick (s : State) (k : Nat) (x : Core) : (s.setCore k x).tick = s.tick := rfl
@[simp] theorem setCore_now (s : State) (k : Nat) (x : Core) : (s.setCore k x).now = s.now := rfl
@[simp] theorem setCore_cur (s : State) (k : Nat) (x : Core) : (s.setCore k x).cur = s.cur := rfl
@[simp] theorem setCore_curB (s : State) (k : Nat) (x : Core) : (s.setCore k x).curB = s.curB := rfl
@[simp] theorem setCore_focus (s : State) (k : Nat) (x : Core) : (s.setCore k x).focus = s.focus := rfl
@[simp] theorem setCore_mem (s : State) (k : Nat) (x : Core) : (s.setCore k x).mem = s.mem := rfl
@[simp] theorem setCore_cold (s : State) (k : Nat) (x : Core) : (s.setCore k x).cold = s.cold := rfl
@[simp] theorem setCore_l2 (s : State) (k : Nat) (x : Core) : (s.setCore k x).l2 = s.l2 := rfl
@[simp] theorem setCore_bdq (s : State) (k : Nat) (x : Core) : (s.setCore k x).bdq = s.bdq := rfl
@[simp] theorem setCore_replies (s : State) (k : Nat) (x : Core) : (s.setCore k x).replies = s.replies := rfl
@[simp] theorem setCore_atomPoison (s : State) (k : Nat) (x : Core) : (s.setCore k x).atomPoison = s.atomPoison := rfl
@[simp] theorem setCore_atomFlipped (s : State) (k : Nat) (x : Core) : (s.setCore k x).atomFlipped = s.atomFlipped := rfl
@[simp] theorem setCore_atomBad (s : State) (k : Nat) (x : Core) : (s.setCore k x).atomBad = s.atomBad := rfl
@[simp] theorem setCore_macBad (s : State) (k : Nat) (x : Core) : (s.setCore k x).macBad = s.macBad := rfl
@[simp] theorem setCore_confs (s : State) (k : Nat) (x : Core) : (s.setCore k x).confs = s.confs := rfl
@[simp] theorem setCore_treeCount (s : State) (k : Nat) (x : Core) : (s.setCore k x).treeCount = s.treeCount := rfl
@[simp] theorem setCore_recalls (s : State) (k : Nat) (x : Core) : (s.setCore k x).recalls = s.recalls := rfl
@[simp] theorem setCore_dies (s : State) (k : Nat) (x : Core) : (s.setCore k x).dies = s.dies := rfl
@[simp] theorem setCore_root (s : State) (k : Nat) (x : Core) : (s.setCore k x).root = s.root := rfl
@[simp] theorem setCore_pkg (s : State) (k : Nat) (x : Core) : (s.setCore k x).pkg = s.pkg := rfl
@[simp] theorem setCore_parts (s : State) (k : Nat) (x : Core) : (s.setCore k x).parts = s.parts := rfl
@[simp] theorem setCore_clusters (s : State) (k : Nat) (x : Core) : (s.setCore k x).clusters = s.clusters := rfl
@[simp] theorem setCore_ctlb (s : State) (k : Nat) (x : Core) : (s.setCore k x).ctlb = s.ctlb := rfl
@[simp] theorem setCore_walkers (s : State) (k : Nat) (x : Core) : (s.setCore k x).walkers = s.walkers := rfl
@[simp] theorem setCore_ranges (s : State) (k : Nat) (x : Core) : (s.setCore k x).ranges = s.ranges := rfl
@[simp] theorem setCore_keys (s : State) (k : Nat) (x : Core) : (s.setCore k x).keys = s.keys := rfl
@[simp] theorem setCore_spaces (s : State) (k : Nat) (x : Core) : (s.setCore k x).spaces = s.spaces := rfl
@[simp] theorem setCore_vmids (s : State) (k : Nat) (x : Core) : (s.setCore k x).vmids = s.vmids := rfl
@[simp] theorem setCore_vdns (s : State) (k : Nat) (x : Core) : (s.setCore k x).vdns = s.vdns := rfl
@[simp] theorem setCore_nets (s : State) (k : Nat) (x : Core) : (s.setCore k x).nets = s.nets := rfl
@[simp] theorem setCore_funcs (s : State) (k : Nat) (x : Core) : (s.setCore k x).funcs = s.funcs := rfl
@[simp] theorem setCore_queues (s : State) (k : Nat) (x : Core) : (s.setCore k x).queues = s.queues := rfl
@[simp] theorem setCore_launches (s : State) (k : Nat) (x : Core) : (s.setCore k x).launches = s.launches := rfl
@[simp] theorem setCore_teams (s : State) (k : Nat) (x : Core) : (s.setCore k x).teams = s.teams := rfl
@[simp] theorem setCore_groups (s : State) (k : Nat) (x : Core) : (s.setCore k x).groups = s.groups := rfl
@[simp] theorem setCore_saved (s : State) (k : Nat) (x : Core) : (s.setCore k x).saved = s.saved := rfl
@[simp] theorem setCore_savedCopies (s : State) (k : Nat) (x : Core) : (s.setCore k x).savedCopies = s.savedCopies := rfl
@[simp] theorem setCore_savedQueues (s : State) (k : Nat) (x : Core) : (s.setCore k x).savedQueues = s.savedQueues := rfl
@[simp] theorem setCore_lockq (s : State) (k : Nat) (x : Core) : (s.setCore k x).lockq = s.lockq := rfl
@[simp] theorem setCore_held (s : State) (k : Nat) (x : Core) : (s.setCore k x).held = s.held := rfl
@[simp] theorem setCore_out (s : State) (k : Nat) (x : Core) : (s.setCore k x).out = s.out := rfl
@[simp] theorem setCore_serial (s : State) (k : Nat) (x : Core) : (s.setCore k x).serial = s.serial := rfl
@[simp] theorem setCore_cores (s : State) (k : Nat) (x : Core) : (s.setCore k x).cores = s.cores.set k x := rfl
@[simp] theorem setCore_team (s : State) (k j : Nat) (x : Core) : (s.setCore k x).team j = s.team j := rfl
@[simp] theorem setCore_launch (s : State) (k j : Nat) (x : Core) : (s.setCore k x).launch j = s.launch j := rfl
@[simp] theorem setCore_group (s : State) (k j : Nat) (x : Core) : (s.setCore k x).group j = s.group j := rfl
@[simp] theorem setCore_func (s : State) (k j : Nat) (x : Core) : (s.setCore k x).func j = s.func j := rfl
@[simp] theorem setCore_part (s : State) (k j : Nat) (x : Core) : (s.setCore k x).part j = s.part j := rfl
@[simp] theorem setCore_queue (s : State) (k j : Nat) (x : Core) : (s.setCore k x).queue j = s.queue j := rfl
@[simp] theorem setCore_range (s : State) (k j : Nat) (x : Core) : (s.setCore k x).range j = s.range j := rfl
@[simp] theorem setCore_net (s : State) (k j : Nat) (x : Core) : (s.setCore k x).net j = s.net j := rfl
@[simp] theorem setCore_vdn (s : State) (k j : Nat) (x : Core) : (s.setCore k x).vdn j = s.vdn j := rfl
@[simp] theorem setCore_die (s : State) (k j : Nat) (x : Core) : (s.setCore k x).die j = s.die j := rfl
@[simp] theorem setCore_cluster (s : State) (k j : Nat) (x : Core) : (s.setCore k x).cluster j = s.cluster j := rfl
@[simp] theorem setCore_core_self (s : State) (k : Nat) (x : Core) : (s.setCore k x).core k = x := by
  simp [core, setCore]
theorem setCore_core_ne (s : State) {k j : Nat} (x : Core) (h : j ≠ k) : (s.setCore k x).core j = s.core j := by
  simp [core, setCore, Tbl.getD_set_ne _ x _ h]

/-! ## `setTeam` -/

@[simp] theorem setTeam_agenda (s : State) (k : Nat) (x : Team) : (s.setTeam k x).agenda = s.agenda := rfl
@[simp] theorem setTeam_tick (s : State) (k : Nat) (x : Team) : (s.setTeam k x).tick = s.tick := rfl
@[simp] theorem setTeam_now (s : State) (k : Nat) (x : Team) : (s.setTeam k x).now = s.now := rfl
@[simp] theorem setTeam_cur (s : State) (k : Nat) (x : Team) : (s.setTeam k x).cur = s.cur := rfl
@[simp] theorem setTeam_curB (s : State) (k : Nat) (x : Team) : (s.setTeam k x).curB = s.curB := rfl
@[simp] theorem setTeam_focus (s : State) (k : Nat) (x : Team) : (s.setTeam k x).focus = s.focus := rfl
@[simp] theorem setTeam_mem (s : State) (k : Nat) (x : Team) : (s.setTeam k x).mem = s.mem := rfl
@[simp] theorem setTeam_cold (s : State) (k : Nat) (x : Team) : (s.setTeam k x).cold = s.cold := rfl
@[simp] theorem setTeam_l2 (s : State) (k : Nat) (x : Team) : (s.setTeam k x).l2 = s.l2 := rfl
@[simp] theorem setTeam_bdq (s : State) (k : Nat) (x : Team) : (s.setTeam k x).bdq = s.bdq := rfl
@[simp] theorem setTeam_replies (s : State) (k : Nat) (x : Team) : (s.setTeam k x).replies = s.replies := rfl
@[simp] theorem setTeam_atomPoison (s : State) (k : Nat) (x : Team) : (s.setTeam k x).atomPoison = s.atomPoison := rfl
@[simp] theorem setTeam_atomFlipped (s : State) (k : Nat) (x : Team) : (s.setTeam k x).atomFlipped = s.atomFlipped := rfl
@[simp] theorem setTeam_atomBad (s : State) (k : Nat) (x : Team) : (s.setTeam k x).atomBad = s.atomBad := rfl
@[simp] theorem setTeam_macBad (s : State) (k : Nat) (x : Team) : (s.setTeam k x).macBad = s.macBad := rfl
@[simp] theorem setTeam_confs (s : State) (k : Nat) (x : Team) : (s.setTeam k x).confs = s.confs := rfl
@[simp] theorem setTeam_treeCount (s : State) (k : Nat) (x : Team) : (s.setTeam k x).treeCount = s.treeCount := rfl
@[simp] theorem setTeam_recalls (s : State) (k : Nat) (x : Team) : (s.setTeam k x).recalls = s.recalls := rfl
@[simp] theorem setTeam_dies (s : State) (k : Nat) (x : Team) : (s.setTeam k x).dies = s.dies := rfl
@[simp] theorem setTeam_root (s : State) (k : Nat) (x : Team) : (s.setTeam k x).root = s.root := rfl
@[simp] theorem setTeam_pkg (s : State) (k : Nat) (x : Team) : (s.setTeam k x).pkg = s.pkg := rfl
@[simp] theorem setTeam_parts (s : State) (k : Nat) (x : Team) : (s.setTeam k x).parts = s.parts := rfl
@[simp] theorem setTeam_clusters (s : State) (k : Nat) (x : Team) : (s.setTeam k x).clusters = s.clusters := rfl
@[simp] theorem setTeam_ctlb (s : State) (k : Nat) (x : Team) : (s.setTeam k x).ctlb = s.ctlb := rfl
@[simp] theorem setTeam_walkers (s : State) (k : Nat) (x : Team) : (s.setTeam k x).walkers = s.walkers := rfl
@[simp] theorem setTeam_ranges (s : State) (k : Nat) (x : Team) : (s.setTeam k x).ranges = s.ranges := rfl
@[simp] theorem setTeam_keys (s : State) (k : Nat) (x : Team) : (s.setTeam k x).keys = s.keys := rfl
@[simp] theorem setTeam_spaces (s : State) (k : Nat) (x : Team) : (s.setTeam k x).spaces = s.spaces := rfl
@[simp] theorem setTeam_vmids (s : State) (k : Nat) (x : Team) : (s.setTeam k x).vmids = s.vmids := rfl
@[simp] theorem setTeam_vdns (s : State) (k : Nat) (x : Team) : (s.setTeam k x).vdns = s.vdns := rfl
@[simp] theorem setTeam_nets (s : State) (k : Nat) (x : Team) : (s.setTeam k x).nets = s.nets := rfl
@[simp] theorem setTeam_funcs (s : State) (k : Nat) (x : Team) : (s.setTeam k x).funcs = s.funcs := rfl
@[simp] theorem setTeam_queues (s : State) (k : Nat) (x : Team) : (s.setTeam k x).queues = s.queues := rfl
@[simp] theorem setTeam_launches (s : State) (k : Nat) (x : Team) : (s.setTeam k x).launches = s.launches := rfl
@[simp] theorem setTeam_groups (s : State) (k : Nat) (x : Team) : (s.setTeam k x).groups = s.groups := rfl
@[simp] theorem setTeam_cores (s : State) (k : Nat) (x : Team) : (s.setTeam k x).cores = s.cores := rfl
@[simp] theorem setTeam_saved (s : State) (k : Nat) (x : Team) : (s.setTeam k x).saved = s.saved := rfl
@[simp] theorem setTeam_savedCopies (s : State) (k : Nat) (x : Team) : (s.setTeam k x).savedCopies = s.savedCopies := rfl
@[simp] theorem setTeam_savedQueues (s : State) (k : Nat) (x : Team) : (s.setTeam k x).savedQueues = s.savedQueues := rfl
@[simp] theorem setTeam_lockq (s : State) (k : Nat) (x : Team) : (s.setTeam k x).lockq = s.lockq := rfl
@[simp] theorem setTeam_held (s : State) (k : Nat) (x : Team) : (s.setTeam k x).held = s.held := rfl
@[simp] theorem setTeam_out (s : State) (k : Nat) (x : Team) : (s.setTeam k x).out = s.out := rfl
@[simp] theorem setTeam_serial (s : State) (k : Nat) (x : Team) : (s.setTeam k x).serial = s.serial := rfl
@[simp] theorem setTeam_teams (s : State) (k : Nat) (x : Team) : (s.setTeam k x).teams = s.teams.set k x := rfl
@[simp] theorem setTeam_core (s : State) (k j : Nat) (x : Team) : (s.setTeam k x).core j = s.core j := rfl
@[simp] theorem setTeam_launch (s : State) (k j : Nat) (x : Team) : (s.setTeam k x).launch j = s.launch j := rfl
@[simp] theorem setTeam_group (s : State) (k j : Nat) (x : Team) : (s.setTeam k x).group j = s.group j := rfl
@[simp] theorem setTeam_func (s : State) (k j : Nat) (x : Team) : (s.setTeam k x).func j = s.func j := rfl
@[simp] theorem setTeam_part (s : State) (k j : Nat) (x : Team) : (s.setTeam k x).part j = s.part j := rfl
@[simp] theorem setTeam_queue (s : State) (k j : Nat) (x : Team) : (s.setTeam k x).queue j = s.queue j := rfl
@[simp] theorem setTeam_range (s : State) (k j : Nat) (x : Team) : (s.setTeam k x).range j = s.range j := rfl
@[simp] theorem setTeam_net (s : State) (k j : Nat) (x : Team) : (s.setTeam k x).net j = s.net j := rfl
@[simp] theorem setTeam_vdn (s : State) (k j : Nat) (x : Team) : (s.setTeam k x).vdn j = s.vdn j := rfl
@[simp] theorem setTeam_die (s : State) (k j : Nat) (x : Team) : (s.setTeam k x).die j = s.die j := rfl
@[simp] theorem setTeam_cluster (s : State) (k j : Nat) (x : Team) : (s.setTeam k x).cluster j = s.cluster j := rfl
@[simp] theorem setTeam_team_self (s : State) (k : Nat) (x : Team) : (s.setTeam k x).team k = x := by
  simp [team, setTeam]
theorem setTeam_team_ne (s : State) {k j : Nat} (x : Team) (h : j ≠ k) : (s.setTeam k x).team j = s.team j := by
  simp [team, setTeam, Tbl.getD_set_ne _ x _ h]

/-! ## `setLaunch` -/

@[simp] theorem setLaunch_agenda (s : State) (k : Nat) (x : Launch) : (s.setLaunch k x).agenda = s.agenda := rfl
@[simp] theorem setLaunch_tick (s : State) (k : Nat) (x : Launch) : (s.setLaunch k x).tick = s.tick := rfl
@[simp] theorem setLaunch_now (s : State) (k : Nat) (x : Launch) : (s.setLaunch k x).now = s.now := rfl
@[simp] theorem setLaunch_cur (s : State) (k : Nat) (x : Launch) : (s.setLaunch k x).cur = s.cur := rfl
@[simp] theorem setLaunch_curB (s : State) (k : Nat) (x : Launch) : (s.setLaunch k x).curB = s.curB := rfl
@[simp] theorem setLaunch_focus (s : State) (k : Nat) (x : Launch) : (s.setLaunch k x).focus = s.focus := rfl
@[simp] theorem setLaunch_mem (s : State) (k : Nat) (x : Launch) : (s.setLaunch k x).mem = s.mem := rfl
@[simp] theorem setLaunch_cold (s : State) (k : Nat) (x : Launch) : (s.setLaunch k x).cold = s.cold := rfl
@[simp] theorem setLaunch_l2 (s : State) (k : Nat) (x : Launch) : (s.setLaunch k x).l2 = s.l2 := rfl
@[simp] theorem setLaunch_bdq (s : State) (k : Nat) (x : Launch) : (s.setLaunch k x).bdq = s.bdq := rfl
@[simp] theorem setLaunch_replies (s : State) (k : Nat) (x : Launch) : (s.setLaunch k x).replies = s.replies := rfl
@[simp] theorem setLaunch_atomPoison (s : State) (k : Nat) (x : Launch) : (s.setLaunch k x).atomPoison = s.atomPoison := rfl
@[simp] theorem setLaunch_atomFlipped (s : State) (k : Nat) (x : Launch) : (s.setLaunch k x).atomFlipped = s.atomFlipped := rfl
@[simp] theorem setLaunch_atomBad (s : State) (k : Nat) (x : Launch) : (s.setLaunch k x).atomBad = s.atomBad := rfl
@[simp] theorem setLaunch_macBad (s : State) (k : Nat) (x : Launch) : (s.setLaunch k x).macBad = s.macBad := rfl
@[simp] theorem setLaunch_confs (s : State) (k : Nat) (x : Launch) : (s.setLaunch k x).confs = s.confs := rfl
@[simp] theorem setLaunch_treeCount (s : State) (k : Nat) (x : Launch) : (s.setLaunch k x).treeCount = s.treeCount := rfl
@[simp] theorem setLaunch_recalls (s : State) (k : Nat) (x : Launch) : (s.setLaunch k x).recalls = s.recalls := rfl
@[simp] theorem setLaunch_dies (s : State) (k : Nat) (x : Launch) : (s.setLaunch k x).dies = s.dies := rfl
@[simp] theorem setLaunch_root (s : State) (k : Nat) (x : Launch) : (s.setLaunch k x).root = s.root := rfl
@[simp] theorem setLaunch_pkg (s : State) (k : Nat) (x : Launch) : (s.setLaunch k x).pkg = s.pkg := rfl
@[simp] theorem setLaunch_parts (s : State) (k : Nat) (x : Launch) : (s.setLaunch k x).parts = s.parts := rfl
@[simp] theorem setLaunch_clusters (s : State) (k : Nat) (x : Launch) : (s.setLaunch k x).clusters = s.clusters := rfl
@[simp] theorem setLaunch_ctlb (s : State) (k : Nat) (x : Launch) : (s.setLaunch k x).ctlb = s.ctlb := rfl
@[simp] theorem setLaunch_walkers (s : State) (k : Nat) (x : Launch) : (s.setLaunch k x).walkers = s.walkers := rfl
@[simp] theorem setLaunch_ranges (s : State) (k : Nat) (x : Launch) : (s.setLaunch k x).ranges = s.ranges := rfl
@[simp] theorem setLaunch_keys (s : State) (k : Nat) (x : Launch) : (s.setLaunch k x).keys = s.keys := rfl
@[simp] theorem setLaunch_spaces (s : State) (k : Nat) (x : Launch) : (s.setLaunch k x).spaces = s.spaces := rfl
@[simp] theorem setLaunch_vmids (s : State) (k : Nat) (x : Launch) : (s.setLaunch k x).vmids = s.vmids := rfl
@[simp] theorem setLaunch_vdns (s : State) (k : Nat) (x : Launch) : (s.setLaunch k x).vdns = s.vdns := rfl
@[simp] theorem setLaunch_nets (s : State) (k : Nat) (x : Launch) : (s.setLaunch k x).nets = s.nets := rfl
@[simp] theorem setLaunch_funcs (s : State) (k : Nat) (x : Launch) : (s.setLaunch k x).funcs = s.funcs := rfl
@[simp] theorem setLaunch_queues (s : State) (k : Nat) (x : Launch) : (s.setLaunch k x).queues = s.queues := rfl
@[simp] theorem setLaunch_teams (s : State) (k : Nat) (x : Launch) : (s.setLaunch k x).teams = s.teams := rfl
@[simp] theorem setLaunch_groups (s : State) (k : Nat) (x : Launch) : (s.setLaunch k x).groups = s.groups := rfl
@[simp] theorem setLaunch_cores (s : State) (k : Nat) (x : Launch) : (s.setLaunch k x).cores = s.cores := rfl
@[simp] theorem setLaunch_saved (s : State) (k : Nat) (x : Launch) : (s.setLaunch k x).saved = s.saved := rfl
@[simp] theorem setLaunch_savedCopies (s : State) (k : Nat) (x : Launch) : (s.setLaunch k x).savedCopies = s.savedCopies := rfl
@[simp] theorem setLaunch_savedQueues (s : State) (k : Nat) (x : Launch) : (s.setLaunch k x).savedQueues = s.savedQueues := rfl
@[simp] theorem setLaunch_lockq (s : State) (k : Nat) (x : Launch) : (s.setLaunch k x).lockq = s.lockq := rfl
@[simp] theorem setLaunch_held (s : State) (k : Nat) (x : Launch) : (s.setLaunch k x).held = s.held := rfl
@[simp] theorem setLaunch_out (s : State) (k : Nat) (x : Launch) : (s.setLaunch k x).out = s.out := rfl
@[simp] theorem setLaunch_serial (s : State) (k : Nat) (x : Launch) : (s.setLaunch k x).serial = s.serial := rfl
@[simp] theorem setLaunch_launches (s : State) (k : Nat) (x : Launch) : (s.setLaunch k x).launches = s.launches.set k x := rfl
@[simp] theorem setLaunch_core (s : State) (k j : Nat) (x : Launch) : (s.setLaunch k x).core j = s.core j := rfl
@[simp] theorem setLaunch_team (s : State) (k j : Nat) (x : Launch) : (s.setLaunch k x).team j = s.team j := rfl
@[simp] theorem setLaunch_group (s : State) (k j : Nat) (x : Launch) : (s.setLaunch k x).group j = s.group j := rfl
@[simp] theorem setLaunch_func (s : State) (k j : Nat) (x : Launch) : (s.setLaunch k x).func j = s.func j := rfl
@[simp] theorem setLaunch_part (s : State) (k j : Nat) (x : Launch) : (s.setLaunch k x).part j = s.part j := rfl
@[simp] theorem setLaunch_queue (s : State) (k j : Nat) (x : Launch) : (s.setLaunch k x).queue j = s.queue j := rfl
@[simp] theorem setLaunch_range (s : State) (k j : Nat) (x : Launch) : (s.setLaunch k x).range j = s.range j := rfl
@[simp] theorem setLaunch_net (s : State) (k j : Nat) (x : Launch) : (s.setLaunch k x).net j = s.net j := rfl
@[simp] theorem setLaunch_vdn (s : State) (k j : Nat) (x : Launch) : (s.setLaunch k x).vdn j = s.vdn j := rfl
@[simp] theorem setLaunch_die (s : State) (k j : Nat) (x : Launch) : (s.setLaunch k x).die j = s.die j := rfl
@[simp] theorem setLaunch_cluster (s : State) (k j : Nat) (x : Launch) : (s.setLaunch k x).cluster j = s.cluster j := rfl
@[simp] theorem setLaunch_launch_self (s : State) (k : Nat) (x : Launch) : (s.setLaunch k x).launch k = x := by
  simp [launch, setLaunch]
theorem setLaunch_launch_ne (s : State) {k j : Nat} (x : Launch) (h : j ≠ k) : (s.setLaunch k x).launch j = s.launch j := by
  simp [launch, setLaunch, Tbl.getD_set_ne _ x _ h]

/-! ## `setGroup` -/

@[simp] theorem setGroup_agenda (s : State) (k : Nat) (x : Group) : (s.setGroup k x).agenda = s.agenda := rfl
@[simp] theorem setGroup_tick (s : State) (k : Nat) (x : Group) : (s.setGroup k x).tick = s.tick := rfl
@[simp] theorem setGroup_now (s : State) (k : Nat) (x : Group) : (s.setGroup k x).now = s.now := rfl
@[simp] theorem setGroup_cur (s : State) (k : Nat) (x : Group) : (s.setGroup k x).cur = s.cur := rfl
@[simp] theorem setGroup_curB (s : State) (k : Nat) (x : Group) : (s.setGroup k x).curB = s.curB := rfl
@[simp] theorem setGroup_focus (s : State) (k : Nat) (x : Group) : (s.setGroup k x).focus = s.focus := rfl
@[simp] theorem setGroup_mem (s : State) (k : Nat) (x : Group) : (s.setGroup k x).mem = s.mem := rfl
@[simp] theorem setGroup_cold (s : State) (k : Nat) (x : Group) : (s.setGroup k x).cold = s.cold := rfl
@[simp] theorem setGroup_l2 (s : State) (k : Nat) (x : Group) : (s.setGroup k x).l2 = s.l2 := rfl
@[simp] theorem setGroup_bdq (s : State) (k : Nat) (x : Group) : (s.setGroup k x).bdq = s.bdq := rfl
@[simp] theorem setGroup_replies (s : State) (k : Nat) (x : Group) : (s.setGroup k x).replies = s.replies := rfl
@[simp] theorem setGroup_atomPoison (s : State) (k : Nat) (x : Group) : (s.setGroup k x).atomPoison = s.atomPoison := rfl
@[simp] theorem setGroup_atomFlipped (s : State) (k : Nat) (x : Group) : (s.setGroup k x).atomFlipped = s.atomFlipped := rfl
@[simp] theorem setGroup_atomBad (s : State) (k : Nat) (x : Group) : (s.setGroup k x).atomBad = s.atomBad := rfl
@[simp] theorem setGroup_macBad (s : State) (k : Nat) (x : Group) : (s.setGroup k x).macBad = s.macBad := rfl
@[simp] theorem setGroup_confs (s : State) (k : Nat) (x : Group) : (s.setGroup k x).confs = s.confs := rfl
@[simp] theorem setGroup_treeCount (s : State) (k : Nat) (x : Group) : (s.setGroup k x).treeCount = s.treeCount := rfl
@[simp] theorem setGroup_recalls (s : State) (k : Nat) (x : Group) : (s.setGroup k x).recalls = s.recalls := rfl
@[simp] theorem setGroup_dies (s : State) (k : Nat) (x : Group) : (s.setGroup k x).dies = s.dies := rfl
@[simp] theorem setGroup_root (s : State) (k : Nat) (x : Group) : (s.setGroup k x).root = s.root := rfl
@[simp] theorem setGroup_pkg (s : State) (k : Nat) (x : Group) : (s.setGroup k x).pkg = s.pkg := rfl
@[simp] theorem setGroup_parts (s : State) (k : Nat) (x : Group) : (s.setGroup k x).parts = s.parts := rfl
@[simp] theorem setGroup_clusters (s : State) (k : Nat) (x : Group) : (s.setGroup k x).clusters = s.clusters := rfl
@[simp] theorem setGroup_ctlb (s : State) (k : Nat) (x : Group) : (s.setGroup k x).ctlb = s.ctlb := rfl
@[simp] theorem setGroup_walkers (s : State) (k : Nat) (x : Group) : (s.setGroup k x).walkers = s.walkers := rfl
@[simp] theorem setGroup_ranges (s : State) (k : Nat) (x : Group) : (s.setGroup k x).ranges = s.ranges := rfl
@[simp] theorem setGroup_keys (s : State) (k : Nat) (x : Group) : (s.setGroup k x).keys = s.keys := rfl
@[simp] theorem setGroup_spaces (s : State) (k : Nat) (x : Group) : (s.setGroup k x).spaces = s.spaces := rfl
@[simp] theorem setGroup_vmids (s : State) (k : Nat) (x : Group) : (s.setGroup k x).vmids = s.vmids := rfl
@[simp] theorem setGroup_vdns (s : State) (k : Nat) (x : Group) : (s.setGroup k x).vdns = s.vdns := rfl
@[simp] theorem setGroup_nets (s : State) (k : Nat) (x : Group) : (s.setGroup k x).nets = s.nets := rfl
@[simp] theorem setGroup_funcs (s : State) (k : Nat) (x : Group) : (s.setGroup k x).funcs = s.funcs := rfl
@[simp] theorem setGroup_queues (s : State) (k : Nat) (x : Group) : (s.setGroup k x).queues = s.queues := rfl
@[simp] theorem setGroup_launches (s : State) (k : Nat) (x : Group) : (s.setGroup k x).launches = s.launches := rfl
@[simp] theorem setGroup_teams (s : State) (k : Nat) (x : Group) : (s.setGroup k x).teams = s.teams := rfl
@[simp] theorem setGroup_cores (s : State) (k : Nat) (x : Group) : (s.setGroup k x).cores = s.cores := rfl
@[simp] theorem setGroup_saved (s : State) (k : Nat) (x : Group) : (s.setGroup k x).saved = s.saved := rfl
@[simp] theorem setGroup_savedCopies (s : State) (k : Nat) (x : Group) : (s.setGroup k x).savedCopies = s.savedCopies := rfl
@[simp] theorem setGroup_savedQueues (s : State) (k : Nat) (x : Group) : (s.setGroup k x).savedQueues = s.savedQueues := rfl
@[simp] theorem setGroup_lockq (s : State) (k : Nat) (x : Group) : (s.setGroup k x).lockq = s.lockq := rfl
@[simp] theorem setGroup_held (s : State) (k : Nat) (x : Group) : (s.setGroup k x).held = s.held := rfl
@[simp] theorem setGroup_out (s : State) (k : Nat) (x : Group) : (s.setGroup k x).out = s.out := rfl
@[simp] theorem setGroup_serial (s : State) (k : Nat) (x : Group) : (s.setGroup k x).serial = s.serial := rfl
@[simp] theorem setGroup_groups (s : State) (k : Nat) (x : Group) : (s.setGroup k x).groups = s.groups.set k x := rfl
@[simp] theorem setGroup_core (s : State) (k j : Nat) (x : Group) : (s.setGroup k x).core j = s.core j := rfl
@[simp] theorem setGroup_team (s : State) (k j : Nat) (x : Group) : (s.setGroup k x).team j = s.team j := rfl
@[simp] theorem setGroup_launch (s : State) (k j : Nat) (x : Group) : (s.setGroup k x).launch j = s.launch j := rfl
@[simp] theorem setGroup_func (s : State) (k j : Nat) (x : Group) : (s.setGroup k x).func j = s.func j := rfl
@[simp] theorem setGroup_part (s : State) (k j : Nat) (x : Group) : (s.setGroup k x).part j = s.part j := rfl
@[simp] theorem setGroup_queue (s : State) (k j : Nat) (x : Group) : (s.setGroup k x).queue j = s.queue j := rfl
@[simp] theorem setGroup_range (s : State) (k j : Nat) (x : Group) : (s.setGroup k x).range j = s.range j := rfl
@[simp] theorem setGroup_net (s : State) (k j : Nat) (x : Group) : (s.setGroup k x).net j = s.net j := rfl
@[simp] theorem setGroup_vdn (s : State) (k j : Nat) (x : Group) : (s.setGroup k x).vdn j = s.vdn j := rfl
@[simp] theorem setGroup_die (s : State) (k j : Nat) (x : Group) : (s.setGroup k x).die j = s.die j := rfl
@[simp] theorem setGroup_cluster (s : State) (k j : Nat) (x : Group) : (s.setGroup k x).cluster j = s.cluster j := rfl
@[simp] theorem setGroup_group_self (s : State) (k : Nat) (x : Group) : (s.setGroup k x).group k = x := by
  simp [group, setGroup]
theorem setGroup_group_ne (s : State) {k j : Nat} (x : Group) (h : j ≠ k) : (s.setGroup k x).group j = s.group j := by
  simp [group, setGroup, Tbl.getD_set_ne _ x _ h]

/-! ## `setFunc` -/

@[simp] theorem setFunc_agenda (s : State) (k : Nat) (x : Func) : (s.setFunc k x).agenda = s.agenda := rfl
@[simp] theorem setFunc_tick (s : State) (k : Nat) (x : Func) : (s.setFunc k x).tick = s.tick := rfl
@[simp] theorem setFunc_now (s : State) (k : Nat) (x : Func) : (s.setFunc k x).now = s.now := rfl
@[simp] theorem setFunc_cur (s : State) (k : Nat) (x : Func) : (s.setFunc k x).cur = s.cur := rfl
@[simp] theorem setFunc_curB (s : State) (k : Nat) (x : Func) : (s.setFunc k x).curB = s.curB := rfl
@[simp] theorem setFunc_focus (s : State) (k : Nat) (x : Func) : (s.setFunc k x).focus = s.focus := rfl
@[simp] theorem setFunc_mem (s : State) (k : Nat) (x : Func) : (s.setFunc k x).mem = s.mem := rfl
@[simp] theorem setFunc_cold (s : State) (k : Nat) (x : Func) : (s.setFunc k x).cold = s.cold := rfl
@[simp] theorem setFunc_l2 (s : State) (k : Nat) (x : Func) : (s.setFunc k x).l2 = s.l2 := rfl
@[simp] theorem setFunc_bdq (s : State) (k : Nat) (x : Func) : (s.setFunc k x).bdq = s.bdq := rfl
@[simp] theorem setFunc_replies (s : State) (k : Nat) (x : Func) : (s.setFunc k x).replies = s.replies := rfl
@[simp] theorem setFunc_atomPoison (s : State) (k : Nat) (x : Func) : (s.setFunc k x).atomPoison = s.atomPoison := rfl
@[simp] theorem setFunc_atomFlipped (s : State) (k : Nat) (x : Func) : (s.setFunc k x).atomFlipped = s.atomFlipped := rfl
@[simp] theorem setFunc_atomBad (s : State) (k : Nat) (x : Func) : (s.setFunc k x).atomBad = s.atomBad := rfl
@[simp] theorem setFunc_macBad (s : State) (k : Nat) (x : Func) : (s.setFunc k x).macBad = s.macBad := rfl
@[simp] theorem setFunc_confs (s : State) (k : Nat) (x : Func) : (s.setFunc k x).confs = s.confs := rfl
@[simp] theorem setFunc_treeCount (s : State) (k : Nat) (x : Func) : (s.setFunc k x).treeCount = s.treeCount := rfl
@[simp] theorem setFunc_recalls (s : State) (k : Nat) (x : Func) : (s.setFunc k x).recalls = s.recalls := rfl
@[simp] theorem setFunc_dies (s : State) (k : Nat) (x : Func) : (s.setFunc k x).dies = s.dies := rfl
@[simp] theorem setFunc_root (s : State) (k : Nat) (x : Func) : (s.setFunc k x).root = s.root := rfl
@[simp] theorem setFunc_pkg (s : State) (k : Nat) (x : Func) : (s.setFunc k x).pkg = s.pkg := rfl
@[simp] theorem setFunc_parts (s : State) (k : Nat) (x : Func) : (s.setFunc k x).parts = s.parts := rfl
@[simp] theorem setFunc_clusters (s : State) (k : Nat) (x : Func) : (s.setFunc k x).clusters = s.clusters := rfl
@[simp] theorem setFunc_ctlb (s : State) (k : Nat) (x : Func) : (s.setFunc k x).ctlb = s.ctlb := rfl
@[simp] theorem setFunc_walkers (s : State) (k : Nat) (x : Func) : (s.setFunc k x).walkers = s.walkers := rfl
@[simp] theorem setFunc_ranges (s : State) (k : Nat) (x : Func) : (s.setFunc k x).ranges = s.ranges := rfl
@[simp] theorem setFunc_keys (s : State) (k : Nat) (x : Func) : (s.setFunc k x).keys = s.keys := rfl
@[simp] theorem setFunc_spaces (s : State) (k : Nat) (x : Func) : (s.setFunc k x).spaces = s.spaces := rfl
@[simp] theorem setFunc_vmids (s : State) (k : Nat) (x : Func) : (s.setFunc k x).vmids = s.vmids := rfl
@[simp] theorem setFunc_vdns (s : State) (k : Nat) (x : Func) : (s.setFunc k x).vdns = s.vdns := rfl
@[simp] theorem setFunc_nets (s : State) (k : Nat) (x : Func) : (s.setFunc k x).nets = s.nets := rfl
@[simp] theorem setFunc_queues (s : State) (k : Nat) (x : Func) : (s.setFunc k x).queues = s.queues := rfl
@[simp] theorem setFunc_launches (s : State) (k : Nat) (x : Func) : (s.setFunc k x).launches = s.launches := rfl
@[simp] theorem setFunc_teams (s : State) (k : Nat) (x : Func) : (s.setFunc k x).teams = s.teams := rfl
@[simp] theorem setFunc_groups (s : State) (k : Nat) (x : Func) : (s.setFunc k x).groups = s.groups := rfl
@[simp] theorem setFunc_cores (s : State) (k : Nat) (x : Func) : (s.setFunc k x).cores = s.cores := rfl
@[simp] theorem setFunc_saved (s : State) (k : Nat) (x : Func) : (s.setFunc k x).saved = s.saved := rfl
@[simp] theorem setFunc_savedCopies (s : State) (k : Nat) (x : Func) : (s.setFunc k x).savedCopies = s.savedCopies := rfl
@[simp] theorem setFunc_savedQueues (s : State) (k : Nat) (x : Func) : (s.setFunc k x).savedQueues = s.savedQueues := rfl
@[simp] theorem setFunc_lockq (s : State) (k : Nat) (x : Func) : (s.setFunc k x).lockq = s.lockq := rfl
@[simp] theorem setFunc_held (s : State) (k : Nat) (x : Func) : (s.setFunc k x).held = s.held := rfl
@[simp] theorem setFunc_out (s : State) (k : Nat) (x : Func) : (s.setFunc k x).out = s.out := rfl
@[simp] theorem setFunc_serial (s : State) (k : Nat) (x : Func) : (s.setFunc k x).serial = s.serial := rfl
@[simp] theorem setFunc_funcs (s : State) (k : Nat) (x : Func) : (s.setFunc k x).funcs = s.funcs.set k x := rfl
@[simp] theorem setFunc_core (s : State) (k j : Nat) (x : Func) : (s.setFunc k x).core j = s.core j := rfl
@[simp] theorem setFunc_team (s : State) (k j : Nat) (x : Func) : (s.setFunc k x).team j = s.team j := rfl
@[simp] theorem setFunc_launch (s : State) (k j : Nat) (x : Func) : (s.setFunc k x).launch j = s.launch j := rfl
@[simp] theorem setFunc_group (s : State) (k j : Nat) (x : Func) : (s.setFunc k x).group j = s.group j := rfl
@[simp] theorem setFunc_part (s : State) (k j : Nat) (x : Func) : (s.setFunc k x).part j = s.part j := rfl
@[simp] theorem setFunc_queue (s : State) (k j : Nat) (x : Func) : (s.setFunc k x).queue j = s.queue j := rfl
@[simp] theorem setFunc_range (s : State) (k j : Nat) (x : Func) : (s.setFunc k x).range j = s.range j := rfl
@[simp] theorem setFunc_net (s : State) (k j : Nat) (x : Func) : (s.setFunc k x).net j = s.net j := rfl
@[simp] theorem setFunc_vdn (s : State) (k j : Nat) (x : Func) : (s.setFunc k x).vdn j = s.vdn j := rfl
@[simp] theorem setFunc_die (s : State) (k j : Nat) (x : Func) : (s.setFunc k x).die j = s.die j := rfl
@[simp] theorem setFunc_cluster (s : State) (k j : Nat) (x : Func) : (s.setFunc k x).cluster j = s.cluster j := rfl
@[simp] theorem setFunc_func_self (s : State) (k : Nat) (x : Func) : (s.setFunc k x).func k = x := by
  simp [func, setFunc]
theorem setFunc_func_ne (s : State) {k j : Nat} (x : Func) (h : j ≠ k) : (s.setFunc k x).func j = s.func j := by
  simp [func, setFunc, Tbl.getD_set_ne _ x _ h]

/-! ## `setPart` -/

@[simp] theorem setPart_agenda (s : State) (k : Nat) (x : Part) : (s.setPart k x).agenda = s.agenda := rfl
@[simp] theorem setPart_tick (s : State) (k : Nat) (x : Part) : (s.setPart k x).tick = s.tick := rfl
@[simp] theorem setPart_now (s : State) (k : Nat) (x : Part) : (s.setPart k x).now = s.now := rfl
@[simp] theorem setPart_cur (s : State) (k : Nat) (x : Part) : (s.setPart k x).cur = s.cur := rfl
@[simp] theorem setPart_curB (s : State) (k : Nat) (x : Part) : (s.setPart k x).curB = s.curB := rfl
@[simp] theorem setPart_focus (s : State) (k : Nat) (x : Part) : (s.setPart k x).focus = s.focus := rfl
@[simp] theorem setPart_mem (s : State) (k : Nat) (x : Part) : (s.setPart k x).mem = s.mem := rfl
@[simp] theorem setPart_cold (s : State) (k : Nat) (x : Part) : (s.setPart k x).cold = s.cold := rfl
@[simp] theorem setPart_l2 (s : State) (k : Nat) (x : Part) : (s.setPart k x).l2 = s.l2 := rfl
@[simp] theorem setPart_bdq (s : State) (k : Nat) (x : Part) : (s.setPart k x).bdq = s.bdq := rfl
@[simp] theorem setPart_replies (s : State) (k : Nat) (x : Part) : (s.setPart k x).replies = s.replies := rfl
@[simp] theorem setPart_atomPoison (s : State) (k : Nat) (x : Part) : (s.setPart k x).atomPoison = s.atomPoison := rfl
@[simp] theorem setPart_atomFlipped (s : State) (k : Nat) (x : Part) : (s.setPart k x).atomFlipped = s.atomFlipped := rfl
@[simp] theorem setPart_atomBad (s : State) (k : Nat) (x : Part) : (s.setPart k x).atomBad = s.atomBad := rfl
@[simp] theorem setPart_macBad (s : State) (k : Nat) (x : Part) : (s.setPart k x).macBad = s.macBad := rfl
@[simp] theorem setPart_confs (s : State) (k : Nat) (x : Part) : (s.setPart k x).confs = s.confs := rfl
@[simp] theorem setPart_treeCount (s : State) (k : Nat) (x : Part) : (s.setPart k x).treeCount = s.treeCount := rfl
@[simp] theorem setPart_recalls (s : State) (k : Nat) (x : Part) : (s.setPart k x).recalls = s.recalls := rfl
@[simp] theorem setPart_dies (s : State) (k : Nat) (x : Part) : (s.setPart k x).dies = s.dies := rfl
@[simp] theorem setPart_root (s : State) (k : Nat) (x : Part) : (s.setPart k x).root = s.root := rfl
@[simp] theorem setPart_pkg (s : State) (k : Nat) (x : Part) : (s.setPart k x).pkg = s.pkg := rfl
@[simp] theorem setPart_clusters (s : State) (k : Nat) (x : Part) : (s.setPart k x).clusters = s.clusters := rfl
@[simp] theorem setPart_ctlb (s : State) (k : Nat) (x : Part) : (s.setPart k x).ctlb = s.ctlb := rfl
@[simp] theorem setPart_walkers (s : State) (k : Nat) (x : Part) : (s.setPart k x).walkers = s.walkers := rfl
@[simp] theorem setPart_ranges (s : State) (k : Nat) (x : Part) : (s.setPart k x).ranges = s.ranges := rfl
@[simp] theorem setPart_keys (s : State) (k : Nat) (x : Part) : (s.setPart k x).keys = s.keys := rfl
@[simp] theorem setPart_spaces (s : State) (k : Nat) (x : Part) : (s.setPart k x).spaces = s.spaces := rfl
@[simp] theorem setPart_vmids (s : State) (k : Nat) (x : Part) : (s.setPart k x).vmids = s.vmids := rfl
@[simp] theorem setPart_vdns (s : State) (k : Nat) (x : Part) : (s.setPart k x).vdns = s.vdns := rfl
@[simp] theorem setPart_nets (s : State) (k : Nat) (x : Part) : (s.setPart k x).nets = s.nets := rfl
@[simp] theorem setPart_funcs (s : State) (k : Nat) (x : Part) : (s.setPart k x).funcs = s.funcs := rfl
@[simp] theorem setPart_queues (s : State) (k : Nat) (x : Part) : (s.setPart k x).queues = s.queues := rfl
@[simp] theorem setPart_launches (s : State) (k : Nat) (x : Part) : (s.setPart k x).launches = s.launches := rfl
@[simp] theorem setPart_teams (s : State) (k : Nat) (x : Part) : (s.setPart k x).teams = s.teams := rfl
@[simp] theorem setPart_groups (s : State) (k : Nat) (x : Part) : (s.setPart k x).groups = s.groups := rfl
@[simp] theorem setPart_cores (s : State) (k : Nat) (x : Part) : (s.setPart k x).cores = s.cores := rfl
@[simp] theorem setPart_saved (s : State) (k : Nat) (x : Part) : (s.setPart k x).saved = s.saved := rfl
@[simp] theorem setPart_savedCopies (s : State) (k : Nat) (x : Part) : (s.setPart k x).savedCopies = s.savedCopies := rfl
@[simp] theorem setPart_savedQueues (s : State) (k : Nat) (x : Part) : (s.setPart k x).savedQueues = s.savedQueues := rfl
@[simp] theorem setPart_lockq (s : State) (k : Nat) (x : Part) : (s.setPart k x).lockq = s.lockq := rfl
@[simp] theorem setPart_held (s : State) (k : Nat) (x : Part) : (s.setPart k x).held = s.held := rfl
@[simp] theorem setPart_out (s : State) (k : Nat) (x : Part) : (s.setPart k x).out = s.out := rfl
@[simp] theorem setPart_serial (s : State) (k : Nat) (x : Part) : (s.setPart k x).serial = s.serial := rfl
@[simp] theorem setPart_parts (s : State) (k : Nat) (x : Part) : (s.setPart k x).parts = s.parts.set k x := rfl
@[simp] theorem setPart_core (s : State) (k j : Nat) (x : Part) : (s.setPart k x).core j = s.core j := rfl
@[simp] theorem setPart_team (s : State) (k j : Nat) (x : Part) : (s.setPart k x).team j = s.team j := rfl
@[simp] theorem setPart_launch (s : State) (k j : Nat) (x : Part) : (s.setPart k x).launch j = s.launch j := rfl
@[simp] theorem setPart_group (s : State) (k j : Nat) (x : Part) : (s.setPart k x).group j = s.group j := rfl
@[simp] theorem setPart_func (s : State) (k j : Nat) (x : Part) : (s.setPart k x).func j = s.func j := rfl
@[simp] theorem setPart_queue (s : State) (k j : Nat) (x : Part) : (s.setPart k x).queue j = s.queue j := rfl
@[simp] theorem setPart_range (s : State) (k j : Nat) (x : Part) : (s.setPart k x).range j = s.range j := rfl
@[simp] theorem setPart_net (s : State) (k j : Nat) (x : Part) : (s.setPart k x).net j = s.net j := rfl
@[simp] theorem setPart_vdn (s : State) (k j : Nat) (x : Part) : (s.setPart k x).vdn j = s.vdn j := rfl
@[simp] theorem setPart_die (s : State) (k j : Nat) (x : Part) : (s.setPart k x).die j = s.die j := rfl
@[simp] theorem setPart_cluster (s : State) (k j : Nat) (x : Part) : (s.setPart k x).cluster j = s.cluster j := rfl
@[simp] theorem setPart_part_self (s : State) (k : Nat) (x : Part) : (s.setPart k x).part k = x := by
  simp [part, setPart]
theorem setPart_part_ne (s : State) {k j : Nat} (x : Part) (h : j ≠ k) : (s.setPart k x).part j = s.part j := by
  simp [part, setPart, Tbl.getD_set_ne _ x _ h]

/-! ## `setQueue` -/

@[simp] theorem setQueue_agenda (s : State) (k : Nat) (x : Queue) : (s.setQueue k x).agenda = s.agenda := rfl
@[simp] theorem setQueue_tick (s : State) (k : Nat) (x : Queue) : (s.setQueue k x).tick = s.tick := rfl
@[simp] theorem setQueue_now (s : State) (k : Nat) (x : Queue) : (s.setQueue k x).now = s.now := rfl
@[simp] theorem setQueue_cur (s : State) (k : Nat) (x : Queue) : (s.setQueue k x).cur = s.cur := rfl
@[simp] theorem setQueue_curB (s : State) (k : Nat) (x : Queue) : (s.setQueue k x).curB = s.curB := rfl
@[simp] theorem setQueue_focus (s : State) (k : Nat) (x : Queue) : (s.setQueue k x).focus = s.focus := rfl
@[simp] theorem setQueue_mem (s : State) (k : Nat) (x : Queue) : (s.setQueue k x).mem = s.mem := rfl
@[simp] theorem setQueue_cold (s : State) (k : Nat) (x : Queue) : (s.setQueue k x).cold = s.cold := rfl
@[simp] theorem setQueue_l2 (s : State) (k : Nat) (x : Queue) : (s.setQueue k x).l2 = s.l2 := rfl
@[simp] theorem setQueue_bdq (s : State) (k : Nat) (x : Queue) : (s.setQueue k x).bdq = s.bdq := rfl
@[simp] theorem setQueue_replies (s : State) (k : Nat) (x : Queue) : (s.setQueue k x).replies = s.replies := rfl
@[simp] theorem setQueue_atomPoison (s : State) (k : Nat) (x : Queue) : (s.setQueue k x).atomPoison = s.atomPoison := rfl
@[simp] theorem setQueue_atomFlipped (s : State) (k : Nat) (x : Queue) : (s.setQueue k x).atomFlipped = s.atomFlipped := rfl
@[simp] theorem setQueue_atomBad (s : State) (k : Nat) (x : Queue) : (s.setQueue k x).atomBad = s.atomBad := rfl
@[simp] theorem setQueue_macBad (s : State) (k : Nat) (x : Queue) : (s.setQueue k x).macBad = s.macBad := rfl
@[simp] theorem setQueue_confs (s : State) (k : Nat) (x : Queue) : (s.setQueue k x).confs = s.confs := rfl
@[simp] theorem setQueue_treeCount (s : State) (k : Nat) (x : Queue) : (s.setQueue k x).treeCount = s.treeCount := rfl
@[simp] theorem setQueue_recalls (s : State) (k : Nat) (x : Queue) : (s.setQueue k x).recalls = s.recalls := rfl
@[simp] theorem setQueue_dies (s : State) (k : Nat) (x : Queue) : (s.setQueue k x).dies = s.dies := rfl
@[simp] theorem setQueue_root (s : State) (k : Nat) (x : Queue) : (s.setQueue k x).root = s.root := rfl
@[simp] theorem setQueue_pkg (s : State) (k : Nat) (x : Queue) : (s.setQueue k x).pkg = s.pkg := rfl
@[simp] theorem setQueue_parts (s : State) (k : Nat) (x : Queue) : (s.setQueue k x).parts = s.parts := rfl
@[simp] theorem setQueue_clusters (s : State) (k : Nat) (x : Queue) : (s.setQueue k x).clusters = s.clusters := rfl
@[simp] theorem setQueue_ctlb (s : State) (k : Nat) (x : Queue) : (s.setQueue k x).ctlb = s.ctlb := rfl
@[simp] theorem setQueue_walkers (s : State) (k : Nat) (x : Queue) : (s.setQueue k x).walkers = s.walkers := rfl
@[simp] theorem setQueue_ranges (s : State) (k : Nat) (x : Queue) : (s.setQueue k x).ranges = s.ranges := rfl
@[simp] theorem setQueue_keys (s : State) (k : Nat) (x : Queue) : (s.setQueue k x).keys = s.keys := rfl
@[simp] theorem setQueue_spaces (s : State) (k : Nat) (x : Queue) : (s.setQueue k x).spaces = s.spaces := rfl
@[simp] theorem setQueue_vmids (s : State) (k : Nat) (x : Queue) : (s.setQueue k x).vmids = s.vmids := rfl
@[simp] theorem setQueue_vdns (s : State) (k : Nat) (x : Queue) : (s.setQueue k x).vdns = s.vdns := rfl
@[simp] theorem setQueue_nets (s : State) (k : Nat) (x : Queue) : (s.setQueue k x).nets = s.nets := rfl
@[simp] theorem setQueue_funcs (s : State) (k : Nat) (x : Queue) : (s.setQueue k x).funcs = s.funcs := rfl
@[simp] theorem setQueue_launches (s : State) (k : Nat) (x : Queue) : (s.setQueue k x).launches = s.launches := rfl
@[simp] theorem setQueue_teams (s : State) (k : Nat) (x : Queue) : (s.setQueue k x).teams = s.teams := rfl
@[simp] theorem setQueue_groups (s : State) (k : Nat) (x : Queue) : (s.setQueue k x).groups = s.groups := rfl
@[simp] theorem setQueue_cores (s : State) (k : Nat) (x : Queue) : (s.setQueue k x).cores = s.cores := rfl
@[simp] theorem setQueue_saved (s : State) (k : Nat) (x : Queue) : (s.setQueue k x).saved = s.saved := rfl
@[simp] theorem setQueue_savedCopies (s : State) (k : Nat) (x : Queue) : (s.setQueue k x).savedCopies = s.savedCopies := rfl
@[simp] theorem setQueue_savedQueues (s : State) (k : Nat) (x : Queue) : (s.setQueue k x).savedQueues = s.savedQueues := rfl
@[simp] theorem setQueue_lockq (s : State) (k : Nat) (x : Queue) : (s.setQueue k x).lockq = s.lockq := rfl
@[simp] theorem setQueue_held (s : State) (k : Nat) (x : Queue) : (s.setQueue k x).held = s.held := rfl
@[simp] theorem setQueue_out (s : State) (k : Nat) (x : Queue) : (s.setQueue k x).out = s.out := rfl
@[simp] theorem setQueue_serial (s : State) (k : Nat) (x : Queue) : (s.setQueue k x).serial = s.serial := rfl
@[simp] theorem setQueue_queues (s : State) (k : Nat) (x : Queue) : (s.setQueue k x).queues = s.queues.set k x := rfl
@[simp] theorem setQueue_core (s : State) (k j : Nat) (x : Queue) : (s.setQueue k x).core j = s.core j := rfl
@[simp] theorem setQueue_team (s : State) (k j : Nat) (x : Queue) : (s.setQueue k x).team j = s.team j := rfl
@[simp] theorem setQueue_launch (s : State) (k j : Nat) (x : Queue) : (s.setQueue k x).launch j = s.launch j := rfl
@[simp] theorem setQueue_group (s : State) (k j : Nat) (x : Queue) : (s.setQueue k x).group j = s.group j := rfl
@[simp] theorem setQueue_func (s : State) (k j : Nat) (x : Queue) : (s.setQueue k x).func j = s.func j := rfl
@[simp] theorem setQueue_part (s : State) (k j : Nat) (x : Queue) : (s.setQueue k x).part j = s.part j := rfl
@[simp] theorem setQueue_range (s : State) (k j : Nat) (x : Queue) : (s.setQueue k x).range j = s.range j := rfl
@[simp] theorem setQueue_net (s : State) (k j : Nat) (x : Queue) : (s.setQueue k x).net j = s.net j := rfl
@[simp] theorem setQueue_vdn (s : State) (k j : Nat) (x : Queue) : (s.setQueue k x).vdn j = s.vdn j := rfl
@[simp] theorem setQueue_die (s : State) (k j : Nat) (x : Queue) : (s.setQueue k x).die j = s.die j := rfl
@[simp] theorem setQueue_cluster (s : State) (k j : Nat) (x : Queue) : (s.setQueue k x).cluster j = s.cluster j := rfl
@[simp] theorem setQueue_queue_self (s : State) (k : Nat) (x : Queue) : (s.setQueue k x).queue k = x := by
  simp [queue, setQueue]
theorem setQueue_queue_ne (s : State) {k j : Nat} (x : Queue) (h : j ≠ k) : (s.setQueue k x).queue j = s.queue j := by
  simp [queue, setQueue, Tbl.getD_set_ne _ x _ h]

/-! ## `setRange` -/

@[simp] theorem setRange_agenda (s : State) (k : Nat) (x : RangeEntry) : (s.setRange k x).agenda = s.agenda := rfl
@[simp] theorem setRange_tick (s : State) (k : Nat) (x : RangeEntry) : (s.setRange k x).tick = s.tick := rfl
@[simp] theorem setRange_now (s : State) (k : Nat) (x : RangeEntry) : (s.setRange k x).now = s.now := rfl
@[simp] theorem setRange_cur (s : State) (k : Nat) (x : RangeEntry) : (s.setRange k x).cur = s.cur := rfl
@[simp] theorem setRange_curB (s : State) (k : Nat) (x : RangeEntry) : (s.setRange k x).curB = s.curB := rfl
@[simp] theorem setRange_focus (s : State) (k : Nat) (x : RangeEntry) : (s.setRange k x).focus = s.focus := rfl
@[simp] theorem setRange_mem (s : State) (k : Nat) (x : RangeEntry) : (s.setRange k x).mem = s.mem := rfl
@[simp] theorem setRange_cold (s : State) (k : Nat) (x : RangeEntry) : (s.setRange k x).cold = s.cold := rfl
@[simp] theorem setRange_l2 (s : State) (k : Nat) (x : RangeEntry) : (s.setRange k x).l2 = s.l2 := rfl
@[simp] theorem setRange_bdq (s : State) (k : Nat) (x : RangeEntry) : (s.setRange k x).bdq = s.bdq := rfl
@[simp] theorem setRange_replies (s : State) (k : Nat) (x : RangeEntry) : (s.setRange k x).replies = s.replies := rfl
@[simp] theorem setRange_atomPoison (s : State) (k : Nat) (x : RangeEntry) : (s.setRange k x).atomPoison = s.atomPoison := rfl
@[simp] theorem setRange_atomFlipped (s : State) (k : Nat) (x : RangeEntry) : (s.setRange k x).atomFlipped = s.atomFlipped := rfl
@[simp] theorem setRange_atomBad (s : State) (k : Nat) (x : RangeEntry) : (s.setRange k x).atomBad = s.atomBad := rfl
@[simp] theorem setRange_macBad (s : State) (k : Nat) (x : RangeEntry) : (s.setRange k x).macBad = s.macBad := rfl
@[simp] theorem setRange_confs (s : State) (k : Nat) (x : RangeEntry) : (s.setRange k x).confs = s.confs := rfl
@[simp] theorem setRange_treeCount (s : State) (k : Nat) (x : RangeEntry) : (s.setRange k x).treeCount = s.treeCount := rfl
@[simp] theorem setRange_recalls (s : State) (k : Nat) (x : RangeEntry) : (s.setRange k x).recalls = s.recalls := rfl
@[simp] theorem setRange_dies (s : State) (k : Nat) (x : RangeEntry) : (s.setRange k x).dies = s.dies := rfl
@[simp] theorem setRange_root (s : State) (k : Nat) (x : RangeEntry) : (s.setRange k x).root = s.root := rfl
@[simp] theorem setRange_pkg (s : State) (k : Nat) (x : RangeEntry) : (s.setRange k x).pkg = s.pkg := rfl
@[simp] theorem setRange_parts (s : State) (k : Nat) (x : RangeEntry) : (s.setRange k x).parts = s.parts := rfl
@[simp] theorem setRange_clusters (s : State) (k : Nat) (x : RangeEntry) : (s.setRange k x).clusters = s.clusters := rfl
@[simp] theorem setRange_ctlb (s : State) (k : Nat) (x : RangeEntry) : (s.setRange k x).ctlb = s.ctlb := rfl
@[simp] theorem setRange_walkers (s : State) (k : Nat) (x : RangeEntry) : (s.setRange k x).walkers = s.walkers := rfl
@[simp] theorem setRange_keys (s : State) (k : Nat) (x : RangeEntry) : (s.setRange k x).keys = s.keys := rfl
@[simp] theorem setRange_spaces (s : State) (k : Nat) (x : RangeEntry) : (s.setRange k x).spaces = s.spaces := rfl
@[simp] theorem setRange_vmids (s : State) (k : Nat) (x : RangeEntry) : (s.setRange k x).vmids = s.vmids := rfl
@[simp] theorem setRange_vdns (s : State) (k : Nat) (x : RangeEntry) : (s.setRange k x).vdns = s.vdns := rfl
@[simp] theorem setRange_nets (s : State) (k : Nat) (x : RangeEntry) : (s.setRange k x).nets = s.nets := rfl
@[simp] theorem setRange_funcs (s : State) (k : Nat) (x : RangeEntry) : (s.setRange k x).funcs = s.funcs := rfl
@[simp] theorem setRange_queues (s : State) (k : Nat) (x : RangeEntry) : (s.setRange k x).queues = s.queues := rfl
@[simp] theorem setRange_launches (s : State) (k : Nat) (x : RangeEntry) : (s.setRange k x).launches = s.launches := rfl
@[simp] theorem setRange_teams (s : State) (k : Nat) (x : RangeEntry) : (s.setRange k x).teams = s.teams := rfl
@[simp] theorem setRange_groups (s : State) (k : Nat) (x : RangeEntry) : (s.setRange k x).groups = s.groups := rfl
@[simp] theorem setRange_cores (s : State) (k : Nat) (x : RangeEntry) : (s.setRange k x).cores = s.cores := rfl
@[simp] theorem setRange_saved (s : State) (k : Nat) (x : RangeEntry) : (s.setRange k x).saved = s.saved := rfl
@[simp] theorem setRange_savedCopies (s : State) (k : Nat) (x : RangeEntry) : (s.setRange k x).savedCopies = s.savedCopies := rfl
@[simp] theorem setRange_savedQueues (s : State) (k : Nat) (x : RangeEntry) : (s.setRange k x).savedQueues = s.savedQueues := rfl
@[simp] theorem setRange_lockq (s : State) (k : Nat) (x : RangeEntry) : (s.setRange k x).lockq = s.lockq := rfl
@[simp] theorem setRange_held (s : State) (k : Nat) (x : RangeEntry) : (s.setRange k x).held = s.held := rfl
@[simp] theorem setRange_out (s : State) (k : Nat) (x : RangeEntry) : (s.setRange k x).out = s.out := rfl
@[simp] theorem setRange_serial (s : State) (k : Nat) (x : RangeEntry) : (s.setRange k x).serial = s.serial := rfl
@[simp] theorem setRange_ranges (s : State) (k : Nat) (x : RangeEntry) : (s.setRange k x).ranges = s.ranges.set k x := rfl
@[simp] theorem setRange_core (s : State) (k j : Nat) (x : RangeEntry) : (s.setRange k x).core j = s.core j := rfl
@[simp] theorem setRange_team (s : State) (k j : Nat) (x : RangeEntry) : (s.setRange k x).team j = s.team j := rfl
@[simp] theorem setRange_launch (s : State) (k j : Nat) (x : RangeEntry) : (s.setRange k x).launch j = s.launch j := rfl
@[simp] theorem setRange_group (s : State) (k j : Nat) (x : RangeEntry) : (s.setRange k x).group j = s.group j := rfl
@[simp] theorem setRange_func (s : State) (k j : Nat) (x : RangeEntry) : (s.setRange k x).func j = s.func j := rfl
@[simp] theorem setRange_part (s : State) (k j : Nat) (x : RangeEntry) : (s.setRange k x).part j = s.part j := rfl
@[simp] theorem setRange_queue (s : State) (k j : Nat) (x : RangeEntry) : (s.setRange k x).queue j = s.queue j := rfl
@[simp] theorem setRange_net (s : State) (k j : Nat) (x : RangeEntry) : (s.setRange k x).net j = s.net j := rfl
@[simp] theorem setRange_vdn (s : State) (k j : Nat) (x : RangeEntry) : (s.setRange k x).vdn j = s.vdn j := rfl
@[simp] theorem setRange_die (s : State) (k j : Nat) (x : RangeEntry) : (s.setRange k x).die j = s.die j := rfl
@[simp] theorem setRange_cluster (s : State) (k j : Nat) (x : RangeEntry) : (s.setRange k x).cluster j = s.cluster j := rfl
@[simp] theorem setRange_range_self (s : State) (k : Nat) (x : RangeEntry) : (s.setRange k x).range k = x := by
  simp [range, setRange]
theorem setRange_range_ne (s : State) {k j : Nat} (x : RangeEntry) (h : j ≠ k) : (s.setRange k x).range j = s.range j := by
  simp [range, setRange, Tbl.getD_set_ne _ x _ h]

/-! ## `setNet` -/

@[simp] theorem setNet_agenda (s : State) (k : Nat) (x : NetCtx) : (s.setNet k x).agenda = s.agenda := rfl
@[simp] theorem setNet_tick (s : State) (k : Nat) (x : NetCtx) : (s.setNet k x).tick = s.tick := rfl
@[simp] theorem setNet_now (s : State) (k : Nat) (x : NetCtx) : (s.setNet k x).now = s.now := rfl
@[simp] theorem setNet_cur (s : State) (k : Nat) (x : NetCtx) : (s.setNet k x).cur = s.cur := rfl
@[simp] theorem setNet_curB (s : State) (k : Nat) (x : NetCtx) : (s.setNet k x).curB = s.curB := rfl
@[simp] theorem setNet_focus (s : State) (k : Nat) (x : NetCtx) : (s.setNet k x).focus = s.focus := rfl
@[simp] theorem setNet_mem (s : State) (k : Nat) (x : NetCtx) : (s.setNet k x).mem = s.mem := rfl
@[simp] theorem setNet_cold (s : State) (k : Nat) (x : NetCtx) : (s.setNet k x).cold = s.cold := rfl
@[simp] theorem setNet_l2 (s : State) (k : Nat) (x : NetCtx) : (s.setNet k x).l2 = s.l2 := rfl
@[simp] theorem setNet_bdq (s : State) (k : Nat) (x : NetCtx) : (s.setNet k x).bdq = s.bdq := rfl
@[simp] theorem setNet_replies (s : State) (k : Nat) (x : NetCtx) : (s.setNet k x).replies = s.replies := rfl
@[simp] theorem setNet_atomPoison (s : State) (k : Nat) (x : NetCtx) : (s.setNet k x).atomPoison = s.atomPoison := rfl
@[simp] theorem setNet_atomFlipped (s : State) (k : Nat) (x : NetCtx) : (s.setNet k x).atomFlipped = s.atomFlipped := rfl
@[simp] theorem setNet_atomBad (s : State) (k : Nat) (x : NetCtx) : (s.setNet k x).atomBad = s.atomBad := rfl
@[simp] theorem setNet_macBad (s : State) (k : Nat) (x : NetCtx) : (s.setNet k x).macBad = s.macBad := rfl
@[simp] theorem setNet_confs (s : State) (k : Nat) (x : NetCtx) : (s.setNet k x).confs = s.confs := rfl
@[simp] theorem setNet_treeCount (s : State) (k : Nat) (x : NetCtx) : (s.setNet k x).treeCount = s.treeCount := rfl
@[simp] theorem setNet_recalls (s : State) (k : Nat) (x : NetCtx) : (s.setNet k x).recalls = s.recalls := rfl
@[simp] theorem setNet_dies (s : State) (k : Nat) (x : NetCtx) : (s.setNet k x).dies = s.dies := rfl
@[simp] theorem setNet_root (s : State) (k : Nat) (x : NetCtx) : (s.setNet k x).root = s.root := rfl
@[simp] theorem setNet_pkg (s : State) (k : Nat) (x : NetCtx) : (s.setNet k x).pkg = s.pkg := rfl
@[simp] theorem setNet_parts (s : State) (k : Nat) (x : NetCtx) : (s.setNet k x).parts = s.parts := rfl
@[simp] theorem setNet_clusters (s : State) (k : Nat) (x : NetCtx) : (s.setNet k x).clusters = s.clusters := rfl
@[simp] theorem setNet_ctlb (s : State) (k : Nat) (x : NetCtx) : (s.setNet k x).ctlb = s.ctlb := rfl
@[simp] theorem setNet_walkers (s : State) (k : Nat) (x : NetCtx) : (s.setNet k x).walkers = s.walkers := rfl
@[simp] theorem setNet_ranges (s : State) (k : Nat) (x : NetCtx) : (s.setNet k x).ranges = s.ranges := rfl
@[simp] theorem setNet_keys (s : State) (k : Nat) (x : NetCtx) : (s.setNet k x).keys = s.keys := rfl
@[simp] theorem setNet_spaces (s : State) (k : Nat) (x : NetCtx) : (s.setNet k x).spaces = s.spaces := rfl
@[simp] theorem setNet_vmids (s : State) (k : Nat) (x : NetCtx) : (s.setNet k x).vmids = s.vmids := rfl
@[simp] theorem setNet_vdns (s : State) (k : Nat) (x : NetCtx) : (s.setNet k x).vdns = s.vdns := rfl
@[simp] theorem setNet_funcs (s : State) (k : Nat) (x : NetCtx) : (s.setNet k x).funcs = s.funcs := rfl
@[simp] theorem setNet_queues (s : State) (k : Nat) (x : NetCtx) : (s.setNet k x).queues = s.queues := rfl
@[simp] theorem setNet_launches (s : State) (k : Nat) (x : NetCtx) : (s.setNet k x).launches = s.launches := rfl
@[simp] theorem setNet_teams (s : State) (k : Nat) (x : NetCtx) : (s.setNet k x).teams = s.teams := rfl
@[simp] theorem setNet_groups (s : State) (k : Nat) (x : NetCtx) : (s.setNet k x).groups = s.groups := rfl
@[simp] theorem setNet_cores (s : State) (k : Nat) (x : NetCtx) : (s.setNet k x).cores = s.cores := rfl
@[simp] theorem setNet_saved (s : State) (k : Nat) (x : NetCtx) : (s.setNet k x).saved = s.saved := rfl
@[simp] theorem setNet_savedCopies (s : State) (k : Nat) (x : NetCtx) : (s.setNet k x).savedCopies = s.savedCopies := rfl
@[simp] theorem setNet_savedQueues (s : State) (k : Nat) (x : NetCtx) : (s.setNet k x).savedQueues = s.savedQueues := rfl
@[simp] theorem setNet_lockq (s : State) (k : Nat) (x : NetCtx) : (s.setNet k x).lockq = s.lockq := rfl
@[simp] theorem setNet_held (s : State) (k : Nat) (x : NetCtx) : (s.setNet k x).held = s.held := rfl
@[simp] theorem setNet_out (s : State) (k : Nat) (x : NetCtx) : (s.setNet k x).out = s.out := rfl
@[simp] theorem setNet_serial (s : State) (k : Nat) (x : NetCtx) : (s.setNet k x).serial = s.serial := rfl
@[simp] theorem setNet_nets (s : State) (k : Nat) (x : NetCtx) : (s.setNet k x).nets = s.nets.set k x := rfl
@[simp] theorem setNet_core (s : State) (k j : Nat) (x : NetCtx) : (s.setNet k x).core j = s.core j := rfl
@[simp] theorem setNet_team (s : State) (k j : Nat) (x : NetCtx) : (s.setNet k x).team j = s.team j := rfl
@[simp] theorem setNet_launch (s : State) (k j : Nat) (x : NetCtx) : (s.setNet k x).launch j = s.launch j := rfl
@[simp] theorem setNet_group (s : State) (k j : Nat) (x : NetCtx) : (s.setNet k x).group j = s.group j := rfl
@[simp] theorem setNet_func (s : State) (k j : Nat) (x : NetCtx) : (s.setNet k x).func j = s.func j := rfl
@[simp] theorem setNet_part (s : State) (k j : Nat) (x : NetCtx) : (s.setNet k x).part j = s.part j := rfl
@[simp] theorem setNet_queue (s : State) (k j : Nat) (x : NetCtx) : (s.setNet k x).queue j = s.queue j := rfl
@[simp] theorem setNet_range (s : State) (k j : Nat) (x : NetCtx) : (s.setNet k x).range j = s.range j := rfl
@[simp] theorem setNet_vdn (s : State) (k j : Nat) (x : NetCtx) : (s.setNet k x).vdn j = s.vdn j := rfl
@[simp] theorem setNet_die (s : State) (k j : Nat) (x : NetCtx) : (s.setNet k x).die j = s.die j := rfl
@[simp] theorem setNet_cluster (s : State) (k j : Nat) (x : NetCtx) : (s.setNet k x).cluster j = s.cluster j := rfl
@[simp] theorem setNet_net_self (s : State) (k : Nat) (x : NetCtx) : (s.setNet k x).net k = x := by
  simp [net, setNet]
theorem setNet_net_ne (s : State) {k j : Nat} (x : NetCtx) (h : j ≠ k) : (s.setNet k x).net j = s.net j := by
  simp [net, setNet, Tbl.getD_set_ne _ x _ h]

/-! ## `setVdn` -/

@[simp] theorem setVdn_agenda (s : State) (k : Nat) (x : VdnEntry) : (s.setVdn k x).agenda = s.agenda := rfl
@[simp] theorem setVdn_tick (s : State) (k : Nat) (x : VdnEntry) : (s.setVdn k x).tick = s.tick := rfl
@[simp] theorem setVdn_now (s : State) (k : Nat) (x : VdnEntry) : (s.setVdn k x).now = s.now := rfl
@[simp] theorem setVdn_cur (s : State) (k : Nat) (x : VdnEntry) : (s.setVdn k x).cur = s.cur := rfl
@[simp] theorem setVdn_curB (s : State) (k : Nat) (x : VdnEntry) : (s.setVdn k x).curB = s.curB := rfl
@[simp] theorem setVdn_focus (s : State) (k : Nat) (x : VdnEntry) : (s.setVdn k x).focus = s.focus := rfl
@[simp] theorem setVdn_mem (s : State) (k : Nat) (x : VdnEntry) : (s.setVdn k x).mem = s.mem := rfl
@[simp] theorem setVdn_cold (s : State) (k : Nat) (x : VdnEntry) : (s.setVdn k x).cold = s.cold := rfl
@[simp] theorem setVdn_l2 (s : State) (k : Nat) (x : VdnEntry) : (s.setVdn k x).l2 = s.l2 := rfl
@[simp] theorem setVdn_bdq (s : State) (k : Nat) (x : VdnEntry) : (s.setVdn k x).bdq = s.bdq := rfl
@[simp] theorem setVdn_replies (s : State) (k : Nat) (x : VdnEntry) : (s.setVdn k x).replies = s.replies := rfl
@[simp] theorem setVdn_atomPoison (s : State) (k : Nat) (x : VdnEntry) : (s.setVdn k x).atomPoison = s.atomPoison := rfl
@[simp] theorem setVdn_atomFlipped (s : State) (k : Nat) (x : VdnEntry) : (s.setVdn k x).atomFlipped = s.atomFlipped := rfl
@[simp] theorem setVdn_atomBad (s : State) (k : Nat) (x : VdnEntry) : (s.setVdn k x).atomBad = s.atomBad := rfl
@[simp] theorem setVdn_macBad (s : State) (k : Nat) (x : VdnEntry) : (s.setVdn k x).macBad = s.macBad := rfl
@[simp] theorem setVdn_confs (s : State) (k : Nat) (x : VdnEntry) : (s.setVdn k x).confs = s.confs := rfl
@[simp] theorem setVdn_treeCount (s : State) (k : Nat) (x : VdnEntry) : (s.setVdn k x).treeCount = s.treeCount := rfl
@[simp] theorem setVdn_recalls (s : State) (k : Nat) (x : VdnEntry) : (s.setVdn k x).recalls = s.recalls := rfl
@[simp] theorem setVdn_dies (s : State) (k : Nat) (x : VdnEntry) : (s.setVdn k x).dies = s.dies := rfl
@[simp] theorem setVdn_root (s : State) (k : Nat) (x : VdnEntry) : (s.setVdn k x).root = s.root := rfl
@[simp] theorem setVdn_pkg (s : State) (k : Nat) (x : VdnEntry) : (s.setVdn k x).pkg = s.pkg := rfl
@[simp] theorem setVdn_parts (s : State) (k : Nat) (x : VdnEntry) : (s.setVdn k x).parts = s.parts := rfl
@[simp] theorem setVdn_clusters (s : State) (k : Nat) (x : VdnEntry) : (s.setVdn k x).clusters = s.clusters := rfl
@[simp] theorem setVdn_ctlb (s : State) (k : Nat) (x : VdnEntry) : (s.setVdn k x).ctlb = s.ctlb := rfl
@[simp] theorem setVdn_walkers (s : State) (k : Nat) (x : VdnEntry) : (s.setVdn k x).walkers = s.walkers := rfl
@[simp] theorem setVdn_ranges (s : State) (k : Nat) (x : VdnEntry) : (s.setVdn k x).ranges = s.ranges := rfl
@[simp] theorem setVdn_keys (s : State) (k : Nat) (x : VdnEntry) : (s.setVdn k x).keys = s.keys := rfl
@[simp] theorem setVdn_spaces (s : State) (k : Nat) (x : VdnEntry) : (s.setVdn k x).spaces = s.spaces := rfl
@[simp] theorem setVdn_vmids (s : State) (k : Nat) (x : VdnEntry) : (s.setVdn k x).vmids = s.vmids := rfl
@[simp] theorem setVdn_nets (s : State) (k : Nat) (x : VdnEntry) : (s.setVdn k x).nets = s.nets := rfl
@[simp] theorem setVdn_funcs (s : State) (k : Nat) (x : VdnEntry) : (s.setVdn k x).funcs = s.funcs := rfl
@[simp] theorem setVdn_queues (s : State) (k : Nat) (x : VdnEntry) : (s.setVdn k x).queues = s.queues := rfl
@[simp] theorem setVdn_launches (s : State) (k : Nat) (x : VdnEntry) : (s.setVdn k x).launches = s.launches := rfl
@[simp] theorem setVdn_teams (s : State) (k : Nat) (x : VdnEntry) : (s.setVdn k x).teams = s.teams := rfl
@[simp] theorem setVdn_groups (s : State) (k : Nat) (x : VdnEntry) : (s.setVdn k x).groups = s.groups := rfl
@[simp] theorem setVdn_cores (s : State) (k : Nat) (x : VdnEntry) : (s.setVdn k x).cores = s.cores := rfl
@[simp] theorem setVdn_saved (s : State) (k : Nat) (x : VdnEntry) : (s.setVdn k x).saved = s.saved := rfl
@[simp] theorem setVdn_savedCopies (s : State) (k : Nat) (x : VdnEntry) : (s.setVdn k x).savedCopies = s.savedCopies := rfl
@[simp] theorem setVdn_savedQueues (s : State) (k : Nat) (x : VdnEntry) : (s.setVdn k x).savedQueues = s.savedQueues := rfl
@[simp] theorem setVdn_lockq (s : State) (k : Nat) (x : VdnEntry) : (s.setVdn k x).lockq = s.lockq := rfl
@[simp] theorem setVdn_held (s : State) (k : Nat) (x : VdnEntry) : (s.setVdn k x).held = s.held := rfl
@[simp] theorem setVdn_out (s : State) (k : Nat) (x : VdnEntry) : (s.setVdn k x).out = s.out := rfl
@[simp] theorem setVdn_serial (s : State) (k : Nat) (x : VdnEntry) : (s.setVdn k x).serial = s.serial := rfl
@[simp] theorem setVdn_vdns (s : State) (k : Nat) (x : VdnEntry) : (s.setVdn k x).vdns = s.vdns.set k x := rfl
@[simp] theorem setVdn_core (s : State) (k j : Nat) (x : VdnEntry) : (s.setVdn k x).core j = s.core j := rfl
@[simp] theorem setVdn_team (s : State) (k j : Nat) (x : VdnEntry) : (s.setVdn k x).team j = s.team j := rfl
@[simp] theorem setVdn_launch (s : State) (k j : Nat) (x : VdnEntry) : (s.setVdn k x).launch j = s.launch j := rfl
@[simp] theorem setVdn_group (s : State) (k j : Nat) (x : VdnEntry) : (s.setVdn k x).group j = s.group j := rfl
@[simp] theorem setVdn_func (s : State) (k j : Nat) (x : VdnEntry) : (s.setVdn k x).func j = s.func j := rfl
@[simp] theorem setVdn_part (s : State) (k j : Nat) (x : VdnEntry) : (s.setVdn k x).part j = s.part j := rfl
@[simp] theorem setVdn_queue (s : State) (k j : Nat) (x : VdnEntry) : (s.setVdn k x).queue j = s.queue j := rfl
@[simp] theorem setVdn_range (s : State) (k j : Nat) (x : VdnEntry) : (s.setVdn k x).range j = s.range j := rfl
@[simp] theorem setVdn_net (s : State) (k j : Nat) (x : VdnEntry) : (s.setVdn k x).net j = s.net j := rfl
@[simp] theorem setVdn_die (s : State) (k j : Nat) (x : VdnEntry) : (s.setVdn k x).die j = s.die j := rfl
@[simp] theorem setVdn_cluster (s : State) (k j : Nat) (x : VdnEntry) : (s.setVdn k x).cluster j = s.cluster j := rfl
@[simp] theorem setVdn_vdn_self (s : State) (k : Nat) (x : VdnEntry) : (s.setVdn k x).vdn k = x := by
  simp [vdn, setVdn]
theorem setVdn_vdn_ne (s : State) {k j : Nat} (x : VdnEntry) (h : j ≠ k) : (s.setVdn k x).vdn j = s.vdn j := by
  simp [vdn, setVdn, Tbl.getD_set_ne _ x _ h]

/-! ## `setDie` -/

@[simp] theorem setDie_agenda (s : State) (k : Nat) (x : Stack) : (s.setDie k x).agenda = s.agenda := rfl
@[simp] theorem setDie_tick (s : State) (k : Nat) (x : Stack) : (s.setDie k x).tick = s.tick := rfl
@[simp] theorem setDie_now (s : State) (k : Nat) (x : Stack) : (s.setDie k x).now = s.now := rfl
@[simp] theorem setDie_cur (s : State) (k : Nat) (x : Stack) : (s.setDie k x).cur = s.cur := rfl
@[simp] theorem setDie_curB (s : State) (k : Nat) (x : Stack) : (s.setDie k x).curB = s.curB := rfl
@[simp] theorem setDie_focus (s : State) (k : Nat) (x : Stack) : (s.setDie k x).focus = s.focus := rfl
@[simp] theorem setDie_mem (s : State) (k : Nat) (x : Stack) : (s.setDie k x).mem = s.mem := rfl
@[simp] theorem setDie_cold (s : State) (k : Nat) (x : Stack) : (s.setDie k x).cold = s.cold := rfl
@[simp] theorem setDie_l2 (s : State) (k : Nat) (x : Stack) : (s.setDie k x).l2 = s.l2 := rfl
@[simp] theorem setDie_bdq (s : State) (k : Nat) (x : Stack) : (s.setDie k x).bdq = s.bdq := rfl
@[simp] theorem setDie_replies (s : State) (k : Nat) (x : Stack) : (s.setDie k x).replies = s.replies := rfl
@[simp] theorem setDie_atomPoison (s : State) (k : Nat) (x : Stack) : (s.setDie k x).atomPoison = s.atomPoison := rfl
@[simp] theorem setDie_atomFlipped (s : State) (k : Nat) (x : Stack) : (s.setDie k x).atomFlipped = s.atomFlipped := rfl
@[simp] theorem setDie_atomBad (s : State) (k : Nat) (x : Stack) : (s.setDie k x).atomBad = s.atomBad := rfl
@[simp] theorem setDie_macBad (s : State) (k : Nat) (x : Stack) : (s.setDie k x).macBad = s.macBad := rfl
@[simp] theorem setDie_confs (s : State) (k : Nat) (x : Stack) : (s.setDie k x).confs = s.confs := rfl
@[simp] theorem setDie_treeCount (s : State) (k : Nat) (x : Stack) : (s.setDie k x).treeCount = s.treeCount := rfl
@[simp] theorem setDie_recalls (s : State) (k : Nat) (x : Stack) : (s.setDie k x).recalls = s.recalls := rfl
@[simp] theorem setDie_root (s : State) (k : Nat) (x : Stack) : (s.setDie k x).root = s.root := rfl
@[simp] theorem setDie_pkg (s : State) (k : Nat) (x : Stack) : (s.setDie k x).pkg = s.pkg := rfl
@[simp] theorem setDie_parts (s : State) (k : Nat) (x : Stack) : (s.setDie k x).parts = s.parts := rfl
@[simp] theorem setDie_clusters (s : State) (k : Nat) (x : Stack) : (s.setDie k x).clusters = s.clusters := rfl
@[simp] theorem setDie_ctlb (s : State) (k : Nat) (x : Stack) : (s.setDie k x).ctlb = s.ctlb := rfl
@[simp] theorem setDie_walkers (s : State) (k : Nat) (x : Stack) : (s.setDie k x).walkers = s.walkers := rfl
@[simp] theorem setDie_ranges (s : State) (k : Nat) (x : Stack) : (s.setDie k x).ranges = s.ranges := rfl
@[simp] theorem setDie_keys (s : State) (k : Nat) (x : Stack) : (s.setDie k x).keys = s.keys := rfl
@[simp] theorem setDie_spaces (s : State) (k : Nat) (x : Stack) : (s.setDie k x).spaces = s.spaces := rfl
@[simp] theorem setDie_vmids (s : State) (k : Nat) (x : Stack) : (s.setDie k x).vmids = s.vmids := rfl
@[simp] theorem setDie_vdns (s : State) (k : Nat) (x : Stack) : (s.setDie k x).vdns = s.vdns := rfl
@[simp] theorem setDie_nets (s : State) (k : Nat) (x : Stack) : (s.setDie k x).nets = s.nets := rfl
@[simp] theorem setDie_funcs (s : State) (k : Nat) (x : Stack) : (s.setDie k x).funcs = s.funcs := rfl
@[simp] theorem setDie_queues (s : State) (k : Nat) (x : Stack) : (s.setDie k x).queues = s.queues := rfl
@[simp] theorem setDie_launches (s : State) (k : Nat) (x : Stack) : (s.setDie k x).launches = s.launches := rfl
@[simp] theorem setDie_teams (s : State) (k : Nat) (x : Stack) : (s.setDie k x).teams = s.teams := rfl
@[simp] theorem setDie_groups (s : State) (k : Nat) (x : Stack) : (s.setDie k x).groups = s.groups := rfl
@[simp] theorem setDie_cores (s : State) (k : Nat) (x : Stack) : (s.setDie k x).cores = s.cores := rfl
@[simp] theorem setDie_saved (s : State) (k : Nat) (x : Stack) : (s.setDie k x).saved = s.saved := rfl
@[simp] theorem setDie_savedCopies (s : State) (k : Nat) (x : Stack) : (s.setDie k x).savedCopies = s.savedCopies := rfl
@[simp] theorem setDie_savedQueues (s : State) (k : Nat) (x : Stack) : (s.setDie k x).savedQueues = s.savedQueues := rfl
@[simp] theorem setDie_lockq (s : State) (k : Nat) (x : Stack) : (s.setDie k x).lockq = s.lockq := rfl
@[simp] theorem setDie_held (s : State) (k : Nat) (x : Stack) : (s.setDie k x).held = s.held := rfl
@[simp] theorem setDie_out (s : State) (k : Nat) (x : Stack) : (s.setDie k x).out = s.out := rfl
@[simp] theorem setDie_serial (s : State) (k : Nat) (x : Stack) : (s.setDie k x).serial = s.serial := rfl
@[simp] theorem setDie_dies (s : State) (k : Nat) (x : Stack) : (s.setDie k x).dies = s.dies.set k x := rfl
@[simp] theorem setDie_core (s : State) (k j : Nat) (x : Stack) : (s.setDie k x).core j = s.core j := rfl
@[simp] theorem setDie_team (s : State) (k j : Nat) (x : Stack) : (s.setDie k x).team j = s.team j := rfl
@[simp] theorem setDie_launch (s : State) (k j : Nat) (x : Stack) : (s.setDie k x).launch j = s.launch j := rfl
@[simp] theorem setDie_group (s : State) (k j : Nat) (x : Stack) : (s.setDie k x).group j = s.group j := rfl
@[simp] theorem setDie_func (s : State) (k j : Nat) (x : Stack) : (s.setDie k x).func j = s.func j := rfl
@[simp] theorem setDie_part (s : State) (k j : Nat) (x : Stack) : (s.setDie k x).part j = s.part j := rfl
@[simp] theorem setDie_queue (s : State) (k j : Nat) (x : Stack) : (s.setDie k x).queue j = s.queue j := rfl
@[simp] theorem setDie_range (s : State) (k j : Nat) (x : Stack) : (s.setDie k x).range j = s.range j := rfl
@[simp] theorem setDie_net (s : State) (k j : Nat) (x : Stack) : (s.setDie k x).net j = s.net j := rfl
@[simp] theorem setDie_vdn (s : State) (k j : Nat) (x : Stack) : (s.setDie k x).vdn j = s.vdn j := rfl
@[simp] theorem setDie_cluster (s : State) (k j : Nat) (x : Stack) : (s.setDie k x).cluster j = s.cluster j := rfl
@[simp] theorem setDie_die_self (s : State) (k : Nat) (x : Stack) : (s.setDie k x).die k = x := by
  simp [die, setDie]
theorem setDie_die_ne (s : State) {k j : Nat} (x : Stack) (h : j ≠ k) : (s.setDie k x).die j = s.die j := by
  simp [die, setDie, Tbl.getD_set_ne _ x _ h]

/-! ## `setCluster` -/

@[simp] theorem setCluster_agenda (s : State) (k : Nat) (x : Governor) : (s.setCluster k x).agenda = s.agenda := rfl
@[simp] theorem setCluster_tick (s : State) (k : Nat) (x : Governor) : (s.setCluster k x).tick = s.tick := rfl
@[simp] theorem setCluster_now (s : State) (k : Nat) (x : Governor) : (s.setCluster k x).now = s.now := rfl
@[simp] theorem setCluster_cur (s : State) (k : Nat) (x : Governor) : (s.setCluster k x).cur = s.cur := rfl
@[simp] theorem setCluster_curB (s : State) (k : Nat) (x : Governor) : (s.setCluster k x).curB = s.curB := rfl
@[simp] theorem setCluster_focus (s : State) (k : Nat) (x : Governor) : (s.setCluster k x).focus = s.focus := rfl
@[simp] theorem setCluster_mem (s : State) (k : Nat) (x : Governor) : (s.setCluster k x).mem = s.mem := rfl
@[simp] theorem setCluster_cold (s : State) (k : Nat) (x : Governor) : (s.setCluster k x).cold = s.cold := rfl
@[simp] theorem setCluster_l2 (s : State) (k : Nat) (x : Governor) : (s.setCluster k x).l2 = s.l2 := rfl
@[simp] theorem setCluster_bdq (s : State) (k : Nat) (x : Governor) : (s.setCluster k x).bdq = s.bdq := rfl
@[simp] theorem setCluster_replies (s : State) (k : Nat) (x : Governor) : (s.setCluster k x).replies = s.replies := rfl
@[simp] theorem setCluster_atomPoison (s : State) (k : Nat) (x : Governor) : (s.setCluster k x).atomPoison = s.atomPoison := rfl
@[simp] theorem setCluster_atomFlipped (s : State) (k : Nat) (x : Governor) : (s.setCluster k x).atomFlipped = s.atomFlipped := rfl
@[simp] theorem setCluster_atomBad (s : State) (k : Nat) (x : Governor) : (s.setCluster k x).atomBad = s.atomBad := rfl
@[simp] theorem setCluster_macBad (s : State) (k : Nat) (x : Governor) : (s.setCluster k x).macBad = s.macBad := rfl
@[simp] theorem setCluster_confs (s : State) (k : Nat) (x : Governor) : (s.setCluster k x).confs = s.confs := rfl
@[simp] theorem setCluster_treeCount (s : State) (k : Nat) (x : Governor) : (s.setCluster k x).treeCount = s.treeCount := rfl
@[simp] theorem setCluster_recalls (s : State) (k : Nat) (x : Governor) : (s.setCluster k x).recalls = s.recalls := rfl
@[simp] theorem setCluster_dies (s : State) (k : Nat) (x : Governor) : (s.setCluster k x).dies = s.dies := rfl
@[simp] theorem setCluster_root (s : State) (k : Nat) (x : Governor) : (s.setCluster k x).root = s.root := rfl
@[simp] theorem setCluster_pkg (s : State) (k : Nat) (x : Governor) : (s.setCluster k x).pkg = s.pkg := rfl
@[simp] theorem setCluster_parts (s : State) (k : Nat) (x : Governor) : (s.setCluster k x).parts = s.parts := rfl
@[simp] theorem setCluster_ctlb (s : State) (k : Nat) (x : Governor) : (s.setCluster k x).ctlb = s.ctlb := rfl
@[simp] theorem setCluster_walkers (s : State) (k : Nat) (x : Governor) : (s.setCluster k x).walkers = s.walkers := rfl
@[simp] theorem setCluster_ranges (s : State) (k : Nat) (x : Governor) : (s.setCluster k x).ranges = s.ranges := rfl
@[simp] theorem setCluster_keys (s : State) (k : Nat) (x : Governor) : (s.setCluster k x).keys = s.keys := rfl
@[simp] theorem setCluster_spaces (s : State) (k : Nat) (x : Governor) : (s.setCluster k x).spaces = s.spaces := rfl
@[simp] theorem setCluster_vmids (s : State) (k : Nat) (x : Governor) : (s.setCluster k x).vmids = s.vmids := rfl
@[simp] theorem setCluster_vdns (s : State) (k : Nat) (x : Governor) : (s.setCluster k x).vdns = s.vdns := rfl
@[simp] theorem setCluster_nets (s : State) (k : Nat) (x : Governor) : (s.setCluster k x).nets = s.nets := rfl
@[simp] theorem setCluster_funcs (s : State) (k : Nat) (x : Governor) : (s.setCluster k x).funcs = s.funcs := rfl
@[simp] theorem setCluster_queues (s : State) (k : Nat) (x : Governor) : (s.setCluster k x).queues = s.queues := rfl
@[simp] theorem setCluster_launches (s : State) (k : Nat) (x : Governor) : (s.setCluster k x).launches = s.launches := rfl
@[simp] theorem setCluster_teams (s : State) (k : Nat) (x : Governor) : (s.setCluster k x).teams = s.teams := rfl
@[simp] theorem setCluster_groups (s : State) (k : Nat) (x : Governor) : (s.setCluster k x).groups = s.groups := rfl
@[simp] theorem setCluster_cores (s : State) (k : Nat) (x : Governor) : (s.setCluster k x).cores = s.cores := rfl
@[simp] theorem setCluster_saved (s : State) (k : Nat) (x : Governor) : (s.setCluster k x).saved = s.saved := rfl
@[simp] theorem setCluster_savedCopies (s : State) (k : Nat) (x : Governor) : (s.setCluster k x).savedCopies = s.savedCopies := rfl
@[simp] theorem setCluster_savedQueues (s : State) (k : Nat) (x : Governor) : (s.setCluster k x).savedQueues = s.savedQueues := rfl
@[simp] theorem setCluster_lockq (s : State) (k : Nat) (x : Governor) : (s.setCluster k x).lockq = s.lockq := rfl
@[simp] theorem setCluster_held (s : State) (k : Nat) (x : Governor) : (s.setCluster k x).held = s.held := rfl
@[simp] theorem setCluster_out (s : State) (k : Nat) (x : Governor) : (s.setCluster k x).out = s.out := rfl
@[simp] theorem setCluster_serial (s : State) (k : Nat) (x : Governor) : (s.setCluster k x).serial = s.serial := rfl
@[simp] theorem setCluster_clusters (s : State) (k : Nat) (x : Governor) : (s.setCluster k x).clusters = s.clusters.set k x := rfl
@[simp] theorem setCluster_core (s : State) (k j : Nat) (x : Governor) : (s.setCluster k x).core j = s.core j := rfl
@[simp] theorem setCluster_team (s : State) (k j : Nat) (x : Governor) : (s.setCluster k x).team j = s.team j := rfl
@[simp] theorem setCluster_launch (s : State) (k j : Nat) (x : Governor) : (s.setCluster k x).launch j = s.launch j := rfl
@[simp] theorem setCluster_group (s : State) (k j : Nat) (x : Governor) : (s.setCluster k x).group j = s.group j := rfl
@[simp] theorem setCluster_func (s : State) (k j : Nat) (x : Governor) : (s.setCluster k x).func j = s.func j := rfl
@[simp] theorem setCluster_part (s : State) (k j : Nat) (x : Governor) : (s.setCluster k x).part j = s.part j := rfl
@[simp] theorem setCluster_queue (s : State) (k j : Nat) (x : Governor) : (s.setCluster k x).queue j = s.queue j := rfl
@[simp] theorem setCluster_range (s : State) (k j : Nat) (x : Governor) : (s.setCluster k x).range j = s.range j := rfl
@[simp] theorem setCluster_net (s : State) (k j : Nat) (x : Governor) : (s.setCluster k x).net j = s.net j := rfl
@[simp] theorem setCluster_vdn (s : State) (k j : Nat) (x : Governor) : (s.setCluster k x).vdn j = s.vdn j := rfl
@[simp] theorem setCluster_die (s : State) (k j : Nat) (x : Governor) : (s.setCluster k x).die j = s.die j := rfl
@[simp] theorem setCluster_cluster_self (s : State) (k : Nat) (x : Governor) : (s.setCluster k x).cluster k = x := by
  simp [cluster, setCluster]
theorem setCluster_cluster_ne (s : State) {k j : Nat} (x : Governor) (h : j ≠ k) : (s.setCluster k x).cluster j = s.cluster j := by
  simp [cluster, setCluster, Tbl.getD_set_ne _ x _ h]

end Sys2Proof.Machine.State
end

