-- ==== Sys2Proof/Laws/Retire.lean ====
section
/-! SUPPORT. What follows an issue: metering, the write of a destination, the freeing of names, the PC, said once for all
words. -/

namespace Sys2Proof.Machine

theorem tracer_congr {s t : State} {g : Group} (hteam : t.team g.team = s.team g.team) (hf : t.funcs = s.funcs)
    (hv : t.vmids = s.vmids)
    (hl : ∀ l, t.launch l = { s.launch l with ctrs := (t.launch l).ctrs }) : t.tracer g = s.tracer g := by
  have h1 := hl (s.team g.team).launch
  have h2 : ∀ x, t.func x = s.func x := fun x => by simp [State.func, hf]
  have h3 : ∀ x, t.vmidFunc x = s.vmidFunc x := fun x => by simp [State.vmidFunc, State.vm, hv]
  unfold State.tracer
  simp only [hteam]
  rw [h1]
  simp [h2, h3]

/-- metering changes counters alone -/
theorem count_frame (s : State) (l i n : Nat) :
    (s.count l i n).groups = s.groups ∧ (s.count l i n) = { s with launches := (s.count l i n).launches } ∧
    ∀ j, (s.count l i n).launch j = { s.launch j with ctrs := ((s.count l i n).launch j).ctrs } := by
  unfold State.count
  split
  · exact ⟨rfl, rfl, fun _ => rfl⟩
  · refine ⟨rfl, rfl, fun j => ?_⟩
    by_cases h : j = l
    · subst h; simp
    · simp [State.setLaunch_launch_ne _ _ h]

theorem closeDue_calm {g : Group} (h : ∀ w ∈ g.windows, w.done = false) : g.closeDue = g := by
  have : g.windows.filter (·.closes) = [] := by
    rw [List.filter_eq_nil_iff]; intro w hw; simp [Window.closes, h w hw]
  simp [Group.closeDue, this]

theorem countIssue_done {g : Group} (b : Bool) (n : Nat) (h : ∀ w ∈ g.windows, w.done = false) :
    ∀ w ∈ (g.countIssue b n).windows, w.done = false := by
  unfold Group.countIssue
  split
  · exact h
  · intro w hw
    simp only [List.mem_map] at hw
    obtain ⟨⟨w', i⟩, hm, rfl⟩ := hw
    have hw' : w' ∈ g.windows := by
      have := List.mem_zipIdx hm
      simp at this; rw [this.2]; exact List.getElem_mem _
    dsimp only
    split
    · exact h w' hw'
    · split <;> exact h w' hw'

/-- what `putDest` leaves alone -/
theorem putDest_frame (g : Group) (b : Bool) (m : LaneMask) (o : Opnd) (v : Value) (p : LaneMask) :
    putDest g b m o v p =
      { g with vregs := (putDest g b m o v p).vregs, sregs := (putDest g b m o v p).sregs,
               spoison := (putDest g b m o v p).spoison, preds := (putDest g b m o v p).preds,
               windows := (putDest g b m o v p).windows, sat := (putDest g b m o v p).sat,
               uflow := (putDest g b m o v p).uflow, mflush := (putDest g b m o v p).mflush,
               mwrap := (putDest g b m o v p).mwrap, slotA := (putDest g b m o v p).slotA,
               slotB := (putDest g b m o v p).slotB } := by
  unfold putDest
  split
  · unfold Group.putVec Group.dropShadow; split <;> rfl
  · split
    · rfl
    · unfold Group.putPred Group.dropShadow; split <;> rfl
  · split
    · unfold Group.putScalar
      split
      · unfold Group.setActive Group.setSlot Group.dropShadow; repeat' split
        all_goals rfl
      · unfold Group.dropShadow; split <;> rfl
    · unfold Group.putSpecial Group.dropShadow
      repeat' split
      all_goals rfl

theorem freeNames_frame (fs ws : List Nat) (m : LaneMask) (g : Group) :
    g.freeNames fs ws m = { g with vregs := (g.freeNames fs ws m).vregs } := by
  unfold Group.freeNames
  induction fs generalizing g with
  | nil => rfl
  | cons n fs ih =>
    rw [List.foldl_cons, ih]
    split <;> rfl

theorem freeNames_vregs_congr (fs ws : List Nat) (m : LaneMask) {g h : Group} (hv : g.vregs = h.vregs) (hw : g.width = h.width) :
    (g.freeNames fs ws m).vregs = (h.freeNames fs ws m).vregs := by
  unfold Group.freeNames
  induction fs generalizing g h with
  | nil => exact hv
  | cons n fs ih =>
    simp only [List.foldl_cons]
    apply ih
    · split
      · simp [Group.onlyLanes, Group.vreg, hv, hw]
      · simp [hv]
    · split <;> simp [Group.onlyLanes, hw]

/-- What an instruction that is not reissued leaves captured: all that was (15, R338). -/
theorem capture_fresh {g : Group} {b : Bool} (h : g.captured b = none) : g.capture.filter (fun x => x.slotB != b) = g.capture := by
  unfold Group.captured at h
  cases e : g.capture with
  | none => rfl
  | some x =>
    rw [e] at h
    simp only [Option.filter] at h ⊢
    split at h
    · simp at h
    · rename_i hx; simp only [Bool.not_eq_true] at hx; simp [bne, hx]

/-- What HOLD bits push as a short-latency word retires, of the group as it is then (05, R106). -/
def heldPushes (c : Ctx) (g : Group) : List Value :=
  if g.bothLive then [] else
    sourceHolds c ++ if (roles c.opc c.f).d && !(roles c.opc c.f).dIsSrc && c.opD.hold then [namedSource c.s g c.b c.opD] else []

/-- What a short-latency word leaves besides its own effect, with no window to close. -/
theorem retire_short {g : Group} {c : Ctx} {n : Nat} (hll : Forms.longLatency c.opc = false) (hn : c.f.never = false)
    (hw : ∀ w ∈ g.windows, w.done = false) (hc : g.captured c.b = none) :
    ∃ ws : List Window, g.retire c n =
      { g with vregs := (g.freeNames (lastFrees c) (writtenNames c) c.act).vregs,
               latch := pushLatch c.b (ageLatch c.b g.latch)
                 (heldPushes c { g with vregs := (g.freeNames (lastFrees c) (writtenNames c) c.act).vregs }),
               windows := ws, lastB := c.b,
               issued := true, issuedAt := some c.s.now, went := true, stall := 0, spill := .none, granted := 0 } := by
  have e : (if (lastFrees c).isEmpty = true then g else g.freeNames (lastFrees c) (writtenNames c) c.act) =
      { g with vregs := (g.freeNames (lastFrees c) (writtenNames c) c.act).vregs } := by
    rw [← freeNames_frame]
    split
    · rename_i h
      have : lastFrees c = [] := by simpa using h
      rw [this]; rfl
    · rfl
  have key : ∀ g' : Group, (∀ w ∈ g'.windows, w.done = false) → ∃ ws, (g'.countIssue c.b n).closeDue = { g' with windows := ws } := by
    intro g' h
    rw [closeDue_calm (countIssue_done c.b n h)]
    unfold Group.countIssue
    split
    · exact ⟨g'.windows, rfl⟩
    · exact ⟨_, rfl⟩
  unfold Group.retire heldPushes
  simp only [hn, hll, Bool.false_and, Bool.false_eq_true, if_false, Bool.not_false, Bool.true_and]
  rw [e]
  simp only [capture_fresh hc]
  generalize pushLatch c.b _ _ = la
  obtain ⟨ws, h⟩ := key
    { g with
      vregs := (g.freeNames (lastFrees c) (writtenNames c) c.act).vregs, latch := la, lastB := c.b, issued := true,
      issuedAt := some c.s.now, went := true, stall := 0, spill := .none, granted := 0 } hw
  exact ⟨ws, h⟩

theorem advance_frame (g : Group) (b : Bool) (pc : Word) :
    g.advance b pc = { g with loops := (g.advance b pc).loops, slotA := (g.advance b pc).slotA, slotB := (g.advance b pc).slotB } := by
  unfold Group.advance Group.setLoop Group.setSlot
  repeat' split
  all_goals rfl

theorem advance_slot (g : Group) (b : Bool) (pc : Word) :
    (g.advance b pc).slot b = { g.slot b with pc := match loopAt g pc with
      | some (_, l) => if 1 < l.count.toNat then l.start else l.stop + 12
      | none => pc + 12 } ∧ (g.advance b pc).slot (!b) = g.slot (!b) := by
  unfold Group.advance
  cases b <;> (split <;> (try split) <;> simp_all [Group.setLoop, Group.setSlot, Group.slot])

/-- A word that only rewrites its group and counts goes on. -/
theorem settle_next {c : Ctx} {s' : State} {G : Group} (hg : s'.groups.find? c.k = some G) (ha : G.ended = false)
    (hm : ∀ t : State, t.teams = s'.teams → t.funcs = s'.funcs → t.vmids = s'.vmids → t.launches = s'.launches → t.tracer c.g = none) :
    settle c c.s (.next s') = s'.setGroup c.k ((G.retire c c.g.windows.length).advance c.b c.pc) := by
  simp only [settle, State.retireGroup, hg, ha, Bool.and_false, Bool.false_eq_true, if_false]
  unfold State.traceIssue
  rw [show State.tracer (s'.setGroup c.k ((G.retire c c.g.windows.length).advance c.b c.pc)) c.g = none from hm _ rfl rfl rfl rfl]

theorem putDest_width (g : Group) (b : Bool) (m : LaneMask) (o : Opnd) (v : Value) (p : LaneMask) : (putDest g b m o v p).width = g.width := by
  rw [putDest_frame]

theorem dropShadow_done {g : Group} (n : DName) (h : ∀ w ∈ g.windows, w.done = false) : ∀ w ∈ (g.dropShadow n).windows, w.done = false := by
  unfold Group.dropShadow
  split
  · exact h
  · intro w hw
    simp only [List.mem_map] at hw
    obtain ⟨w', hw', rfl⟩ := hw
    exact h w' hw'

theorem dropShadow_frame (g : Group) (n : DName) : g.dropShadow n = { g with windows := (g.dropShadow n).windows } := by
  unfold Group.dropShadow; split <;> rfl

theorem putDest_done {g : Group} {b : Bool} {m : LaneMask} {o : Opnd} {v : Value} {p : LaneMask} (h : ∀ w ∈ g.windows, w.done = false) :
    ∀ w ∈ (putDest g b m o v p).windows, w.done = false := by
  unfold putDest
  split
  · exact dropShadow_done _ h
  · split
    · exact h
    · exact dropShadow_done _ h
  · split
    · unfold Group.putScalar
      split
      · have : ∀ (g : Group) m, (g.setActive b m).windows = g.windows := by
          intro g m; unfold Group.setActive Group.setSlot; split <;> rfl
        rw [this]; exact dropShadow_done _ h
      · exact dropShadow_done _ h
    · have : ∀ (g : Group) n x, (g.putSpecial n x).windows = g.windows := by
        intro g n x; unfold Group.putSpecial; split <;> rfl
      rw [this]; exact dropShadow_done _ h

theorem find?_freeNames_not {fs ws : List Nat} {m : LaneMask} {g : Group} {n : Nat} (h : n ∉ fs) :
    (g.freeNames fs ws m).vregs.find? n = g.vregs.find? n := by
  unfold Group.freeNames
  induction fs generalizing g with
  | nil => rfl
  | cons k fs ih =>
    simp only [List.mem_cons, not_or] at h
    rw [List.foldl_cons, ih h.2]
    split
    · simp [Group.onlyLanes, Tbl.find?_set_ne _ _ h.1]
    · simp [Tbl.find?_erase_ne _ h.1]

/-- a freed and written name, in a lane -/
theorem freeNames_lane {fs ws : List Nat} {m : LaneMask} {g : Group} {n l : Nat} (hn : n ∈ ws) (hl : l < g.width) :
    ((g.freeNames fs ws m).vreg n).vals.getD l 0 = if n ∈ fs ∧ m.getLsbD l = false then 0 else (g.vreg n).vals.getD l 0 := by
  unfold Group.freeNames
  induction fs generalizing g with
  | nil => simp
  | cons k fs ih =>
    rw [List.foldl_cons]
    by_cases hk : ws.contains k = true
    · simp only [hk, if_true]
      rw [ih (by simpa [Group.onlyLanes] using hl)]
      by_cases e : n = k
      · subst e
        have : ((g.onlyLanes n m).vreg n).vals.getD l 0 = if m.getLsbD l then (g.vreg n).vals.getD l 0 else 0 := by
          simp [Group.onlyLanes, Group.vreg, List.getD, hl]
        rw [this]; cases m.getLsbD l <;> simp
      · have : (g.onlyLanes k m).vreg n = g.vreg n := by
          simp [Group.onlyLanes, Group.vreg, Tbl.getD_set_ne _ _ _ e]
        rw [this]; simp [e]
    · have hne : n ≠ k := by rintro rfl; exact hk (by simpa using hn)
      simp only [hk, if_false, Bool.false_eq_true]
      refine (ih (g := { g with vregs := g.vregs.erase k }) hl).trans ?_
      have : ({ g with vregs := g.vregs.erase k } : Group).vreg n = g.vreg n := by
        simp [Group.vreg, Tbl.getD_erase_ne _ _ hne]
      rw [this]; simp [hne]


end Sys2Proof.Machine
end

