-- ==== Sys2Proof/Laws/Results.lean ====
section
/-! SUPPORT. A word that gives a result in every active lane leaves exactly that result: `settle_giveLanes` says once what
the destination, the other registers, the last-result file, SAT and the counter become, for every class of D. -/

namespace Sys2Proof.Machine
open Sys2Proof.Spec

theorem lanes_at {n l : Nat} {p : Nat → Word} (h : l < n) : (Value.lanes n p).at l = p l := by
  simp [Value.at, Value.lanes, h]

theorem uniform_at {x : Word} (l : Nat) : (Value.uniform x).at l = x := by
  simp [Value.at, Value.uniform]

theorem maskFold_lt (w : Nat) (p : Nat → Bool) :
    (List.range w).foldl (fun acc l => acc + if p l then 2 ^ l else 0) 0 < 2 ^ w := by
  induction w with
  | zero => simp
  | succ w ih =>
    rw [List.range_succ, List.foldl_append]
    simp only [List.foldl_cons, List.foldl_nil, Nat.pow_succ]
    split <;> omega

theorem maskFold_testBit (w : Nat) (p : Nat → Bool) (l : Nat) :
    ((List.range w).foldl (fun acc l => acc + if p l then 2 ^ l else 0) 0).testBit l = (decide (l < w) && p l) := by
  induction w with
  | zero => simp
  | succ w ih =>
    rw [List.range_succ, List.foldl_append]
    simp only [List.foldl_cons, List.foldl_nil]
    have hlt := maskFold_lt w p
    cases hp : p w
    · simp only [Bool.false_eq_true, if_false, Nat.add_zero, ih]
      by_cases h : l < w
      · simp [h, Nat.lt_succ_of_lt h]
      · by_cases e : l = w
        · subst e; simp [hp]
        · simp [h, show ¬ l < w + 1 by omega]
    · simp only [if_true]
      rw [Nat.add_comm]
      by_cases h : l < w
      · rw [Nat.testBit_two_pow_add_gt h, ih]; simp [h, Nat.lt_succ_of_lt h]
      · by_cases e : l = w
        · subst e; rw [Nat.testBit_two_pow_add_eq, ih]; simp [hp]
        · rw [Nat.testBit_lt_two_pow]
          · simp [show ¬ l < w + 1 by omega]
          · have : 2 ^ (w + 1) ≤ 2 ^ l := Nat.pow_le_pow_right (by omega) (by omega)
            rw [Nat.pow_succ] at this
            omega

/-- A mask made of a test has the lanes below its width that pass it. -/
theorem maskOf_getLsbD (w : Nat) (p : Nat → Bool) {l : Nat} (h : l < 96) : (maskOf w p).getLsbD l = (decide (l < w) && p l) := by
  rw [maskOf, BitVec.getLsbD_ofNat, maskFold_testBit]; simp [h]

/-- A counter of a launch after `n` more: it saturates (17, R381). -/
theorem addCounter_self {t : Tbl Nat} {i n : Nat} (hi : i < 63) (hn : n ≠ 0) :
    (addCounter t i n).getD i 0 = min (t.getD i 0 + n) (2 ^ 64 - 1) := by
  unfold addCounter
  simp only [hn, if_false]
  split
  · rw [Tbl.getD_set_ne _ _ _ (by omega)]; simp; omega
  · simp; omega

theorem lanes_ne_zero {m : LaneMask} (h : m ≠ 0) : (lanesOf m).length ≠ 0 := by
  intro h0
  apply h
  have : lanesOf m = [] := List.length_eq_zero_iff.mp h0
  apply BitVec.eq_of_getLsbD_eq
  intro i hi
  simp only [lanesOf, List.filter_eq_nil_iff, List.mem_range] at this
  have := this i hi
  simpa using this

theorem pred_putPred {g : Group} {n : Nat} (hn : n < 7) (m x : LaneMask) :
    (g.putPred n m x).pred n = (g.pred n &&& ~~~m) ||| (x &&& m) := by
  unfold Group.putPred Group.pred
  simp [hn, show n ≠ 7 by omega, List.getD]

theorem preds_putPred_ne {g : Group} {n k : Nat} (hk : k < 7) (h : k ≠ n) (m x : LaneMask) :
    (g.putPred n m x).preds.getD k 0 = g.preds.getD k 0 := by
  unfold Group.putPred
  simp [hk, h, List.getD]

/-- What D may name. -/
def DestOk (o : Opnd) : Prop :=
  o.cls = 0 ∨ (o.cls = 1 ∧ (o.index = 8 ∨ 16 ≤ o.index ∧ o.index ≤ 22)) ∨ (o.cls = 2 ∧ (o.index < 64 ∨ 87 ≤ o.index ∧ o.index ≤ 90))

/-- The D of a word that passed the issue checks. -/
theorem dest_ok {c : Ctx} {own : Ctx → Nat → Bool} (hform : formTrap c own = none) (hd : (roles c.opc c.f).d = true) (hs : (roles c.opc c.f).dIsSrc = false) :
    DestOk c.opD := by
  unfold DestOk
  unfold formTrap at hform
  split at hform
  · simp at hform
  · simp at hform
  · split at hform
    · simp at hform
    simp only [Option.map_eq_none_iff] at hform
    unfold operandFault at hform
    simp only [hd, hs, Bool.true_and, Bool.false_eq_true, if_false] at hform
    split at hform
    · simp at hform
    · rename_i h
      have h : destBad c.g c.record.vregs (Forms.longLatency c.opc) (roles c.opc c.f).shifts c.opD = false := by
        simp only [Bool.or_eq_true, not_or, Bool.not_eq_true] at h
        exact h.1
      unfold destBad at h
      simp only [Bool.or_eq_false_iff] at h
      have h1 := h.1.1.1.1.1
      revert h1
      clear hform
      split <;> intro h1 <;> simp_all
      · omega
      · rcases Nat.lt_or_ge c.opD.index 64 with h | h
        · exact Or.inl h
        · exact Or.inr (h1 h)



theorem loopAt_congr {g h : Group} (h1 : g.inh = h.inh) (h2 : g.loops = h.loops) (pc : Word) : loopAt g pc = loopAt h pc := by
  simp only [loopAt, innermost, h1, h2]

theorem putDest_inh (g : Group) (b : Bool) (m : LaneMask) (o : Opnd) (v : Value) (p : LaneMask) : (putDest g b m o v p).inh = g.inh := by
  rw [putDest_frame]

theorem putDest_loops (g : Group) (b : Bool) (m : LaneMask) (o : Opnd) (v : Value) (p : LaneMask) : (putDest g b m o v p).loops = g.loops := by
  rw [putDest_frame]

theorem putDest_owned (g : Group) (b : Bool) (m : LaneMask) (o : Opnd) (v : Value) (p : LaneMask) (x : Bool) :
    ((putDest g b m o v p).slot x).owned = (g.slot x).owned := by
  have hd : ∀ k, (g.dropShadow k).slot x = g.slot x := fun k => by rw [dropShadow_frame]; rfl
  unfold putDest
  split
  · exact congrArg _ (hd _)
  · split
    · rfl
    · exact congrArg _ (hd _)
  · split
    · unfold Group.putScalar
      split
      · rw [← hd]; unfold Group.setActive Group.setSlot Group.slot; cases b <;> cases x <;> rfl
      · exact congrArg _ (hd _)
    · unfold Group.putSpecial
      split <;> exact congrArg _ (hd _)

/-- A destination reads alike in two groups that agree in registers, last results, counting specials and active masks. -/
theorem namedSource_dest {s : State} {g t : Group} {b : Bool} {o : Opnd} (hok : DestOk o) (hv : t.vregs = g.vregs) (hw : t.width = g.width)
    (hq : t.q0 = g.q0) (hp : t.preds = g.preds) (hs : t.sregs = g.sregs) (hx : t.spoison = g.spoison)
    (ha : (t.slot b).active = (g.slot b).active) (h1 : t.sat = g.sat) (h2 : t.uflow = g.uflow) (h3 : t.mflush = g.mflush)
    (h4 : t.mwrap = g.mwrap) : namedSource s t b o = namedSource s g b o := by
  unfold namedSource
  rcases hok with h | ⟨h, hi⟩ | ⟨h, hi⟩
  · simp only [h, Group.vreg, hv, hw]
  · simp only [h]
    by_cases h8 : o.index = 8
    · simp [h8, hq]
    · have : ¬ o.index ≤ 2 ∧ ¬ o.index = 9 := by omega
      simp only [this.1, h8, this.2, if_false, Group.pred, Group.allLanes, hp, hw]; rfl
  · simp only [h]
    by_cases h6 : o.index < 64
    · simp only [h6, if_true, Group.sreg, hs, hx, ha]
    · have h7 : ¬ o.index ≤ 70 := by omega
      simp only [h6, h7, if_false]
      have : o.index = 87 ∨ o.index = 88 ∨ o.index = 89 ∨ o.index = 90 := by omega
      rcases this with e | e | e | e <;> simp [e, uniformSpecial, h1, h2, h3, h4]

/-- The group after a result: `G` before the advance. -/
structure ResultGroup (c : Ctx) (g : Group) (v : Value) (t : Group) : Prop where
  frame : OnlyResult c t
  slot  : t.slot c.b = { (putDest g c.b c.act c.opD v).slot c.b with pc := nextPc c }
  other : t.slot (!c.b) = (putDest g c.b c.act c.opD v).slot (!c.b)
  vregs : t.vregs = ((putDest g c.b c.act c.opD v).freeNames (lastFrees c) (writtenNames c) c.act).vregs
  preds : t.preds = (putDest g c.b c.act c.opD v).preds
  sregs : t.sregs = (putDest g c.b c.act c.opD v).sregs
  spoison : t.spoison = (putDest g c.b c.act c.opD v).spoison
  sat   : t.sat = (putDest g c.b c.act c.opD v).sat
  uflow : t.uflow = (putDest g c.b c.act c.opD v).uflow
  mflush : t.mflush = (putDest g c.b c.act c.opD v).mflush
  mwrap : t.mwrap = (putDest g c.b c.act c.opD v).mwrap
  q1    : t.q1 = (putDest g c.b c.act c.opD v).q0
  q0    : t.q0 = some (if v.vec then .lanes (putDest g c.b c.act c.opD v).width fun l => if c.act.getLsbD l then v.at l else 0
                       else .uniform (v.at 0))
  loops : ∀ n, n < 3 → t.loops.getD n {} = nextLoops c n
  latch : t.latch = latched c (heldPushes c t)

theorem advance_loops (g : Group) (b : Bool) (pc : Word) (n : Nat) (h : n < 3) :
    (g.advance b pc).loops.getD n {} = match loopAt g pc with
      | some (m, l) => if n = m then (if 1 < l.count.toNat then { l with count := l.count - 1 } else {}) else g.loops.getD n {}
      | none => g.loops.getD n {} := by
  unfold Group.advance
  rcases loopAt g pc with _ | ⟨m, l⟩
  · cases b <;> rfl
  · dsimp only
    by_cases hc : 1 < l.count.toNat <;> by_cases hm : n = m <;> cases b <;> simp [Group.setLoop, Group.setSlot, List.getD, h, hc, hm]
    all_goals (subst hm; simp [h])

theorem pushLatch_aged (c : Ctx) (vs : List Value) : pushLatch c.b (ageLatch c.b c.g.latch) vs = latched c vs := by
  unfold pushLatch ageLatch latched; simp

theorem result_group' {c : Ctx} {v : Value} {x : Bool} (hok : DestOk c.opD) (hll : Forms.longLatency c.opc = false) (hn : c.f.never = false)
    (hw : ∀ w ∈ c.g.windows, w.done = false) (hcap : c.g.captured c.b = none) :
    ResultGroup c { c.g with sat := x } v
      (((shiftResult (putDest { c.g with sat := x } c.b c.act c.opD v) c.act v).retire c c.g.windows.length).advance c.b c.pc) := by
  obtain ⟨ws, h⟩ := retire_short (g := shiftResult (putDest { c.g with sat := x } c.b c.act c.opD v) c.act v) (n := c.g.windows.length) hll hn
    (putDest_done (g := { c.g with sat := x }) hw) (by
      show Group.captured (shiftResult (putDest { c.g with sat := x } c.b c.act c.opD v) c.act v) c.b = none
      unfold Group.captured at hcap ⊢
      show (putDest { c.g with sat := x } c.b c.act c.opD v).capture.filter _ = none
      rw [putDest_frame]; exact hcap)
  rw [h, freeNames_vregs_congr (lastFrees c) (writtenNames c) c.act
      (g := shiftResult (putDest { c.g with sat := x } c.b c.act c.opD v) c.act v) (h := putDest { c.g with sat := x } c.b c.act c.opD v) rfl rfl]
  clear h
  have hP := putDest_frame { c.g with sat := x } c.b c.act c.opD v 0
  generalize hPd : putDest { c.g with sat := x } c.b c.act c.opD v = P at *
  generalize hv : (P.freeNames (lastFrees c) (writtenNames c) c.act).vregs = vr
  have hi : P.inh = c.g.inh := by rw [hP]
  have hl : P.loops = c.g.loops := by rw [hP]
  have hla : P.latch = c.g.latch := by rw [hP]
  generalize hp : heldPushes c _ = ps
  have hlt : (shiftResult P c.act v).latch = c.g.latch := hla
  rw [hlt]
  generalize hG : ({ (shiftResult P c.act v) with
          vregs := vr, latch := pushLatch c.b (ageLatch c.b c.g.latch) ps,
          windows := ws, lastB := c.b, issued := true, issuedAt := some c.s.now, went := true, stall := 0, spill := .none, granted := 0 } : Group) = G
  have hs := advance_slot G c.b c.pc
  have hf := advance_frame G c.b c.pc
  have hlo := advance_loops G c.b c.pc
  have e : loopAt G c.pc = loopAt c.g c.pc := loopAt_congr (by rw [← hG]; exact hi) (by rw [← hG]; exact hl) _
  have eL : G.loops = c.g.loops := by rw [← hG]; exact hl
  generalize G.advance c.b c.pc = T at *
  have hslot : ∀ b, G.slot b = P.slot b := fun b => by rw [← hG]; rfl
  have hgot : (T.slot c.b).active = (P.slot c.b).active := by rw [hs.1, hslot]
  have hlive : ∀ b, T.live b = P.live b := by
    intro b
    unfold Group.live
    rcases Bool.eq_or_eq_not b c.b with hb | hb
    · rw [hb, hs.1, hslot]
    · rw [hb, hs.2, hslot]
  have hheld : heldPushes c T = ps := by
    rw [← hp]
    have hb : T.bothLive = P.bothLive := by unfold Group.bothLive; rw [hlive, hlive]
    have hb' : Group.bothLive ({ (shiftResult P c.act v) with vregs := vr } : Group) = P.bothLive := rfl
    have hnm : namedSource c.s T c.b c.opD = namedSource c.s { (shiftResult P c.act v) with vregs := vr } c.b c.opD := by
      refine namedSource_dest hok ?_ ?_ ?_ ?_ ?_ ?_ hgot ?_ ?_ ?_ ?_ <;> (rw [hf, ← hG])
    unfold heldPushes
    rw [hb, hb', hnm]
  constructor
  all_goals try rw [hPd]
  · unfold OnlyResult; rw [hf, ← hG]; simp only [shiftResult]; rw [hP]
  · rw [hs.1, hslot, e]; rfl
  · rw [hs.2, hslot]
  case loops =>
    intro n hn
    rw [hlo n hn, e, eL]; rfl
  case latch =>
    rw [hheld, ← pushLatch_aged, hf, ← hG]
  all_goals (rw [hf, ← hG]; first | rfl | exact hv.symm)

/-- What HOLD bits push of a word that passed the issue checks: where two slots are live none may stand (05, R106, R108). -/
theorem heldPushes_ok {c : Ctx} {own : Ctx → Nat → Bool} (hform : formTrap c own = none) (hd : (roles c.opc c.f).d = true)
    (hs : (roles c.opc c.f).dIsSrc = false) {t : Group} (hb : t.bothLive = c.g.bothLive) :
    heldPushes c t = sourceHolds c ++ if c.opD.hold then [namedSource c.s t c.b c.opD] else [] := by
  unfold heldPushes
  simp only [hd, hs, Bool.not_false, Bool.true_and]
  split
  · rename_i hB
    rw [hb] at hB
    unfold formTrap at hform
    split at hform
    · simp at hform
    · simp at hform
    · split at hform
      · simp at hform
      simp only [Option.map_eq_none_iff] at hform
      unfold operandFault at hform
      simp only [hd, hs, Bool.true_and, Bool.false_eq_true, if_false] at hform
      split at hform
      · simp at hform
      rename_i h1
      split at hform
      · simp at hform
      rename_i h2
      split at hform
      · simp at hform
      rename_i h3
      split at hform
      · simp at hform
      rename_i h4
      simp only [sourceBad, destBad, hB, Bool.and_true, Bool.or_true] at h1 h2 h3 h4
      unfold sourceHolds
      simp only [hs, Bool.and_false, Bool.false_and, Bool.false_eq_true, if_false, List.append_nil]
      have d0 : c.opD.hold = false := by
        cases e : c.opD.hold
        · rfl
        · have : (Opnd.of c.f.d).hold = true := e
          simp [this] at h1
      have a0 : ((roles c.opc c.f).a && c.opA.hold) = false := by
        cases e : (roles c.opc c.f).a
        · rfl
        · cases e' : c.opA.hold
          · rfl
          · have : (Opnd.of c.f.a).hold = true := e'
            simp [this, e] at h2
      have b0 : ((roles c.opc c.f).b && !c.f.imm32 && c.opB.hold) = false := by
        cases e : ((roles c.opc c.f).b && !c.f.imm32)
        · rfl
        · cases e' : c.opB.hold
          · rfl
          · have : (Opnd.of c.f.b).hold = true := e'
            simp only [Bool.and_eq_true] at e
            simp [this, e] at h3
      have c0 : ((roles c.opc c.f).c && c.opC.hold) = false := by
        cases e : (roles c.opc c.f).c
        · rfl
        · cases e' : c.opC.hold
          · rfl
          · have : (Opnd.of c.f.aux).hold = true := e'
            simp [this, e] at h4
      simp [d0, a0, b0, c0]
  · rfl

theorem dropShadow_slot (g : Group) (n : DName) (b : Bool) : (g.dropShadow n).slot b = g.slot b := by
  rw [dropShadow_frame]; rfl

theorem dropShadow_vreg (g : Group) (n : DName) (k : Nat) : (g.dropShadow n).vreg k = g.vreg k := by
  rw [dropShadow_frame]; rfl

theorem dropShadow_pred (g : Group) (n : DName) (k : Nat) : (g.dropShadow n).pred k = g.pred k := by
  rw [dropShadow_frame]; rfl

theorem dropShadow_vregs (g : Group) (n : DName) : (g.dropShadow n).vregs = g.vregs := by rw [dropShadow_frame]
theorem dropShadow_sregs (g : Group) (n : DName) : (g.dropShadow n).sregs = g.sregs := by rw [dropShadow_frame]
theorem dropShadow_preds (g : Group) (n : DName) : (g.dropShadow n).preds = g.preds := by rw [dropShadow_frame]
theorem dropShadow_sat (g : Group) (n : DName) : (g.dropShadow n).sat = g.sat := by rw [dropShadow_frame]
theorem dropShadow_uflow (g : Group) (n : DName) : (g.dropShadow n).uflow = g.uflow := by rw [dropShadow_frame]
theorem dropShadow_mflush (g : Group) (n : DName) : (g.dropShadow n).mflush = g.mflush := by rw [dropShadow_frame]
theorem dropShadow_mwrap (g : Group) (n : DName) : (g.dropShadow n).mwrap = g.mwrap := by rw [dropShadow_frame]
theorem dropShadow_width (g : Group) (n : DName) : (g.dropShadow n).width = g.width := by rw [dropShadow_frame]

theorem vreg_putVec_self (g : Group) (n : Nat) (m : LaneMask) (p : Nat → Word) (q : LaneMask) {l : Nat} (h : l < g.width) :
    ((g.putVec n m p q).vreg n).vals.getD l 0 = if m.getLsbD l then p l else (g.vreg n).vals.getD l 0 := by
  simp [Group.putVec, Group.vreg, List.getD, h]

/-- The value a word gives, of results `R`. -/
def valueOf (c : Ctx) (R : Nat → Word) : Value := if c.opD.isScalar then .uniform (R 0) else .lanes c.g.width R

/-- A scalar D is no longer poisoned, by a value that is not (15, R341). -/
theorem putDest_spoison {g : Group} {b : Bool} {m : LaneMask} {o : Opnd} {v : Value} {p : LaneMask} (hok : DestOk o)
    (hv : v.poison.getLsbD 0 = false) {n : Nat} (hn : n < 64) :
    (putDest g b m o v p).spoison.getLsbD n =
      (g.spoison.getLsbD n && !(o.isScalar && decide (o.index = n) && !(decide (60 ≤ n) && decide (n ≤ 62)))) := by
  have hd : ∀ k, (g.dropShadow k).spoison = g.spoison := fun k => by rw [dropShadow_frame]
  unfold putDest
  rcases hok with h | ⟨h, _⟩ | ⟨h, hi⟩
  · simp [h, Opnd.isScalar, Group.putVec, hd]
  · simp only [h, Opnd.isScalar]
    split
    · simp
    · simp [Group.putPred, hd]
  · simp only [h, Opnd.isScalar, beq_self_eq_true, Bool.true_and]
    by_cases h6 : o.index < 64
    · simp only [h6, if_true, Group.putScalar, hv]
      by_cases h60 : 60 ≤ o.index ∧ o.index ≤ 62
      · have : ∀ (g : Group) m, (g.setActive b m).spoison = g.spoison := by
          intro g m; unfold Group.setActive Group.setSlot; split <;> rfl
        simp only [h60, and_self, if_true, this, hd]
        by_cases e : o.index = n
        · subst e; simp [h60]
        · simp [e]
      · simp only [h60, if_false, Bool.false_eq_true, hd, BitVec.getLsbD_and, BitVec.getLsbD_not, BitVec.getLsbD_ofNat, hn, decide_true, Bool.true_and]
        by_cases e : o.index = n
        · subst e
          have : (decide (60 ≤ o.index) && decide (o.index ≤ 62)) = false := by simpa using h60
          simp [this]
        · have : (2 ^ o.index).testBit n = false := by rw [Nat.testBit_two_pow]; simp [e]
          simp [this, e]
    · have e : o.index ≠ n := by omega
      simp only [h6, if_false, e, decide_false, Bool.false_and, Bool.not_false, Bool.and_true]
      unfold Group.putSpecial
      split <;> simp [hd]

theorem regs_of_result {c : Ctx} {x : Bool} {R : Nat → Word} {t : Group} (hok : DestOk c.opD)
    (hla : t.latch = latched c (sourceHolds c ++ if c.opD.hold then [namedSource c.s t c.b c.opD] else []))
    (hwr : c.opD.cls = 0 → c.opD.index ∈ writtenNames c)
    (h : ResultGroup c { c.g with sat := x } (valueOf c R) t) : OtherRegs c t ∧ Dest c R t ∧ LastResult c R t := by
  have hpo : ∀ n, n < 64 → t.spoison.getLsbD n =
      (c.g.spoison.getLsbD n && !(c.opD.isScalar && decide (c.opD.index = n) && !(decide (60 ≤ n) && decide (n ≤ 62)))) := by
    intro n hn
    rw [h.spoison]
    refine putDest_spoison hok ?_ hn
    unfold valueOf; split <;> simp [Value.uniform, Value.lanes]
  have hlast : LastResult c R t := by
    refine ⟨by rw [h.q1, putDest_frame], ?_⟩
    refine ⟨_, h.q0, ?_⟩
    rw [putDest_width]
    unfold valueOf
    cases hs : c.opD.isScalar
    · refine ⟨rfl, ?_⟩
      intro l hl
      simp only [Bool.false_eq_true, if_false, Value.lanes, Value.at, if_true]
      simp [List.getD, hl]
    · exact ⟨rfl, by simp [Value.at, Value.uniform]⟩
  rcases hok with h0 | ⟨h1, hi⟩ | ⟨h2, hi⟩
  · -- a vector name
    have hP : putDest { c.g with sat := x } c.b c.act c.opD (valueOf c R) =
        (({ c.g with sat := x } : Group).dropShadow (.v c.opD.index)).putVec c.opD.index c.act (valueOf c R).at := by
      unfold putDest; rw [h0]; rfl
    have hvec : c.opD.isVec = true := by simp [Opnd.isVec, h0]
    have hsc : c.opD.isScalar = false := by simp [Opnd.isScalar, h0]
    have hpr : c.opD.isPred = false := by simp [Opnd.isPred, h0]
    have hslot : ∀ b, (putDest { c.g with sat := x } c.b c.act c.opD (valueOf c R)).slot b = c.g.slot b := by
      intro b; rw [hP]; show (Group.dropShadow _ _).slot b = _; rw [dropShadow_slot]; rfl
    refine ⟨⟨?_, ?_, ?_, ?_, ?_, ?_, ?_, ?_, ?_, h.loops, hla, hpo⟩, ?_, hlast⟩
    · intro n hne hf
      rw [h.vregs, find?_freeNames_not hf, hP]
      have : n ≠ c.opD.index := fun e => hne ⟨hvec, e.symm⟩
      simp only [Group.putVec]
      rw [Tbl.find?_set_ne _ _ this, dropShadow_vregs]
    · intro n _ _; rw [h.preds, hP]; simp only [Group.putVec, dropShadow_preds]
    · intro n _; rw [h.sregs, hP]; simp only [Group.putVec, dropShadow_sregs]
    · intro _; rw [h.uflow, hP]; simp only [Group.putVec, dropShadow_uflow]
    · intro _; rw [h.mflush, hP]; simp only [Group.putVec, dropShadow_mflush]
    · intro _; rw [h.mwrap, hP]; simp only [Group.putVec, dropShadow_mwrap]
    · intro _; rw [h.slot, hslot]; rfl
    · rw [h.slot]
    · rw [h.other, hslot]
    · unfold Dest
      simp only [h0]
      intro l hl _
      have hvr : t.vreg c.opD.index = ((putDest { c.g with sat := x } c.b c.act c.opD (valueOf c R)).freeNames (lastFrees c) (writtenNames c) c.act).vreg c.opD.index := by
        have hw : t.width = c.g.width := by rw [h.frame]
        unfold Group.vreg; rw [h.vregs, freeNames_frame, putDest_width, hw]
      rw [hvr, freeNames_lane (hwr h0) (by rw [putDest_width]; exact hl), hP, vreg_putVec_self _ _ _ _ _ (by rw [dropShadow_width]; exact hl),
        dropShadow_vreg]
      simp only [valueOf, hsc, Bool.false_eq_true, if_false, lanes_at hl]
      cases hm : c.act.getLsbD l <;> first | (simp; done) | (simp; rfl)
  · -- a predicate, or the last-result file alone
    have hsc : c.opD.isScalar = false := by simp [Opnd.isScalar, h1]
    have hv : c.opD.isVec = false := by simp [Opnd.isVec, h1]
    have hP : ∃ pr ws, putDest { c.g with sat := x } c.b c.act c.opD (valueOf c R) = { c.g with sat := x, preds := pr, windows := ws } ∧
        (∀ n, ¬(c.opD.isPred = true ∧ c.opD.index = n + 16) → n < 7 → pr.getD n 0 = c.g.preds.getD n 0) ∧
        (c.opD.index ≠ 8 → ∀ l, l < c.g.width → l < 96 →
          (({ c.g with sat := x, preds := pr, windows := ws } : Group).pred (c.opD.index - 16)).getLsbD l =
            if c.act.getLsbD l then (R l).getLsbD 0 else (c.g.pred (c.opD.index - 16)).getLsbD l) := by
      unfold putDest; rw [h1]
      by_cases h8 : c.opD.index = 8
      · simp only [h8, if_true]
        exact ⟨_, _, rfl, fun _ _ _ => rfl, fun h => absurd rfl h⟩
      · have hi : 16 ≤ c.opD.index ∧ c.opD.index ≤ 22 := by omega
        simp only [h8, if_false]
        generalize hw : ({ c.g with sat := x } : Group).dropShadow (.p (c.opD.index - 16)) = d
        have hd : d = { c.g with sat := x, windows := d.windows } := by rw [← hw, dropShadow_frame]
        refine ⟨(d.putPred (c.opD.index - 16) c.act (maskOf c.g.width fun l => ((valueOf c R).at l).getLsbD 0)).preds, d.windows, ?_, ?_, ?_⟩
        · unfold Group.putPred; rw [hd]
        · intro n hn h7
          have : n ≠ c.opD.index - 16 := by
            rintro rfl
            exact hn ⟨by simp [Opnd.isPred, h1, hi.1], by omega⟩
          rw [preds_putPred_ne h7 this, hd]
        · intro _ l hl hl'
          have e : ({ c.g with sat := x, preds := (d.putPred (c.opD.index - 16) c.act (maskOf c.g.width fun l => ((valueOf c R).at l).getLsbD 0)).preds, windows := d.windows } : Group)
              = d.putPred (c.opD.index - 16) c.act (maskOf c.g.width fun l => ((valueOf c R).at l).getLsbD 0) := by
            unfold Group.putPred; rw [hd]
          rw [e, pred_putPred (by omega)]
          have ed : d.pred (c.opD.index - 16) = c.g.pred (c.opD.index - 16) := by rw [hd]; rfl
          rw [ed]
          simp only [BitVec.getLsbD_or, BitVec.getLsbD_and, BitVec.getLsbD_not, maskOf_getLsbD _ _ hl', hl, hl', decide_true, Bool.true_and]
          simp only [valueOf, hsc, Bool.false_eq_true, if_false, lanes_at hl]
          cases hm : c.act.getLsbD l <;> simp
    obtain ⟨pr, ws, hP, hpr, hpd⟩ := hP
    have hslot : ∀ b, (putDest { c.g with sat := x } c.b c.act c.opD (valueOf c R)).slot b = c.g.slot b := by
      intro b; rw [hP]; rfl
    refine ⟨⟨?_, ?_, ?_, ?_, ?_, ?_, ?_, ?_, ?_, h.loops, hla, hpo⟩, ?_, hlast⟩
    · intro n _ hf
      rw [h.vregs, find?_freeNames_not hf, hP]
    · intro n hn h7; rw [h.preds, hP]; exact hpr n hn h7
    · intro n _; rw [h.sregs, hP]
    · intro _; rw [h.uflow, hP]
    · intro _; rw [h.mflush, hP]
    · intro _; rw [h.mwrap, hP]
    · intro _; rw [h.slot, hslot]; rfl
    · rw [h.slot]
    · rw [h.other, hslot]
    · unfold Dest
      simp only [h1]
      by_cases h8 : c.opD.index = 8
      · exact Or.inl h8
      · refine Or.inr fun l hl hl' => ?_
        rw [← hpd h8 l hl hl']
        have : t.pred (c.opD.index - 16) = ({ c.g with sat := x, preds := pr, windows := ws } : Group).pred (c.opD.index - 16) := by
          have hx := h.preds
          rw [hP] at hx
          have hfr := h.frame
          unfold OnlyResult at hfr
          unfold Group.pred Group.allLanes
          rw [hx, hfr]
        rw [this]
  · -- a scalar or a special register
    have hsc : c.opD.isScalar = true := by simp [Opnd.isScalar, h2]
    have hv : c.opD.isVec = false := by simp [Opnd.isVec, h2]
    have hpd : c.opD.isPred = false := by simp [Opnd.isPred, h2]
    have hval : (valueOf c R).at 0 = R 0 := by unfold valueOf; rw [hsc]; exact uniform_at 0
    have hP : putDest { c.g with sat := x } c.b c.act c.opD (valueOf c R) =
        if c.opD.index < 64 then (({ c.g with sat := x } : Group).dropShadow (.s c.opD.index)).putScalar c.b c.opD.index (R 0) ((valueOf c R).poison.getLsbD 0)
        else (({ c.g with sat := x } : Group).dropShadow (.special c.opD.index)).putSpecial c.opD.index (R 0) := by
      unfold putDest; rw [h2, hval]; rfl
    by_cases h6 : 60 ≤ c.opD.index ∧ c.opD.index ≤ 62
    · have hlt : c.opD.index < 64 := by omega
      simp only [hlt, if_true, Group.putScalar, h6, and_self] at hP
      generalize hw : ({ c.g with sat := x } : Group).dropShadow (.s c.opD.index) = d at hP
      have hd : d = { c.g with sat := x, windows := d.windows } := by rw [← hw, dropShadow_frame]
      have hds : ∀ b, d.slot b = c.g.slot b := by intro b; rw [hd]; rfl
      have hsa : ∀ m, (d.setActive c.b m) = { d with slotA := (d.setActive c.b m).slotA, slotB := (d.setActive c.b m).slotB } := by
        intro m; unfold Group.setActive Group.setSlot; cases c.b <;> rfl
      have hself : ∀ m, (d.setActive c.b m).slot c.b = { c.g.slot c.b with active := if m &&& (c.g.slot c.b).owned = 0 then (c.g.slot c.b).owned else m &&& (c.g.slot c.b).owned } := by
        intro m; unfold Group.setActive; simp only [hds]; unfold Group.setSlot Group.slot; cases c.b <;> rfl
      have hoth : ∀ m, (d.setActive c.b m).slot (!c.b) = c.g.slot (!c.b) := by
        intro m; rw [← hds]; unfold Group.setActive Group.setSlot Group.slot; cases c.b <;> rfl
      refine ⟨⟨?_, ?_, ?_, ?_, ?_, ?_, ?_, ?_, ?_, h.loops, hla, hpo⟩, ?_, hlast⟩
      · intro n _ hf
        rw [h.vregs, find?_freeNames_not hf, hP, hsa, hd]
      · intro n _ _; rw [h.preds, hP, hsa, hd]
      · intro n _; rw [h.sregs, hP, hsa, hd]
      · intro _; rw [h.uflow, hP, hsa, hd]
      · intro _; rw [h.mflush, hP, hsa, hd]
      · intro _; rw [h.mwrap, hP, hsa, hd]
      · intro hn; exact absurd ⟨hsc, h6⟩ hn
      · rw [h.slot]
      · rw [h.other, hP, hoth]
      · unfold Dest
        simp only [h2, h6, and_self, if_true]
        rw [h.slot, hP, hself, hds]
        rfl
    · have hslot : ∀ b, (putDest { c.g with sat := x } c.b c.act c.opD (valueOf c R)).slot b = c.g.slot b := by
        intro b; rw [hP]
        split
        · unfold Group.putScalar; simp only [h6, if_false]; show (Group.dropShadow _ _).slot b = _; rw [dropShadow_slot]; rfl
        · unfold Group.putSpecial; split <;> (show (Group.dropShadow _ _).slot b = _; rw [dropShadow_slot]; rfl)
      have hvr : (putDest { c.g with sat := x } c.b c.act c.opD (valueOf c R)).vregs = c.g.vregs := by
        rw [hP]; split
        · unfold Group.putScalar; simp only [h6, if_false, dropShadow_vregs]
        · unfold Group.putSpecial; split <;> simp only [dropShadow_vregs]
      have hprd : (putDest { c.g with sat := x } c.b c.act c.opD (valueOf c R)).preds = c.g.preds := by
        rw [hP]; split
        · unfold Group.putScalar; simp only [h6, if_false, dropShadow_preds]
        · unfold Group.putSpecial; split <;> simp only [dropShadow_preds]
      have hbase : ∀ (hs : ∀ n, ¬(c.opD.isScalar = true ∧ c.opD.index = n) → t.sregs.find? n = c.g.sregs.find? n)
          (h88 : ¬(c.opD.isScalar = true ∧ c.opD.index = 88) → t.uflow = c.g.uflow)
          (h89 : ¬(c.opD.isScalar = true ∧ c.opD.index = 89) → t.mflush = c.g.mflush)
          (h90 : ¬(c.opD.isScalar = true ∧ c.opD.index = 90) → t.mwrap = c.g.mwrap), OtherRegs c t := by
        intro hs h88 h89 h90
        refine ⟨?_, ?_, hs, h88, h89, h90, ?_, ?_, ?_, h.loops, hla, hpo⟩
        · intro n _ hf; rw [h.vregs, find?_freeNames_not hf, hvr]
        · intro n _ _; rw [h.preds, hprd]
        · intro _; rw [h.slot, hslot]; rfl
        · rw [h.slot]
        · rw [h.other, hslot]
      rcases hi with hlt | ⟨h87, h90⟩
      · simp only [hlt, if_true, Group.putScalar, h6, if_false] at hP
        refine ⟨hbase ?_ ?_ ?_ ?_, ?_, hlast⟩
        · intro n hn
          have : n ≠ c.opD.index := fun e => hn ⟨hsc, e.symm⟩
          rw [h.sregs, hP]; simp only
          rw [Tbl.find?_set_ne _ _ this, dropShadow_sregs]
        · intro _; rw [h.uflow, hP]; simp only [dropShadow_uflow]
        · intro _; rw [h.mflush, hP]; simp only [dropShadow_mflush]
        · intro _; rw [h.mwrap, hP]; simp only [dropShadow_mwrap]
        · unfold Dest; simp only [h2, h6, if_false, hlt, if_true]
          rw [h.sregs, hP]; simp
      · have hge : ¬ c.opD.index < 64 := by omega
        simp only [hge, if_false] at hP
        have hcase : c.opD.index = 87 ∨ c.opD.index = 88 ∨ c.opD.index = 89 ∨ c.opD.index = 90 := by omega
        rcases hcase with e | e | e | e <;> simp only [e, Group.putSpecial] at hP <;>
        · refine ⟨hbase ?_ ?_ ?_ ?_, ?_, hlast⟩
          · intro n _; rw [h.sregs, hP]; simp only [dropShadow_sregs]
          · intro hn; rw [h.uflow, hP]; first | (simp only [dropShadow_uflow]; done) | exact absurd ⟨hsc, e⟩ hn
          · intro hn; rw [h.mflush, hP]; first | (simp only [dropShadow_mflush]; done) | exact absurd ⟨hsc, e⟩ hn
          · intro hn; rw [h.mwrap, hP]; first | (simp only [dropShadow_mwrap]; done) | exact absurd ⟨hsc, e⟩ hn
          · unfold Dest; simp only [h2, e]
            repeat first | rw [if_pos trivial] | rw [if_pos rfl] | rw [if_neg (by decide)]
            first | rw [h.sat, hP] | rw [h.uflow, hP] | rw [h.mflush, hP] | rw [h.mwrap, hP]


theorem putDest_sat {g : Group} {b : Bool} {m : LaneMask} {o : Opnd} {v : Value} {p : LaneMask} (hok : DestOk o)
    (h : ¬(o.isScalar = true ∧ o.index = 87)) : (putDest g b m o v p).sat = g.sat := by
  have hn : o.cls = 2 → o.index ≠ 87 := fun h2 e => h ⟨by simp [Opnd.isScalar, h2], e⟩
  unfold putDest
  split
  · simp only [Group.putVec, dropShadow_sat]
  · split
    · rfl
    · simp only [Group.putPred, dropShadow_sat]
  · have h2 : o.cls = 2 := by rcases hok with h | ⟨h, _⟩ | ⟨h, _⟩ <;> simp_all
    split
    · unfold Group.putScalar
      split
      · have : ∀ (g : Group) m, (g.setActive b m).sat = g.sat := by
          intro g m; unfold Group.setActive Group.setSlot; split <;> rfl
        rw [this, dropShadow_sat]
      · simp only [dropShadow_sat]
    · unfold Group.putSpecial
      split
      · rename_i e; exact absurd e (hn h2)
      all_goals simp only [dropShadow_sat]

theorem count_self {s : State} {l i n : Nat} (hi : i < 63) (hn : n ≠ 0)
    (hv : (s.func (s.vmidFunc (s.launch l).vmid)).stopped = false) :
    ((s.count l i n).launch l).ctrs.getD i 0 = min ((s.launch l).ctrs.getD i 0 + n) (2 ^ 64 - 1) := by
  unfold State.count
  simp [hn, hv, addCounter_self hi hn]

/-- A word whose issue is calm and whose entry answers results in its active lanes leaves exactly those results. -/
theorem settle_giveLanes {opc : Nat} {f : Fields} {s : State} {c : Ctx} (h : Calm opc f destName s c)
    (hll : Forms.longLatency opc = false) (hd : (roles opc f).d = true) (hs : (roles opc f).dIsSrc = false) (hany : c.any = true)
    {ctr : Nat} (hctr : ctr < 63) (r : Nat → Sat) :
    Result c (settle c s (giveLanes c ctr r)) ctr (fun l => (r l).value) (fun l => (r l).sat) := by
  have hctx := h.ctx
  unfold State.ctx at hctx
  obtain ⟨g, hg, rfl⟩ := Option.map_eq_some_iff.mp hctx
  generalize hc : ({ s := s, k := s.cur, g := g, b := s.curB, opc := opc, f := f, act := g.active s.curB f } : Ctx) = c at *
  have hk : c.s = s := by rw [← hc]
  have hkg : s.groups.find? c.k = some c.g := by rw [← hc]; exact hg
  have hopc : c.opc = opc := by rw [← hc]
  have hf : c.f = f := by rw [← hc]
  have hok := dest_ok h.form (by rw [hopc, hf]; exact hd) (by rw [hopc, hf]; exact hs)
  have hwr : c.opD.cls = 0 → c.opD.index ∈ writtenNames c := by
    intro h0; simp [writtenNames, hany, destName, hopc, hf, hd, hs, Opnd.isVec, h0]
  generalize hx : (c.g.sat || if c.opD.isScalar then (r 0).sat else (lanesOf c.act).any fun l => (r l).sat) = x
  generalize hn : (if c.opD.isScalar then 1 else c.lanes) = n
  have hn0 : n ≠ 0 := by
    rw [← hn]; split
    · decide
    · exact lanes_ne_zero (by simpa [Ctx.any] using hany)
  have hgive : giveLanes c ctr r = .next (c.count ctr n (c.s.setGroup c.k
      (shiftResult (putDest { c.g with sat := x } c.b c.act c.opD (valueOf c fun l => (r l).value)) c.act (valueOf c fun l => (r l).value)))) := by
    unfold giveLanes
    simp only [hany, Bool.not_true, Bool.false_eq_true, if_false, hn, valueOf]
    have : (if (if c.opD.isScalar = true then (r 0).sat else (lanesOf c.act).any fun l => (r l).sat) = true then ({ c.g with sat := true } : Group) else c.g) = { c.g with sat := x } := by
      rw [← hx]
      generalize (if c.opD.isScalar = true then (r 0).sat else (lanesOf c.act).any fun l => (r l).sat) = y
      cases y
      · simp
      · simp
    rw [this]
  rw [hgive]
  generalize hG : shiftResult (putDest { c.g with sat := x } c.b c.act c.opD (valueOf c fun l => (r l).value)) c.act (valueOf c fun l => (r l).value) = G
  obtain ⟨cg, cm, cl⟩ := count_frame (c.s.setGroup c.k G) c.launchKey ctr n
  have hGalive : G.ended = false := by
    rw [← hG]; show (putDest _ _ _ _ _ _).ended = false; rw [putDest_frame]; exact h.alive
  have hset := settle_next (c := c) (s' := c.count ctr n (c.s.setGroup c.k G)) (G := G)
    (by show (State.count _ _ _ _).groups.find? _ = _; rw [cg]; simp) hGalive (by
      intro t ht hfu hv hl
      have := h.untraced
      rw [← this, ← hk]
      refine tracer_congr ?_ ?_ ?_ ?_
      · show t.teams.getD _ _ = c.s.teams.getD _ _
        rw [ht]; show (State.count _ _ _ _).teams.getD _ _ = _; rw [cm]; rfl
      · rw [hfu]; show (State.count _ _ _ _).funcs = _; rw [cm]; rfl
      · rw [hv]; show (State.count _ _ _ _).vmids = _; rw [cm]; rfl
      · intro l
        have := cl l
        have e : t.launch l = ((c.s.setGroup c.k G).count c.launchKey ctr n).launch l := by
          show t.launches.getD _ _ = _; rw [hl]; rfl
        rw [e, this]; rfl)
  rw [hk] at hset ⊢
  rw [hset]
  have hRG := result_group' (c := c) (v := valueOf c fun l => (r l).value) (x := x) hok (by rw [hopc]; exact hll) (h.run ▸ by rw [hf]) h.windows h.fresh
  rw [hG] at hRG
  generalize hT : (G.retire c c.g.windows.length).advance c.b c.pc = T at *
  have hcount : c.count ctr n (c.s.setGroup c.k G) = (c.s.setGroup c.k G).count c.launchKey ctr n := rfl
  rw [hk] at hcount cg cm cl
  rw [hcount]
  have hafter : after c (((s.setGroup c.k G).count c.launchKey ctr n).setGroup c.k T) = T := by
    unfold after; simp [State.group]
  have hlive : ∀ b, T.live b = c.g.live b := by
    have hP := putDest_frame { c.g with sat := x } c.b c.act c.opD (valueOf c fun l => (r l).value) 0
    have hown : ∀ b, ((putDest { c.g with sat := x } c.b c.act c.opD (valueOf c fun l => (r l).value)).slot b).owned = (c.g.slot b).owned :=
      fun b => putDest_owned _ _ _ _ _ _ b
    intro b
    unfold Group.live
    rcases Bool.eq_or_eq_not b c.b with hb | hb
    · rw [hb, hRG.slot]; show (PcSlot.owned _ != 0) = _; rw [hown]
    · rw [hb, hRG.other, hown]
  have hla : T.latch = latched c (sourceHolds c ++ if c.opD.hold then [namedSource c.s T c.b c.opD] else []) := by
    rw [hRG.latch, heldPushes_ok h.form (by rw [hopc, hf]; exact hd) (by rw [hopc, hf]; exact hs)
      (by unfold Group.bothLive; rw [hlive, hlive])]
  obtain ⟨o, d, l⟩ := regs_of_result (x := x) hok hla hwr hRG
  have hfr := hRG.frame
  refine { frame := ⟨?_, ?_, ?_⟩, group := by rw [hafter]; exact hfr, regs := by rw [hafter]; exact o,
           dest := by rw [hafter]; exact d, last := by rw [hafter]; exact l, sat := ?_, meter := ?_ }
  · rw [hk]
    generalize (s.setGroup c.k G).count c.launchKey ctr n = u at *
    show ({ u with groups := _ } : State) = _
    rw [cm]; rfl
  · intro j hj
    rw [hk]
    show (Tbl.set _ _ _).find? j = _
    rw [Tbl.find?_set_ne _ _ hj, cg]
    show (Tbl.set _ _ _).find? j = _
    rw [Tbl.find?_set_ne _ _ hj]
  · intro l
    rw [hk]
    exact cl l
  · intro hn87
    rw [hafter, hx, hRG.sat]
    exact putDest_sat hok hn87
  · intro hv
    rw [hk] at hv
    show (State.launch ((s.setGroup c.k G).count c.launchKey ctr n) c.launchKey).ctrs.getD ctr 0 = _
    have hL : (s.setGroup c.k G).launch c.launchKey = c.launch := by
      show s.launch _ = _; unfold Ctx.launch; rw [hk]
    rw [count_self hctr hn0 (by rw [hL]; exact hv), hL, ← hn]

end Sys2Proof.Machine
end

