-- ==== Sys2Proof/Tests/Slice0.lean ====
section
/-! SUPPORT. Tests: ill-formed words that the check refuses, words of every family written out from the spec's encoding, the
spec's worked examples, and for every statement with hypotheses a state and operands that meet them. -/

namespace Sys2Proof.Tests

set_option Elab.async false

open Sys2Proof.Machine Sys2Proof.Spec

/-! ## Helpers -/

/-- A machine with one group of 32 lanes, at PC 0x60, whose turn it is; the homes' slices hold the lines of its page tables. -/
def base : State := (State.reset.placeProgram []).walkedAll 0 0 [0x10001000]

/-- The test machine with its group changed. -/
def withGroup (f : Group → Group) : State := base.setGroup 0 (f (base.group 0))

/-- A group traced, ended, waiting, held or with a window to close is not calm. -/
def calmHere (opc : Nat) (f : Fields) (names : Ctx → List Nat) (s : State) (own : Ctx → Bool)
    (ops : Ctx → Nat → Bool := noOperands) : Bool :=
  match s.ctx opc f with
  | none => false
  | some c =>
    decide (formTrap c ops = none) && decide (endMisuse c.g opc c.pc = false) && decide (f.never = false) && decide (poisoned c = 0) &&
    (!Forms.longLatency opc || decide (c.g.openWindows c.b < 4)) && decide (needsRegister c (names c) = false) &&
    decide (s.tracer c.g = none) && decide (c.g.ended = false) && decide (c.g.wait = .none) && decide (c.g.replay = none) &&
    c.g.windows.all (fun w => !w.done) && (c.g.captured c.b).isNone && own c

theorem calm_of {opc : Nat} {f : Fields} {names : Ctx → List Nat} {s : State} {own : Ctx → Bool} {ops : Ctx → Nat → Bool}
    (h : calmHere opc f names s own ops = true) : ∃ c, Calm opc f names s c ops ∧ own c = true := by
  unfold calmHere at h
  split at h
  · exact absurd h (by decide)
  · rename_i c hc
    simp only [Bool.and_eq_true, decide_eq_true_eq, List.all_eq_true, Bool.or_eq_true, Bool.not_eq_true'] at h
    obtain ⟨⟨⟨⟨⟨⟨⟨⟨⟨⟨⟨⟨h1, h2⟩, h3⟩, h4⟩, h5⟩, h6⟩, h7⟩, h8⟩, h9⟩, h10⟩, h11⟩, hf⟩, h12⟩ := h
    exact ⟨c, { ctx := hc, form := h1, atEnd := h2, run := h3, clean := h4, regs := h6,
                room := fun hl => by rcases h5 with h5 | h5; · rw [hl] at h5; exact absurd h5 (by decide)
                                     · exact h5
                untraced := h7, alive := h8, awake := h9, free := h10, windows := h11, fresh := by simpa using hf }, h12⟩

/-- Words that issue in the test machine. -/
def issuesIn (s : State) (names : Ctx → List Nat) (own : Ctx → Bool) (ws : List (Nat × Fields))
    (ops : Ctx → Nat → Bool := noOperands) : Bool :=
  ws.all fun p => calmHere p.1 p.2 names s own ops

theorem issuesIn_spec {s : State} {names : Ctx → List Nat} {own : Ctx → Bool} {ws : List (Nat × Fields)} {ops : Ctx → Nat → Bool}
    (h : issuesIn s names own ws ops = true) : ∀ p ∈ ws, ∃ c, Calm p.1 p.2 names s c ops ∧ own c = true :=
  fun p hp => calm_of (List.all_eq_true.mp h p hp)


/-- No field of the word breaks a rule of its entry's own; such rules name the fields 1 to 4, D, A, B and C (05, R109). -/
def opsOk (ops : Ctx → Nat → Bool) (c : Ctx) : Bool := (List.range 8).all fun n => !ops c n
/-! ## Computing words -/

/-- D = v1, A = v2, B = v3, C = v4, with the FN given. -/
def vvv (fn : BitVec 12) : Fields := { fn := fn, d := 0x0004, a := 0x0008, b := 0x000C, aux := 0x0010 }
/-- The same without C. -/
def vv (fn : BitVec 12) : Fields := { fn := fn, d := 0x0004, a := 0x0008, b := 0x000C }
/-- The same without B and C. -/
def v (fn : BitVec 12) : Fields := { fn := fn, d := 0x0004, a := 0x0008 }
/-- With scalars: D = s1, A = s2, B = s3. -/
def ss (fn : BitVec 12) : Fields := { fn := fn, d := 0x0006, a := 0x000A, b := 0x000E }

theorem wit_integer : ∀ p ∈ [(0x040, vv 0), (0x042, ss 0), (0x044, vv 0), (0x045, vv 0), (0x046, vvv 0), (0x047, v 0), (0x048, v 0)],
    ∃ c, Calm p.1 p.2 destName base c ∧ c.any = true := issuesIn_spec (by decide +kernel)

theorem wit_packed : ∀ p ∈ [(0x049, vv 1), (0x04A, vv 2), (0x04B, vv 5), (0x04C, vvv 1), (0x04D, vv 6), (0x04E, vvv 2)],
    ∃ c, Calm p.1 p.2 destName base c ∧ c.any = true := issuesIn_spec (by decide +kernel)

theorem wit_carry : ∀ p ∈ [(0x041, vv 0x404), (0x043, vv 0x404)],
    ∃ c, Calm p.1 p.2 destName base c ∧ (c.any && c.opD.isVec) = true := issuesIn_spec (by decide +kernel)

/-- A predicate as D of a carry form traps. -/
theorem wit_carry_trap : ∀ p ∈ [(0x041, ({ vv 0x404 with d := 0x0041 } : Fields)), (0x043, { vv 0x404 with d := 0x0041 })],
    ∃ c, Calm p.1 p.2 destName base c ∧ (!c.opD.isVec) = true := issuesIn_spec (by decide +kernel)

theorem wit_logic : ∀ p ∈ [(0x050, vv 0), (0x051, ss 0), (0x052, vv 0), (0x053, v 0), (0x054, vv 0), (0x055, vv 0), (0x056, vv 0),
      (0x057, vv 0), (0x058, vv 4), (0x059, vvv 0), (0x05A, v 0), (0x05B, v 0), (0x05C, v 0), (0x150, vv 0x10), (0x151, vv 0),
      (0x152, vv 0), (0x153, v 0)],
    ∃ c, Calm p.1 p.2 destName base c ∧ c.any = true := issuesIn_spec (by decide +kernel)

theorem wit_compare : ∀ p ∈ [(0x060, vv 0x140), (0x061, vvv 0), (0x062, v 0), (0x063, { fn := 0x800, d := 0x0006, b := 0x8000, aux := 1 })],
    ∃ c, Calm p.1 p.2 destName base c ∧ c.any = true := issuesIn_spec (by decide +kernel)

theorem wit_fp32 : ∀ p ∈ [(0x0C0, vv 0x018), (0x0C1, vv 8), (0x0C2, vv 0x028), (0x0C3, vvv 0x038), (0x0C4, vv 8), (0x0C5, vv 8),
      (0x0C6, vv 0x1C8), (0x0C7, v 8), (0x0C8, v 0x008)],
    ∃ c, Calm p.1 p.2 destName base c ∧ c.any = true := issuesIn_spec (by decide +kernel)

theorem wit_halves : ∀ p ∈ [(0x0D0, vv 9), (0x0D1, vv 0xA), (0x0D2, vvv 9)],
    ∃ c, Calm p.1 p.2 destName base c ∧ c.any = true := issuesIn_spec (by decide +kernel)

theorem wit_rounding : Float.f16 ∈ [Float.f32, Float.bf16, Float.f16, Float.e4m3, Float.e5m2, Float.e2m1] ∧ 0x3C00 < 2 ^ Float.f16.width ∧
    Float.value Float.f16 0x3C00 = .fin false 1024 (-10) ∧ Float.round .rup Float.f16 false 3 (-1) = 0x3E00 ∧
    Float.value Float.f16 0x3E00 = .fin false 1536 (-10) ∧ 0x3E00 % 2 ^ (Float.f16.width - 1) < Float.f16.maxPat := by decide +kernel

theorem wit_conversions : ∀ p ∈ [(0x0F0, v 0x289), (0x0F1, v 0x008), (0x0F2, v 0x200)],
    ∃ c, Calm p.1 p.2 destName base c ∧ (c.any && !c.opD.isPred && !c.opA.isImm && Forms.perLane c.f.sel == Forms.perLane c.f.type) = true :=
  issuesIn_spec (by decide +kernel)

theorem wit_rand : ∃ c, Calm 0x0F3 (v 0x30) destName base c ∧ (c.any && !c.opD.isScalar) = true := calm_of (by decide +kernel)

/-- D = v1, A = v2, B = #2, C = v4. -/
def vni (fn : BitVec 12) : Fields := { fn := fn, d := 0x0004, a := 0x0008, b := 0x000B }

theorem wit_crossLane : ∀ p ∈ [(0x140, vni 0x020), (0x146, vni 0), (0x141, { vni 5 with aux := 0x0010 }), (0x142, vni 0x010)],
    ∃ c, Calm p.1 p.2 destName base c ∧ (c.any && !c.opD.isScalar && !vectorValued c.g c.b c.opB) = true :=
  issuesIn_spec (by decide +kernel)

/-- A scalar D, and a vector-valued B, trap. -/
theorem wit_crossLane_traps : (∀ p ∈ [(0x140, ({ vni 0x020 with d := 0x0006, a := 0x000A } : Fields)), (0x146, { vni 0 with d := 0x0006, a := 0x000A }),
      (0x141, { vni 5 with d := 0x0006, a := 0x000A, aux := 0x000A }), (0x142, { vni 0x010 with d := 0x0006, a := 0x000A }), (0x143, { d := 0x0006, a := 0x000A })],
    ∃ c, Calm p.1 p.2 destName base c ∧ c.opD.isScalar = true) ∧
    ∀ p ∈ [(0x141, ({ vni 5 with b := 0x000C, aux := 0x0010 } : Fields)), (0x142, vv 0x010), (0x146, vv 0)],
      ∃ c, Calm p.1 p.2 destName base c ∧ (!c.opD.isScalar && vectorValued c.g c.b c.opB) = true :=
  ⟨issuesIn_spec (by decide +kernel), issuesIn_spec (by decide +kernel)⟩

theorem wit_ballot : ∀ p ∈ [(0x142, v 0x020), (0x143, v 0x020)], ∃ c, Calm p.1 p.2 destName base c ∧ (c.any && !c.opD.isScalar) = true :=
  issuesIn_spec (by decide +kernel)

theorem wit_reductions : ∀ p ∈ [(0x144, v 8), (0x144, v 0), (0x145, v 0x400), (0x145, v 4)],
    ∃ c, Calm p.1 p.2 destName base c ∧ (c.any && !c.opD.isScalar) = true := issuesIn_spec (by decide +kernel)

theorem wit_writeLane : ∃ c, Calm 0x147 { d := 0x0004, a := 0x000A, b := 0x007F } destName base c ∧
    (c.any && c.opD.isVec && !vectorValued c.g c.b c.opA && !vectorValued c.g c.b c.opB && !(lastFrees c).contains c.opD.index) = true :=
  calm_of (by decide +kernel)

/-- The guard p0, which no lane satisfies. -/
def off (f : Fields) : Fields := { f with grd := 0 }

theorem wit_special : ∀ p ∈ [(0x0E0, { fn := 8, d := 0x0006, a := 0x000A }), (0x0E1, off (v 8)), (0x0E0, v 8), (0x0E1, v 8), (0x0E2, v 0x018), (0x0E3, v 8), (0x0E4, v 8), (0x0E5, v 8), (0x0E6, { v 8 with la := 15 })],
    ∃ c, Calm p.1 p.2 destName base c ∧ (c.any || decide (c.f.grd = 0)) = true := issuesIn_spec (by decide +kernel)

/-- With no lane active, and where D, A or B is what `wrlane` does not take. -/
theorem wit_writeLane_idle : ∃ c, Calm 0x147 { d := 0x0004, a := 0x000A, b := 0x007F, grd := 0 } destName base c ∧
    (!c.any && !c.opD.isScalar && !vectorValued c.g c.b c.opA && !vectorValued c.g c.b c.opB) = true := calm_of (by decide +kernel)
theorem wit_writeLane_traps : (∃ c, Calm 0x147 { d := 0x0006, a := 0x000A, b := 0x007F } destName base c ∧ c.opD.isScalar = true) ∧
    (∃ c, Calm 0x147 { d := 0x0004, a := 0x0008, b := 0x007F } destName base c ∧ (!c.opD.isScalar && vectorValued c.g c.b c.opA) = true) ∧
    ∃ c, Calm 0x147 { d := 0x0041, a := 0x000A, b := 0x000C } destName base c ∧
      (!c.opD.isScalar && !vectorValued c.g c.b c.opA && vectorValued c.g c.b c.opB) = true :=
  ⟨calm_of (by decide +kernel), calm_of (by decide +kernel), calm_of (by decide +kernel)⟩


theorem wit_noLane : ∀ p ∈ [(0x040, off (vv 0)), (0x049, off (vv 1)), (0x041, off (vv 4)), (0x054, off (vv 0)), (0x062, off (v 0)),
      (0x0C0, off (vv 8)), (0x0D0, off (vv 9)), (0x140, off (vv 0)), (0x144, off (v 0)), (0x150, off (vv 0))],
    ∃ c, Calm p.1 p.2 destName base c ∧ (!c.any && c.opD.isVec) = true := issuesIn_spec (by decide +kernel)


/-! ## Conversions, roundings and operands -/

/-- FP16 to FP32, which widens, INT32 to FP16, which narrows, FP16 to INT32 and FP32 to the second half of a packed INT16. -/
theorem wit_conversions_index : ∀ p ∈ [(0x0F0, ({ v 0x248 with aux := 1 } : Fields)), (0x0F1, { v 0x009 with aux := 1 }), (0x0F2, { v 0x240 with aux := 1 }),
      (0x0F2, { v 0x201 with aux := 1 })],
    ∃ c, Calm p.1 p.2 destName base c ∧ (c.any && !c.opD.isPred && !c.opD.isQ0 && !c.opA.isImm && Forms.perLane c.f.sel != Forms.perLane c.f.type) = true :=
  issuesIn_spec (by decide +kernel)
/-- A predicate D, a q0 D of a narrowing conversion, and an immediate A. -/
theorem wit_conversions_traps : (∀ p ∈ [(0x0F0, ({ v 0x289 with d := 0x0041 } : Fields)), (0x0F1, { v 0x008 with d := 0x0041 }), (0x0F2, { v 0x200 with d := 0x0041 })],
      ∃ c, Calm p.1 p.2 destName base c ∧ c.opD.isPred = true) ∧
    (∃ c, Calm 0x0F1 { v 0x009 with d := 0x0021 } destName base c ∧ (decide (Forms.perLane c.f.sel < Forms.perLane c.f.type) && c.opD.isQ0) = true) ∧
    ∀ p ∈ [(0x0F0, ({ v 0x289 with a := 0x000B } : Fields)), (0x0F1, { v 0x008 with a := 0x000B }), (0x0F2, { v 0x200 with a := 0x000B })],
      ∃ c, Calm p.1 p.2 destName base c ∧ (!c.opD.isPred && !c.opD.isQ0 && c.opA.isImm) = true :=
  ⟨issuesIn_spec (by decide +kernel), calm_of (by decide +kernel), issuesIn_spec (by decide +kernel)⟩

/-- A tie in FP16 goes to the even neighbour; a value beyond the largest magnitude of FP32, and one of E4M3, 448 at most. -/
theorem wit_nearest : Float.round .rne Float.f16 false 2049 0 = 0x6800 ∧ Float.value Float.f16 0x6800 = .fin false 1024 1 ∧
    Float.value Float.f16 0x6801 = .fin false 1025 1 ∧ Float.round .rne Float.f16 false 2051 0 = 0x6802 := by decide +kernel
theorem wit_overflow : Float.value Float.f32 Float.f32.maxPat = .fin false (2 ^ 24 - 1) 104 ∧ Float.round .rz Float.f32 true 1 128 = 0xFF7FFFFF ∧
    Float.round .rne Float.f32 true 1 128 = 0xFF800000 ∧ Float.value Float.e4m3 Float.e4m3.maxPat = .fin false 14 5 ∧
    Float.round .rne Float.e4m3 true 1 10 = 0xFE ∧ Float.round .rup Float.e4m3 false 1 10 = 0x7E := by decide +kernel

/-- Inputs of every line of Table 8.11, and 3, 2^−149 and −1. -/
theorem wit_specialValues : Float.value Float.f32 0x7F800001 = .nan ∧ Float.value Float.f32 0xFF800000 = .inf true ∧ Float.value Float.f32 0x7F800000 = .inf false ∧
    Float.value Float.f32 0x40400000 = .fin false 0xC00000 (-22) ∧ Float.exp2 0x40400000 = 0x41000000 ∧ Float.exp2 0xC3150000 = 1 ∧ Float.exp2 0x43000000 = 0x7F800000 ∧
    Float.log2 0x41000000 = 0x40400000 ∧ Float.log2 1 = 0xC3150000 ∧ Float.sqrt .rne 0xBF800000 = 0x7FC00000 ∧ Float.rcp .rne 0x40400000 = 0x3EAAAAAB ∧
    Float.exp2 0xC3160000 = 0 := by decide +kernel

/-- A scalar D of `rand`, `redux` and `scan` traps. -/
theorem wit_scalarDest_traps : ∀ p ∈ [(0x0F3, ({ fn := 0x30, d := 0x0006, a := 0x000A } : Fields)), (0x144, { d := 0x0006, a := 0x000A }), (0x145, { fn := 4, d := 0x0006, a := 0x000A })],
    ∃ c, Calm p.1 p.2 destName base c ∧ c.opD.isScalar = true := issuesIn_spec (by decide +kernel)

/-- The context of `f` as `iadd` in a state, where `p` holds of it. -/
def sees (s : State) (f : Fields) (p : Ctx → Bool) : Bool := match s.ctx 0x040 f with | some c => p c | none => false
/-- v2 and p0 count their lanes, of which lane 3 has exited; h0 and q0 hold vectors; s2 is 9. -/
def sourced : State := withGroup fun g => { g with
  exited := 8, vregs := [(2, { vals := (List.range 32).map (BitVec.ofNat 32), poison := 0 })], preds := [5], sregs := [(2, 9)],
  latch := [{ value := { vec := true, vals := (List.range 32).map (BitVec.ofNat 32), poison := 0 }, age := 2, slotB := false }],
  q0 := some { vec := true, vals := (List.range 32).map (BitVec.ofNat 32), poison := 0 } }
/-- v2 reversed within 32 lanes: lane 28 reads lane 3, which has exited, in v2 but not in h0; and rotated, broadcast and swapped. -/
theorem wit_sources : sees sourced (vv 0) (fun c => decide (c.g.captured c.b = none) && decide (c.opA.cls = 0) && decide (c.g.width = 32) && decide (xA c 4 = 4)) = true ∧
    sees sourced { vv 0 with a := 0x0008 + 9 * 2 ^ 10 } (fun c => decide (c.opA.perm = 9) && decide (xA c 1 = 30) && decide (xA c 28 = 0)) = true ∧
    sees sourced { vv 0 with a := 0x0001 + 9 * 2 ^ 10 } (fun c => decide (c.opA.cls = 1) && decide (xA c 1 = 30) && decide (xA c 28 = 3)) = true ∧
    sees sourced { vv 0 with a := 0x0021 + 7 * 2 ^ 10 } (fun c => decide (c.opA.index = 8) && decide (xA c 7 = 0) && decide (xA c 8 = 9)) = true ∧
    sees sourced { vv 0 with a := 0x0025 } (fun c => decide (c.g.q1 = none) && decide (xA c 7 = 0)) = true ∧
    sees sourced { vv 0 with a := 0x0041 } (fun c => decide (c.opA.index = 16) && decide (xA c 2 = 1) && decide (xA c 1 = 0)) = true ∧
    sees sourced { vv 0 with a := 0x005D } (fun c => decide (c.opA.index = 23) && decide (xA c 1 = 1)) = true ∧
    sees sourced { vv 0 with a := 0x000A } (fun c => decide (xA c 1 = 9)) = true ∧
    sees sourced { vv 0 with a := 0x00F2 } (fun c => decide (c.opA.index = 60) && decide (xA c 1 = 0xFFFFFFFF)) = true ∧
    sees sourced { vv 0 with a := 0x012A } (fun c => decide (c.opA.index = 74) && decide (xA c 1 = 32)) = true ∧
    sees sourced { vv 0 with a := 0x03FF } (fun c => decide (c.opA.cls = 3) && decide (xA c 1 = 0xFFFFFFFF) && decide (fA c 1 = 0xBF800000)) = true := by decide +kernel
/-- A word that is reissued reads what it captured of v2. -/
def captured : State := withGroup fun g => { g with capture := some { slotB := false, act := 1, vals := [((Opnd.of 0x0008).key, .uniform 7)] } }
theorem wit_sources_captured : sees captured (vv 0) (fun c => (c.g.captured c.b).isSome && decide (xA c 1 = 7)) = true := by decide +kernel

/-- Slot B is live too. -/
def bothSlots : State := withGroup fun g => { g with slotB := { g.slotA with owned := 2 } }
/-- h0 was never pushed; and both slots are live, the word reading q0 or holding its A. -/
theorem wit_latchTraps : sees base { vv 0 with a := 0x0001 } (fun c => decide (Forms.check 0x040 c.f = none) && c.opD.isVec && decide (c.opD.index < c.record.vregs) &&
      !c.opD.last && !c.opD.hold && decide (c.opA.cls = 1) && decide (c.opA.index = 0) && c.g.latch.isEmpty) = true ∧
    sees bothSlots { vv 0 with a := 0x0021 } (fun c => c.g.bothLive && decide (Forms.check 0x040 c.f = none) && decide (c.opA.cls = 1)) = true ∧
    sees bothSlots { vv 0 with a := 0x8008 } (fun c => c.g.bothLive && decide (Forms.check 0x040 c.f = none) && c.opA.hold) = true := by decide +kernel

/-- Never-execute words. -/
theorem wit_never : ∀ p ∈ [(0x040, ({ vv 0 with grd := 0xF } : Fields)), (0x0C0, { vv 8 with grd := 0xF }), (0x140, { vni 0x020 with grd := 0xF }), (0x002, { grd := 0xF, aux := 0xFFF8 }),
      (0x005, { grd := 0xF, aux := 4 }), (0x008, { grd := 0xF }), (0x240, { grd := 0xF, fn := 0x280 }), (0x2C0, { grd := 0xF, aux := 0x12 }), (0x2E0, { grd := 0xF })],
    (match base.ctx p.1 p.2 with
     | some c => p.2.never && decide (formTrap c noOperands = none) && !endMisuse c.g p.1 c.pc && decide (base.tracer c.g = none) && !c.g.ended && c.g.windows.isEmpty &&
         (c.g.captured c.b).isNone
     | none => false) = true := by decide +kernel
theorem wit_never_memory : ∀ p ∈ [(0x1C0, ({ grd := 0xF, fn := 0x084, d := 0x0018, a := 0x0022, b := 0x0004, la := 2 } : Fields), loadOperands),
      (0x1C1, { grd := 0xF, fn := 0x084, d := 0x0010, a := 0x0022, b := 0x0004 }, storeOperands),
      (0x243, { grd := 0xF, fn := 0x014, d := 0x0010, a := 0x0022, b := 0x000C }, redOperands)],
    (match base.ctx p.1 p.2.1 with
     | some c => p.2.1.never && decide (formTrap c p.2.2 = none) && !endMisuse c.g p.1 c.pc && c.g.windows.isEmpty && (c.g.captured c.b).isNone
     | none => false) = true := by decide +kernel
/-! ## Control -/

theorem stays_closed {c : Ctx} (h : innermost c.g = none) (x : Word) : stays c x := fun _ _ e => by rw [h] at e; exact absurd e (by simp)

/-- Half of the lanes in p0. -/
def halfP : State := withGroup fun g => { g with preds := [0xFFFF] }

/-- Level 0 open over PCs 0x54 to 0x60 with a count left. -/
def looped (n : Word) : State := withGroup fun g => { g with loops := [{ opened := true, count := n, start := 0x54, stop := 0x60, depth := g.depth }] }

/-- v2 holds PC 0x6C in lane 0 and `x` in the others. -/
def targets (x : Word) : State := withGroup fun g => { g with vregs := [(2, { vals := 0x6C :: List.replicate 31 x, poison := 0 })] }

theorem wit_formatWords : ∀ p ∈ [(0x001, ({} : Fields)), (0x00B, {}), (0x00C, { fn := 0x800, b := 0x0FFF, aux := 0x1FFF }), (0x00C, { a := 0x000A }),
      (0x00E, { fn := 1, a := 0x0041 })],
    ∃ c, Calm p.1 p.2 noNames base c ∧ (!vectorValued c.g c.b (.of 0x000A)) = true := issuesIn_spec (by decide +kernel)

/-- A vector-valued A of `setfmt`, an A of `wrmask` that is no plain predicate, and a D that `getfmt` does not take, trap. -/
theorem wit_formatWords_trap : (∃ c, Calm 0x00C { a := 0x0008 } noNames base c ∧ (vectorValued c.g c.b c.opA && !c.f.imm32) = true) ∧
    (∀ p ∈ [(0x00E, ({ fn := 1, a := 0x0008 } : Fields)), (0x00E, { a := 0x000A })], ∃ c, Calm p.1 p.2 noNames base c ∧ (!c.opA.isPred) = true) ∧
    ∀ p ∈ [(0x00D, ({ d := 0x0041 } : Fields)), (0x00D, { d := 0x00F2 })],
      ∃ c, Calm p.1 p.2 destName base c ∧ (!c.opD.isVec && !c.opD.isQ0 && !(c.opD.isScalar && decide (c.opD.index ≤ 59))) = true :=
  ⟨calm_of (by decide +kernel), issuesIn_spec (by decide +kernel),
   issuesIn_spec (by decide +kernel)⟩

/-- `wrmask` takes p0 or, with AND, p7. -/
theorem wit_wrmask : ∀ p ∈ [(0x00E, ({ a := 0x0041 } : Fields)), (0x00E, { fn := 1, a := 0x005D })],
    ∃ c, Calm p.1 p.2 noNames halfP c ∧ c.opA.isPred = true := issuesIn_spec (by decide +kernel)

theorem wit_getfmt : ∀ p ∈ [(0x00D, ({ d := 0x0004 } : Fields)), (0x00D, { d := 0x00EE })],
    ∃ c, Calm p.1 p.2 destName base c ∧ (c.any && (c.opD.isVec || c.opD.isScalar && decide (c.opD.index ≤ 59))) = true :=
  issuesIn_spec (by decide +kernel)

/-- The same with no lane active. -/
theorem wit_getfmt_none : ∃ c, Calm 0x00D { d := 0x0004 } destName (withGroup fun g => { g with slotA := { g.slotA with active := 0 } }) c ∧
    (!c.any && c.opD.isVec) = true := calm_of (by decide +kernel)

theorem wit_bra : ∃ c, Calm 0x002 { aux := 0xFFF8 } noNames base c ∧ (innermost c.g).isNone = true := calm_of (by decide +kernel)

theorem wit_brc_none : ∃ c, Calm 0x003 { grd := 0, aux := 4, b := 6 } noNames base c ∧
    (!c.any && decide (c.act &&& ~~~c.slot.owned = 0) && decide (c.g.depth ≤ 4 + c.record.stackN)) = true := calm_of (by decide +kernel)

theorem wit_brc_all : ∃ c, Calm 0x003 { grd := 7, aux := 4, b := 6 } noNames base c ∧
    (c.any && decide (c.act &&& ~~~c.slot.owned = 0) && decide (c.slot.owned &&& ~~~c.act = 0) && (innermost c.g).isNone &&
      decide (c.g.depth ≤ 4 + c.record.stackN)) = true := calm_of (by decide +kernel)

theorem wit_brc_next : ∃ c, Calm 0x003 { grd := 0, aux := 1, b := 6, bh := 0 } noNames halfP c ∧
    (c.any && decide (c.act &&& ~~~c.slot.owned = 0) && decide (instrs c 1 = c.pc + 12) && (innermost c.g).isNone &&
      decide (c.g.depth ≤ 4 + c.record.stackN)) = true := calm_of (by decide +kernel)

theorem wit_brc_split : ∃ c, Calm 0x003 { grd := 0, aux := 4, b := 6, bh := 2 } noNames halfP c ∧
    (c.any && decide (c.act &&& ~~~c.slot.owned = 0) && decide (c.slot.owned &&& ~~~c.act ≠ 0) && decide (instrs c 4 ≠ c.pc + 12) &&
      (innermost c.g).isNone && decide (c.g.depth + pushed c [] ≤ 4 + c.record.stackN) && decide (c.g.stack.length + pushed c [] ≤ 4) &&
      c.slot.owned.getLsbD 0 && c.act.getLsbD 0) = true := calm_of (by decide +kernel)

/-- The paths of `brx` on v2, and whether every active lane's target is aligned. -/
def brxPaths (c : Ctx) : List (Word × LaneMask) := pathsOf c.slot.owned fun l => if c.act.getLsbD l then xA c l else c.pc + 12
def brxAligned (c : Ctx) : Bool := (lanesOf c.act).all fun l => (xA c l).toNat % 12 == 0

theorem wit_brx_one : ∃ c, Calm 0x004 { a := 0x0008, b := 6 } noNames (targets 0x6C) c ∧
    ((innermost c.g).isNone && brxAligned c && decide ((brxPaths c).length = 1) && decide (c.g.depth ≤ 4 + c.record.stackN)) = true :=
  calm_of (by decide +kernel)

theorem wit_brx_two : ∃ c, Calm 0x004 { a := 0x0008, b := 6 } noNames (targets 0x78) c ∧
    ((innermost c.g).isNone && brxAligned c && decide ((brxPaths c).length = 2) && decide (c.g.depth + pushed c [] ≤ 4 + c.record.stackN) &&
      decide (c.g.stack.length + pushed c [] ≤ 4)) = true := calm_of (by decide +kernel)

/-- A group that has called from PC 0x60, and returns. -/
def called : State := withGroup fun g => { g with stack := [{ kind := .ret, tag := .slotA, fmt := 0, rpc := 0xFFFFFFFF, pc := 0x6C, mask := 0xFFFFFFFF }] }

theorem wit_calls : ∀ p ∈ [(0x005, ({ aux := 4 } : Fields)), (0x006, { a := 0x000A })],
    ∃ c, Calm p.1 p.2 noNames base c ∧ (decide (c.g.depth + 1 ≤ 4 + c.record.stackN) && decide (c.g.stack.length < 4) &&
      (decide (p.1 = 5) || !vectorValued c.g c.b c.opA && decide ((xA c 0).toNat % 12 = 0))) = true := by
  intro p hp
  simp only [List.mem_cons, List.not_mem_nil, or_false] at hp
  rcases hp with rfl | rfl <;> exact calm_of (by decide +kernel)

theorem wit_ret : ∃ c, Calm 0x007 {} noNames called c ∧
    ((match topEntry c.s c.g c.b with | some (i, some e) => e.kind == .ret && decide (i < c.g.stack.length) | _ => false) &&
      decide (c.g.deep = 0) && c.g.loops.all fun l => !l.opened) = true := calm_of (by decide +kernel)

/-- A return entry whose lanes have all exited. -/
def calledAway : State := called.setGroup 0 { called.group 0 with exited := 1, stack := (called.group 0).stack.map fun e => { e with mask := 1 } }
theorem wit_ret_empty : ∃ c, Calm 0x007 {} noNames calledAway c ∧
    ((match topEntry c.s c.g c.b with | some (i, some e) => e.kind == .ret && decide (i < c.g.stack.length) && decide (e.mask &&& c.g.liveLanes = 0) | _ => false) &&
      decide (c.g.deep = 0) && c.g.loops.all fun l => !l.opened) = true := calm_of (by decide +kernel)

theorem wit_loop : ∀ p ∈ [(0x009, ({ fn := 0, a := 0x000F, aux := 3 } : Fields)), (0x009, { fn := 0, a := 0x0003, aux := 3 })],
    ∃ c, Calm p.1 p.2 noNames base c ∧ (!vectorValued c.g c.b c.opA && !c.g.inh && !c.g.live true && !(keepLoops c 0).opened) = true :=
  issuesIn_spec (by decide +kernel)

theorem wit_loop_inner : ∃ c, Calm 0x009 { fn := 1, a := 0x000F, aux := 3 } noNames (withGroup fun g => { g with loops := [{ opened := true, count := 2, start := 0x60, stop := 0x6C, depth := g.depth }] }) c ∧
    (!vectorValued c.g c.b c.opA && !c.g.inh && !c.g.live true && (keepLoops c 0).opened && !(keepLoops c 1).opened) = true := calm_of (by decide +kernel)

theorem wit_lbrk : ∀ p ∈ [(0x00A, ({} : Fields)), (0x00A, { grd := 0 })],
    ∃ c, Calm p.1 p.2 noNames (withGroup fun g => { g with loops := [{ opened := true, count := 2, start := 0x60, stop := 0x6C, depth := g.depth }] }) c ∧
    (!c.g.inh && !c.g.live true && (match innermost c.g with | some (_, l) => decide (c.g.depth = l.depth) | none => false) &&
      (!c.any || decide (c.act = c.slot.active))) = true := issuesIn_spec (by decide +kernel)

theorem wit_loopEnd : ∃ c, Calm 0x001 {} noNames (looped 2) c ∧ (loopAt c.g c.pc).isSome = true := calm_of (by decide +kernel)
theorem wit_loopEnd_last : ∃ c, Calm 0x001 {} noNames (looped 1) c ∧ (loopAt c.g c.pc).isSome = true := calm_of (by decide +kernel)

/-- The other words that the statement names, at END. -/
theorem wit_loopEnd_words : (∃ c, Calm 0x00B {} noNames (looped 2) c ∧ (loopAt c.g c.pc).isSome = true) ∧
    ∀ p ∈ [(0x040, vv 0), (0x062, v 0), (0x0C0, vv 8), (0x150, vv 0x10)], ∃ c, Calm p.1 p.2 destName (looped 1) c ∧ (loopAt c.g c.pc).isSome = true :=
  ⟨calm_of (by decide +kernel), issuesIn_spec (by decide +kernel)⟩

theorem wit_exit_none : ∃ c, Calm 0x008 { grd := 0 } noNames base c ∧ (!c.any) = true := calm_of (by decide +kernel)
theorem wit_exit_some : ∃ c, Calm 0x008 { grd := 0 } noNames halfP c ∧ (c.any && !c.g.inh && decide (c.slot.owned &&& ~~~c.act ≠ 0)) = true :=
  calm_of (by decide +kernel)
theorem wit_exit_all : ∃ c, Calm 0x008 {} noNames base c ∧ (c.any && !c.g.inh && decide (c.slot.owned &&& ~~~c.act = 0) &&
    c.g.stack.isEmpty && decide (c.g.deep = 0) && (c.g.slot (!c.b)).vacant && !c.record.pop) = true := calm_of (by decide +kernel)

/-! ## Matrix and memory words -/

/-- A record of rank 2, 16-bit elements, CLIP 0, SWZ 2, extents 100 and 50, STRIDE1 256 (11, the worked example of R253, at another
BASE). -/
def rec2 (b : Nat) : Nat := b + 2 * 2 ^ 64 + 2 * 2 ^ 72 + 2 * 2 ^ 77 + 100 * 2 ^ 96 + 50 * 2 ^ 128 + 256 * 2 ^ 320

/-- FP16 operands in the format register, t2 set, s8:s9 at 0x1000_1000, v1 the lane number, v4 = 37 and v5 = 5, 4 KiB of scratchpad. -/
def memBase : State :=
  let s := withGroup fun g => { g with
    slotA := { g.slotA with fmt := 0x99 }, sregs := [(8, 0x10001000), (9, 0)],
    vregs := [(1, { vals := (List.range 32).map (BitVec.ofNat 32), poison := 0 }),
              (4, { vals := List.replicate 32 37, poison := 0 }), (5, { vals := List.replicate 32 5, poison := 0 })] }
  s.setTeam 0 { s.team 0 with trecs := [(2, rec2 0x10001000)], spLen := 0x1000 }

theorem wit_mma : ∀ p ∈ [(0x180, ({ fn := 0x00A, a := 0x0026, b := 0x0032 } : Fields)), (0x181, { fn := 0x00A, a := 0x0020, b := 0x0032 }),
      (0x182, { fn := 0x00A, a := 0x0022, b := 0x0032, aux := 0x2000 })],
    ∃ c, Calm p.1 p.2 noNames memBase c ∧ (c.any && (mmaChecks c).isNone && opsOk mmaOperands c) = true := issuesIn_spec (by decide +kernel)

/-- The access at `a` lands in global memory or the scratchpad, at once. -/
def landsAt (c : Ctx) (a : Nat) : Option Target :=
  match c.s.aim (c.s.who c.k) (laneForm c.opc c.f) a with
  | .ok tg => if c.s.laneWalked (c.s.who c.k) (laneForm c.opc c.f) a = c.s ∧ c.s.prepared (c.s.who c.k) (laneForm c.opc c.f) tg = (c.s, false)
              then some tg else none
  | .error _ => none

theorem lands_of {c : Ctx} {a : Nat} {tg : Target} (h : landsAt c a = some tg) : Lands c a tg := by
  unfold landsAt at h
  split at h
  · rename_i hx
    split at h
    · rename_i hp; cases h; exact ⟨hp.1, hx, hp.2⟩
    · exact absurd h (by simp)
  · exact absurd h (by simp)

def globalAt (c : Ctx) (a : Nat) : Bool :=
  match landsAt c a with | some (.mem pa none) => c.s.cores.all fun p => p.2.silt.all fun y => decide (y.line ≠ lineOf pa) | _ => false
def scratchAt (c : Ctx) (a : Nat) : Bool := match landsAt c a with | some (.sp _ _) => c.s.cores.all fun p => p.2.spHolds.isEmpty | _ => false
/-- The L1 has room for `n` lines. -/
def hasRoom (c : Ctx) (n : Nat) : Bool := decide ((here c).lines.length + (here c).misses.length + n ≤ State.l1Lines (here c).split)

/-- No launch waits for a counter, the group is resident and has its clock, and the walks of the addresses have all been made. -/
def settled (c : Ctx) (vas : List Nat) : Bool :=
  c.s.launches.all (fun p => decide (p.2.stage ≠ .waiting)) && c.s.clockRuns c.g.core && c.team.resident &&
  decide (c.s.walkedAll c.g.core c.asid vas = c.s)

/-- A tile that is free and that no queue entry names. -/
def freeTile (c : Ctx) (n : Nat) : Bool := decide ((tileOf c.s c.g.core n).owner = none) && (here c).mq.isEmpty

theorem freeTile_ready {c : Ctx} {n : Nat} (h : freeTile c n = true) : TileReady c n := by
  simp only [freeTile, Bool.and_eq_true, decide_eq_true_eq, List.isEmpty_iff] at h
  exact ⟨Or.inl h.1, by rw [h.2]; simp⟩

theorem wit_accz : ∀ p ∈ [(0x188, ({ fn := 7 } : Fields)), (0x188, { fn := 8 }), (0x18A, { fn := 3, a := 0x0004, b := 0x03FF }), (0x18A, { fn := 3, a := 0x0004, b := 0x000B })],
    ∃ c, Calm p.1 p.2 noNames memBase c ∧ (c.any && freeTile c (p.2.fn.toNat % 8) && decide ((tileOf c.s c.g.core 3).poison = []) &&
      (decide (p.1 = 0x188) || !vectorValued c.g c.b c.opB)) = true := by
  intro p hp
  simp only [List.mem_cons, List.not_mem_nil, or_false] at hp
  rcases hp with rfl | rfl | rfl | rfl <;> exact calm_of (by decide +kernel)

/-- A released tile enters the queue at once where the multiply phases before it have begun. -/
theorem wit_acczRelease : ∃ c, Calm 0x188 { fn := 8 } noNames memBase c ∧
    (c.any && c.f.fn.toNat.testBit 3 && decide ((tileOf c.s c.g.core 0).owner = none) && (here c).mq.all fun e => e.multiplying) = true :=
  calm_of (by decide +kernel)

theorem wit_accrd : ∃ c, Calm 0x189 { fn := 3, d := 0x0004, b := 0x000B, la := 3 } destName memBase c ∧
    (c.any && freeTile c 3 && c.opD.isVec && !vectorValued c.g c.b c.opB && decide ((tileOf c.s c.g.core 3).poison = [])) = true :=
  calm_of (by decide +kernel)

theorem wit_accst : ∃ c, Calm 0x18B { fn := 0x028, a := 0x0022, b := 0x000A } noNames (memBase.setGroup 0 { memBase.group 0 with sregs := [(2, 512), (8, 0x10001000)] }) c ∧
    (c.any && converged c.g && decide (c.act = c.slot.active) && freeTile c 2 && decide ((tileOf c.s c.g.core 2).poison = []) &&
      c.opA.isScalar && decide (c.opA.index ≤ 58) && decide (c.opA.index % 2 = 0) && !vectorValued c.g c.b c.opB &&
      decide (pairValue c c.opA % 16 = 0) && decide ((xB c 0).toNat = 512) && settled c ((accstPieces (pairValue c c.opA) 512 4).map (·.1)) &&
      (match c.s.intervals c.g.core c.asid .write ((accstPieces (pairValue c c.opA) 512 4).map fun p => (p.1, p.2.1)) with
        | .error _ => false
        | .ok ps => (ps.all fun p => !(((c.s.rangeOf p.1).map (·.2.exhausted)).getD false) && !c.s.rangeBlocked (some c.g.core) p.1 p.2.1 &&
              decide (p.2.2 = none)) && (here c).silt.isEmpty &&
            hasRoom c ((ps.map fun p => (State.linesOf p.1 p.2.1).length).sum))) = true := calm_of (by decide +kernel)

theorem wit_qnt : ∃ c, Calm 0x190 { fn := 0x00B, d := 0x00A0, a := 0x0100, b := 0x0018, aux := 0x001C }
      (fun c => (List.range (qntNames c.f)).map (c.opD.index + ·) ++ [c.opB.index, c.opC.index]) memBase c ∧
    (c.any && opsOk qntOperands c) = true := calm_of (by decide +kernel)

theorem wit_ldcb : ∃ c, Calm 0x191 { fn := 3, a := 0x0004 } noNames memBase c ∧ (c.any && c.opA.isVec) = true := calm_of (by decide +kernel)

/-- Lanes 0 and 31 reach, and where lane 31 reaches. -/
def reaches (c : Ctx) (p : Ctx → Nat → Bool) (a : Nat → Nat) : Bool := [0, 31].all fun l => (reaching c).contains l && p c (a l)

theorem wit_ld : ∃ c, Calm 0x1C0 { fn := 0x084, d := 0x0018, a := 0x0022, b := 0x0004, la := 2 } blockNames memBase c ∧
    (c.any && !loadDestBad c && pairOk c.opA && reaches c globalAt (laneAddr c) && hasRoom c (reaching c).length) = true :=
  calm_of (by decide +kernel)

theorem wit_ld_scalar : ∃ c, Calm 0x1C0 { fn := 0x085, d := 0x000A, a := 0x0022, b := 0x0003, aux := 0xFFFE } blockNames memBase c ∧
    (c.any && !loadDestBad c && pairOk c.opA && decide ((reaching c).length = 1) && hasRoom c 1 && globalAt c (laneAddr c 0)) = true :=
  calm_of (by decide +kernel)

theorem wit_lds : ∃ c, Calm 0x1C2 { fn := 0x084, d := 0x0018, a := 0x0003, b := 0x0004, aux := 0x0F00 } blockNames memBase c ∧
    (c.any && !loadDestBad c && !vectorValued c.g c.b c.opA && hasRoom c (reaching c).length && reaches c scratchAt (laneAddr c)) = true := calm_of (by decide +kernel)

theorem wit_ldTensor : ∃ c, Calm 0x1C4 { fn := 5, d := 0x001C, a := 0x0010, aux := 2 } blockNames memBase c ∧
    (c.any && (tensorChecks c).isNone && opsOk (tensorOperands loadDestBad) c && Tensor.inside (recordOf c) (laneCoords c 0) && decide (Tensor.clip (recordOf c) = 0) &&
      hasRoom c (reaching c).length && globalAt c (Tensor.addr (recordOf c) (laneCoords c 0))) = true := calm_of (by decide +kernel)

theorem wit_st : ∃ c, Calm 0x1C1 { fn := 0x084, d := 0x0010, a := 0x0022, b := 0x0004 } noNames memBase c ∧
    (c.any && !storeDataBad c && pairOk c.opA && hasRoom c (reaching c).length && reaches c globalAt (laneAddr c)) = true := calm_of (by decide +kernel)

theorem wit_sts : ∃ c, Calm 0x1C3 { fn := 0x084, d := 0x0010, a := 0x0003, b := 0x0004 } noNames memBase c ∧
    (c.any && !storeDataBad c && !vectorValued c.g c.b c.opA && reaches c scratchAt (laneAddr c)) = true := calm_of (by decide +kernel)

theorem wit_stTensor : ∃ c, Calm 0x1C5 { fn := 5, d := 0x001C, a := 0x0010, aux := 2 } noNames memBase c ∧
    (c.any && (tensorChecks c).isNone && opsOk (tensorOperands storeDataBad) c && Tensor.inside (recordOf c) (laneCoords c 0) && decide (Tensor.clip (recordOf c) = 0) &&
      hasRoom c (reaching c).length && globalAt c (Tensor.addr (recordOf c) (laneCoords c 0))) = true := calm_of (by decide +kernel)

/-- 11, the worked example of R253: element (37, 5) stands at offset 0x55A of its tensor. -/
theorem test_tensorAddr : Tensor.addr (rec2 0x4000000000) [37, 5] = 0x400000055A ∧ Tensor.inside (rec2 0) [100, 5] = false ∧
    Tensor.inside (rec2 0) [-1, 0] = false := by decide +kernel

/-! ## Shape records, windows, copies, ordering -/

/-- The same machine with scalars s2 = 0x100, s3 = 0x200, s4 = 16, s5 = 0, s6 = 64, and p0 holding lane 5 alone. -/
def ioBase : State :=
  memBase.setGroup 0 { memBase.group 0 with
    sregs := [(2, 0x100), (3, 0x200), (4, 16), (6, 64), (8, 0x10001000)], preds := [0x20] }

theorem wit_tset : ∀ p ∈ [(0x1C8, ({ fn := 0x8F2, b := 0x1234, aux := 0x5678 } : Fields)), (0x1C8, { fn := 0x002, a := 0x000A })],
    ∃ c, Calm p.1 p.2 noNames ioBase c ∧ (c.any && (p.2.imm32 || !vectorValued c.g c.b c.opA)) = true := by
  intro p hp
  simp only [List.mem_cons, List.not_mem_nil, or_false] at hp
  rcases hp with rfl | rfl <;> exact calm_of (by decide +kernel)

theorem wit_pref : ∃ c, Calm 0x1C9 { fn := 0x080, a := 0x0022, b := 0x0004 } noNames ioBase c ∧ pairOk c.opA = true := calm_of (by decide +kernel)

/-- What `wmap` asks of its operands, with the place of every word found. -/
def mapOk (c : Ctx) : Bool :=
  let sp := (xA c 0).toNat
  let gb := pairValue c c.opB
  let len := (xC c 0).toNat
  let w := decide (c.f.fn = 1)
  !vectorValued c.g c.b c.opA && pairOk c.opB && !vectorValued c.g c.b c.opC && decide (len ≠ 0) && decide (sp % 4 = 0) &&
  decide (gb % 4 = 0) && decide (len % 4 = 0) && decide (sp % 64 = gb % 64) && c.s.ownRange c.team sp len &&
  settled c ((CopyCmd.pages 10 gb len).map Prod.fst) && decide (c.team.windows.length < 16) && decide (c.s.coreWindows (State.spPlace c.team.core sp).1 < 64) &&
  (match c.s.intervals c.g.core c.asid (if w then .write else .read) (CopyCmd.pages 10 gb len) with
   | .error _ => false
   | .ok ps => !c.s.tableFull ((State.intervalWords ps).map (·.1)) && !c.s.overlaps w ((State.intervalWords ps).map (·.1))) &&
  c.team.windows.all fun x => decide (x.sp + x.len ≤ sp ∨ sp + len ≤ x.sp)

theorem wit_wmap : ∀ p ∈ [(0x1D0, ({ fn := 0, a := 0x000A, b := 0x0022, aux := 0x001A } : Fields)), (0x1D0, { fn := 1, a := 0x000A, b := 0x0022, aux := 0x001A })],
    ∃ c, Calm p.1 p.2 noNames ioBase c ∧ (c.any && mapOk c) = true := issuesIn_spec (by decide +kernel)

theorem wit_wmap_none : ∃ c, Calm 0x1D0 { a := 0x000A, b := 0x0022, aux := 0x0003 } noNames ioBase c ∧
    (c.any && !vectorValued c.g c.b c.opA && pairOk c.opB && !vectorValued c.g c.b c.opC && decide ((xC c 0).toNat = 0)) = true :=
  calm_of (by decide +kernel)

/-- A window of two words at scratchpad 0x100, one valid and clean, one dirty. -/
def windowed : State :=
  ioBase.setTeam 0 { ioBase.team 0 with windows :=
    [{ sp := 0x100, gb := 0x10001000, len := 8, writable := true, place := [0x10001000, 0x10001004], valid := [true, true], dirty := [false, true],
       log := [none, none] }] }

theorem wit_windowsKept : ∀ p ∈ [(0x1D3, ({ a := 0x000A } : Fields)), (0x1D2, { fn := 2 }), (0x1D1, { a := 0x000A })],
    ∃ c, Calm p.1 p.2 noNames windowed c ∧
      (c.any && (decide (p.2.fn = 2) || !vectorValued c.g c.b c.opA && decide ((xA c 0).toNat = 0x100)) &&
        settled c [] && !c.s.lineBlocked (some c.g.core) (lineOf 0x10001004) && c.team.windows.all fun w => !c.s.dirtyClaimed c.team w) = true := by
  intro p hp
  simp only [List.mem_cons, List.not_mem_nil, or_false] at hp
  rcases hp with rfl | rfl | rfl <;> exact calm_of (by decide +kernel)

/-- What a copy asks of its operands. -/
def copyOk (form : CopyForm) (rows : Bool) (c : Ctx) : Bool :=
  let list := scalarAt c (c.f.aux.toNat / 64 % 64)
  let p := State.spPlace c.g.core list
  let n := 4 * ((nextReg c c.opB 0).at 0).toNat
  c.any && opsOk (copyOperands form) c && (copyFault c (copyCommand form c) list).isNone && decide ((copyCommand form c).total < 65536) &&
  decide ((here c).copies.length < 32) && (!rows || decide (c.s.askFill p.1 p.2 n = (c.s, false)) && !c.s.spClaimed p.1 p.2 n)

theorem wit_cpy_g2s : ∃ c, Calm 0x1E0 { d := 0x000A, a := 0x0022, b := 0x0043 } noNames ioBase c ∧ copyOk .g2s false c = true := calm_of (by decide +kernel)
theorem wit_cpy_s2g : ∃ c, Calm 0x1E1 { d := 0x0022, a := 0x000A, b := 0x0043 } noNames ioBase c ∧ copyOk .s2g false c = true := calm_of (by decide +kernel)
theorem wit_cpy_g2k : ∃ c, Calm 0x1E2 { d := 0x000A, a := 0x0022, b := 0x0043 } noNames ioBase c ∧ copyOk .g2k false c = true := calm_of (by decide +kernel)
theorem wit_cpy_s2k : ∃ c, Calm 0x1E3 { d := 0x000A, a := 0x000E, b := 0x0043 } noNames ioBase c ∧ copyOk .s2k false c = true := calm_of (by decide +kernel)
theorem wit_cpy_s2s : ∃ c, Calm 0x1E4 { fn := 0x200, d := 0x000A, a := 0x000E, b := 0x0043, aux := 2 } noNames ioBase c ∧ copyOk .s2s false c = true :=
  calm_of (by decide +kernel)
theorem wit_cpy_gat : ∃ c, Calm 0x1E5 { fn := 0x040, d := 0x000A, a := 0x0022, b := 0x000F, aux := 0x00C0 } noNames ioBase c ∧ copyOk .gat true c = true :=
  calm_of (by decide +kernel)
theorem wit_cpy_sct : ∃ c, Calm 0x1E6 { fn := 0x040, d := 0x0022, a := 0x000A, b := 0x000F, aux := 0x00C0 } noNames ioBase c ∧ copyOk .sct true c = true :=
  calm_of (by decide +kernel)

/-- A core with a dirty byte in its L1. -/
def dirtyL1 : State := ioBase.setCore 0 { ioBase.core 0 with lines := [0x10001000 / 128], l1 := [(0x10001000, 7)] }

theorem wit_fence_acquire : ∃ c, Calm 0x240 { fn := 0x280 } noNames ioBase c ∧ decide (c.f.fn.toNat / 128 % 16 < 6) = true := calm_of (by decide +kernel)
theorem wit_fence_release : ∃ c, Calm 0x240 { fn := 0x480 } noNames dirtyL1 c ∧
    (decide (6 ≤ c.f.fn.toNat / 128 % 16) && decide ((c.f.fn.toNat / 128 % 16 - 1) % 5 = 3) &&
      !(c.s.releaseLines c.g.core c.g.team true).any (c.s.lineBlocked (some c.g.core)) && !c.s.peersOpen c.k &&
      !c.s.windowLogHolds c.g.team (fun _ => true) && (c.s.release? (c.s.who c.k) true false).2 &&
      settled c [] && c.team.windows.isEmpty && (here c).silt.isEmpty && decide ((here c).l1.map Prod.fst).Nodup) = true := calm_of (by decide +kernel)

/-- One active lane, and the address of its access there. -/
def oneLane (c : Ctx) : Bool := c.any && decide (reaching c = [5]) && decide (5 < c.g.width) && decide ((here c).l1.map Prod.fst).Nodup

theorem wit_atom_mem : ∀ p ∈ [(0x241, ({ fn := 0x004, grd := 0, d := 0x0018, a := 0x0022, b := 0x000C } : Fields)),
      (0x242, { fn := 0x004, grd := 0, d := 0x0018, a := 0x0022, b := 0x000C }), (0x241, { fn := 0x068, grd := 0, d := 0x0018, a := 0x0022, b := 0x000C })],
    ∃ c, Calm p.1 p.2 destName ioBase c ∧
      (oneLane c && pairOk c.opA && c.opD.isVec && decide (c.opD.index + 2 ≤ c.record.vregs) && globalAt c (laneAddr c 5)) = true :=
  issuesIn_spec (by decide +kernel)

theorem wit_atom_scratch : ∀ p ∈ [(0x241, ({ fn := 0x004, grd := 0, d := 0x0018, a := 0x000A, b := 0x000C, aux := 0x8004 } : Fields)),
      (0x242, { fn := 0x004, grd := 0, d := 0x0018, a := 0x000A, b := 0x000C, aux := 0x8000 })],
    ∃ c, Calm p.1 p.2 destName ioBase c ∧
      (oneLane c && !vectorValued c.g c.b c.opA && c.opD.isVec && scratchAt c (laneAddr c 5)) = true := issuesIn_spec (by decide +kernel)

theorem wit_red : ∀ p ∈ [(0x243, ({ fn := 0x014, grd := 0, d := 0x0010, a := 0x0022, b := 0x000C } : Fields)),
      (0x243, { fn := 0x014, grd := 0, d := 0x0010, a := 0x000A, b := 0x000C, aux := 0x8000 })],
    ∃ c, Calm p.1 p.2 noNames ioBase c ∧
      (oneLane c && !c.opD.isPred && (globalAt c (laneAddr c 5) || scratchAt c (laneAddr c 5)) && decide ((here c).silt.length < 64)) = true :=
  issuesIn_spec (by decide +kernel)

/-- A cooperative launch of four slots a team. -/
def teamBase : State :=
  base.setLaunch 0 { base.launch 0 with record := { (base.launch 0).record with slots := 4, coop := true } }
/-- The same with another group of the team. -/
def teamTwo : State := teamBase.setGroup 1 { teamBase.group 0 with grpid := 1 }

/-- What an arrival at barrier 3 asks of operands and state, and whether it completes the barrier. -/
def arrival (c : Ctx) : Option Bool :=
  let b := c.team.barriers.getD 3 {}
  let n := (xA c 0).toNat
  let x : Barrier := { mask := b.mask + 2 ^ c.g.grpid, count := if b.mask = 0 then n else b.count, phase := b.phase }
  if converged c.g && decide (c.act = c.slot.active) && !vectorValued c.g c.b c.opA && !b.mask.testBit c.g.grpid &&
     decide (n ≤ c.record.slots * 32 / c.g.width) && (decide (b.mask = 0) || decide (n = b.count)) &&
     (c.s.release? (c.s.who c.k) false false).2 && decide (c.s.groups.map Prod.fst).Nodup then
    some (if x.count = 0 then c.s.groups.all fun p => decide (p.2.team ≠ c.g.team) || !p.2.counts || x.mask.testBit p.2.grpid
          else decide (x.count ≤ ((List.range 32).filter fun i => x.mask.testBit i).length))
  else none

theorem wit_barrier_waits : ∀ p ∈ [(0x249, ({ fn := 3, a := 0x000B } : Fields)), (0x248, { fn := 3, a := 0x0013 })],
    ∃ c, Calm p.1 p.2 noNames teamBase c ∧ decide (arrival c = some false) = true := issuesIn_spec (by decide +kernel)

theorem wit_barrier_done : ∀ p ∈ [(0x248, ({ fn := 3, a := 0x0007 } : Fields)), (0x248, { fn := 3, a := 0x0003 })],
    ∃ c, Calm p.1 p.2 noNames teamBase c ∧ (decide (arrival c = some true) && decide (c.s.groups.map Prod.fst).Nodup &&
      c.s.groups.all fun p => decide (p.2.wait ≠ .barrierNext 3)) = true :=
  issuesIn_spec (by decide +kernel)

/-- The same with half of the lanes parked. -/
def parted : State := teamBase.setGroup 0 (let g := teamBase.group 0; { g with slotA := { g.slotA with active := 0xFFFF } })

/-- What an arrival that traps or that waits for the next phase finds: a count that is vector-valued or does not fit, a group that is not whole, a bit
that is set. -/
theorem wit_barrier_traps :
    (∀ p ∈ [(0x249, ({ fn := 3, a := 0x0008 } : Fields)), (0x248, { fn := 3, a := 0x0008 })],
      ∃ c, Calm p.1 p.2 noNames teamBase c ∧ vectorValued c.g c.b c.opA = true) ∧
    (∀ p ∈ [(0x249, ({ fn := 3, a := 0x0017 } : Fields)), (0x248, { fn := 3, a := 0x0017 })],
      ∃ c, Calm p.1 p.2 noNames teamBase c ∧ (converged c.g && decide (c.act = c.slot.active) && !vectorValued c.g c.b c.opA &&
        decide (c.record.slots * 32 / c.g.width < (xA c 0).toNat)) = true) ∧
    (∀ p ∈ [(0x249, ({ fn := 3, a := 0x000B } : Fields)), (0x248, { fn := 3, a := 0x000B }), (0x24A, { fn := 3 }), (0x24B, {})],
      ∃ c, Calm p.1 p.2 noNames parted c ∧ ((decide (0x24A ≤ c.opc) || !vectorValued c.g c.b c.opA) && !converged c.g) = true) ∧
    (∃ c, Calm 0x24B {} noNames base c ∧ (!c.record.coop) = true) ∧
    ∀ p ∈ [(0x249, ({ fn := 3, a := 0x000B } : Fields)), (0x248, { fn := 3, a := 0x000B })],
      ∃ c, Calm p.1 p.2 noNames (teamBase.setTeam 0 { teamBase.team 0 with barriers := [(3, { mask := 1, count := 2 })] }) c ∧
        (converged c.g && decide (c.act = c.slot.active) && !vectorValued c.g c.b c.opA && (c.team.barriers.getD 3 {}).mask.testBit c.g.grpid) = true :=
  ⟨issuesIn_spec (by decide +kernel), issuesIn_spec (by decide +kernel), issuesIn_spec (by decide +kernel), calm_of (by decide +kernel),
   issuesIn_spec (by decide +kernel)⟩

theorem wit_barWt : ∃ c, Calm 0x24A { fn := 3 } noNames teamBase c ∧
    (converged c.g && decide (c.act = c.slot.active) && !(c.team.barriers.getD 3 {}).mask.testBit c.g.grpid) = true := calm_of (by decide +kernel)
theorem wit_barWt_waits : ∃ c, Calm 0x24A { fn := 3 } noNames (teamBase.setTeam 0 { teamBase.team 0 with barriers := [(3, { mask := 1, count := 2 })] }) c ∧
    (converged c.g && decide (c.act = c.slot.active) && (c.team.barriers.getD 3 {}).mask.testBit c.g.grpid) = true := calm_of (by decide +kernel)

theorem wit_gbar : ∃ c, Calm 0x24B {} noNames teamTwo c ∧
    (converged c.g && decide (c.act = c.slot.active) && c.record.coop && (c.s.release? (c.s.who c.k) true false).2 && c.g.counts &&
      c.s.groups.any fun p => decide (p.1 ≠ c.k) && decide (c.s.launchOf p.2 = c.launchKey) && p.2.counts && decide (p.2.wait = .none)) = true :=
  calm_of (by decide +kernel)

/-- The last group of its launch to arrive. -/
theorem wit_gbar_last : ∃ c, Calm 0x24B {} noNames (teamBase.setLaunch 0 { teamBase.launch 0 with next := (teamBase.launch 0).record.teams }) c ∧
    (converged c.g && decide (c.act = c.slot.active) && c.record.coop && (c.s.release? (c.s.who c.k) true false).2 && c.g.counts &&
      decide (c.launch.next = c.record.teams) && c.s.groups.all fun p => decide (p.1 = c.k)) = true := calm_of (by decide +kernel)
/-! ## Waits, locks, populations, the network, traps, the system -/

/-- The next state of an instruction, or the state itself. -/
def run (i : Instr) (s : State) : State := match exec i s with | .next t => t | _ => s

/-- What `waita` finds, and whether its condition holds (`cond`: of the word and the value compared). -/
def waits (c : Ctx) (cond : Nat → Nat → Bool) (zero : Bool) : Bool :=
  let sp := c.f.fn.toNat.testBit 3
  let wide := c.f.fn.toNat.testBit 2
  let n := if wide then 8 else 4
  let addr := if sp then (xA c 0).toNat else pairValue c c.opA
  c.any && converged c.g && decide (c.act = c.slot.active) && (c.opD.isVec || c.opD.isScalar && decide (c.opD.index ≤ 59)) && !c.opD.hold && c.s.cores.all (fun p => p.2.spHolds.isEmpty) &&
  (if sp then !vectorValued c.g c.b c.opA else pairOk c.opA) && !vectorValued c.g c.b c.opB && !vectorValued c.g c.b c.opC &&
  (!wide || c.opB.isImm || c.opB.isScalar && decide (c.opB.index ≤ 58) && decide (c.opB.index % 2 = 0)) && decide ((xC c 0 = 0) = zero) &&
  match waitaPlace c.s (c.s.who c.k) sp wide addr with
  | .error _ => false
  | .ok (notify, place) =>
    if notify then cond (c.s.queue place).prod (waitaCompare c wide)
    else if sp then !c.s.spClaimed (place / 2 ^ 19) (place % 2 ^ 19) n && decide (c.s.askFill (place / 2 ^ 19) (place % 2 ^ 19) n = (c.s, false)) &&
      cond (ofBytes (c.s.spBytes (place / 2 ^ 19) (place % 2 ^ 19) n)) (waitaCompare c wide)
    else !c.s.lineBlocked (some c.g.core) (lineOf place) && settled c [addr] && c.s.cores.all (fun p => p.2.silt.isEmpty) &&
      cond (ofBytes (c.s.coreBytes c.g.core place n)) (waitaCompare c wide)

theorem wit_waita_true : ∃ c, Calm 0x250 { fn := 0x008, d := 0x0004, a := 0x000A, b := 0x0003, aux := 0x03FF } destName ioBase c ∧
    waits c (fun v w => decide (v = w)) false = true := calm_of (by decide +kernel)
theorem wit_waita_zero : ∃ c, Calm 0x250 { fn := 0x006, d := 0x0086, a := 0x0022, b := 0x0013, aux := 0x0003 } destName ioBase c ∧
    waits c (fun v w => !decide (w ≤ v)) true = true := calm_of (by decide +kernel)
theorem wit_waita_waits : ∃ c, Calm 0x250 { fn := 0x001, d := 0x0004, a := 0x0022, b := 0x0003, aux := 0x03FF } destName ioBase c ∧
    waits c (fun v w => !decide (v ≠ w)) false = true := calm_of (by decide +kernel)

/-- The machine with half of the lanes parked. -/
def ioParted : State := ioBase.setGroup 0 (let g := ioBase.group 0; { g with slotA := { g.slotA with active := 0xFFFF } })

/-- D, A, B and C that `waita` does not take, and a group that is not whole. -/
theorem wit_waita_traps : (∃ c, Calm 0x250 { fn := 0x008, d := 0x0041, a := 0x000A, b := 0x0003, aux := 0x03FF } destName ioBase c ∧ c.opD.isPred = true) ∧
    (∃ c, Calm 0x250 { fn := 0x000, d := 0x0004, a := 0x0008, b := 0x0003, aux := 0x03FF } destName ioBase c ∧ (c.opD.isVec && !c.opD.hold && !pairOk c.opA) = true) ∧
    (∃ c, Calm 0x250 { fn := 0x008, d := 0x0004, a := 0x000A, b := 0x0008, aux := 0x03FF } destName ioBase c ∧
      (c.opD.isVec && !c.opD.hold && !vectorValued c.g c.b c.opA && vectorValued c.g c.b c.opB) = true) ∧
    (∃ c, Calm 0x250 { fn := 0x008, d := 0x0004, a := 0x000A, b := 0x0003, aux := 0x0010 } destName ioBase c ∧
      (c.opD.isVec && !c.opD.hold && !vectorValued c.g c.b c.opA && !vectorValued c.g c.b c.opB && vectorValued c.g c.b c.opC) = true) ∧
    ∃ c, Calm 0x250 { fn := 0x008, d := 0x0004, a := 0x000A, b := 0x0003, aux := 0x03FF } destName ioParted c ∧
      (c.opD.isVec && !c.opD.hold && !vectorValued c.g c.b c.opA && !vectorValued c.g c.b c.opB && !vectorValued c.g c.b c.opC && !converged c.g) = true :=
  ⟨calm_of (by decide +kernel), calm_of (by decide +kernel), calm_of (by decide +kernel), calm_of (by decide +kernel), calm_of (by decide +kernel)⟩

/-- The lock of record s8:s9, its word and the number that names this group. -/
def lockSeen (c : Ctx) (acquire : Bool) : Option (Nat × Nat) :=
  match c.s.lockAt (c.s.who c.k) (pairValue c c.opA) acquire with
  | .error _ => none
  | .ok (pa, _) =>
    if c.any && converged c.g && decide (c.act = c.slot.active) && pairOk c.opA && c.s.cores.all (fun p => p.2.silt.isEmpty) &&
       (c.s.cores.all fun p => p.2.l1.all fun x => decide (lineOf x.1 ≠ lineOf pa)) && !c.s.lineBlocked (some c.g.core) (lineOf pa) &&
       decide (c.s.lockQueued pa < 1024) && settled c [pairValue c c.opA] &&
       decide (c.s.rangesWalked c.g.core c.asid (State.lockRanges (c.s.homeNat pa 64)) = c.s) &&
       (match c.s.lockPlace (c.s.who c.k) (pairValue c c.opA) with | .ok y => !y.log | .error _ => true) then
      some (c.s.homeNat pa 4, 1 + 2 * (c.s.launchNumber c.g % (2 ^ 31 - 1) + 1))
    else none

/-- The machine after the group took the lock, and one in which another group holds it. -/
def locked : State := (run (.lkacq { a := 0x0022 }) ioBase)
def lockedByOther : State :=
  let s := locked
  s.setTeam 0 { s.team 0 with teamid := 1 }

theorem wit_lock_free : ∀ p ∈ [(0x258, ({ a := 0x0022 } : Fields)), (0x259, { d := 0x0004, a := 0x0022, la := 1 })],
    ∃ c, Calm p.1 p.2 (if p.1 = 0x258 then noNames else destName) ioBase c ∧
      (match lockSeen c true with | some (x, _) => decide (x % 2 = 0) | none => false) = true := by
  intro p hp
  simp only [List.mem_cons, List.not_mem_nil, or_false] at hp
  rcases hp with rfl | rfl <;> exact calm_of (by decide +kernel)

theorem wit_lock_own : ∃ c, Calm 0x258 { a := 0x0022 } noNames locked c ∧
    (match lockSeen c true with | some (x, y) => decide (x = y) | none => false) = true := calm_of (by decide +kernel)

theorem wit_lock_other : ∀ p ∈ [(0x258, ({ a := 0x0022 } : Fields)), (0x259, { d := 0x0004, a := 0x0022, la := 1 })],
    ∃ c, Calm p.1 p.2 (if p.1 = 0x258 then noNames else destName) lockedByOther c ∧
      (match lockSeen c true with | some (x, y) => decide (x % 2 = 1) && decide (x ≠ y) | none => false) = true := by
  intro p hp
  simp only [List.mem_cons, List.not_mem_nil, or_false] at hp
  rcases hp with rfl | rfl <;> exact calm_of (by decide +kernel)

theorem wit_lkrel : ∃ c, Calm 0x25A { a := 0x0022 } noNames locked c ∧
    (decide (c.s.release? (c.s.who c.k) true true = (c.s, true)) && c.s.lockq.isEmpty &&
      (match lockSeen c false with | some (x, y) => decide (x = y) | none => false)) = true := calm_of (by decide +kernel)

/-- `lkrel` of a group that does not hold the lock, and of one that does with another waiting for it. -/
theorem wit_lkrel_other : ∃ c, Calm 0x25A { a := 0x0022 } noNames lockedByOther c ∧
    (decide (c.s.release? (c.s.who c.k) true true = (c.s, true)) && (match lockSeen c false with | some (x, y) => decide (x ≠ y) | none => false)) = true :=
  calm_of (by decide +kernel)
def lockedAwaited : State :=
  { locked.setGroup 1 { locked.group 0 with grpid := 1, locks := [], wait := .lock { record := 0x10001000, ranges := [] } } with lockq := [(0x10001000, [1])] }
theorem wit_lkrel_passes : ∃ c, Calm 0x25A { a := 0x0022 } noNames lockedAwaited c ∧
    (decide (c.s.release? (c.s.who c.k) true true = (c.s, true)) && decide (c.s.lockq.getD 0x10001000 [] = [1]) && decide (c.s.tracer (c.s.group 1) = none) &&
      (match lockSeen c false with | some (x, y) => decide (x = y) | none => false) &&
      (match c.s.lockAt (c.s.who c.k) (pairValue c c.opA) false with | .ok (pa, _) => decide (pa = 0x10001000) | .error _ => false)) = true :=
  calm_of (by decide +kernel)
/-- An A that is no pair, a D that `lktry` may not give, and a group that is not whole. -/
theorem wit_lock_traps : (∀ p ∈ [(0x258, ({ a := 0x0008 } : Fields)), (0x25A, { a := 0x0008 })], ∃ c, Calm p.1 p.2 noNames ioBase c ∧ (!pairOk c.opA) = true) ∧
    (∀ p ∈ [(0x258, ({ a := 0x0022 } : Fields)), (0x25A, { a := 0x0022 })],
      ∃ c, Calm p.1 p.2 noNames ioParted c ∧ (pairOk c.opA && !converged c.g) = true) ∧
    (∃ c, Calm 0x259 { d := 0x0041, a := 0x0022, la := 1 } destName ioBase c ∧ c.opD.isPred = true) ∧
    (∃ c, Calm 0x259 { d := 0x0004, a := 0x0008, la := 1 } destName ioBase c ∧ (c.opD.isVec && !pairOk c.opA) = true) ∧
    ∃ c, Calm 0x259 { d := 0x0004, a := 0x0022, la := 1 } destName ioParted c ∧ (c.opD.isVec && pairOk c.opA && !converged c.g) = true :=
  ⟨issuesIn_spec (by decide +kernel), issuesIn_spec (by decide +kernel), calm_of (by decide +kernel), calm_of (by decide +kernel), calm_of (by decide +kernel)⟩

/-- A population launch and a cooperative one, of one team of four slots. -/
def popBase : State :=
  ioBase.setLaunch 0 { ioBase.launch 0 with record := { (ioBase.launch 0).record with slots := 4, pop := true, popCap := 128 } }
def coopBase : State :=
  ioBase.setLaunch 0 { ioBase.launch 0 with record := { (ioBase.launch 0).record with slots := 4, coop := true } }

theorem wit_resample : ∀ p ∈ [(0x280, ({ fn := 1, a := 0x0012, b := 0x0024, aux := 8 } : Fields)), (0x280, { fn := 0, a := 0x0012, b := 0x0004 })],
    ∃ c, Calm p.1 p.2 noNames popBase c ∧
      (c.any && (resampleChecks c).isNone && opsOk resampleOperands c && decide (c.s.release? (c.s.who c.k) true false = (c.s, true)) && c.g.windows.isEmpty &&
        c.s.groups.all fun p => decide (p.2.wait ≠ .gbar)) = true := issuesIn_spec (by decide +kernel)

theorem wit_reorder : ∃ c, Calm 0x281 { fn := 2, a := 0x0004, b := 0x0010, aux := 5 } noNames coopBase c ∧
    (c.any && (reorderChecks c).isNone && opsOk reorderOperands c && decide (c.s.release? (c.s.who c.k) true false = (c.s, true)) && c.g.windows.isEmpty && !c.g.inh &&
      decide (c.slot.owned &&& ~~~c.act = 0) && c.g.stack.isEmpty && decide (c.g.deep = 0) && (c.g.slot (!c.b)).vacant && !c.record.pop) = true :=
  calm_of (by decide +kernel)

theorem wit_popq : ∀ p ∈ [(0x282, ({ fn := 2, d := 0x0004, la := 1 } : Fields)), (0x282, { fn := 8, d := 0x00EE }), (0x283, { fn := 2, d := 0x0021 })],
    ∃ c, Calm p.1 p.2 destName popBase c ∧ (c.any && (c.opD.isVec || c.opD.isQ0 || c.opD.isScalar && decide (c.opD.index ≤ 59))) = true :=
  issuesIn_spec (by decide +kernel)

theorem wit_lineage : ∀ p ∈ [(0x283, ({ fn := 0, d := 0x0018 } : Fields)), (0x283, { fn := 1, d := 0x03F8 })],
    ∃ c, Calm p.1 p.2 (fun c => [c.opD.index, c.opD.index + 1]) popBase c ∧ (c.any && c.opD.isVec && decide (c.opD.index + 1 < c.record.vregs)) = true :=
  issuesIn_spec (by decide +kernel)

/-- A network context for the address space of the group. -/
def netBase : State := ioBase.setNet 3 { asid := 0, valid := true, state := 1 }

theorem wit_nwr : ∃ c, Calm 0x2A0 { fn := 0x012, a := 0x0042 } noNames netBase c ∧
    (c.any && decide (c.s.netOf c.asid = some 3) && decide ((((c.s.net 3).queues.getD 2 {}).reqs).length < 64) &&
      decide (c.s.release? (c.s.who c.k) true true = (c.s, true)) && c.opA.isScalar && decide (c.opA.index ≤ 44)) = true := calm_of (by decide +kernel)

theorem wit_nwr_scratch : ∃ c, Calm 0x2A0 { fn := 0x00F, a := 0x000A } noNames netBase c ∧
    (let sa := (xA c 0).toNat
     let p := State.spPlace c.g.core sa
     c.any && decide (c.s.netOf c.asid = some 3) && decide (c.s.release? (c.s.who c.k) true true = (c.s, true)) && !vectorValued c.g c.b c.opA &&
      decide (sa % 64 = 0) && c.s.spAllowed c.g.core c.asid sa 64 && decide (c.s.askFill p.1 p.2 64 = (c.s, false)) && !c.s.spClaimed p.1 p.2 64) = true :=
  calm_of (by decide +kernel)

/-- The machine after the group has posted a request, which stays open. -/
def posted : State := run (.nwr { fn := 0x012, a := 0x0042 }) netBase

theorem wit_nfence : ∃ c, Calm 0x2A1 { fn := 0x010 } noNames netBase c ∧ (c.any && !postedOpen c.s c.k none) = true := calm_of (by decide +kernel)
theorem wit_nfence_waits : ∃ c, Calm 0x2A1 { fn := 0x002 } noNames posted c ∧ (c.any && postedOpen c.s c.k (some 2)) = true := calm_of (by decide +kernel)
theorem wit_nstat : ∀ p ∈ [(0x2A2, ({ fn := 0x002, d := 0x0004 } : Fields)), (0x2A2, { fn := 0x032, d := 0x0012, la := 2 })],
    ∃ c, Calm p.1 p.2 destName posted c ∧ (c.any && decide (c.s.netOf c.asid = some 3) && (c.opD.isVec || c.opD.isScalar && decide (c.opD.index ≤ 59))) = true :=
  issuesIn_spec (by decide +kernel)

/-- A launch with a handler at 0x600, and a group in its handler. -/
def handled : State := base.setLaunch 0 { base.launch 0 with record := { (base.launch 0).record with handler := 0x600 } }
def trapped : State := run (.trap { aux := 0x12 }) handled
/-- The same, the group to end its launch on return. -/
def ending : State := run (.wrsr { a := 0x000B, aux := 9 }) trapped

theorem wit_trap : ∀ p ∈ [(0x2C0, ({ aux := 0x12 } : Fields)), (0x2C2, { aux := 0xFFFF })],
    ∃ c, Calm p.1 p.2 noNames handled c ∧
      (c.any && settled c [] && decide (c.record.handler ≠ 0) && !c.g.inh && !c.g.outstanding && !(c.s.func (c.s.vmidFunc c.launch.vmid)).dbgEn) = true :=
  issuesIn_spec (by decide +kernel)
theorem wit_trap_ends : ∀ p ∈ [(0x2C0, ({ aux := 0x12 } : Fields)), (0x2C2, {})],
    ∃ c, Calm p.1 p.2 noNames base c ∧ (c.any && settled c [] && decide (c.record.handler = 0) && decide (c.launch.stage = .admitted)) = true :=
  issuesIn_spec (by decide +kernel)
theorem wit_bkpt_debug : ∃ c, Calm 0x2C2 {} noNames (base.setFunc 0 { base.func 0 with dbgEn := true }) c ∧
    (c.any && (c.s.func (c.s.vmidFunc c.launch.vmid)).dbgEn) = true := calm_of (by decide +kernel)

/-- 05, Table 5.10: a nonzero LA on a short-latency word; R109: a scalar D with a vector source. -/
theorem wit_illegal : ∀ f ∈ [({ d := 0x0006, a := 0x000A, b := 0x000E, la := 1 } : Fields), { d := 0x0006, a := 0x0004, b := 0x000E }],
    ∃ c, handled.ctx 0x040 f = some c ∧ settled c [] = true ∧ handled.tracer c.g = none ∧ c.record.handler ≠ 0 ∧ c.g.inh = false ∧ c.g.outstanding = false ∧
      (formTrap c).isSome = true := by
  intro f hf
  simp only [List.mem_cons, List.not_mem_nil, or_false] at hf
  rcases hf with rfl | rfl <;> exact ⟨_, rfl, by decide +kernel, by decide +kernel, by decide +kernel, by decide +kernel, by decide +kernel, by decide +kernel⟩

/-- A load and a store at addresses that the tables do not map. -/
def astray : State := memBase.setGroup 0 { memBase.group 0 with sregs := [(8, 0x10001000), (9, 0x100)] }
/-- Every lane that accesses fails its check, and its walk has been made. -/
def allFail (c : Ctx) : Bool :=
  c.any && !multiplies c.s c.g.core && !(reaching c).isEmpty && (reaching c).all fun l =>
    decide (c.s.laneWalked (c.s.who c.k) (laneForm c.opc c.f) (laneAddr c l) = c.s) &&
      match c.s.aim (c.s.who c.k) (laneForm c.opc c.f) (laneAddr c l) with | .error _ => true | .ok _ => false
theorem wit_failedLanes : (∃ c, Calm 0x1C0 { fn := 0x084, d := 0x0018, a := 0x0022, b := 0x0004, la := 2 } blockNames (astray.walkedAll 0 0 [0x10010001000]) c loadOperands ∧
      allFail c = true) ∧
    (∃ c, Calm 0x1C1 { fn := 0x084, d := 0x0010, a := 0x0022, b := 0x0004 } noNames (astray.walkedAll 0 0 [0x10010001000]) c storeOperands ∧ allFail c = true) ∧
    (∃ c, Calm 0x1C2 { fn := 0x084, d := 0x0018, a := 0x0003, b := 0x0004, aux := 0x2000 } blockNames memBase c loadOperands ∧ allFail c = true) ∧
    ∃ c, Calm 0x1C3 { fn := 0x084, d := 0x0010, a := 0x0003, b := 0x0004, aux := 0x2000 } noNames memBase c storeOperands ∧ allFail c = true :=
  ⟨calm_of (by decide +kernel), calm_of (by decide +kernel), calm_of (by decide +kernel), calm_of (by decide +kernel)⟩

theorem wit_rte : ∃ c, Calm 0x2C1 {} noNames trapped c ∧
    (c.any && c.g.inh && !c.g.live true && decide (c.g.depth = c.g.baseDepth) && (c.g.frame.map (·.replay.isNone)).getD false &&
      decide ((c.g.trapRegs.getD 9 0).toNat % 4 = 1)) = true := calm_of (by decide +kernel)
theorem wit_rte_ends : ∃ c, Calm 0x2C1 {} noNames ending c ∧
    (c.any && c.g.inh && !c.g.live true && decide (c.g.depth = c.g.baseDepth) && (c.g.frame.map (·.replay.isNone)).getD false &&
      decide ((c.g.trapRegs.getD 9 0).toNat % 4 = 2) && decide (c.launch.stage = .admitted)) = true := calm_of (by decide +kernel)

theorem wit_rdsr : ∀ p ∈ [(0x2C3, ({ d := 0x0006, aux := 10 } : Fields)), (0x2C3, { d := 0x0021, aux := 0 })],
    ∃ c, Calm p.1 p.2 destName trapped c ∧ (c.any && decide (c.f.aux.toNat ≤ 10)) = true := issuesIn_spec (by decide +kernel)
theorem wit_wrsr : ∃ c, Calm 0x2C4 { a := 0x0007, aux := 9 } noNames trapped c ∧
    (c.any && c.g.inh && !vectorValued c.g c.b c.opA && decide ((xA c 0).toNat % 4 ≠ 3)) = true := calm_of (by decide +kernel)
/-- HOLD on the D of `rdsr`, a predicate there and an index above 10; the resume value 3, and `wrsr` outside a handler or of another register. -/
theorem wit_systemRegisters_traps : (∀ p ∈ [(0x2C3, ({ d := 0x8006, aux := 10 } : Fields)), (0x2C3, { d := 0x0041 })],
      ∃ c, Calm p.1 p.2 destName trapped c ∧ (c.any && (c.opD.hold || c.opD.isPred)) = true) ∧
    (∃ c, Calm 0x2C3 { d := 0x0006, aux := 11 } destName trapped c ∧ (c.any && c.opD.isScalar && !c.opD.hold) = true) ∧
    (∃ c, Calm 0x2C4 { a := 0x000F, aux := 9 } noNames trapped c ∧ (c.any && !vectorValued c.g c.b c.opA && decide ((xA c 0).toNat % 4 = 3)) = true) ∧
    (∃ c, Calm 0x2C4 { a := 0x0007, aux := 8 } noNames trapped c ∧ (c.any && !vectorValued c.g c.b c.opA && decide ((xA c 0).toNat % 4 ≠ 3)) = true) ∧
    ∃ c, Calm 0x2C4 { a := 0x0007, aux := 9 } noNames handled c ∧ (c.any && !vectorValued c.g c.b c.opA && !c.g.inh) = true :=
  ⟨issuesIn_spec (by decide +kernel), calm_of (by decide +kernel), calm_of (by decide +kernel), calm_of (by decide +kernel), calm_of (by decide +kernel)⟩
theorem wit_mtrd : ∀ p ∈ [(0x2D8, ({ d := 0x0018, aux := 11 } : Fields)), (0x2D8, { d := 0x00EA, aux := 63, la := 15 })],
    ∃ c, Calm p.1 p.2 (fun c => if c.opD.isVec then [c.opD.index, c.opD.index + 1] else []) base c ∧
      (c.any && !unretired c.s c.k && (c.opD.isScalar && decide (c.opD.index ≤ 58) && decide (c.opD.index % 2 = 0) ||
        c.opD.isVec && decide (c.opD.index + 1 < c.record.vregs))) = true := issuesIn_spec (by decide +kernel)

theorem wit_caches : ∀ p ∈ [(0x2C8, ({ a := 0x0022, b := 0x0013 } : Fields)), (0x2C9, { a := 0x0022, b := 0x0013 }), (0x2CA, {}), (0x2CB, {})],
    ∃ c, Calm p.1 p.2 noNames dirtyL1 c ∧
      (c.any && settled c ((CopyCmd.pages ((xB c 0).toNat / 65536 + 2) 0x10001000 (xB c 0).toNat).map Prod.fst) && (decide (0x2CA ≤ p.1) || pairOk c.opA && !vectorValued c.g c.b c.opB && decide (pairValue c c.opA = 0x10001000)) &&
        decide ((here c).l1.map Prod.fst).Nodup && !c.s.lineBlocked (some c.g.core) (lineOf 0x10001000)) = true := by
  intro p hp
  simp only [List.mem_cons, List.not_mem_nil, or_false] at hp
  rcases hp with rfl | rfl | rfl | rfl <;> exact calm_of (by decide +kernel)

/-- Queue 0 takes launches of the group's own address space. -/
def submits : State := ioBase.setQueue 0 { ioBase.queue 0 with devsub := true, enable := true, size := 4, ring := 0x10002000 }

theorem wit_launch : ∃ c, Calm 0x2D0 { a := 0x0003, b := 0x0043 } noNames submits c ∧
    (c.any && !vectorValued c.g c.b c.opA && !vectorValued c.g c.b c.opB && decide (c.s.release? (c.s.who c.k) true true = (c.s, true)) &&
      decide ((xA c 0).toNat = 0) && (c.s.queue 0).devsub && decide ((c.s.queue 0).asid = c.asid) && decide ((c.s.queue 0).vmid = c.launch.vmid) &&
      (c.s.queue 0).enable && decide ((c.s.queue 0).error = 0) && decide (((xB c 0).toNat + 2 ^ 32 - (c.s.queue 0).cons) % 2 ^ 32 = 2 ^ (c.s.queue 0).size)) = true :=
  calm_of (by decide +kernel)
theorem wit_launch_disabled : ∃ c, Calm 0x2D0 { a := 0x0003, b := 0x0043 } noNames (ioBase.setQueue 0 { ioBase.queue 0 with devsub := true }) c ∧
    (c.any && decide ((xA c 0).toNat = 0) && decide (c.s.release? (c.s.who c.k) true true = (c.s, true)) && (c.s.queue 0).devsub &&
      decide ((c.s.queue 0).asid = c.asid) && decide ((c.s.queue 0).vmid = c.launch.vmid) && !(c.s.queue 0).enable) = true := calm_of (by decide +kernel)
theorem wit_tmark_halt : ∀ p ∈ [(0x2D9, ({ aux := 7 } : Fields)), (0x2E0, {})], ∃ c, Calm p.1 p.2 noNames ioBase c ∧ c.any = true :=
  issuesIn_spec (by decide +kernel)
theorem wit_tlbi : ∃ c, Calm 0x2E1 { fn := 2, a := 0x0022, b := 0x0007, aux := 0x0100 } noNames ioBase c ∧
    (c.any && decide (c.launch.vmid = 0) && pairOk c.opA && !vectorValued c.g c.b c.opB && !c.g.outstanding && !c.s.peersLeft (tlbiOf c) &&
      !c.s.lockedPages (tlbiOf c)) = true := calm_of (by decide +kernel)
theorem wit_tlbi_trap : ∃ c, Calm 0x2E1 { fn := 2, a := 0x0022, b := 0x0007, aux := 0x0100 } noNames (ioBase.setLaunch 0 { ioBase.launch 0 with vmid := 3 }) c ∧
    (c.any && decide (c.launch.vmid ≠ 0) && pairOk c.opA && !vectorValued c.g c.b c.opB) = true := calm_of (by decide +kernel)

/-! ## Events: the package, the queues, submission -/

theorem wit_boot : ∃ s : State, s.root.running = false ∧ s.root.recovery = false ∧ Config.minSecurityVersion ≤ s.root.version ∧
    (Config.firmwareVerifies s.root.flash.flatten = true ∨ Config.firmwareVerifies s.root.flash.flatten = false) :=
  ⟨{ root := { version := Config.minSecurityVersion } }, rfl, rfl, Nat.le_refl _, by cases Config.firmwareVerifies _ <;> simp⟩

/-- The firmware runs. -/
def up : State := { ioBase with root := { running := true } }

theorem wit_coreWindow : let s := up.setCore 1535 { csel := 0x202F, halt := true }
    (s.core 1535).csel = 0x2000 + 0x2F ∧ (s.core 1535).halt = true ∧ 0x2F < 0x30 ∧ 0x1FF8 < 0x2000 ∧ 0x1FF8 % 8 = 0 ∧
    (run (.mgmtCoreRead { offset := 0x2000000 + 0x4000 * 1535 + 0x2000 + 0x1FF8 }) s).out = [.hostRead (toBytes 8 0)] := by decide +kernel
theorem wit_coreWindow_running : let s := up.setCore 1535 { csel := 0x2000 }
    (s.core 1535).halt = false ∧ (run (.mgmtCoreRead { offset := 0x2000000 + 0x4000 * 1535 + 0x2000 }) s).pkg.notHalted = true := by decide +kernel

/-- Registers of a function, of the package and of a queue read what they hold, and a VF reads no address space of another VMID. -/
theorem wit_readback : up.root.running = true ∧ up.funcVmid 2 ≠ some (up.space 7).vmid ∧ up.funcVmid 0 = some (up.queue 5).vmid ∧
    (run (.mgmtCoreRead { offset := 0x30000 }) up).out = [.hostRead (toBytes 8 ((up.part 0).clusters + 2 ^ 32))] ∧
    (run (.mgmtCoreRead { offset := 8 * 5, bar2 := true }) (up.setQueue 5 { up.queue 5 with prod := 9 })).out = [.hostRead (toBytes 8 9)] ∧
    (run (.mgmtCoreRead { func := 2, offset := 0x80000 + 16 * 7 + 8 }) up).out = [.hostRead (toBytes 8 0)] := by decide +kernel

theorem wit_partCtl : up.root.running = true ∧ partBusy up 1 = false ∧ (∀ q ∈ up.queues, q.2.enable = true → q.2.part ≠ 1) ∧
    (up.part 1).rstGo = false ∧ 6 ≠ (up.part 1).clusters ∧ ((run (.partCtlWrite 1 6) up).part 1).clusters = 6 := by decide +kernel
theorem wit_partCtl_refused : 1 ≠ (up.part 1).clusters ∧ (up.part 0).clusters.testBit 0 = true ∧ ((run (.partCtlWrite 1 1) up).part 1).err = true := by
  decide +kernel
/-- Partition 0 has a step to take. -/
def stepping : State := up.setPart 0 { up.part 0 with pending := true, asked := 2 }
theorem wit_clocks : (up.part 0).pending = false ∧ (stepping.part 0).pending = true ∧ (∀ c ∈ stepping.cores, ∀ e ∈ c.2.mq, e.multiplying = false) ∧
    (∀ l ∈ stepping.launches, l.2.commit = none) ∧ ((run .clockStepSwitch stepping).part 0).step = 2 := by decide +kernel

theorem wit_registers : up.root.running = true ∧ (up.range 0).enable = true ∧
    ((run (.registerWrite 0 0x60080 (2 ^ 40 + 5)) up).func 0).aperture = 2 ^ 40 ∧
    (run (.registerWrite 0 (0x180100 + 8 * 15) 15) up).pkg = up.pkg ∧ run (.registerWrite 1 0x180030 7) up = up := by decide +kernel

theorem wit_queueEnable : (up.queue 5).enable = false ∧ (9 : Nat).testBit 0 = true ∧
    ((run (.queueEnable 5 (9 + 3 * 2 ^ 48)) up).queue 5).error = 3 ∧ ((run (.queueEnable 5 (9 + 4 * 2 ^ 48)) up).queue 5).prio = 2 := by decide +kernel

/-- Queue 5 of VMID 0 is enabled for 16 entries. -/
def queued : State := up.setQueue 5 { up.queue 5 with enable := true, size := 4, ring := 0x10002000 }
theorem wit_queueDisable : (queued.queue 5).enable = true ∧ ((run (.queueDisable 5) queued).queue 5).enable = false := by decide +kernel
theorem wit_notify : queued.root.running = true ∧ queued.funcVmid 0 = some 0 ∧ (queued.queue 5).vmid = 0 ∧ (queued.queue 5).error = 0 ∧
    ((run (.notifyWrite 0 40 4 16) queued).queue 5).prod = 16 ∧ ((run (.notifyWrite 0 40 4 17) queued).queue 5).error = 1 := by decide +kernel
theorem wit_notify_other : let s := { queued with vmids := queued.vmids.set 2 { valid := true, func := 2 } }
    s.funcVmid 2 = some 2 ∧ (s.queue 5).vmid ≠ 2 ∧ (run (.notifyWrite 2 40 8 1) s).pkg.notifyDrop = 1 := by decide +kernel

/-- The device reads `n` bytes there at once, and `p` holds of the state after it and of the bytes. -/
def reads (s : State) (asid va n : Nat) (p : State → List Byte → Bool) : Bool :=
  match s.engineRead asid va n with
  | .ok t bs => decide (t = { s with l2 := t.l2, bdq := t.bdq }) && p t bs
  | _ => false

/-- The record of launch word 0x0000_0806_0008_5A01 (02) stands in entry 0 of queue 5, and PROD is 1. -/
def submitted : State :=
  let s := queued.setQueue 5 { queued.queue 5 with prod := 1, todo := 1 }
  { s with mem := Memory.writeAll s.mem (cellsAt 0x10002000 (toBytes 8 0x0000080600085A01)) }

theorem wit_takeRecord : let x := submitted.queue 5
    x.enable = true ∧ x.error = 0 ∧ x.held = none ∧ 0 < x.todo ∧
    funcRuns submitted x.vmid = true ∧ (submitted.space x.asid).valid = true ∧ headOf submitted 5 = none ∧
    reads submitted x.asid x.ring 128 (fun _ bs => decide (bs.take 8 = toBytes 8 0x0000080600085A01)) = true ∧
    ((run (.takeRecord 5) submitted).queue 5).taken = 1 := by decide +kernel

/-- A launch that waits for a counter, and one that is eligible. -/
def waitingLaunch : State :=
  queued.setLaunch 9 { queued.launch 0 with queue := 5, stage := .waiting, record := { (queued.launch 0).record with wait0A := 0x10003000, wait0V := 0 } }
theorem wit_dependence : headOf waitingLaunch 5 = some (9, waitingLaunch.launch 9) ∧ (waitingLaunch.launch 9).stage = .waiting ∧
    (∀ h ∈ waitingLaunch.held, h.at_ ≠ .dependence 9) ∧ funcRuns waitingLaunch (waitingLaunch.launch 9).vmid = true ∧
    (waitingLaunch.launch 9).got0 = false ∧ reads waitingLaunch (waitingLaunch.launch 9).asid 0x10003000 8 (fun _ _ => true) = true ∧ (waitingLaunch.launch 9).record.wait1A = 0 ∧
    ((run (.dependenceWait 5) waitingLaunch).launch 9).stage = .eligible := by decide +kernel

/-- An eligible launch, and the same with a kernel image header of format 1 and no tensor table. -/
def eligible : State := queued.setLaunch 9 { queued.launch 0 with queue := 5, stage := .eligible }
def imaged : State := { eligible with mem := Memory.writeAll eligible.mem (cellsAt 0x10000000 (toBytes 8 0x14B425844)) }
theorem wit_headOffer : (offers eligible eligible.focus).find? (fun l => l.2.stage == .eligible) = some (9, eligible.launch 9) ∧
    reads eligible 0 0x10000000 64 (fun _ bs => decide (ofBytes bs % 2 ^ 32 ≠ 0x4B425844)) = true ∧
    (eligible.launches.map Prod.fst).Nodup ∧ ((run .headOffer eligible).launch 9).stage = .finishing 0x0102 := by decide +kernel
theorem wit_headOffer_good : (offers imaged imaged.focus).find? (fun l => l.2.stage == .eligible) = some (9, imaged.launch 9) ∧
    reads imaged 0 0x10000000 64 (fun t bs => decide (ofBytes bs % 2 ^ 32 = 0x4B425844) && decide (ofBytes bs / 2 ^ 32 % 2 ^ 16 = 1) &&
      reads t 0 (0x10000000 + ofBytes bs / 2 ^ 320 % 2 ^ 32) (64 * popCount (ofBytes bs / 2 ^ 352 % 2 ^ 16) 16) fun t _ => reads t 0 0 0 fun _ _ => true) = true ∧
    (imaged.launch 9).record.param = 0 ∧
    ((run .headOffer imaged).launch 9).stage = .offered := by decide +kernel

/-- A launch that is over, at the head of queue 5. -/
def finishing : State :=
  { (queued.setLaunch 9 { queued.launch 0 with queue := 5, index := 0, stage := .finishing 1, recAddr := 0x10002000 }).setQueue 5
      { queued.queue 5 with prod := 1, taken := 1 } with teams := [], focus := 9 }
theorem wit_final : let l := finishing.launch 9
    l.stage = .finishing 1 ∧ l.finalAt = .report ∧ finishing.pkg.rptEnable = false ∧ l.record.sigAddr = 0 ∧ finishing.teams = [] ∧
    launchPosted finishing 9 = false ∧ funcRuns finishing l.vmid = true ∧ finishing.held = [] ∧
    (match finishing.intervals engineCore l.asid .write (CopyCmd.pages 2 (l.recAddr + 112) 4) with
      | .ok ps => decide (ps = [(0x10002070, 4, none)]) && ps.all fun p => !finishing.rangeBlocked none p.1 p.2.1 | _ => false) = true ∧
    (finishing.queue 5).finals = [] ∧ (finishing.queue 5).cons = l.index ∧ (finishing.queue 5).epoch < 9 ∧
    ((run .launchFinal finishing).queue 5).cons = 1 ∧ (run .launchFinal finishing).homeBytes 0x10002070 4 = [1, 0, 0, 0] := by decide +kernel

theorem wit_aperture : up.root.running = true ∧ apertureSlot up 0 ((up.func 0).aperture + 0x10001000) 8 true = none ∧
    (match aperturePlaces up 0 ((up.func 0).aperture + 0x10001000) 8 .write with
      | .ok ps => decide (ps.map (·.pa) = (List.range 8).map (0x10001000 + ·)) && ps.all (fun x => !x.log) | _ => false) = true ∧
    (run (.apertureAccess 0 0x10001000 8 none) (run (.apertureAccess 0 0x10001000 0 (some [1, 2, 3, 4, 5, 6, 7, 8])) up)).out =
      [.hostRead [1, 2, 3, 4, 5, 6, 7, 8]] := by decide +kernel

/-! ## Events: faults, traps, placement -/

/-- A cached translation of page 0x1000 of address space 0, and one of another. -/
def cachedPages : State :=
  let e : TlbEntry := match up.walkBoth 0 0 0x10000000 with | .ok e => e | .error _ => default
  up.setCore 0 { up.core 0 with tlb := [e, { e with asid := 1 }] }

theorem wit_tlbi_cmds : cachedPages.answers 0 = true ∧ (cachedPages.func 0).tlbiGo = false ∧ (5 : Nat).testBit 0 = true ∧
    ((run (.tlbiCmdAsid 0 5) cachedPages).core 0).tlb.length = 1 ∧ ((run (.tlbiCmdVmid 0 1) cachedPages).core 0).tlb = [] ∧
    ((run (.tlbiCmdAsidVa 0 (9 + 2 ^ 12)) (cachedPages.setFunc 0 { cachedPages.func 0 with tlbiAddr := 0x10000000 })).core 0).tlb.length = 1 ∧
    ((run (.tlbiCmdRefused 0 (5 * 4 + 1)) cachedPages).func 0).tlbiErr = true := by decide +kernel
theorem wit_tlbi_vf : let s := { up with vmids := up.vmids.set 2 { valid := true, func := 2 } }
    s.answers 2 = true ∧ s.funcVmid 2 = some 2 ∧ (s.space 0).vmid ≠ 2 ∧ ((run (.tlbiCmdRefused 2 5) s).func 2).tlbiErr = true ∧ ((run (.tlbiCmdVmid 2 1) s).func 2).tlbiGo = true := by
  decide +kernel
theorem wit_tlbi_done : let s := run (.tlbiCmdAll 0 17) cachedPages
    (s.func 0).tlbiGo = true ∧ s.lockedPages (funcTlbi s 0) = false ∧ s.peersLeft (funcTlbi s 0) = false ∧ ((run (.tlbiComplete 0) s).func 0).tlbiGo = false := by decide +kernel
theorem wit_walk : (match up.walkBoth 3 0 (0x1000 * 65536) with | .ok _ => true | .error _ => false) = true ∧
    ((run (.walkComplete 3 0 0x1000) up).core 3).tlb.length = 1 := by decide +kernel

/-- The group of the test machine is held by a translation fault of its load, whose record waits for the ring. -/
def faulted : State :=
  run (.ld { fn := 0x085, d := 0x000A, a := 0x0022, b := 0x0003 }) (up.setGroup 0 { up.group 0 with sregs := [(9, 0x100)] })
/-- A ring of 64 records at 0x1000_4000, empty, and full. -/
def ringed : State := faulted.setFunc 0 { faulted.func 0 with fqBase := 0x10004000, fqEnable := true }
def ringFull : State := ringed.setFunc 0 { ringed.func 0 with fqProd := 64 }

theorem wit_faultRing : ((ringed.func 0).fqWait.length = 1 ∧ (ringed.func 0).fqEnable = true ∧ (ringed.func 0).fqBlocked = false ∧
    ((ringed.func 0).fqProd + 2 ^ 32 - (ringed.func 0).fqCons) % 2 ^ 32 ≠ 2 ^ (ringed.func 0).fqSize ∧ ringed.answers 0 = true) ∧
    (match (ringed.func 0).fqWait with | r :: _ => (ringed.ringWrite 0 (fun i => 0x10004000 + i) (toBytes 64 (r.bits 1))).isSome | [] => false) = true ∧
    ((run (.faultRecordWrite 0) ringed).func 0).fqProd = 1 ∧ (run (.faultRecordWrite 0) ringed).out = [.msix 0 0] ∧
    ((ringFull.func 0).fqProd + 2 ^ 32 - (ringFull.func 0).fqCons) % 2 ^ 32 = 2 ^ (ringFull.func 0).fqSize ∧
    ((run (.faultRecordWrite 0) ringFull).func 0).fqFull = true := by decide +kernel

/-- The same fault under a launch with a handler. -/
def faultedHandled : State := faulted.setLaunch 0 { faulted.launch 0 with record := { (faulted.launch 0).record with handler := 0x600 } }
theorem wit_acks : faultedHandled.answers 0 = true ∧ (match pendingFault faultedHandled 0 1 with | some h => decide (h.at_ = .group 0) && decide (h.record.cause = 3) | none => false) = true ∧
    (faultedHandled.team 0).resident = true ∧ (faultedHandled.group 0).inh = false ∧ (faultedHandled.group 0).outstanding = false ∧
    faultedHandled.tracer (faultedHandled.group 0) = none ∧ (faultedHandled.launches.map Prod.fst).Nodup ∧
    (faultedHandled.launch 0).stage = .admitted ∧ ((run (.fqAckRetry 0 1) faultedHandled).group 0).wait = .none ∧
    ((run (.fqAckTrap 0 1) faultedHandled).group 0).inh = true ∧ ((run (.fqAckEnd 0 1) faultedHandled).launch 0).stage = .finishing 2 := by decide +kernel
theorem wit_ackInvalid : pendingFault faultedHandled 0 (9 / 4) = none ∧ 7 % 4 = 3 ∧ ((run (.fqAckInvalid 0 9) faultedHandled).func 0).fqAckErr = true := by
  decide +kernel

/-- A trap that waits to be entered, and an asynchronous one that is due. -/
def trapWaits : State := handled.setGroup 0 { handled.group 0 with trap := some { code := 0xB, info := 7, pc := 0x60 } }
def asyncDue : State := handled.setGroup 0 { handled.group 0 with asyncs := [{ code := 0xD }] }
theorem wit_trapEntry : (handled.groups.find? 0).isSome = true ∧ (trapWaits.group 0).trap.isSome = true ∧ (trapWaits.group 0).outstanding = false ∧
    (trapWaits.team 0).resident = true ∧ trapWaits.clockRuns 0 = true ∧ trapWaits.tracer (trapWaits.group 0) = none ∧ ((run (.trapEntry 0) trapWaits).group 0).slotA.pc = 0x600 := by
  decide +kernel
theorem wit_asyncTrap : (asyncDue.group 0).ended = false ∧ (asyncDue.group 0).dormFmt = none ∧ (asyncDue.group 0).exited ≠ (asyncDue.group 0).allLanes ∧
    atBoundary asyncDue (asyncDue.group 0) = true ∧ (asyncDue.group 0).inh = false ∧ (asyncDue.group 0).outstanding = false ∧
    asyncDue.tracer (asyncDue.group 0) = none ∧ ((run (.asyncTrapDeliver 0) asyncDue).group 0).inh = true := by decide +kernel

/-- A head that has been read; its pool has `n` blocks. -/
def offered (n : Nat) : State := (run .headOffer imaged).setFunc 0 { imaged.func 0 with ctxPoolSz := n }
/-- The record of launch 9 is that of launch 0: its context needs 17 blocks, its team 39. -/
theorem wit_admit : (match decide' (offered 56) 0 with
      | .act (.admits l [sp] _) => decide (l = 9) && !spotWaits (offered 56) sp && decide (sp.groups.map (·.grpid)).Nodup
      | _ => false) = true ∧ ((offered 56).launches.map Prod.fst).Nodup ∧
    (match decide' (offered 55) 0 with | .act (.admits ..) => false | _ => true) = true := by decide +kernel

/-- A head whose scratchpad no core has never fits. -/
def tooLarge : State := (offered 0).setLaunch 9 { (offered 0).launch 9 with record := { ((offered 0).launch 9).record with spad := 0xFFF } }
theorem wit_reject : (match decide' tooLarge 0 with | .reject l => decide (l = 9) | _ => false) = true ∧ (tooLarge.launches.map Prod.fst).Nodup ∧
    ((run .admissionDecision tooLarge).launch 9).stage = .finishing 0x0104 := by decide +kernel

/-- An evicted team of launch 9 waits for core 0, whose scratchpad the team of launch 0 holds; launch 0 may be evicted. -/
def contended : State :=
  let s := (up.setLaunch 0 { up.launch 0 with record := { (up.launch 0).record with preempt := true } }).setTeam 0 { up.team 0 with spLen := 0x20000 }
  let s := s.setLaunch 9 { s.launch 0 with prio := 3, record := { (s.launch 0).record with spad := 0x200 } }
  let s := s.setTeam (9 * 2 ^ 32) { launch := 9, teamid := 0, placed := true, evicted := true, spLen := 0x20000 }
  { s with saved := [(9 * 2 ^ 32, { scratch := [(8, 5)], tiles := [], slices := [] })] }
theorem wit_evict : (match decide' contended 0 with | .evict c => decide (c.gone = [0]) | _ => false) = true ∧
    ((run .admissionDecision contended).team 0).stopping = true := by decide +kernel
/-- Core 0 is free again. -/
def restorable : State := contended.setTeam 0 { contended.team 0 with resident := false, exited := true, spLen := 0 }
theorem wit_restore : (match decide' restorable 0 with
      | .act (.restore t sp cursor) => decide (t = 9 * 2 ^ 32) && decide (sp.core = 0) && decide (cursor = 1) && !spotWaits restorable sp && decide (sp.cores = [sp.core])
      | _ => false) = true ∧
    (restorable.launch 9).record.span = false ∧ (restorable.team (9 * 2 ^ 32)).windows = [] ∧ restorable.teamGroups (9 * 2 ^ 32) = [] ∧
    imageWalked (takeImage restorable (9 * 2 ^ 32)) 0 (restorable.launch 9).asid ((takeImage restorable (9 * 2 ^ 32)).team (9 * 2 ^ 32)).windows
      ((takeImage restorable (9 * 2 ^ 32)).teamGroups (9 * 2 ^ 32)) = restorable ∧
    (match windowsAgain restorable 0 (restorable.launch 9).asid [] with | .ok ws => decide (ws = []) | .error _ => false) = true ∧
    (match locksAgain restorable 0 (restorable.launch 9).asid [] with | .ok hs => decide (hs = []) | .error _ => false) = true ∧ Memory.wf [(8, (5 : Byte))] = true ∧
    Memory.wf (restorable.core 0).scratch = true ∧ (run (.teamRestore (9 * 2 ^ 32)) restorable).spBytes 0 8 1 = [5] := by decide +kernel

/-- The group waits for two registers. -/
def waitsRegs : State := up.setGroup 0 { up.group 0 with wait := .alloc, need := 2, vregs := [] }
theorem wit_regAlloc : waitsRegs.focus = 0 ∧ (waitsRegs.group 0).wait = .alloc ∧ waitsRegs.clockRuns 0 = true ∧ waitsRegs.olderWaits 0 (waitsRegs.group 0) = false ∧
    (waitsRegs.group 0).need ≤ waitsRegs.poolFree 0 ∧ ((run .regAllocGrant waitsRegs).group 0).granted = 2 := by decide +kernel
/-- The pool is full of another group's registers, which has 2,048. -/
def pressed : State :=
  let g := { up.group 0 with grpid := 1, vregs := (List.range 2048).map fun n => (n, { vals := [], poison := 0 }) }
  { (waitsRegs.setGroup 1 g) with now := 256 }
theorem wit_spill : (match oldestWaiter pressed 0 with | some x => decide (x.1 = 0) | none => false) = true ∧ (pressed.core 0).issueAt + 256 ≤ pressed.now ∧ pressed.clockRuns 0 = true ∧
    pressed.poolFree 0 < (pressed.group 0).need ∧ (match nextVictim pressed 0 0 with | some x => decide (x.1 = 1) | none => false) = true ∧
    (pressed.group 0).need ≤ (spillGroup pressed 1).poolFree 0 := by decide +kernel
def spilled : State := up.setGroup 0 { up.group 0 with vregs := [], spilled := some [(3, { vals := [], poison := 0 })] }
theorem wit_spillRestore : spilled.focus = 0 ∧ (spilled.team 0).resident = true ∧ spilled.clockRuns 0 = true ∧ spilled.olderWaits 0 (spilled.group 0) = false ∧
    ((spilled.group 0).nameCount - (spilled.launch 0).record.vfloor) * ((spilled.group 0).width / 32) ≤ spilled.poolFree 0 ∧ (run .spillRestore spilled).group 0 = { spilled.group 0 with vregs := [(3, { vals := [], poison := 0 })], spilled := none } := by
  decide +kernel

/-- Eight groups are active on scheduler 0, and a ninth is ready. -/
def crowded : State :=
  let s := (List.range 9).foldl (fun s k => s.setGroup k { up.group 0 with grpid := k }) up
  { s.setSched 0 0 { s.sched 0 0 with active := (List.range 8).map fun k => { group := k, since := k }, pending := [{ group := 8, since := 0 }] } with now := 2048 }
theorem wit_rotate : (crowded.sched 0 0).entry + 2048 ≤ crowded.now ∧ crowded.clockRuns 0 = true ∧ (match crowded.oldestReady (crowded.sched 0 0) with | some p => decide (p.group = 8) | none => false) = true ∧
    (crowded.sched 0 0).active ≠ [] ∧ (((run (.activeSetRotate 0 0) crowded).sched 0 0).active.map (·.group)) = [1, 2, 3, 4, 5, 6, 7, 8] := by decide +kernel

/-- Every lane of the group has exited. -/
def overGroup : State := up.setGroup 0 { up.group 0 with exited := 0xFFFFFFFF, slotA := {} }
theorem wit_groupEnd : groupOver overGroup 0 (overGroup.group 0) = true ∧ (overGroup.group 0).locks = [] ∧ ((run (.groupEnd 0) overGroup).group 0).ended = true := by
  decide +kernel
def overTeam : State := run (.groupEnd 0) overGroup
theorem wit_teamExit : Tbl.sortedFrom 0 overTeam.teams = true ∧ teamOver overTeam 0 = true ∧
    (overTeam.releaseLines (overTeam.team 0).core 0 false).any (overTeam.lineBlocked (some 0)) = false ∧
    (overTeam.team 0).windows.any (overTeam.dirtyClaimed (overTeam.team 0)) = false ∧ overTeam.windowLogHolds 0 (fun _ => true) = false ∧ (∀ h ∈ overTeam.teamGroups 0, h.2.ended = true ∧ h.2.locks = []) ∧
    (overTeam.launch 0).stage = .admitted ∧ (overTeam.launch 0).next = (overTeam.launch 0).record.teams ∧
    ((run (.teamExit 0) overTeam).launch 0).stage = .finishing 1 := by decide +kernel

theorem wit_fetch : (up.groups.find? 0).isSome = true ∧ ((up.group 0).slot false).owned ≠ 0 ∧ ((up.group 0).slot false).join = false ∧ (up.group 0).wait = .none ∧ (up.group 0).replay = none ∧
    (up.group 0).trap = none ∧ up.agentsRun 0 0 = true ∧ groupHalted up (up.group 0) = false ∧ ((up.group 0).slot false).pc.toNat % 12 = 0 ∧
    (match up.fetchBundle (up.group 0) 0x60 with | .ok ws => ws.all fun w => !up.lineBlocked (some 0) (lineOf w.1) | .error _ => false) = true ∧
    (∀ c ∈ up.cores, c.2.silt = []) ∧ (((run (.instructionFetch 0 false) up).group 0).slotA.stream.find? 0x60).isSome = true := by decide +kernel

/-- A window of v6 with a count left, and one with none. -/
def shuttered (rem : Nat) : Window :=
  { (default : Window) with opc := 0x1C0, remA := some rem, remB := none, done := false, frees := [],
                            dests := [WinDest.mk (.v 6) 0xF (List.replicate 32 9) 0] }
def windowOf (rem : Nat) : State := up.setGroup 0 { up.group 0 with windows := [shuttered rem] }
theorem wit_longLatency : (windowOf 2).groups.find? 0 = some ((windowOf 2).group 0) ∧ ((windowOf 2).team 0).resident = true ∧ (windowOf 2).clockRuns 0 = true ∧ (shuttered 2).held = 0 ∧ (shuttered 2).pend = 0 ∧ ((windowOf 2).group 0).spilled = none ∧
    (∀ x ∈ ((windowOf 2).group 0).windows, x.closes = false) ∧ ((run (.longLatencyComplete 0 0) (windowOf 2)).group 0).windows.all (·.done) = true ∧
    ((run (.longLatencyComplete 0 0) (windowOf 0)).group 0).windows = [] ∧
    (((run (.longLatencyComplete 0 0) (windowOf 0)).group 0).vreg 6).vals.take 5 = [9, 9, 9, 9, 0] := by decide +kernel

def wantsSpill : State := up.setGroup 0 { up.group 0 with spill := .wanted, stack := [], deep := 0 }
theorem wit_stackSpill : (wantsSpill.group 0).wait = .none ∧ (wantsSpill.team 0).resident = true ∧ wantsSpill.clockRuns 0 = true ∧ (∀ c ∈ wantsSpill.cores, c.2.silt = []) ∧
    ((spillAccesses wantsSpill (wantsSpill.group 0)).all fun a =>
      match wantsSpill.spillXlat (wantsSpill.group 0) a.2 a.1 with
      | .ok x => !wantsSpill.lineBlocked (some 0) (lineOf x.pa) && !x.log | .error _ => true) = true ∧
    ((run (.stackSpillAccess 0) wantsSpill).group 0).spill = .granted := by decide +kernel
def yielding : State := { (up.setGroup 0 { up.group 0 with slotA := { (up.group 0).slotA with yieldAt := some 0, yieldFor := [1] } }) with now := 64 }
theorem wit_yield : ((yielding.group 0).slot false).yieldAt = some 0 ∧ (yielding.team 0).resident = true ∧ yielding.clockRuns 0 = true ∧ 0 + 64 ≤ yielding.now ∧
    ((run (.yieldRelease 0 false) yielding).group 0).slotA.yieldAt = none := by decide +kernel

/-- The group sleeps until the scratchpad word at 0x100 is not 0, and gives v1. -/
def sleeper (timeout : Nat) (woken : Bool) (x : Byte) : State :=
  let s := run (.waita { fn := 0x009, d := 0x0004, a := 0x000A, b := 0x0003, aux := 0x03FF }) up
  let s := s.setCore 0 { s.core 0 with scratch := if x = 0 then [] else [(0x100, x)] }
  match (s.group 0).wait with
  | .waita w => s.setGroup 0 { s.group 0 with wait := .waita { w with timeout := timeout, woken := woken } }
  | _ => s
/-- What a wake finds. -/
def finds (s : State) : Option Nat :=
  match (s.group 0).wait with
  | .waita w =>
    match waitaPlace s (s.who 0) w.sp w.wide w.addr with
    | .ok (n, p) => let r := waitaRead s 0 { w with notify := n, place := p }; if r.1 = { s with l2 := r.1.l2, bdq := r.1.bdq } then r.2 else none
    | .error _ => none
  | _ => none
theorem wit_sleep : (∀ s ∈ [sleeper 0 false 0, sleeper 9 true 0, sleeper 9 true 4], s.agentsRun 0 0 = true ∧ (s.group 0).spilled = none ∧ s.tracer (s.group 0) = none ∧
      (s.group 0).windows = [] ∧ (s.waitCtx 0).any = true ∧ (s.waitCtx 0).opD.isVec = true) ∧
    finds (sleeper 9 true 0) = some 0 ∧ finds (sleeper 9 true 4) = some 4 ∧
    (((run (.waitaTimeout 0) (sleeper 0 false 0)).group 0).vreg 1).vals.take 1 = [0] ∧ ((run (.waitaWake 0) (sleeper 9 true 4)).group 0).vregs.find? 1 ≠ none ∧
    ((run (.waitaWake 0) (sleeper 9 true 0)).group 0).wait ≠ .none := by decide +kernel

/-- The team of queue 0, index 0 may be evicted. -/
def preemptible : State := up.setLaunch 0 { up.launch 0 with record := { (up.launch 0).record with preempt := true } }
theorem wit_evictCmd : preemptible.answers 0 = true ∧ (preemptible.func 0).evGo = false ∧ (2 ^ 63 + 2 ^ 61 : Nat).testBit 63 = true ∧ evictTarget preemptible 0 0 0 = some 0 ∧
    evictTarget preemptible 0 0 1 = none ∧ ((run (.evictCmd 0 (2 ^ 63 + 2 ^ 61)) preemptible).team 0).parked = true ∧
    ((run (.evictCmd 0 (2 ^ 63 + 1)) preemptible).func 0).evErr = true := by decide +kernel
def leaving : State := run (.evictCmd 0 (2 ^ 63)) preemptible
theorem wit_teamEvict : evictReady leaving 0 = true ∧ coresBlocked leaving (teamCores leaving (leaving.team 0)) = false ∧ (leaving.groups.find? 0).isSome = true := by
  decide +kernel


/-! ## Events: the engines -/

/-- An INT8 MMA of 32 elements from vector registers waits to multiply; it multiplies; it is done. -/
def mmaQueued : State :=
  run (.mmaV { fn := 0x00A, a := 0x0020, b := 0x0032 }) (memBase.setGroup 0 { memBase.group 0 with slotA := { (memBase.group 0).slotA with fmt := 0x22 } })
def mmaRuns : State := run (.mmaMultiplyStart 0) mmaQueued
theorem wit_multiplyStart : (match (mmaQueued.core 0).mq.find? (fun e => e.group == 0 && !e.multiplying && e.opc != 0x18B && e.opc != 0x188) with
      | none => false
      | some e =>
        let e' : MqEntry := { e with stage := true }
        let s' := setEntry mmaQueued 0 e'
        (match readVectorA { mmaQueued.waitCtx 0 with s := s' } e' with | .ok r a _ _ _ => decide (r = s') && decide (a.length = 64) | _ => false) &&
          decide (e.opc = 0x181) && !e.loaded && stageFree mmaQueued 0 e && (earlierOn mmaQueued 0 e).isEmpty && decide (e.row + e.rows ≤ 2048) &&
          !kaolinForeign s' 0 0 e' && !kaolinPending s' 0 e' && (tileOf mmaQueued 0 e.tile).owner.isNone) = true ∧
    (mmaQueued.group 0).wait = .mma ∧ mmaQueued.agentsRun 0 0 = true ∧ mmaQueued.budgetOf 0 = 255 ∧ (mmaQueued.cluster 0).waiting = [] ∧
    (mmaQueued.groups.find? 0).isSome = true ∧ (mmaQueued.group 0).spilled = none ∧ mmaQueued.tracer (mmaQueued.group 0) = none ∧
    (mmaQueued.group 0).windows = [] ∧ (mmaRuns.group 0).slotA.pc = 0x6C := by decide +kernel
theorem wit_multiplyEnd : mmaRuns.clockRuns mmaRuns.focus = true ∧
    (match nextDone (mmaRuns.core 0).mq [] with | some e => decide (e.afmt = 2) && decide (e.bfmt = 2) && decide (e.k % 32 = 0) | none => false) = true ∧
    ((run .mmaComplete mmaRuns).core 0).mq = [] := by decide +kernel
/-- An `accz.rel` of tile 1 stands behind a multiply phase of tile 1 that has ended, alone in its queue; a cluster in a new window of its
governor, whose first asker may be served. -/
def tileWaits : State :=
  let s := mmaRuns.setCore 0 { mmaRuns.core 0 with mq := (mmaRuns.core 0).mq.map fun e => { e with tile := 0 } }
  run .mmaComplete (run (.accz { fn := 8 }) (s.setGroup 0 { s.group 0 with slotA := { (s.group 0).slotA with pc := 0x6C } }))
def tokensWait : State := { base.setCluster 0 { base.cluster 0 with waiting := [(9, 4), (2, 1)] } with now := 5000 }
theorem wit_tiles : (match (tileWaits.core 0).mq.find? (fun e => e.tile == 0) with | some e => decide (e.opc = 0x188) | none => false) = true ∧
    tileWaits.clockRuns 0 = true ∧ tileOf (run (.accTileRelease 0 0) tileWaits) 0 0 = {} := by
  decide +kernel
theorem wit_governor : (tokensWait.cluster 0).since / 1024 < tokensWait.now / 1024 ∧ tokensWait.budgetOf 0 = 255 ∧
    ((run .governorWindow tokensWait).cluster 0).since = 5000 ∧ ((run .tokenGrant tokensWait).cluster 0).leave.map (·.group) = [9] := by decide +kernel

/-- A copy of 16 bytes to the scratchpad, with a 4-byte completion word; it has begun; its chunk is done. -/
def copyOne : CopyCmd :=
  { form := .g2s, group := 0, team := 0, pc := 0x60, dst := 0x100, src := 0x10001000, len := 16, rl := 0, index := [], cwe := true, cw64 := false,
    cwAddr := 0x200, cwVal := 7 }
def copying (c : CopyCmd) : State :=
  { (ioBase.setCore 0 { ioBase.core 0 with copies := [c] }) with mem := Memory.write ioBase.mem 0x10001003 0x5A }
def copyBegun (c : CopyCmd) : State := run .copyCommandBegin (copying c)
def copyRead (c : CopyCmd) : State := run .copyChunk (copyBegun c)
/-- The one source and destination piece of its chunk do not wait. -/
def chunkReady (c : CopyCmd) : Bool :=
  let s := copyBegun c
  let c := (s.core 0).copies.headD c
  match runningCopy s 0, sourcePieces s 0 0 c 0 (min 4096 c.total), targetPieces s 0 0 c 0 (min 4096 c.total) with
  | some x, .ok [a], .ok [b] => decide (x = c) && c.begun && decide (0 < c.total) && decide (sourceWaits s 0 [a] = (s, false)) && decide (a.len = b.len) &&
      decide (targetWaits s 0 (s.vmidFunc (s.launch (s.team c.team).launch).vmid) c [b] = (s, false))
  | _, _, _ => false
theorem wit_copy : chunkReady copyOne = true ∧ chunkReady { copyOne with form := .s2g, dst := 0x10001000, src := 0x100 } = true ∧
    chunkReady { copyOne with form := .s2k, dst := 0x100, src := 0x300 } = true ∧ copyOne.begun = false ∧ spElsewhere (copying copyOne) 0 0 0x100 16 = false ∧
    (∀ l ∈ destinationLines (copying { copyOne with form := .s2g, dst := 0x10001000, src := 0x100 }) 0 { copyOne with form := .s2g, dst := 0x10001000, src := 0x100 },
      (copying copyOne).recalls.find? l = none ∧ (copying copyOne).lineClaimed l = false) ∧
    (copyRead copyOne).spBytes 0 0x100 4 = [0, 0, 0, 0x5A] ∧ (((copyRead copyOne).core 0).copies.map (·.chunk)) = [1] := by decide +kernel
theorem wit_copyEnd : (runningCopy (copyRead copyOne) 0).isSome = true ∧ (copyRead copyOne).readOnlyAt 0 0x200 4 = false ∧
    spElsewhere (copyRead copyOne) 0 0 0x200 4 = false ∧ ((run .copyCompletion (copyRead copyOne)).core 0).copies = [] ∧
    (run .copyCompletion (copyRead copyOne)).spBytes 0 0x200 4 = [7, 0, 0, 0] ∧
    ((run .copyCompletion (copyRead { copyOne with cwe := false })).core 0).copies = [] := by decide +kernel

/-- The one group of a population has arrived with the weights 3, 0, 5, 1, 1 and the target 4; the commit has begun, with the offset 7 (13,
the worked example of R298). -/
def arrivedPop : State :=
  let s := popBase.setGroup 0 { popBase.group 0 with vregs := [(9, { vals := [3, 0, 5, 1, 1] ++ List.replicate 27 0, poison := 0 })] }
  let s := run (.resample { a := 0x0013, b := 0x0024 }) (s.setLaunch 0 { s.launch 0 with next := 1 })
  s.setLaunch 0 { s.launch 0 with stage := .admitted }
def commits : State :=
  let s := run .resampleCommit arrivedPop
  s.setLaunch 0 { s.launch 0 with commit := (s.launch 0).commit.map fun c => { c with off := 7 } }
theorem wit_commit : commitReady arrivedPop 0 = true ∧ (arrivedPop.launch 0).deposit = [] ∧
    (match (arrivedPop.launch 0).arrived with
      | [(k, a)] => decide (k = 0) && !a.anc && decide (a.target = 4) && decide (0 < a.target) && decide (a.target ≤ (arrivedPop.launch 0).record.popCap)
      | _ => false) = true ∧
    0 < ((arrivedWeights arrivedPop 0).map fun p => p.2).sum ∧ (run .resampleCommit arrivedPop).launch 0 ≠ arrivedPop.launch 0 := by decide +kernel
theorem wit_commitEnd : (match (commits.launch 0).commit with | some c => !c.anc && decide (c.place = []) | none => false) = true ∧ commits.pkg.tripped = false ∧
    Tbl.sortedFrom 0 commits.groups = true ∧ (commits.launchGroups 0).length = 1 ∧
    ((commits.launchGroups 0).all fun p =>
      !(commits.releaseLines (commits.team p.2.team).core p.2.team false).any (commits.lineBlocked (some (commits.team p.2.team).core)) &&
      !commits.windowLogHolds p.2.team (fun _ => true)) = true ∧ (commits.group 0).spilled = none ∧ lastFrees (commits.waitCtx 0) = [] ∧
    ((run .resampleCommitEnd commits).launch 0).pop.surv = 3 ∧ ((run .resampleCommitEnd commits).group 0).oslot.take 4 = [(0, 0), (1, 2), (2, 2), (3, 4)] := by decide +kernel

/-- A pass of reorder has two deposits to emit. -/
def passing : State :=
  let e (n : Nat) : Deposit := { key := n, payload := [7], q := 0, lin := n, par := 0, ord := 0, slotNo := n }
  let g := { coopBase.group 0 with exited := (coopBase.group 0).allLanes }
  let s := coopBase.setGroup 0 g
  s.setLaunch 0 { s.launch 0 with stage := .admitted, passOn := true, passPc := 0x600, passP := 1, deposit := [e 5, e 3], next := (s.launch 0).record.teams }
theorem wit_pass : passReady passing 0 = true ∧ Tbl.sortedFrom 0 passing.groups = true ∧
    ((emitOrder ((passing.launch 0).record.width * 32) (passing.launch 0).deposit).map (·.lin)).length = 2 ∧
    ((run .reorderPassClose passing).group 0).slotA.pc = 0x600 ∧ ((run .reorderPassClose passing).group 0).slotA.active = 3 := by decide +kernel

/-! ## Events: the address map, the base dies, lines, errors, resets -/

/-- Range 4 of partition 2, on stack 7, with keys; it is ready to be enabled; it is enabled; it overlaps range 0. -/
def keyed (enable : Bool) (first : Nat) : State :=
  up.setRange 4 { base := first, limit := 0x4FFF, part := 2, stackBase := 7, chBase := 3, sliceBase := 5, conf := true, keySlot := 9, enable := enable }
theorem wit_rangeEnable : enableError (keyed false 0x4000) 4 ((keyed false 0x4000).range 4) = 0 ∧ ((keyed false 0x4000).range 4).enable = false ∧
    ((run (.rangeEnable 4 1) (keyed false 0x4000)).range 4).enable = true ∧
    (∃ x ∈ (keyed false 0x3000).ranges, x.1 ≠ 4 ∧ x.2.enable = true ∧ 0x3000 ≤ x.2.limit ∧ x.2.base ≤ 0x4FFF) ∧
    ((run (.rangeEnable 4 1) (keyed false 0x3000)).range 4).err = 1 := by decide +kernel
theorem wit_rangeKey : ((keyed true 0x4000).range 4).rekey = false ∧ (∀ l ∈ (keyed true 0x4000).launches, l.2.part ≠ 2) ∧
    ((run (.rangeDisable 4) (keyed true 0x4000)).range 4).enable = false ∧ ((run (.rangeRekey 4) (keyed true 0x4000)).range 4).rekey = true ∧
    ((run (.rekeyComplete 4) (run (.rangeRekey 4) (keyed true 0x4000))).range 4).rekey = false := by decide +kernel

/-- One packet has been sent. -/
def sent (r : BdReq) : State := { up with bdq := [{ die := 0, stack := 0, tag := some 3, req := r }] }
theorem wit_baseDie : let w := sent (.wr [(0x1001000, 9)])
    let a := sent (.atom 0x1001000 0 false false 5)
    let r := sent (.rd 0x1001000 2)
    received w = some { die := 0, stack := 0, tag := some 3, req := .wr [(0x1001000, 9)] } ∧ writeWaits w [(0x1001000, 9)] = false ∧
    Memory.read (run .baseDieWr w).mem 0x1001000 = 9 ∧ (received a).isSome = true ∧
    writeWaits a (cellsOf 0x1001000 4 (combine 0 false false (BitVec.ofNat 32 (ofBytes (Memory.bytes a.mem 0x1001000 4))) 5).toNat) = false ∧
    Memory.bytes (run .baseDieAtom a).mem 0x1001000 4 = [5, 0, 0, 0] ∧ (received r).isSome = true ∧ r.atomFlipped = [] ∧ r.atomBad = [] ∧ r.macBad = [] ∧
    (run .baseDieRd r).replies.map (·.tag) = [3] ∧ (received (sent (.dtc 6))).isSome = true ∧ (run .baseDieDtc (sent (.dtc 6))).bdq = [] ∧
    (∀ p ∈ (run .baseDieRd r).bdq, p.tag ≠ none) ∧ (∀ x ∈ (run .baseDieRd r).replies, x.marl = false ∧ x.die * 4096 + x.tag = 3) ∧
    (run (.baseDieReply 0 3) (run .baseDieRd r)).replies = [] := by decide +kernel

/-- Core 0 holds a byte of line 0x2000, which another core waits for, and adds to its words 1 and 2. -/
def lineBase : State :=
  let x : SiltLine := { line := 0x2000, op := 0, float := false, signed := false, words := [(1, 3), (2, 8)], owners := [0] }
  up.setCore 0 { up.core 0 with l1 := [(0x100004, 0x5A)], holds := [0x2000], narrow := [0x2000], lines := [0x2000], silt := [x] }
theorem wit_lines : (((lineBase.core 0).l1.map Prod.fst).Nodup ∧ lineBase.lineBlocked (some 0) 0x2000 = false ∧ 0x2000 ∈ (lineBase.core 0).holds) ∧
    ((run (.homeWriteArrive 0 0x2000) lineBase).core 0).l1 = [] ∧ (run (.homeWriteArrive 0 0x2000) lineBase).homeByte 0x100004 = 0x5A ∧
    ((run (.narrowHolderPublish 0 0x2000) lineBase).core 0).holds = [] ∧
    (run (.siltMerge 0 0x2000) lineBase).homeBytes 0x100004 4 = [0x5D, 0, 0, 0] ∧ ((run (.siltMerge 0 0x2000) lineBase).core 0).silt = [] := by
  decide +kernel
def fills : State := up.setCore 5 { up.core 5 with invals := [0x2000], misses := [0x2001], lines := [0x2000] }
theorem wit_fills : 0x2000 ∈ (fills.core 5).invals ∧ 0x2001 ∈ (fills.core 5).misses ∧ 0x2001 ∉ (fills.core 5).invals ∧ fills.recalls = [] ∧
    ((run (.invalidationReceive 5 0x2000) fills).core 5).lines = [] ∧ ((run (.lineFill 5 0x2001) fills).core 5).lines = [0x2000, 0x2001] := by
  decide +kernel

/-- The team has a window of two words, neither valid, and a read waits for the second. -/
def filling : State :=
  let s := { up with mem := Memory.write up.mem 0x10001004 0x77 }
  s.setTeam 0 { s.team 0 with windows := [{ sp := 0x100, gb := 0x10001000, len := 8, writable := false, place := [0x10001000, 0x10001004],
                                            valid := [false, false], dirty := [false, false], want := [1] }] }
theorem wit_windowFill : (match sectorOf filling 0 0x41 with | some (i, w, js) => decide (i = 0) && decide (js = [0, 1]) && decide (1 ∈ w.want) | none => false) = true ∧
    (filling.team 0).resident = true ∧ (filling.launch (filling.team 0).launch).record.span = false ∧ (filling.core 0).l1 = [] ∧
    filling.lineBlocked (some 0) (lineOf 0x10001004) = false ∧ (∀ c ∈ filling.cores, c.2.silt = []) ∧
    (run (.windowFill 0 0x41) filling).spBytes 0 0x104 4 = [0x77, 0, 0, 0] := by decide +kernel

/-- A logged write of function 0 waits for the ring at 0x1000_3000. -/
def logging : State := up.setFunc 0 { up.func 0 with logBase := 0x10003000, logEnable := true, logQueue := [{ block := 5, lo := 0, hi := 3 }] }
theorem wit_log : ((run (.logCtlWrite 0 0x8001) up).func 0).logSize = 8 ∧ ((run (.logConsWrite 0 7) up).func 0).logCons = 7 ∧
    (logging.func 0).logQueue.length = 1 ∧ ((logging.func 0).logProd + 2 ^ 32 - (logging.func 0).logCons) % 2 ^ 32 < 2 ^ (logging.func 0).logSize ∧
    (logging.ringWrite 0 (fun i => 0x10003000 + i) (List.replicate 16 1)).isSome = true ∧ ((run (.logRecordAppend 0) logging).func 0).logProd = 1 := by
  decide +kernel

/-- The directory entry of line 0x2000 is lost; its recall, and one that all cores have answered. -/
def lost : State := { up with focus := 0x2000 }
def recalled (cores : List Nat) : State := { lost with recalls := [(0x2000, { cores := cores, since := 0, part := 0 })], now := 120000 }
theorem wit_recalls : linePart lost 0x2000 = some 0 ∧ lost.recalls.find? 0x2000 = none ∧
    ((run .directoryRecall lost).recalls.find? 0x2000).isSome = true ∧ (recalled []).lineClaimed 0x2000 = false ∧
    (run .directoryRebuild (recalled [])).recalls = [] ∧ 0 + 120000 ≤ (recalled [4]).now ∧
    ((run .recallTimeout (recalled [4])).part 0).rstNext = 1 ∧ ((run .recallTimeout (recalled [4])).part 0).rstGo = true := by
  decide +kernel
/-- A reset of partition 0 by a write to PART_CTL is on its way. -/
def resetting : State := run (.partitionReset 0 2) up
theorem wit_reset : Tbl.sortedFrom 0 resetting.launches = true ∧ (resetting.launch 0).stage = .admitted ∧ (resetting.launch 0).part = 0 ∧
    (resetting.part 0).rstGo = true ∧ (resetting.part 0).rstNext = 2 ∧
    ((run (.partitionReset 0 0) resetting).launch 0).stage = .finishing 3 ∧ ((run (.partitionReset 0 0) resetting).team 0).resident = false ∧
    ((run (.partitionReset 0 0) resetting).part 0).rstCause = 2 := by decide +kernel
/-- An atom with one wrong bit, and the scrubber at work on it. -/
def flipped : State := { up with pkg := { up.pkg with scrubDays := 1 }, atomFlipped := [0x8000] }
theorem wit_scrub : flipped.stackOf (32 * 0x8000) = 0 ∧ (flipped.die 0).scrub = none ∧ flipped.pkg.errCe = false ∧
    ((run (.scrubAtom 0 0x8000) flipped).die 0).scrub = some (0x8000, false) ∧
    (run (.scrubAtom 0 0x8000) (run (.scrubAtom 0 0x8000) flipped)).atomFlipped = [] ∧
    (flipped.core 3).issueAt + 4096 ≤ 5000 ∧ ((run (.bankDrowsy 3 1) { flipped with now := 5000 }).core 3).drowsy = [1] ∧
    (run (.errCtlWrite 0x7001) flipped).pkg.errSize = 7 := by decide +kernel

/-! ## Events: the network -/

theorem wit_netTables : ((run (.vdnCommit 5 (7 * 2 ^ 48 + 1)) up).vdn 5).vmid = 7 ∧ ((run (.vdnCommit 5 1) up).vdn 5).gen = 1 ∧
    (let s := up.setNet 3 { valid := true }
     (s.net 3).valid = true ∧ (s.net 3).state = 0 ∧ s.pkg.rptEnable = false ∧ ((s.net 3).queues.getD 16 {}).reqs = [] ∧
     ((s.net 3).queues.getD 17 {}).reqs = [] ∧ ((run (.netctxArm 3) s).net 3).state = 1 ∧ ((run (.netctxInvalidate 3) s).net 3).valid = false) ∧
    (let s := { up.setNet 3 { valid := true, state := 1 } with now := 1200000 }
     (s.net 3).armedAt + 1200000 ≤ s.now ∧ ((run (.forwardTimerExpire 3) s).net 3).state = 2) := by decide +kernel

/-- Context 3 of the address space of the group, with one request in queue 2, which names VDN entry 5. -/
def netting (r : WorkReq) : State :=
  (up.setNet 3 { valid := true, queues := [(2, { reqs := [r], serial := 1 })] }).setVdn 5 { valid := true, gen := 1, cFep := 4, cJob := 6, cPid := 8 }
/-- A put of 8 bytes from 0x1000_1000, and a get of 8 bytes. -/
def request (op : Nat) : WorkReq :=
  { raw := op + 5 * 2 ^ 16 + 8 * 2 ^ 32 + 0x10001000 * 2 ^ 64 + 0x2000 * 2 ^ 128, group := 0, launch := 0, pc := 0x60, serial := 0 }
/-- One whose packet 0 has gone out under message number 9. -/
def underWay (op : Nat) (gen : Nat) (tries moved : Nat) (recheck : Option Nat) : WorkReq :=
  let x : SentPkt := { pkt := 0, data := [1, 2, 3, 4, 5, 6, 7, 8], acked := false, gen := gen, at_ := 0, tries := tries, moved := moved, recheck := recheck }
  { request op with started := true, msg := 9, pkts := [x] }

/-- The bytes at 0x1000_1000 read as 0 to the engines. -/
def readsZeros (s : State) (n : Nat) : Bool :=
  reads s 0 0x10001000 n fun _ bs => decide (bs = List.replicate n 0)

theorem wit_wrStart : let s := netting (request 0)
    netRuns s 3 = true ∧ reqOf s 3 2 0 = some (request 0) ∧ nextReq s 3 2 = some (request 0) ∧ (request 0).malformed = false ∧
    vdnRefused s 3 (request 0) = false ∧ localFault s 0 (request 0) = none ∧ (request 0).op = 0 ∧ (request 0).laddr = 0x10001000 ∧
    readsZeros s 8 = true ∧ (run (.wrStart 3 2) s).out.length = 1 := by decide +kernel
theorem wit_ack : let s := netting (underWay 0 1 0 0 none)
    answered s 3 2 9 = some (underWay 0 1 0 0 none) ∧ (underWay 0 1 0 0 none).lctr = 0 ∧ (∀ x ∈ (underWay 0 1 0 0 none).pkts, x.pkt ∈ [0]) ∧
    reqOf (run (.packetAckReceive { pid := 3, queue := 2, msg := 9, placed := [0], missing := [], refused := false }) s) 3 2 0 = none := by decide +kernel
theorem wit_response : let r := underWay 1 1 0 0 none
    let s := netting r
    (∀ f ∈ s.funcs, f.2.trcEnable = false) ∧ answered s 3 2 9 = some r ∧ r.op = 1 ∧ r.lctr = 0 ∧ r.got = [] ∧ r.length = 8 ∧ r.psz = 0 ∧ r.laddr = 0x10001000 ∧
    s.intervals engineCore 0 .write (CopyCmd.pages 2 0x10001000 8) = .ok [(0x10001000, 8, none)] ∧ s.rangeBlocked none 0x10001000 8 = false ∧
    (∀ c ∈ s.cores, c.2.silt = []) ∧
    let t := run (.responseReceive { pid := 3, queue := 2, msg := 9, pkt := 0, data := [1, 2, 3, 4, 5, 6, 7, 8] }) s
    t.homeBytes 0x10001000 8 = [1, 2, 3, 4, 5, 6, 7, 8] ∧ reqOf t 3 2 0 = none := by decide +kernel

/-- A packet's time has come: it has tries left, or none; its entry has a new GEN, or not. -/
def late (gen tries moved : Nat) (recheck : Option Nat) : State :=
  { netting (underWay 0 gen tries moved recheck) with now := 10 ^ 6, pkg := { up.pkg with retryMax := 3, movedMax := 3, rtoUs := 100 } }
theorem wit_timeouts : (waitingPacket (late 1 0 0 none) 3 2 9 0).isSome = true ∧ 0 + max 1 100 * 600 ≤ (late 1 0 0 none).now ∧
    (run (.notReadyReceive 3 2 9 0) (late 1 0 0 none)).net 3 ≠ (late 1 0 0 none).net 3 ∧ (run (.retransmitTimeout 3 2 9 0) (late 1 0 0 none)).out.length = 1 ∧
    (underWay 0 1 2 0 none).ectr = 0 ∧ (((run (.retransmitTimeout 3 2 9 0) (late 1 2 0 none)).net 3).queues.getD 2 {}).code = 3 := by decide +kernel
theorem wit_moved : (waitingPacket (late 0 0 0 none) 3 2 9 0).isSome = true ∧ ((late 0 0 0 none).vdn 5).gen ≠ 0 ∧
    (run (.movedReceive 3 2 9 0) (late 0 0 0 none)).out.length = 1 ∧ (run (.movedReceive 3 2 9 0) (late 1 0 0 none)).out = [] ∧
    (((run (.movedReceive 3 2 9 0) (late 1 0 2 none)).net 3).queues.getD 2 {}).code = 4 ∧
    (waitingPacket (late 0 0 0 (some 5)) 3 2 9 0).isSome = true ∧ (run (.movedRecheck 3 2 9 0) (late 0 0 0 (some 5))).out.length = 1 ∧
    (run (.movedRecheck 3 2 9 0) (late 1 0 0 (some 5))).out = [] := by decide +kernel

/-- A packet of 4 bytes for context 3 of job 6. -/
def arriving (op : NetOp) : NetPacket :=
  { jobid := 6, src := 5, pid := 3, queue := 1, msg := 2, pkt := 0, mode := .rud, op := op, length := 4, psz := 0, raddr := 0x10001000, rctr := 0, atop := 0,
    atype := 1, opnd := 7, anew := 0, data := if op = .put then [1, 2, 3, 4] else [] }
def target (state : Nat) : State := up.setNet 3 { valid := true, state := state, jobid := 6 }
theorem wit_target_refused : ((up.net 3).valid = false ∧ (run (.packetReceive (arriving .put)) up).out.length = 1) ∧ ((target 1).net 3).state = 1 ∧
    (run (.packetReceive (arriving .put)) (target 1)).out.length = 1 ∧ (target 2).out = [] ∧
    (run (.packetReceive (arriving .put)) (target 2)).out.length = 1 ∧ (run (.packetReceive (arriving .put)) (target 3)).out.length = 1 := by
  decide +kernel
/-- What the target knows of the message, where the words lie, and that nothing of them waits. -/
def expects (op : NetOp) : Bool :=
  let s := target 0
  let p := arriving op
  let m := rxOf s p
  !m.refused && m.placed.isEmpty && !m.counted && m.slot.isNone && m.answer.isNone && decide (m.total = 1) && !rodWaits s p && (pageHeld s 3 p.raddr 4).isNone &&
  !s.rangeBlocked none 0x10001000 4 && s.cores.all fun c => c.2.silt.isEmpty
theorem wit_target : (expects .put && expects .get && expects .atomic) = true ∧ readsZeros (target 0) 4 = true ∧
    (target 0).intervals engineCore 0 .write (CopyCmd.pages (4 / 65536 + 2) 0x10001000 4) = .ok [(0x10001000, 4, none)] ∧
    (target 0).intervals engineCore 0 .atomic [(0x10001000, 4)] = .ok [(0x10001000, 4, none)] ∧
    (run (.packetReceive (arriving .put)) (target 0)).homeBytes 0x10001000 4 = [1, 2, 3, 4] ∧
    (run (.packetReceive (arriving .get)) (target 0)).out.length = 1 ∧ (run (.packetReceive (arriving .atomic)) (target 0)).homeBytes 0x10001000 4 = [7, 0, 0, 0] := by
  decide +kernel

/-! ## Events: migration and stop, reports, samples, debug -/

/-- Context 3 is valid; a round of copying over range 0 is on its way. -/
def marl : State := (up.setNet 3 { valid := true }).setDie 0 { up.die 0 with src := 0x100, lim := 0x200 }
def roundOf (mode : Nat) : Nat := 2 ^ 63 + mode * 2 ^ 60 + 5 * 2 ^ 36 + 3 * 2 ^ 16
theorem wit_marl : (marl.die 0).go = false ∧ (marl.die 0).dirty = [] ∧ (∃ r ∈ marl.ranges, r.2.enable = true ∧ r.2.base ≤ 0x200 ∧ 0x100 ≤ r.2.limit) ∧
    (marl.net 3).valid = true ∧ ((run (.marlCopyRound 0 (roundOf 0)) marl).die 0).go = true ∧ ((run (.marlClearRound 0 (roundOf 1)) marl).die 0).mode = 1 ∧
    ((run (.marlDrainRound 0 (roundOf 2)) marl).die 0).mctx = 3 ∧ (up.net 3).valid = false ∧
    ((run (.marlCopyRound 0 (roundOf 0)) up).die 0).err = true := by decide +kernel
theorem wit_marlEnd : let s := run (.marlCopyRound 0 (roundOf 0)) marl
    s.focus = 0 ∧ (s.die 0).failed = false ∧ marlOutstanding s 0 = false ∧ (s.die 0).reading = [] ∧ (s.die 0).visit = [] ∧ (s.die 0).run = none ∧
    nextSummary s 0 = none ∧ (s.die 0).mode ≠ 2 ∧ ((run .marlRoundEnd s).die 0).go = false := by decide +kernel

/-- VMID 1 is bound to virtual function 1: the team, context 3 and the block of queue 7 are its own. -/
def vfBase : State :=
  let s := marl.setLaunch 0 { marl.launch 0 with vmid := 1 }
  { s with vmids := s.vmids.set 1 { root := 0x100000, valid := true, func := 1 }, spaces := s.spaces.set 0 { root := 0x200000, vmid := 1, valid := true },
           savedQueues := [(7, { up.queue 5 with vmid := 1, size := 4, taken := 9, cons := 8, prod := 12 })] }
def quiescing : State := run (.vfQuiesce { func := 1, value := 2 ^ 63 + 1 * 2 ^ 56 }) vfBase
def quiesced : State := run (.quiesceComplete 1) quiescing
/-- It has nothing to run. -/
def vfEmpty : State := { vfBase with teams := [], groups := [], queues := vfBase.queues.set 7 { up.queue 5 with vmid := 1 } }
theorem wit_vf : (vfBase.func 1).vfGo = false ∧ (vfBase.func 1).vfState = 0 ∧ (quiescing.func 1).vfGo = true ∧ (quiescing.func 1).vfCmd = 1 ∧ (quiescing.func 1).vfState = 0 ∧
    quiesceReady quiescing 1 = true ∧ coresBlocked quiescing (funcCores quiescing 1) = false ∧ (quiesced.func 1).vfState = 1 ∧ (quiesced.net 3).state = 3 ∧
    3 ∈ funcNets quiesced 1 ∧ Tbl.sortedFrom 0 quiesced.nets = true ∧ ((run (.vfResume { func := 1, value := 2 ^ 63 + 3 * 2 ^ 56 }) quiesced).net 3).state = 0 := by decide +kernel
theorem wit_save : 0 ∈ funcTeams quiesced 1 ∧ ((run (.vfSave { func := 1, value := 2 ^ 63 + 2 * 2 ^ 56 }) quiesced).team 0).resident = false ∧ ((run (.vfSave { func := 1, value := 2 ^ 63 + 2 * 2 ^ 56 }) quiesced).saved.find? 0).isSome = true ∧
    ((run (.vfSave { func := 1, value := 2 ^ 63 + 2 * 2 ^ 56 }) quiesced).func 1).vfCmd = 2 ∧ ((run (.saveComplete 1) (run (.vfSave { func := 1, value := 2 ^ 63 + 2 * 2 ^ 56 }) quiesced)).func 1).vfState = 2 ∧
    vfAccepts vfBase 1 2 = false ∧ ((run (.vfctlRefused 1 (2 ^ 63 + 2 * 2 ^ 56)) vfBase).func 1).vfErr = true := by decide +kernel
theorem wit_vfRestore : runsNothing vfEmpty 1 = true ∧ Tbl.sortedFrom 0 vfEmpty.savedQueues = true ∧ vmidOf vfEmpty 1 1 = true ∧
    (vfEmpty.queue 7).enable = false ∧ (vfEmpty.queue 7).vmid = 1 ∧ (vfEmpty.savedQueues.find? 7).isSome = true ∧ (vfEmpty.func 1).vfGo = false ∧ (vfEmpty.func 1).vfState = 0 := by decide +kernel

/-- The report ring at 0x1000_0000 is enabled. -/
def reporting : State := { marl.setFunc 0 { marl.func 0 with logEnable := true } with pkg := { marl.pkg with rptBase := 0x10000000, rptEnable := true } }
theorem wit_reports : (reporting.pkg.rptProd + 2 ^ 32 - reporting.pkg.rptCons) % 2 ^ 32 < 2 ^ reporting.pkg.rptSize ∧ reporting.pkg.rptWait = [] ∧
    reporting.pkg.rptGo = false ∧ reporting.pkg.jobGo = false ∧ (reportable reporting 0 0).isSome = true ∧ chainHeld reporting 0 = false ∧ (reporting.net 3).valid = true ∧
    ((run (.rptCmdRefused (2 ^ 63 + 2 * 2 ^ 60)) reporting).pkg).rptErr = true ∧ (run (.rptCtlWrite 0x6001) reporting).pkg.rptSize = 6 ∧
    (run (.rptConsWrite 9) reporting).pkg.rptCons = 9 := by decide +kernel
/-- The tables of stage 2 of VMID 0, which the address map lets it read and no walker has cached, map the first GiB to itself, for write, in one
range of its partition. -/
def mapsFirst (s : State) : Bool :=
  let e0 := s.tableEntry (s.vm 0).root
  let e1 := s.tableEntry (bitsOf e0 51 8 * 256)
  (s.vm 0).valid && bitOf e0 0 && bitOf e0 1 && !Xlat.malformed 2 0 e0 && bitOf e1 0 && !bitOf e1 1 && !Xlat.malformed 2 1 e1 && decide (bitsOf e1 51 30 = 0) &&
  bitOf e1 2 && decide (bitsOf e1 9 8 = 0) && decide (s.walkers.getD State.noDie [] = []) && decide (s.mapCause 0 (s.vm 0).root = none) &&
  decide (s.mapCause 0 (bitsOf e0 51 8 * 256) = none) &&
  match s.ranges with
  | (_, r) :: _ => r.enable && decide (r.base = 0) && decide (0x3FFF ≤ r.limit) && r.part == (s.vm 0).part
  | [] => false
theorem writable {s : State} (h : mapsFirst s = true) {a : Nat} (ha : a < 2 ^ 30) :
    ∃ x, s.translateFunc 0 a .write = .ok x ∧ x.kind = 0 := by
  unfold mapsFirst at h
  simp only [Bool.and_eq_true, Bool.not_eq_true', decide_eq_true_eq] at h
  obtain ⟨⟨⟨⟨⟨⟨⟨⟨⟨⟨⟨⟨⟨h1, h2⟩, h3⟩, h4⟩, h5⟩, h6⟩, h7⟩, h8⟩, h9⟩, h10⟩, hk⟩, hm0⟩, hm1⟩, h11⟩ := h
  have i0 : Xlat.index 2 0 a = 0 := by
    simp only [Xlat.index, bitsOf, Nat.shiftRight_eq_div_pow]; rw [Nat.div_eq_of_lt (by simpa using Nat.lt_of_lt_of_le ha (by decide))]; rfl
  have i1 : Xlat.index 2 1 a = 0 := by
    simp only [Xlat.index, bitsOf, Nat.shiftRight_eq_div_pow]; rw [Nat.div_eq_of_lt (by simpa using ha)]; rfl
  have hr {level p : Nat} (hp : s.mapCause 0 p = none) : s.readTable2 State.noDie 0 a level p = .ok (s.tableEntry p) := by
    simp only [State.readTable2, State.walkHit, hk, List.findSome?_nil, hp]
  have hw : s.walk2 State.noDie 0 a = .ok (a, s.tableEntry (bitsOf (s.tableEntry (s.vm 0).root) 51 8 * 256), 1) := by
    unfold State.walk2
    rw [if_neg (by omega)]
    simp only [h1, Xlat.walk, i0, i1, Nat.mul_zero, Nat.add_zero, hr hm0, hr hm1, h2, h3, h4, h5, h6, h7, Xlat.pageShift, h8, Nat.zero_mul, Nat.zero_add,
      Nat.mod_eq_of_lt ha, Bool.not_true, Bool.false_eq_true, if_false, if_true]
  have hs : a / 65536 * 65536 + a % 65536 = a := by omega
  have hmap : s.mapCause 0 a = none := by
    split at h11
    · rename_i fst r rest hr
      simp only [Bool.and_eq_true, decide_eq_true_eq, beq_iff_eq] at h11
      have hg : s.rangeOf a = some (fst, r) := by
        unfold State.rangeOf
        rw [hr, List.find?_cons_of_pos]
        simp only [Bool.and_eq_true, decide_eq_true_eq]
        exact ⟨⟨h11.1.1.1, by omega⟩, by omega⟩
      simp [State.mapCause, hg, h11.2]
    · simp at h11
  simp [State.translateFunc, State.funcVmid, State.translate2, hw, State.permit, h9, h10, hs, hmap]
/-- Whether a ring can be written there does not depend on the bytes. -/
theorem ringCells_first {s : State} (h : mapsFirst s = true) (b : Nat) : ∀ (bs : List Byte) (i : Nat), b + i + bs.length ≤ 2 ^ 30 →
    (s.ringCells 0 (fun i => b + i) i bs).isOk = true
  | [], _, _ => rfl
  | x :: bs, i, hi => by
    simp only [List.length_cons] at hi
    obtain ⟨y, hy, hk⟩ := writable h (a := b + i) (by omega)
    have ih := ringCells_first h b bs (i + 1) (by omega)
    simp only [State.ringCells, hy, hk, bne_self_eq_false, Bool.false_eq_true, if_false]
    revert ih; cases State.ringCells s 0 (fun i => b + i) (i + 1) bs <;> simp [Except.map, Except.isOk, Except.toBool]
theorem ringWrite_first {s : State} (b n : Nat) (h : mapsFirst (s.ringWalked 0 (fun i => b + i) n) = true) (bs : List Byte) (hn : bs.length = n)
    (hi : b + n ≤ 2 ^ 30) : (s.ringWrite 0 (fun i => b + i) bs).isSome = true := by
  subst hn
  have hc := ringCells_first h b bs 0 (by omega)
  cases hr : (s.ringWalked 0 (fun i => b + i) bs.length).ringCells 0 (fun i => b + i) 0 bs with
  | error e => simp [hr, Except.isOk, Except.toBool] at hc
  | ok cs => simp [State.ringWrite, hr]
theorem wit_reportWrite (r : ReportReq) (status : Nat) : (reporting.ringWrite 0 (fun i => 0x10000000 + i) (reportBytes reporting r status)).isSome = true := by
  refine ringWrite_first _ 1088 (by decide +kernel) _ ?_ (by decide)
  simp only [reportBytes, List.length_append, length_toBytes, List.length_flatMap, reportBlock, List.map_const', List.length_map, List.length_range,
    List.sum_replicate]
  decide

/-- Samples of every core of partition 0 are taken, to the ring at 0x1000_3000. -/
def sampling : State := (up.setPart 0 { up.part 0 with period := 4 }).setFunc 0 { up.func 0 with profBase := 0x10003000, profEnable := true, logEnable := true }
theorem wit_samples : sampling.partOf 0 = some 0 ∧ (sampling.part 0).period ≠ 0 ∧ (sampling.sched 0 0).sampleAt ≤ sampling.now ∧ sampling.answers 0 = true ∧ (nextOccupied sampling 0 0 (sampling.sched 0 0).sampled).isSome = true ∧
    ((sampling.func 0).profProd + 2 ^ 32 - (sampling.func 0).profCons) % 2 ^ 32 < 2 ^ (sampling.func 0).profSize ∧
    (sampling.ringWrite 0 (fun i => 0x10003000 + i) (List.replicate 16 1)).isSome = true ∧ ((run (.sampleTick 0 0) sampling).func 0).profProd = 1 ∧
    ((run (.profCtlWrite 0 0x9001) sampling).func 0).profSize = 9 ∧ ((run (.trcCtlWrite 0 0x9001) sampling).func 0).trcSync = true ∧
    (sampling.func 0).trcLost = 0 ∧ ((run (.trcConsWrite 0 5) sampling).func 0).trcCons = 5 := by decide +kernel

/-- The commands name core 0, GSLOT 0. -/
def dbgCommand (n : Nat) : Nat := 2 ^ 63 + n * 2 ^ 56
def atRest : State := run (.dbgHalt 0 (dbgCommand 1)) (up.setFunc 0 { up.func 0 with dbgArg := 0x90 })
def recording : State := atRest.setFunc 0 { atRest.func 0 with dbgArg := 0x10004000, logEnable := true }
theorem wit_debug : up.answers 0 = true ∧ (dbgTarget up 0 0 0).isSome = true ∧ (dbgTarget atRest 0 0 0).isSome = true ∧ (up.func 0).dbgGo = false ∧ commitRuns up (up.group 0) = false ∧
    (up.group 0).halted = false ∧ (atRest.group 0).halted = true ∧ ((run (.dbgResume 0 (dbgCommand 2)) atRest).group 0).halted = false ∧
    ((run (.dbgStep 0 (dbgCommand 3)) atRest).group 0).stepOnce = true ∧ ((run (.dbgCmdRefused 0 (dbgCommand 6)) atRest).func 0).dbgErr = true := by decide +kernel
theorem wit_focus : focusAllowed atRest (atRest.group 0) false 5 0x90 = true ∧ (atRest.group 0).stack = [] ∧
    ((run (.dbgLaneFocus 0 (dbgCommand 4 + 5 * 2 ^ 16)) atRest).group 0).slotA.active = 32 ∧
    ((run (.dbgLaneFocus 0 (dbgCommand 4 + 5 * 2 ^ 16)) atRest).group 0).stack.length = 2 := by decide +kernel
theorem wit_record : groupHalted recording (recording.group 0) = true ∧ (recording.group 0).stable = true ∧
    (groupRecordBytes (recording.group 0)).length = 2480 := by decide +kernel
theorem wit_recordWrite : (recording.ringWrite 0 (fun i => 0x10004000 + i) (groupRecordBytes (recording.group 0))).isSome = true :=
  ringWrite_first _ 2480 (by decide +kernel) _ wit_record.2.2 (by decide)

/-! ## Words written out from the spec's encodings (05, Table 5.1 and each entry's table) -/

/-- `movi v5, 0x12345678`; `and v1, v2, v3`; `icmp.i32.ne p0, v1, v2`; `hfma2.f16 v4, v5, v6, v7`; `rcp.f32 v9, v8` where p1 is 0; `cvt` to
BF16 from FP16; `vote.quota v3, p1, #2`; `pand p2, p0, p1` with B negated; `loop` of level 1, body length 100, s4 times; `exit` where p3; `accz` of
tile 7 with release; `cpy.g2s s2, s8, #16`; `fence` of code 14; `bar.sync` 9 for #64; `lkacq s8`; `lineage` of mode 1 to v6; `nstat` of
queue 2, SEL 3, to s4; `rdsr s1` of index 10; `cwb s8, s4`; `mtrd` of counter 3 to s10; `halt`. -/
theorem test_decode_families : ∀ p ∈ ([
    (0x0159E048_D0000000_51E00063, .movi { fn := 0x800, d := 0x14, b := 0x1234, aux := 0x5678 }),
    (0x00000000_30002000_11C00050, .bitAnd { d := 0x4, a := 0x8, b := 0xC }),
    (0x00000000_20001001_05C10060, .icmp { fn := 0x40, d := 0x41, a := 0x4, b := 0x8 }),
    (0x00007000_60005000_41C028D2, .hfma2 { fn := 0xA, d := 0x10, a := 0x14, b := 0x18, aux := 0x1C }),
    (0x00000000_00008000_924020E0, .rcp { grd := 0x9, fn := 0x8, d := 0x24, a := 0x20 }),
    (0x00000000_00002000_11CA24F0, .cvt { fn := 0x289, d := 0x4, a := 0x8 }),
    (0x00000000_2C011400_31C04142, .vote { fn := 0x10, d := 0xC, a := 0x45, b := 0xB }),
    (0x00000001_14010401_25C08150, .pand { fn := 0x20, d := 0x49, a := 0x41, b := 0x45 }),
    (0x00019000_00004800_01C00409, .loop { fn := 0x1, a := 0x12, aux := 0x64 }),
    (0x00000000_00000000_00C00008, .exit { grd := 0x3 }),
    (0x00000000_00000000_01C03D88, .accz { fn := 0xF }),
    (0x00000001_0C008800_29C001E0, .cpyG2s { d := 0xA, a := 0x22, b := 0x43 }),
    (0x00000000_00000000_01DC0240, .fence { fn := 0x700 }),
    (0x00000000_00040C00_01C02648, .barSync { fn := 0x9, a := 0x103 }),
    (0x00000000_00008800_01C00258, .lkacq { a := 0x22 }),
    (0x00000000_00000000_61C00683, .lineage { fn := 0x1, d := 0x18 }),
    (0x08000000_00000000_49C0CAA2, .nstat { fn := 0x32, d := 0x12, la := 2 }),
    (0x00002800_00000000_19C002C3, .rdsr { d := 0x6, aux := 0xA }),
    (0x00000000_48008800_01C002C8, .cwb { a := 0x22, b := 0x12 }),
    (0x3C000C00_00000000_A9C002D8, .mtrd { d := 0x2A, aux := 0x3, la := 15 }),
    (0x00000000_00000000_01C002E0, .halt {})] : List (BitVec 96 × Instr)), decodeWord p.1 = .ok p.2 := by decide +kernel

/-- Three little-endian words, the first at the lowest address (00, R3); the bytes after it stay. -/
theorem test_decode_bytes : decode [0x63, 0x00, 0xE0, 0x51, 0x00, 0x00, 0x00, 0xD0, 0x48, 0xE0, 0x59, 0x01, 0xAB] =
    .ok (.movi { fn := 0x800, d := 0x14, b := 0x1234, aux := 0x5678 }, [0xAB]) := by decide +kernel

/-! ## Ill-formed words and steps (05, Table 5.10) -/

theorem test_illFormed_short : decode [0x01, 0x00, 0xC0, 0x01, 0, 0, 0, 0, 0, 0, 0] = .error .short := by decide +kernel
theorem test_illFormed_unassigned : decodeWord 0x01C00000 = .error .unassigned ∧ decodeWord 0x01C0000F = .error .unassigned ∧
    decodeWord 0x01C00300 = .error .unassigned := by decide +kernel
/-- `icmp` with CC 6, and `fence` with MO 0. -/
theorem test_illFormed_combination : Instr.wellFormed (.icmp { fn := 0x180, d := 0x41, a := 4, b := 8 }) = false ∧ Instr.wellFormed (.fence {}) = false ∧
    Forms.check 0x060 { fn := 0x180, d := 0x41, a := 4, b := 8 } = some .fnCombination := by decide +kernel
theorem test_illFormed_lookahead : Forms.check 0x040 { d := 4, a := 8, b := 0xC, la := 1 } = some .lookahead ∧
    Instr.wellFormed (.iadd { d := 4, a := 8, b := 0xC, la := 1 }) = false := by decide +kernel
theorem test_illFormed_branchHint : Forms.check 0x040 { d := 4, a := 8, b := 0xC, bh := 1 } = some .branchHint ∧
    Instr.wellFormed (.iadd { d := 4, a := 8, b := 0xC, bh := 1 }) = false := by decide +kernel
theorem test_illFormed_unused : Forms.check 0x001 { d := 4 } = some .unusedField ∧ Instr.wellFormed (.nop { d := 4 }) = false := by decide +kernel
/-- No function 300, no stack 8, no core 2000 exists. -/
theorem test_illFormed_event : Instr.wellFormed (.vfQuiesce { func := 300, value := 0 }) = false ∧ Instr.wellFormed (.bankDrowsy 2000 0) = false ∧
    Instr.wellFormed (.scrubAtom 8 0) = false := by decide +kernel

/-! ## The spec's worked examples -/

/-- The test machine with vector registers that hold the given words in lanes 0, 1, … -/
def withVecs (vs : Tbl (List Word)) : State :=
  withGroup fun g => { g with vregs := vs.map fun v => (v.1, { vals := v.2 ++ List.replicate (32 - v.2.length) 0, poison := 0 }) }
/-- The first lanes of a vector register. -/
def lanes (s : State) (v n : Nat) : List Word := ((s.group 0).vreg v).vals.take n

/-- 08, R179, R180: a saturating multiply-accumulate and its narrowing. -/
def mulAdd : State :=
  run (.pmad2 { fn := 1, d := 0x28, a := 0x08, b := 0x0C, aux := 0x28 })
    (withVecs [(2, [0x75307530, 0xFF380064]), (3, [0x75307530, 0x0032012C]), (10, [0x17D78400, 5])])
theorem test_pmad2 : lanes mulAdd 10 2 = [0x7FFFFFFF, 0x4E25] ∧ (mulAdd.group 0).sat = true := by decide +kernel
theorem test_rshr : lanes (run (.rshr { fn := 1, d := 0x2C, a := 0x28, b := 0x13 }) mulAdd) 11 2 = [0x7FFF, 0x4E2] := by decide +kernel

/-- 07, R158, R159: FP32 to E4M3, 1.21875 to nearest and towards 0, 500.0, and infinity. -/
theorem test_cvt : lanes (run (.cvt { fn := 0x20B, d := 0x04, a := 0x08 }) (withVecs [(2, [0x3F9C0000, 0x43FA0000, 0x7F800000])])) 1 3 = [0x3A, 0x7E, 0x7E] ∧
    lanes (run (.cvt { fn := 0x21B, d := 0x04, a := 0x08 }) (withVecs [(2, [0x3F9C0000])])) 1 1 = [0x39] := by decide +kernel

/-- 07, R169. -/
theorem test_philox : philox 0 (0, 0, 0, 0) = (0x6627E8D5, 0xE169C58D, 0xBC57AC4C, 0x9B00DBD8) := by decide +kernel

/-- 08, R196: a stream of 64 halves delayed by one sample. -/
theorem test_slide :
    let s := withVecs [(4, (List.range 32).map fun l => BitVec.ofNat 32 (2 * l + 65536 * (2 * l + 1))), (5, List.replicate 31 0 ++ [0xFFFF0000])]
    let t := run (.slide { fn := 0x005, d := 0x18, a := 0x10, b := 0x07, aux := 0x14 }) s
    lanes t 6 1 = [0x0000FFFF] ∧ (lanes t 6 6).getD 5 0 = 0x000A0009 ∧ (lanes t 6 32).getD 31 0 = 0x003E003D := by decide +kernel

/-- 09, R224: the second candidate is taken. -/
theorem test_qnt :
    let vs : Tbl (List Word) := [(0, [0x3FC00000])] ++ (List.range 3).map (fun i => (i + 1, [0x36800000])) ++ (List.range 28).map (fun i => (i + 4, [0x3E800000]))
    let s := withVecs vs
    let s := s.setGroup 0 { s.group 0 with slotA := { (s.group 0).slotA with fmt := 0x00420000, active := 1 } }
    let t := run (.qnt { fn := 0x01B, d := 0xA0, a := 0x00, b := 0xC8, aux := 0xCC }) s
    lanes t 40 1 = [0x0101017E] ∧ lanes t 41 1 = [0x70707070] ∧ lanes t 47 1 = [0x70707070] ∧ lanes t 50 1 = [0x76] ∧ lanes t 51 1 = [0] := by
  decide +kernel

/-- 10, R231, R232: the stack, the channel and the home slice of an address. -/
theorem test_place :
    let r : RangeEntry := { base := 0x200000, limit := 0x23FFFF, gran := 4, stackLog := 2, chBase := 8, chLog := 3, sliceBase := 32, sliceLog := 4, enable := true }
    (State.placeOf r 0x2000654567).1 = 0 ∧ (State.placeOf r 0x2000654567).2.1 = 13 ∧ (State.placeOf r 0x2000654567).2.2 = 0x32567 ∧
    State.homeSlice r 0x2000654567 = 32 := by decide +kernel

/-- 11, R251, R252: offsets through a record. -/
theorem test_tensor :
    let r : Nat := rec2 0x4000000000
    Tensor.ok r = true ∧ Tensor.inside r [37, 5] = true ∧ Tensor.addr r [37, 5] = 0x400000055A ∧ Tensor.inside r [100, 5] = false ∧
    Tensor.inside r [-1, 0] = false := by decide +kernel

/-- 03, R60–R63: both stages of a translation, the tables of stage 1 at their own stage-2 addresses; the page may not be fetched from. -/
def walked : State :=
  let e (a n x : Nat) : List Host.Cell := cellsAt (a + 8 * n) (toBytes 8 x)
  let s := { State.reset with mem := Memory.writeAll [] (e 0x10000 1 0x20003 ++ e 0x20000 257 0x30003 ++ e 0x30000 209 0x40003 ++ e 0x40000 3 0x123450005 ++
                                       e 0x50000 0 0x60003 ++ e 0x60000 0 0xD ++ e 0x60000 4 0x70003 ++ e 0x70000 282 0x200060000D) }
  { s with ranges := [(0, { base := 0, limit := 0x3FFFF, enable := true }), (1, { base := 0x200000, limit := 0x23FFFF, enable := true })],
           spaces := s.spaces.set 9 { root := 0x10000, vmid := 4, valid := true }, vmids := s.vmids.set 4 { root := 0x50000, valid := true } }
theorem test_translate : (match walked.translate 0 9 0xC05A234567 .read with | .ok x => decide (x.pa = 0x2000654567) | .error _ => false) = true ∧
    (match walked.translate 0 9 0xC05A234567 .fetch with | .ok _ => false | .error x => decide (x.cause = 4) && decide (x.stage = 1)) = true := by
  decide +kernel

/-- 02, R31: a slot number. -/
theorem test_slotNumber :
    let s := base.setLaunch 0 { base.launch 0 with record := { (base.launch 0).record with width := 2, slots := 8, teams := 2 } }
    laneNumber (s.setTeam 1 { s.team 0 with teamid := 1 }) { base.group 0 with width := 64, grpid := 3, team := 1 } 10 = 458 := by decide +kernel

/-- 12, R271, R282: an addition to memory, once its Silt words have combined. -/
theorem test_red :
    let s := { memBase with mem := Memory.write memBase.mem 0x10001000 9 }
    let t := run (.red { fn := 0x004, d := 0x000B, a := 0x0022, b := 0x0003 }) (s.setGroup 0 { s.group 0 with slotA := { (s.group 0).slotA with active := 1 } })
    (run (.siltMerge 0 (0x10001000 / 128)) t).homeBytes 0x10001000 4 = [11, 0, 0, 0] := by decide +kernel

/-! ## Steps -/

/-- The program `movi v5, 0x12345678`, whose turn it is. -/
def oneWord : State := State.reset.placeProgram [0x63, 0x00, 0xE0, 0x51, 0x00, 0x00, 0x00, 0xD0, 0x48, 0xE0, 0x59, 0x01]
/-- The same after its turn is taken off the agenda. -/
def onTurn : State := { oneWord with agenda := [] }
theorem wit_ready : oneWord.agenda = [.issue 0] ∧ Ready onTurn 0 (onTurn.group 0) false ∧
    (State.fetchBundle onTurn (onTurn.group 0) ((onTurn.group 0).slot false).pc.toNat).map
      (fun ws => ((ws.flatMap Prod.snd).drop (((onTurn.group 0).slot false).pc.toNat % 48)).take 12) = .ok [0x63, 0x00, 0xE0, 0x51, 0x00, 0x00, 0x00, 0xD0, 0x48, 0xE0, 0x59, 0x01] := by
  refine ⟨by decide +kernel, ?_, by decide +kernel⟩
  constructor <;> decide +kernel
theorem test_step : (match step oneWord with | .next t => decide (lanes t 5 2 = [0x12345678, 0x12345678]) && decide ((t.group 0).slotA.pc = 0x6C) | _ => false) = true := by
  decide +kernel
/-- An event turn, and one in which time passes. -/
theorem wit_turns : Forms.wordOf (.queueDisable 5) = none ∧ (Instr.queueDisable 5).wellFormed = true ∧
    (match step { up with agenda := [.event .governorWindow 0, .elapse 7] } with | .next t => decide (t.agenda = [.elapse 7]) | _ => false) = true ∧
    (match step { up with agenda := [.elapse 7] } with | .next t => decide (t.now = 7) | _ => false) = true := by decide +kernel
theorem wit_canonical : Memory.wf oneWord.mem = true ∧ (match step oneWord with | .next t => decide (t.tick = oneWord.tick) | _ => false) = true := by decide +kernel
/-- The instruction `movi` of the test is well-formed and has bytes. -/
theorem wit_encode : (Instr.movi { fn := 0x800, d := 0x14, b := 0x1234, aux := 0x5678 }).wellFormed = true ∧
    (encodeBytes (.movi { fn := 0x800, d := 0x14, b := 0x1234, aux := 0x5678 })).isSome = true := by decide +kernel
/-- The host's placement of a word. -/
theorem test_withFetchWord : (match step (State.reset.withFetchWord 96 0x0159E048D000000051E00063) with
    | .next t => decide (((t.group 0).vreg 5).vals.take 1 = [0x12345678]) | _ => false) = true := by decide +kernel

/-! ## Clauses on walks, resets, logged pages and answers on the move -/

/-- What these statements ask of walks: here the slices hold the lines of the page tables, so that a walk leaves the state as it is. -/
theorem wit_walksMade :
    (let s := finishing.setLaunch 9 { finishing.launch 9 with finalAt := .status }
     s.engineWalked 0 (CopyCmd.pages 2 0x10002070 4) = s) ∧
    (CopyCmd.pages 2 0x10001000 8).foldl (fun s p => s.walkedFunc 0 p.1) up = up ∧
    up.bundleWalked (up.group 0) 0x60 = up ∧
    copyWalked (copying copyOne) 0 copyOne (CopyCmd.globalLeft { copyOne with begun := true }) = copying copyOne ∧
    copyWalked (copyBegun copyOne) 0 copyOne (copyOne.ranges false copyOne.src 0 16) = copyBegun copyOne ∧
    localWalked (netting (request 0)) 0 (request 0) = netting (request 0) ∧
    (target 0).engineWalked 0 [(0x10001000, 4)] = target 0 ∧
    (match (sleeper 9 true 0).waitCtx 0, ((sleeper 9 true 0).group 0).wait with
      | c, .waita w => decide (waitaWalked (sleeper 9 true 0) 0 0 w = sleeper 9 true 0) && c.any | _, _ => false) = true ∧
    (∀ p ∈ up.launches, p.2.stage ≠ .waiting) ∧ (∀ p ∈ finishing.launches, p.2.stage ≠ .waiting) := by decide +kernel

/-- No range is of a partition that is being reset; and range 0 is. -/
theorem wit_noReset : (∀ r ∈ up.ranges, (up.part r.2.part).rstGo = false) ∧ (resetting.rangeOf 0x10001000).map (·.2.part) = some 0 ∧ (resetting.part 0).rstGo = true ∧
    resetting.root.running = true ∧ (match aperturePlaces resetting 0 ((resetting.func 0).aperture + 0x10001000) 8 .read with | .ok ps => decide (ps.length = 8) | _ => false) = true ∧
    (run (.apertureAccess 0 0x10001000 8 none) resetting).out = [.hostRead (List.replicate 8 0xFF)] := by decide +kernel

/-- Stage 2 of VMID 0 says that writes to the first GiB are logged; so it does of VMID 1, in `vfLogged`. -/
def logged (s : State) : State :=
  let a := bitsOf (s.tableEntry (s.vm 0).root) 51 8 * 256
  { s with mem := Memory.write s.mem a (Memory.read s.mem a ||| 0x10) }
def vfLogged : State := let s := logged quiesced; { s with vmids := s.vmids.set 1 { root := (s.vm 0).root, valid := true, func := 1 } }
/-- A ring that no page holds. -/
def ringNowhere : State := ringed.setFunc 0 { ringed.func 0 with fqBase := 0x20000000000 }
theorem wit_ringWaits : (logged ringed).ringWaits 0 (fun i => 0x10004000 + i) 64 = true ∧ ((run (.faultRecordWrite 0) (logged ringed)).func 0).logFull = true ∧
    ringed.ringWaits 0 (fun i => 0x10004000 + i) 64 = false := by decide +kernel
theorem wit_ringNowhere : ringNowhere.ringWaits 0 (fun i => 0x20000000000 + i) 64 = false ∧ ((run (.faultRecordWrite 0) ringNowhere).func 0).fqBlocked = true := by decide +kernel
theorem wit_ringReleased : (match (ringed.func 0).fqWait with
    | r :: _ => match ringed.ringWrite 0 (fun i => 0x10004000 + i) (toBytes 64 (r.bits 1)) with | some u => (u.logReleased 0).isSome | none => false
    | [] => false) = true := by decide +kernel
theorem wit_ringsFree : reporting.ringWaits 0 (fun i => 0x10000000 + i) 1088 = false ∧ sampling.ringWaits 0 (fun i => 0x10003000 + i) 16 = false ∧
    recording.ringWaits 0 (fun i => 0x10004000 + i) 2480 = false := by decide +kernel

/-- A save waits for the log, and is made when the log takes its writes; a save stands behind a function that is resumed. -/
def savePends : State := run (.vfSave { func := 1, value := 2 ^ 63 + 2 * 2 ^ 56 }) vfLogged
def vfSaved : State := run (.saveComplete 1) (run (.vfSave { func := 1, value := 2 ^ 63 + 2 * 2 ^ 56 }) quiesced)
theorem wit_saveWaits : (vfLogged.func 1).vfState = 1 ∧ saveWaits vfLogged 1 = true ∧ (savePends.func 1).vfPending = true ∧ (savePends.func 1).vfGo = true ∧
    saveWaits quiesced 1 = false ∧
    (let s := savePends.setFunc 1 { savePends.func 1 with logEnable := true }
     saveWaits s 1 = false ∧ ((run (.saveComplete 1) s).saved.find? 0).isSome = true) ∧
    (vfSaved.func 1).vfState = 2 ∧ (vfSaved.func 1).vfGo = false ∧ Tbl.sortedFrom 0 vfSaved.nets = true ∧
    ((run (.vfResume { func := 1, value := 2 ^ 63 + 3 * 2 ^ 56 }) vfSaved).func 1).vfState = 3 := by decide +kernel

/-- A spilled group that is older than the group that waits for registers. -/
def elder : State :=
  let s := waitsRegs.setGroup 0 { waitsRegs.group 0 with placedAt := 7 }
  { s.setGroup 1 { up.group 0 with grpid := 1, vregs := [], spilled := some [(3, { vals := [], poison := 0 })] } with now := 256 }
theorem wit_elders : (oldestWaiter elder 0).map (·.1) = some 0 ∧ (elder.core 0).issueAt + 256 ≤ elder.now ∧ elder.clockRuns 0 = true ∧ elder.quiesced 0 = false ∧
    (spilledElders elder (elder.group 0)).map (·.1) = [1] ∧
    (∀ t ∈ elder.teams, t.2.resident = true → poolWaits elder (elder.vmidFunc (elder.launch t.2.launch).vmid) t.2.image = false) ∧
    (elder.group 0).need + ((spilledElders elder (elder.group 0)).map fun p => restoreNeed elder p.2).sum ≤ elder.poolFree 0 ∧
    (elder.group 0).need ≤ (restoreGroup elder 1).poolFree 0 ∧ ((run .spillGroups elder).group 1).spilled = none ∧ ((run .spillGroups elder).group 0).granted = 2 ∧
    pressed.quiesced 0 = false ∧ spilledElders pressed (pressed.group 0) = [] ∧
    (∀ t ∈ pressed.teams, t.2.resident = true → poolWaits pressed (pressed.vmidFunc (pressed.launch t.2.launch).vmid) t.2.image = false) := by decide +kernel

/-- Events of placement and of the engines find clocks that run, slots that fetch, and no logged pool in their way. -/
theorem wit_placementClauses : up.fetchWaits (up.group 0) false = false ∧ (up.group 0).slotA.stream.find? 0x60 = none ∧
    poolWaits leaving (launchFunc leaving (leaving.launch 0)) (leaving.team 0).image = false ∧ (crowded.sched 0 0).due = [] ∧
    (overTeam.team 0).windows.any (overTeam.dirtyClaimed (overTeam.team 0)) = false ∧ spillBlocked wantsSpill (wantsSpill.group 0) = false ∧
    (commits.part (commits.launch 0).part).clusters ≠ 0 ∧ commits.partRuns (commits.launch 0).part = true ∧
    ((commits.launchGroups 0).all fun p => !(commits.team p.2.team).windows.any (commits.dirtyClaimed (commits.team p.2.team)) &&
      !poolWaits commits (commits.vmidFunc (commits.launch 0).vmid) (commits.team p.2.team).image) = true ∧
    ((passing.launchGroups 0).all fun p => !poolWaits passing (passing.vmidFunc (passing.launch 0).vmid) (passing.team p.2.team).image) = true ∧
    (match (mmaQueued.core 0).mq.find? (fun e => e.group == 0) with
      | some e => (kaolinFault (setEntry mmaQueued 0 { e with stage := true }) 0 0 { e with stage := true }) == false | none => false) = true := by decide +kernel

/-- Acknowledgements and answers at a context that forwards are sent on; a packet for a partition that is being reset is not ready. -/
theorem wit_target_moves : ((target 1).net 3).state = 1 ∧
    (run (.packetAckReceive { pid := 3, queue := 2, msg := 9, placed := [0], missing := [], refused := false }) (target 1)).out.length = 1 ∧
    (run (.responseReceive { pid := 3, queue := 2, msg := 9, pkt := 0, data := [] }) (target 1)).out.length = 1 ∧
    (let s := (target 0).setPart 0 { (target 0).part 0 with rstGo := true }
     (s.vm (s.space (s.net 3).asid).vmid).valid = true ∧ (s.part (s.vm (s.space (s.net 3).asid).vmid).part).rstGo = true ∧
       (run (.packetReceive (arriving .put)) s).out.length = 1) ∧
    ((target 0).part ((target 0).vm ((target 0).space ((target 0).net 3).asid).vmid).part).rstGo = false := by decide +kernel

/-- A halt waits for a commit; a trace ring has room again after five records were lost. -/
def committing : State := up.setLaunch 0 { up.launch 0 with commit := (commits.launch 0).commit }
def traceLost : State := up.setFunc 0 { up.func 0 with trcBase := 0x10003000, trcEnable := true, trcLost := 5 }
theorem wit_observeClauses : (dbgTarget committing 0 0 0).isSome = true ∧ commitRuns committing (committing.group 0) = true ∧
    ((run (.dbgHalt 0 (dbgCommand 1)) committing).func 0).dbgGo = true ∧
    traceLost.answers 0 = true ∧ (tracedGroup traceLost 0).isSome = true ∧ (traceLost.func 0).trcSync = false ∧
    (match tracedGroup traceLost 0 with
      | some g => match traceLost.traceBytes 0 ([0x28, 5, 0, 0, 0, 0] ++ syncRecord traceLost g) with
        | some u => decide (tracedGroup u 0 = some g)
        | none => false
      | none => false) = true ∧ ((run (.trcConsWrite 0 0) traceLost).func 0).trcLost = 0 ∧ ((run (.trcConsWrite 0 0) traceLost).func 0).trcSince = 1 := by decide +kernel

/-- The word stands in the slot's stream; and it comes with its bundle. -/
def streamed : State := up.setGroup 0 { up.group 0 with slotA := { (up.group 0).slotA with stream := [(0x60, 0x0159E048D000000051E00063)] } }
theorem wit_stream : Ready streamed 0 (streamed.group 0) false ∧ ((streamed.group 0).slot false).stream.find? 0x60 = some 0x0159E048D000000051E00063 ∧
    (match step { streamed with agenda := [.issue 0] } with | .next t => decide (((t.group 0).vreg 5).vals.take 1 = [0x12345678]) | _ => false) = true := by
  refine ⟨?_, by decide +kernel, by decide +kernel⟩
  constructor <;> decide +kernel
end Sys2Proof.Tests
end

/-! What the rows of the host's registers rest on: laws of tables and bytes, and the frame of everything that a write which reaches its home
sets going. -/

namespace Sys2Proof

theorem Tbl.getD_mapVals {α : Type} (f : Nat → α → α) (t : Tbl α) (k : Nat) {d : α} (hd : f k d = d) :
    Tbl.getD (Tbl.mapVals f t) k d = f k (Tbl.getD t k d) := by
  unfold Tbl.getD
  rw [Tbl.find?_mapVals]
  cases Tbl.find? t k with
  | none => exact hd.symm
  | some v => rfl

theorem toBytes_ofBytes (bs : List Byte) : toBytes bs.length (ofBytes bs) = bs := by
  induction bs with
  | nil => rfl
  | cons b bs ih =>
    have hb := b.isLt
    have hq : (b.toNat + 256 * ofBytes bs) / 256 = ofBytes bs := by omega
    have hr : BitVec.ofNat 8 (b.toNat + 256 * ofBytes bs) = b := by
      apply BitVec.eq_of_toNat_eq
      rw [BitVec.toNat_ofNat]
      omega
    rw [List.length_cons, ofBytes, toBytes, hr, hq, ih]

theorem bitOf_eq_testBit (x n : Nat) : bitOf x n = x.testBit n := by
  rw [bitOf, Nat.testBit_eq_decide_div_mod_eq, Nat.shiftRight_eq_div_pow]
  exact beq_eq_decide _ _

end Sys2Proof

namespace Sys2Proof.Machine

/-! ## What a write that reaches its home leaves alone

Memory's homes, and all that moves with them: packets, slices, the L1s and Silt lines of the cores, windows, sleepers, the counters that
launches wait for, and the functions' logs and rings. -/

/-- A core without its L1's dirty bytes, its holders' records, its Silt lines and the invalidations on their way to it. -/
def Core.rest (k : Core) : Core :=
  { k with l1 := [], l1Poison := [], invals := [], narrow := [], holds := [], spHolds := [], silt := [] }

/-- The machine without the tables that a write which reaches its home may change. -/
def State.rest (s : State) : State :=
  { s with l2 := [], bdq := [], funcs := [], launches := [], teams := [], groups := [], cores := [] }

/-- From `s` to `t` nothing has changed but what moves with memory's homes. -/
def KeepsRest (s t : State) : Prop := t.rest = s.rest ∧ ∀ c, (t.core c).rest = (s.core c).rest

namespace KeepsRest

variable {s t u : State}

theorem refl (s : State) : KeepsRest s s := ⟨rfl, fun _ => rfl⟩

theorem trans (h₁ : KeepsRest s t) (h₂ : KeepsRest t u) : KeepsRest s u :=
  ⟨h₂.1.trans h₁.1, fun c => (h₂.2 c).trans (h₁.2 c)⟩

theorem mem (h : KeepsRest s t) : t.mem = s.mem := by
  have := congrArg State.mem h.1
  exact this

theorem halt (h : KeepsRest s t) (c : Nat) : (t.core c).halt = (s.core c).halt := by
  have := congrArg Core.halt (h.2 c)
  exact this

/-- Where the cores are as before, the tables alone are to be compared. -/
theorem of_cores (hr : t.rest = s.rest) (hc : t.cores = s.cores) : KeepsRest s t :=
  ⟨hr, fun c => by rw [State.core, hc, State.core]⟩

theorem setCore (s : State) (c : Nat) {k : Core} (hk : k.rest = (s.core c).rest) : KeepsRest s (s.setCore c k) := by
  refine ⟨rfl, fun j => ?_⟩
  by_cases hj : j = c
  · subst hj; rw [State.setCore_core_self, hk]
  · rw [State.setCore_core_ne s k hj]

theorem foldl {α : Type} {f : State → α → State} (hf : ∀ s x, KeepsRest s (f s x)) (xs : List α) (s : State) :
    KeepsRest s (xs.foldl f s) := by
  induction xs generalizing s with
  | nil => exact refl s
  | cons x xs ih => exact (hf s x).trans (ih _)

end KeepsRest

/-! ### The operations, each by those it is made of -/

namespace State

theorem keepsRest_send (s : State) (pa : Nat) (req : BdReq) (bad : List Nat) : KeepsRest s (s.send pa req bad) :=
  .of_cores rfl rfl

theorem keepsRest_setFunc (s : State) (fn : Nat) (f : Func) : KeepsRest s (s.setFunc fn f) := .of_cores rfl rfl

theorem keepsRest_setLaunch (s : State) (l : Nat) (x : Launch) : KeepsRest s (s.setLaunch l x) := .of_cores rfl rfl

theorem keepsRest_strikeWindows (s : State) (owner : Option Nat) (cells : List Host.Cell) :
    KeepsRest s (s.strikeWindows owner cells) := .of_cores rfl rfl

theorem keepsRest_wakeSleepers (s : State) (cells : List Host.Cell) : KeepsRest s (s.wakeSleepers cells) := .of_cores rfl rfl

theorem keepsRest_readLine (s : State) (line : Nat) : KeepsRest s (s.readLine line) := by
  unfold readLine
  dsimp only
  split
  · exact .refl s
  · exact .of_cores rfl rfl

theorem keepsRest_healLine (s : State) (cells : List Host.Cell) (bad : List Nat) : KeepsRest s (s.healLine cells bad) := by
  unfold healLine
  repeat' split
  · exact .refl s
  · exact .refl s
  · exact .refl s
  · exact .of_cores rfl rfl

theorem keepsRest_sendInvals (s : State) (from_ : Option Nat) (cells : List Host.Cell) :
    KeepsRest s (s.sendInvals from_ cells) := by
  refine ⟨rfl, fun c => ?_⟩
  have hd : ∀ f : Nat → Core → Core, f c {} = {} → (s.cores.mapVals f).getD c {} = f c (s.core c) :=
    fun f h => Tbl.getD_mapVals f s.cores c h
  unfold sendInvals
  rw [core, hd _ (by split <;> rfl)]
  split <;> rfl

theorem keepsRest_homeLand (s : State) (from_ owner : Option Nat) (cells : List Host.Cell) (bad : List Nat) :
    KeepsRest s (s.homeLand from_ owner cells bad) := by
  unfold homeLand
  split
  · exact .refl s
  · exact (((keepsRest_send _ _ _ _).trans (keepsRest_healLine _ _ _)).trans (keepsRest_strikeWindows _ _ _)).trans
      ((keepsRest_sendInvals _ _ _).trans (keepsRest_wakeSleepers _ _))

theorem keepsRest_noteBlock (s : State) (fn ipa n : Nat) : KeepsRest s (s.noteBlock fn ipa n) := by
  unfold noteBlock
  dsimp only
  split
  · exact keepsRest_setFunc _ _ _
  · split <;> exact keepsRest_setFunc _ _ _

theorem keepsRest_noteBlocks (fuel : Nat) (s : State) (fn ipa n : Nat) : KeepsRest s (noteBlocks fuel s fn ipa n) := by
  induction fuel generalizing s ipa n with
  | zero => exact .refl s
  | succ fuel ih =>
    unfold noteBlocks
    split
    · exact .refl s
    · exact (keepsRest_noteBlock _ _ _ _).trans (ih _ _ _)

theorem keepsRest_noteLog (s : State) (fn ipa n : Nat) : KeepsRest s (s.noteLog fn ipa n) := keepsRest_noteBlocks _ _ _ _ _

theorem keepsRest_noteCore (s : State) (c line : Nat) (cells : List Host.Cell) : KeepsRest s (s.noteCore c line cells) := by
  unfold noteCore
  split
  · exact keepsRest_noteLog _ _ _ _
  · exact .refl s

theorem keepsRest_registerNarrow (s : State) (c line : Nat) : KeepsRest s (s.registerNarrow c line) := by
  unfold registerNarrow
  dsimp only
  split
  · exact .refl s
  · exact .setCore _ _ rfl

theorem keepsRest_flushLand (s : State) (c : Nat) (p : Nat → Bool) : KeepsRest s (s.flushLand c p) := by
  unfold flushLand
  dsimp only
  split
  · exact .refl s
  · refine .trans (.setCore s c ?_) (.foldl (fun s l => ?_) _ _)
    · rfl
    exact (keepsRest_noteCore _ _ _ _).trans (keepsRest_homeLand _ _ _ _ _)

theorem keepsRest_wordLand (s : State) (line : SiltLine) (i : Nat) (x : Word) : KeepsRest s (s.wordLand line i x) :=
  ((keepsRest_send _ _ _ _).trans (keepsRest_strikeWindows _ _ _)).trans
    ((keepsRest_sendInvals _ _ _).trans (keepsRest_wakeSleepers _ _))

theorem keepsRest_siltLand (s : State) (c : Nat) (p : SiltLine → Bool) : KeepsRest s (s.siltLand c p) := by
  unfold siltLand
  dsimp only
  split
  · exact .refl s
  · refine .trans (.setCore s c ?_) (.foldl (fun s l => ?_) _ _)
    · rfl
    refine KeepsRest.trans ?_ (keepsRest_registerNarrow _ _ _)
    refine KeepsRest.trans (keepsRest_flushLand _ _ _) (.foldl (fun s w => ?_) _ _)
    exact (keepsRest_noteCore _ _ _ _).trans (keepsRest_wordLand _ _ _ _)

theorem keepsRest_publishLand (s : State) (c : Nat) : KeepsRest s (s.publishLand c) :=
  (keepsRest_flushLand _ _ _).trans (.setCore _ _ rfl)

theorem keepsRest_lineLand (s : State) (line : Nat) : KeepsRest s (s.lineLand line) := by
  unfold lineLand
  dsimp only
  split
  · exact .refl s
  · exact (KeepsRest.foldl keepsRest_publishLand _ _).trans (.foldl (fun _ _ => keepsRest_siltLand _ _ _) _ _)

theorem keepsRest_counterMet (s : State) (lines : List Nat) (got : Bool) (place : Option Nat) (value : Nat) :
    KeepsRest s (s.counterMet lines got place value).1 := by
  unfold counterMet
  split
  · exact .refl s
  · split
    · exact .refl s
    · exact (keepsRest_lineLand _ _).trans (keepsRest_readLine _ _)

theorem keepsRest_noteCounters (s : State) (lines : List Nat) : KeepsRest s (s.noteCounters lines) := by
  unfold noteCounters
  split
  · exact .refl s
  · refine .foldl (fun s k => ?_) _ _
    dsimp only
    split
    · exact .refl s
    · exact ((keepsRest_counterMet _ _ _ _ _).trans (keepsRest_counterMet _ _ _ _ _)).trans (keepsRest_setLaunch _ _ _)

theorem keepsRest_homeWrite (s : State) (from_ owner : Option Nat) (cells : List Host.Cell) (bad : List Nat) :
    KeepsRest s (s.homeWrite from_ owner cells bad) :=
  (keepsRest_homeLand _ _ _ _ _).trans (keepsRest_noteCounters _ _)

theorem keepsRest_homeWrites (s : State) (from_ owner : Option Nat) (cells : List Host.Cell) :
    KeepsRest s (s.homeWrites from_ owner cells) :=
  .foldl (fun _ _ => keepsRest_homeWrite _ _ _ _ _) _ _

theorem keepsRest_mergeLine (s : State) (line : Nat) : KeepsRest s (s.mergeLine line) := by
  unfold mergeLine
  split
  · exact (keepsRest_lineLand _ _).trans (keepsRest_noteCounters _ _)
  · exact .refl s

/-! ### Walks, rings and the trace -/

theorem keepsRest_touchAll (s : State) (as : List Nat) : KeepsRest s (s.touchAll as) :=
  .foldl (fun _ _ => (keepsRest_mergeLine _ _).trans (keepsRest_readLine _ _)) _ _

theorem keepsRest_walkedFunc (s : State) (fn ipa : Nat) : KeepsRest s (s.walkedFunc fn ipa) := by
  unfold walkedFunc
  split
  · exact .refl s
  · exact keepsRest_touchAll _ _

theorem keepsRest_ringWalked (s : State) (fn : Nat) (at_ : Nat → Nat) (n : Nat) : KeepsRest s (s.ringWalked fn at_ n) :=
  .foldl (fun _ _ => keepsRest_walkedFunc _ _ _) _ _

theorem keepsRest_ringWrite {s t : State} {fn : Nat} {at_ : Nat → Nat} {bs : List Byte}
    (h : s.ringWrite fn at_ bs = some t) : KeepsRest s t := by
  unfold ringWrite at h
  dsimp only at h
  split at h
  · cases h
  · cases h
    refine (keepsRest_ringWalked _ _ _ _).trans (KeepsRest.trans (.foldl (fun s c => ?_) _ _) (keepsRest_homeWrites _ _ _ _))
    split
    · exact keepsRest_noteLog _ _ _ _
    · exact .refl s

theorem keepsRest_traceBytes {s t : State} {fn : Nat} {bs : List Byte} (h : s.traceBytes fn bs = some t) : KeepsRest s t := by
  unfold traceBytes at h
  dsimp only at h
  split at h
  · cases h
  · obtain ⟨u, hu, rfl⟩ := Option.map_eq_some_iff.mp h
    exact (keepsRest_ringWrite hu).trans (keepsRest_setFunc _ _ _)

theorem keepsRest_emit (s : State) (g after : Group) (r : List Byte) : KeepsRest s (s.emit g after r) := by
  unfold emit
  split
  · exact .refl s
  · next fn _ =>
    extract_lets f lost since bs
    have hlost : KeepsRest s lost := keepsRest_setFunc _ _ _
    clear_value lost bs
    split
    · exact hlost
    · split
      · exact hlost
      · next h => exact (keepsRest_traceBytes h).trans (keepsRest_setFunc _ _ _)

end State

end Sys2Proof.Machine

/-! What the host asks of the package and writes into it: boot and identity, CSTAT, reads, and register writes, each said once of the row it is
a case of; and from them the statement. -/

namespace Sys2Proof.Machine

section

variable {s : State}

/-! ## Boot and identity -/

theorem core_splitZero (s : State) (c : Nat) :
    ({ s with cores := s.cores.mapVals fun _ (k : Core) => { k with split := 0 } } : State).core c = { s.core c with split := 0 } :=
  Tbl.getD_mapVals (fun _ (k : Core) => { k with split := 0 }) s.cores c rfl

/-- What a boot after power-on comes to (01, R24; 04, R84). -/
theorem exec_boot_first (hrun : s.root.running = false) (hrec : s.root.recovery = false) :
    exec .boot s = .next { s with
      cores := s.cores.mapVals fun _ (k : Core) => { k with split := 0 }
      root := if Config.firmwareVerifies s.root.flash.flatten && decide (Config.minSecurityVersion ≤ s.root.version) then
          { s.root with running := true, measured := s.root.flash.map sha512 }
        else { s.root with recovery := true } } := by
  change execBoot s = _
  unfold execBoot
  simp only [hrun, hrec, Bool.or_self, Bool.false_eq_true, if_false]
  split <;> rfl

/-- Where no firmware runs, the root of trust answers nothing (01, R24). -/
theorem exec_spdmRequest_unbooted (hrun : s.root.running = false) (req : SpdmRequest) : exec (.spdmRequest req) s = .next s := by
  change execSpdmRequest req s = _
  simp [execSpdmRequest, hrun]

/-- An answer of the root of trust, signed by the attestation key with the next salt. -/
def State.attests (s : State) (body : List Byte) : State :=
  { s with out := s.out ++ [.spdm body (Config.sign 1 s.root.draws body)], root := { s.root with draws := s.root.draws + 1 } }

/-- What a booted package answers: a certificate, which is not signed and draws no salt; a nonce; or a nonce with the measurement blocks
(01, R25). -/
def State.spdmAnswer (s : State) : SpdmRequest → State
  | .certificate => { s with out := s.out ++ [.spdm Config.certificateChain 0] }
  | .challenge nonce => s.attests (toBytes 32 nonce)
  | .measurements nonce => s.attests (toBytes 32 nonce ++ s.root.measured.flatMap (toBytes 64))

theorem exec_spdmRequest_booted (hrun : s.root.running = true) (req : SpdmRequest) :
    exec (.spdmRequest req) s = .next (s.spdmAnswer req) := by
  have hbooted : ¬(!s.root.running) = true := by rw [hrun]; decide
  change execSpdmRequest req s = _
  unfold execSpdmRequest
  dsimp only
  rw [if_neg hbooted]
  cases req <;> rfl

/-! ## CSTAT -/

theorem abandonPhases_core (s : State) (mine : Nat → Bool) (c : Nat) :
    (abandonPhases s mine).core c = { s.core c with
      mq := (s.core c).mq.filter fun e => e.multiplying || e.opc == 0x188 || e.opc == 0x18B || !mine e.group } :=
  Tbl.getD_mapVals (fun _ (k : Core) => { k with
    mq := k.mq.filter fun e => e.multiplying || e.opc == 0x188 || e.opc == 0x18B || !mine e.group }) s.cores c rfl

theorem abandonPhases_halt (s : State) (mine : Nat → Bool) (c : Nat) : ((abandonPhases s mine).core c).halt = (s.core c).halt := by
  rw [abandonPhases_core]

/-- CSTAT writes HALT of its core; the groups of the core that halt may write trace records, which reach memory at its home (17, R388,
R394). -/
theorem exec_cstatWrite_halt (s : State) (core value : Nat) :
    ∃ t, exec (.cstatWrite core value) s = .next t ∧ (t.core core).halt = bitOf value 1 ∧ t.mem = s.mem ∧
      ∀ j, j ≠ core → (t.core j).halt = (s.core j).halt := by
  change ∃ t, execCstatWrite core value s = .next t ∧ _
  unfold execCstatWrite
  extract_lets halt here k s₁ s'
  refine ⟨_, rfl, ?_⟩
  have hcores : ∀ j, s'.core j = s₁.core j := fun _ => rfl
  have hself : (s'.core core).halt = halt := by rw [hcores, State.setCore_core_self]
  have hother : ∀ j, j ≠ core → (s'.core j).halt = (s.core j).halt := fun j hj => by rw [hcores, State.setCore_core_ne _ _ hj]
  have hmem : s'.mem = s.mem := rfl
  clear_value s'
  split
  · have hk : KeepsRest s' (s'.groups.foldl (fun t p =>
        if here p.2 && !groupHalted s (s.group p.1) && groupHalted s' p.2 then t.traceStop p.2 0 else t) s') := by
      refine .foldl (fun t p => ?_) _ _
      split
      · exact State.keepsRest_emit _ _ _ _
      · exact .refl t
    refine ⟨?_, hk.mem.trans hmem, fun j hj => ?_⟩
    · rw [abandonPhases_halt, hk.halt, hself]
    · rw [abandonPhases_halt, hk.halt, hother j hj]
  · exact ⟨hself, hmem, hother⟩

/-! ## Reads -/

/-- The host is answered eight bytes. -/
def State.hostReads (s : State) (x : Nat) : State := { s with out := s.out ++ [.hostRead (toBytes 8 x)] }

theorem answers_iff (s : State) (func : Nat) : s.answers func = true ↔ func = 0 ∨ s.root.running = true := by
  simp [State.answers]

/-- An aligned read of eight bytes through BAR0 (03, R47, R48). -/
theorem exec_read_bar0 {func offset : Nat} (ha : func = 0 ∨ s.root.running = true) (h8 : offset % 8 = 0) :
    exec (.mgmtCoreRead { func := func, offset := offset }) s =
      .next ((bar0Read s func offset).1.hostReads (bar0Read s func offset).2) := by
  change execMgmtCoreRead _ s = _
  simp [execMgmtCoreRead, (answers_iff s func).2 ha, h8, State.hostReads]

/-- A read of a notify slot by a function that reaches its queue (03, R46, R52). -/
theorem exec_read_slot {func q : Nat} (hrun : s.root.running = true) (hv : s.funcVmid func = some (s.queue q).vmid) :
    exec (.mgmtCoreRead { func := func, bar2 := true, offset := 8 * q }) s = .next (s.hostReads (s.queue q).prod) := by
  change execMgmtCoreRead _ s = _
  simp [execMgmtCoreRead, (answers_iff s func).2 (.inr hrun), hrun, hv, State.hostReads]

theorem bar0Read_func {func offset : Nat} (h : 0x60000 ≤ offset ∧ offset < 0x70000) :
    bar0Read s func offset = (s, funcRead s func offset) := by
  simp only [bar0Read, Bool.and_eq_true, decide_eq_true_eq]
  rw [if_pos h]

theorem bar0Read_space {func n w : Nat} (hn : n < 16384) (hw : w < 2) :
    bar0Read s func (0x80000 + 16 * n + 8 * w) = (s, spaceRead s func n w) := by
  have hentry : (0x80000 + 16 * n + 8 * w - 0x80000) / 16 = n := by omega
  have hword : (0x80000 + 16 * n + 8 * w) % 16 / 8 = w := by omega
  simp only [bar0Read, Bool.and_eq_true, decide_eq_true_eq]
  simp (disch := omega) only [if_pos, if_neg, hentry, hword]

theorem bar0Read_core {c r : Nat} (hc : c < 1536) (hr : r < 0x4000) :
    bar0Read s 0 (0x2000000 + 0x4000 * c + r) = coreRead s (0x2000000 + 0x4000 * c + r) := by
  simp only [bar0Read, Bool.and_eq_true, decide_eq_true_eq, bne_iff_ne]
  simp (disch := omega) only [if_pos, if_neg]

theorem bar0Read_partCtl {n : Nat} (hn : n < 16) : bar0Read s 0 (0x30000 + 8 * n) = (s, (s.part n).ctl) := by
  have hentry : (0x30000 + 8 * n - 0x30000) / 8 = n := by omega
  simp only [bar0Read, windowRead, Bool.and_eq_true, decide_eq_true_eq, bne_iff_ne]
  simp (disch := omega) only [if_pos, if_neg, hentry]

/-- A VF reads nothing of an address space of another VMID (03, R60). -/
theorem spaceRead_foreign {func n : Nat} (w : Nat) (hf : func ≠ 0) (hv : s.funcVmid func ≠ some (s.space n).vmid) :
    spaceRead s func n w = 0 := by
  simp [spaceRead, hf, hv]

theorem Part.ctl_eq (p : Part) :
    p.ctl = p.clusters + (if p.clusters = 0 then 0 else 2 ^ 32) + (if p.err then 2 ^ 33 else 0) := by
  have hvalid : b2n (p.clusters != 0) * 2 ^ 32 = if p.clusters = 0 then 0 else 2 ^ 32 := by
    by_cases h : p.clusters = 0 <;> simp [b2n, h]
  have herr : b2n p.err * 2 ^ 33 = if p.err then 2 ^ 33 else 0 := by
    cases p.err <;> simp [b2n]
  rw [Part.ctl, hvalid, herr]

/-- The page selector of a core window (17, R394). -/
theorem coreRead_csel (s : State) (c : Nat) : coreRead s (0x2000000 + 0x4000 * c + 8) = (s, (s.core c).csel) := by
  have hcore : (0x2000000 + 0x4000 * c + 8 - 0x2000000) / 0x4000 = c := by omega
  have hreg : (0x2000000 + 0x4000 * c + 8) % 0x4000 = 8 := by omega
  simp only [coreRead, hcore, hreg]
  rfl

/-- A scratchpad page shows the split's bytes and zero beyond them, of a core that is halted (17, R394). -/
theorem pageRead_scratch (s : State) (c : Nat) {p : Nat} (off : Nat) (hp : p < 0x30) :
    pageRead s c (0x2000 + p) off =
      if coreHalted s c then
        some (if 8192 * p + off < splitSize (s.core c).split then ofBytes (s.spBytes c (8192 * p + off) 8) else 0)
      else none := by
  have hpage : 0x2000 + p - 0x2000 = p := by omega
  simp only [pageRead, Bool.and_eq_true, decide_eq_true_eq]
  simp (disch := omega) only [if_pos, if_neg, hpage]

/-- A scratchpad page of a core window, whose read wakes no bank. -/
theorem coreRead_scratch {c p off : Nat} (hp : p < 0x30) (hoff : off < 0x2000) (hsel : (s.core c).csel = 0x2000 + p) :
    coreRead s (0x2000000 + 0x4000 * c + 0x2000 + off) =
      if coreHalted s c then
        (s, if 8192 * p + off < splitSize (s.core c).split then ofBytes (s.spBytes c (8192 * p + off) 8) else 0)
      else ({ s with pkg := { s.pkg with notHalted := true } }, 0) := by
  have hcore : (0x2000000 + 0x4000 * c + 0x2000 + off - 0x2000000) / 0x4000 = c := by omega
  have hreg : (0x2000000 + 0x4000 * c + 0x2000 + off) % 0x4000 = 0x2000 + off := by omega
  have hbyte : 0x2000 + off - 0x2000 = off := by omega
  simp only [coreRead, hcore, hreg, hsel, hbyte, pageRead_scratch s c off hp, Bool.and_eq_true, decide_eq_true_eq]
  rw [if_neg (by omega), if_neg (by omega), if_neg (by omega)]
  cases coreHalted s c with
  | false => simp
  | true => simp (disch := omega) only [if_true, if_neg]

theorem exec_read_scratch {c p off : Nat} (hc : c < 1536) (hp : p < 0x30) (hoff : off < 0x2000) (h8 : off % 8 = 0)
    (hsel : (s.core c).csel = 0x2000 + p) :
    exec (.mgmtCoreRead { offset := 0x2000000 + 0x4000 * c + 0x2000 + off }) s =
      .next (if coreHalted s c then
          s.hostReads (if 8192 * p + off < splitSize (s.core c).split then ofBytes (s.spBytes c (8192 * p + off) 8) else 0)
        else State.hostReads { s with pkg := { s.pkg with notHalted := true } } 0) := by
  have hplace : 0x2000000 + 0x4000 * c + 0x2000 + off = 0x2000000 + 0x4000 * c + (0x2000 + off) := by omega
  rw [exec_read_bar0 (.inl rfl) (by omega), hplace, bar0Read_core hc (by omega), ← hplace, coreRead_scratch hp hoff hsel]
  split <;> rfl

/-- Eight scratchpad bytes, or zeros, as the host is answered them. -/
theorem toBytes_scratch (s : State) (c off : Nat) (P : Prop) [Decidable P] :
    toBytes 8 (if P then ofBytes (s.spBytes c off 8) else 0) = if P then s.spBytes c off 8 else toBytes 8 0 := by
  have hlen : (s.spBytes c off 8).length = 8 := by simp [State.spBytes, Memory.bytes]
  have hback := toBytes_ofBytes (s.spBytes c off 8)
  rw [hlen] at hback
  rw [apply_ite (toBytes 8), hback]

/-! ## Register writes -/

theorem exec_registerWrite (func offset value : Nat) (s : State) :
    exec (.registerWrite func offset value) s = .next (registerWrite s func offset value) := rfl

/-- A register of a function block (03, Table 3.2). -/
theorem registerWrite_func {func offset : Nat} (value : Nat) (ha : func = 0 ∨ s.root.running = true) (h8 : offset % 8 = 0)
    (h : 0x60000 ≤ offset ∧ offset < 0x70000) :
    registerWrite s func offset value = s.setFunc func (funcWrite (s.func func) offset value) := by
  simp only [registerWrite, (answers_iff s func).2 ha, h8, Bool.and_eq_true, decide_eq_true_eq]
  simp [h]

/-- Word `w` of an address range entry (10, Table 10.2). -/
theorem registerWrite_range {n w : Nat} (value : Nat) (hn : n < 16) (hw : w < 4) :
    registerWrite s 0 (0x20000 + 32 * n + 8 * w) value = s.setRange n (rangeWrite (s.range n) w value) := by
  have hentry : (0x20000 + 32 * n + 8 * w - 0x20000) / 32 = n := by omega
  have hword : (0x20000 + 32 * n + 8 * w) % 32 / 8 = w := by omega
  simp only [registerWrite, (answers_iff s 0).2 (.inl rfl), Bool.and_eq_true, Bool.or_eq_true, decide_eq_true_eq, bne_iff_ne,
    Bool.not_true, Bool.false_eq_true, or_false]
  simp (disch := omega) only [if_pos, if_neg, hentry, hword]

/-- Word `w` of a VMID entry (03, Table 3.5). -/
theorem registerWrite_vmid {n w : Nat} (value : Nat) (hn : n < 256) (hw : w < 2) :
    registerWrite s 0 (0xC0000 + 16 * n + 8 * w) value = vmidWrite s n w value := by
  have hentry : (0xC0000 + 16 * n + 8 * w - 0xC0000) / 16 = n := by omega
  have hword : (0xC0000 + 16 * n + 8 * w) % 16 / 8 = w := by omega
  simp only [registerWrite, (answers_iff s 0).2 (.inl rfl), Bool.and_eq_true, Bool.or_eq_true, decide_eq_true_eq, bne_iff_ne,
    Bool.not_true, Bool.false_eq_true, or_false]
  simp (disch := omega) only [if_pos, if_neg, hentry, hword]

/-- The sampling period of a partition (17, R383). -/
theorem registerWrite_period {n : Nat} (value : Nat) (hn : n < 16) :
    registerWrite s 0 (0x180100 + 8 * n) value = s.setPart n { s.part n with period := min 11 (bitsOf value 3 0) } := by
  have hentry : (0x180100 + 8 * n - 0x180100) / 8 = n := by omega
  simp only [registerWrite, (answers_iff s 0).2 (.inl rfl), Bool.and_eq_true, Bool.or_eq_true, decide_eq_true_eq, bne_iff_ne,
    Bool.not_true, Bool.false_eq_true, or_false]
  simp (disch := omega) only [if_pos, if_neg, hentry]

/-- Word `w` of a queue descriptor (03, Table 3.3). -/
theorem registerWrite_queue {n w : Nat} (value : Nat) (hn : n < 131072) (hw : w < 4) :
    registerWrite s 0 (0x1000000 + 32 * n + 8 * w) value =
      if queueWordHere (s.queue n) w value then s.setQueue n (queueWrite (s.queue n) w value) else s := by
  have hentry : (0x1000000 + 32 * n + 8 * w - 0x1000000) / 32 = n := by omega
  have hword : (0x1000000 + 32 * n + 8 * w) % 32 / 8 = w := by omega
  simp only [registerWrite, (answers_iff s 0).2 (.inl rfl), Bool.and_eq_true, Bool.or_eq_true, decide_eq_true_eq, bne_iff_ne,
    Bool.not_true, Bool.false_eq_true, or_false]
  simp (disch := omega) only [if_pos, if_neg, hentry, hword]

/-- A VF writes no register of the package (00, R4; 03, R47): none outside its function block and the address space table. -/
theorem registerWrite_vf {func offset : Nat} (value : Nat) (hf : func ≠ 0) (h1 : ¬(0x60000 ≤ offset ∧ offset < 0x70000))
    (h2 : ¬(0x80000 ≤ offset ∧ offset < 0xC0000)) : registerWrite s func offset value = s := by
  simp only [registerWrite, Bool.and_eq_true, decide_eq_true_eq, bne_iff_ne]
  rw [if_neg h1, if_neg h2, if_pos hf, ite_self]

theorem rangeWrite_enabled {r : RangeEntry} (h : r.enable = true) (w value : Nat) : rangeWrite r w value = r := by
  unfold rangeWrite
  rw [if_pos h]

/-- Word 1 of a queue descriptor: ASID and the low half of the ring's address, which stand while the queue is enabled. -/
theorem queueWrite_one (q : Queue) (value : Nat) :
    queueWrite q 1 value = if q.enable then q
      else { q with asid := value / 16 % 2 ^ 14, ring := q.ring / 2 ^ 32 * 2 ^ 32 + value / 2 ^ 32 % 2 ^ 32 } := by
  have hasid : bitsOf value 17 4 = value / 16 % 2 ^ 14 := by simp [bitsOf, Nat.shiftRight_eq_div_pow]
  have hring : putBits q.ring 31 0 (bitsOf value 63 32) = q.ring / 2 ^ 32 * 2 ^ 32 + value / 2 ^ 32 % 2 ^ 32 := by
    simp only [putBits, bitsOf, Nat.shiftRight_eq_div_pow]
    omega
  simp only [queueWrite, hasid, hring]

end

/-! ## The statement -/

theorem bootAndReadback : Spec.partBootAndReadback := by
  intro s
  refine ⟨fun hrun hrec => ⟨fun hver hmin => ?_, fun hbad => ?_⟩, exec_spdmRequest_unbooted, fun hrun => ?_, fun c hc => ?_, fun func ha => ?_,
    fun core value => ?_⟩
  · refine ⟨_, exec_boot_first hrun hrec, ?_, core_splitZero _⟩
    simp [hver, hmin]
  · refine ⟨_, exec_boot_first hrun hrec, ?_⟩
    have hrefused : (Config.firmwareVerifies s.root.flash.flatten && decide (Config.minSecurityVersion ≤ s.root.version)) = false := by
      rcases hbad with h | h
      · rw [h, Bool.false_and]
      · rw [decide_eq_false (Nat.not_le.2 h), Bool.and_false]
    simp [hrefused]
  · exact ⟨exec_spdmRequest_booted hrun .certificate, fun nonce =>
      ⟨_, _, exec_spdmRequest_booted hrun (.challenge nonce), exec_spdmRequest_booted hrun (.measurements nonce), rfl, rfl⟩⟩
  · refine ⟨?_, fun p off hp hoff h8 hsel => ⟨fun hh => ?_, fun hh => ?_⟩⟩
    · rw [exec_read_bar0 (.inl rfl) (by omega), bar0Read_core hc (by omega), coreRead_csel]
      rfl
    · rw [exec_read_scratch hc hp hoff h8 hsel, hh, if_pos rfl, State.hostReads, toBytes_scratch]
      rfl
    · rw [exec_read_scratch hc hp hoff h8 hsel, hh]
      rfl
  · refine ⟨?_, ?_, ?_, fun n hn hf hv => ?_, fun n hn => ?_, fun q _ hrun hv => exec_read_slot hrun hv⟩
    · rw [exec_read_bar0 ha rfl, bar0Read_func (by decide)]
      rfl
    · rw [exec_read_bar0 ha rfl, bar0Read_func (by decide)]
      rfl
    · rw [exec_read_bar0 ha rfl, bar0Read_func (by decide)]
      rfl
    · rw [exec_read_bar0 ha (by omega), bar0Read_space (w := 1) hn (by decide), spaceRead_foreign 1 hf hv]
      rfl
    · rw [exec_read_bar0 (.inl rfl) (by omega), bar0Read_partCtl hn, Part.ctl_eq]
      rfl
  · rw [← bitOf_eq_testBit]
    exact exec_cstatWrite_halt s core value

theorem registerWrites : Spec.partRegisterWrites := by
  intro s func value
  have hlow (n : Nat) : bitsOf value n 0 = value % 2 ^ (n + 1) := by simp [bitsOf]
  refine ⟨fun ha => ⟨?_, ?_⟩, fun n hn => ?_, fun n hn he => ?_, fun n hn => ?_, fun n hn => ?_, fun hf => ?_⟩
  · rw [exec_registerWrite, registerWrite_func value ha rfl (by decide)]
    rfl
  · rw [exec_registerWrite, registerWrite_func value ha rfl (by decide), ← hlow]
    rfl
  · rw [exec_registerWrite, registerWrite_queue (w := 1) value hn (by decide), queueWrite_one]
    rfl
  · rw [exec_registerWrite, registerWrite_range (w := 2) value hn (by decide), rangeWrite_enabled he]
  · rw [exec_registerWrite, registerWrite_period value hn, hlow]
    rfl
  · rw [exec_registerWrite, registerWrite_vmid (w := 1) value hn (by decide), ← hlow]
    rfl
  · rw [exec_registerWrite, registerWrite_vf value hf (by decide) (by decide)]

/-- Settles O45: a register write or read goes to the entry that its offset names, and what a halt of a core writes for the trace changes
no core's HALT. -/
theorem hostRegisters : Obligations.HostRegisters := ⟨bootAndReadback, registerWrites⟩

end Sys2Proof.Machine

/-! The package's partitions and clocks: that what moves with a write to its home dirties no L1, what clearing a core leaves, and each register's
write as the row it is a case of. -/

namespace Sys2Proof.Machine

/-! ## What a write that reaches its home dirties

Memory's homes, as they take writes, take dirty bytes out of L1s and put none in: an L1 that holds none stays so. -/

/-- From `s` to `t` no L1 that held no dirty byte has come to hold one. -/
def KeepsDry (s t : State) : Prop := ∀ c, (s.core c).l1 = [] → (t.core c).l1 = []

namespace KeepsDry

variable {s t u : State}

theorem refl (s : State) : KeepsDry s s := fun _ h => h

theorem trans (h₁ : KeepsDry s t) (h₂ : KeepsDry t u) : KeepsDry s u := fun c h => h₂ c (h₁ c h)

theorem of_cores (h : t.cores = s.cores) : KeepsDry s t := fun c hc => by rwa [State.core, h]

theorem setCore (s : State) (c : Nat) {k : Core} (hk : (s.core c).l1 = [] → k.l1 = []) : KeepsDry s (s.setCore c k) := by
  intro j hj
  by_cases hjc : j = c
  · subst hjc; rw [State.setCore_core_self, hk hj]
  · rw [State.setCore_core_ne s k hjc, hj]

theorem foldl {α : Type} {f : State → α → State} (hf : ∀ s x, KeepsDry s (f s x)) (xs : List α) (s : State) :
    KeepsDry s (xs.foldl f s) := by
  induction xs generalizing s with
  | nil => exact refl s
  | cons x xs ih => exact (hf s x).trans (ih _)

end KeepsDry

namespace State

theorem keepsDry_send (s : State) (pa : Nat) (req : BdReq) (bad : List Nat) : KeepsDry s (s.send pa req bad) := .of_cores rfl

theorem keepsDry_strikeWindows (s : State) (owner : Option Nat) (cells : List Host.Cell) : KeepsDry s (s.strikeWindows owner cells) :=
  .of_cores rfl

theorem keepsDry_wakeSleepers (s : State) (cells : List Host.Cell) : KeepsDry s (s.wakeSleepers cells) := .of_cores rfl

theorem keepsDry_readLine (s : State) (line : Nat) : KeepsDry s (s.readLine line) := by
  unfold readLine
  dsimp only
  split
  · exact .refl s
  · exact .of_cores rfl

theorem keepsDry_healLine (s : State) (cells : List Host.Cell) (bad : List Nat) : KeepsDry s (s.healLine cells bad) := by
  unfold healLine
  repeat' split
  · exact .refl s
  · exact .refl s
  · exact .refl s
  · exact .of_cores rfl

theorem core_sendInvals_l1 (s : State) (from_ : Option Nat) (cells : List Host.Cell) (c : Nat) :
    ((s.sendInvals from_ cells).core c).l1 = (s.core c).l1 := by
  unfold sendInvals
  rw [core, Tbl.getD_mapVals _ _ _ (by split <;> rfl)]
  split <;> rfl

theorem keepsDry_sendInvals (s : State) (from_ : Option Nat) (cells : List Host.Cell) : KeepsDry s (s.sendInvals from_ cells) :=
  fun c hc => (core_sendInvals_l1 s from_ cells c).trans hc

theorem keepsDry_homeLand (s : State) (from_ owner : Option Nat) (cells : List Host.Cell) (bad : List Nat) :
    KeepsDry s (s.homeLand from_ owner cells bad) := by
  unfold homeLand
  split
  · exact .refl s
  · exact (((keepsDry_send _ _ _ _).trans (keepsDry_healLine _ _ _)).trans (keepsDry_strikeWindows _ _ _)).trans
      ((keepsDry_sendInvals _ _ _).trans (keepsDry_wakeSleepers _ _))

theorem keepsDry_noteBlock (s : State) (fn ipa n : Nat) : KeepsDry s (s.noteBlock fn ipa n) := by
  unfold noteBlock
  dsimp only
  repeat' split
  all_goals exact .of_cores rfl

theorem keepsDry_noteBlocks (fuel : Nat) (s : State) (fn ipa n : Nat) : KeepsDry s (noteBlocks fuel s fn ipa n) := by
  induction fuel generalizing s ipa n with
  | zero => exact .refl s
  | succ fuel ih =>
    unfold noteBlocks
    split
    · exact .refl s
    · exact (keepsDry_noteBlock _ _ _ _).trans (ih _ _ _)

theorem keepsDry_noteCore (s : State) (c line : Nat) (cells : List Host.Cell) : KeepsDry s (s.noteCore c line cells) := by
  unfold noteCore
  split
  · exact keepsDry_noteBlocks _ _ _ _ _
  · exact .refl s

theorem keepsDry_registerNarrow (s : State) (c line : Nat) : KeepsDry s (s.registerNarrow c line) := by
  unfold registerNarrow
  dsimp only
  split
  · exact .refl s
  · exact .setCore _ _ id

/-- The bytes that a core's flush takes out of its L1 reach their homes, line by line. -/
theorem keepsDry_landLines (s : State) (c : Nat) (lines : List Nat) (cells : Nat → List Host.Cell) (bad : Nat → List Nat) :
    KeepsDry s (lines.foldl (fun s l => (s.noteCore c l (cells l)).homeLand (some c) none (cells l) (bad l)) s) :=
  .foldl (fun _ _ => (keepsDry_noteCore _ _ _ _).trans (keepsDry_homeLand _ _ _ _ _)) _ _

theorem keepsDry_flushLand (s : State) (c : Nat) (p : Nat → Bool) : KeepsDry s (s.flushLand c p) := by
  unfold flushLand
  dsimp only
  split
  · exact .refl s
  · refine .trans (.setCore s c fun h => ?_) (keepsDry_landLines _ _ _ _ _)
    simp [h]

theorem flushLand_all_l1 (s : State) (c : Nat) : ((s.flushLand c fun _ => true).core c).l1 = [] := by
  unfold flushLand
  dsimp only
  split
  · next h => simpa using h
  · refine keepsDry_landLines _ _ _ _ _ c ?_
    simp

theorem keepsDry_wordLand (s : State) (line : SiltLine) (i : Nat) (x : Word) : KeepsDry s (s.wordLand line i x) :=
  ((keepsDry_send _ _ _ _).trans (keepsDry_strikeWindows _ _ _)).trans ((keepsDry_sendInvals _ _ _).trans (keepsDry_wakeSleepers _ _))

theorem keepsDry_siltLand (s : State) (c : Nat) (p : SiltLine → Bool) : KeepsDry s (s.siltLand c p) := by
  unfold siltLand
  dsimp only
  split
  · exact .refl s
  · refine .trans (.setCore s c ?_) (.foldl (fun s l => ?_) _ _)
    · exact id
    refine KeepsDry.trans ?_ (keepsDry_registerNarrow _ _ _)
    exact (keepsDry_flushLand _ _ _).trans (.foldl (fun s w => (keepsDry_noteCore _ _ _ _).trans (keepsDry_wordLand _ _ _ _)) _ _)

theorem keepsDry_publishLand (s : State) (c : Nat) : KeepsDry s (s.publishLand c) :=
  (keepsDry_flushLand _ _ _).trans (.setCore _ _ id)

theorem keepsDry_lineLand (s : State) (line : Nat) : KeepsDry s (s.lineLand line) := by
  unfold lineLand
  dsimp only
  split
  · exact .refl s
  · exact (KeepsDry.foldl keepsDry_publishLand _ _).trans (.foldl (fun _ _ => keepsDry_siltLand _ _ _) _ _)

theorem keepsDry_counterMet (s : State) (lines : List Nat) (got : Bool) (place : Option Nat) (value : Nat) :
    KeepsDry s (s.counterMet lines got place value).1 := by
  unfold counterMet
  repeat' split
  · exact .refl s
  · exact .refl s
  · exact (keepsDry_lineLand _ _).trans (keepsDry_readLine _ _)

theorem keepsDry_noteCounters (s : State) (lines : List Nat) : KeepsDry s (s.noteCounters lines) := by
  unfold noteCounters
  split
  · exact .refl s
  · refine .foldl (fun s k => ?_) _ _
    dsimp only
    split
    · exact .refl s
    · exact ((keepsDry_counterMet _ _ _ _ _).trans (keepsDry_counterMet _ _ _ _ _)).trans (.of_cores rfl)

theorem keepsDry_flushAll (s : State) (c : Nat) : KeepsDry s (s.flushAll c) :=
  (keepsDry_flushLand _ _ _).trans (keepsDry_noteCounters _ _)

theorem flushAll_l1 (s : State) (c : Nat) : ((s.flushAll c).core c).l1 = [] :=
  keepsDry_noteCounters _ _ c (flushLand_all_l1 s c)

theorem keepsRest_flushAll (s : State) (c : Nat) : KeepsRest s (s.flushAll c) :=
  (keepsRest_flushLand _ _ _).trans (keepsRest_noteCounters _ _)

end State

/-! ## Cores that are cleared (01, R15) -/

/-- What R15 asks of a core that its partition loses: its L1 holds no line and no dirty byte, and its scratchpad reads 0. -/
def Core.Cleared (k : Core) : Prop := k.lines = [] ∧ k.l1 = [] ∧ k.scratch = []

namespace State

theorem rest_clearCore (s : State) (c : Nat) : (s.clearCore c).rest = s.rest := (keepsRest_flushAll s c).1

theorem cleared_clearCore_self (s : State) (c : Nat) : ((s.clearCore c).core c).Cleared := by
  unfold clearCore
  rw [setCore_core_self]
  exact ⟨rfl, flushAll_l1 s c, rfl⟩

theorem cleared_clearCore {s : State} {j : Nat} (h : (s.core j).Cleared) (c : Nat) : ((s.clearCore c).core j).Cleared := by
  by_cases hj : j = c
  · subst hj; exact cleared_clearCore_self s j
  · obtain ⟨hlines, hl1, hscratch⟩ := h
    have hrest := (keepsRest_flushAll s c).2 j
    unfold clearCore
    rw [setCore_core_ne _ _ hj]
    exact ⟨(congrArg Core.lines hrest).trans hlines, keepsDry_flushAll s c j hl1, (congrArg Core.scratch hrest).trans hscratch⟩

theorem rest_clearCores (cs : List Nat) (s : State) : (cs.foldl clearCore s).rest = s.rest := by
  induction cs generalizing s with
  | nil => rfl
  | cons c cs ih => exact (ih _).trans (rest_clearCore s c)

theorem mem_clearCores (cs : List Nat) (s : State) : (cs.foldl clearCore s).mem = s.mem := by
  have h := congrArg State.mem (rest_clearCores cs s)
  exact h

theorem parts_clearCores (cs : List Nat) (s : State) : (cs.foldl clearCore s).parts = s.parts := by
  have h := congrArg State.parts (rest_clearCores cs s)
  exact h

theorem cleared_clearCores {cs : List Nat} {s : State} {j : Nat} (h : j ∈ cs ∨ (s.core j).Cleared) :
    ((cs.foldl clearCore s).core j).Cleared := by
  induction cs generalizing s with
  | nil => exact h.resolve_left (List.not_mem_nil)
  | cons c cs ih =>
    refine ih ?_
    rcases h with h | h
    · rcases List.mem_cons.1 h with rfl | h
      · exact .inr (cleared_clearCore_self s j)
      · exact .inl h
    · exact .inr (cleared_clearCore h c)

end State

theorem mem_clusterCores {m c : Nat} (hc : c < 1536) (h : bitOf m (c / 48) = true) : c ∈ clusterCores m := by
  unfold clusterCores
  refine List.mem_flatMap.2 ⟨c / 48, List.mem_range.2 (by omega), ?_⟩
  rw [if_pos h]
  exact List.mem_map.2 ⟨c % 48, List.mem_range.2 (by omega), Nat.div_add_mod c 48⟩

section

variable {s : State} {n value : Nat}

/-! ## PART_CTL (01, R15, Table 1.6) -/

/-- When the clusters of a partition may become those of `new` (01, R15, R24): the package has booted, the partition has no work, no enabled
queue and no reset under way, and no other partition has a cluster that it gains. -/
def ClustersFree (s : State) (n new : Nat) : Prop :=
  s.root.running = true ∧ partBusy s n = false ∧ (∀ q ∈ s.queues, q.2.enable = true → q.2.part ≠ n) ∧ (s.part n).rstGo = false ∧
    ∀ c, c < 32 → new.testBit c = true → (s.part n).clusters.testBit c = false → ∀ x ∈ s.parts, x.1 ≠ n → x.2.clusters.testBit c = false

theorem clustersRefused_eq_false_iff {new : Nat} : clustersRefused s n new = false ↔ ClustersFree s n new := by
  simp only [clustersRefused, ClustersFree, Bool.or_eq_false_iff, bitOf_eq_testBit, List.any_eq_false, List.mem_range, Bool.and_eq_true,
    Bool.not_eq_true, Bool.not_eq_eq_eq_not, bne_iff_ne, beq_iff_eq, not_and, Bool.not_true, Bool.not_false, ne_eq, and_imp]
  exact ⟨fun ⟨⟨⟨⟨hrun, hgain⟩, hbusy⟩, hqueues⟩, hreset⟩ => ⟨hrun, hbusy, hqueues, hreset, hgain⟩,
    fun ⟨hrun, hbusy, hqueues, hreset, hgain⟩ => ⟨⟨⟨⟨hrun, hgain⟩, hbusy⟩, hqueues⟩, hreset⟩⟩

theorem bitsOf_low (value n : Nat) : bitsOf value n 0 = value % 2 ^ (n + 1) := by simp [bitsOf]

/-- Partition `n` has the clusters of `value` in place of its own, and the cores that it has lost are cleared. -/
def State.takesClusters (s : State) (n value : Nat) : State :=
  let new := value % 2 ^ 32
  (((clusterCores (s.part n).clusters).filter fun c => !bitOf new (c / 48)).foldl State.clearCore s).setPart n
    { s.part n with clusters := new, err := (s.part n).err && !bitOf value 33, cursor := 0, claim := none, last := [131071, 131071, 131071, 131071] }

/-- A write that changes the clusters of a partition, where they may change. -/
theorem exec_partCtlWrite_accepted (hnew : value % 2 ^ 32 ≠ (s.part n).clusters) (hfree : ClustersFree s n (value % 2 ^ 32)) :
    exec (.partCtlWrite n value) s = .next (s.takesClusters n value) := by
  have hrefused : ¬clustersRefused s n (value % 2 ^ 32) = true := by rw [clustersRefused_eq_false_iff.2 hfree]; decide
  change execPartCtlWrite n value s = _
  unfold execPartCtlWrite
  dsimp only
  rw [bitsOf_low, if_neg hnew, if_neg hrefused]
  rfl

theorem takesClusters_mem (s : State) (n value : Nat) : (s.takesClusters n value).mem = s.mem :=
  State.mem_clearCores _ s

theorem takesClusters_part_self (s : State) (n value : Nat) : (s.takesClusters n value).part n =
    { s.part n with clusters := value % 2 ^ 32, err := (s.part n).err && !bitOf value 33, cursor := 0, claim := none,
                    last := [131071, 131071, 131071, 131071] } :=
  State.setPart_part_self _ _ _

theorem takesClusters_part_ne (s : State) {n j : Nat} (value : Nat) (h : j ≠ n) : (s.takesClusters n value).part j = s.part j :=
  (State.setPart_part_ne _ _ h).trans (congrArg (fun t : Tbl Part => t.getD j {}) (State.parts_clearCores _ s))

theorem takesClusters_cleared {c : Nat} (hc : c < 1536) (hold : (s.part n).clusters.testBit (c / 48) = true)
    (hnew : (value % 2 ^ 32).testBit (c / 48) = false) : ((s.takesClusters n value).core c).Cleared := by
  rw [← bitOf_eq_testBit] at hold hnew
  refine State.cleared_clearCores (.inl (List.mem_filter.2 ⟨mem_clusterCores hc hold, ?_⟩))
  rw [hnew]
  rfl

/-- A write that would change the clusters of a partition, where they may not change. -/
theorem exec_partCtlWrite_refused (hnew : value % 2 ^ 32 ≠ (s.part n).clusters) (hfree : ¬ClustersFree s n (value % 2 ^ 32)) :
    exec (.partCtlWrite n value) s = .next (s.setPart n { s.part n with err := true }) := by
  have hrefused : clustersRefused s n (value % 2 ^ 32) = true := by
    rwa [← clustersRefused_eq_false_iff, Bool.not_eq_false] at hfree
  change execPartCtlWrite n value s = _
  unfold execPartCtlWrite
  dsimp only
  rw [bitsOf_low, if_neg hnew, if_pos hrefused]

/-! ## The clock step (01, R19, R22) -/

theorem bitsOf_budget (value : Nat) : bitsOf value 15 8 = value / 256 % 256 := by simp [bitsOf, Nat.shiftRight_eq_div_pow]

/-- PCLK_CTL has asked partition `n` for another clock step, and the pre-phases of its cores are abandoned (01, R22; 09, R212). -/
def State.stepAsked (s : State) (n value : Nat) : State :=
  abandonPhases (s.setPart n { s.part n with budget := value / 256 % 256, asked := value % 4, pending := true }) fun k => coreIn s n (s.group k).core

theorem exec_pclkCtlWrite_same (hp : (s.part n).pending = false) (hstep : value % 4 = (s.part n).step) :
    exec (.pclkCtlWrite n value) s = .next (s.setPart n { s.part n with budget := value / 256 % 256, asked := value % 4 }) := by
  change execPclkCtlWrite n value s = _
  unfold execPclkCtlWrite
  simp [bitsOf_low, bitsOf_budget, hp, hstep]

theorem exec_pclkCtlWrite_step (hp : (s.part n).pending = false) (hstep : value % 4 ≠ (s.part n).step) :
    exec (.pclkCtlWrite n value) s = .next (s.stepAsked n value) := by
  have hasked : (value % 4 != (s.part n).step) = true := bne_iff_ne.2 hstep
  change execPclkCtlWrite n value s = _
  unfold execPclkCtlWrite
  simp [bitsOf_low, bitsOf_budget, hp, hasked, State.stepAsked]

theorem abandonPhases_group {mine : Nat → Bool} {k : Nat} {g : Group} (hg : s.groups.find? k = some g) (hmine : mine k = true)
    (hw : g.wait = .mma) : (abandonPhases s mine).group k = { g with wait := .none } := by
  have hboth : (mine k && g.wait == .mma) = true := by rw [hmine, hw]; rfl
  unfold abandonPhases State.group Tbl.getD
  rw [Tbl.find?_mapVals, hg]
  exact if_pos hboth

/-- A group of the partition that waits in a pre-phase waits no longer (09, R212). -/
theorem group_stepAsked {k : Nat} {g : Group} (hg : s.groups.find? k = some g) (hin : coreIn s n g.core = true) (hw : g.wait = .mma) :
    (s.stepAsked n value).group k = { g with wait := .none } := by
  have hk : s.group k = g := by rw [State.group, Tbl.getD, hg]; rfl
  refine abandonPhases_group hg ?_ hw
  rw [hk, hin]

theorem exec_clockStepSwitch_idle (hp : (s.part s.focus).pending = true)
    (hmq : ∀ c ∈ s.cores, coreIn s s.focus c.1 = true → ∀ e ∈ c.2.mq, e.multiplying = false)
    (hcommit : ∀ l ∈ s.launches, l.2.part = s.focus → l.2.commit = none) :
    exec .clockStepSwitch s = .next (s.setPart s.focus { s.part s.focus with pending := false, step := (s.part s.focus).asked }) := by
  have hidle : (s.cores.any fun c => coreIn s s.focus c.1 && c.2.mq.any fun e => e.multiplying) = false := by
    simpa using hmq
  have hnone : (s.launches.any fun l => l.2.part == s.focus && l.2.commit.isSome) = false := by
    simpa using hcommit
  change execClockStepSwitch s = _
  unfold execClockStepSwitch
  dsimp only
  rw [hp, hidle, hnone]
  rfl

/-! ## The thermal trip (01, R21, R23) -/

theorem testTrip_tripped (s : State) :
    s.testTrip.pkg.tripped = (s.pkg.tripped || (s.pkg.tripEn && decide (s.pkg.tripC ≤ s.pkg.temp))) := by
  unfold State.testTrip
  cases htripped : s.pkg.tripped with
  | true => simp [htripped]
  | false =>
    split
    · next h => simpa [htripped] using h
    · next h => simpa [htripped] using h

theorem testTrip_eq (s : State) :
    s.testTrip = { s with pkg := { s.pkg with tripped := s.testTrip.pkg.tripped }
                          out := if s.testTrip.pkg.tripped && !s.pkg.tripped then s.out ++ [.management 0] else s.out } := by
  unfold State.testTrip
  split
  · next h =>
    have : s.pkg.tripped = false := by simp_all
    simp [this]
  · simp

/-- THERM_CTL written, with the trip still to be tested (01, Table 1.5). -/
def State.thermWritten (s : State) (value : Nat) : State :=
  let tripC := bitsOf value 15 8
  { s with pkg := { s.pkg with tripC := tripC, tripEn := bitOf value 0
                               tripped := s.pkg.tripped && !(bitOf value 1 && decide (s.pkg.temp < tripC)) } }

end

/-! ## The statement -/

/-- Settles O44, each register's write by the lemma of its row above. -/
theorem partitionsAndClocks : Obligations.PartitionsAndClocks := by
  intro s n value
  refine ⟨fun hnew hfree => ?_, exec_partCtlWrite_refused, exec_pclkCtlWrite_same, fun hp hstep => ?_, exec_clockStepSwitch_idle, ?_, ?_⟩
  · refine ⟨_, exec_partCtlWrite_accepted hnew hfree, takesClusters_mem s n value, ?_, ?_, ?_, fun j => takesClusters_part_ne s value,
      fun c => takesClusters_cleared⟩ <;> rw [takesClusters_part_self]
    rw [bitOf_eq_testBit]
  · exact ⟨_, exec_pclkCtlWrite_step hp hstep, State.setPart_part_self _ _ _, fun j => State.setPart_part_ne _ _, rfl, fun k g => group_stepAsked⟩
  · exact ⟨_, rfl, congrArg (fun t : State => t.pkg.temp) (testTrip_eq _), testTrip_tripped _, testTrip_eq _⟩
  · have hpkg := congrArg State.pkg (testTrip_eq (s.thermWritten value))
    have htripC := congrArg PkgRegs.tripC hpkg
    have htripEn := congrArg PkgRegs.tripEn hpkg
    refine ⟨(s.thermWritten value).testTrip, rfl, htripC.trans (bitsOf_budget value), htripEn.trans (bitOf_eq_testBit value 0), ?_⟩
    rw [testTrip_tripped, htripC, htripEn, Bool.or_comm]
    simp only [State.thermWritten, bitOf_eq_testBit]

end Sys2Proof.Machine

/-! Why the events of the engines do not all hold: the multiply of an MMA whose group has ended. -/

namespace Sys2Proof.Machine

/-! ## An MMA of a group that has ended -/

/-- An INT8 MMA of 32 elements, A in vector registers, at the head of its core's queue. -/
def queuedMma : MqEntry := { group := 0, launch := 0, opc := 0x181, tile := 0, k := 32, afmt := 2, bfmt := 2 }

/-- Group 0 has ended, every lane exited and both slots vacant, and yet stands at its MMA's wait. No run brings a group there: its wait is
dropped as it ends. -/
def endedAtMma : Group :=
  { team := 0, grpid := 0, width := 32, core := 0, sched := 0, units := [0], exited := 0xFFFFFFFF, ended := true, wait := .mma, waitOpc := 0x181 }

/-- A machine of one partition, one resident team and that group, whose MMA stands in the queue of core 0. -/
def endedQueue : State :=
  { parts := [(0, { clusters := 1 })], teams := [(0, { launch := 0, teamid := 0, resident := true })], groups := [(0, endedAtMma)],
    cores := [(0, { mq := [queuedMma] })] }

/-- The PC that the statement has the group go on to. -/
theorem nextPc_endedQueue : Spec.nextPc (endedQueue.waitCtx 0) = 12 := by decide

/-- A group that has ended with both slots vacant does not retire its instruction (`State.retireGroup`): as its multiply begins, the PC of
its slot stays. -/
theorem mmaStart_endedQueue_pc : (((mmaStart endedQueue 0).group 0).slot false).pc = 0 := by decide

/-- The MMA can start: a core's agents run, a stage is free, and no tile, slice or budget stands in its way. -/
theorem endedQueue_canStart :
    endedQueue.agentsRun 0 0 = true ∧ stageFree endedQueue 0 queuedMma = true ∧ (∀ x ∈ earlierOn endedQueue 0 queuedMma, x.multiplying = true) ∧
      endedQueue.budgetOf 0 = 255 ∧ (endedQueue.cluster 0).waiting = [] ∧ (tileOf endedQueue 0 queuedMma.tile).owner = none ∧
      endedQueue.tracer endedAtMma = none := by decide

theorem not_partMultiplyEvents : ¬ Spec.partMultiplyEvents := by
  intro h
  obtain ⟨hstart, -⟩ := h endedQueue 0
  obtain ⟨hrun, hstage, hearlier, hbudget, hwaiting, howner, htracer⟩ := endedQueue_canStart
  obtain ⟨t, x, ht, -, -, -, -, -, -, -, -, -, -, hpc, -⟩ :=
    hstart queuedMma _ _ _ _ _ _ rfl rfl hrun rfl hstage hearlier rfl rfl (fun _ _ => rfl) rfl rfl rfl hbudget hwaiting (.inl howner) rfl rfl
      htracer (List.forall_mem_nil _)
  have hnext : exec (.mmaMultiplyStart 0) endedQueue = .next (mmaStart endedQueue 0) := rfl
  cases hnext.symm.trans ht
  exact absurd (mmaStart_endedQueue_pc.symm.trans (hpc.trans nextPc_endedQueue)) (by decide)

/-- Refutes O50: its first clause does not ask that the group is alive, and a group that has ended does not go on to the next word. -/
theorem not_engineEvents : ¬ Obligations.EngineEvents := by
  rintro ⟨hmultiply, -⟩
  exact not_partMultiplyEvents hmultiply

end Sys2Proof.Machine

/-! From an enabled queue to the offer of a launch, each event said once of the case it is in; and from them the statement. -/

namespace Sys2Proof

theorem Tbl.set_set {α : Type} (t : Tbl α) (k : Nat) (v w : α) : (t.set k v).set k w = t.set k w := by
  induction t with
  | nil => simp [Tbl.set]
  | cons p t ih =>
    obtain ⟨i, x⟩ := p
    by_cases hlt : k < i
    · simp [Tbl.set, hlt]
    · by_cases heq : i = k
      · simp [Tbl.set, heq]
      · simp [Tbl.set, hlt, heq, ih]

/-- What is listed for a key that is listed once. -/
theorem Tbl.find?_of_mem {α : Type} {t : Tbl α} {k : Nat} {v : α} (hnd : (t.map Prod.fst).Nodup) (h : (k, v) ∈ t) :
    t.find? k = some v := by
  induction t with
  | nil => cases h
  | cons p t ih =>
    obtain ⟨i, w⟩ := p
    rw [List.map_cons, List.nodup_cons] at hnd
    rw [Tbl.find?_cons]
    rcases List.mem_cons.1 h with h | h
    · cases h
      exact if_pos rfl
    · have hk : i ≠ k := fun e => hnd.1 (List.mem_map.2 ⟨(k, v), h, e.symm⟩)
      rw [if_neg hk, ih hnd.2 h]

theorem Tbl.mem_set_self {α : Type} (t : Tbl α) (k : Nat) (v : α) : (k, v) ∈ t.set k v := by
  induction t with
  | nil => exact List.mem_singleton_self _
  | cons p t ih =>
    unfold Tbl.set
    split
    · exact List.mem_cons_self
    · split
      · exact List.mem_cons_self
      · exact List.mem_cons_of_mem _ ih

theorem bitsOf_eq (x hi lo : Nat) : bitsOf x hi lo = x / 2 ^ lo % 2 ^ (hi + 1 - lo) := by
  rw [bitsOf, Nat.shiftRight_eq_div_pow]

end Sys2Proof

namespace Sys2Proof.Machine

section

variable {s : State}

/-! ## Queues and NOTIFY (03, R49–R53) -/

theorem queueError_eq (s : State) (x : Queue) : queueError s x = Spec.errorOf s x := by
  simp only [queueError, Spec.errorOf, Bool.or_eq_true, Bool.not_eq_true', bne_iff_ne, decide_eq_true_eq]

/-- Word 0 of a descriptor, whose fields an enable takes before it starts the queue. -/
theorem queueWrite_zero {x : Queue} (hx : x.enable = false) (value : Nat) :
    queueWrite x 0 value = { x with vmid := value / 2 ^ 56 % 256, part := value / 2 ^ 52 % 16, size := value / 2 ^ 48 % 16, prio := value / 4 % 4,
                                    devsub := value.testBit 1 } := by
  rw [queueWrite, if_neg (by simp [hx])]
  simp only [bitsOf_eq, bitOf_eq_testBit]
  rfl

theorem exec_queueEnable {q value : Nat} (hx : (s.queue q).enable = false) (hv : value.testBit 0 = true) :
    exec (.queueEnable q value) s = .next (enableQueue s q (queueWrite (s.queue q) 0 value) 0 0 0) := by
  change execQueueEnable q value s = _
  simp [execQueueEnable, hx, bitOf_eq_testBit, hv]

theorem exec_queueDisable {q : Nat} (hx : (s.queue q).enable = true) :
    exec (.queueDisable q) s = .next (s.setQueue q { s.queue q with enable := false }) := by
  change execQueueDisable q s = _
  rw [execQueueDisable, if_pos hx]

/-- An aligned notify write through BAR2 by a function bound to a VMID. -/
theorem exec_notifyWrite {func width v : Nat} (q value : Nat) (hrun : s.root.running = true) (hw : width = 4 ∨ width = 8)
    (hv : s.funcVmid func = some v) : exec (.notifyWrite func (8 * q) width value) s = .next (s.notify v q value) := by
  have haligned : ((width = 8 || width = 4) && 8 * q % 8 = 0 : Bool) = true := by
    rcases hw with rfl | rfl <;> simp
  have hslot : 8 * q / 8 = q := by omega
  change execNotifyWrite func (8 * q) width value s = _
  simp only [execNotifyWrite, hrun, haligned, hv, hslot, Bool.not_true, Bool.false_eq_true, if_true, if_false]

theorem notify_foreign {q v : Nat} (value : Nat) (hx : (s.queue q).enable = true) (hv : (s.queue q).vmid ≠ v) :
    s.notify v q value = s.dropNotify := by
  simp [State.notify, hx, hv]

/-- An accepted notify write, before the queue evaluates it: PROD is set and the sleepers on the slot's line wake. -/
def State.notified (s : State) (q value : Nat) : State := (s.setQueue q { s.queue q with prod := value % 2 ^ 32 }).wakeSlot q

theorem notified_queue (s : State) (q value : Nat) : (s.notified q value).queue q = { s.queue q with prod := value % 2 ^ 32 } :=
  s.setQueue_queue_self q _

theorem notify_own {q v : Nat} (value : Nat) (hx : (s.queue q).enable = true) (hv : (s.queue q).vmid = v) :
    s.notify v q value = (s.notified q value).testOverrun q := by
  simp [State.notify, hx, hv, State.notified]

theorem testOverrun_stopped {q : Nat} (he : (s.queue q).error ≠ 0) : s.testOverrun q = s := by
  simp [State.testOverrun, he]

theorem testOverrun_within {q : Nat} (hx : (s.queue q).enable = true) (he : (s.queue q).error = 0)
    (h : ((s.queue q).prod + 2 ^ 32 - (s.queue q).cons) % 2 ^ 32 ≤ 2 ^ (s.queue q).size) :
    s.testOverrun q = s.setQueue q { s.queue q with
      todo := ((s.queue q).prod + 2 ^ 32 - (s.queue q).cons) % 2 ^ 32 - ((s.queue q).taken + 2 ^ 32 - (s.queue q).cons) % 2 ^ 32 } := by
  rw [State.testOverrun, if_neg (by simp [hx, he]), if_neg (Nat.not_lt.2 h)]

theorem testOverrun_over {q : Nat} (hx : (s.queue q).enable = true) (he : (s.queue q).error = 0)
    (h : 2 ^ (s.queue q).size < ((s.queue q).prod + 2 ^ 32 - (s.queue q).cons) % 2 ^ 32) :
    (s.testOverrun q).queue q = { s.queue q with error := 1, todo := 0 } := by
  rw [State.testOverrun, if_neg (by simp [hx, he]), if_pos h]
  exact s.setQueue_queue_self q _

theorem queuesAndNotify : Spec.partQueuesAndNotify := by
  intro s q
  refine ⟨fun value hx hv => ⟨_, exec_queueEnable hx hv, rfl, fun j hj => s.setQueue_queue_ne _ hj, ?_⟩, exec_queueDisable,
    fun func width value v hrun hw hv hx => ?_⟩
  · dsimp only
    rw [enableQueue, queueWrite_zero hx, State.setQueue_queue_self, queueError_eq]
    rfl
  · dsimp only
    rw [exec_notifyWrite q value hrun hw hv]
    have hq := notified_queue s q value
    refine ⟨fun hne => by rw [notify_foreign value hx hne]; rfl, fun hown herr => ⟨_, rfl, ?_⟩, fun hown herr hfits => ⟨_, rfl, ?_⟩,
      fun hown herr hover => ⟨_, rfl, ?_⟩⟩
    · rw [notify_own value hx hown, testOverrun_stopped (by rwa [hq])]
      rfl
    · rw [notify_own value hx hown, testOverrun_within (by rwa [hq]) (by rwa [hq]) (by rwa [hq]), hq, State.notified, State.wakeSlot]
      simp only [State.setQueue, Tbl.set_set]
    · rw [notify_own value hx hown, testOverrun_over (by rwa [hq]) (by rwa [hq]) (by rwa [hq]), hq]

/-! ## Taking a record (02, R42; 03, R53, R54) -/

theorem headOf_some {q : Nat} {p : Nat × Launch} (h : headOf s q = some p) :
    p ∈ s.launches ∧ p.2.queue = q ∧ p.2.stage.before = true := by
  have hp := List.find?_some h
  rw [Bool.and_eq_true, beq_iff_eq] at hp
  exact ⟨List.mem_of_find?_eq_some h, hp⟩

theorem headOf_eq_none_iff {q : Nat} : headOf s q = none ↔ ∀ p ∈ s.launches, p.2.queue = q → p.2.stage.before = false := by
  simp [headOf, List.find?_eq_none]

/-- A launch listed for a queue that had no head becomes its head, if it is neither admitted nor rejected. -/
theorem headOf_setLaunch {q k : Nat} {l : Launch} (hnone : headOf s q = none) (hq : l.queue = q) (hl : l.stage.before = true) :
    headOf (s.setLaunch k l) q = some (k, l) := by
  cases h : headOf (s.setLaunch k l) q with
  | none =>
    have := headOf_eq_none_iff.1 h _ (Tbl.mem_set_self _ _ _) hq
    rw [hl] at this
    cases this
  | some p =>
    obtain ⟨hmem, hpq, hpl⟩ := headOf_some h
    rcases Tbl.mem_set hmem with hold | hnew
    · rw [headOf_eq_none_iff.1 hnone p hold hpq] at hpl
      cases hpl
    · rw [hnew]

/-- A queue that had no head has none by a launch that is admitted or rejected. -/
theorem headOf_setLaunch_settled {q : Nat} (k : Nat) {l : Launch} (hnone : headOf s q = none) (hl : l.stage.before = false) :
    headOf (s.setLaunch k l) q = none := by
  refine headOf_eq_none_iff.2 fun p hp hq => ?_
  rcases Tbl.mem_set hp with hold | rfl
  · exact headOf_eq_none_iff.1 hnone p hold hq
  · exact hl

theorem checkHeads_of_none {q : Nat} (fuel : Nat) (h : headOf s q = none) : checkHeads fuel s q = s := by
  cases fuel with
  | zero => rfl
  | succ fuel => rw [checkHeads, h]

theorem setLaunch_setLaunch (s : State) (k : Nat) (x y : Launch) : (s.setLaunch k x).setLaunch k y = s.setLaunch k y := by
  simp only [State.setLaunch, Tbl.set_set]

/-- The stage of a taken record once it is checked (02, R43). -/
def checkedStage (r : LaunchRec) (reserved : Bool) : Stage :=
  match recordCheck r reserved with
  | some code => .finishing code
  | none => if r.wait0A = 0 ∧ r.wait1A = 0 then .eligible else .waiting

/-- The record taken by a queue that had no head is checked at once. -/
theorem nextHead_of_taken {q k : Nat} {l : Launch} {reserved : Bool} (hnone : headOf s q = none) (hq : l.queue = q)
    (hl : l.stage = .taken reserved) :
    ∃ p0 p1, nextHead (s.setLaunch k l) q =
      s.setLaunch k { l with stage := checkedStage l.record reserved, place0 := p0, place1 := p1 } := by
  have hhead := headOf_setLaunch (k := k) hnone hq (by rw [hl]; rfl)
  obtain ⟨n, hn⟩ := Nat.exists_eq_succ_of_ne_zero (List.length_pos_of_mem (Tbl.mem_set_self s.launches k l)).ne'
  have hn : (s.setLaunch k l).launches.length = n + 1 := hn
  rw [nextHead, hn, checkHeads, hhead]
  simp only [hl, State.setLaunch_launch_self, setLaunch_setLaunch, State.setStage, checkedStage]
  cases recordCheck l.record reserved with
  | none =>
    refine ⟨counterPlace (s.setLaunch k l) l.asid l.record.wait0A, counterPlace (s.setLaunch k l) l.asid l.record.wait1A, ?_⟩
    simp only [Bool.and_eq_true, decide_eq_true_eq]
  | some code =>
    exact ⟨l.place0, l.place1, checkHeads_of_none n (headOf_setLaunch_settled k hnone rfl)⟩

/-- Queue `q`, which was `x`, has gone on to the record after TAKEN, and the launch of the one at TAKEN has its number. -/
def State.goesOn (r : State) (q : Nat) (x : Queue) : State :=
  { r.setQueue q { x with taken := (x.taken + 1) % 2 ^ 32, todo := x.todo - 1 } with serial := r.serial + 1 }

theorem exec_takeRecord_read {q : Nat} {r : State} {bs : List Byte} (htakes : queueTakes s (s.queue q) = true)
    (hvalid : (s.space (s.queue q).asid).valid = true) (hqueue : r.queue q = s.queue q)
    (hread : s.engineRead (s.queue q).asid (ringAddr (s.queue q) (s.queue q).taken) 128 = .ok r bs) :
    exec (.takeRecord q) s =
      .next (nextHead ((r.goesOn q (s.queue q)).setLaunch (r.serial + 1) (launchOfRecord q (s.queue q) (ofBytes bs))) q) := by
  change execTakeRecord q s = _
  simp only [execTakeRecord, htakes, hvalid, hread, hqueue, Bool.not_true, Bool.false_eq_true, if_false]
  rfl

theorem queueTakes_iff {x : Queue} :
    queueTakes s x = true ↔ x.enable = true ∧ x.error = 0 ∧ x.held = none ∧ 0 < x.todo ∧ funcRuns s x.vmid = true := by
  simp [queueTakes, and_assoc]

/-- The launch that a record makes, once the record is checked; its counters lie at `p0` and `p1`. -/
def checkedLaunch (q : Nat) (x : Queue) (bits : Nat) (p0 p1 : Option Nat) : Launch :=
  { launchOfRecord q x bits with stage := checkedStage (LaunchRec.ofBits bits) (reservedRecord bits), place0 := p0, place1 := p1 }

/-- A queue without a head takes a record. -/
theorem takeRecord_checked {q : Nat} {r : State} {bs : List Byte} (htakes : queueTakes s (s.queue q) = true)
    (hvalid : (s.space (s.queue q).asid).valid = true) (hnone : headOf s q = none)
    (hread : Spec.DeviceReads s (s.queue q).asid (ringAddr (s.queue q) (s.queue q).taken) 128 r bs) :
    ∃ p0 p1, exec (.takeRecord q) s =
      .next ((r.goesOn q (s.queue q)).setLaunch (s.serial + 1) (checkedLaunch q (s.queue q) (ofBytes bs) p0 p1)) := by
  obtain ⟨hok, hr⟩ := hread
  have hqueue : r.queue q = s.queue q := by rw [hr]; rfl
  have hserial : r.serial = s.serial := by rw [hr]
  have hhead : headOf (r.goesOn q (s.queue q)) q = none := by rw [hr]; exact hnone
  rw [exec_takeRecord_read htakes hvalid hqueue hok, hserial]
  obtain ⟨p0, p1, hnext⟩ := nextHead_of_taken (k := s.serial + 1) (l := launchOfRecord q (s.queue q) (ofBytes bs)) hhead rfl rfl
  exact ⟨p0, p1, congrArg _ hnext⟩

/-! ## Dependence waits (02, R45) -/

/-- A dependence wait that `Tests` finds to be `m` is found so by its evaluation. -/
theorem testWait_of_tests {t : State} {k : Nat} {l : Launch} {got m : Bool} {place : Option Nat} {addr value : Nat}
    (h : Spec.Tests s t l.asid got addr value m) : ∃ p, testWait s k l got place addr value = (t, m, p) := by
  rcases h with ⟨hmet, rfl, rfl⟩ | ⟨hgot, haddr, bs, ⟨hread, -⟩, hm⟩
  · exact ⟨none, by simp [testWait, hmet]⟩
  · exact ⟨counterPlace t l.asid addr, by simp [testWait, hgot, haddr, hread, hm]⟩

/-- A test of a dependence wait leaves all but the slices and the packets to the base dies. -/
theorem tests_same {t : State} {asid addr value : Nat} {got m : Bool} (h : Spec.Tests s t asid got addr value m) :
    t = { s with l2 := t.l2, bdq := t.bdq } := by
  rcases h with ⟨-, rfl, -⟩ | ⟨-, -, bs, ⟨-, hsame⟩, -⟩
  · rfl
  · exact hsame

theorem exec_dependenceWait {s1 s2 : State} {q k : Nat} {m0 m1 : Bool} (hhead : headOf s q = some (k, s.launch k))
    (hstage : (s.launch k).stage = .waiting) (hheld : ∀ h ∈ s.held, h.at_ ≠ .dependence k) (hruns : funcRuns s (s.launch k).vmid = true)
    (h0 : Spec.Tests s s1 (s.launch k).asid (s.launch k).got0 (s.launch k).record.wait0A (s.launch k).record.wait0V m0)
    (h1 : Spec.Tests s1 s2 (s.launch k).asid (s.launch k).got1 (s.launch k).record.wait1A (s.launch k).record.wait1V m1) :
    ∃ p0 p1, exec (.dependenceWait q) s = .next (s2.setLaunch k { s.launch k with
      got0 := m0, got1 := m1, place0 := p0, place1 := p1, stage := if m0 && m1 then .eligible else .waiting }) := by
  have hunheld : (s.held.any fun h => h.at_ == .dependence k) = false := by simpa [List.any_eq_false] using hheld
  have hunheld1 : (s1.held.any fun h => h.at_ == .dependence k) = false := by rw [tests_same h0]; exact hunheld
  have hlaunch : s2.launch k = s.launch k := by rw [tests_same h1, tests_same h0]; rfl
  obtain ⟨p0, hw0⟩ := testWait_of_tests (k := k) (place := (s.launch k).place0) h0
  obtain ⟨p1, hw1⟩ := testWait_of_tests (k := k) (place := (s.launch k).place1) h1
  refine ⟨p0, p1, ?_⟩
  change execDependenceWait q s = _
  simp [execDependenceWait, hhead, hstage, hunheld, hunheld1, hruns, hw0, hw1, hlaunch]

/-! ## The first offer (02, R33, R35, R43; 03, R55) -/

/-- The checks of heads change no launch but one whose record is taken and not checked. -/
theorem checkHeads_launch {k : Nat} (fuel : Nat) (q : Nat) (hk : ∀ l reserved, (k, l) ∈ s.launches → l.stage ≠ .taken reserved) :
    (checkHeads fuel s q).launch k = s.launch k := by
  induction fuel generalizing s with
  | zero => rfl
  | succ fuel ih =>
    unfold checkHeads
    split
    · next j l hhead =>
      obtain ⟨hmem, -, -⟩ := headOf_some hhead
      split
      · next reserved hstage =>
        have hj : k ≠ j := by
          rintro rfl
          exact hk l reserved hmem hstage
        split
        · exact State.setLaunch_launch_ne _ _ hj
        · next code _ =>
          rw [ih, State.setStage, State.setLaunch_launch_ne _ _ hj]
          intro y reserved hy
          rcases Tbl.mem_set hy with hold | hnew
          · exact hk y reserved hold
          · exact absurd (congrArg Prod.fst hnew) hj
      · rfl
    · rfl

/-- An image header with the magic number and the version of R35, read for a launch whose entry and handler lie at words. -/
def GoodImage (l : Launch) (header : Nat) : Prop :=
  header % 2 ^ 32 = 0x4B425844 ∧ header / 2 ^ 32 % 2 ^ 16 = 1 ∧ l.record.entry.toNat % 12 = 0 ∧ l.record.handler.toNat % 12 = 0

theorem goodImage_iff {l : Launch} {h : Nat} :
    (bitsOf h 31 0 != 0x4B425844 || bitsOf h 47 32 != 1 || l.record.entry.toNat % 12 != 0 || l.record.handler.toNat % 12 != 0) = false ↔
      GoodImage l h := by
  simp only [GoodImage, bitsOf_eq, Bool.or_eq_false_iff, bne_eq_false_iff_eq, and_assoc, Nat.reduceAdd, Nat.reduceSub, pow_zero, Nat.div_one]

theorem offerReads_badImage {l : Launch} {s1 : State} {head : List Byte} (hhead : s.engineRead l.asid l.record.kimg 64 = .ok s1 head)
    (hbad : ¬GoodImage l (ofBytes head)) : offerReads s l = .reject s1 0x0102 := by
  rw [← goodImage_iff, Bool.not_eq_false] at hbad
  simp only [offerReads, hhead, hbad, if_true]

/-- The parameters in a parameter block (02, R33). -/
def blockParams (l : Launch) (block : List Byte) : List Word :=
  if l.record.param = 0 then [] else (List.range 16).map fun i => BitVec.ofNat 32 (ofBytes ((block.drop (4 * i)).take 4))

theorem offerReads_goodImage {l : Launch} {s1 s2 s3 : State} {head table block : List Byte}
    (hhead : s.engineRead l.asid l.record.kimg 64 = .ok s1 head) (hgood : GoodImage l (ofBytes head))
    (htable : s1.engineRead l.asid (l.record.kimg + ofBytes head / 2 ^ 320 % 2 ^ 32)
      (64 * popCount (ofBytes head / 2 ^ 352 % 2 ^ 16) 16) = .ok s2 table)
    (hblock : s2.engineRead l.asid l.record.param (if l.record.param = 0 then 0 else 64) = .ok s3 block) :
    offerReads s l = .ok s3 (tableRecords (ofBytes head / 2 ^ 352 % 2 ^ 16) table) (blockParams l block) := by
  have hmask : bitsOf (ofBytes head) 367 352 = ofBytes head / 2 ^ 352 % 2 ^ 16 := bitsOf_eq _ _ _
  have hat : bitsOf (ofBytes head) 351 320 = ofBytes head / 2 ^ 320 % 2 ^ 32 := bitsOf_eq _ _ _
  simp only [offerReads, hhead, goodImage_iff.2 hgood, hmask, hat, htable, hblock, Bool.false_eq_true, if_false]
  rfl

theorem exec_headOffer_reject {k code : Nat} {l : Launch} {t : State}
    (h : (offers s s.focus).find? (fun l => l.2.stage == .eligible) = some (k, l)) (hr : offerReads s l = .reject t code) :
    exec .headOffer s = .next (nextHead (t.setStage k (.finishing code)) l.queue) := by
  change execHeadOffer s = _
  simp only [execHeadOffer, h, hr]

theorem exec_headOffer_offered {k : Nat} {l : Launch} {t : State} {trecs : Tbl Nat} {params : List Word}
    (h : (offers s s.focus).find? (fun l => l.2.stage == .eligible) = some (k, l)) (hr : offerReads s l = .ok t trecs params) :
    exec .headOffer s = .next (t.setLaunch k { t.launch k with stage := .offered, trecs := trecs, params := params }) := by
  change execHeadOffer s = _
  simp only [execHeadOffer, h, hr]

/-- A launch whose image is refused ends, whatever the checks of the heads behind it come to. -/
theorem nextHead_rejected_stage {k : Nat} (q code : Nat) (hnd : (s.launches.map Prod.fst).Nodup) (hstage : (s.launch k).stage = .eligible) :
    ((nextHead (s.setStage k (.finishing code)) q).launch k).stage = .finishing code := by
  rw [nextHead, checkHeads_launch, State.setStage, State.setLaunch_launch_self]
  intro y reserved hy
  rcases Tbl.mem_set hy with hold | hnew
  · have hlisted : s.launch k = y := by rw [State.launch, Tbl.getD, Tbl.find?_of_mem hnd hold]; rfl
    rw [← hlisted, hstage]
    exact Stage.noConfusion
  · cases hnew
    exact Stage.noConfusion

end

theorem recordsToOffers : Spec.partRecordsToOffers := by
  intro s q
  dsimp only
  refine ⟨fun bs r hx he hheld htodo hruns hvalid hnone hread => ?_, fun k s1 s2 m0 m1 => exec_dependenceWait, ?_⟩
  · obtain ⟨p0, p1, hexec⟩ := takeRecord_checked (queueTakes_iff.2 ⟨hx, he, hheld, htodo, hruns⟩) hvalid hnone hread
    obtain ⟨-, hr⟩ := hread
    refine ⟨_, checkedLaunch q (s.queue q) (ofBytes bs) p0 p1, hexec, State.setQueue_queue_self r q _, ?_, rfl, rfl, rfl, rfl, rfl, rfl, rfl, rfl⟩
    have hlaunches : r.launches = s.launches := by rw [hr]
    have hserial : r.serial = s.serial := by rw [hr]
    simp only [State.goesOn, State.setLaunch, State.setQueue, hlaunches, hserial]
  · intro k head table block s1 s2 s3 hoffer ⟨hhead, hs1⟩
    have hstage : (s.launch k).stage = .eligible := by simpa using List.find?_some hoffer
    refine ⟨fun hbad hnd => ⟨_, exec_headOffer_reject hoffer (offerReads_badImage hhead hbad), ?_⟩,
      fun hgood ⟨htable, hs2⟩ ⟨hblock, hs3⟩ => ?_⟩
    · refine nextHead_rejected_stage _ _ ?_ ?_ <;> rw [hs1]
      · exact hnd
      · exact hstage
    · have hlaunch : s3.launch k = s.launch k := by rw [hs3, hs2, hs1]; rfl
      rw [exec_headOffer_offered hoffer (offerReads_goodImage hhead hgood htable hblock), hlaunch]
      rfl

/-- Settles O47: each event of a queue is one case of its meaning, and a read for the device leaves all that the case is about. -/
theorem submission : Obligations.Submission := ⟨queuesAndNotify, recordsToOffers⟩

end Sys2Proof.Machine

/-! Writes that reach their homes where no core buffers a reduction of their lines; the final state of a launch and the aperture, which make
such writes; and from them the statement. -/

namespace Sys2Proof.Machine

namespace Memory

theorem writeAll_append (m cs ds : List Host.Cell) : writeAll m (cs ++ ds) = writeAll (writeAll m cs) ds := List.foldl_append

theorem read_writeAll_of_mem {m cs : List Host.Cell} {c : Host.Cell} (hnd : (cs.map Prod.fst).Nodup) (h : c ∈ cs) :
    read (writeAll m cs) c.1 = c.2 := by
  induction cs generalizing m with
  | nil => cases h
  | cons d cs ih =>
    rw [List.map_cons, List.nodup_cons] at hnd
    change read (writeAll (write m d.1 d.2) cs) c.1 = c.2
    rcases List.mem_cons.1 h with rfl | h
    · rw [read_writeAll_ne _ _ fun d hd he => hnd.1 (List.mem_map.2 ⟨d, hd, he⟩), read_write_self]
    · exact ih hnd.2 h

end Memory

theorem map_fst_cellsAt (a : Nat) (bs : List Byte) : (cellsAt a bs).map Prod.fst = List.range' a bs.length := by
  induction bs generalizing a with
  | nil => rfl
  | cons b bs ih => rw [cellsAt, List.map_cons, ih, List.length_cons, List.range'_succ]

theorem mem_cellsAt (a : Nat) {bs : List Byte} {i : Nat} (hi : i < bs.length) : (a + i, bs.getD i 0) ∈ cellsAt a bs := by
  induction bs generalizing a i with
  | nil => cases hi
  | cons b bs ih =>
    rw [cellsAt]
    cases i with
    | zero => exact List.mem_cons_self
    | succ i =>
      have := ih (a + 1) (Nat.lt_of_succ_lt_succ hi)
      rw [Nat.add_right_comm] at this
      exact List.mem_cons_of_mem _ this

/-- Bytes stored from an address up are read back, and no other byte is other. -/
theorem Memory.read_writeAll_cellsAt (m : List Host.Cell) (pa : Nat) (bs : List Byte) (a : Nat) :
    Memory.read (Memory.writeAll m (cellsAt pa bs)) a =
      if pa ≤ a ∧ a < pa + bs.length then bs.getD (a - pa) 0 else Memory.read m a := by
  split
  · next h =>
    have hmem := mem_cellsAt pa (bs := bs) (i := a - pa) (by omega)
    rw [Nat.add_sub_cancel' h.1] at hmem
    exact Memory.read_writeAll_of_mem (by rw [map_fst_cellsAt]; exact List.nodup_range') hmem
  · next h =>
    refine Memory.read_writeAll_ne _ _ fun c hc he => h ?_
    have := List.mem_map_of_mem (f := Prod.fst) hc
    rw [map_fst_cellsAt, List.mem_range'_1] at this
    omega

namespace KeepsRest

theorem queue {s t : State} (h : KeepsRest s t) (q : Nat) : t.queue q = s.queue q := by
  have hqueues := congrArg State.queues h.1
  have hqueues : t.queues = s.queues := hqueues
  rw [State.queue, hqueues]
  rfl

theorem pkg {s t : State} (h : KeepsRest s t) : t.pkg = s.pkg := by
  have := congrArg State.pkg h.1
  exact this

end KeepsRest

/-! ## Reads at the homes (10, R229, R236) -/

/-- From `s` to `t` homes have read lines: of the state the slices and the packets to the base dies are other, and no byte is. -/
def OnlyReads (s t : State) : Prop := t = { s with l2 := t.l2, bdq := t.bdq } ∧ t.home = s.home

namespace OnlyReads

variable {s t u : State}

theorem refl (s : State) : OnlyReads s s := ⟨rfl, rfl⟩

theorem trans (h₁ : OnlyReads s t) (h₂ : OnlyReads t u) : OnlyReads s u := by
  refine ⟨?_, h₂.2.trans h₁.2⟩
  rw [h₂.1, h₁.1]

theorem noSilt {pa : Nat} (h : OnlyReads s t) (hs : Spec.NoSilt s pa) : Spec.NoSilt t pa := by
  rw [h.1]
  exact hs

theorem homeByte (h : OnlyReads s t) (a : Nat) : t.homeByte a = s.homeByte a := by
  rw [State.homeByte, h.2]
  rfl

end OnlyReads

namespace State

theorem home_send (s : State) (pa : Nat) (req : BdReq) (bad : List Nat) : (s.send pa req bad).home = applyReq s.home req := by
  simp [home, send]

theorem onlyReads_readLine (s : State) (line : Nat) : OnlyReads s (s.readLine line) := by
  unfold readLine
  dsimp only
  split
  · exact .refl s
  · exact ⟨rfl, s.home_send _ _ _⟩

theorem healLine_eq (s : State) (cells : List Host.Cell) (bad : List Nat) :
    s.healLine cells bad = { s with l2 := (s.healLine cells bad).l2 } := by
  unfold healLine
  repeat' split
  all_goals rfl

/-- What Silt lines hold is a matter of the line alone. -/
theorem noSilt_of_line {s : State} {pa pb : Nat} (h : Spec.NoSilt s pa) (hl : lineOf pb = lineOf pa) : Spec.NoSilt s pb := by
  unfold Spec.NoSilt
  rw [hl]
  exact h

theorem silt_any_eq_false {s : State} {pa : Nat} (h : Spec.NoSilt s pa) :
    ∀ k ∈ s.cores, (k.2.silt.any fun l => l.line == lineOf pa) = false := by
  simpa [List.any_eq_false, Spec.NoSilt] using h

theorem lineLand_of_noSilt {s : State} {pa : Nat} (h : Spec.NoSilt s pa) : s.lineLand (lineOf pa) = s := by
  have hnone : (s.cores.filter fun k => k.2.silt.any fun l => l.line == lineOf pa) = [] := by
    rw [List.filter_eq_nil_iff]
    intro k hk
    rw [silt_any_eq_false h k hk]
    exact Bool.false_ne_true
  simp only [lineLand, hnone]
  rfl

theorem mergeLine_of_noSilt {s : State} {pa : Nat} (h : Spec.NoSilt s pa) : s.mergeLine (lineOf pa) = s := by
  rw [mergeLine, if_neg]
  rw [Bool.not_eq_true, List.any_eq_false]
  intro k hk
  rw [silt_any_eq_false h k hk]
  exact Bool.false_ne_true

theorem onlyReads_touches {s : State} {lines : List Nat} (h : ∀ l ∈ lines, ∃ pa, lineOf pa = l ∧ Spec.NoSilt s pa) :
    OnlyReads s (lines.foldl touch s) := by
  induction lines generalizing s with
  | nil => exact .refl s
  | cons l lines ih =>
    obtain ⟨pa, rfl, hpa⟩ := h l List.mem_cons_self
    have hread := s.onlyReads_readLine (lineOf pa)
    rw [List.foldl_cons, touch, mergeLine_of_noSilt hpa]
    refine hread.trans (ih fun l hl => ?_)
    obtain ⟨pb, hpb, hs⟩ := h l (List.mem_cons_of_mem _ hl)
    exact ⟨pb, hpb, hread.noSilt hs⟩

theorem onlyReads_touchAll {s : State} {as : List Nat} (h : ∀ a ∈ as, Spec.NoSilt s a) : OnlyReads s (s.touchAll as) := by
  refine onlyReads_touches fun l hl => ?_
  obtain ⟨a, ha, rfl⟩ := List.mem_map.1 (List.mem_eraseDups.1 hl)
  exact ⟨a, rfl, h a ha⟩

end State

/-! ## Writes at the homes -/

/-- From `s` to `t` bytes have been written at their homes, in order, and of the rest of the machine only that has changed which such a write
moves: no core has come to buffer a reduction, and no launch is other but for its dependence waits. -/
structure Written (s t : State) (cells : List Host.Cell) : Prop where
  home    : t.home = Memory.writeAll s.home cells
  rest    : KeepsRest s t
  silt    : ∀ pa, Spec.NoSilt s pa → Spec.NoSilt t pa
  settled : ∀ j, (s.launch j).stage ≠ .waiting → t.launches.find? j = s.launches.find? j

namespace Written

variable {s t u : State} {cs ds : List Host.Cell}

theorem refl (s : State) : Written s s [] := ⟨rfl, .refl s, fun _ h => h, fun _ _ => rfl⟩

theorem launch_eq (h : Written s t cs) {j : Nat} (hj : (s.launch j).stage ≠ .waiting) : t.launch j = s.launch j := by
  rw [State.launch, Tbl.getD, h.settled j hj]
  rfl

theorem trans (h₁ : Written s t cs) (h₂ : Written t u ds) : Written s u (cs ++ ds) where
  home := by rw [h₂.home, h₁.home, Memory.writeAll_append]
  rest := h₁.rest.trans h₂.rest
  silt := fun pa h => h₂.silt pa (h₁.silt pa h)
  settled := fun j hj => (h₂.settled j (by rwa [h₁.launch_eq hj])).trans (h₁.settled j hj)

theorem of_onlyReads (h : OnlyReads s t) : Written s t [] where
  home := h.2
  rest := by rw [h.1]; exact .of_cores rfl rfl
  silt := fun _ => h.noSilt
  settled := fun _ _ => by rw [h.1]

/-- A launch that waits for a counter may change besides. -/
theorem setLaunch (h : Written s t cs) {k : Nat} (hk : (s.launch k).stage = .waiting) (x : Launch) : Written s (t.setLaunch k x) cs where
  home := h.home
  rest := h.rest.trans (State.keepsRest_setLaunch t k x)
  silt := h.silt
  settled := fun j hj => by
    have hne : j ≠ k := fun e => hj (e ▸ hk)
    rw [State.setLaunch_launches, Tbl.find?_set_ne _ _ hne, h.settled j hj]

/-- Writes one after the other, where no core buffers a reduction of any of their lines. -/
theorem foldl {α : Type} {f : State → α → State} {cells : α → List Host.Cell} {p : Nat → Prop} {xs : List α}
    (hf : ∀ x ∈ xs, ∀ s, (∀ pa, p pa → Spec.NoSilt s pa) → Written s (f s x) (cells x)) (hs : ∀ pa, p pa → Spec.NoSilt s pa) :
    Written s (xs.foldl f s) (xs.flatMap cells) := by
  induction xs generalizing s with
  | nil => exact refl s
  | cons x xs ih =>
    have hx := hf x List.mem_cons_self s hs
    exact hx.trans (ih (fun y hy => hf y (List.mem_cons_of_mem _ hy)) fun pa hpa => hx.silt pa (hs pa hpa))

theorem foldl_nil {α : Type} {f : State → α → State} {p : Nat → Prop} {xs : List α}
    (hf : ∀ x ∈ xs, ∀ s, (∀ pa, p pa → Spec.NoSilt s pa) → Written s (f s x) []) (hs : ∀ pa, p pa → Spec.NoSilt s pa) :
    Written s (xs.foldl f s) [] := by
  have hfold := foldl (cells := fun _ => []) hf hs
  rwa [List.flatMap_eq_nil_iff.2 fun _ _ => rfl] at hfold

end Written

namespace State

theorem cores_homeLand (s : State) (from_ owner : Option Nat) (c : Host.Cell) (cs : List Host.Cell) (bad : List Nat) :
    (s.homeLand from_ owner (c :: cs) bad).cores = (s.sendInvals from_ (c :: cs)).cores := by
  rw [homeLand, healLine_eq]
  rfl

theorem written_homeLand (s : State) (from_ owner : Option Nat) (cells : List Host.Cell) (bad : List Nat) :
    Written s (s.homeLand from_ owner cells bad) cells := by
  cases cells with
  | nil => exact .refl s
  | cons c cs =>
    refine ⟨?_, keepsRest_homeLand _ _ _ _ _, fun pa h k hk => ?_, fun j _ => ?_⟩
    · rw [homeLand, healLine_eq]
      exact s.home_send _ _ _
    · rw [cores_homeLand] at hk
      obtain ⟨y, hy, rfl⟩ := List.mem_map.1 hk
      have hsilt := h y hy
      dsimp only
      split <;> exact hsilt
    · rw [homeLand, healLine_eq]
      rfl

/-- A counter on a line of which no core buffers a reduction is read, and nothing merges. -/
theorem written_counterMet {s : State} {lines : List Nat} (got : Bool) (place : Option Nat) (value : Nat)
    (h : ∀ pa, lineOf pa ∈ lines → Spec.NoSilt s pa) : Written s (s.counterMet lines got place value).1 [] := by
  unfold counterMet
  split
  · exact .refl s
  · next pa =>
    split
    · exact .refl s
    · next hin =>
      have hline : lineOf pa ∈ lines := by
        simp only [Bool.or_eq_true, not_or, Bool.not_eq_true', List.contains_eq_mem, decide_eq_false_iff_not, not_not] at hin
        exact hin.2
      rw [lineLand_of_noSilt (h pa hline)]
      exact .of_onlyReads (s.onlyReads_readLine _)

theorem written_noteCounters {s : State} {lines : List Nat} (h : ∀ pa, lineOf pa ∈ lines → Spec.NoSilt s pa) :
    Written s (s.noteCounters lines) [] := by
  unfold noteCounters
  split
  · exact .refl s
  · refine Written.foldl_nil (p := fun pa => lineOf pa ∈ lines) (fun k _ s hs => ?_) h
    dsimp only
    split
    · exact .refl s
    · next hwait =>
      have hk : (s.launch k).stage = .waiting := by simpa using hwait
      have hfirst := written_counterMet (s.launch k).got0 (s.launch k).place0 (s.launch k).record.wait0V hs
      exact (hfirst.trans (written_counterMet _ _ _ fun pa hpa => hfirst.silt pa (hs pa hpa))).setLaunch hk _

theorem written_homeWrite {s : State} (from_ owner : Option Nat) {cells : List Host.Cell} (bad : List Nat)
    (h : ∀ c ∈ cells, Spec.NoSilt s c.1) : Written s (s.homeWrite from_ owner cells bad) cells := by
  have hland := s.written_homeLand from_ owner cells bad
  have hnote : Written _ (s.homeWrite from_ owner cells bad) [] := written_noteCounters fun pa hpa => by
    obtain ⟨a, ha, hline⟩ := List.mem_map.1 (List.mem_eraseDups.1 hpa)
    obtain ⟨c, hc, rfl⟩ := List.mem_map.1 ha
    exact hland.silt pa (noSilt_of_line (h c hc) hline.symm)
  simpa using hland.trans hnote

theorem splitLines_cons (c : Host.Cell) (cs : List Host.Cell) : ∃ ds rest, splitLines (c :: cs) = (c :: ds) :: rest := by
  unfold splitLines
  split
  · split <;> exact ⟨_, _, rfl⟩
  · exact ⟨_, _, rfl⟩

theorem flatten_splitLines (cells : List Host.Cell) : (splitLines cells).flatten = cells := by
  induction cells with
  | nil => rfl
  | cons c cs ih =>
    cases cs with
    | nil => rfl
    | cons d cs =>
      obtain ⟨ds, rest, hsplit⟩ := splitLines_cons d cs
      rw [splitLines, hsplit]
      rw [hsplit] at ih
      dsimp only
      split
      · exact congrArg (c :: ·) ih
      · exact congrArg (c :: ·) ih

theorem written_homeWrites {s : State} (from_ owner : Option Nat) {cells : List Host.Cell} (h : ∀ c ∈ cells, Spec.NoSilt s c.1) :
    Written s (s.homeWrites from_ owner cells) cells := by
  have hfold := Written.foldl (s := s) (f := fun s cs => s.homeWrite from_ owner cs) (cells := id) (xs := splitLines cells)
    (p := fun pa => ∃ c ∈ cells, c.1 = pa) (fun cs hcs s hs => written_homeWrite _ _ _ fun c hc => hs c.1 ⟨c, ?_, rfl⟩) ?_
  · rw [List.flatMap_id, flatten_splitLines] at hfold
    exact hfold
  · rw [← flatten_splitLines cells]
    exact List.mem_flatten.2 ⟨cs, hcs, hc⟩
  · rintro pa ⟨c, hc, rfl⟩
    exact h c hc

/-! ### The device's own writes (12, R271, R275) -/

theorem exists_of_mem_linesOf {l pa n : Nat} (h : l ∈ linesOf pa n) : ∃ i < n, lineOf (pa + i) = l := by
  unfold linesOf at h
  split at h
  · cases h
  · next hn =>
    obtain ⟨j, hj, rfl⟩ := List.mem_map.1 h
    rw [List.mem_range] at hj
    unfold lineOf at hj ⊢
    exact ⟨128 * (pa / 128 + j) - pa, by omega, by omega⟩

theorem mergeLines_of_noSilt {s : State} {lines : List Nat} (h : ∀ l ∈ lines, ∃ pa, lineOf pa = l ∧ Spec.NoSilt s pa) :
    lines.foldl mergeLine s = s := by
  induction lines with
  | nil => rfl
  | cons l lines ih =>
    obtain ⟨pa, rfl, hpa⟩ := h l List.mem_cons_self
    rw [List.foldl_cons, mergeLine_of_noSilt hpa]
    exact ih fun l hl => h l (List.mem_cons_of_mem _ hl)

end State

/-- The bytes of a write over pieces of memory, each at its place. -/
def cellsOver : List (Nat × Nat × Option Nat) → List Byte → List Host.Cell
  | [], _ => []
  | p :: ps, bs => cellsAt p.1 (bs.take p.2.1) ++ cellsOver ps (bs.drop p.2.1)

/-- The cells of a piece lie in it. -/
theorem exists_of_mem_cellsAt_take {c : Host.Cell} {pa n : Nat} {bs : List Byte} (h : c ∈ cellsAt pa (bs.take n)) : ∃ i < n, c.1 = pa + i := by
  have := List.mem_map_of_mem (f := Prod.fst) h
  rw [map_fst_cellsAt, List.mem_range'_1, List.length_take] at this
  exact ⟨c.1 - pa, by omega, by omega⟩

/-- A piece of a device write that is not logged, none of whose lines has reductions buffered. -/
def PlainPiece (s : State) (p : Nat × Nat × Option Nat) : Prop := p.2.2 = none ∧ ∀ i, i < p.2.1 → Spec.NoSilt s (p.1 + i)

theorem written_pieces {f : State × List Byte → Nat × Nat × Option Nat → State × List Byte}
    (hf : ∀ s bs p, PlainPiece s p → f (s, bs) p = (s.homeWrites none none (cellsAt p.1 (bs.take p.2.1)), bs.drop p.2.1))
    {ps : List (Nat × Nat × Option Nat)} {s : State} (bs : List Byte) (h : ∀ p ∈ ps, PlainPiece s p) :
    Written s (ps.foldl f (s, bs)).1 (cellsOver ps bs) := by
  induction ps generalizing s bs with
  | nil => exact .refl s
  | cons p ps ih =>
    have hp := h p List.mem_cons_self
    have hfirst : Written s (s.homeWrites none none (cellsAt p.1 (bs.take p.2.1))) _ := State.written_homeWrites none none fun c hc => by
      obtain ⟨i, hi, hc⟩ := exists_of_mem_cellsAt_take hc
      exact hc ▸ hp.2 i hi
    rw [List.foldl_cons, hf s bs p hp]
    refine hfirst.trans (ih _ fun y hy => ?_)
    obtain ⟨hlog, hsilt⟩ := h y (List.mem_cons_of_mem _ hy)
    exact ⟨hlog, fun i hi => hfirst.silt _ (hsilt i hi)⟩

/-- A device write to plain places is made, and writes its bytes there. -/
theorem written_engineWriteAt {s : State} {ps : List (Nat × Nat × Option Nat)} (fn : Nat) (bs : List Byte) (h : Spec.Plain s ps) :
    ∃ t, s.engineWriteAt fn ps bs = (t, true) ∧ Written s t (cellsOver ps bs) := by
  have hfree : (ps.any fun p => s.rangeBlocked none p.1 p.2.1) = false := List.any_eq_false.2 fun p hp => by simp [(h p hp).1]
  have hlog : (ps.any fun p => p.2.2.isSome) = false := List.any_eq_false.2 fun p hp => by simp [(h p hp).2.1]
  simp only [State.engineWriteAt, hfree, hlog, Bool.false_and, Bool.false_eq_true, if_false]
  refine ⟨_, rfl, written_pieces (fun s bs p hp => ?_) bs fun p hp => (h p hp).2⟩
  have hmerge : (State.linesOf p.1 p.2.1).foldl State.mergeLine s = s := State.mergeLines_of_noSilt fun l hl => by
    obtain ⟨i, hi, hline⟩ := State.exists_of_mem_linesOf hl
    exact ⟨_, hline, hp.2 i hi⟩
  simp only [hp.1, hmerge]

section

variable {s : State}

/-! ## The final state (02, R44) -/

theorem finalWrite_translated {l : Launch} {addr access : Nat} {bs : List Byte} {at_ : HeldAt} {r : State} {ps : List (Nat × Nat × Option Nat)}
    (hwalked : s.engineWalked l.asid (CopyCmd.pages 2 addr bs.length) = r)
    (hps : r.intervals engineCore l.asid .write (CopyCmd.pages 2 addr bs.length) = .ok ps) :
    finalWrite s l addr bs access at_ = r.engineWriteAt (r.vmidFunc l.vmid) ps bs := by
  simp only [finalWrite, hwalked, hps]

theorem finalSteps_report (n : Nat) {k : Nat} (hat : (s.launch k).finalAt = .report) (hoff : s.pkg.rptEnable = false) :
    finalSteps (n + 1) s k = finalSteps n (s.setLaunch k { s.launch k with finalAt := .status }) k := by
  rw [finalSteps]
  simp only [hat, hoff, Bool.not_false, if_true]

theorem finalSteps_status (n : Nat) {k code : Nat} {w : State} (hat : (s.launch k).finalAt = .status) (hstage : (s.launch k).stage = .finishing code)
    (hfree : ∀ h ∈ s.held, h.at_ ≠ .status k)
    (hw : finalWrite s (s.launch k) ((s.launch k).recAddr + 112) (toBytes 4 code) 1 (.status k) = (w, true)) :
    let u := finalSteps.recordFinalOf (w.setStage k (.final code)) k
    finalSteps (n + 1) s k = finalSteps n (u.setLaunch k { u.launch k with finalAt := .signal }) k := by
  have hunheld : (s.held.any fun h => h.at_ == .status k) = false := by simpa [List.any_eq_false] using hfree
  dsimp only
  rw [finalSteps]
  simp only [hat, hstage, hunheld, hw, Bool.false_eq_true, if_false]

theorem finalSteps_signal (n : Nat) {k : Nat} (hat : (s.launch k).finalAt = .signal) (hnone : (s.launch k).record.sigAddr = 0) :
    finalSteps (n + 1) s k = finalSteps n (s.setLaunch k { s.launch k with finalAt := .done }) k := by
  rw [finalSteps]
  simp [hat, hnone]

theorem finalSteps_done (n : Nat) {k : Nat} (hat : (s.launch k).finalAt = .done)
    (hrpt : ∀ q ∈ s.pkg.rptWait, q.kind = 1 → q.launch ≠ k) : finalSteps (n + 1) s k = s.forgetLaunch k := by
  have hnone : (s.pkg.rptWait.any fun r => r.kind == 1 && r.launch == k) = false := by simpa [List.any_eq_false] using hrpt
  rw [finalSteps]
  simp only [hat, hnone, Bool.false_eq_true, if_false]

/-- A launch without a signal is forgotten once its STATUS is written. -/
theorem finalSteps_unsignalled (n : Nat) {k : Nat} (hat : (s.launch k).finalAt = .signal) (hnone : (s.launch k).record.sigAddr = 0)
    (hrpt : ∀ q ∈ s.pkg.rptWait, q.kind = 1 → q.launch ≠ k) :
    finalSteps (n + 2) s k = (s.setLaunch k { s.launch k with finalAt := .done }).forgetLaunch k := by
  rw [finalSteps_signal _ hat hnone]
  exact finalSteps_done n (by rw [State.setLaunch_launch_self]) hrpt

/-- The record that CONS names is final, and no later one is: CONS moves past it. -/
theorem recordFinal_of_next {q index : Nat} (hnone : (s.queue q).finals = []) (hnext : (s.queue q).cons = index) :
    recordFinal s q index = s.setQueue q { s.queue q with cons := ((s.queue q).cons + 1) % 2 ^ 32 } := by
  unfold recordFinal
  simp [hnone, hnext, advanceCons]

/-- The launch as its STATUS is final and nothing more is to be written for it. -/
def Launch.doneWith (l : Launch) (code : Nat) : Launch := { l with stage := .final code, finalAt := .done }

/-- The state in which launch `k` is gone, and CONS of its queue has moved past it. -/
def State.retired (w : State) (k : Nat) (y : Launch) (q : Nat) (x : Queue) : State := ((w.setLaunch k y).setQueue q x).forgetLaunch k

theorem retired_home (w : State) (k : Nat) (y : Launch) (q : Nat) (x : Queue) : (w.retired k y q x).home = w.home := rfl

theorem retired_mem (w : State) (k : Nat) (y : Launch) (q : Nat) (x : Queue) : (w.retired k y q x).mem = w.mem := rfl

theorem retired_queue (w : State) (k : Nat) (y : Launch) (q : Nat) (x : Queue) : (w.retired k y q x).queue q = x :=
  (w.setLaunch k y).setQueue_queue_self q x

theorem retired_launch_self (w : State) (k : Nat) (y : Launch) (q : Nat) (x : Queue) : (w.retired k y q x).launches.find? k = none :=
  Tbl.find?_erase_self _ k

theorem retired_launch_ne (w : State) {k j : Nat} (y : Launch) (q : Nat) (x : Queue) (h : j ≠ k) :
    (w.retired k y q x).launches.find? j = w.launches.find? j :=
  (Tbl.find?_erase_ne _ h).trans (Tbl.find?_set_ne _ _ h)

/-- The record of launch `l`, number `k`, is the one that CONS of its queue names, and no later record of the queue is final. -/
def NextFinal (x : Queue) (k : Nat) (l : Launch) : Prop := x.epoch < k ∧ x.finals = [] ∧ x.cons = l.index

/-- The steps of the final state once the STATUS is written, for a launch without a signal (02, R44; 03, R54). -/
theorem finalSteps_written (n : Nat) {k code : Nat} {w : State} {l : Launch} (hat : (s.launch k).finalAt = .status)
    (hstage : (s.launch k).stage = .finishing code) (hfree : ∀ h ∈ s.held, h.at_ ≠ .status k)
    (hw : finalWrite s (s.launch k) ((s.launch k).recAddr + 112) (toBytes 4 code) 1 (.status k) = (w, true)) (hl : w.launch k = l)
    (hsig : l.record.sigAddr = 0) (hnext : NextFinal (w.queue l.queue) k l) (hrpt : ∀ q ∈ w.pkg.rptWait, q.kind = 1 → q.launch ≠ k) :
    finalSteps (n + 3) s k = w.retired k (l.doneWith code) l.queue { w.queue l.queue with cons := ((w.queue l.queue).cons + 1) % 2 ^ 32 } := by
  obtain ⟨hepoch, hnone, hcons⟩ := hnext
  have hlaunch : (w.setStage k (.final code)).launch k = { l with stage := .final code } := by
    rw [← hl]
    exact w.setLaunch_launch_self k _
  have hrecord : finalSteps.recordFinalOf (w.setStage k (.final code)) k = (w.setStage k (.final code)).setQueue l.queue
      { w.queue l.queue with cons := ((w.queue l.queue).cons + 1) % 2 ^ 32 } := by
    unfold finalSteps.recordFinalOf
    rw [hlaunch]
    exact (if_pos hepoch).trans (recordFinal_of_next hnone hcons)
  rw [finalSteps_status _ hat hstage hfree hw, hrecord, State.setQueue_launch, hlaunch]
  refine (finalSteps_unsignalled n ?_ ?_ ?_).trans ?_
  · rw [State.setLaunch_launch_self]
  · rw [State.setLaunch_launch_self]
    exact hsig
  · exact hrpt
  · rw [State.setLaunch_launch_self, setLaunch_setLaunch, State.retired, ← setLaunch_setLaunch w k { w.launch k with stage := .final code }]
    rfl

/-- Of launch `l`, number `k`, every effect is made, and of its final state the STATUS alone is to be written: `code`. No fault holds that
write, and no report waits that names the launch (02, R44; 17, R385). -/
structure OnlyStatusLeft (s : State) (k : Nat) (l : Launch) (code : Nat) : Prop where
  focus    : s.focus = k
  listed   : s.launch k = l
  stage    : l.stage = .finishing code
  first    : l.finalAt = .report
  noReport : s.pkg.rptEnable = false
  noSignal : l.record.sigAddr = 0
  noTeam   : ∀ t ∈ s.teams, t.2.launch ≠ k
  noPost   : launchPosted s k = false
  runs     : funcRuns s l.vmid = true
  noFault  : ∀ h ∈ s.held, h.at_ ≠ .status k
  noWait   : ∀ q ∈ s.pkg.rptWait, q.kind = 1 → q.launch ≠ k

/-- A launch no team of which remains takes the steps of its final state at once. -/
theorem exec_launchFinal {k code : Nat} {l : Launch} (h : OnlyStatusLeft s k l code) : exec .launchFinal s = .next (finalSteps 5 s k) := by
  have hready : finalReady s k = true := by
    simp only [finalReady, h.listed, h.stage, h.noPost, h.runs, Bool.not_false, Bool.and_true, Bool.true_and, List.all_eq_true]
    intro t ht
    simp [h.noTeam t ht]
  have hcores : launchCores s k = [] := by
    have hnone : (s.teams.filter fun t => t.2.launch == k && t.2.placed) = [] :=
      List.filter_eq_nil_iff.2 fun t ht => by simp [h.noTeam t ht]
    rw [launchCores, hnone]
    rfl
  change execLaunchFinal s = _
  simp only [execLaunchFinal, h.focus, hready, hcores]
  rfl

/-- The whole of a launch's final state, where its STATUS goes to a plain place. -/
theorem exec_launchFinal_plain {k code pa : Nat} {l : Launch} {s1 r : State} (h : OnlyStatusLeft s k l code)
    (hs1 : s1 = s.setLaunch k { l with finalAt := .status })
    (hwalked : s1.engineWalked l.asid (CopyCmd.pages 2 (l.recAddr + 112) 4) = r) (hr : r = { s1 with l2 := r.l2, bdq := r.bdq })
    (hps : r.intervals engineCore l.asid .write (CopyCmd.pages 2 (l.recAddr + 112) 4) = .ok [(pa, 4, none)])
    (hplain : Spec.Plain r [(pa, 4, none)]) (hnext : NextFinal (s.queue l.queue) k l) :
    ∃ w y, Written r w (cellsAt pa (toBytes 4 code)) ∧ exec .launchFinal s =
      .next (w.retired k y l.queue { s.queue l.queue with cons := ((s.queue l.queue).cons + 1) % 2 ^ 32 }) := by
  obtain ⟨w, hw, hwritten⟩ := written_engineWriteAt (r.vmidFunc l.vmid) (toBytes 4 code) hplain
  have hcells : cellsOver [(pa, 4, none)] (toBytes 4 code) = cellsAt pa (toBytes 4 code) := List.append_nil _
  have hlaunch1 : s1.launch k = { l with finalAt := .status } := by rw [hs1]; exact s.setLaunch_launch_self k _
  have hheld1 : s1.held = s.held := by rw [hs1]; rfl
  have hlaunchR : r.launch k = { l with finalAt := .status } := by rw [hr]; exact hlaunch1
  have hlaunchW : w.launch k = { l with finalAt := .status } := by
    rw [hwritten.launch_eq (by rw [hlaunchR]; exact h.stage ▸ Stage.noConfusion), hlaunchR]
  have hqueueW : w.queue l.queue = s.queue l.queue := by rw [hwritten.rest.queue, hr, hs1]; rfl
  have hpkgW : w.pkg = s.pkg := by rw [hwritten.rest.pkg, hr, hs1]; rfl
  have hfinal : finalWrite s1 { l with finalAt := .status } (l.recAddr + 112) (toBytes 4 code) 1 (.status k) = (w, true) := by
    refine (finalWrite_translated ?_ ?_).trans hw <;> rw [length_toBytes]
    · exact hwalked
    · exact hps
  have hsteps : finalSteps 5 s k = finalSteps 4 s1 k := by
    rw [finalSteps_report 4 (by rw [h.listed]; exact h.first) h.noReport, h.listed, hs1]
  refine ⟨w, Launch.doneWith { l with finalAt := .status } code, hcells ▸ hwritten, ?_⟩
  rw [exec_launchFinal h, hsteps]
  rw [← hqueueW] at hnext ⊢
  exact congrArg _ (finalSteps_written 1 (by rw [hlaunch1]) (by rw [hlaunch1]; exact h.stage) (hheld1 ▸ h.noFault) (by rw [hlaunch1]; exact hfinal)
    hlaunchW h.noSignal hnext (hpkgW ▸ h.noWait))

/-! ## The aperture (03, R48) -/

/-- The range that holds an address is of a partition that is being reset (16, R372). -/
def State.resetAt (s : State) (pa : Nat) : Bool :=
  match s.rangeOf pa with
  | some (_, r) => (s.part r.part).rstGo
  | none => false

theorem resetAt_eq_false_iff {pa : Nat} : s.resetAt pa = false ↔ Spec.NoReset s pa := by
  unfold State.resetAt Spec.NoReset
  cases s.rangeOf pa with
  | none => simp
  | some p => simp [Prod.ext_iff]

/-- The bytes of an aperture access as pieces of memory. -/
def bytePieces (ps : List Xlat) : List (Nat × Nat × Option Nat) := ps.map fun x => (x.pa, 1, if x.log then some x.ipa else none)

theorem bytePieces_reset (ps : List Xlat) : (bytePieces ps).any (fun p => s.resetAt p.1) = ps.any fun x => s.resetAt x.pa := by
  rw [bytePieces, List.any_map]
  rfl

theorem length_aperturePlaces {func addr len : Nat} {acc : Access} {ps : List Xlat} (h : aperturePlaces s func addr len acc = .ok ps) :
    ps.length = len := by
  induction len generalizing addr ps with
  | zero =>
    cases h
    rfl
  | succ n ih =>
    unfold aperturePlaces at h
    split at h
    · cases h
    · split at h
      · cases hrest : aperturePlaces s func (addr + 1) n acc with
        | error x =>
          rw [hrest] at h
          cases h
        | ok xs =>
          rw [hrest] at h
          cases h
          rw [List.length_cons, ih hrest]
      · cases h

/-- The walks of an aperture access, one for each page that it reaches. -/
def State.apertureWalked (s : State) (func addr n : Nat) : State :=
  (CopyCmd.pages (n / 65536 + 2) addr n).foldl (fun s p => s.walkedFunc func p.1) s

/-- The package answers a read of the host. -/
def State.answersHost (s : State) (bs : List Byte) : State := { s with out := s.out ++ [.hostRead bs] }

section

variable {r : State} {func offset len : Nat} {ps : List Xlat}

/-- A host read whose bytes translate. -/
theorem exec_apertureRead (hrun : s.root.running = true) (hr : s.apertureWalked func ((s.func func).aperture + offset) len = r)
    (hslot : apertureSlot r func ((s.func func).aperture + offset) len false = none)
    (hps : aperturePlaces r func ((s.func func).aperture + offset) len .read = .ok ps) :
    exec (.apertureAccess func offset len none) s = .next (
      if ps.any fun x => r.resetAt x.pa then r.answersHost (List.replicate len 0xFF)
      else if ps.any fun x => r.rangeBlocked none x.pa 1 then r
      else (r.touchAll (ps.map (·.pa))).answersHost (ps.map fun x => (r.touchAll (ps.map (·.pa))).homeByte x.pa)) := by
  have hblocked : (bytePieces ps).any (fun p => r.rangeBlocked none p.1 1) = ps.any fun x => r.rangeBlocked none x.pa 1 := by
    rw [bytePieces, List.any_map]
    rfl
  rw [← bytePieces_reset, ← hblocked, State.touchAll, List.map_map]
  change execApertureAccess func offset len none s = _
  unfold State.apertureWalked at hr
  simp only [execApertureAccess, hrun, hr, hslot, hps, Option.isSome_none, Bool.not_true, Bool.false_eq_true, if_false]
  rfl

/-- A host write whose bytes translate. -/
theorem exec_apertureWrite {bs : List Byte} (hrun : s.root.running = true)
    (hr : s.apertureWalked func ((s.func func).aperture + offset) bs.length = r)
    (hslot : apertureSlot r func ((s.func func).aperture + offset) bs.length true = none)
    (hps : aperturePlaces r func ((s.func func).aperture + offset) bs.length .write = .ok ps) :
    exec (.apertureAccess func offset len (some bs)) s = .next (
      if ps.any fun x => r.resetAt x.pa then r else (r.engineWriteAt func (bytePieces ps) bs).1) := by
  rw [← bytePieces_reset]
  change execApertureAccess func offset len (some bs) s = _
  unfold State.apertureWalked at hr
  simp only [execApertureAccess, hrun, hr, hslot, hps, Option.isSome_some, Bool.not_true, Bool.false_eq_true, if_false, if_true]
  rfl

end

theorem any_resetAt_iff {ps : List Xlat} : (ps.any fun x => s.resetAt x.pa) = true ↔ ∃ x ∈ ps, ¬Spec.NoReset s x.pa := by
  simp only [List.any_eq_true, ← resetAt_eq_false_iff, Bool.not_eq_false]

theorem any_resetAt_eq_false {ps : List Xlat} (h : ∀ x ∈ ps, Spec.NoReset s x.pa) : (ps.any fun x => s.resetAt x.pa) = false := by
  rw [List.any_eq_false]
  intro x hx
  rw [resetAt_eq_false_iff.2 (h x hx)]
  exact Bool.false_ne_true

/-- The bytes of an aperture write, each at its place. -/
theorem cellsOver_bytePieces (ps : List Xlat) (bs : List Byte) : cellsOver (bytePieces ps) bs = (ps.map (·.pa)).zip bs := by
  induction ps generalizing bs with
  | nil => rfl
  | cons x ps ih =>
    rw [bytePieces, List.map_cons, cellsOver]
    cases bs with
    | nil => exact (ih []).trans List.zip_nil_right
    | cons b bs => exact congrArg ((x.pa, b) :: ·) (ih bs)

/-- Pages that are not logged give pieces that are not. -/
theorem bytePieces_unlogged {ps : List Xlat} (h : ∀ x ∈ ps, x.log = false) : bytePieces ps = ps.map fun x => (x.pa, 1, none) := by
  refine List.map_congr_left fun x hx => ?_
  rw [h x hx]
  rfl

/-- Bytes written at places that are all different: each place holds its own, and no other byte is other. -/
theorem homeByte_of_written_zip {t : State} {as : List Nat} {bs : List Byte} (h : Written s t (as.zip bs)) (hlen : as.length = bs.length)
    (hnd : as.Nodup) :
    (∀ i pa, as[i]? = some pa → t.homeByte pa = bs.getD i 0) ∧ ∀ a, a ∉ as → t.homeByte a = s.homeByte a := by
  refine ⟨fun i pa hi => ?_, fun a ha => ?_⟩
  · obtain ⟨hlt, rfl⟩ := List.getElem?_eq_some_iff.1 hi
    have hmem : (as[i], bs.getD i 0) ∈ as.zip bs := by
      rw [List.getD_eq_getElem _ _ (hlen ▸ hlt)]
      exact List.mem_iff_getElem.2 ⟨i, by simp [hlt, hlen ▸ hlt], by simp⟩
    rw [State.homeByte, h.home]
    exact Memory.read_writeAll_of_mem (by rwa [List.map_fst_zip hlen.le]) hmem
  · rw [State.homeByte, h.home]
    exact Memory.read_writeAll_ne _ _ fun c hc he => ha (he ▸ (List.of_mem_zip hc).1)

theorem plain_bytes {ps : List Xlat} (h : Spec.Plain s (ps.map fun x => (x.pa, 1, none))) :
    ∀ x ∈ ps, s.rangeBlocked none x.pa 1 = false ∧ Spec.NoSilt s x.pa := by
  intro x hx
  obtain ⟨hfree, -, hsilt⟩ := h _ (List.mem_map_of_mem hx)
  exact ⟨hfree, hsilt 0 Nat.one_pos⟩

end

/-! ## The statement -/

/-- Settles O46: every write of the final state and of the aperture is at plain places, where the evaluation of the counters that launches wait
for only reads. -/
theorem finalStateAndAperture : Obligations.FinalStateAndAperture := by
  intro s
  refine ⟨?_, ?_, ?_⟩
  · intro code pa k l x s1 r
    have hk : s.focus = k := rfl
    have hl : s.launch k = l := rfl
    have hs1 : s1 = s.setLaunch k { l with finalAt := .status } := rfl
    have hwalked : s1.engineWalked l.asid (CopyCmd.pages 2 (l.recAddr + 112) 4) = r := rfl
    clear_value r s1 l k
    intro hstage hat hoff hsig hteams hposted hruns hheld hrpt ⟨hr, hbytes⟩ hps hplain hepoch hnone hnext
    obtain ⟨w, y, hwritten, hexec⟩ := exec_launchFinal_plain ⟨hk, hl, hstage, hat, hoff, hsig, hteams, hposted, hruns, hheld, hrpt⟩ hs1
      hwalked hr hps hplain ⟨hepoch, hnone, hnext⟩
    have hlaunches : r.launches = s.launches.set k { l with finalAt := .status } := by rw [hr, hs1]; rfl
    have hmem : r.mem = s.mem := by rw [hr, hs1]; rfl
    have hhome : ∀ a, r.homeByte a = s.homeByte a := fun a => by rw [hbytes a, hs1]; rfl
    refine ⟨_, hexec, ⟨?_, fun _ a => ?_⟩, retired_launch_self _ _ _ _ _, fun j hj hwait => ?_, retired_queue _ _ _ _ _⟩
    · rw [retired_mem, hwritten.rest.mem, hmem]
    · rw [State.homeByte, retired_home, hwritten.home, Memory.read_writeAll_cellsAt]
      exact congrArg _ (hhome a)
    · rw [retired_launch_ne _ _ _ _ hj, hwritten.settled j, hlaunches, Tbl.find?_set_ne _ _ hj]
      rw [State.launch, hlaunches, Tbl.getD_set_ne _ _ _ hj]
      exact hwait
  · intro func offset len ps addr r hrun ⟨hr, hbytes⟩ hslot hps
    have hexec := exec_apertureRead (r := r) hrun rfl hslot hps
    clear_value r
    have hreset : ∀ pa, Spec.NoReset r pa ↔ Spec.NoReset s pa := fun pa => by rw [hr]; rfl
    refine ⟨fun hno hplain => ?_, fun ⟨x, hx, hgo⟩ => ?_⟩
    · have hplain := plain_bytes hplain
      have hfree : (ps.any fun x => r.rangeBlocked none x.pa 1) = false := List.any_eq_false.2 fun x hx => by simp [(hplain x hx).1]
      have hreads : OnlyReads r (r.touchAll (ps.map (·.pa))) := State.onlyReads_touchAll fun a ha => by
        obtain ⟨x, hx, rfl⟩ := List.mem_map.1 ha
        exact (hplain x hx).2
      have hhome : ∀ a, (r.touchAll (ps.map (·.pa))).homeByte a = s.homeByte a := fun a => (hreads.homeByte a).trans (hbytes a)
      rw [any_resetAt_eq_false fun x hx => (hreset _).2 (hno x hx), hfree, if_neg Bool.false_ne_true, if_neg Bool.false_ne_true] at hexec
      refine ⟨_, hexec, hhome, ?_⟩
      simp only [hhome]
      rw [hreads.1, hr]
      rfl
    · rw [if_pos (any_resetAt_iff.2 ⟨x, hx, fun h => hgo ((hreset _).1 h)⟩)] at hexec
      have hout : r.out = s.out := by rw [hr]
      rw [hexec, State.answersHost, hout]
  · intro func offset len bs ps addr r hrun ⟨hr, hbytes⟩ hslot hps
    have hexec := exec_apertureWrite (len := len) (r := r) hrun rfl hslot hps
    clear_value r
    have hreset : ∀ pa, Spec.NoReset r pa ↔ Spec.NoReset s pa := fun pa => by rw [hr]; rfl
    refine ⟨fun hno hplain hlog hnd => ?_, fun ⟨x, hx, hgo⟩ => ?_⟩
    · rw [← bytePieces_unlogged hlog] at hplain
      obtain ⟨t, ht, hwritten⟩ := written_engineWriteAt func bs hplain
      rw [cellsOver_bytePieces] at hwritten
      have hlen : (ps.map (·.pa)).length = bs.length := by rw [List.length_map, length_aperturePlaces hps]
      obtain ⟨hin, hout⟩ := homeByte_of_written_zip hwritten hlen hnd
      rw [any_resetAt_eq_false fun x hx => (hreset _).2 (hno x hx), if_neg Bool.false_ne_true, ht] at hexec
      refine ⟨t, hexec, hwritten.rest.mem.trans (by rw [hr]), fun i x hi => hin i x.pa ?_,
        fun a ha => (hout a ha).trans (hbytes a)⟩
      rw [List.getElem?_map, hi]
      rfl
    · rw [if_pos (any_resetAt_iff.2 ⟨x, hx, fun h => hgo ((hreset _).1 h)⟩)] at hexec
      exact hexec

end Sys2Proof.Machine

/-! What launches, marks, halts, invalidations, words that do not run, and the faults and traps of the host rest on, and what reset leaves. -/

namespace Sys2Proof.Machine

/-! ## What the homes do whatever the groups are

The operations of memory's homes wake groups but read nothing of them: on machines alike but for their groups they do the same. -/

/-- `t` is `s` but for its groups and the numbers it has given out. -/
def Like (s t : State) : Prop := ∃ gs n, t = { s with groups := gs, serial := n }

namespace Like

theorem foldl {α : Type} {f : State → α → State} (hf : ∀ s t x, Like s t → Like (f s x) (f t x)) {xs : List α} {s t : State}
    (h : Like s t) : Like (xs.foldl f s) (xs.foldl f t) := by
  induction xs generalizing s t with
  | nil => exact h
  | cons x xs ih => exact ih (hf _ _ x h)

variable {s t : State}

/-! ### What is read of both -/

theorem homeNat (h : Like s t) (pa n : Nat) : t.homeNat pa n = s.homeNat pa n := by obtain ⟨_, _, rfl⟩ := h; rfl

theorem cores (h : Like s t) : t.cores = s.cores := by obtain ⟨_, _, rfl⟩ := h; rfl

theorem core (h : Like s t) (c : Nat) : t.core c = s.core c := by obtain ⟨_, _, rfl⟩ := h; rfl

theorem func (h : Like s t) (fn : Nat) : t.func fn = s.func fn := by obtain ⟨_, _, rfl⟩ := h; rfl

theorem launches (h : Like s t) : t.launches = s.launches := by obtain ⟨_, _, rfl⟩ := h; rfl

theorem launch (h : Like s t) (l : Nat) : t.launch l = s.launch l := by obtain ⟨_, _, rfl⟩ := h; rfl

theorem rangeOf (h : Like s t) (pa : Nat) : t.rangeOf pa = s.rangeOf pa := by obtain ⟨_, _, rfl⟩ := h; rfl

theorem l2Line (h : Like s t) (pa : Nat) : t.l2Line pa = s.l2Line pa := by obtain ⟨_, _, rfl⟩ := h; rfl

/-! ### The operations -/

theorem setCore (h : Like s t) (c : Nat) (k : Core) : Like (s.setCore c k) (t.setCore c k) := by
  obtain ⟨gs, n, rfl⟩ := h
  exact ⟨gs, n, rfl⟩

theorem setFunc (h : Like s t) (fn : Nat) (f : Func) : Like (s.setFunc fn f) (t.setFunc fn f) := by
  obtain ⟨gs, n, rfl⟩ := h
  exact ⟨gs, n, rfl⟩

theorem setLaunch (h : Like s t) (l : Nat) (x : Launch) : Like (s.setLaunch l x) (t.setLaunch l x) := by
  obtain ⟨gs, n, rfl⟩ := h
  exact ⟨gs, n, rfl⟩

theorem send (h : Like s t) (pa : Nat) (req : BdReq) (bad : List Nat) : Like (s.send pa req bad) (t.send pa req bad) := by
  obtain ⟨gs, n, rfl⟩ := h
  exact ⟨gs, n, rfl⟩

theorem strikeWindows (h : Like s t) (owner : Option Nat) (cells : List Host.Cell) :
    Like (s.strikeWindows owner cells) (t.strikeWindows owner cells) := by
  obtain ⟨gs, n, rfl⟩ := h
  exact ⟨gs, n, rfl⟩

theorem sendInvals (h : Like s t) (from_ : Option Nat) (cells : List Host.Cell) :
    Like (s.sendInvals from_ cells) (t.sendInvals from_ cells) := by
  obtain ⟨gs, n, rfl⟩ := h
  exact ⟨gs, n, rfl⟩

theorem wakeSleepers (h : Like s t) (cells : List Host.Cell) : Like (s.wakeSleepers cells) (t.wakeSleepers cells) := by
  obtain ⟨gs, n, rfl⟩ := h
  exact ⟨_, n, rfl⟩

theorem readLine (h : Like s t) (line : Nat) : Like (s.readLine line) (t.readLine line) := by
  simp only [State.readLine, h.rangeOf, h.l2Line]
  split
  · exact h
  · obtain ⟨gs, n, rfl⟩ := h
    exact ⟨gs, n, rfl⟩

theorem healLine (h : Like s t) (cells : List Host.Cell) (bad : List Nat) : Like (s.healLine cells bad) (t.healLine cells bad) := by
  cases cells with
  | nil => exact h
  | cons c cs =>
    simp only [State.healLine, h.l2Line]
    split
    · exact h
    · split
      · exact h
      · obtain ⟨gs, n, rfl⟩ := h
        exact ⟨gs, n, rfl⟩

theorem homeLand (h : Like s t) (from_ owner : Option Nat) (cells : List Host.Cell) (bad : List Nat) :
    Like (s.homeLand from_ owner cells bad) (t.homeLand from_ owner cells bad) := by
  cases cells with
  | nil => exact h
  | cons c cs => exact ((((h.send _ _ _).healLine _ _).strikeWindows _ _).sendInvals _ _).wakeSleepers _

theorem noteBlock (h : Like s t) (fn ipa n : Nat) : Like (s.noteBlock fn ipa n) (t.noteBlock fn ipa n) := by
  simp only [State.noteBlock, h.func]
  split
  · exact h.setFunc _ _
  · split <;> exact h.setFunc _ _

theorem noteBlocks (fuel : Nat) (h : Like s t) (fn ipa n : Nat) :
    Like (State.noteBlocks fuel s fn ipa n) (State.noteBlocks fuel t fn ipa n) := by
  induction fuel generalizing s t ipa n with
  | zero => exact h
  | succ fuel ih =>
    unfold State.noteBlocks
    split
    · exact h
    · exact ih (h.noteBlock _ _ _) _ _

theorem noteCore (h : Like s t) (c line : Nat) (cells : List Host.Cell) : Like (s.noteCore c line cells) (t.noteCore c line cells) := by
  simp only [State.noteCore, h.core]
  split
  · exact h.noteBlocks _ _ _ _
  · exact h

theorem flushLand (h : Like s t) (c : Nat) (p : Nat → Bool) : Like (s.flushLand c p) (t.flushLand c p) := by
  simp only [State.flushLand, h.core]
  split
  · exact h
  · refine .foldl (fun _ _ _ h => ?_) (h.setCore _ _)
    exact (h.noteCore _ _ _).homeLand _ _ _ _

theorem registerNarrow (h : Like s t) (c line : Nat) : Like (s.registerNarrow c line) (t.registerNarrow c line) := by
  simp only [State.registerNarrow, h.core]
  split
  · exact h
  · exact h.setCore _ _

theorem wordLand (h : Like s t) (line : SiltLine) (i : Nat) (x : Word) : Like (s.wordLand line i x) (t.wordLand line i x) := by
  simp only [State.wordLand, State.sendAtom, h.homeNat, h.l2Line]
  exact (((h.send _ _ _).strikeWindows _ _).sendInvals _ _).wakeSleepers _

theorem siltLand (h : Like s t) (c : Nat) (p : SiltLine → Bool) : Like (s.siltLand c p) (t.siltLand c p) := by
  simp only [State.siltLand, h.core]
  split
  · exact h
  · refine .foldl (fun _ _ _ h => ?_) (h.setCore _ _)
    refine (Like.foldl (fun _ _ _ h => ?_) (h.flushLand _ _)).registerNarrow _ _
    exact (h.noteCore _ _ _).wordLand _ _ _

theorem publishLand (h : Like s t) (c : Nat) : Like (s.publishLand c) (t.publishLand c) := by
  have hflush := h.flushLand c fun a => (s.core c).narrow.contains (lineOf a)
  simp only [State.publishLand, h.core, hflush.core]
  exact hflush.setCore _ _

theorem lineLand (h : Like s t) (line : Nat) : Like (s.lineLand line) (t.lineLand line) := by
  simp only [State.lineLand, h.cores]
  split
  · exact h
  · refine .foldl (fun _ _ _ h => ?_) (.foldl (fun _ _ c h => h.publishLand c) h)
    exact h.siltLand _ _

theorem counterMet (h : Like s t) (lines : List Nat) (got : Bool) (place : Option Nat) (value : Nat) :
    Like (s.counterMet lines got place value).1 (t.counterMet lines got place value).1 ∧
      (t.counterMet lines got place value).2 = (s.counterMet lines got place value).2 := by
  unfold State.counterMet
  split
  · exact ⟨h, rfl⟩
  · next pa =>
    split
    · exact ⟨h, rfl⟩
    · have hread := (h.lineLand (lineOf pa)).readLine (lineOf pa)
      exact ⟨hread, congrArg (fun x => decide (value ≤ x)) (hread.homeNat pa 8)⟩

theorem noteCounters (h : Like s t) (lines : List Nat) : Like (s.noteCounters lines) (t.noteCounters lines) := by
  simp only [State.noteCounters, h.launches]
  split
  · exact h
  · refine .foldl (fun s t k h => ?_) h
    simp only [h.launch]
    split
    · exact h
    · obtain ⟨hfirst, ha⟩ := h.counterMet lines (s.launch k).got0 (s.launch k).place0 (s.launch k).record.wait0V
      obtain ⟨hsecond, hb⟩ := hfirst.counterMet lines (s.launch k).got1 (s.launch k).place1 (s.launch k).record.wait1V
      rw [ha, hb]
      exact hsecond.setLaunch _ _

theorem mergeLine (h : Like s t) (line : Nat) : Like (s.mergeLine line) (t.mergeLine line) := by
  simp only [State.mergeLine, h.cores]
  split
  · exact (h.lineLand _).noteCounters _
  · exact h

/-! ### Translations and checks -/

theorem tableEntry (h : Like s t) : t.tableEntry = s.tableEntry := funext fun a => (h.mergeLine (lineOf a)).homeNat a 8

theorem walkHit (h : Like s t) : t.walkHit = s.walkHit := by obtain ⟨_, _, rfl⟩ := h; rfl

theorem mapCause (h : Like s t) : t.mapCause = s.mapCause := by obtain ⟨_, _, rfl⟩ := h; rfl

theorem space (h : Like s t) (asid : Nat) : t.space asid = s.space asid := by obtain ⟨_, _, rfl⟩ := h; rfl

theorem readTable2 (h : Like s t) : t.readTable2 = s.readTable2 := by
  funext die vmid ipa level a
  simp only [State.readTable2, h.walkHit, h.mapCause, h.tableEntry]

theorem walk2 (h : Like s t) : t.walk2 = s.walk2 := by
  have hvm : t.vm = s.vm := by obtain ⟨_, _, rfl⟩ := h; rfl
  funext die vmid ipa
  simp only [State.walk2, hvm, h.readTable2]

theorem readTable (h : Like s t) : t.readTable = s.readTable := by
  funext die asid vmid va level a
  simp only [State.readTable, h.walkHit, h.walk2, h.mapCause, h.tableEntry]

theorem walkBoth (h : Like s t) : t.walkBoth = s.walkBoth := by
  funext core asid va
  simp only [State.walkBoth, h.space, h.readTable, h.walk2]

theorem translate (h : Like s t) : t.translate = s.translate := by
  have hcached : t.cached = s.cached := by obtain ⟨_, _, rfl⟩ := h; rfl
  have hpermit : t.permit = s.permit := by obtain ⟨_, _, rfl⟩ := h; rfl
  funext core asid va acc
  simp only [State.translate, hcached, hpermit, h.walkBoth]

/-- The checks of a lane's access are the same (11, R247). -/
theorem aim (h : Like s t) (w : Who) (m : LaneForm) (addr : Nat) : t.aim w m addr = s.aim w m addr := by
  have hallowed : t.spAllowed = s.spAllowed := by obtain ⟨_, _, rfl⟩ := h; rfl
  have hreadOnly : t.readOnlyAt = s.readOnlyAt := by obtain ⟨_, _, rfl⟩ := h; rfl
  have hnet : t.netOf = s.netOf := by obtain ⟨_, _, rfl⟩ := h; rfl
  have hvdn : t.vdn = s.vdn := by obtain ⟨_, _, rfl⟩ := h; rfl
  simp only [State.aim, hallowed, hreadOnly, h.translate, h.rangeOf, hnet, hvdn]

end Like
end Sys2Proof.Machine

namespace Sys2Proof.Machine

/-! ## Groups that are not traced -/

namespace State

theorem emit_untraced {s : State} {g : Group} (h : s.tracer g = none) (after : Group) (r : List Byte) : s.emit g after r = s := by
  rw [emit, h]

theorem traceMasks_untraced {s : State} {g : Group} (h : s.tracer g = none) (before : Group) : s.traceMasks before g = s := by
  have hmask (x : Bool) : (if (g.slot x).active != (before.slot x).active then
      s.emit g g (traceRecord 2 (b2n x) 14 (g.slot x).active.toNat) else s) = s := by
    rw [emit_untraced h, ite_self]
  rw [traceMasks, List.foldl_cons, List.foldl_cons, List.foldl_nil, hmask, hmask]

/-- A group's tracer goes by its team and number, its launch, and the trace registers of its function (17, R388). -/
theorem tracer_eq {s t : State} {g : Group} (hteams : t.teams = s.teams) (hlaunches : t.launches = s.launches) (hvmids : t.vmids = s.vmids)
    (hfuncs : ∀ fn, (t.func fn).trcEnable = (s.func fn).trcEnable ∧ (t.func fn).trcSel0 = (s.func fn).trcSel0 ∧
      (t.func fn).trcSel1 = (s.func fn).trcSel1) : t.tracer g = s.tracer g := by
  have hteam (k : Nat) : t.team k = s.team k := by rw [team, hteams]; rfl
  have hlaunch (l : Nat) : t.launch l = s.launch l := by rw [launch, hlaunches]; rfl
  have hfunc (v : Nat) : t.vmidFunc v = s.vmidFunc v := by rw [vmidFunc, vm, hvmids]; rfl
  obtain ⟨hon, hsel0, hsel1⟩ := hfuncs (s.vmidFunc (s.launch (s.team g.team).launch).vmid)
  simp only [tracer, hteam, hlaunch, hfunc, hon, hsel0, hsel1]

end State

/-! ## Entering a handler (15, R335, R336) -/

/-- A trap of group `g` is taken at once: a handler is there to enter, nothing is outstanding, the clock runs, the group is resident, and
nothing of it is traced. -/
structure MayEnter (s : State) (g : Group) : Prop where
  handler  : (s.launch (s.launchOf g)).record.handler ≠ 0
  outside  : g.inh = false
  settled  : g.outstanding = false
  untraced : s.tracer g = none
  clock    : s.clockRuns g.core = true
  resident : (s.team g.team).resident = true

theorem takeTrap_enter {s : State} {k : Nat} (h : MayEnter s (s.group k)) (i : TrapInfo) :
    s.takeTrap k i = s.setGroup k ((s.group k).enter (s.launch (s.launchOf (s.group k))).record.handler i) := by
  have hstuck : ¬(!s.clockRuns (s.group k).core || !(s.team (s.group k).team).resident) = true := by simp [h.clock, h.resident]
  have hends : ¬(decide ((s.launch (s.launchOf (s.group k))).record.handler = 0) || (s.group k).inh) = true := by
    rw [h.outside, Bool.or_false, decide_eq_true_eq]
    exact h.handler
  have hwaits : ¬(s.group k).outstanding = true := by simp [h.settled]
  unfold State.takeTrap
  dsimp only
  rw [if_neg hstuck, if_neg hends, if_neg hwaits, State.emit_untraced, State.traceMasks_untraced]
  · exact h.untraced
  · exact h.untraced

/-! ## What the issue checks stop (05, R109) -/

/-- Every instruction that is a word issues, by checks and an effect of its own. -/
theorem exec_word {i : Instr} {opc : Nat} {f : Fields} (h : Forms.wordOf i = some (opc, f)) :
    ∃ checks names run own, ∀ s, exec i s = .next (issue opc f checks names run s own) := by
  cases i <;> cases h
  all_goals exact ⟨_, _, _, _, fun _ => rfl⟩

/-- Of fields that break a rule, the first is no later where more of them do. -/
theorem exists_first_le {d a b c : Bool} (own : Nat → Bool) {n : Nat}
    (h : (if d then some 1 else if a then some 2 else if b then some 3 else if c then some 4 else none) = some n) :
    ∃ m ≤ n, (if d || own 1 then some 1 else if a || own 2 then some 2 else if b || own 3 then some 3 else if c || own 4 then some 4
      else none) = some m := by
  grind

/-- Rules of an entry's own on its operands can only bring the field that traps forward (05, R109; 08, R201). -/
theorem operandFault_own {g : Group} {b : Bool} {vregs opc : Nat} {f : Fields} {n : Nat} (h : operandFault g b vregs opc f = some n)
    (own : Nat → Bool) : ∃ m ≤ n, operandFault g b vregs opc f own = some m := by
  unfold operandFault at h ⊢
  simp only [Bool.or_false] at h
  exact exists_first_le own h

/-- What stops a word by its form stops it with an entry's own operand rules too: by the same trap, or for an operand by that field or an
earlier one. -/
theorem formTrap_own {c : Ctx} {x : TrapInfo} (h : formTrap c = some x) (own : Ctx → Nat → Bool) :
    ∃ n ≤ x.field, formTrap c own = some (c.trap x.code n) ∧ ((x.code = 1 ∧ n = x.field) ∨ x.code = 2) := by
  unfold formTrap at h ⊢
  split at h
  · cases h
    exact ⟨_, le_rfl, rfl, .inl ⟨rfl, rfl⟩⟩
  · cases h
    exact ⟨_, le_rfl, rfl, .inl ⟨rfl, rfl⟩⟩
  · split at h
    · cases h
      exact ⟨_, le_rfl, rfl, .inl ⟨rfl, rfl⟩⟩
    · obtain ⟨n, hn, rfl⟩ := Option.map_eq_some_iff.1 h
      obtain ⟨m, hm, hown⟩ := operandFault_own hn (own c)
      exact ⟨m, hm, congrArg _ hown, .inr rfl⟩

/-- The first trap register: CODE, FIELD, CAUSE and ACCESS (15, Table 15.2). -/
theorem Group.enter_cause (g : Group) (handler : Word) (i : TrapInfo) :
    (g.enter handler i).trapRegs.getD 0 0 = BitVec.ofNat 32 (i.code + i.field * 2 ^ 8 + i.cause * 2 ^ 12 + i.access * 2 ^ 16) := rfl

theorem setGroup_others (s : State) (k : Nat) (x : Group) {j : Nat} (h : j ≠ k) : (s.setGroup k x).groups.find? j = s.groups.find? j :=
  Tbl.find?_set_ne _ _ h

theorem setGroup_setGroup (s : State) (k : Nat) (g g' : Group) : (s.setGroup k g).setGroup k g' = s.setGroup k g' := by
  simp only [State.setGroup, Tbl.set_set]

theorem after_setGroup (c : Ctx) (s : State) (x : Group) : Spec.after c (s.setGroup c.k x) = x := State.setGroup_group_self s c.k x

/-- What a word sees as it issues is the state, and its group as the state has it. -/
theorem ctx_group {s : State} {opc : Nat} {f : Fields} {c : Ctx} (h : s.ctx opc f = some c) :
    c.s = s ∧ s.groups.find? c.k = some c.g ∧ s.group c.k = c.g ∧ c.opc = opc ∧ c.f = f := by
  obtain ⟨g, hg, rfl⟩ := ctx_eq h
  exact ⟨rfl, hg, by rw [State.group, Tbl.getD, hg]; rfl, rfl, rfl⟩

theorem mayEnter_of_canEnter {c : Ctx} (h : Spec.CanEnter c) (htracer : c.s.tracer c.g = none) : MayEnter c.s c.g :=
  let ⟨⟨hclock, hresident⟩, hhandler, houtside, hsettled⟩ := h
  ⟨hhandler, houtside, hsettled, htracer, hclock, hresident⟩

theorem illegalWordsTrap_form : Spec.partIllegalWordsTrap := by
  intro i opc f s c x hword hctx htracer henter hform
  obtain ⟨checks, names, run, own, hexec⟩ := exec_word hword
  obtain ⟨n, hle, hown, hcode⟩ := formTrap_own hform own
  obtain ⟨rfl, -, hg, -, -⟩ := ctx_group hctx
  have hmay := mayEnter_of_canEnter henter htracer
  rw [← hg] at hmay
  have hissue := hexec c.s
  rw [issue_form_trap hctx hown, takeTrap_enter hmay, hg] at hissue
  have hafter := after_setGroup c c.s (c.g.enter (c.s.launch (c.s.launchOf c.g)).record.handler (c.trap x.code n))
  refine ⟨_, hissue, congrArg Group.inh hafter, (congrArg Group.vregs hafter).trans rfl, (congrArg Group.sregs hafter).trans rfl,
    (congrArg Group.preds hafter).trans rfl, rfl, fun j => setGroup_others _ _ _, congrArg (fun g => g.trapRegs.getD 1 0) hafter, hcode.imp_left And.left, n, ?_, hle, fun h1 => ?_⟩
  · rw [after_setGroup, Group.enter_cause]
    simp [Ctx.trap]
  · exact hcode.elim And.right fun h2 => absurd (h1.symm.trans h2) (by decide)

end Sys2Proof.Machine

namespace Sys2Proof.Machine

/-! ## What a word that has issued leaves of its group -/

/-- The marks of an issue on a group (05, R95). -/
def Group.marked (g : Group) (c : Ctx) : Group :=
  { g with lastB := c.b, issued := true, issuedAt := some c.s.now, went := true, stall := 0, spill := .none, granted := 0 }

/-- Counting an issue closes no window, where none is done. -/
theorem countIssue_closeDue {g : Group} (h : ∀ w ∈ g.windows, w.done = false) (b : Bool) (n : Nat) :
    ∃ ws, (g.countIssue b n).closeDue = { g with windows := ws } := by
  rw [closeDue_calm (countIssue_done b n h)]
  unfold Group.countIssue
  split
  · exact ⟨g.windows, rfl⟩
  · exact ⟨_, rfl⟩

/-- LAST frees the names at the close of a long-latency word's window, or at once (05, R105); nothing else of the group is other. -/
theorem frees_names {g : Group} (hw : ∀ w ∈ g.windows, w.done = false) (frees written : List Nat) (m : LaneMask) (long : Bool) (n : Nat) :
    ∃ vr ws, (if frees.isEmpty then g
        else if long && n < g.windows.length then
          { g with windows := g.windows.zipIdx.map fun (w, i) => if i = n then { w with frees := frees } else w }
        else g.freeNames frees written m) = { g with vregs := vr, windows := ws } ∧
      (∀ w ∈ ws, w.done = false) ∧ ∀ k, k ∉ frees → vr.find? k = g.vregs.find? k := by
  split
  · exact ⟨_, _, rfl, hw, fun _ _ => rfl⟩
  · split
    · refine ⟨_, _, rfl, fun w hmem => ?_, fun _ _ => rfl⟩
      obtain ⟨⟨w₀, i⟩, hin, rfl⟩ := List.mem_map.1 hmem
      have hdone := hw w₀ (List.fst_mem_of_mem_zipIdx hin)
      dsimp only
      split <;> exact hdone
    · exact ⟨_, _, freeNames_frame _ _ _ _, hw, fun _ hk => find?_freeNames_not hk⟩

/-- What the word leaves in its group besides its own effect, where no window is to close: of the registers only names that LAST frees are
other. -/
theorem retire_marked {g : Group} {c : Ctx} (hn : c.f.never = false) (hw : ∀ w ∈ g.windows, w.done = false) (hc : g.captured c.b = none)
    (n : Nat) :
    ∃ vr la ws, g.retire c n = Group.marked { g with vregs := vr, latch := la, windows := ws } c ∧
      ∀ m, m ∉ lastFrees c → vr.find? m = g.vregs.find? m := by
  obtain ⟨vr, ws, hfreed, hdone, hfind⟩ := frees_names hw (lastFrees c) (writtenNames c) c.act (Forms.longLatency c.opc) n
  unfold Group.retire
  simp only [hn, Bool.false_eq_true, if_false, hfreed, capture_fresh hc]
  generalize pushLatch _ _ _ = la
  obtain ⟨ws', hclose⟩ := countIssue_closeDue (g := Group.marked { g with vregs := vr, latch := la, windows := ws } c) hdone c.b n
  exact ⟨vr, la, ws', hclose, hfind⟩

/-- A word that has done its work goes on: its group is brought up to date, and nothing of it is traced. -/
theorem settle_untraced {c : Ctx} {s : State} {g : Group} (hg : s.groups.find? c.k = some g) (ha : g.ended = false)
    (ht : s.tracer c.g = none) :
    settle c c.s (.next s) = s.setGroup c.k ((g.retire c c.g.windows.length).advance c.b c.pc) :=
  settle_next hg ha fun t hteams hfuncs hvmids hlaunches => by
    rw [State.tracer_eq (s := s) hteams hlaunches hvmids fun fn => by simp only [State.func, hfuncs, and_self], ht]

theorem find?_freeNames_unlisted {fs : List Nat} {g : Group} {m : LaneMask} {n : Nat} (h : g.vregs.find? n = none) :
    (g.freeNames fs [] m).vregs.find? n = none := by
  induction fs generalizing g with
  | nil => exact h
  | cons k fs ih =>
    refine ih (g := { g with vregs := g.vregs.erase k }) ?_
    by_cases hn : n = k
    · rw [hn, Tbl.find?_erase_self]
    · rw [Tbl.find?_erase_ne _ hn, h]

/-- A name that LAST frees and the word does not write is unmapped (05, R105). -/
theorem find?_freeNames_of_mem {fs : List Nat} {g : Group} {m : LaneMask} {n : Nat} (h : n ∈ fs) :
    (g.freeNames fs [] m).vregs.find? n = none := by
  induction fs generalizing g with
  | nil => cases h
  | cons k fs ih =>
    rcases List.mem_cons.1 h with rfl | h
    · exact find?_freeNames_unlisted (g := { g with vregs := g.vregs.erase n }) (Tbl.find?_erase_self _ _)
    · exact ih h

section

open Sys2Proof.Spec

variable {c : Ctx} {opc : Nat} {f : Fields} {names : Ctx → List Nat} {own : Ctx → Nat → Bool} {s : State}

/-- A word that writes no register leaves of its group: the names that LAST frees are unmapped, the latch and the windows' counts are one
instruction older, and the slot is at its next PC. -/
theorem passes_of_issued {t : State} (h : Calm opc f names s c own) (hll : Forms.longLatency opc = false) (hd : (roles opc f).d = false)
    (ht : after c t = (c.g.retire c c.g.windows.length).advance c.b c.pc) : Passes c t := by
  obtain ⟨-, -, -, rfl, rfl⟩ := ctx_group h.ctx
  have hwritten : writtenNames c = [] := by simp [writtenNames, destName, hd]
  obtain ⟨ws, hretire⟩ := retire_short (n := c.g.windows.length) hll h.run h.windows h.fresh
  rw [hwritten] at hretire
  rw [hretire] at ht
  generalize pushLatch _ _ _ = la at ht
  generalize hvr : (c.g.freeNames (lastFrees c) [] c.act).vregs = vr at ht
  generalize hg : ({ c.g with vregs := vr, latch := la, windows := ws, lastB := c.b, issued := true, issuedAt := some c.s.now, went := true,
                              stall := 0, spill := .none, granted := 0 } : Group) = g at ht
  have hframe := advance_frame g c.b c.pc
  obtain ⟨hslot, hother⟩ := advance_slot g c.b c.pc
  have hloops := advance_loops g c.b c.pc
  rw [← ht] at hframe hslot hother hloops
  subst hg
  refine ⟨?_, ⟨fun n hn => ?_, fun n hn => ?_⟩, ⟨?_, ?_⟩, hslot, hother, hloops, ?_⟩
  · rw [OnlyPath, hframe]
  · rw [hframe]
    exact hvr ▸ find?_freeNames_not hn
  · rw [hframe]
    exact hvr ▸ find?_freeNames_of_mem hn
  · rw [hframe]
  · rw [hframe]
  · rw [hframe]

end
end Sys2Proof.Machine

namespace Sys2Proof.Spec.Calm

open Sys2Proof.Machine

variable {c : Ctx} {opc : Nat} {f : Fields} {names : Ctx → List Nat} {own : Ctx → Nat → Bool} {s : State}

/-- The word's group as its state lists it. -/
theorem group (h : Calm opc f names s c own) : c.s.groups.find? c.k = some c.g := by
  obtain ⟨rfl, hg, -⟩ := ctx_group h.ctx
  exact hg

theorem group_eq (h : Calm opc f names s c own) : c.s.group c.k = c.g := by
  rw [State.group, Tbl.getD, h.group]
  rfl

theorem opc_eq (h : Calm opc f names s c own) : c.opc = opc := by
  obtain ⟨-, -, -, hopc, -⟩ := ctx_group h.ctx
  exact hopc

theorem never (h : Calm opc f names s c own) : c.f.never = false := by
  obtain ⟨-, -, -, -, rfl⟩ := ctx_group h.ctx
  exact h.run

theorem tracer (h : Calm opc f names s c own) : c.s.tracer c.g = none := by
  obtain ⟨rfl, -⟩ := ctx_group h.ctx
  exact h.untraced

end Sys2Proof.Spec.Calm

namespace Sys2Proof.Machine

theorem formTrap_eq_none {c : Ctx} {own : Ctx → Nat → Bool} (h : formTrap c = none) (hown : ∀ n, own c n = false) : formTrap c own = none := by
  have hnone : own c = noOperands c := funext hown
  rw [← h]
  simp only [formTrap, hnone]

theorem fieldsBad_eq_false {xs : List (Nat × Bool)} (h : ∀ x ∈ xs, x.2 = false) (n : Nat) : fieldsBad xs n = false := by
  rw [fieldsBad, List.any_eq_false]
  intro x hx
  simp [h x hx]

section

open Sys2Proof.Spec

variable {c : Ctx} {opc : Nat} {f : Fields} {names : Ctx → List Nat} {own : Ctx → Nat → Bool} {s : State}

/-- A calm word that the operand rules of its entry do not stop comes to the entry's own conditions. -/
theorem issue_calm {checks : Ctx → Option TrapInfo} {run : Ctx → Res} {ruled : Ctx → Nat → Bool} (h : Calm opc f names s c own)
    (hform : formTrap c ruled = none) (hchecks : checks c = none) :
    issue opc f checks names run s ruled = settle c c.s (run c) := by
  obtain ⟨rfl, -, -, rfl, rfl⟩ := ctx_group h.ctx
  exact issue_runs h.ctx hform ((entryTrap_eq h.atEnd h.run).trans hchecks) h.run h.clean h.room h.regs

theorem issue_calm_trap {checks : Ctx → Option TrapInfo} {run : Ctx → Res} {ruled : Ctx → Nat → Bool} {x : TrapInfo}
    (h : Calm opc f names s c own) (hform : formTrap c ruled = none) (hchecks : checks c = some x) : issue opc f checks names run s ruled = s.takeTrap c.k x := by
  obtain ⟨rfl, -, -, rfl, rfl⟩ := ctx_group h.ctx
  exact issue_entry_trap h.ctx hform ((entryTrap_eq h.atEnd h.run).trans hchecks)

/-- A word whose effect leaves its group alone moves past itself. -/
theorem passes_settle {s' : State} (h : Calm opc f names s c own) (hll : Forms.longLatency opc = false) (hd : (roles opc f).d = false)
    (hg : s'.groups.find? c.k = some c.g) (htracer : s'.tracer c.g = none) :
    ∃ g, settle c c.s (.next s') = s'.setGroup c.k g ∧ Passes c (s'.setGroup c.k g) :=
  ⟨_, settle_untraced hg h.alive htracer, passes_of_issued h hll hd (after_setGroup _ _ _)⟩

/-- A word of no effect goes on. -/
theorem goes_settle (h : Calm opc f names s c own) (hll : Forms.longLatency opc = false) (hd : (roles opc f).d = false) :
    Goes c (settle c c.s (.next c.s)) { c.slot with pc := nextPc c } (nextLoops c) c.g.stack := by
  obtain ⟨g, hsettle, hgroup, hregs, hfiles, hslot, hother, hloops, hstack⟩ := passes_settle h hll hd h.group h.tracer
  rw [hsettle]
  exact ⟨rfl, fun j => setGroup_others _ _ _, hgroup, hregs, hfiles, hslot, hother, hloops, hstack⟩

end

/-! ## `tmark` and `halt` (15, R358, R359) -/

section

open Sys2Proof.Spec

variable {f : Fields} {s : State} {c : Ctx}

theorem exec_tmark_eq (f : Fields) (s : State) : exec (.tmark f) s = .next (issue 0x2D9 f noChecks noNames
    (fun c => if c.any then .next (c.s.emit c.g c.g (traceRecord 3 0 3 f.aux.toNat)) else .next c.s) s) := rfl

theorem exec_tmark_untraced (h : Calm 0x2D9 f noNames s c) :
    ∃ t, exec (.tmark f) s = .next t ∧ Goes c t { c.slot with pc := nextPc c } (nextLoops c) c.g.stack := by
  rw [exec_tmark_eq, issue_calm h h.form rfl, State.emit_untraced h.tracer, ite_self]
  exact ⟨_, rfl, goes_settle h rfl rfl⟩

theorem lastFrees_of_noSources (h : roles c.opc c.f = { d := false, a := false, b := false }) : lastFrees c = [] := by
  simp [lastFrees, h]

/-- A word without operands leaves every register of its group. -/
theorem retire_noSources {g : Group} (hll : Forms.longLatency c.opc = false) (hn : c.f.never = false)
    (hroles : roles c.opc c.f = { d := false, a := false, b := false }) (hw : ∀ w ∈ g.windows, w.done = false) (hc : g.captured c.b = none)
    (n : Nat) : ∃ la ws, g.retire c n = Group.marked { g with latch := la, windows := ws } c := by
  obtain ⟨ws, hretire⟩ := retire_short (n := n) hll hn hw hc
  rw [lastFrees_of_noSources hroles] at hretire
  exact ⟨_, ws, hretire⟩

theorem exec_halt_eq (f : Fields) (s : State) :
    exec (.halt f) s = .next (issue 0x2E0 f noChecks noNames (fun c => if c.any then haltAfter c else .next c.s) s) := rfl

theorem exec_halt (h : Calm 0x2E0 f noNames s c) (hany : c.any = true) :
    ∃ t, exec (.halt f) s = .next t ∧ (after c t).halted = true ∧ KeepsGroup c t ∧ Alone c t ∧ t = { c.s with groups := t.groups } := by
  have hhalt : haltAfter c = .next (c.s.setGroup c.k { c.g with halted := true }) := by rw [haltAfter, h.group_eq]
  obtain ⟨la, ws, hretire⟩ := retire_noSources (g := { c.g with halted := true }) (by rw [h.opc_eq]; rfl) h.never (by rw [h.opc_eq]; rfl)
    h.windows h.fresh c.g.windows.length
  rw [exec_halt_eq, issue_calm h h.form rfl, if_pos hany, hhalt,
    settle_untraced (s := c.s.setGroup c.k { c.g with halted := true }) (Tbl.find?_set_self _ _ _) h.alive h.tracer, hretire]
  generalize hg : Group.marked { c.g with halted := true, latch := la, windows := ws } c = g
  have hframe := advance_frame g c.b c.pc
  obtain ⟨hslot, hother⟩ := advance_slot g c.b c.pc
  generalize g.advance c.b c.pc = g' at *
  subst hg
  have hafter := after_setGroup c c.s g'
  rw [setGroup_setGroup]
  refine ⟨_, rfl, ?_, ⟨?_, ⟨?_, ?_, ?_⟩, ?_, ?_, ?_⟩, fun j hj => setGroup_others _ _ _ hj, rfl⟩
  all_goals rw [hafter]
  · rw [hframe]; rfl
  · rw [hframe]; rfl
  · rw [hframe]; rfl
  · rw [hframe]; rfl
  · rw [hframe]; rfl
  · exact hslot
  · exact hother
  · rw [hframe]; rfl

/-! ## `tlbi` (15, R360; 03, R65, R66) -/

theorem exec_tlbi_eq (f : Fields) (s : State) : exec (.tlbi f) s = .next (issue 0x2E1 f
    (fun c => firstTrap [(c.launch.vmid != 0, c.illegalInstr 0)]) noNames
    (fun c =>
      if !c.any then .next c.s
      else
        let x := tlbiOf c
        let s := c.s.dropTlb x
        if c.g.outstanding || s.peersOpen c.k || s.peersLeft x || s.lockedPages x then .wait s 0x13 else .next (s.tlbiDone x))
    s rangeOperands) := rfl

theorem rangeOperands_eq_false (hpair : pairOk c.opA = true) (hB : vectorValued c.g c.b c.opB = false) (n : Nat) :
    rangeOperands c n = false :=
  fieldsBad_eq_false (by simp [pairRule, uniformRule, hpair, hB]) n

theorem exec_tlbi_foreign (h : Calm 0x2E1 f noNames s c) (hpair : pairOk c.opA = true) (hB : vectorValued c.g c.b c.opB = false)
    (hv : c.launch.vmid ≠ 0) : exec (.tlbi f) s = .next (s.takeTrap c.k (c.illegalInstr 0)) := by
  rw [exec_tlbi_eq, issue_calm_trap (x := c.illegalInstr 0) h (formTrap_eq_none h.form (rangeOperands_eq_false hpair hB))]
  simp [firstTrap, hv]

/-- Clearing a function's blocked ring is a change of that bit alone. -/
theorem fqBlocked_cleared (p : Bool) (f : Func) :
    (if p then { f with fqBlocked := false } else f) = { f with fqBlocked := (if p then { f with fqBlocked := false } else f).fqBlocked } := by
  cases p <;> rfl

/-- Of a function, an invalidation done may let its blocked fault ring go on, and changes nothing else (03, R72). -/
theorem func_tlbiDone (s : State) (x : Tlbi) (fn : Nat) :
    (s.tlbiDone x).func fn = { s.func fn with fqBlocked := ((s.tlbiDone x).func fn).fqBlocked } := by
  unfold State.tlbiDone State.func
  dsimp only
  rw [Tbl.getD_mapVals _ _ _ (by rfl)]
  exact fqBlocked_cleared _ _

theorem tracer_tlbiDone (s : State) (x : Tlbi) (g : Group) : (s.tlbiDone x).tracer g = s.tracer g :=
  State.tracer_eq rfl rfl rfl fun fn => by
    rw [func_tlbiDone]
    exact ⟨rfl, rfl, rfl⟩

theorem core_dropTlb (s : State) (x : Tlbi) (j : Nat) :
    (s.dropTlb x).core j = { s.core j with tlb := (s.core j).tlb.filter fun e => !x.covers e } :=
  Tbl.getD_mapVals (fun _ (k : Core) => { k with tlb := k.tlb.filter fun e => !x.covers e }) s.cores j rfl

theorem ctlb_dropTlb (s : State) (x : Tlbi) (j : Nat) :
    (s.dropTlb x).ctlb.getD j [] = (s.ctlb.getD j []).filter fun e => !x.covers e :=
  Tbl.getD_mapVals (fun _ (es : List TlbEntry) => es.filter fun e => !x.covers e) s.ctlb j rfl

theorem walkers_dropTlb (s : State) (x : Tlbi) (j : Nat) :
    (s.dropTlb x).walkers.getD j [] = (s.walkers.getD j []).filter fun e => !x.coversWalk e :=
  Tbl.getD_mapVals (fun _ (es : List WalkEntry) => es.filter fun e => !x.coversWalk e) s.walkers j rfl

theorem lockedPages_dropTlb (s : State) (x y : Tlbi) : (s.dropTlb x).lockedPages y = s.lockedPages y := by
  unfold State.lockedPages
  congr 1
  exact List.any_map ..

theorem exec_tlbi (h : Calm 0x2E1 f noNames s c) (hany : c.any = true) (hpair : pairOk c.opA = true) (hB : vectorValued c.g c.b c.opB = false)
    (hv : c.launch.vmid = 0) (hout : c.g.outstanding = false) (hopen : c.s.peersOpen c.k = false) (hleft : c.s.peersLeft (tlbiOf c) = false)
    (hlocked : c.s.lockedPages (tlbiOf c) = false) :
    ∃ g, exec (.tlbi f) s = .next (((c.s.dropTlb (tlbiOf c)).tlbiDone (tlbiOf c)).setGroup c.k g) ∧
      Passes c (((c.s.dropTlb (tlbiOf c)).tlbiDone (tlbiOf c)).setGroup c.k g) := by
  have hready : ¬(c.g.outstanding || (c.s.dropTlb (tlbiOf c)).peersOpen c.k || (c.s.dropTlb (tlbiOf c)).peersLeft (tlbiOf c) ||
      (c.s.dropTlb (tlbiOf c)).lockedPages (tlbiOf c)) = true := by
    rw [lockedPages_dropTlb, hlocked, Bool.or_false, hout, Bool.false_or, Bool.or_eq_true, not_or]
    exact ⟨Bool.eq_false_iff.1 hopen, Bool.eq_false_iff.1 hleft⟩
  obtain ⟨g, hsettle, hpasses⟩ := passes_settle (s' := (c.s.dropTlb (tlbiOf c)).tlbiDone (tlbiOf c)) h rfl rfl h.group
    ((tracer_tlbiDone _ _ _).trans h.tracer)
  refine ⟨g, ?_, hpasses⟩
  rw [exec_tlbi_eq, issue_calm h (formTrap_eq_none h.form (rangeOperands_eq_false hpair hB)) (by simp [firstTrap, hv])]
  simp only [hany, Bool.not_true, Bool.false_eq_true, if_false]
  rw [if_neg hready, hsettle]

end

end Sys2Proof.Machine

namespace Sys2Proof.Machine

/-! ## `launch` (15, R356; 03, R52) -/

/-- What a write to slot `q`'s line does to a group that sleeps on it (12, R288). -/
def Group.wokenBy (g : Group) (q : Nat) : Group :=
  match g.wait with
  | .waita w => if w.notify && w.place / 16 == q / 16 then { g with wait := .waita { w with woken := true } } else g
  | _ => g

theorem wakeSlot_eq (s : State) (q : Nat) : s.wakeSlot q = { s with groups := s.groups.mapVals fun _ g => g.wokenBy q } := rfl

theorem Group.wokenBy_frame (g : Group) (q : Nat) : g.wokenBy q = { g with wait := (g.wokenBy q).wait } := by
  unfold wokenBy
  split
  · split <;> rfl
  · rfl

theorem Group.wokenBy_awake {g : Group} (h : g.wait = .none) (q : Nat) : g.wokenBy q = g := by
  unfold wokenBy
  rw [h]

theorem group_wakeSlot (s : State) (q j : Nat) : (s.wakeSlot q).group j = (s.group j).wokenBy q := by
  rw [wakeSlot_eq]
  exact Tbl.getD_mapVals (fun _ (g : Group) => g.wokenBy q) s.groups j rfl

theorem find?_wakeSlot {s : State} {k : Nat} {g : Group} (hg : s.groups.find? k = some g) (h : g.wait = .none) (q : Nat) :
    (s.wakeSlot q).groups.find? k = some g := by
  rw [wakeSlot_eq]
  dsimp only
  rw [Tbl.find?_mapVals, hg, Option.map_some, Group.wokenBy_awake h]

section

open Sys2Proof.Spec

variable {f : Fields} {s : State} {c : Ctx}

/-- The conditions under which `launch` writes the slot of queue `n` rather than being held (15, R356). -/
structure MayLaunch (c : Ctx) (n : Nat) : Prop where
  number : n ≤ 131071
  devsub : (c.s.queue n).devsub = true
  asid   : (c.s.queue n).asid = c.asid
  vmid   : (c.s.queue n).vmid = c.launch.vmid

theorem exec_launch_eq (f : Fields) (s : State) : exec (.launch f) s = .next (issue 0x2D0 f noChecks noNames
    (fun c =>
      if !c.any then .next c.s
      else
        afterRelease c true true 0x10 fun s =>
          let n := (c.srcA.at 0).toNat
          let q := s.queue n
          if 131071 < n || !q.devsub || q.asid != c.asid || q.vmid != c.launch.vmid then holdWhole c s { cause := 4 } 1 (8 * n)
          else .next (s.notify c.launch.vmid n (c.srcB.at 0).toNat)) s fun c => fieldsBad [uniformRule c c.opA 2, uniformRule c c.opB 3]) := rfl

theorem exec_launch (h : Calm 0x2D0 f noNames s c) (hany : c.any = true) (hA : vectorValued c.g c.b c.opA = false)
    (hB : vectorValued c.g c.b c.opB = false) (hrel : Released c true true) (hq : MayLaunch c (xA c 0).toNat) :
    exec (.launch f) s = .next (settle c c.s (.next (c.s.notify c.launch.vmid (xA c 0).toNat (xB c 0).toNat))) := by
  have hown : ∀ n, fieldsBad [uniformRule c c.opA 2, uniformRule c c.opB 3] n = false :=
    fieldsBad_eq_false (by simp [uniformRule, hA, hB])
  obtain ⟨hn, hdev, hasid, hvmid⟩ := hq
  unfold xA at hn hdev hasid hvmid
  unfold Released at hrel
  rw [exec_launch_eq, issue_calm h (formTrap_eq_none h.form hown) rfl]
  simp [hany, afterRelease, hrel, hdev, hasid, hvmid, Nat.not_lt.2 hn, xA, xB]

/-- A slot of a queue that is not enabled takes no write (03, R52). -/
theorem exec_launch_disabled (h : Calm 0x2D0 f noNames s c) (hany : c.any = true) (hA : vectorValued c.g c.b c.opA = false)
    (hB : vectorValued c.g c.b c.opB = false) (hrel : Released c true true) (hq : MayLaunch c (xA c 0).toNat)
    (hoff : (c.s.queue (xA c 0).toNat).enable = false) :
    ∃ t, exec (.launch f) s = .next t ∧ Goes c t { c.slot with pc := nextPc c } (nextLoops c) c.g.stack := by
  have hnotify : c.s.notify c.launch.vmid (xA c 0).toNat (xB c 0).toNat = c.s := by simp [State.notify, hoff]
  rw [exec_launch h hany hA hB hrel hq, hnotify]
  exact ⟨_, rfl, goes_settle h rfl rfl⟩

/-- A notify that overruns nothing sets PROD and how many records are to be read (03, R53), and wakes who sleeps on the slot's line. -/
theorem notify_within {v q value : Nat} (hx : (s.queue q).enable = true) (hv : (s.queue q).vmid = v) (he : (s.queue q).error = 0)
    (hvalue : value < 2 ^ 32) (hfits : (value + 2 ^ 32 - (s.queue q).cons) % 2 ^ 32 ≤ 2 ^ (s.queue q).size) :
    s.notify v q value = (s.setQueue q { s.queue q with
      prod := value
      todo := (value + 2 ^ 32 - (s.queue q).cons) % 2 ^ 32 - ((s.queue q).taken + 2 ^ 32 - (s.queue q).cons) % 2 ^ 32 }).wakeSlot q := by
  have hq := notified_queue s q value
  rw [Nat.mod_eq_of_lt hvalue] at hq
  rw [notify_own value hx hv, testOverrun_within (by rwa [hq]) (by rwa [hq]) (by rwa [hq]), hq, State.notified, State.wakeSlot, State.wakeSlot]
  simp only [State.setQueue, Tbl.set_set]

theorem exec_launch_enabled (h : Calm 0x2D0 f noNames s c) (hany : c.any = true) (hA : vectorValued c.g c.b c.opA = false)
    (hB : vectorValued c.g c.b c.opB = false) (hrel : Released c true true) (hq : MayLaunch c (xA c 0).toNat) :
    let n := (xA c 0).toNat
    let q := c.s.queue n
    let value := (xB c 0).toNat
    q.enable = true → q.error = 0 → (value + 2 ^ 32 - q.cons) % 2 ^ 32 ≤ 2 ^ q.size → ∃ t, exec (.launch f) s = .next t ∧ Passes c t ∧
      OnlyWoken c t ∧ t = { c.s with groups := t.groups, queues := t.queues } ∧
      t.queue n = { q with prod := value, todo := (value + 2 ^ 32 - q.cons) % 2 ^ 32 - (q.taken + 2 ^ 32 - q.cons) % 2 ^ 32 } ∧
      ∀ j, j ≠ n → t.queue j = c.s.queue j := by
  intro n q value hx he hfits
  rw [exec_launch h hany hA hB hrel hq, notify_within hx hq.vmid he (xB c 0).isLt hfits]
  generalize hq' : ({ c.s.queue n with prod := _, todo := _ } : Queue) = q'
  obtain ⟨g, hsettle, hpasses⟩ := passes_settle (s' := (c.s.setQueue n q').wakeSlot n) h rfl rfl
    (find?_wakeSlot h.group h.awake n) ((State.tracer_eq rfl rfl rfl fun _ => ⟨rfl, rfl, rfl⟩).trans h.tracer)
  rw [hsettle]
  refine ⟨_, rfl, hpasses, fun j hj => ?_, rfl, hq' ▸ c.s.setQueue_queue_self n q', fun j hj => c.s.setQueue_queue_ne _ hj⟩
  have hgroup : (((c.s.setQueue n q').wakeSlot n).setGroup c.k g).group j = (c.s.group j).wokenBy n := by
    rw [State.setGroup_group_ne _ _ hj, group_wakeSlot]
    rfl
  rw [hgroup]
  exact Group.wokenBy_frame _ _

end

/-- Settles O43: each of the four words issues to its own effect, which leaves the group's own entry to the retirement of the word. -/
theorem submissionAndHalt : Obligations.SubmissionAndHalt := by
  intro f s c hany n q value
  refine ⟨fun h hA hB hrel hn hdev hasid hvmid => ?_, exec_tmark_untraced, fun h => exec_halt h hany, fun h hpair hB =>
    ⟨exec_tlbi_foreign h hpair hB, fun hv hout hopen hleft hlocked => ?_⟩⟩
  · have hq : MayLaunch c (Spec.xA c 0).toNat := ⟨hn, hdev, hasid, hvmid⟩
    exact ⟨exec_launch_enabled h hany hA hB hrel hq, exec_launch_disabled h hany hA hB hrel hq⟩
  · obtain ⟨g, hexec, hpasses⟩ := exec_tlbi h hany hpair hB hv hout hopen hleft hlocked
    exact ⟨_, hexec, hpasses, fun j hj => setGroup_others _ _ _ hj, rfl, rfl, core_dropTlb c.s _, ctlb_dropTlb c.s _, walkers_dropTlb c.s _⟩

end Sys2Proof.Machine

namespace Sys2Proof.Machine

/-! ## Lanes that fail their checks (15, R339, R340) -/

/-- The faults of the lanes that fail their checks, in the order of the lanes. -/
def faultsOf (s : State) (w : Who) (m : LaneForm) (xs : List ReplayLane) : List (Nat × Nat × XFault) :=
  xs.filterMap fun x => match s.aim w m x.addr with | .error e => some (x.lane, x.addr, e) | .ok _ => none

/-- Every lane fails its checks. -/
def AllFail (s : State) (w : Who) (m : LaneForm) (xs : List ReplayLane) : Prop := ∀ x ∈ xs, ∃ e, s.aim w m x.addr = .error e

section

variable {s : State} {w : Who} {m : LaneForm} {xs : List ReplayLane}

theorem faultsOf_cons {x : ReplayLane} {e : XFault} (h : s.aim w m x.addr = .error e) :
    faultsOf s w m (x :: xs) = (x.lane, x.addr, e) :: faultsOf s w m xs := by
  rw [faultsOf, List.filterMap_cons, h]
  rfl

theorem mem_faultsOf {y : Nat × Nat × XFault} (h : y ∈ faultsOf s w m xs) :
    ∃ x ∈ xs, x.lane = y.1 ∧ x.addr = y.2.1 ∧ s.aim w m x.addr = .error y.2.2 := by
  obtain ⟨x, hx, hy⟩ := List.mem_filterMap.1 h
  split at hy
  · next e he =>
    cases hy
    exact ⟨x, hx, rfl, rfl, he⟩
  · cases hy

theorem faultsOf_mem {x : ReplayLane} {e : XFault} (hx : x ∈ xs) (he : s.aim w m x.addr = .error e) :
    (x.lane, x.addr, e) ∈ faultsOf s w m xs :=
  List.mem_filterMap.2 ⟨x, hx, by rw [he]⟩

theorem AllFail.lanes (h : AllFail s w m xs) : (faultsOf s w m xs).map Prod.fst = xs.map ReplayLane.lane := by
  induction xs with
  | nil => rfl
  | cons x xs ih =>
    obtain ⟨hx, hxs⟩ := List.forall_mem_cons.1 h
    obtain ⟨e, he⟩ := hx
    rw [faultsOf_cons he, List.map_cons, List.map_cons, ih hxs]

/-- Lanes that all fail make no access: the state stays, and they are left with their faults (11, R247). -/
theorem performAll_failing (h : AllFail s w m xs) (r : Replay) (out : State.LanesOut) :
    State.performAll w m r xs s out = (s, { out with faults := out.faults ++ faultsOf s w m xs, left := out.left ++ xs }) := by
  induction xs generalizing out with
  | nil => simp [State.performAll, faultsOf]
  | cons x xs ih =>
    obtain ⟨⟨e, he⟩, hxs⟩ := List.forall_mem_cons.1 h
    rw [State.performAll, he, faultsOf_cons he]
    dsimp only
    rw [ih hxs]
    simp

/-- Lanes that all fail wait for nothing, where no walk is to be made for them. -/
theorem lanesWait_failing (h : AllFail s w m xs) (hwalked : ∀ x ∈ xs, s.laneWalked w m x.addr = s)
    (hred : ∀ op float signed, m.op ≠ .red op float signed) : s.lanesWait w m xs = (s, false) := by
  have hsilt : s.siltWaits w m xs = false := by
    unfold State.siltWaits
    split
    · next op => exact absurd op (hred _ _ _)
    · rfl
  unfold State.lanesWait
  rw [hsilt]
  generalize false = b
  induction xs with
  | nil => rfl
  | cons x xs ih =>
    obtain ⟨⟨e, he⟩, hxs⟩ := List.forall_mem_cons.1 h
    obtain ⟨hx, hws⟩ := List.forall_mem_cons.1 hwalked
    rw [List.foldl_cons]
    dsimp only
    rw [hx, he]
    refine ih hxs hws ?_
    cases hm : m.op
    case red op float signed => exact absurd hm (hred _ _ _)
    all_goals simp [State.siltWaits, hm]

end

/-- The fault that is reported is one of the lanes', and none of them ranks before it (15, R339). -/
theorem worstFault_least {xs : List (Nat × Nat × XFault)} (h : xs ≠ []) :
    ∃ y ∈ xs, worstFault xs = some y ∧ ∀ z ∈ xs, causeRank y.2.2.cause ≤ causeRank z.2.2.cause := by
  induction xs with
  | nil => exact absurd rfl h
  | cons x xs ih =>
    by_cases hxs : xs = []
    · subst hxs
      exact ⟨x, by simp, rfl, by simp⟩
    · obtain ⟨y, hy, hworst, hleast⟩ := ih hxs
      by_cases hle : causeRank x.2.2.cause ≤ causeRank y.2.2.cause
      · refine ⟨x, by simp, by simp [worstFault, hworst, hle], fun z hz => ?_⟩
        rcases List.mem_cons.1 hz with rfl | hz
        · exact le_rfl
        · exact hle.trans (hleast z hz)
      · refine ⟨y, by simp [hy], by simp [worstFault, hworst, hle], fun z hz => ?_⟩
        rcases List.mem_cons.1 hz with rfl | hz
        · omega
        · exact hleast z hz

theorem maskOfLanes_testBit {ls : List Nat} (h : ∀ l ∈ ls, l < 96) (j : Nat) : (maskOfLanes ls).toNat.testBit j = decide (j ∈ ls) := by
  rw [BitVec.testBit_toNat]
  by_cases hj : j < 96
  · rw [maskOfLanes, maskOf_getLsbD _ _ hj]
    simp [hj]
  · rw [BitVec.getLsbD_of_ge _ _ (by omega)]
    simp only [false_eq_decide_iff]
    exact fun hm => hj (h j hm)

/-! ## The group that is held -/

/-- None of the windows is done. -/
def NoneDone (ws : List Window) : Prop := ∀ w ∈ ws, w.done = false

theorem openWindow_noneDone {g : Group} (h : NoneDone g.windows) (opc la : Nat) (b : Bool) (dests : List WinDest) (id : Nat) :
    ∃ ws, g.openWindow opc la b dests (id := id) = { g with windows := ws } ∧ NoneDone ws := by
  refine ⟨_, rfl, fun w hw => ?_⟩
  rcases List.mem_append.1 hw with hw | hw
  · exact h w hw
  · rw [List.mem_singleton.1 hw]

theorem fillWindow_noneDone {g : Group} (h : NoneDone g.windows) (id : Nat) (names : List DName) (scalar : Bool)
    (got : List (Nat × State.LaneOut)) (tally : List (Nat × Nat)) :
    ∃ ws, g.fillWindow id names scalar got tally = { g with windows := ws } ∧ NoneDone ws := by
  refine ⟨_, rfl, fun w hw => ?_⟩
  obtain ⟨w₀, hw₀, rfl⟩ := List.mem_map.1 hw
  dsimp only
  split <;> exact h w₀ hw₀

/-- A count of nothing changes nothing. -/
theorem countAll_zero (s : State) (l a b : Nat) : s.countAll l [(a, 0), (b, 0)] = s := by
  simp [State.countAll, State.count]

/-- A group that is held: the record joins its function's ring and the list of held faults, and the group waits on it (03, R69, R71; 15, R340). -/
theorem holdGroup_eq (s : State) (k : Nat) (r : FaultRec) (replay : Replay) :
    let fn := s.vmidFunc (s.launch (s.launchOf (s.group k))).vmid
    let seq := (s.func fn).fqSeq + 1
    s.holdGroup k r replay = State.setGroup { s.setFunc fn { s.func fn with
        fqSeq := seq, fqWait := (s.func fn).fqWait ++ [{ r with seq := seq }],
        fqFull := (s.func fn).fqFull || ((s.func fn).fqProd + 2 ^ 32 - (s.func fn).fqCons) % 2 ^ 32 == 2 ^ (s.func fn).fqSize } with
        held := s.held ++ [{ func := fn, seq := seq, record := { r with seq := seq }, at_ := .group k }] }
      k { s.group k with replay := some { replay with seq := seq }, wait := .fault seq } := rfl

end Sys2Proof.Machine

namespace Sys2Proof.Machine

/-- A group some lanes of whose access are held: the access's window holds them (15, R340). -/
def Group.holding (g : Group) (r : Replay) (held : LaneMask) : Group :=
  { g with
    replay := none
    windows := g.windows.map fun (w : Window) =>
      if w.id == r.win && Forms.longLatency r.opc then { w with held := held, pend := w.pend ||| maskOfLanes [] } else w }

theorem holding_noneDone {g : Group} (h : NoneDone g.windows) (r : Replay) (held : LaneMask) :
    ∃ ws, g.holding r held = { g with windows := ws, replay := none } ∧ NoneDone ws := by
  refine ⟨_, rfl, fun w hw => ?_⟩
  obtain ⟨w₀, hw₀, rfl⟩ := List.mem_map.1 hw
  split <;> exact h w₀ hw₀

/-- Lanes that all fail deliver nothing and count nothing: the group is held at them. -/
theorem runLanes_failing {s : State} {k : Nat} {r : Replay} (hopc : r.opc < 0x241)
    (hred : ∀ op float signed, (laneForm r.opc r.fields).op ≠ .red op float signed)
    (hfail : AllFail s (s.who k) (laneForm r.opc r.fields) r.lanes) (hw : NoneDone (s.group k).windows) :
    ∃ ws, NoneDone ws ∧
      s.runLanes k r = (s.setGroup k { s.group k with windows := ws, replay := none }).holdLanes k r (laneForm r.opc r.fields).access.code
        { faults := faultsOf s (s.who k) (laneForm r.opc r.fields) r.lanes, left := r.lanes } := by
  have htally : laneTally r.opc r.fields [] = [(12, 0), (13, 0)] := by
    rw [laneTally, if_neg (by omega)]
    rfl
  have hfill : ∃ ws, (if Forms.longLatency r.opc = true then
        (s.group k).fillWindow r.win (laneNames r.opc r.fields) ((Opnd.of r.fields.d).isScalar && !(laneNames r.opc r.fields).isEmpty) []
          [(12, 0), (13, 0)]
      else s.group k) = { s.group k with windows := ws } ∧ NoneDone ws := by
    split
    · exact fillWindow_noneDone hw _ _ _ _ _
    · exact ⟨_, rfl, hw⟩
  obtain ⟨ws, hfill, hws⟩ := hfill
  obtain ⟨ws', hheld, hws'⟩ := holding_noneDone (g := { s.group k with windows := ws }) hws r
    (maskOfLanes ((faultsOf s (s.who k) (laneForm r.opc r.fields) r.lanes).map Prod.fst))
  refine ⟨ws', hws', ?_⟩
  unfold Group.holding at hheld
  unfold State.runLanes
  dsimp only
  rw [performAll_failing hfail]
  dsimp only
  rw [List.nil_append, List.nil_append, List.filter_nil, List.filter_nil, List.map_nil, htally, hfill, hheld]
  cases hm : (laneForm r.opc r.fields).op
  case red op float signed => exact absurd hm (hred _ _ _)
  all_goals simp [countAll_zero]

end Sys2Proof.Machine

namespace Sys2Proof.Machine

section

variable {s t : State} {w : Who} {m : LaneForm} {xs : List ReplayLane}

theorem Like.allFail (h : Like s t) (hfail : AllFail s w m xs) : AllFail t w m xs := fun x hx =>
  let ⟨e, he⟩ := hfail x hx
  ⟨e, (h.aim w m x.addr).trans he⟩

theorem Like.faultsOf (h : Like s t) (w : Who) (m : LaneForm) (xs : List ReplayLane) :
    Machine.faultsOf t w m xs = Machine.faultsOf s w m xs := by
  simp only [Machine.faultsOf, h.aim]

theorem Like.who {k : Nat} (h : Like s t) (hteam : (t.group k).team = (s.group k).team) (hcore : (t.group k).core = (s.group k).core) :
    t.who k = s.who k := by
  obtain ⟨gs, n, rfl⟩ := h
  simp only [State.who, hteam, hcore]
  rfl

end

/-- The lanes of an access, as they are reissued. -/
def laneReplay (c : Ctx) (xs : List ReplayLane) : Replay :=
  { opc := c.opc, fields := c.f, pc := c.pc, slotB := c.b, whole := false, seq := 0, lanes := xs, win := c.s.serial + 1 }

/-- What an access whose lanes all fail does: it takes a number and, where it is a load, opens its window; then the group is held at the lanes. -/
theorem laneAccess_failing {c : Ctx} {mk : Nat → ReplayLane} (hg : c.s.group c.k = c.g) (hopc : c.opc < 0x241)
    (hred : ∀ op float signed, (laneForm c.opc c.f).op ≠ .red op float signed)
    (hfail : AllFail c.s (c.s.who c.k) (laneForm c.opc c.f) ((accessLanes c).map mk))
    (hwalked : ∀ x ∈ (accessLanes c).map mk, c.s.laneWalked (c.s.who c.k) (laneForm c.opc c.f) x.addr = c.s)
    (hne : accessLanes c ≠ []) (hmul : multiplies c.s c.g.core = false) (hw : NoneDone c.g.windows) :
    ∃ ws, NoneDone ws ∧ laneAccess c (fun l => some (mk l)) =
      .next ((State.setGroup { c.s with serial := c.s.serial + 1 } c.k { c.g with windows := ws, replay := none }).holdLanes c.k
        (laneReplay c ((accessLanes c).map mk)) (laneForm c.opc c.f).access.code
        { faults := faultsOf c.s (c.s.who c.k) (laneForm c.opc c.f) ((accessLanes c).map mk), left := (accessLanes c).map mk }) := by
  have hrun {s : State} {ws : List Window} (hlike : Like c.s s) (hws : NoneDone ws) (hs : s.group c.k = { c.g with windows := ws }) :
      ∃ ws', NoneDone ws' ∧ s.runLanes c.k (laneReplay c ((accessLanes c).map mk)) =
        (s.setGroup c.k { c.g with windows := ws', replay := none }).holdLanes c.k
          (laneReplay c ((accessLanes c).map mk)) (laneForm c.opc c.f).access.code
          { faults := faultsOf c.s (c.s.who c.k) (laneForm c.opc c.f) ((accessLanes c).map mk), left := (accessLanes c).map mk } := by
    have hwho : s.who c.k = c.s.who c.k := hlike.who (by rw [hs, hg]) (by rw [hs, hg])
    obtain ⟨ws', hws', hlanes⟩ := runLanes_failing (s := s) (k := c.k) (r := laneReplay c ((accessLanes c).map mk)) hopc hred
      (by rw [hwho]; exact hlike.allFail hfail) (by rw [hs]; exact hws)
    refine ⟨ws', hws', ?_⟩
    rw [hlanes, hwho, hlike.faultsOf, hs]
    rfl
  have hmap : (accessLanes c).filterMap (fun l => some (mk l)) = (accessLanes c).map mk :=
    congrFun List.filterMap_eq_map' _
  have hempty : ((accessLanes c).map mk).isEmpty = false := by simp [hne]
  unfold laneAccess
  dsimp only
  rw [hmap, lanesWait_failing hfail hwalked hred]
  dsimp only
  rw [hmul, hempty]
  simp only [Bool.false_and, Bool.false_eq_true, if_false]
  split
  · obtain ⟨ws, hopen, hws⟩ := openWindow_noneDone hw c.opc c.f.la.toNat c.b
      ((if c.any = true then laneNames c.opc c.f else []).map (emptyDest c.g.width)) (c.s.serial + 1)
    obtain ⟨ws', hfill, hws'⟩ := fillWindow_noneDone (g := { c.g with windows := ws }) hws (c.s.serial + 1)
      (if c.any = true then laneNames c.opc c.f else []) c.opD.isScalar
      (((accessLanes c).filter fun l => (some (mk l)).isNone).map fun l => (l, ({} : State.LaneOut))) []
    have hgroup : State.group { c.s with serial := c.s.serial + 1 } c.k = c.g := hg
    rw [hgroup, hopen, hfill]
    obtain ⟨ws'', hws'', hlanes⟩ := hrun (s := State.setGroup { c.s with serial := c.s.serial + 1 } c.k { c.g with windows := ws' })
      ⟨_, _, rfl⟩ hws' (State.setGroup_group_self _ _ _)
    rw [setGroup_setGroup] at hlanes
    exact ⟨ws'', hws'', congrArg Res.next hlanes⟩
  · obtain ⟨ws, hws, hlanes⟩ := hrun (s := { c.s with serial := c.s.serial + 1 }) (ws := c.g.windows) ⟨_, _, rfl⟩ hw hg
    exact ⟨ws, hws, congrArg Res.next hlanes⟩

end Sys2Proof.Machine

namespace Sys2Proof.Machine

section

open Sys2Proof.Spec

/-- The four element accesses: each issues to lane accesses of its own form, and none is a reduction (11, R245, R246). -/
theorem exec_elements {f : Fields} {i : Instr} {opc : Nat} {names : Ctx → List Nat} {own : Ctx → Nat → Bool}
    (h : (i, opc, names, own) ∈ [(Instr.ld f, 0x1C0, blockNames, loadOperands), (.lds f, 0x1C2, blockNames, loadOperands),
      (.st f, 0x1C1, noNames, storeOperands), (.sts f, 0x1C3, noNames, storeOperands)]) :
    opc < 0x241 ∧ (∀ op float signed, (laneForm opc f).op ≠ .red op float signed) ∧
      ∃ data : Ctx → Nat → List Word, ∀ s, exec i s =
        .next (issue opc f noChecks names (fun c => laneAccess c fun l => some { lane := l, addr := laneAddr c l, data := data c l }) s own) := by
  simp only [List.mem_cons, Prod.mk.injEq, List.not_mem_nil, or_false] at h
  rcases h with ⟨rfl, rfl, rfl, rfl⟩ | ⟨rfl, rfl, rfl, rfl⟩ | ⟨rfl, rfl, rfl, rfl⟩ | ⟨rfl, rfl, rfl, rfl⟩
  · exact ⟨by decide, fun _ _ _ => by simp [laneForm], fun _ _ => [], fun _ => rfl⟩
  · exact ⟨by decide, fun _ _ _ => by simp [laneForm], fun _ _ => [], fun _ => rfl⟩
  · exact ⟨by decide, fun _ _ _ => by simp [laneForm], laneData, fun _ => rfl⟩
  · exact ⟨by decide, fun _ _ _ => by simp [laneForm], laneData, fun _ => rfl⟩

theorem accessLanes_ne_nil {c : Ctx} (h : c.any = true) : accessLanes c ≠ [] := by
  have hlanes : (lanesOf c.act).length ≠ 0 := lanes_ne_zero (by simpa [Ctx.any] using h)
  unfold accessLanes
  split
  · simpa using hlanes
  · simpa using hlanes

theorem lt_of_mem_accessLanes {c : Ctx} {l : Nat} (h : l ∈ accessLanes c) : l < 96 := by
  have hmem : l ∈ lanesOf c.act := by
    unfold accessLanes at h
    split at h
    · exact List.mem_of_mem_take h
    · exact h
  exact List.mem_range.1 (List.mem_of_mem_filter hmem)

theorem holdLanes_eq {out : State.LanesOut} {l a : Nat} {x : XFault} (h : worstFault out.faults = some (l, a, x)) (s : State) (k : Nat)
    (r : Replay) (access : Nat) : s.holdLanes k r access out =
      s.holdGroup k (s.groupRecord (s.group k) r.pc x access a (maskOfLanes (out.faults.map Prod.fst)) l) { r with lanes := out.left } := by
  rw [State.holdLanes, h]

/-- A held group that retires its word keeps the hold: it waits on the record, with the replay entry (15, R340). -/
theorem retire_held {c : Ctx} {G : Group} (hn : c.f.never = false) (hw : NoneDone G.windows) (hc : G.captured c.b = none) (n : Nat) :
    ∃ g, (G.retire c n).advance c.b c.pc = g ∧ g.wait = G.wait ∧ g.replay = G.replay ∧ g.sregs = G.sregs ∧ g.preds = G.preds ∧
      ∀ m, m ∉ lastFrees c → g.vregs.find? m = G.vregs.find? m := by
  obtain ⟨vr, la, ws, hretire, hfind⟩ := retire_marked hn hw hc n
  rw [hretire, advance_frame]
  exact ⟨_, rfl, rfl, rfl, rfl, rfl, hfind⟩

theorem holdGroup_func_self {s : State} {k fn : Nat} (hfn : s.vmidFunc (s.launch (s.launchOf (s.group k))).vmid = fn) (r : FaultRec) (e : Replay) :
    (s.holdGroup k r e).func fn = { s.func fn with
      fqSeq := (s.func fn).fqSeq + 1
      fqWait := (s.func fn).fqWait ++ [{ r with seq := (s.func fn).fqSeq + 1 }]
      fqFull := (s.func fn).fqFull || ((s.func fn).fqProd + 2 ^ 32 - (s.func fn).fqCons) % 2 ^ 32 == 2 ^ (s.func fn).fqSize } := by
  subst hfn
  rw [holdGroup_eq]
  exact State.setFunc_func_self _ _ _

theorem holdGroup_func_ne {s : State} {k fn j : Nat} (hfn : s.vmidFunc (s.launch (s.launchOf (s.group k))).vmid = fn) (hj : j ≠ fn)
    (r : FaultRec) (e : Replay) : (s.holdGroup k r e).func j = s.func j := by
  subst hfn
  rw [holdGroup_eq]
  exact State.setFunc_func_ne _ _ hj

theorem holdGroup_held {s : State} {k fn : Nat} (hfn : s.vmidFunc (s.launch (s.launchOf (s.group k))).vmid = fn) (r : FaultRec) (e : Replay) :
    (s.holdGroup k r e).held = s.held ++
      [{ func := fn, seq := (s.func fn).fqSeq + 1, record := { r with seq := (s.func fn).fqSeq + 1 }, at_ := .group k }] := by
  subst hfn
  rfl

theorem holdGroup_find? {s : State} {k fn : Nat} (hfn : s.vmidFunc (s.launch (s.launchOf (s.group k))).vmid = fn) (r : FaultRec) (e : Replay) :
    (s.holdGroup k r e).groups.find? k =
      some { s.group k with replay := some { e with seq := (s.func fn).fqSeq + 1 }, wait := .fault ((s.func fn).fqSeq + 1) } := by
  subst hfn
  rw [holdGroup_eq]
  exact Tbl.find?_set_self _ _ _

theorem holdGroup_tracer (s : State) (k : Nat) (r : FaultRec) (e : Replay) (g : Group) : (s.holdGroup k r e).tracer g = s.tracer g := by
  refine State.tracer_eq rfl rfl rfl fun j => ?_
  by_cases hj : j = s.vmidFunc (s.launch (s.launchOf (s.group k))).vmid
  · rw [hj, holdGroup_func_self rfl]
    exact ⟨rfl, rfl, rfl⟩
  · rw [holdGroup_func_ne rfl hj]
    exact ⟨rfl, rfl, rfl⟩

/-- The group has been held at its word by the record `r`, with the replay entry `e` (03, R69, R71; 15, R338, R340): the record joins the
ring of the launch's function and the list of held faults; the word has given no register a value. -/
structure HeldBy (c : Ctx) (t : State) (n : Nat) (r : FaultRec) (e : Replay) : Prop where
  alone   : Alone c t
  machine : t = { c.s with groups := t.groups, funcs := t.funcs, held := t.held, launches := t.launches, serial := n }
  funcs   : ∀ j, j ≠ c.s.vmidFunc c.launch.vmid → t.func j = c.s.func j
  ring    : (t.func (c.s.vmidFunc c.launch.vmid)).fqWait = (c.s.func (c.s.vmidFunc c.launch.vmid)).fqWait ++ [r]
  held    : t.held = c.s.held ++ [{ func := c.s.vmidFunc c.launch.vmid, seq := r.seq, record := r, at_ := .group c.k }]
  wait    : (after c t).wait = .fault r.seq
  replay  : (after c t).replay = some e
  scalars : (after c t).sregs = c.g.sregs
  preds   : (after c t).preds = c.g.preds
  vecs    : ∀ m, m ∉ lastFrees c → (after c t).vregs.find? m = c.g.vregs.find? m

/-- A state in which the word's group may be held: the word has changed nothing but the group's windows, and numbers given out. -/
structure AboutToHold (c : Ctx) (s : State) (n : Nat) (ws : List Window) : Prop where
  machine : s = { c.s with groups := s.groups, serial := n }
  alone   : Alone c s
  group   : s.group c.k = { c.g with windows := ws, replay := none }
  windows : NoneDone ws

theorem AboutToHold.func_eq {c : Ctx} {s : State} {n : Nat} {ws : List Window} (h : AboutToHold c s n ws) (j : Nat) : s.func j = c.s.func j := by
  rw [h.machine]
  rfl

theorem AboutToHold.function {c : Ctx} {s : State} {n : Nat} {ws : List Window} (h : AboutToHold c s n ws) :
    s.vmidFunc (s.launch (s.launchOf (s.group c.k))).vmid = c.s.vmidFunc c.launch.vmid := by
  rw [h.group, h.machine]
  rfl

theorem AboutToHold.tracer {c : Ctx} {s : State} {n : Nat} {ws : List Window} (h : AboutToHold c s n ws) (g : Group) :
    s.tracer g = c.s.tracer g := by
  rw [h.machine]
  exact State.tracer_eq rfl rfl rfl fun _ => ⟨rfl, rfl, rfl⟩

theorem heldBy_settle {c : Ctx} {opc : Nat} {f : Fields} {names : Ctx → List Nat} {own : Ctx → Nat → Bool} {s₀ s : State} {n : Nat}
    {ws : List Window} (h : Calm opc f names s₀ c own) (hs : AboutToHold c s n ws) (r : FaultRec) (e : Replay) :
    HeldBy c (settle c c.s (.next (s.holdGroup c.k r e))) n
      { r with seq := (c.s.func (c.s.vmidFunc c.launch.vmid)).fqSeq + 1 } { e with seq := (c.s.func (c.s.vmidFunc c.launch.vmid)).fqSeq + 1 } := by
  have hfn := hs.function
  have hfunc := hs.func_eq (c.s.vmidFunc c.launch.vmid)
  have hfind := holdGroup_find? hfn r e
  have hring := holdGroup_func_self hfn r e
  have hheld := holdGroup_held hfn r e
  rw [hfunc] at hfind hring hheld
  rw [hs.group] at hfind
  obtain ⟨g, hretired, hwait, hreplay, hsregs, hpreds, hvecs⟩ := retire_held (c := c) (n := c.g.windows.length)
    (G := { c.g with windows := ws, replay := some { e with seq := (c.s.func (c.s.vmidFunc c.launch.vmid)).fqSeq + 1 },
                     wait := .fault ((c.s.func (c.s.vmidFunc c.launch.vmid)).fqSeq + 1) }) h.never hs.windows h.fresh
  have hsettle : settle c c.s (.next (s.holdGroup c.k r e)) = (s.holdGroup c.k r e).setGroup c.k g := by
    rw [settle_untraced hfind h.alive ((holdGroup_tracer s c.k r e c.g).trans ((hs.tracer c.g).trans h.tracer)), hretired]
  rw [hsettle]
  refine ⟨fun j hj => ?_, ?_, fun j hj => (holdGroup_func_ne hfn hj r e).trans (hs.func_eq j), congrArg Func.fqWait hring, ?_, ?_, ?_, ?_, ?_, ?_⟩
  · rw [setGroup_others _ _ _ hj, holdGroup_eq, setGroup_others _ _ _ hj]
    exact hs.alone j hj
  · rw [holdGroup_eq, hs.machine]
    rfl
  · refine hheld.trans ?_
    rw [hs.machine]
  all_goals rw [after_setGroup]
  · exact hwait
  · exact hreplay
  · exact hsregs
  · exact hpreds
  · exact hvecs

theorem aboutToHold_setGroup {c : Ctx} {ws : List Window} (hws : NoneDone ws) (n : Nat) :
    AboutToHold c (State.setGroup { c.s with serial := n } c.k { c.g with windows := ws, replay := none }) n ws :=
  ⟨rfl, fun _ hj => setGroup_others _ _ _ hj, State.setGroup_group_self _ _ _, hws⟩

theorem failedLanesHold : Spec.partFailedLanesHold := by
  intro f s c i opc names own hword h hany hmul fails fn hall
  obtain ⟨hopc, hred, data, hexec⟩ := exec_elements hword
  obtain ⟨rfl, hfind, hg, rfl, rfl⟩ := ctx_group h.ctx
  generalize hxs : (accessLanes c).map (fun l => ({ lane := l, addr := laneAddr c l, data := data c l } : ReplayLane)) = xs
  have hfail : AllFail c.s (c.s.who c.k) (laneForm c.opc c.f) xs := hxs ▸ List.forall_mem_map.2 fun l hl => (hall l hl).2
  have hwalked : ∀ x ∈ xs, c.s.laneWalked (c.s.who c.k) (laneForm c.opc c.f) x.addr = c.s :=
    hxs ▸ List.forall_mem_map.2 fun l hl => (hall l hl).1
  obtain ⟨ws, hws, haccess⟩ := laneAccess_failing hg hopc hred (hxs ▸ hfail) (hxs ▸ hwalked) (accessLanes_ne_nil hany) hmul h.windows
  rw [hxs] at haccess
  have hlanes : xs.map ReplayLane.lane = accessLanes c := by
    rw [← hxs, List.map_map]
    exact List.map_id _
  have hfaults : faultsOf c.s (c.s.who c.k) (laneForm c.opc c.f) xs ≠ [] := fun h0 =>
    accessLanes_ne_nil hany (by rw [← hlanes, ← hfail.lanes, h0, List.map_nil])
  obtain ⟨⟨l, a, x⟩, hy, hworst, hleast⟩ := worstFault_least hfaults
  obtain ⟨z, hz, rfl, rfl, haim⟩ := mem_faultsOf hy
  obtain ⟨l, hl, rfl⟩ := List.mem_map.1 (hxs ▸ hz)
  rw [holdLanes_eq hworst, hfail.lanes, hlanes, State.setGroup_group_self] at haccess
  have hexec := hexec c.s
  rw [issue_calm h h.form rfl, haccess] at hexec
  obtain ⟨halone, hmachine, hothers, hring, hheld, hwait, hreplay, hscalars, hpreds, hvecs⟩ :=
    heldBy_settle h (aboutToHold_setGroup hws (c.s.serial + 1)) _ _
  refine ⟨_, _, _, l, x, hexec, halone, hmachine, hothers, hring, hheld, hl, haim, fun l' x' hl' hx' => ?_, rfl, rfl, rfl, rfl, rfl, rfl, rfl, rfl,
    rfl, rfl, rfl, maskOfLanes_testBit fun _ => lt_of_mem_accessLanes, hwait, hreplay, ?_, rfl, rfl, hscalars, hpreds, hvecs⟩
  · exact hleast _ (faultsOf_mem (x := { lane := l', addr := laneAddr c l', data := data c l' }) (hxs ▸ List.mem_map_of_mem hl') hx')
  · change xs.map _ = _
    rw [← hxs, List.map_map]
    rfl

end

/-- Settles O39: what stops a word by its form stops it in every entry, and lanes that all fail make no access but leave their group held. -/
theorem illegalWordsTrap : Obligations.IllegalWordsTrap := ⟨illegalWordsTrap_form, failedLanesHold⟩

end Sys2Proof.Machine

namespace Sys2Proof.Machine

/-! ## Invalidations from the host (03, R65–R67) -/

section

variable {s : State} {func value : Nat}

/-- The commands that a function may give: KIND 4 is the PF's alone, and a VF names address spaces of its own VMID (03, R67). -/
def OwnTlbi (s : State) (func value : Nat) : Prop :=
  value / 4 % 8 ≤ 4 ∧ (func = 0 ∨ value / 4 % 8 = 0 ∨ value / 4 % 8 = 3 ∨
    (value / 4 % 8 < 3 ∧ s.funcVmid func = some (s.space (value / 2 ^ 36 % 2 ^ 14)).vmid))

theorem tlbiRefused_eq_false_iff : tlbiRefused s func value = false ↔ OwnTlbi s func value := by
  have hkind : bitsOf value 4 2 = value / 4 % 8 := bitsOf_eq value 4 2
  have hasid : bitsOf value 49 36 = value / 2 ^ 36 % 2 ^ 14 := bitsOf_eq value 49 36
  unfold tlbiRefused OwnTlbi
  rw [hkind, hasid]
  generalize (s.space (value / 2 ^ 36 % 2 ^ 14)).vmid = v
  generalize value / 4 % 8 = kind
  by_cases hv : s.funcVmid func = some v
  · simp [hv]
    omega
  · simp [hv]
    omega

/-- The invalidation that a command asks for. -/
def commanded (s : State) (func value : Nat) : Tlbi :=
  { kind := value / 4 % 8, asid := value / 2 ^ 36 % 2 ^ 14,
    vmid := if func = 0 then value / 2 ^ 28 % 2 ^ 8 else (s.funcVmid func).getD 256, addr := (s.func func).tlbiAddr,
    count := value / 2 ^ 12 % 2 ^ 16 }

theorem funcTlbi_setFunc :
    funcTlbi (s.setFunc func { tlbiFields (s.func func) value with tlbiGo := true }) func = commanded s func value := by
  have hkind : bitsOf value 4 2 = value / 4 % 8 := bitsOf_eq value 4 2
  have hasid : bitsOf value 49 36 = value / 2 ^ 36 % 2 ^ 14 := bitsOf_eq value 49 36
  have hvmid : bitsOf value 35 28 = value / 2 ^ 28 % 2 ^ 8 := bitsOf_eq value 35 28
  have hcount : bitsOf value 27 12 = value / 2 ^ 12 % 2 ^ 16 := bitsOf_eq value 27 12
  unfold funcTlbi commanded
  rw [State.setFunc_func_self, ← hkind, ← hasid, ← hvmid, ← hcount]
  rfl

/-- A command of a function's own starts: GO is set, and what it covers is dropped. -/
theorem tlbiStart_own (hans : s.answers func = true) (hgo : (s.func func).tlbiGo = false) (hbit : value.testBit 0 = true)
    (hown : OwnTlbi s func value) : tlbiStart s func value (value / 4 % 8) =
      (s.setFunc func { tlbiFields (s.func func) value with tlbiGo := true }).dropTlb (commanded s func value) := by
  have hkind : bitsOf value 4 2 = value / 4 % 8 := bitsOf_eq value 4 2
  unfold tlbiStart
  dsimp only
  rw [funcTlbi_setFunc, hans, hgo, bitOf_eq_testBit, hbit, tlbiRefused_eq_false_iff.2 hown, hkind]
  simp

theorem exec_tlbiCmdRefused (hans : s.answers func = true) (hgo : (s.func func).tlbiGo = false) (hbit : value.testBit 0 = true)
    (hown : ¬OwnTlbi s func value) : exec (.tlbiCmdRefused func value) s =
      .next (s.setFunc func { tlbiFields (s.func func) value with tlbiErr := true }) := by
  have hrefused : tlbiRefused s func value = true := by
    rw [← Bool.not_eq_false, tlbiRefused_eq_false_iff]
    exact hown
  change execTlbiCmdRefused func value s = _
  rw [execTlbiCmdRefused, hans, hgo, bitOf_eq_testBit, hbit, hrefused]
  simp

/-- What a dropped translation leaves of a cache. -/
theorem mem_filter_not_covers {x : Tlbi} {drops : TlbEntry → Prop} (h : ∀ e, x.covers e = true ↔ drops e) (es : List TlbEntry) (e : TlbEntry) :
    e ∈ es.filter (fun e => !x.covers e) ↔ e ∈ es ∧ ¬drops e := by
  rw [List.mem_filter, Bool.not_eq_true', ← Bool.not_eq_true, h]

/-- A command of a function's own, whatever its KIND. -/
theorem exec_tlbiCmd {cmd : Instr} {drops : TlbEntry → Prop} (hans : s.answers func = true) (hgo : (s.func func).tlbiGo = false)
    (hbit : value.testBit 0 = true) (hown : OwnTlbi s func value) (hexec : exec cmd s = .next (tlbiStart s func value (value / 4 % 8)))
    (hdrops : ∀ e, (commanded s func value).covers e = true ↔ drops e) : ∃ t, exec cmd s = .next t ∧ (t.func func).tlbiGo = true ∧
      t = { s with funcs := t.funcs, cores := t.cores, ctlb := t.ctlb, walkers := t.walkers } ∧
      (∀ c e, e ∈ (t.core c).tlb ↔ e ∈ (s.core c).tlb ∧ ¬drops e) ∧ ∀ c e, e ∈ t.ctlb.getD c [] ↔ e ∈ s.ctlb.getD c [] ∧ ¬drops e := by
  rw [hexec, tlbiStart_own hans hgo hbit hown]
  refine ⟨_, rfl, ?_, rfl, fun c e => ?_, fun c e => ?_⟩
  · exact congrArg Func.tlbiGo (State.setFunc_func_self s func _)
  · rw [core_dropTlb]
    exact mem_filter_not_covers hdrops _ _
  · rw [ctlb_dropTlb]
    exact mem_filter_not_covers hdrops _ _

theorem overlaps_iff (x : Tlbi) (a n : Nat) : x.overlaps a n = true ↔
    a < (x.addr / 65536 + if x.count = 0 then 65536 else x.count) * 65536 ∧ x.addr / 65536 * 65536 < a + n := by
  simp [Tlbi.overlaps]

theorem exec_tlbiComplete (hgo : (s.func func).tlbiGo = true) (hlocked : s.lockedPages (funcTlbi s func) = false)
    (hpeers : s.peersLeft (funcTlbi s func) = false) : ∃ t, exec (.tlbiComplete func) s = .next t ∧ (t.func func).tlbiGo = false ∧
      t = { s with funcs := t.funcs, cores := t.cores, ctlb := t.ctlb, walkers := t.walkers } := by
  have hready : ¬(!(s.func func).tlbiGo || s.lockedPages (funcTlbi s func) || s.peersLeft (funcTlbi s func)) = true := by
    simp [hgo, hlocked, hpeers]
  change ∃ t, execTlbiComplete func s = .next t ∧ _
  unfold execTlbiComplete
  dsimp only
  rw [if_neg hready]
  refine ⟨_, rfl, ?_, rfl⟩
  rw [func_tlbiDone, State.setFunc_func_self]

/-! ## The result of a walk (03, R65) -/

/-- A walk gives an entry of the page walked, in the address space walked. -/
theorem walkBoth_ok {core asid va : Nat} {e : TlbEntry} (h : s.walkBoth core asid va = .ok e) :
    e.asid = asid ∧ e.vmid = (s.space asid).vmid ∧ e.page = va / 2 ^ e.shift := by
  unfold State.walkBoth at h
  dsimp only at h
  split at h
  · cases h
  · split at h
    · cases h
    · split at h
      · cases h
      · split at h
        · cases h
        · cases h
          exact ⟨rfl, rfl, rfl⟩

/-- The newest entry of a core's TLB is found, where it is of the page and the address space. -/
theorem cached_of_head {core asid va : Nat} {e : TlbEntry} {es : List TlbEntry} (htlb : (s.core core).tlb = e :: es) (hasid : e.asid = asid)
    (hvmid : e.vmid = (s.space asid).vmid) (hpage : e.page = va / 2 ^ e.shift) : s.cached core asid va = some e := by
  have hhit : (e.asid == asid && e.vmid == (s.space asid).vmid && e.page == va / 2 ^ e.shift) = true := by
    simp [hasid, hvmid, hpage]
  unfold State.cached
  dsimp only
  rw [htlb, List.find?_cons_of_pos (p := fun e : TlbEntry => e.asid == asid && e.vmid == (s.space asid).vmid && e.page == va / 2 ^ e.shift) hhit]

theorem exec_walkComplete {core asid page : Nat} {e : TlbEntry} {r : State} (hr : s.touchAll (s.walkReads core asid (page * 65536)) = r)
    (hwalk : r.walkBoth core asid (page * 65536) = .ok e) : ∃ t, exec (.walkComplete core asid page) s = .next t ∧
      t = { r with cores := t.cores, ctlb := t.ctlb, walkers := t.walkers } ∧ t.cached core asid (page * 65536) = some e ∧
      (t.core core).tlb.length ≤ 64 ∧ (t.core core).l1 = (r.core core).l1 ∧ ∀ c, c ≠ core → t.core c = r.core c := by
  obtain ⟨hasid, hvmid, hpage⟩ := walkBoth_ok hwalk
  change ∃ t, execWalkComplete core asid page s = .next t ∧ _
  unfold execWalkComplete
  dsimp only
  rw [hr, hwalk]
  dsimp only
  generalize hk : ({ r.core core with tlb := _ } : Core) = k
  have hcore : ∀ ctlb walkers, State.core { r.setCore core k with ctlb := ctlb, walkers := walkers } core = k := fun _ _ =>
    r.setCore_core_self core k
  refine ⟨_, rfl, rfl, cached_of_head (es := k.tlb.tail) ?_ hasid hvmid hpage, ?_, ?_, fun c hc => r.setCore_core_ne _ hc⟩
  · rw [hcore, ← hk]
    rfl
  · rw [hcore, ← hk]
    exact List.length_take_le _ _
  · rw [hcore, ← hk]

end

theorem invalidations : Spec.partInvalidations := by
  intro s func value
  refine ⟨fun hans hgo hbit => ⟨fun hown => ?_, fun hown => ?_⟩, exec_tlbiComplete, fun core asid page e hwalk => exec_walkComplete rfl hwalk⟩
  · obtain hk | hk | hk | hk | hk : value / 4 % 8 = 0 ∨ value / 4 % 8 = 1 ∨ value / 4 % 8 = 2 ∨ value / 4 % 8 = 3 ∨ value / 4 % 8 = 4 := by
      have := hown.1
      omega
    all_goals
      simp only [hk]
      exact exec_tlbiCmd hans hgo hbit hown (by rw [hk]; rfl) fun e => by simp [Tlbi.covers, overlaps_iff, commanded, hk]
  · rw [exec_tlbiCmdRefused hans hgo hbit hown]
    refine ⟨_, rfl, rfl, ?_, ?_⟩
    · rw [State.setFunc_func_self]
    · rw [State.setFunc_func_self]
      exact hgo

end Sys2Proof.Machine

namespace Sys2Proof.Machine

/-! ## The fault ring (03, R68, R69, R72) -/

section

variable {s : State} {func : Nat}

theorem exec_fqBaseWrite (hans : s.answers func = true) (value : Nat) :
    exec (.fqBaseWrite func value) s = .next (s.setFunc func { s.func func with fqBase := value / 4096 * 4096, fqBlocked := false }) := by
  change execFqBaseWrite func value s = _
  simp [execFqBaseWrite, hans]

theorem exec_fqConsWrite (hans : s.answers func = true) (value : Nat) :
    exec (.fqConsWrite func value) s = .next (s.setFunc func { s.func func with fqCons := value % 2 ^ 32, fqBlocked := false }) := by
  have hcons : bitsOf value 31 0 = value % 2 ^ 32 := by simp [bitsOf_eq]
  change execFqConsWrite func value s = _
  simp [execFqConsWrite, hans, hcons]

theorem exec_fqCtlWrite (hans : s.answers func = true) (value : Nat) :
    exec (.fqCtlWrite func value) s = .next (s.setFunc func { s.func func with
      fqSize := max 6 (min 15 (value / 4096 % 16)), fqAckErr := (s.func func).fqAckErr && !value.testBit 2,
      fqFull := (s.func func).fqFull && !value.testBit 1, fqEnable := value.testBit 0,
      fqProd := if value.testBit 0 then 0 else (s.func func).fqProd, fqBlocked := false }) := by
  have hsize : bitsOf value 15 12 = value / 4096 % 16 := bitsOf_eq value 15 12
  change execFqCtlWrite func value s = _
  simp only [execFqCtlWrite, hans, hsize, bitOf_eq_testBit, clamp, Bool.not_true, Bool.false_eq_true, if_false]

/-- Writing the oldest record: the ring may be full, its page or the log may make it wait, or the record goes in (03, R69, R72). -/
theorem execFaultRecordWrite_eq {r : FaultRec} {rest : List FaultRec} (hwait : (s.func func).fqWait = r :: rest)
    (hon : (s.func func).fqEnable = true) (hfree : (s.func func).fqBlocked = false) :
    exec (.faultRecordWrite func) s = .next (
      let f := s.func func
      let slot := f.fqBase + 64 * (f.fqProd % 2 ^ f.fqSize)
      if (f.fqProd + 2 ^ 32 - f.fqCons) % 2 ^ 32 = 2 ^ f.fqSize then s.setFunc func { f with fqFull := true }
      else if s.ringWaits func (fun i => slot + i) 64 then s.setFunc func { f with logFull := true }
      else match s.ringWrite func (fun i => slot + i) (toBytes 64 (r.bits (1 - f.fqProd / 2 ^ f.fqSize % 2))) with
      | none => s.setFunc func { f with fqBlocked := true }
      | some t =>
        match t.logReleased func with
        | none => s.closeLog func
        | some t =>
          let t := t.setFunc func { t.func func with fqWait := rest, fqProd := (f.fqProd + 1) % 2 ^ 32 }
          { t with out := t.out ++ [.msix func 0] }) := by
  have hgo : ¬(!(s.func func).fqEnable || (s.func func).fqBlocked) = true := by simp [hon, hfree]
  change execFaultRecordWrite func s = _
  unfold execFaultRecordWrite
  dsimp only
  split
  · next hnone => simp [hwait] at hnone
  · next hsome =>
    cases hwait.symm.trans hsome
    rw [if_neg hgo]
    rfl

end

theorem faultRing : Spec.partFaultRing := by
  intro s func value
  refine ⟨fun hans => ⟨exec_fqBaseWrite hans value, exec_fqConsWrite hans value, _, exec_fqCtlWrite hans value, ?_,
    State.setFunc_func_self _ _ _⟩, fun r rest hwait hon hfree => ?_⟩
  · rw [State.setFunc_func_self]
  · rw [execFaultRecordWrite_eq hwait hon hfree]
    refine ⟨fun hfull => by rw [if_pos hfull], fun hroom => ⟨fun hlog => ?_, fun hlog => ⟨fun hmade => ?_, fun u v hmade hlogged => ?_⟩⟩⟩
    · rw [if_neg hroom, if_pos hlog]
    · rw [if_neg hroom, hlog, if_neg Bool.false_ne_true, hmade]
    · rw [if_neg hroom, hlog, if_neg Bool.false_ne_true, hmade]
      dsimp only
      rw [hlogged]
      exact ⟨_, rfl, rfl, State.setFunc_func_self _ _ _, fun j hj => State.setFunc_func_ne _ _ hj⟩

end Sys2Proof.Machine

namespace Sys2Proof.Machine

/-! ## What a write that reaches its home leaves of groups and launches

Groups only wake, and a launch only goes from waiting for its counters to being eligible. -/

/-- The launch waits for its counters or has been found eligible: the stages between which a counter moves a launch (02, R45). -/
def Stage.counting (x : Stage) : Prop := x = .waiting ∨ x = .eligible

/-- From `s` to `t` no lane has exited, and no launch has changed but one that waited for a counter. -/
structure Spares (s t : State) : Prop where
  exited  : ∀ k, (t.group k).exited = (s.group k).exited
  settled : ∀ l, (s.launch l).stage ≠ .waiting → t.launch l = s.launch l
  listed  : ∀ p ∈ t.launches, ¬p.2.stage.counting → p ∈ s.launches

namespace Spares

variable {s t u : State}

/-- Where the tables of groups and launches are as before, nothing is to be shown. -/
theorem of_tables (hg : t.groups = s.groups) (hl : t.launches = s.launches) : Spares s t :=
  ⟨fun k => by rw [State.group, hg, State.group], fun l _ => by rw [State.launch, hl, State.launch], fun p hp _ => hl ▸ hp⟩

theorem refl (s : State) : Spares s s := of_tables rfl rfl

theorem trans (h₁ : Spares s t) (h₂ : Spares t u) : Spares s u where
  exited k := (h₂.exited k).trans (h₁.exited k)
  settled l hl := (h₂.settled l (by rwa [h₁.settled l hl])).trans (h₁.settled l hl)
  listed p hp hc := h₁.listed p (h₂.listed p hp hc) hc

theorem foldl {α : Type} {f : State → α → State} (hf : ∀ s x, Spares s (f s x)) (xs : List α) (s : State) : Spares s (xs.foldl f s) := by
  induction xs generalizing s with
  | nil => exact refl s
  | cons x xs ih => exact (hf s x).trans (ih _)

/-- A launch that waited for its counters may take other ones, and become eligible. -/
theorem setLaunch (h : Spares s t) {l : Nat} {x : Launch} (hl : (s.launch l).stage = .waiting) (hx : x.stage.counting) :
    Spares s (t.setLaunch l x) where
  exited := h.exited
  settled j hj := (State.setLaunch_launch_ne t x fun hjl : j = l => hj (hjl ▸ hl)).trans (h.settled j hj)
  listed p hp hc := h.listed p ((Tbl.mem_set hp).resolve_right fun hpx => hc (hpx ▸ hx)) hc

end Spares

namespace State

theorem spares_wakeSleepers (s : State) (cells : List Host.Cell) : Spares s (s.wakeSleepers cells) := by
  refine ⟨fun k => ?_, fun _ _ => rfl, fun _ hp _ => hp⟩
  unfold wakeSleepers group
  dsimp only
  rw [Tbl.getD_mapVals _ _ _ (by rfl)]
  split
  · split <;> rfl
  · rfl

theorem spares_setFunc (s : State) (fn : Nat) (f : Func) : Spares s (s.setFunc fn f) := .of_tables rfl rfl

theorem spares_setCore (s : State) (c : Nat) (k : Core) : Spares s (s.setCore c k) := .of_tables rfl rfl

theorem spares_readLine (s : State) (line : Nat) : Spares s (s.readLine line) := by
  unfold readLine
  dsimp only
  split
  · exact .refl s
  · exact .of_tables rfl rfl

theorem spares_send (s : State) (pa : Nat) (req : BdReq) (bad : List Nat) : Spares s (s.send pa req bad) := .of_tables rfl rfl

theorem spares_strikeWindows (s : State) (owner : Option Nat) (cells : List Host.Cell) : Spares s (s.strikeWindows owner cells) :=
  .of_tables rfl rfl

theorem spares_sendInvals (s : State) (from_ : Option Nat) (cells : List Host.Cell) : Spares s (s.sendInvals from_ cells) := .of_tables rfl rfl

theorem spares_healLine (s : State) (cells : List Host.Cell) (bad : List Nat) : Spares s (s.healLine cells bad) := by
  rw [healLine_eq]
  exact .of_tables rfl rfl

theorem spares_homeLand (s : State) (from_ owner : Option Nat) (cells : List Host.Cell) (bad : List Nat) :
    Spares s (s.homeLand from_ owner cells bad) := by
  unfold homeLand
  split
  · exact .refl s
  · exact (((spares_send _ _ _ _).trans (spares_healLine _ _ _)).trans (spares_strikeWindows _ _ _)).trans
      ((spares_sendInvals _ _ _).trans (spares_wakeSleepers _ _))

theorem spares_noteBlocks (fuel : Nat) (s : State) (fn ipa n : Nat) : Spares s (noteBlocks fuel s fn ipa n) := by
  induction fuel generalizing s ipa n with
  | zero => exact .refl s
  | succ fuel ih =>
    have hblock (m : Nat) : Spares s (s.noteBlock fn ipa m) := by
      unfold noteBlock
      dsimp only
      split
      · exact spares_setFunc _ _ _
      · split <;> exact spares_setFunc _ _ _
    unfold noteBlocks
    split
    · exact .refl s
    · exact (hblock _).trans (ih _ _ _)

theorem spares_noteCore (s : State) (c line : Nat) (cells : List Host.Cell) : Spares s (s.noteCore c line cells) := by
  unfold noteCore
  split
  · exact spares_noteBlocks _ _ _ _ _
  · exact .refl s

theorem spares_registerNarrow (s : State) (c line : Nat) : Spares s (s.registerNarrow c line) := by
  unfold registerNarrow
  dsimp only
  split
  · exact .refl s
  · exact spares_setCore _ _ _

theorem spares_flushLand (s : State) (c : Nat) (p : Nat → Bool) : Spares s (s.flushLand c p) := by
  unfold flushLand
  dsimp only
  split
  · exact .refl s
  · refine (spares_setCore s c _).trans (.foldl (fun s l => ?_) _ _)
    exact (spares_noteCore _ _ _ _).trans (spares_homeLand _ _ _ _ _)

theorem spares_wordLand (s : State) (line : SiltLine) (i : Nat) (x : Word) : Spares s (s.wordLand line i x) :=
  ((spares_send _ _ _ _).trans (spares_strikeWindows _ _ _)).trans ((spares_sendInvals _ _ _).trans (spares_wakeSleepers _ _))

theorem spares_siltLand (s : State) (c : Nat) (p : SiltLine → Bool) : Spares s (s.siltLand c p) := by
  unfold siltLand
  dsimp only
  split
  · exact .refl s
  · refine (spares_setCore s c _).trans (.foldl (fun s l => ?_) _ _)
    refine Spares.trans ?_ (spares_registerNarrow _ _ _)
    refine (spares_flushLand _ _ _).trans (.foldl (fun s w => ?_) _ _)
    exact (spares_noteCore _ _ _ _).trans (spares_wordLand _ _ _ _)

theorem spares_publishLand (s : State) (c : Nat) : Spares s (s.publishLand c) :=
  (spares_flushLand _ _ _).trans (spares_setCore _ _ _)

theorem spares_lineLand (s : State) (line : Nat) : Spares s (s.lineLand line) := by
  unfold lineLand
  dsimp only
  split
  · exact .refl s
  · exact (Spares.foldl spares_publishLand _ _).trans (.foldl (fun _ _ => spares_siltLand _ _ _) _ _)

theorem spares_counterMet (s : State) (lines : List Nat) (got : Bool) (place : Option Nat) (value : Nat) :
    Spares s (s.counterMet lines got place value).1 := by
  unfold counterMet
  split
  · exact .refl s
  · split
    · exact .refl s
    · exact (spares_lineLand _ _).trans (spares_readLine _ _)

theorem spares_noteCounters (s : State) (lines : List Nat) : Spares s (s.noteCounters lines) := by
  unfold noteCounters
  split
  · exact .refl s
  · refine .foldl (fun s k => ?_) _ _
    dsimp only
    split
    · exact .refl s
    · next hwaits =>
      have hk : (s.launch k).stage = .waiting := by simpa using hwaits
      have hmet := (spares_counterMet s lines (s.launch k).got0 (s.launch k).place0 (s.launch k).record.wait0V).trans
        (spares_counterMet _ lines (s.launch k).got1 (s.launch k).place1 (s.launch k).record.wait1V)
      refine hmet.setLaunch hk ?_
      dsimp only
      split
      · exact .inr rfl
      · exact .inl rfl

theorem spares_homeWrites (s : State) (from_ owner : Option Nat) (cells : List Host.Cell) : Spares s (s.homeWrites from_ owner cells) :=
  .foldl (fun _ _ => (spares_homeLand _ _ _ _ _).trans (spares_noteCounters _ _)) _ _

theorem spares_mergeLine (s : State) (line : Nat) : Spares s (s.mergeLine line) := by
  unfold mergeLine
  split
  · exact (spares_lineLand _ _).trans (spares_noteCounters _ _)
  · exact .refl s

theorem spares_touchAll (s : State) (as : List Nat) : Spares s (s.touchAll as) :=
  .foldl (fun _ _ => (spares_mergeLine _ _).trans (spares_readLine _ _)) _ _

theorem spares_ringWalked (s : State) (fn : Nat) (at_ : Nat → Nat) (n : Nat) : Spares s (s.ringWalked fn at_ n) := by
  refine .foldl (fun s i => ?_) _ _
  unfold walkedFunc
  split
  · exact .refl s
  · exact spares_touchAll _ _

theorem spares_ringWrite {s t : State} {fn : Nat} {at_ : Nat → Nat} {bs : List Byte} (h : s.ringWrite fn at_ bs = some t) : Spares s t := by
  unfold ringWrite at h
  dsimp only at h
  split at h
  · cases h
  · cases h
    refine (spares_ringWalked _ _ _ _).trans (Spares.trans (.foldl (fun s c => ?_) _ _) (spares_homeWrites _ _ _ _))
    split
    · exact spares_noteBlocks _ _ _ _ _
    · exact .refl s

theorem spares_traceBytes {s t : State} {fn : Nat} {bs : List Byte} (h : s.traceBytes fn bs = some t) : Spares s t := by
  unfold traceBytes at h
  dsimp only at h
  split at h
  · cases h
  · obtain ⟨u, hu, rfl⟩ := Option.map_eq_some_iff.mp h
    exact (spares_ringWrite hu).trans (spares_setFunc _ _ _)

theorem spares_emit (s : State) (g after : Group) (r : List Byte) : Spares s (s.emit g after r) := by
  unfold emit
  split
  · exact .refl s
  · next fn _ =>
    extract_lets f lost since bs
    have hlost : Spares s lost := spares_setFunc _ _ _
    clear_value lost bs
    split
    · exact hlost
    · split
      · exact hlost
      · next h => exact (spares_traceBytes h).trans (spares_setFunc _ _ _)

/-- Records of the masks leave groups and launches, and the rest of the machine. -/
theorem spares_traceMasks (s : State) (before after : Group) : Spares s (s.traceMasks before after) := by
  refine .foldl (fun s x => ?_) _ _
  split
  · exact spares_emit _ _ _ _
  · exact .refl s

theorem keepsRest_traceMasks (s : State) (before after : Group) : KeepsRest s (s.traceMasks before after) := by
  refine .foldl (fun s x => ?_) _ _
  split
  · exact keepsRest_emit _ _ _ _
  · exact .refl s

end State
end Sys2Proof.Machine

namespace Sys2Proof.Machine

/-! ## The end of a launch (15, R335) -/

theorem KeepsRest.held {s t : State} (h : KeepsRest s t) : t.held = s.held := by
  have := congrArg State.held h.1
  exact this

section

variable {s : State} {l : Nat}

/-- A launch that ends: its groups stop with every lane exited, its held faults are dropped and its stage is its end; the records of a traced
group's masks leave all of that. -/
theorem endLaunch_spares (h : (s.launch l).ended = false) (status : Nat) : ∃ (t : State) (x : Launch), Spares t (s.endLaunch l status) ∧
    KeepsRest t (s.endLaunch l status) ∧ t.mem = s.mem ∧ t.held = s.held.filter (fun h => s.heldLaunch h != some l) ∧
    t.launches = s.launches.set l x ∧ x.stage = .finishing status ∧
    ∀ k, s.launchOf (s.group k) = l → t.group k = (s.group k).cut := by
  unfold State.endLaunch
  dsimp only
  rw [if_neg (by simp [h])]
  refine ⟨_, _, .foldl (fun _ _ => State.spares_traceMasks _ _ _) _ _, .foldl (fun _ _ => State.keepsRest_traceMasks _ _ _) _ _, rfl, rfl, rfl, rfl,
    fun k hk => ?_⟩
  rw [State.group, Tbl.getD_mapVals _ _ _ (by split <;> rfl), if_pos (by simp [hk])]
  rfl

/-- The checks of heads change launches alone. -/
theorem checkHeads_frame (fuel : Nat) (s : State) (q : Nat) : checkHeads fuel s q = { s with launches := (checkHeads fuel s q).launches } := by
  induction fuel generalizing s with
  | zero => rfl
  | succ fuel ih =>
    unfold checkHeads
    split
    · split
      · split
        · rfl
        · exact ih _
      · rfl
    · rfl

/-- The launch of a held fault ends. -/
theorem endHeld_ends (hnd : (s.launches.map Prod.fst).Nodup) (hstage : (s.launch l).stage = .admitted) :
    (endHeld s l).mem = s.mem ∧ ((endHeld s l).launch l).stage = .finishing 2 ∧
      (∀ k, s.launchOf (s.group k) = l → ((endHeld s l).group k).exited = (s.group k).allLanes) ∧
      ∀ h ∈ (endHeld s l).held, s.heldLaunch h ≠ some l := by
  obtain ⟨t, x, hspares, hrest, hmem, hheld, hlaunches, hx, hgroups⟩ := endLaunch_spares (s := s) (l := l) (by simp [Launch.ended, hstage]) 2
  have hset : t.launch l = x := by rw [State.launch, hlaunches, Tbl.getD_set_self]
  have hend : (s.endLaunch l 2).launch l = x := by rw [hspares.settled l (by simp [hset, hx]), hset]
  have htaken : ∀ y reserved, (l, y) ∈ (s.endLaunch l 2).launches → y.stage ≠ .taken reserved := by
    intro y reserved hy hst
    have hmem := hspares.listed (l, y) hy (by simp [Stage.counting, hst])
    rw [hlaunches] at hmem
    rcases Tbl.mem_set hmem with hold | hnew
    · have hlisted : s.launch l = y := by rw [State.launch, Tbl.getD, Tbl.find?_of_mem hnd hold]; rfl
      rw [hlisted, hst] at hstage
      cases hstage
    · cases hnew
      rw [hst] at hx
      cases hx
  have hnext : endHeld s l = checkHeads (s.endLaunch l 2).launches.length (s.endLaunch l 2) (s.launch l).queue := rfl
  refine ⟨?_, ?_, fun k hk => ?_, fun h hh => ?_⟩
  · rw [hnext, checkHeads_frame]
    exact hrest.mem.trans hmem
  · rw [hnext, checkHeads_launch _ _ htaken, hend, hx]
  · rw [hnext, checkHeads_frame]
    refine (hspares.exited k).trans ?_
    rw [hgroups k hk]
    rfl
  · rw [hnext, checkHeads_frame] at hh
    have hh : h ∈ (s.endLaunch l 2).held := hh
    rw [hrest.held, hheld, List.mem_filter, bne_iff_ne] at hh
    exact hh.2

end

/-! ## Acknowledgements (03, R73) -/

section

variable {s : State} {func seq k : Nat} {h : Held}

/-- The held faults but the one that an acknowledgement has named. -/
def State.unheld (s : State) (func seq : Nat) : State := { s with held := s.held.filter fun x => !(x.func == func && x.seq == seq) }

/-- An acknowledgement of a group's fault acts at once where the group is resident. -/
theorem acknowledge_group (hans : s.answers func = true) (hp : pendingFault s func seq = some h) (hat : h.at_ = .group k)
    (hres : (s.team (s.group k).team).resident = true) (action : Nat) :
    acknowledge s func seq action = actOn (s.unheld func h.seq) h action := by
  have hhere : heldEvicted s h = false := by simp [heldEvicted, hat, hres]
  unfold acknowledge
  rw [hans, hp]
  dsimp only
  rw [hhere]
  rfl

theorem ackRetry_group (hat : h.at_ = .group k) :
    ackRetry s h = s.setGroup k { s.group k with wait := .none, replay := (s.group k).replay.bind (·.again) } := by
  rw [ackRetry, hat]

/-- A replay entry is made again where it names a word. -/
theorem bind_again_eq_some {x : Option Replay} {r : Replay} : x.bind (·.again) = some r ↔ x = some r ∧ r.opc ≠ 0 := by
  cases x with
  | none => simp
  | some y =>
    by_cases hy : y.opc = 0
    · simp only [Option.bind_some, Replay.again, hy, if_true, Option.some.injEq, reduceCtorEq, false_iff, not_and, not_not]
      rintro rfl
      exact hy
    · simp only [Option.bind_some, Replay.again, hy, if_false, Option.some.injEq, iff_self_and]
      rintro rfl
      exact hy

theorem exec_fqAckRetry (hans : s.answers func = true) (hp : pendingFault s func seq = some h) (hat : h.at_ = .group k)
    (hres : (s.team (s.group k).team).resident = true) : exec (.fqAckRetry func seq) s = .next ((s.unheld func h.seq).setGroup k
      { s.group k with wait := .none, replay := (s.group k).replay.bind (·.again) }) := by
  change Host.Outcome.next (acknowledge s func seq 0) = _
  rw [acknowledge_group hans hp hat hres, actOn, ackRetry_group hat]
  rfl

theorem exec_fqAckEnd (hans : s.answers func = true) (hp : pendingFault s func seq = some h) (hat : h.at_ = .group k)
    (hres : (s.team (s.group k).team).resident = true) :
    exec (.fqAckEnd func seq) s = .next (endHeld (s.unheld func h.seq) (s.launchOf (s.group k))) := by
  change Host.Outcome.next (acknowledge s func seq 2) = _
  rw [acknowledge_group hans hp hat hres, actOn, ackEnd, hat]
  · simp only [State.heldLaunch, hat]
    rfl
  all_goals exact fun h => by cases h

/-! ## Traps that are entered (15, R334–R336) -/

/-- Whether a group may enter its handler does not go by the other groups, the cores' own state or the faults held. -/
theorem MayEnter.transfer {g g' : Group} (h : MayEnter s g) (gs : Tbl Group) (cs : Tbl Core) (hs : List Held) (hteam : g'.team = g.team)
    (hgrpid : g'.grpid = g.grpid) (hcore : g'.core = g.core) (hinh : g'.inh = g.inh) (hwindows : g'.windows = g.windows) :
    MayEnter { s with groups := gs, cores := cs, held := hs } g' := by
  obtain ⟨hhandler, houtside, hsettled, huntraced, hclock, hresident⟩ := h
  have htracer : State.tracer { s with groups := gs, cores := cs, held := hs } g' = s.tracer g := by
    simp only [State.tracer, hteam, hgrpid]
    rfl
  refine ⟨?_, hinh.trans houtside, ?_, htracer.trans huntraced, ?_, ?_⟩
  · rw [State.launchOf, hteam]
    exact hhandler
  · rw [Group.outstanding, hwindows]
    exact hsettled
  · rw [hcore]
    exact hclock
  · rw [hteam]
    exact hresident

/-- A group that has changed only in what its handler saves takes a trap: the machine is otherwise as it was. -/
theorem takeTrap_changed {g' : Group} (h : MayEnter s (s.group k)) (cs : Tbl Core) (hs : List Held) (hteam : g'.team = (s.group k).team)
    (hgrpid : g'.grpid = (s.group k).grpid) (hcore : g'.core = (s.group k).core) (hinh : g'.inh = (s.group k).inh)
    (hwindows : g'.windows = (s.group k).windows) (i : TrapInfo) :
    (State.setGroup { s with cores := cs, held := hs } k g').takeTrap k i = State.setGroup { s with cores := cs, held := hs } k
      (g'.enter (s.launch (s.launchOf (s.group k))).record.handler i) := by
  have hgroup : (State.setGroup { s with cores := cs, held := hs } k g').group k = g' := State.setGroup_group_self _ _ _
  have hmay : MayEnter (State.setGroup { s with cores := cs, held := hs } k g') g' := h.transfer _ cs hs hteam hgrpid hcore hinh hwindows
  have hhandler : ((State.setGroup { s with cores := cs, held := hs } k g').launch
      (State.launchOf (State.setGroup { s with cores := cs, held := hs } k g') g')).record.handler =
      (s.launch (s.launchOf (s.group k))).record.handler := by
    rw [State.launchOf, hteam]
    rfl
  rw [takeTrap_enter (hgroup.symm ▸ hmay), hgroup, setGroup_setGroup, hhandler]

theorem inHandler_enter (g : Group) (handler : Word) (i : TrapInfo) : Spec.InHandler g (g.enter handler i) handler i :=
  ⟨rfl, rfl, rfl, rfl, rfl, rfl⟩

theorem ackTrap_group (hat : h.at_ = .group k) : ackTrap s h =
    ((s.setCore (s.group k).core { s.core (s.group k).core with
        mq := (s.core (s.group k).core).mq.filter fun e => e.multiplying || e.opc == 0x188 || e.group != k }).setGroup k
      { s.group k with wait := .none }).takeTrap k (faultTrap h (((s.group k).replay.map (·.slotB)).getD false)) := by
  rw [ackTrap, hat]

theorem exec_fqAckTrap (hans : s.answers func = true) (hp : pendingFault s func seq = some h) (hat : h.at_ = .group k)
    (hmay : MayEnter s (s.group k)) : ∃ cs, exec (.fqAckTrap func seq) s =
      .next (State.setGroup { s with cores := cs, held := s.held.filter fun x => !(x.func == func && x.seq == h.seq) } k
        (({ s.group k with wait := .none } : Group).enter (s.launch (s.launchOf (s.group k))).record.handler
          (faultTrap h (((s.group k).replay.map (·.slotB)).getD false)))) := by
  change ∃ cs, Host.Outcome.next (acknowledge s func seq 1) = _
  rw [acknowledge_group hans hp hat hmay.resident, actOn, ackTrap_group hat]
  exact ⟨_, congrArg _ (takeTrap_changed (g' := { s.group k with wait := .none }) hmay _ _ rfl rfl rfl rfl rfl _)⟩

theorem exec_trapEntry {g : Group} {x : TrapInfo} (hfind : s.groups.find? k = some g) (hg : s.group k = g) (hx : g.trap = some x)
    (hmay : MayEnter s g) : exec (.trapEntry k) s =
      .next (s.setGroup k (({ g with trap := none } : Group).enter (s.launch (s.launchOf g)).record.handler x)) := by
  have hready : ¬(g.outstanding || !(s.team g.team).resident || !s.clockRuns g.core) = true := by
    simp [hmay.settled, hmay.resident, hmay.clock]
  subst hg
  change execTrapEntry k s = _
  unfold execTrapEntry
  rw [hfind]
  dsimp only
  rw [hx]
  dsimp only
  rw [if_neg hready]
  exact congrArg _ (takeTrap_changed (g' := { s.group k with trap := none }) hmay s.cores s.held rfl rfl rfl rfl rfl x)

/-- The oldest asynchronous trap falls to the slot that would issue next. -/
theorem dueAsync_eq {g : Group} {x : TrapInfo} {rest : List TrapInfo} (hx : g.asyncs = x :: rest) (hinh : g.inh = false) :
    ∃ b, s.dueAsync k g = some ((s.setGroup k { g with asyncs := rest }).takeTrap k
      { x with slotB := b, async := true, pc := if x.atPc then x.pc else (g.slot b).pc }) := by
  refine ⟨if s.slotReady g (!g.lastB) then !g.lastB else g.lastB, ?_⟩
  unfold State.dueAsync
  split
  · next hnone => simp [hx] at hnone
  · next hsome =>
    cases hx.symm.trans hsome
    rw [if_neg (by simp [hinh])]

/-- At a boundary, and in the slot that would issue next, an asynchronous trap is entered (15, R334; log 53). -/
theorem exec_asyncTrapDeliver {g : Group} {x : TrapInfo} {rest : List TrapInfo} (hfind : s.groups.find? k = some g) (hg : s.group k = g)
    (hx : g.asyncs = x :: rest) (halive : g.ended = false) (hawake : g.dormFmt = none) (hleft : g.exited ≠ g.allLanes)
    (hat : atBoundary s g = true) (hmay : MayEnter s g) : ∃ b, exec (.asyncTrapDeliver k) s =
      .next (s.setGroup k (({ g with asyncs := rest } : Group).enter (s.launch (s.launchOf g)).record.handler
        { x with slotB := b, async := true, pc := if x.atPc then x.pc else (g.slot b).pc })) := by
  have hnone : ¬g.asyncs.isEmpty = true := by simp [hx]
  have hlives : ¬(g.ended || g.dormFmt.isSome || g.exited == g.allLanes) = true := by simp [halive, hawake, hleft]
  obtain ⟨b, hdue⟩ := dueAsync_eq (s := s) (k := k) hx hmay.outside
  refine ⟨b, ?_⟩
  change execAsyncTrapDeliver k s = _
  unfold execAsyncTrapDeliver
  rw [hfind]
  dsimp only
  rw [if_neg hnone, if_neg hlives, if_pos hat, hdue, Option.getD_some]
  subst hg
  exact congrArg _ (takeTrap_changed (g' := { s.group k with asyncs := rest }) hmay s.cores s.held rfl rfl rfl rfl rfl _)

end

/-! ## An acknowledgement that names nothing -/

theorem exec_fqAckInvalid {s : State} {func value : Nat} (hans : s.answers func = true)
    (h : value % 4 = 3 ∨ pendingFault s func (value / 4) = none) :
    exec (.fqAckInvalid func value) s = .next (s.setFunc func { s.func func with fqAckErr := true }) := by
  have haction : bitsOf value 1 0 = value % 4 := by simp [bitsOf_eq]
  have herr : (s.answers func && (bitsOf value 1 0 == 3 || (pendingFault s func (value / 4)).isNone)) = true := by
    rw [hans, haction, Bool.true_and, Bool.or_eq_true, beq_iff_eq, Option.isNone_iff_eq_none]
    exact h
  change Host.Outcome.next _ = _
  rw [if_pos herr]
  rfl

theorem acknowledgementsAndTraps : Spec.partAcknowledgementsAndTraps := by
  intro s func seq k g handler canEnter
  have hmay (hcan : canEnter) (hres : (s.team g.team).resident = true) : MayEnter s g :=
    let ⟨hhandler, houtside, hsettled, huntraced, hclock⟩ := hcan
    ⟨hhandler, houtside, hsettled, huntraced, hclock, hres⟩
  refine ⟨fun hans h hp hat hres => ⟨?_, fun hcan => ?_, fun hnd hstage => ?_⟩, fun hans value hvalue => exec_fqAckInvalid hans hvalue,
    fun x hfind hx hcan hres => ?_, fun x rest hfind hx halive hawake hleft hboundary hcan => ?_⟩
  · refine ⟨_, exec_fqAckRetry hans hp hat hres, rfl, fun j hj => setGroup_others _ _ _ hj, ?_, fun r => ?_⟩
    · rw [State.setGroup_group_self]
    · rw [State.setGroup_group_self]
      exact bind_again_eq_some
  · obtain ⟨cs, hexec⟩ := exec_fqAckTrap hans hp hat (hmay hcan hres)
    refine ⟨_, hexec, rfl, fun j hj => setGroup_others _ _ _ hj, ?_⟩
    rw [State.setGroup_group_self]
    obtain ⟨hsame, hframe, hslot, hcause, htpc, hinfo⟩ := inHandler_enter { g with wait := .none } handler
      (faultTrap h ((g.replay.map (·.slotB)).getD false))
    exact ⟨hsame, hframe, hslot, hcause, htpc, hinfo⟩
  · obtain ⟨hmem, hfinishing, hexited, hheld⟩ := endHeld_ends (s := s.unheld func h.seq) hnd hstage
    refine ⟨_, exec_fqAckEnd hans hp hat hres, hmem, hfinishing, hexited k rfl, fun hh => hheld h hh ?_⟩
    rw [State.heldLaunch, hat]
    rfl
  · refine ⟨_, exec_trapEntry hfind rfl hx (hmay hcan hres), ⟨rfl, fun j hj => setGroup_others _ _ _ hj⟩, ?_⟩
    rw [State.setGroup_group_self]
    obtain ⟨hsame, hframe, hslot, hcause, htpc, hinfo⟩ := inHandler_enter { g with trap := none } handler x
    exact ⟨hsame, hframe, hslot, hcause, htpc, hinfo⟩
  · have hres : (s.team g.team).resident = true := by
      simp only [atBoundary, Bool.and_eq_true] at hboundary
      tauto
    obtain ⟨b, hexec⟩ := exec_asyncTrapDeliver hfind rfl hx halive hawake hleft hboundary (hmay hcan hres)
    refine ⟨_, b, hexec, ⟨rfl, fun j hj => setGroup_others _ _ _ hj⟩, ?_⟩
    rw [State.setGroup_group_self]
    exact inHandler_enter _ _ _

/-- Settles O48: invalidations by what they drop, the fault ring by the case its oldest record meets, and acknowledgements and traps by the
handler that the group enters or the end that its launch comes to. -/
theorem faultsAndTrapsOfHost : Obligations.FaultsAndTrapsOfHost := ⟨invalidations, faultRing, acknowledgementsAndTraps⟩

end Sys2Proof.Machine

namespace Sys2Proof.Machine

/-! ## Reset -/

theorem reset_part (p : Nat) : State.reset.part p = {} := rfl

theorem reset_func (f : Nat) : State.reset.func f = {} := rfl

theorem reset_core (c : Nat) : State.reset.core c = {} := rfl

/-- Memory holds no listed byte, and so is in canonical form. -/
theorem reset_canonical : State.reset.Canonical := rfl

/-- Settles O57: every table of reset is empty, and what a table does not list reads as its registers' reset values. -/
theorem resetState : Obligations.ResetState := by
  refine ⟨fun p => ?_, fun f => ?_, rfl, rfl, rfl, rfl, rfl, rfl, rfl, rfl, fun n => ⟨rfl, rfl, rfl, rfl⟩, fun c => ?_, rfl, rfl, rfl,
    reset_canonical⟩
  · rw [reset_part]
    decide
  · rw [reset_func]
    decide
  · rw [reset_core]

end Sys2Proof.Machine

namespace Sys2Proof.Machine

/-! ## A source under a reserved PERM (05, Table 5.6) -/

/-- `iadd` with A = p7 under PERM 13, which Table 5.6 reserves: step 2 of R109 traps it, and the statement of what sources read does not set
such words apart. -/
def reservedPermWord : Fields := { a := 0x345D }

/-- One group of 32 lanes. -/
def reservedPermGroup : Group := { team := 0, grpid := 0, width := 32, core := 0, sched := 0, units := [0] }

/-- A machine of that group alone, whose slot A is to issue. -/
def reservedPermState : State := { groups := [(0, reservedPermGroup)] }

/-- What the word sees as it issues. -/
def reservedPermCtx : Ctx :=
  { s := reservedPermState, k := 0, g := reservedPermGroup, b := false, opc := 0x040, f := reservedPermWord,
    act := reservedPermGroup.active false reservedPermWord }

/-- The model takes PERM 13 as an exchange of lane numbers in bit 12, and so beyond the group, where a source reads +0. -/
theorem xA_reservedPerm : Spec.xA reservedPermCtx 0 = 0 := by decide

theorem not_partSources : ¬ Spec.partSources := by
  intro h
  obtain ⟨-, hfresh⟩ := h 0x040 reservedPermWord reservedPermState reservedPermCtx rfl (by decide)
  obtain ⟨-, hpred, -⟩ := hfresh rfl
  obtain ⟨-, -, -, -, hp7⟩ := hpred rfl
  -- `Spec.fromLane` is 0 for every PERM from 12 on, and lane 0 stands in the group and has not exited.
  have hlane : Spec.xA reservedPermCtx 0 = 1 := (hp7 rfl 0 (by decide)).trans (if_neg (by decide))
  exact absurd (xA_reservedPerm.symm.trans hlane) (by decide)

/-- Refutes O16: its first part asks of every word, the illegal ones too, that PERM 13 to 15 read lane 0; p7 under PERM 13 reads +0. -/
theorem not_sourceOperands : ¬ Obligations.SourceOperands := by
  rintro ⟨hsources, -⟩
  exact not_partSources hsources

end Sys2Proof.Machine

namespace Sys2Proof.Machine

/-! ## A `waita` that is reissued and then sleeps (12, R288; 15, R338, R340) -/

/-- `waita` of the scratchpad word at s0, until it equals 1 or the cycles in s1 have passed; D is v0. -/
def sleeperWord : Fields := { fn := 8, grd := 7, a := 0x0002, b := 0x0007, aux := 0x0006 }

/-- What the `waita` captured as it issued first: the fault that held it came before its sleep. -/
def sleeperCapture : Capture :=
  { slotB := false, act := 0xFFFFFFFF, vals := [((Opnd.of 0x0002).key, .uniform 0), ((Opnd.of 0x0006).key, .uniform 64), ((Opnd.of 0x0007).key, .uniform 1)] }

/-- Its sleep, all of whose resident cycles have passed. -/
def sleeperWait : WaitaWait :=
  { sp := true, addr := 0, place := 0, notify := false, wide := false, cond := 0, cmp := 1, timeout := 0, woken := false }

/-- The group that sleeps at it: the reissue has kept the captured operands beside the wait (`State.startWait`). -/
def sleeper : Group :=
  { team := 0, grpid := 0, width := 32, core := 0, sched := 0, units := [0], slotA := { active := 0xFFFFFFFF, owned := 0xFFFFFFFF },
    wait := .waita sleeperWait, waitOpc := 0x250, waitWord := sleeperWord, stall := 0x09, capture := some sleeperCapture }

/-- A machine of one partition, one resident team and that group. -/
def sleeperState : State :=
  { parts := [(0, { clusters := 1 })], teams := [(0, { launch := 0, teamid := 0, resident := true })], groups := [(0, sleeper)] }

theorem sleeper_agentsRun : sleeperState.agentsRun 0 0 = true := by decide

theorem sleeper_untraced : sleeperState.tracer sleeper = none := by decide

theorem sleeper_any : (sleeperState.waitCtx 0).any = true := by decide

/-- The sleep times out, and its instruction completes. -/
def timedOut : State := sleeperState.endWait 0 fun c => giveResult c (spread c 0)

theorem exec_waitaTimeout_sleeper : exec (.waitaTimeout 0) sleeperState = .next timedOut := by
  change execWaitaTimeout 0 sleeperState = _
  have hfind : sleeperState.groups.find? 0 = some sleeper := rfl
  simp only [execWaitaTimeout, hfind]
  change Host.Outcome.next (if (decide (0 = 0) && sleeperState.agentsRun 0 0) = true then _ else _) = _
  rw [sleeper_agentsRun]
  rfl

/-- An instruction that completes lets go of what it captured (`Group.retire`). -/
theorem timedOut_capture : (timedOut.group 0).capture = none := by decide

theorem not_partGroupsComeAndGo : ¬ Spec.partGroupsComeAndGo := by
  intro h
  obtain ⟨-, -, -, -, hwaits, -⟩ := h sleeperState 0 false rfl
  obtain ⟨htimeout, -⟩ := hwaits sleeperWait rfl sleeper_agentsRun rfl sleeper_untraced (List.forall_mem_nil _) sleeper_any (.inl rfl)
  obtain ⟨t, ht, hgiven⟩ := htimeout rfl
  cases exec_waitaTimeout_sleeper.symm.trans ht
  have hkept : (timedOut.group 0).capture = some sleeperCapture := congrArg Group.capture hgiven.group
  exact absurd (timedOut_capture.symm.trans hkept) (by decide)

/-- Refutes O49: a `waita` that a fault held, and that was reissued before it slept, lets go of its captured operands as it times out, where
the second part has the group keep them. -/
theorem not_placementEvents : ¬ Obligations.PlacementEvents := by
  rintro ⟨-, hgroups⟩
  exact not_partGroupsComeAndGo hgroups

end Sys2Proof.Machine

namespace Sys2Proof

/-! ## The word of an instruction, decoded (05, R93, R116) -/

/-- An opcode selects the instruction whose word has that opcode. -/
theorem ofOpcode_of_wordOf {i : Instr} {opc : Nat} {f : Fields} (h : Forms.wordOf i = some (opc, f)) :
    ofOpcode opc f = some i ∧ opc < 1024 := by
  cases i <;> cases h
  all_goals exact ⟨rfl, by decide⟩

theorem wordOf_of_ofOpcode {opc : Nat} {f : Fields} {i : Instr} (h : ofOpcode opc f = some i) : Forms.wordOf i = some (opc, f) := by
  unfold ofOpcode at h
  split at h <;> cases h <;> rfl

theorem wellFormed_iff_check {i : Instr} {opc : Nat} {f : Fields} (h : Forms.wordOf i = some (opc, f)) :
    i.wellFormed = true ↔ Forms.check opc f = none := by
  rw [Instr.wellFormed, h, Option.isNone_iff_eq_none]

/-- A word decodes to an instruction where its opcode selects it and the form check passes. -/
theorem decodeWord_eq_ok_iff {w : BitVec 96} {i : Instr} : decodeWord w = .ok i ↔
    Forms.wordOf i = some ((w.extractLsb' 0 10).toNat, fieldsOf w) ∧ i.wellFormed = true := by
  constructor
  · intro h
    unfold decodeWord at h
    dsimp only at h
    split at h
    · cases h
    · rename_i j hj
      have hword := wordOf_of_ofOpcode hj
      split at h
      · cases h
      · rename_i hcheck
        cases h
        exact ⟨hword, (wellFormed_iff_check hword).2 hcheck⟩
  · rintro ⟨hword, hwf⟩
    simp only [decodeWord, (ofOpcode_of_wordOf hword).1, (wellFormed_iff_check hword).1 hwf]

/-- A word decodes to the instruction that encodes as it. -/
theorem decodeWord_eq_ok_iff_encode {w : BitVec 96} {i : Instr} : decodeWord w = .ok i ↔ encode i = some w ∧ i.wellFormed = true := by
  constructor
  · intro h
    obtain ⟨hword, hwf⟩ := decodeWord_eq_ok_iff.1 h
    exact ⟨by rw [encode, hword, Option.map_some, wordBits_fieldsOf], hwf⟩
  · rintro ⟨hencode, hwf⟩
    obtain ⟨⟨opc, f⟩, hword, -⟩ := Option.map_eq_some_iff.1 hencode
    obtain ⟨hopc, hlt⟩ := ofOpcode_of_wordOf hword
    exact decodeWord_encode opc f hword hopc hlt hwf hencode

/-- The twelve bytes of a word are put together to it again (00, R3; 05, R93). -/
theorem ofBytes_word (w : BitVec 96) : BitVec.ofNat 96 (ofBytes (toBytes 12 w.toNat)) = w := by
  rw [ofBytes_toBytes 12 _ (lt_of_lt_of_eq w.isLt (by decide)), BitVec.ofNat_toNat, BitVec.setWidth_eq]

/-- A byte string of twelve bytes or more decodes by the word of its first twelve. -/
theorem decode_append {bs : List Byte} (rest : List Byte) (hlen : bs.length = 12) {i : Instr}
    (h : decodeWord (BitVec.ofNat 96 (ofBytes bs)) = .ok i) : decode (bs ++ rest) = .ok (i, rest) := by
  have hlong : ¬(bs ++ rest).length < 12 := by rw [List.length_append]; omega
  rw [decode, if_neg hlong, List.take_left' hlen, List.drop_left' hlen, h]

theorem decodeWord_of_decode {bs : List Byte} {i : Instr} {rest : List Byte} (h : decode bs = .ok (i, rest)) :
    decodeWord (BitVec.ofNat 96 (ofBytes (bs.take 12))) = .ok i := by
  unfold decode at h
  split at h
  · cases h
  · split at h
    · rename_i j hj
      cases h
      exact hj
    · cases h

/-- Settles O58: a word and its instruction determine each other (`decodeWord_eq_ok_iff_encode`), and so do a word and its bytes. -/
theorem decodeEncode : Obligations.DecodeEncode := by
  refine ⟨fun i bytes rest hwf hbytes => ?_, fun w i h => decodeWord_eq_ok_iff_encode.1 h⟩
  obtain ⟨w, hencode, rfl⟩ := Option.map_eq_some_iff.1 hbytes
  refine decode_append rest (length_toBytes _ _) ?_
  rw [ofBytes_word]
  exact decodeWord_eq_ok_iff_encode.2 ⟨hencode, hwf⟩

/-- Settles O56: each of the words is evaluated (05, R93 and the worked examples). -/
theorem decodeExamples : Obligations.DecodeExamples := by
  unfold Obligations.DecodeExamples
  decide +kernel

end Sys2Proof

namespace Sys2Proof.Machine

/-! ## Every step goes on (15, R334, R340) -/

theorem exec_goes_on (i : Instr) (s : State) : ∃ t, exec i s = .next t := by
  cases i <;> exact ⟨_, rfl⟩

theorem stepIssue_goes_on (s : State) (k : Nat) : ∃ t, stepIssue s k = .next t := by
  unfold stepIssue
  split
  · exact ⟨_, rfl⟩
  · rename_i s' i _
    obtain ⟨t, hexec⟩ := exec_goes_on i s'
    rw [hexec]
    exact ⟨_, rfl⟩

theorem runTurn_goes_on (s : State) (x : Turn) : ∃ t, runTurn s x = .next t := by
  cases x with
  | issue k => exact stepIssue_goes_on s k
  | event i place =>
    simp only [runTurn]
    split
    · exact exec_goes_on _ _
    · exact ⟨_, rfl⟩
  | elapse n => exact ⟨_, rfl⟩
  | flash image version => exact ⟨_, rfl⟩
  | upset error => exact ⟨_, rfl⟩

theorem everyStepGoesOn : Spec.partEveryStepGoesOn := by
  refine ⟨exec_goes_on, fun s => ?_⟩
  unfold step
  split
  · exact runTurn_goes_on _ _
  · exact runTurn_goes_on _ _

/-! ## The bundle of a slot (05, R113) -/

theorem fetchWords_lengths {s : State} {g : Group} {pc : Nat} : ∀ {n : Nat} {ws : List (Nat × List Byte)}, s.fetchWords g pc n = .ok ws →
    ∀ w ∈ ws, w.2.length = 4 := by
  intro n
  induction n with
  | zero =>
    intro ws h
    cases h
    exact fun w hw => nomatch hw
  | succ n ih =>
    intro ws h w hw
    unfold State.fetchWords at h
    split at h
    · cases h
    · rename_i ws' hws'
      split at h
      · cases h
      · cases h
        rcases List.mem_append.1 hw with hw | hw
        · exact ih hws' w hw
        · cases List.mem_singleton.1 hw
          rfl

/-- Bytes of whole words are dropped as those words are. -/
theorem drop_flatMap_words {ws : List (Nat × List Byte)} (h : ∀ w ∈ ws, w.2.length = 4) (n : Nat) :
    (ws.flatMap Prod.snd).drop (4 * n) = (ws.drop n).flatMap Prod.snd := by
  induction ws generalizing n with
  | nil => simp
  | cons w ws ih =>
    obtain ⟨hw, hws⟩ := List.forall_mem_cons.1 h
    cases n with
    | zero => rfl
    | succ n =>
      rw [List.flatMap_cons, List.drop_succ_cons, ← ih hws n, List.drop_append, hw, List.drop_eq_nil_of_le (by omega), List.nil_append,
        show 4 * (n + 1) - 4 = 4 * n by omega]

theorem take_flatMap_words {ws : List (Nat × List Byte)} (h : ∀ w ∈ ws, w.2.length = 4) (n : Nat) :
    (ws.flatMap Prod.snd).take (4 * n) = (ws.take n).flatMap Prod.snd := by
  induction ws generalizing n with
  | nil => simp
  | cons w ws ih =>
    obtain ⟨hw, hws⟩ := List.forall_mem_cons.1 h
    cases n with
    | zero => rfl
    | succ n =>
      rw [List.flatMap_cons, List.take_succ_cons, List.flatMap_cons, ← ih hws n, List.take_append, hw, List.take_of_length_le (by omega),
        show 4 * (n + 1) - 4 = 4 * n by omega]

/-- The word at a PC of a bundle is made of the twelve bytes that stand there (05, R93, R113). -/
theorem bundleWord_eq {ws : List (Nat × List Byte)} (h : ∀ w ∈ ws, w.2.length = 4) {pc : Nat} (hpc : pc % 12 = 0) :
    State.bundleWord ws pc = BitVec.ofNat 96 (ofBytes (((ws.flatMap Prod.snd).drop (pc % 48)).take 12)) := by
  have hbytes : ((ws.flatMap Prod.snd).drop (4 * (pc % 48 / 4))).take (4 * 3) = ((ws.drop (pc % 48 / 4)).take 3).flatMap Prod.snd := by
    rw [drop_flatMap_words h, take_flatMap_words fun w hw => h w (List.mem_of_mem_drop hw)]
  rw [State.bundleWord, ← hbytes, show 4 * (pc % 48 / 4) = pc % 48 by omega]

theorem find?_foldl_set {α : Type} {v : Nat → α} {k : Nat} {ks : List Nat} (t : Tbl α) (h : k ∈ ks ∨ t.find? k = some (v k)) :
    (ks.foldl (fun t n => Tbl.set t n (v n)) t).find? k = some (v k) := by
  induction ks generalizing t with
  | nil => exact h.resolve_left (List.not_mem_nil)
  | cons n ks ih =>
    refine ih _ ?_
    by_cases hn : k = n
    · exact .inr (by rw [hn, Tbl.find?_set_self])
    · exact h.imp (fun hk => (List.mem_cons.1 hk).resolve_left hn) fun ht => by rw [Tbl.find?_set_ne _ _ hn, ht]

theorem mem_bundlePcs {pc : Nat} (h : pc % 12 = 0) : pc ∈ State.bundlePcs pc := by
  rw [State.bundlePcs, List.mem_filter, List.mem_map]
  exact ⟨⟨pc % 48 / 12, List.mem_range.2 (by omega), by omega⟩, by simp⟩

theorem fetchInto_stream {s : State} {k : Nat} {g : Group} {b : Bool} {ws : List (Nat × List Byte)} (h : (g.slot b).pc.toNat % 12 = 0) :
    (((s.fetchInto k g b ws).group k).slot b).pc = (g.slot b).pc ∧
      (((s.fetchInto k g b ws).group k).slot b).stream.find? (g.slot b).pc.toNat = some (State.bundleWord ws (g.slot b).pc.toNat) := by
  have hgroup : (s.fetchInto k g b ws).group k = g.setSlot b
      { g.slot b with stream := (State.bundlePcs (g.slot b).pc.toNat).foldl (fun t pc => Tbl.set t pc (State.bundleWord ws pc)) (g.slot b).stream } :=
    State.setGroup_group_self _ _ _
  have hslot : ∀ p : PcSlot, (g.setSlot b p).slot b = p := by cases b <;> exact fun _ => rfl
  rw [hgroup, hslot]
  exact ⟨rfl, find?_foldl_set _ (.inl (mem_bundlePcs h))⟩

/-! ## An issue turn (06, R118) -/

theorem group_of_find? {s : State} {k : Nat} {g : Group} (h : s.groups.find? k = some g) : s.group k = g := by
  rw [State.group, Tbl.getD, h]
  rfl

section
variable {s t : State} {k : Nat} {g : Group} {b : Bool} {i : Instr}

theorem fetched_streamed {w : BitVec 96} (h : (g.slot b).stream.find? (g.slot b).pc.toNat = some w) : s.fetched k g b = (s, none) := by
  simp [State.fetched, h]

theorem fetched_bundle {ws : List (Nat × List Byte)} (hnone : (g.slot b).stream.find? (g.slot b).pc.toNat = none)
    (hpc : (g.slot b).pc.toNat % 12 = 0) (hws : (s.bundleWalked g (g.slot b).pc.toNat).fetchBundle g (g.slot b).pc.toNat = .ok ws) :
    s.fetched k g b = ((s.bundleWalked g (g.slot b).pc.toNat).fetchInto k g b ws, none) := by
  simp [State.fetched, hnone, hpc, hws]

/-- A turn of a group that nothing holds up comes to the instruction of its fetched word, in the state `issuing`. -/
theorem comesTo_ready {w : BitVec 96} (h : Spec.Ready s k g b) (hfetch : s.fetched k g b = (t, none))
    (hstream : (((t.group k).slot b).stream.find? ((t.group k).slot b).pc.toNat) = some w) (hdecode : decodeWord w = .ok i) :
    s.comesTo k = (Spec.issuing t k b, some i) := by
  have hslot : ∀ g' : Group, ({ g' with wait := .none, went := false } : Group).slot b = g'.slot b := by
    intro g'; cases b <;> rfl
  unfold State.comesTo
  simp only [h.group, h.may, h.replay, h.peer, h.async, h.arrive, h.slot, h.seated, h.turn, hfetch, hslot, hstream, Option.getD_some, hdecode,
    Bool.not_true, Bool.and_false, Bool.false_eq_true, if_false]
  rfl

theorem step_ready {rest : List Turn} {w : BitVec 96} (hagenda : s.agenda = .issue k :: rest)
    (h : Spec.Ready { s with agenda := rest } k g b) (hfetch : State.fetched { s with agenda := rest } k g b = (t, none))
    (hstream : (((t.group k).slot b).stream.find? ((t.group k).slot b).pc.toNat) = some w) (hdecode : decodeWord w = .ok i) :
    i.wellFormed = true ∧ ∃ u, exec i (Spec.issuing t k b) = .next u ∧ step s = .next (u.afterIssue k) := by
  obtain ⟨u, hexec⟩ := exec_goes_on i (Spec.issuing t k b)
  have hgroup : State.group { s with agenda := rest } k = g := group_of_find? h.group
  have hprepare : State.prepare { s with agenda := rest } k = (Spec.issuing t k b, some i) := by
    rw [State.prepare, comesTo_ready h hfetch hstream hdecode]
  refine ⟨(decodeWord_eq_ok_iff.1 hdecode).2, u, hexec, ?_⟩
  rw [step, hagenda]
  show stepIssue { s with agenda := rest } k = _
  simp only [stepIssue, hprepare, hexec, hgroup, h.seated, if_true]

end

theorem turnsRunInstructions : Spec.partStepRunsInstruction := by
  refine ⟨fun s k rest g b i hagenda hready => ⟨fun w hstream hdecode => ?_, fun ws hnone hpc hws hdecode => ?_⟩,
    fun s i place rest hagenda hword hwf => ?_, fun s n rest hagenda => ?_⟩
  · exact step_ready hagenda hready (fetched_streamed hstream) (by rw [group_of_find? hready.group, hstream]) hdecode
  · obtain ⟨hslot, hstream⟩ := fetchInto_stream (s := State.bundleWalked { s with agenda := rest } g (g.slot b).pc.toNat) (k := k) (ws := ws) hpc
    refine step_ready hagenda hready (fetched_bundle hnone hpc hws) (by rw [hslot, hstream]) ?_
    rw [bundleWord_eq (fetchWords_lengths hws) hpc]
    have hword := decodeWord_of_decode hdecode
    rwa [List.take_take, Nat.min_self] at hword
  · obtain ⟨t, hexec⟩ := exec_goes_on i { s with agenda := rest, focus := place }
    refine ⟨t, hexec, ?_⟩
    rw [step, hagenda]
    simp only [runTurn, hword, hwf, Option.isNone_none, Bool.and_self, if_true]
    exact hexec
  · rw [step, hagenda]
    rfl

/-- Settles O60: an issue turn comes to the instruction of the fetched word (`step_ready`), and no meaning stops the machine
(`exec_goes_on`). -/
theorem stepRunsInstruction : Obligations.StepRunsInstruction := ⟨turnsRunInstructions, everyStepGoesOn⟩

end Sys2Proof.Machine

namespace Sys2Proof.Spec

open Sys2Proof.Machine

/-! ## The reciprocal of a number that is no power of two (07, R152; 08, R189) -/

/-- The value of a pattern is dyadic: a multiple of some power of two (07, R152). -/
theorem rat_dyadic {v : Float.FVal} {q : ℚ} (h : rat v = some q) : ∃ (j : ℕ) (n : ℤ), q * 2 ^ j = n := by
  match v, h with
  | .fin neg man exp, h =>
    obtain rfl := Option.some.inj h
    refine ⟨(-exp).toNat, (if neg then -1 else 1) * man * 2 ^ exp.toNat, ?_⟩
    have hsplit : exp + ((-exp).toNat : ℤ) = (exp.toNat : ℤ) := by omega
    push_cast
    rw [mul_assoc, ← zpow_natCast, ← zpow_add₀ two_ne_zero, hsplit, zpow_natCast]

/-- No exact value is a third, so that rounding to nearest of 1/3 is no `Rounded` pattern. -/
theorem not_rounded_third (mode : Float.Mode) (fm : Float.Format) (x : Nat) : ¬ Rounded mode fm (1 / 3) x := by
  rintro ⟨v, hv, -⟩
  obtain ⟨j, n, hn⟩ := rat_dyadic hv
  have hpow : (2 : ℤ) ^ j = 3 * n := by
    have : (2 : ℚ) ^ j = 3 * n := by rw [← hn]; ring
    exact_mod_cast this
  have h32 : (3 : ℤ) ∣ 2 := Int.prime_three.dvd_of_dvd_pow ⟨n, hpow⟩
  exact absurd h32 (by decide)

/-- 3.0 as an FP32 pattern: 12,582,912 · 2⁻²². -/
theorem value_three : Float.value Float.f32 0x40400000 = .fin false 12582912 (-22) := by decide

theorem rat_three : rat (Float.value Float.f32 0x40400000) = some 3 := by
  rw [value_three, rat]
  norm_num

theorem not_partSpecialValues : ¬ partSpecialValues := by
  intro h
  obtain ⟨-, -, -, -, -, hfinite⟩ := h .rne 0x40400000 (by decide)
  obtain ⟨-, hrcp, -⟩ := hfinite 3 rat_three
  exact not_rounded_third _ _ _ (hrcp three_ne_zero)

/-- Refutes O15: `rcp` of 3.0. The statement asks for the pattern of an exact value 1/q, rounded, and exact values are dyadic (`rat_dyadic`),
so that it has none for 1/3 and `Rounded` cannot hold, whatever `rcp` gives. -/
theorem not_specialFunctions : ¬ Obligations.SpecialFunctions := fun h => not_partSpecialValues h.1

end Sys2Proof.Spec

namespace Sys2Proof.Machine

open Sys2Proof.Spec

/-! ## What a short-latency word leaves of its group -/

section
variable {c : Ctx} {opc : Nat} {f : Fields} {names : Ctx → List Nat} {own : Ctx → Nat → Bool} {s : State} {G T : Group}

/-- The effect of a computing or format word on its group `G`: registers, last results, counting specials and slots alone, and no window is
to close. -/
structure Effect (c : Ctx) (G : Group) : Prop where
  frame : G = { c.g with vregs := G.vregs, sregs := G.sregs, spoison := G.spoison, preds := G.preds, q0 := G.q0, q1 := G.q1,
                         windows := G.windows, sat := G.sat, uflow := G.uflow, mflush := G.mflush, mwrap := G.mwrap,
                         slotA := G.slotA, slotB := G.slotB }
  done  : NoneDone G.windows

/-- A word whose effect left its group `G` has retired, and its slot goes on: the names that LAST frees are unmapped, the latch takes what
HOLD pushes, the windows count one issue, and the loop action is taken (05, R105, R106, R111; 06, R131). -/
structure Retired (c : Ctx) (G T : Group) : Prop where
  frame : T = { G with vregs := T.vregs, latch := T.latch, windows := T.windows, loops := T.loops, slotA := T.slotA, slotB := T.slotB,
                       lastB := c.b, issued := true, issuedAt := some c.s.now, went := true, stall := 0, spill := .none, granted := 0 }
  vregs : T.vregs = (G.freeNames (lastFrees c) (writtenNames c) c.act).vregs
  latch : DestOk c.opD → T.latch = latched c (heldPushes c T)
  slot  : T.slot c.b = { G.slot c.b with pc := nextPc c }
  other : T.slot (!c.b) = G.slot (!c.b)
  loops : ∀ n, n < 3 → T.loops.getD n {} = nextLoops c n

/-- What HOLD pushes goes by registers, last results, counting specials and the slots' masks. -/
theorem heldPushes_congr {t u : Group} (hok : DestOk c.opD) (hslots : ∀ b, (t.slot b).owned = (u.slot b).owned)
    (hact : (t.slot c.b).active = (u.slot c.b).active)
    (hregs : t = { u with latch := t.latch, windows := t.windows, loops := t.loops, slotA := t.slotA, slotB := t.slotB, lastB := t.lastB,
                          issued := t.issued, issuedAt := t.issuedAt, went := t.went, stall := t.stall, spill := t.spill,
                          granted := t.granted }) : heldPushes c t = heldPushes c u := by
  have hlive : ∀ b, t.live b = u.live b := fun b => by rw [Group.live, Group.live, hslots]
  have hboth : t.bothLive = u.bothLive := by rw [Group.bothLive, Group.bothLive, hlive, hlive]
  have hnamed : namedSource c.s t c.b c.opD = namedSource c.s u c.b c.opD := by
    refine namedSource_dest hok ?_ ?_ ?_ ?_ ?_ ?_ hact ?_ ?_ ?_ ?_ <;> rw [hregs]
  rw [heldPushes, heldPushes, hboth, hnamed]

theorem retired_of_effect (hll : Forms.longLatency c.opc = false) (hn : c.f.never = false) (hc : c.g.captured c.b = none) (h : Effect c G) :
    Retired c G ((G.retire c c.g.windows.length).advance c.b c.pc) := by
  have hcap : G.captured c.b = none := by rw [Group.captured, h.frame]; exact hc
  obtain ⟨ws, hretire⟩ := retire_short (n := c.g.windows.length) hll hn h.done hcap
  rw [hretire]
  generalize hvr : (G.freeNames (lastFrees c) (writtenNames c) c.act).vregs = vr
  generalize hps : heldPushes c { G with vregs := vr } = ps
  generalize hR : ({ G with vregs := vr, latch := pushLatch c.b (ageLatch c.b G.latch) ps, windows := ws, lastB := c.b, issued := true,
                            issuedAt := some c.s.now, went := true, stall := 0, spill := .none, granted := 0 } : Group) = R
  have hslotR : ∀ b, R.slot b = G.slot b := fun b => by rw [← hR]; rfl
  have hloopsR : R.loops = c.g.loops := by rw [← hR, h.frame]
  have hlatchR : R.latch = latched c ps := by rw [← hR, ← pushLatch_aged, h.frame]
  have hat : loopAt R c.pc = loopAt c.g c.pc := loopAt_congr (by rw [← hR, h.frame]) hloopsR _
  have hframe := advance_frame R c.b c.pc
  obtain ⟨hslot, hother⟩ := advance_slot R c.b c.pc
  have hloops := advance_loops R c.b c.pc
  generalize R.advance c.b c.pc = T at *
  have hslotT : T.slot c.b = { G.slot c.b with pc := nextPc c } := by rw [hslot, hslotR, hat]; rfl
  have hotherT : T.slot (!c.b) = G.slot (!c.b) := by rw [hother, hslotR]
  have howned (b : Bool) : (T.slot b).owned = (G.slot b).owned := by
    rcases Bool.eq_or_eq_not b c.b with rfl | rfl
    · rw [hslotT]
    · rw [hotherT]
  have hpushes (hok : DestOk c.opD) : heldPushes c T = ps := by
    rw [← hps]
    refine heldPushes_congr hok howned (by rw [hslotT]; rfl) ?_
    rw [hframe, ← hR]
  refine ⟨?_, ?_, fun hok => ?_, hslotT, hotherT, fun n hlt => ?_⟩
  · rw [hframe, ← hR]
  · rw [hframe, ← hR, hvr]
  · rw [hpushes hok, ← hlatchR, hframe]
  · rw [hloops n hlt, hat, hloopsR]; rfl

/-- A calm word that has done its work retires in its group, and nothing of it is traced. -/
theorem settle_retired {u : State} (h : Calm opc f names s c own) (hll : Forms.longLatency opc = false) (hu : u.groups.find? c.k = some G)
    (hG : Effect c G) (htracer : u.tracer c.g = none) : ∃ T, Retired c G T ∧ settle c c.s (.next u) = u.setGroup c.k T := by
  have hended : G.ended = false := by rw [hG.frame]; exact h.alive
  exact ⟨_, retired_of_effect (h.opc_eq ▸ hll) h.never h.fresh hG, settle_untraced hu hended htracer⟩

theorem effect_none (h : Calm opc f names s c own) : Effect c c.g := ⟨rfl, h.windows⟩

theorem effect_setSlot (h : Calm opc f names s c own) (p : PcSlot) : Effect c (c.g.setSlot c.b p) := by
  unfold Group.setSlot
  split
  · exact ⟨rfl, h.windows⟩
  · exact ⟨rfl, h.windows⟩

namespace Retired

theorem group_result (h : Retired c G T) (hG : Effect c G) : OnlyResult c T := by
  rw [OnlyResult, h.frame, hG.frame]

/-- Neither slot gains or loses a lane where the effect leaves the owned sets. -/
theorem bothLive (h : Retired c G T) (hslots : ∀ b, (G.slot b).owned = (c.g.slot b).owned) : T.bothLive = c.g.bothLive := by
  have hlive (b : Bool) : T.live b = c.g.live b := by
    rw [Group.live, Group.live, ← hslots]
    rcases Bool.eq_or_eq_not b c.b with rfl | rfl
    · rw [h.slot]
    · rw [h.other]
  rw [Group.bothLive, Group.bothLive, hlive, hlive]

end Retired

theorem slot_setSlot (g : Group) (b : Bool) (p : PcSlot) : (g.setSlot b p).slot b = p := by
  cases b <;> rfl

theorem slot_setSlot_not (g : Group) (b : Bool) (p : PcSlot) : (g.setSlot b p).slot (!b) = g.slot (!b) := by
  cases b <;> rfl

theorem writtenNames_idle (h : c.any = false) : writtenNames c = [] := by
  rw [writtenNames, h]
  rfl

/-! ## Words with no lane active (05, R95, R106; 08, R173) -/

theorem freeNames_onlyFreed {g : Group} {ws : List Nat} {m : LaneMask} (hws : ws = []) :
    (∀ n, n ∉ lastFrees c → (g.freeNames (lastFrees c) ws m).vregs.find? n = g.vregs.find? n) ∧
      ∀ n, n ∈ lastFrees c → (g.freeNames (lastFrees c) ws m).vregs.find? n = none := by
  subst hws
  exact ⟨fun _ hn => find?_freeNames_not hn, fun _ hn => find?_freeNames_of_mem hn⟩

theorem giveLanes_idle (h : c.any = false) (ctr : Nat) (r : Nat → Sat) : giveLanes c ctr r = .next c.s := by
  simp [giveLanes, h]

/-- What a computing word with no lane active leaves: its names freed, what HOLD names pushed, and its slot past it. -/
structure Idles (c : Ctx) (t : State) : Prop where
  machine : t = { c.s with groups := t.groups }
  group   : OnlyResult c (after c t)
  kept    : ∀ n, n ∉ lastFrees c → (after c t).vregs.find? n = c.g.vregs.find? n
  freed   : ∀ n, n ∈ lastFrees c → (after c t).vregs.find? n = none
  sregs   : (after c t).sregs = c.g.sregs
  preds   : (after c t).preds = c.g.preds
  sat     : (after c t).sat = c.g.sat
  spoison : (after c t).spoison = c.g.spoison
  q0      : (after c t).q0 = c.g.q0
  q1      : (after c t).q1 = c.g.q1
  loops   : ∀ n, n < 3 → (after c t).loops.getD n {} = nextLoops c n
  latch   : (after c t).latch = latched c (sourceHolds c ++ if c.opD.hold then [namedSource c.s (after c t) c.b c.opD] else [])
  slot    : (after c t).slot c.b = { c.slot with pc := nextPc c }

theorem idles_settle (h : Calm opc f names s c own) (hll : Forms.longLatency opc = false) (hd : (roles opc f).d = true)
    (hs : (roles opc f).dIsSrc = false) (hany : c.any = false) : Idles c (settle c c.s (.next c.s)) := by
  obtain ⟨T, hT, hsettle⟩ := settle_retired h hll h.group (effect_none h) h.tracer
  obtain ⟨-, -, -, rfl, rfl⟩ := ctx_group h.ctx
  obtain ⟨hkept, hfreed⟩ := freeNames_onlyFreed (c := c) (g := c.g) (m := c.act) (writtenNames_idle hany)
  rw [← hT.vregs] at hkept hfreed
  have hlatch := hT.latch (dest_ok h.form hd hs)
  rw [heldPushes_ok h.form hd hs (hT.bothLive fun _ => rfl)] at hlatch
  rw [hsettle]
  constructor
  case machine => rfl
  all_goals rw [after_setGroup]
  case group => exact hT.group_result (effect_none h)
  case kept => exact hkept
  case freed => exact hfreed
  case loops => exact hT.loops
  case latch => exact hlatch
  case slot => exact hT.slot
  all_goals rw [hT.frame]

/-- A word of a vector D that its entry's checks let pass, and that does nothing with no lane active. -/
theorem idle_word {x : Host.Outcome State Fault Refusal} {checks : Ctx → Option TrapInfo} {run : Ctx → Res}
    (hx : x = .next (issue opc f checks names run s))
    (hll : Forms.longLatency opc = false) (hd : (roles opc f).d = true) (hs : (roles opc f).dIsSrc = false) (h : Calm opc f names s c)
    (hchecks : checks c = none) (hrun : run c = .next c.s) (hany : c.any = false) : ∃ t, x = .next t ∧ Idles c t := by
  rw [hx, issue_calm h h.form hchecks, hrun]
  exact ⟨_, rfl, idles_settle h hll hd hs hany⟩

end

/-- The rules of an entry's own on its operands, in their order: D, A, B, C (05, R109; 08, R201). -/
theorem operandChecks_eq (own : Ctx → Nat → Bool) (c : Ctx) : operandChecks own c =
    if own c 1 then some (c.illegalOperand 1) else if own c 2 then some (c.illegalOperand 2)
    else if own c 3 then some (c.illegalOperand 3) else if own c 4 then some (c.illegalOperand 4) else none := by
  unfold operandChecks
  cases h1 : own c 1 <;> cases h2 : own c 2 <;> cases h3 : own c 3 <;> cases h4 : own c 4 <;> simp [h1, h2, h3, h4]

theorem operandChecks_noScalar {c : Ctx} (h : c.opD.isScalar = false) : operandChecks noScalar c = none := by
  simp [operandChecks_eq, noScalar, h]

theorem operandChecks_vectorOnly {c : Ctx} (h : c.opD.isVec = true) : operandChecks vectorOnly c = none := by
  simp [operandChecks_eq, vectorOnly, h]

theorem isScalar_of_isVec {o : Opnd} (h : o.isVec = true) : o.isScalar = false := by
  rw [Opnd.isVec, beq_iff_eq] at h
  rw [Opnd.isScalar, h]
  rfl

theorem idle_alu {f : Fields} {s : State} {c : Ctx} {x : Host.Outcome State Fault Refusal} {opc ctr : Nat} {ka kb kc : Imm}
    {op : Word → Word → Word → Sat} (hany : c.any = false) (hx : x = alu opc f ctr ka kb kc op s) (hll : Forms.longLatency opc = false)
    (hd : (roles opc f).d = true) (hs : (roles opc f).dIsSrc = false) (h : Calm opc f destName s c) (_ : c.opD.isVec = true) :
    ∃ t, x = .next t ∧ Idles c t :=
  idle_word hx hll hd hs h rfl (giveLanes_idle hany _ _) hany

theorem idle_lanes {f : Fields} {s : State} {c : Ctx} {x : Host.Outcome State Fault Refusal} {opc ctr : Nat} {r : Ctx → Nat → Sat}
    (hany : c.any = false) (hx : x = .next (ruled opc f noScalar (fun c => giveLanes c ctr (r c)) s))
    (hll : Forms.longLatency opc = false) (hd : (roles opc f).d = true) (hs : (roles opc f).dIsSrc = false) (h : Calm opc f destName s c)
    (hvec : c.opD.isVec = true) : ∃ t, x = .next t ∧ Idles c t :=
  idle_word hx hll hd hs h (operandChecks_noScalar (isScalar_of_isVec hvec)) (giveLanes_idle hany _ _) hany

theorem idle_iaddc {f : Fields} {s : State} {c : Ctx} (hany : c.any = false) (h : Calm 0x041 f destName s c) (hvec : c.opD.isVec = true) :
    ∃ t, execIaddc f s = .next t ∧ Idles c t :=
  idle_word rfl rfl rfl rfl h (operandChecks_vectorOnly hvec) (by simp [hany]) hany

/-- Settles O10: with no lane active each of these words comes to the state it issued in (`idle_word`), which the issue alone then changes
(`idles_settle`). -/
theorem noLaneActive : Obligations.NoLaneActive := by
  intro f s c hany idle
  have idles {i : Instr} {opc : Nat} (hword : Calm opc f destName s c → c.opD.isVec = true → ∃ t, exec i s = .next t ∧ Idles c t) :
      idle i opc := fun h hvec => by
    obtain ⟨t, hexec, hmachine, hgroup, hkept, hfreed, hsregs, hpreds, hsat, hspoison, hq0, hq1, hloops, hlatch, hslot⟩ := hword h hvec
    exact ⟨t, hexec, hmachine, hgroup, hkept, hfreed, hsregs, hpreds, hsat, hspoison, hq0, hq1, hloops, hlatch, hslot⟩
  refine ⟨idles ?_, idles ?_, idles ?_, idles ?_, idles ?_, idles ?_, idles ?_, idles ?_, idles ?_, idles ?_⟩
  · exact idle_alu (x := execIadd f s) hany rfl rfl rfl rfl
  · exact idle_alu (x := execImin f s) hany rfl rfl rfl rfl
  · exact idle_iaddc hany
  · exact idle_alu (x := execShl f s) hany rfl rfl rfl rfl
  · exact idle_alu (x := execMov f s) hany rfl rfl rfl rfl
  · exact idle_alu (x := execFadd f s) hany rfl rfl rfl rfl
  · exact idle_alu (x := execHadd2 f s) hany rfl rfl rfl rfl
  · exact idle_lanes (x := execShfl f s) hany rfl rfl rfl rfl
  · exact idle_lanes (x := execRedux f s) hany rfl rfl rfl rfl
  · exact idle_alu (x := predOp 0x150 f and s) hany rfl rfl rfl rfl

end Sys2Proof.Machine

namespace Sys2Proof.Machine

open Sys2Proof.Spec

/-! ## Words that change their slot (06, R144–R146, R127) -/

/-- Where no field breaks a rule, more rules decide by the first that they find broken. -/
theorem first_of_own {d a b c : Bool} (own : Nat → Bool)
    (h : (if d then some 1 else if a then some 2 else if b then some 3 else if c then some 4 else none) = (none : Option Nat)) :
    (if d || own 1 then some 1 else if a || own 2 then some 2 else if b || own 3 then some 3 else if c || own 4 then some 4 else none) =
      if own 1 then some 1 else if own 2 then some 2 else if own 3 then some 3 else if own 4 then some 4 else (none : Option Nat) := by
  grind

/-- A word of legal form traps in step 2 of R109 by the first of its entry's own operand rules that it breaks (05, R109). -/
theorem formTrap_eq_operandChecks {c : Ctx} (h : formTrap c = none) (own : Ctx → Nat → Bool) : formTrap c own = operandChecks own c := by
  unfold formTrap at h ⊢
  split at h
  · cases h
  · cases h
  · split at h
    · cases h
    · rw [Option.map_eq_none_iff] at h
      unfold operandFault at h ⊢
      simp only [noOperands, Bool.or_false] at h
      rw [first_of_own _ h, operandChecks_eq]
      split_ifs <;> rfl

section
variable {c : Ctx} {opc : Nat} {f : Fields} {names : Ctx → List Nat} {s : State} {G T : Group}

/-- A word that its entry's own operand rules stop takes their trap, and nothing else happens. -/
theorem issue_own_trap {checks : Ctx → Option TrapInfo} {run : Ctx → Res} {own : Ctx → Nat → Bool} {x : TrapInfo}
    (h : Calm opc f names s c) (hown : operandChecks own c = some x) : issue opc f checks names run s own = s.takeTrap c.k x :=
  issue_form_trap h.ctx ((formTrap_eq_operandChecks h.form own).trans hown)

theorem issue_own_calm {checks : Ctx → Option TrapInfo} {run : Ctx → Res} {own : Ctx → Nat → Bool}
    (h : Calm opc f names s c) (hchecks : checks c = none) (hown : operandChecks own c = none) :
    issue opc f checks names run s own = settle c c.s (run c) :=
  issue_calm h ((formTrap_eq_operandChecks h.form own).trans hown) hchecks

theorem setSlot_frame (g : Group) (b : Bool) (p : PcSlot) :
    g.setSlot b p = { g with slotA := (g.setSlot b p).slotA, slotB := (g.setSlot b p).slotB } := by
  cases b <;> rfl

theorem setSlot_slot (g : Group) (b : Bool) : g.setSlot b (g.slot b) = g := by
  cases b <;> rfl

/-- A word that writes no register and leaves its slot as `p` goes on from there. -/
theorem Retired.goes {p : PcSlot} (hT : Retired c (c.g.setSlot c.b p) T) (hwritten : writtenNames c = []) :
    Goes c (c.s.setGroup c.k T) { p with pc := nextPc c } (nextLoops c) c.g.stack := by
  have hset := setSlot_frame c.g c.b p
  obtain ⟨hkept, hfreed⟩ := freeNames_onlyFreed (c := c) (g := c.g.setSlot c.b p) (m := c.act) hwritten
  rw [← hT.vregs] at hkept hfreed
  constructor
  case machine => rfl
  case others => exact fun j hj => setGroup_others _ _ _ hj
  all_goals rw [after_setGroup]
  case group => rw [OnlyPath, hT.frame, hset]
  case regs => exact ⟨fun n hn => by rw [hkept n hn, hset], hfreed⟩
  case files => rw [hT.frame, hset]; exact ⟨rfl, rfl⟩
  case slot => rw [hT.slot, slot_setSlot]
  case other => rw [hT.other, slot_setSlot_not]
  case loops => exact hT.loops
  case stack => rw [hT.frame, hset]

theorem goes_setSlot (h : Calm opc f names s c) (hll : Forms.longLatency opc = false) (hwritten : writtenNames c = []) (p : PcSlot) :
    Goes c (settle c c.s (.next (c.s.setGroup c.k (c.g.setSlot c.b p)))) { p with pc := nextPc c } (nextLoops c) c.g.stack := by
  obtain ⟨T, hT, hsettle⟩ := settle_retired h hll (Tbl.find?_set_self _ _ _) (effect_setSlot h p) (u := c.s.setGroup c.k _) h.tracer
  rw [hsettle, setGroup_setGroup]
  exact hT.goes hwritten

/-- A word of no effect that writes no name goes on. -/
theorem goes_settle_unwritten (h : Calm opc f names s c) (hll : Forms.longLatency opc = false) (hwritten : writtenNames c = []) :
    Goes c (settle c c.s (.next c.s)) { c.slot with pc := nextPc c } (nextLoops c) c.g.stack := by
  obtain ⟨T, hT, hsettle⟩ := settle_retired h hll h.group (effect_none h) h.tracer
  rw [hsettle]
  rw [← setSlot_slot c.g c.b] at hT
  exact hT.goes hwritten

theorem writtenNames_noDest (hd : (roles c.opc c.f).d = false) : writtenNames c = [] := by
  simp [writtenNames, destName, hd]

/-! ## `nop`, `yield`, `setfmt` and `wrmask` -/

theorem exec_nop_eq (f : Fields) (s : State) : exec (.nop f) s = .next (issue 0x001 f noChecks noNames (fun c => .next c.s) s) := rfl

theorem exec_nop (h : Calm 0x001 f noNames s c) :
    ∃ t, exec (.nop f) s = .next t ∧ Goes c t { c.slot with pc := nextPc c } (nextLoops c) c.g.stack := by
  rw [exec_nop_eq, issue_calm h h.form rfl]
  exact ⟨_, rfl, goes_settle h rfl rfl⟩

theorem exec_yield_eq (f : Fields) (s : State) : exec (.yield f) s = .next (issue 0x00B f noChecks noNames
    (fun c => .next (c.s.setGroup c.k (c.g.setSlot c.b { c.slot with
      yieldAt := some c.s.now, yieldFor := ((c.s.sched c.g.core c.g.sched).active.map (·.group)).filter (· != c.k) }))) s) := rfl

theorem exec_yield (h : Calm 0x00B f noNames s c) :
    ∃ t, exec (.yield f) s = .next t ∧
      Goes c t { c.slot with pc := nextPc c, yieldAt := some c.s.now,
                             yieldFor := ((c.s.sched c.g.core c.g.sched).active.map fun x => x.group).filter fun j => j != c.k }
        (nextLoops c) c.g.stack := by
  rw [exec_yield_eq, issue_calm h h.form rfl]
  exact ⟨_, rfl, goes_setSlot h rfl (writtenNames_noDest (by rw [h.opc_eq]; rfl)) _⟩

theorem exec_setfmt_eq (f : Fields) (s : State) : exec (.setfmt f) s = .next (issue 0x00C f noChecks noNames
    (fun c => .next (c.s.setGroup c.k (c.g.setSlot c.b { c.slot with fmt := formatBits (if f.imm32 then f.immediate else c.srcA.at 0) })))
    s fun c n => !f.imm32 && uniformA c n) := rfl

theorem exec_setfmt (h : Calm 0x00C f noNames s c) (hA : f.imm32 = true ∨ vectorValued c.g c.b c.opA = false) :
    ∃ t, exec (.setfmt f) s = .next t ∧
      Goes c t { c.slot with pc := nextPc c, fmt := (if f.imm32 then f.immediate else xA c 0) &&& 0x0FFF1FFF } (nextLoops c) c.g.stack := by
  have hown : operandChecks (fun c n => !f.imm32 && uniformA c n) c = none := by
    rcases hA with hA | hA <;> simp [operandChecks_eq, uniformA, hA]
  rw [exec_setfmt_eq, issue_own_calm h rfl hown]
  exact ⟨_, rfl, goes_setSlot h rfl (writtenNames_noDest (by rw [h.opc_eq]; rfl)) _⟩

theorem exec_setfmt_trap (h : Calm 0x00C f noNames s c) (himm : f.imm32 = false) (hA : vectorValued c.g c.b c.opA = true) :
    exec (.setfmt f) s = .next (s.takeTrap c.k (c.illegalOperand 2)) := by
  rw [exec_setfmt_eq, issue_own_trap (x := c.illegalOperand 2) h (by simp [operandChecks_eq, uniformA, himm, hA])]

theorem exec_wrmask_eq (f : Fields) (s : State) : exec (.wrmask f) s = .next (issue 0x00E f noChecks noNames
    (fun c => .next (c.s.setGroup c.k (c.g.setActive c.b (if f.fn = 0 then maskOf c.g.width fun l => (c.srcA.at l).getLsbD 0
      else (maskOf c.g.width fun l => (c.srcA.at l).getLsbD 0) &&& c.slot.active)))) s fun c n => n == 2 && !c.opA.isPred) := rfl

theorem exec_wrmask (h : Calm 0x00E f noNames s c) (hA : c.opA.isPred = true) : ∃ t, exec (.wrmask f) s = .next t ∧
    let p := maskOf c.g.width (fun l => (xA c l).getLsbD 0) &&& c.slot.owned
    let m := if f.fn = 0 then p else p &&& c.slot.active
    Goes c t { c.slot with pc := nextPc c, active := if m = 0 then c.slot.owned else m } (nextLoops c) c.g.stack := by
  have hown : operandChecks (fun c n => n == 2 && !c.opA.isPred) c = none := by simp [operandChecks_eq, hA]
  rw [exec_wrmask_eq, issue_own_calm h rfl hown]
  refine ⟨_, rfl, ?_⟩
  intro p m
  have hmask : (if f.fn = 0 then maskOf c.g.width fun l => (c.srcA.at l).getLsbD 0
      else (maskOf c.g.width fun l => (c.srcA.at l).getLsbD 0) &&& c.slot.active) &&& c.slot.owned = m := by
    show _ = if f.fn = 0 then p else p &&& c.slot.active
    split
    · rfl
    · rw [BitVec.and_assoc, BitVec.and_comm c.slot.active, ← BitVec.and_assoc]
      rfl
  have := goes_setSlot h rfl (writtenNames_noDest (by rw [h.opc_eq]; rfl)) { c.slot with active := if m = 0 then c.slot.owned else m }
  rw [← hmask] at this ⊢
  exact this

theorem exec_wrmask_trap (h : Calm 0x00E f noNames s c) (hA : c.opA.isPred = false) :
    exec (.wrmask f) s = .next (s.takeTrap c.k (c.illegalOperand 2)) := by
  rw [exec_wrmask_eq, issue_own_trap (x := c.illegalOperand 2) h (by simp [operandChecks_eq, hA])]

/-! ## `getfmt` (06, R145) -/

theorem giveResult_idle (h : c.any = false) (v : Value) : giveResult c v = .next c.s := by
  simp [giveResult, h]

theorem spread_eq_valueOf (c : Ctx) (x : Word) : spread c x = valueOf c fun _ => x := rfl

/-- A result that D and the last-result file take is an effect of a computing word. -/
theorem effect_result (h : Calm opc f names s c) (m : LaneMask) (v : Value) : Effect c (shiftResult (putDest c.g c.b m c.opD v) m v) := by
  refine ⟨?_, putDest_done h.windows⟩
  have hput := putDest_frame c.g c.b m c.opD v 0
  generalize putDest c.g c.b m c.opD v = P at *
  rw [shiftResult, hput]

namespace Retired

variable {v : Value}

theorem result (hT : Retired c (shiftResult (putDest c.g c.b c.act c.opD v) c.act v) T)
    (hG : Effect c (shiftResult (putDest c.g c.b c.act c.opD v) c.act v)) (hok : DestOk c.opD) : ResultGroup c c.g v T := by
  have hvregs := hT.vregs.trans (freeNames_vregs_congr _ _ _ (h := putDest c.g c.b c.act c.opD v) rfl rfl)
  refine ⟨hT.group_result hG, hT.slot, hT.other, hvregs, ?_, ?_, ?_, ?_, ?_, ?_, ?_, ?_, ?_, hT.loops, hT.latch hok⟩
  all_goals rw [hT.frame]; rfl

end Retired

/-- A word that gives one value leaves it in D and in the last-result file, sets no flag, and counts nothing (05, R107). -/
theorem settle_giveResult (h : Calm opc f destName s c) (hll : Forms.longLatency opc = false) (hd : (roles opc f).d = true)
    (hs : (roles opc f).dIsSrc = false) (hany : c.any = true) (x : Word) (hsat : ¬(c.opD.isScalar = true ∧ c.opD.index = 87)) :
    let t := settle c c.s (giveResult c (spread c x))
    Given c t (fun _ => x) ∧ (after c t).sat = c.g.sat ∧ t.launches = c.s.launches := by
  have hgive : giveResult c (spread c x) = .next (c.s.setGroup c.k
      (shiftResult (putDest c.g c.b c.act c.opD (valueOf c fun _ => x)) c.act (valueOf c fun _ => x))) := by
    rw [giveResult, hany]; rfl
  have hG := effect_result h c.act (valueOf c fun _ => x)
  obtain ⟨T, hT, hsettle⟩ := settle_retired h hll (Tbl.find?_set_self _ _ _) hG (u := c.s.setGroup c.k _) h.tracer
  obtain ⟨-, -, -, rfl, rfl⟩ := ctx_group h.ctx
  have hok := dest_ok h.form hd hs
  have hR := hT.result hG hok
  have hwritten : c.opD.cls = 0 → c.opD.index ∈ writtenNames c := fun h0 => by
    simp [writtenNames, hany, destName, hd, hs, Opnd.isVec, h0]
  have hlatch := hT.latch hok
  rw [heldPushes_ok h.form hd hs (hT.bothLive fun b => putDest_owned _ _ _ _ _ _ b)] at hlatch
  obtain ⟨hregs, hdest, hlast⟩ := regs_of_result (x := c.g.sat) hok hlatch hwritten hR
  rw [hgive, hsettle, setGroup_setGroup]
  refine ⟨⟨⟨rfl, fun j hj => setGroup_others _ _ _ hj, fun _ => rfl⟩, ?_, ?_, ?_, ?_⟩, ?_, rfl⟩
  all_goals rw [after_setGroup]
  · exact hR.frame
  · exact hregs
  · exact hdest
  · exact hlast
  · exact hR.sat.trans (putDest_sat hok hsat)

theorem exec_getfmt_eq (f : Fields) (s : State) : exec (.getfmt f) s = .next (issue 0x00D f noChecks destName
    (fun c => giveResult c (spread c c.slot.fmt)) s fun c n => n == 1 && readDestBad c) := rfl

/-- D of `getfmt` is a vector name, q0 or one of s0 to s59 (06, R145). -/
theorem readDestBad_eq_false_iff : readDestBad c = false ↔ c.opD.isVec = true ∨ c.opD.isQ0 = true ∨ c.opD.isScalar = true ∧ c.opD.index ≤ 59 := by
  rw [readDestBad, Bool.not_eq_false']
  simp [or_assoc]

theorem operandChecks_readDest : operandChecks (fun c n => n == 1 && readDestBad c) c = if readDestBad c then some (c.illegalOperand 1) else none := by
  simp [operandChecks_eq]

theorem exec_getfmt_settle (h : Calm 0x00D f destName s c) (hreads : readDestBad c = false) :
    exec (.getfmt f) s = .next (settle c c.s (giveResult c (spread c c.slot.fmt))) := by
  rw [exec_getfmt_eq, issue_own_calm h rfl (by rw [operandChecks_readDest, hreads]; rfl)]

theorem exec_getfmt_idle (h : Calm 0x00D f destName s c) (hreads : readDestBad c = false) (hany : c.any = false) :
    ∃ t, exec (.getfmt f) s = .next t ∧ Goes c t { c.slot with pc := nextPc c } (nextLoops c) c.g.stack := by
  rw [exec_getfmt_settle h hreads, giveResult_idle hany]
  exact ⟨_, rfl, goes_settle_unwritten h rfl (writtenNames_idle hany)⟩

theorem exec_getfmt_trap (h : Calm 0x00D f destName s c) (hreads : readDestBad c = true) :
    exec (.getfmt f) s = .next (s.takeTrap c.k (c.illegalOperand 1)) := by
  rw [exec_getfmt_eq, issue_own_trap h (by rw [operandChecks_readDest, hreads]; rfl)]

end

/-- Settles O17: each word by its own lemma, the slot it leaves by `goes_setSlot`. -/
theorem formatAndMaskWords : Obligations.FormatAndMaskWords := by
  intro f s c reads
  have hreads : readDestBad c = false ↔ reads := readDestBad_eq_false_iff
  refine ⟨exec_nop, exec_yield, fun h => ⟨exec_setfmt h, exec_setfmt_trap h⟩, fun h => ⟨exec_wrmask h, exec_wrmask_trap h⟩,
    fun h => ⟨fun hr hany => ?_, fun hr hany => exec_getfmt_idle h (hreads.2 hr) hany, fun hr => exec_getfmt_trap h ?_⟩⟩
  · rw [exec_getfmt_settle h (hreads.2 hr)]
    refine ⟨_, rfl, settle_giveResult h rfl rfl rfl hany _ ?_⟩
    rintro ⟨hscalar, hindex⟩
    rw [Opnd.isScalar, beq_iff_eq] at hscalar
    simp [reads, Opnd.isVec, Opnd.isQ0, Opnd.isScalar, hscalar, hindex] at hr
  · rwa [← Bool.not_eq_false, hreads]

end Sys2Proof.Machine

namespace Sys2Proof.Machine

open Sys2Proof.Spec

/-! ## Words with operand rules of their own (08, R194–R201) -/

section
variable {f : Fields} {opc : Nat} {s : State} {c : Ctx}

theorem operandChecks_uniformB : operandChecks (fun c n => noScalar c n || wantsUniform c c.opB 3 n) c =
    if c.opD.isScalar then some (c.illegalOperand 1) else if vectorValued c.g c.b c.opB then some (c.illegalOperand 3) else none := by
  simp [operandChecks_eq, noScalar, wantsUniform]

theorem operandChecks_vote : operandChecks (fun c n => noScalar c n || (f.mode == 1 && wantsUniform c c.opB 3 n)) c =
    if c.opD.isScalar then some (c.illegalOperand 1)
    else if f.mode = 1 ∧ vectorValued c.g c.b c.opB = true then some (c.illegalOperand 3) else none := by
  simp [operandChecks_eq, noScalar, wantsUniform]

theorem operandChecks_wrlane : operandChecks (fun c n => noScalar c n || wantsUniform c c.opA 2 n || wantsUniform c c.opB 3 n) c =
    if c.opD.isScalar then some (c.illegalOperand 1) else if vectorValued c.g c.b c.opA then some (c.illegalOperand 2)
    else if vectorValued c.g c.b c.opB then some (c.illegalOperand 3) else none := by
  simp [operandChecks_eq, noScalar, wantsUniform]

theorem operandChecks_noScalar_eq : operandChecks noScalar c = if c.opD.isScalar then some (c.illegalOperand 1) else none := by
  simp [operandChecks_eq, noScalar]

theorem ruled_trap {own : Ctx → Nat → Bool} {run : Ctx → Res} {x : TrapInfo} (h : Calm opc f destName s c) (hown : operandChecks own c = some x) :
    ruled opc f own run s = s.takeTrap c.k x :=
  issue_calm_trap h h.form hown

theorem ruled_calm {own : Ctx → Nat → Bool} {run : Ctx → Res} (h : Calm opc f destName s c) (hown : operandChecks own c = none) :
    ruled opc f own run s = settle c c.s (run c) :=
  issue_calm h h.form hown

/-- A word that gives a result `r` in each active lane, which its operand rules let pass, and whose results are right, computes. -/
theorem computes_ruled {i : Instr} {ctr : Nat} {own : Ctx → Nat → Bool} {cond : Ctx → Prop} {P : Ctx → Nat → Word → Prop} {r : Ctx → Nat → Word}
    (hexec : ∀ s, exec i s = .next (ruled opc f own (fun c => giveLanes c ctr fun l => plainSat (r c l)) s))
    (hll : Forms.longLatency opc = false) (hd : (roles opc f).d = true) (hs : (roles opc f).dIsSrc = false) (hctr : ctr < 63)
    (hown : ∀ c, cond c → operandChecks own c = none)
    (hright : ∀ s c, Calm opc f destName s c → cond c → c.any = true → ∀ l, P c l (r c l)) : Computes i opc f ctr cond P := by
  intro s c h hcond hany
  have hresult := settle_giveLanes h hll hd hs hany hctr fun l => plainSat (r c l)
  obtain ⟨hs', -⟩ := ctx_group h.ctx
  rw [hexec, ruled_calm h (hown c hcond), hs']
  exact ⟨_, _, rfl, hresult, hright s c h hcond hany⟩

/-! ## Another lane's word (08, R194–R196) -/

theorem lanev_eq (c : Ctx) (o : Opnd) (v : Value) (p : Int) : lanev c o v p =
    if p < 0 ∨ (c.g.width : Int) ≤ p ∨ ((o.isVec = true ∨ o.isPred = true) ∧ c.g.exited.getLsbD p.toNat = true) then 0 else v.at p.toNat := by
  simp [lanev, or_assoc]

theorem lanev_natCast (c : Ctx) (o : Opnd) (v : Value) (p : Nat) : lanev c o v p =
    if c.g.width ≤ p ∨ ((o.isVec = true ∨ o.isPred = true) ∧ c.g.exited.getLsbD p = true) then 0 else v.at p := by
  simp [lanev_eq, show ¬(p : Int) < 0 by omega]

theorem shflLane_eq (mode l n : Nat) : shflLane mode l n =
    if mode = 0 then (n : Int) else if mode = 1 then (l : Int) - n else if mode = 2 then (l : Int) + n else (Nat.xor l n : Nat) := by
  unfold shflLane
  split <;> simp_all

theorem computes_shfl (f : Fields) : Computes (.shfl f) 0x140 f ctrInt notScalar (fun c l x =>
    let n : Int := (xB c l).toNat
    let p : Int := if f.mode = 0 then n else if f.mode = 1 then l - n else if f.mode = 2 then l + n else (Nat.xor l (xB c l).toNat : Nat)
    x = if p < 0 ∨ (c.g.width : Int) ≤ p ∨ ((c.opA.isVec = true ∨ c.opA.isPred = true) ∧ c.g.exited.getLsbD p.toNat = true) then 0
        else xA c p.toNat) := by
  refine computes_ruled (r := fun c l => lanev c c.opA c.srcA (shflLane f.mode l (c.srcB.at l).toNat)) (fun s => rfl) rfl rfl rfl (by decide)
    (fun c hcond => operandChecks_noScalar hcond) fun s c _ _ _ l => ?_
  rw [lanev_eq, shflLane_eq]
  rfl

theorem computes_rdlane (f : Fields) : Computes (.rdlane f) 0x146 f ctrInt (fun c => notScalar c ∧ vectorValued c.g c.b c.opB = false) (fun c _ x =>
    let p := (xB c 0).toNat
    x = if c.g.width ≤ p ∨ ((c.opA.isVec = true ∨ c.opA.isPred = true) ∧ c.g.exited.getLsbD p = true) then 0 else xA c p) := by
  refine computes_ruled (r := fun c _ => lanev c c.opA c.srcA (c.srcB.at 0).toNat) (fun s => rfl) rfl rfl rfl (by decide)
    (fun c ⟨hD, hB⟩ => ?_) fun s c _ _ _ l => ?_
  · rw [notScalar] at hD
    rw [operandChecks_uniformB, hD, hB]
    rfl
  · rw [lanev_natCast]
    rfl

/-! ## The elements of a lane (07, Table 7.2) -/

theorem elem_eq {w : Nat} (hw : 0 < w) (x : Word) (k : Nat) : elem w x k = x.toNat / 2 ^ (w * k) % 2 ^ w := by
  rw [elem, bitsOf, Nat.shiftRight_eq_div_pow, show w * k + w - 1 + 1 - w * k = w by omega]

/-- Elements side by side, element 0 lowest. -/
def joined (w : Nat) (es : List Nat) : Nat := es.foldr (fun e acc => acc * 2 ^ w + e % 2 ^ w) 0

theorem joined_cons (w e : Nat) (es : List Nat) : joined w (e :: es) = joined w es * 2 ^ w + e % 2 ^ w := rfl

theorem joined_lt (w : Nat) (es : List Nat) : joined w es < 2 ^ (w * es.length) := by
  induction es with
  | nil => simp [joined]
  | cons e es ih =>
    have hlow : e % 2 ^ w < 2 ^ w := Nat.mod_lt _ (Nat.two_pow_pos w)
    calc joined w es * 2 ^ w + e % 2 ^ w < (joined w es + 1) * 2 ^ w := by rw [Nat.add_mul]; omega
      _ ≤ 2 ^ (w * es.length) * 2 ^ w := Nat.mul_le_mul_right _ ih
      _ = 2 ^ (w * (e :: es).length) := by rw [List.length_cons, Nat.mul_succ, Nat.pow_add]

theorem joined_elem (w : Nat) {es : List Nat} {k : Nat} (h : k < es.length) : joined w es / 2 ^ (w * k) % 2 ^ w = es[k] % 2 ^ w := by
  induction es generalizing k with
  | nil => cases h
  | cons e es ih =>
    have hlow : e % 2 ^ w < 2 ^ w := Nat.mod_lt _ (Nat.two_pow_pos w)
    rw [joined_cons]
    cases k with
    | zero => simp
    | succ k =>
      have hhigh : (joined w es * 2 ^ w + e % 2 ^ w) / 2 ^ w = joined w es := by
        rw [Nat.mul_comm, Nat.mul_add_div (Nat.two_pow_pos w), Nat.div_eq_of_lt hlow, Nat.add_zero]
      rw [show w * (k + 1) = w + w * k by ring, Nat.pow_add, ← Nat.div_div_eq_div_mul, hhigh, ih (Nat.lt_of_succ_lt_succ h),
        List.getElem_cons_succ]

/-- A lane put together from elements has each of them. -/
theorem ofElems_elem {w : Nat} {es : List Nat} {k : Nat} (hfit : w * es.length ≤ 32) (h : k < es.length) :
    (ofElems w es).toNat / 2 ^ (w * k) % 2 ^ w = es[k] % 2 ^ w := by
  have hlt : joined w es < 2 ^ 32 := lt_of_lt_of_le (joined_lt w es) (Nat.pow_le_pow_right (by decide) hfit)
  rw [← joined_elem w h, show (ofElems w es).toNat = joined w es from (BitVec.toNat_ofNat _ _).trans (Nat.mod_eq_of_lt hlt)]

theorem tw_pos (t : Nat) : 0 < tw t ∧ tw t * (32 / tw t) = 32 := by
  unfold tw
  split_ifs <;> decide

/-- Where an element of a `slide` comes from (08, R196). -/
theorem slideFrom_select (mode count n i : Nat) (a z : Nat → Nat) :
    (if (slideFrom (mode == 1) count n i).1 then z (slideFrom (mode == 1) count n i).2 else a (slideFrom (mode == 1) count n i).2) =
      if mode = 1 then (if i + n < count then a (i + n) else z (i + n - count)) else if n ≤ i then a (i - n) else z (count - n + i) := by
  unfold slideFrom
  by_cases hm : mode = 1
  · by_cases h : i + n < count <;> simp [hm, h]
  · by_cases h : n ≤ i <;> simp [hm, h]

theorem computes_slide (f : Fields) : Computes (.slide f) 0x141 f ctrInt (fun c => notScalar c ∧ vectorValued c.g c.b c.opB = false) (fun c l x =>
    let e := 32 / tw f.type
    let total := c.g.width * e
    let n := min (xB c 0).toNat total
    let el (y : Word) (k : Nat) : Nat := y.toNat / 2 ^ (tw f.type * k) % 2 ^ tw f.type
    let src (o : Opnd) (v : Value) (i : Nat) : Nat := el (lanev c o v ((i / e : Nat) : Int)) (i % e)
    let a := src c.opA (typed (immOf f) c.opA false c.srcA)
    let z := src c.opC (typed (immOf f) c.opC false c.srcC)
    ∀ k, k < e →
      let i := l * e + k
      el x k = if f.mode = 1 then (if i + n < total then a (i + n) else z (i + n - total))
               else (if n ≤ i then a (i - n) else z (total - n + i))) := by
  obtain ⟨hw, hfit⟩ := tw_pos f.type
  refine computes_ruled (r := fun c l => ofElems (tw f.type) ((List.range (32 / tw f.type)).map fun k =>
      let x := slideFrom (f.mode == 1) (c.g.width * (32 / tw f.type)) (min (c.srcB.at 0).toNat (c.g.width * (32 / tw f.type)))
        (l * (32 / tw f.type) + k)
      elem (tw f.type) (if x.1 then lanev c c.opC (typed (immOf f) c.opC false c.srcC) (x.2 / (32 / tw f.type) : Nat)
        else lanev c c.opA (typed (immOf f) c.opA false c.srcA) (x.2 / (32 / tw f.type) : Nat)) (x.2 % (32 / tw f.type))))
    (fun s => rfl) rfl rfl rfl (by decide) (fun c ⟨hD, hB⟩ => ?_) fun s c _ _ _ l => ?_
  · rw [notScalar] at hD
    rw [operandChecks_uniformB, hD, hB]
    rfl
  · intro e total n el src a z k hk i
    have helem (y : Word) (j : Nat) : elem (tw f.type) y j = el y j := elem_eq hw y j
    have hsmall (y : Word) (j : Nat) : el y j % 2 ^ tw f.type = el y j := Nat.mod_mod _ _
    show _ / _ % _ = _
    rw [ofElems_elem (by simp [hfit]) (by simpa using hk)]
    have hread (x : Bool × Nat) : el (if x.1 then lanev c c.opC (typed (immOf f) c.opC false c.srcC) (x.2 / e : Nat)
        else lanev c c.opA (typed (immOf f) c.opA false c.srcA) (x.2 / e : Nat)) (x.2 % e) = if x.1 then z x.2 else a x.2 := by
      cases x.1 <;> rfl
    simp only [List.getElem_map, List.getElem_range, helem, hsmall]
    rw [hread, slideFrom_select]
    rfl

/-- Lanes that all hold what the first of them holds hold one value. -/
theorem all_eq_head_iff (x : Nat → Word) (l : Nat) (ls : List Nat) :
    ((l :: ls).all fun i => x i == x ((l :: ls).headD 0)) = true ↔ ∀ i ∈ l :: ls, ∀ j ∈ l :: ls, x i = x j := by
  rw [List.all_eq_true]
  exact ⟨fun h i hi j hj => (beq_iff_eq.1 (h i hi)).trans (beq_iff_eq.1 (h j hj)).symm,
    fun h i hi => beq_iff_eq.2 (h i hi l List.mem_cons_self)⟩

theorem ones_le (c : Ctx) : ones c ≤ 96 :=
  ((List.length_filter_le _ _).trans (List.length_filter_le _ _)).trans (by simp)

theorem lanesOf_ne_nil (h : c.any = true) : lanesOf c.act ≠ [] := fun hnil => lanes_ne_zero (by simpa [Ctx.any] using h) (by rw [hnil]; rfl)

theorem computes_vote (f : Fields) : Computes (.vote f) 0x142 f ctrInt
    (fun c => notScalar c ∧ (f.mode = 1 → vectorValued c.g c.b c.opB = false)) (fun c _ x =>
      let n := ((lanesOf c.act).filter fun l => (xA c l).getLsbD 0).length
      let q := if xB c 0 = 0 then c.lanes else (xB c 0).toNat
      (f.mode = 0 → x.toNat = n) ∧ (f.mode = 1 → x = if q ≤ n then 1 else 0) ∧
      (f.mode = 2 → (x = 1 ↔ ∀ i ∈ lanesOf c.act, ∀ j ∈ lanesOf c.act, xA c i = xA c j) ∧ (x = 0 ∨ x = 1))) := by
  refine computes_ruled (r := fun c _ => match f.mode with
      | 0 => BitVec.ofNat 32 (ones c)
      | 1 => if (if c.srcB.at 0 = 0 then (lanesOf c.act).length else (c.srcB.at 0).toNat) ≤ ones c then 1 else 0
      | _ => if (lanesOf c.act).all fun l => c.srcA.at l == c.srcA.at ((lanesOf c.act).headD 0) then 1 else 0)
    (fun s => rfl) rfl rfl rfl (by decide) (fun c ⟨hD, hB⟩ => ?_) fun s c _ _ hany _ => ⟨fun hm => ?_, fun hm => ?_, fun hm => ?_⟩
  · rw [notScalar] at hD
    rw [operandChecks_vote, hD, if_neg (by decide), if_neg]
    rintro ⟨hm, hB'⟩
    rw [hB hm] at hB'
    cases hB'
  · simp only [hm]
    rw [BitVec.toNat_ofNat, Nat.mod_eq_of_lt (lt_of_le_of_lt (ones_le c) (by decide))]
    rfl
  · simp only [hm]
    rfl
  · obtain ⟨l, ls, hlanes⟩ := List.exists_cons_of_ne_nil (lanesOf_ne_nil hany)
    simp only [hm, hlanes]
    rw [← all_eq_head_iff]
    split
    · rename_i h
      exact ⟨⟨fun _ => h, fun _ => rfl⟩, .inr rfl⟩
    · rename_i h
      exact ⟨⟨fun h0 => absurd h0 (by decide), fun h1 => absurd h1 h⟩, .inl rfl⟩

theorem computes_ballot (f : Fields) : Computes (.ballot f) 0x143 f ctrInt notScalar (fun c _ x => ∀ i, i < 32 → x.getLsbD i =
    (decide (32 * f.mode + i < c.g.width) && c.act.getLsbD (32 * f.mode + i) && (xA c (32 * f.mode + i)).getLsbD 0)) := by
  refine computes_ruled (r := fun c _ => BitVec.ofNat 32
      ((maskOf c.g.width fun l => c.act.getLsbD l && (c.srcA.at l).getLsbD 0).toNat >>> (32 * f.mode)))
    (fun s => rfl) rfl rfl rfl (by decide) (fun c hD => operandChecks_noScalar hD) fun s c _ _ _ _ i hi => ?_
  rw [BitVec.getLsbD_ofNat, Nat.testBit_shiftRight, decide_eq_true hi, Bool.true_and, BitVec.testBit_toNat]
  by_cases hl : 32 * f.mode + i < 96
  · rw [maskOf_getLsbD _ _ hl, Bool.and_assoc]
    rfl
  · rw [BitVec.getLsbD_of_ge _ _ (by omega), BitVec.getLsbD_of_ge c.act _ (by omega), Bool.and_false, Bool.false_and]

end
end Sys2Proof.Machine

namespace Sys2Proof.Machine

open Sys2Proof.Spec

/-! ## LAST on uniform sources (05, R100, R105) -/

section
variable {c : Ctx} {own : Ctx → Nat → Bool}

theorem sources_of_first {d a b e : Bool}
    (h : (if d then some 1 else if a then some 2 else if b then some 3 else if e then some 4 else none) = (none : Option Nat)) :
    a = false ∧ b = false := by
  grind

/-- The A and B of a word of legal form break no rule on sources (05, R109). -/
theorem sources_ok (hform : formTrap c own = none) :
    ((roles c.opc c.f).a = true → sourceBad c.g c.b c.record.vregs (roles c.opc c.f) c.f c.opA = false) ∧
      ((roles c.opc c.f).b = true → c.f.imm32 = false → sourceBad c.g c.b c.record.vregs (roles c.opc c.f) c.f c.opB = false) := by
  unfold formTrap at hform
  split at hform
  · cases hform
  · cases hform
  · split at hform
    · cases hform
    rw [Option.map_eq_none_iff] at hform
    unfold operandFault at hform
    obtain ⟨hA, hB⟩ := sources_of_first hform
    simp only [Bool.or_eq_false_iff, Bool.and_eq_false_imp] at hA hB
    exact ⟨fun ha => (hA.1 ha).1.1, fun hb himm => (hB.1 (by simp [hb, himm])).1.1⟩

/-- LAST stands on vector names alone, so on no uniform source (05, R100, R105). -/
theorem last_of_uniform {g : Group} {b : Bool} {vregs : Nat} {r : Roles} {f : Fields} {o : Opnd} (hok : sourceBad g b vregs r f o = false)
    (hu : vectorValued g b o = false) : o.last = false := by
  have hvec : o.isVec = false := by
    by_contra hv
    rw [Bool.not_eq_false, Opnd.isVec, beq_iff_eq] at hv
    rw [vectorValued, hv] at hu
    cases hu
  simp only [sourceBad, hvec, Bool.or_eq_false_iff, Bool.not_false, Bool.and_true] at hok
  obtain ⟨⟨⟨⟨⟨-, hlast⟩, -⟩, -⟩, -⟩, -⟩ := hok
  exact hlast

theorem lastFrees_uniform (hform : formTrap c own = none) (hA : vectorValued c.g c.b c.opA = false) (hB : vectorValued c.g c.b c.opB = false)
    (hc : (roles c.opc c.f).c = false) : lastFrees c = [] := by
  obtain ⟨hokA, hokB⟩ := sources_ok hform
  have ha : ((roles c.opc c.f).a && c.opA.last) = false := by
    rw [Bool.and_eq_false_imp]
    exact fun h => last_of_uniform (hokA h) hA
  have hb : ((roles c.opc c.f).b && !c.f.imm32 && c.opB.last) = false := by
    rw [Bool.and_eq_false_imp]
    intro h
    rw [Bool.and_eq_true, Bool.not_eq_true'] at h
    exact last_of_uniform (hokB h.1 h.2) hB
  rw [lastFrees, ha, hb, hc]
  rfl

end

/-! ## The write of some lanes of a register -/

section
variable {c : Ctx} {opc : Nat} {f : Fields} {names : Ctx → List Nat} {own : Ctx → Nat → Bool} {s : State} {m : LaneMask} {R : Nat → Word} {P G T : Group}

/-- The group `P` has the words of `R` in the lanes `m` of D, a vector name or a predicate, and nothing else is other. -/
structure Wrote (c : Ctx) (m : LaneMask) (R : Nat → Word) (P : Group) : Prop where
  frame : P = { c.g with vregs := P.vregs, preds := P.preds, windows := P.windows }
  vecs  : ∀ n, ¬(c.opD.isVec = true ∧ c.opD.index = n) → P.vregs.find? n = c.g.vregs.find? n
  preds : ∀ n, ¬(c.opD.isPred = true ∧ c.opD.index = n + 16) → n < 7 → P.preds.getD n 0 = c.g.preds.getD n 0
  vec   : c.opD.isVec = true → ∀ l, l < c.g.width →
    (P.vreg c.opD.index).vals.getD l 0 = if m.getLsbD l then R l else (c.g.vreg c.opD.index).vals.getD l 0
  pred  : c.opD.isPred = true → ∀ l, l < c.g.width → l < 96 →
    (P.pred (c.opD.index - 16)).getLsbD l = if m.getLsbD l then (R l).getLsbD 0 else (c.g.pred (c.opD.index - 16)).getLsbD l

theorem wrote_none (c : Ctx) (R : Nat → Word) : Wrote c 0 R c.g :=
  ⟨rfl, fun _ _ => rfl, fun _ _ _ => rfl, fun _ _ _ => by simp, fun _ _ _ _ => by simp⟩

theorem putDest_vec (g : Group) (b : Bool) (m : LaneMask) {o : Opnd} (v : Value) (h : o.cls = 0) :
    putDest g b m o v = (g.dropShadow (.v o.index)).putVec o.index m v.at := by
  simp only [putDest, h]

theorem putDest_pred (g : Group) (b : Bool) (m : LaneMask) {o : Opnd} (v : Value) (h : o.cls = 1) (h8 : o.index ≠ 8) :
    putDest g b m o v = (g.dropShadow (.p (o.index - 16))).putPred (o.index - 16) m (maskOf g.width fun l => (v.at l).getLsbD 0) := by
  simp only [putDest, h, h8, if_false]

theorem putDest_q0 (g : Group) (b : Bool) (m : LaneMask) {o : Opnd} (v : Value) (h : o.cls = 1) (h8 : o.index = 8) :
    putDest g b m o v = g := by
  simp only [putDest, h, h8, if_true]

theorem wrote_vec (h : c.opD.cls = 0) : Wrote c m R (putDest c.g c.b m c.opD (.lanes c.g.width R)) := by
  have hpred : c.opD.isPred = false := by rw [Opnd.isPred, h]; rfl
  have hvec : c.opD.isVec = true := by rw [Opnd.isVec, h]; rfl
  have hdrop := dropShadow_frame c.g (.v c.opD.index)
  rw [putDest_vec _ _ _ _ h]
  refine ⟨?_, fun n hn => ?_, fun n _ _ => ?_, fun _ l hl => ?_, fun hp => ?_⟩
  · rw [Group.putVec, hdrop]
  · rw [Group.putVec]
    exact (Tbl.find?_set_ne _ _ fun e => hn ⟨hvec, e.symm⟩).trans (by rw [dropShadow_vregs])
  · rw [Group.putVec, hdrop]
  · rw [vreg_putVec_self _ _ _ _ _ (by rw [dropShadow_width]; exact hl), dropShadow_vreg, lanes_at hl]
  · rw [hpred] at hp; cases hp

theorem wrote_pred (h : c.opD.cls = 1) (hi : 16 ≤ c.opD.index ∧ c.opD.index ≤ 22) :
    Wrote c m R (putDest c.g c.b m c.opD (.lanes c.g.width R)) := by
  have hvec : c.opD.isVec = false := by rw [Opnd.isVec, h]; rfl
  have hdrop := dropShadow_frame c.g (.p (c.opD.index - 16))
  rw [putDest_pred _ _ _ _ h (by omega)]
  refine ⟨?_, fun n _ => ?_, fun n hn hlt => ?_, fun hv => ?_, fun _ l hl hl' => ?_⟩
  · rw [Group.putPred, hdrop]
  · rw [Group.putPred, hdrop]
  · rw [preds_putPred_ne hlt fun e => hn ⟨by simp [Opnd.isPred, h, hi.1], by omega⟩, hdrop]
  · rw [hvec] at hv; cases hv
  · rw [pred_putPred (by omega), dropShadow_pred]
    simp only [BitVec.getLsbD_or, BitVec.getLsbD_and, BitVec.getLsbD_not, maskOf_getLsbD _ _ hl', hl, hl', decide_true, Bool.true_and,
      lanes_at hl]
    cases m.getLsbD l <;> simp

theorem wrote_q0 (h : c.opD.cls = 1) (h8 : c.opD.index = 8) : Wrote c m R (putDest c.g c.b m c.opD (.lanes c.g.width R)) := by
  have hvec : c.opD.isVec = false := by rw [Opnd.isVec, h]; rfl
  have hpred : c.opD.isPred = false := by rw [Opnd.isPred, h8]; simp
  rw [putDest_q0 _ _ _ _ h h8]
  refine ⟨rfl, fun _ _ => rfl, fun _ _ _ => rfl, fun hv => ?_, fun hp => ?_⟩
  · rw [hvec] at hv; cases hv
  · rw [hpred] at hp; cases hp

theorem wrote_putDest (hok : DestOk c.opD) (hs : c.opD.isScalar = false) : Wrote c m R (putDest c.g c.b m c.opD (.lanes c.g.width R)) := by
  rcases hok with h | ⟨h, h8 | hi⟩ | ⟨h, -⟩
  · exact wrote_vec h
  · exact wrote_q0 h h8
  · exact wrote_pred h hi
  · rw [Opnd.isScalar, h] at hs
    cases hs

/-- The word wrote `P`, which LAST frees nothing of and which may have moved to the last-result file as `G`, and has retired: every register
but D is as it was. -/
theorem Retired.otherRegs (hT : Retired c G T) (hW : Wrote c m R P) (hG : G = { P with q0 := G.q0, q1 := G.q1 }) (hok : DestOk c.opD)
    (hs : c.opD.isScalar = false) (hform : formTrap c own = none) (hd : (roles c.opc c.f).d = true) (hsrc : (roles c.opc c.f).dIsSrc = false) :
    OtherRegs c T := by
  have hslotG (b : Bool) : G.slot b = c.g.slot b := by rw [hG, hW.frame]; rfl
  have hlatch := hT.latch hok
  rw [heldPushes_ok hform hd hsrc (hT.bothLive fun b => by rw [hslotG])] at hlatch
  have hslot : T.slot c.b = { c.slot with pc := nextPc c } := by rw [hT.slot, hslotG]; rfl
  refine ⟨fun n hn hf => ?_, fun n hn hlt => ?_, fun n _ => ?_, fun _ => ?_, fun _ => ?_, fun _ => ?_, fun _ => hslot, ?_, ?_, hT.loops, hlatch,
    fun n _ => ?_⟩
  · rw [hT.vregs, find?_freeNames_not hf, hG]
    exact hW.vecs n hn
  · rw [hT.frame, hG]
    exact hW.preds n hn hlt
  · rw [hT.frame, hG, hW.frame]
  · rw [hT.frame, hG, hW.frame]
  · rw [hT.frame, hG, hW.frame]
  · rw [hT.frame, hG, hW.frame]
  · rw [hslot]
  · rw [hT.other, hslotG]
  · rw [hT.frame, hG, hW.frame, hs]
    simp

theorem effect_wrote (hW : Wrote c m R P) (hdone : NoneDone P.windows) : Effect c P := by
  refine ⟨?_, hdone⟩
  rw [hW.frame]

theorem effect_shiftResult (hP : Effect c P) (m : LaneMask) (v : Value) : Effect c (shiftResult P m v) := by
  refine ⟨?_, hP.done⟩
  rw [shiftResult, hP.frame]

/-- A word whose effect is counted retires in its group, and nothing else but the launches' counters is other (17, R381, R382). -/
theorem settle_counted (h : Calm opc f names s c own) (hll : Forms.longLatency opc = false) (hG : Effect c G) (ctr n : Nat) :
    ∃ T t, Retired c G T ∧ settle c c.s (.next (c.count ctr n (c.s.setGroup c.k G))) = t ∧ OnlyGroup c t ∧ after c t = T ∧
      t.launches = ((c.s.setGroup c.k G).count c.launchKey ctr n).launches := by
  obtain ⟨hgroups, hframe, hmeters⟩ := count_frame (c.s.setGroup c.k G) c.launchKey ctr n
  have htracer : ((c.s.setGroup c.k G).count c.launchKey ctr n).tracer c.g = none := by
    rw [← h.tracer]
    refine tracer_congr ?_ ?_ ?_ hmeters
    · rw [hframe]; rfl
    · rw [hframe]; rfl
    · rw [hframe]; rfl
  have hfind : ((c.s.setGroup c.k G).count c.launchKey ctr n).groups.find? c.k = some G := by
    rw [hgroups]; exact Tbl.find?_set_self _ _ _
  obtain ⟨T, hT, hsettle⟩ := settle_retired h hll hfind hG htracer
  refine ⟨T, _, hT, hsettle, ⟨?_, fun j hj => ?_, hmeters⟩, after_setGroup _ _ _, rfl⟩
  · rw [hframe]; rfl
  · rw [setGroup_others _ _ _ hj, hgroups]
    exact setGroup_others _ _ _ hj

/-! ## `wrlane` (08, R199) -/

/-- The lane that `wrlane` writes, where it is active. -/
def wrlaneMask (c : Ctx) : LaneMask := if (c.srcB.at 0).toNat < c.g.width then c.act &&& BitVec.ofNat 96 (2 ^ (c.srcB.at 0).toNat) else 0

theorem wrlaneMask_getLsbD (c : Ctx) {l : Nat} (hl : l < c.g.width) :
    (wrlaneMask c).getLsbD l = (decide (l = (xB c 0).toNat) && c.act.getLsbD l) := by
  show _ = (decide (l = (c.srcB.at 0).toNat) && c.act.getLsbD l)
  unfold wrlaneMask
  generalize (c.srcB.at 0).toNat = n
  by_cases h96 : l < 96
  · by_cases hn : n < c.g.width
    · rw [if_pos hn, BitVec.getLsbD_and, BitVec.getLsbD_ofNat, Nat.testBit_two_pow, decide_eq_true h96, Bool.true_and, Bool.and_comm]
      simp [eq_comm]
    · rw [if_neg hn, decide_eq_false (by omega)]
      simp
  · rw [BitVec.getLsbD_of_ge _ _ (by omega), BitVec.getLsbD_of_ge c.act _ (by omega), Bool.and_false]

/-- The group that `wrlane` leaves, before its last results. -/
def wrlanePut (c : Ctx) : Group :=
  if wrlaneMask c = 0 then c.g else putDest c.g c.b (wrlaneMask c) c.opD (.lanes c.g.width fun _ => c.srcA.at 0)

theorem exec_wrlane_eq (f : Fields) (s : State) : exec (.wrlane f) s = .next (ruled 0x147 f
    (fun c n => noScalar c n || wantsUniform c c.opA 2 n || wantsUniform c c.opB 3 n)
    (fun c => if !c.any then .next c.s else .next (c.count ctrInt c.lanes (c.s.setGroup c.k
      (shiftResult (wrlanePut c) (wrlaneMask c) (.lanes c.g.width fun _ => c.srcA.at 0))))) s) := rfl

theorem wrote_wrlanePut (hok : DestOk c.opD) (hs : c.opD.isScalar = false) : Wrote c (wrlaneMask c) (fun _ => xA c 0) (wrlanePut c) := by
  unfold wrlanePut
  split
  · rename_i h0
    rw [h0]
    exact wrote_none c _
  · exact wrote_putDest hok hs

theorem wrlanePut_done (h : Calm opc f names s c own) : NoneDone (wrlanePut c).windows := by
  unfold wrlanePut
  split
  · exact h.windows
  · exact putDest_done h.windows

theorem Retired.vregs_kept (hT : Retired c G T) (hfree : lastFrees c = []) : T.vregs = G.vregs := by
  rw [hT.vregs, hfree]
  rfl

theorem vreg_congr {g g' : Group} (hv : g.vregs = g'.vregs) (hw : g.width = g'.width) (n : Nat) : g.vreg n = g'.vreg n := by
  rw [Group.vreg, Group.vreg, hv, hw]

theorem pred_congr {g g' : Group} (hp : g.preds = g'.preds) (hw : g.width = g'.width) (n : Nat) : g.pred n = g'.pred n := by
  rw [Group.pred, Group.pred, Group.allLanes, Group.allLanes, hp, hw]

/-- What `wrlane` leaves with no lane active: no register, and no counter, is other. -/
theorem wrlane_idle (h : Calm 0x147 f destName s c) (hs : c.opD.isScalar = false) (hfree : lastFrees c = []) :
    let t := settle c c.s (.next c.s)
    OnlyGroup c t ∧ OnlyResult c (after c t) ∧ OtherRegs c (after c t) ∧ (after c t).sat = c.g.sat ∧ t.launches = c.s.launches ∧
      (after c t).vregs = c.g.vregs ∧ (after c t).preds = c.g.preds ∧ (after c t).q0 = c.g.q0 ∧ (after c t).q1 = c.g.q1 := by
  obtain ⟨T, hT, hsettle⟩ := settle_retired h rfl h.group (effect_none h) h.tracer
  have hd : (roles c.opc c.f).d = true ∧ (roles c.opc c.f).dIsSrc = false := by rw [h.opc_eq]; exact ⟨rfl, rfl⟩
  have hother := hT.otherRegs (wrote_none c fun _ => 0) rfl (dest_ok h.form hd.1 hd.2) hs h.form hd.1 hd.2
  rw [hsettle]
  refine ⟨⟨rfl, fun j hj => setGroup_others _ _ _ hj, fun _ => rfl⟩, ?_⟩
  rw [after_setGroup]
  refine ⟨hT.group_result (effect_none h), hother, ?_, rfl, hT.vregs_kept hfree, ?_, ?_, ?_⟩ <;> rw [hT.frame]

/-- What `wrlane` leaves with a lane active: A in the lane of D that B names, where it is active. -/
theorem wrlane_active (h : Calm 0x147 f destName s c) (hs : c.opD.isScalar = false) (hfree : lastFrees c = []) (hany : c.any = true) :
    let hit (l : Nat) : Bool := decide (l = (xB c 0).toNat) && c.act.getLsbD l
    let t := settle c c.s (.next (c.count ctrInt c.lanes (c.s.setGroup c.k
      (shiftResult (wrlanePut c) (wrlaneMask c) (.lanes c.g.width fun _ => c.srcA.at 0)))))
    OnlyGroup c t ∧ OnlyResult c (after c t) ∧ OtherRegs c (after c t) ∧ (after c t).sat = c.g.sat ∧ Metered c ctrInt t ∧
      (after c t).q1 = c.g.q0 ∧ (∃ v, (after c t).q0 = some v ∧ v.vec = true ∧ ∀ l, l < c.g.width → v.at l = if hit l then xA c 0 else 0) ∧
      ∀ l, l < c.g.width → l < 96 →
        (c.opD.isVec = true → ((after c t).vreg c.opD.index).vals.getD l 0 = if hit l then xA c 0 else (c.g.vreg c.opD.index).vals.getD l 0) ∧
        (c.opD.isPred = true → ((after c t).pred (c.opD.index - 16)).getLsbD l =
          if hit l then (xA c 0).getLsbD 0 else (c.g.pred (c.opD.index - 16)).getLsbD l) := by
  intro hit
  have hd : (roles c.opc c.f).d = true ∧ (roles c.opc c.f).dIsSrc = false := by rw [h.opc_eq]; exact ⟨rfl, rfl⟩
  have hok := dest_ok h.form hd.1 hd.2
  have hW := wrote_wrlanePut hok hs
  have hdone := wrlanePut_done h
  have hmask {l : Nat} (hl : l < c.g.width) : (wrlaneMask c).getLsbD l = hit l := wrlaneMask_getLsbD c hl
  generalize wrlaneMask c = m at *
  generalize wrlanePut c = P at *
  have hG := effect_shiftResult (effect_wrote hW hdone) m (.lanes c.g.width fun _ => c.srcA.at 0)
  have hwidth : P.width = c.g.width := by rw [hW.frame]
  obtain ⟨T, t, hT, hsettle, honly, hafter, hlaunches⟩ := settle_counted h rfl hG ctrInt c.lanes
  have hother := hT.otherRegs hW rfl hok hs h.form hd.1 hd.2
  have hwidthT : T.width = P.width := by rw [hT.frame]; rfl
  have hpreds : T.preds = P.preds := by rw [hT.frame]; rfl
  rw [hsettle]
  refine ⟨honly, ?_⟩
  rw [hafter]
  refine ⟨hT.group_result hG, hother, ?_, fun hstopped => ?_, ?_,
    ⟨.lanes P.width fun l => if m.getLsbD l then (Value.lanes c.g.width fun _ => c.srcA.at 0).at l else 0, ?_, rfl, fun l hl => ?_⟩,
    fun l hl hl96 => ⟨fun hv => ?_, fun hp => ?_⟩⟩
  · rw [hT.frame]
    show P.sat = _
    rw [hW.frame]
  · have hlanes : c.lanes ≠ 0 := lanes_ne_zero (by simpa [Ctx.any] using hany)
    have hcount := count_self (s := c.s.setGroup c.k (shiftResult P m (.lanes c.g.width fun _ => c.srcA.at 0))) (l := c.launchKey)
      (by decide : ctrInt < 63) hlanes hstopped
    rw [hs, State.launch, hlaunches]
    exact hcount
  · rw [hT.frame]
    show P.q0 = _
    rw [hW.frame]
  · rw [hT.frame]
    rfl
  · rw [lanes_at (by rw [hwidth]; exact hl), lanes_at hl, hmask hl]
    rfl
  · rw [vreg_congr (hT.vregs_kept hfree) hwidthT, ← hmask hl]
    exact hW.vec hv l hl
  · rw [pred_congr hpreds hwidthT, ← hmask hl]
    exact hW.pred hp l hl hl96

theorem writeLane : partWriteLane := by
  intro f s c h i hit uA uB
  have hchecks := operandChecks_wrlane (c := c)
  refine ⟨fun hs hA hB => ?_, fun hs => ?_, fun hs hA => ?_, fun hs hA hB => ?_⟩
  · have hfree : lastFrees c = [] := lastFrees_uniform h.form hA hB (by rw [h.opc_eq]; rfl)
    rw [hs, hA, hB] at hchecks
    rw [exec_wrlane_eq, ruled_calm h hchecks]
    cases hany : c.any
    · obtain ⟨honly, hresult, hother, hsat, hidle⟩ := wrlane_idle h hs hfree
      exact ⟨_, rfl, honly, hresult, hother, hsat, fun _ => hidle, nofun⟩
    · obtain ⟨honly, hresult, hother, hsat, hactive⟩ := wrlane_active h hs hfree hany
      exact ⟨_, rfl, honly, hresult, hother, hsat, nofun, fun _ => hactive⟩
  · rw [hs] at hchecks
    rw [exec_wrlane_eq, ruled_trap h hchecks]
  · rw [hs, Bool.eq_true_of_not_eq_false hA] at hchecks
    rw [exec_wrlane_eq, ruled_trap h hchecks]
  · rw [hs, hA, Bool.eq_true_of_not_eq_false hB] at hchecks
    rw [exec_wrlane_eq, ruled_trap h hchecks]

end

/-! ## Cross-lane words (08, R194–R199) -/

section
variable {f : Fields} {s : State} {c : Ctx}

theorem exec_ruled_trap {x : Host.Outcome State Fault Refusal} {opc : Nat} {own : Ctx → Nat → Bool}
    {run : Ctx → Res} {i : TrapInfo}
    (hx : x = .next (ruled opc f own run s)) (hown : operandChecks own c = some i) (h : Calm opc f destName s c) :
    x = .next (s.takeTrap c.k i) := by
  rw [hx, ruled_trap h hown]

end

theorem crossLane_results : partCrossLane := by
  refine ⟨fun f => ⟨computes_shfl f, computes_rdlane f, computes_slide f, computes_vote f, computes_ballot f⟩, fun f s c => ?_⟩
  intro traps
  refine ⟨fun hs => ?_, fun hs hB => ?_⟩
  · have hscalar : operandChecks noScalar c = some (c.illegalOperand 1) := by rw [operandChecks_noScalar_eq, hs]; rfl
    have hB : operandChecks (fun c n => noScalar c n || wantsUniform c c.opB 3 n) c = some (c.illegalOperand 1) := by
      rw [operandChecks_uniformB, hs]; rfl
    have hvote : operandChecks (fun c n => noScalar c n || (f.mode == 1 && wantsUniform c c.opB 3 n)) c = some (c.illegalOperand 1) := by
      rw [operandChecks_vote, hs]; rfl
    exact ⟨exec_ruled_trap (x := execShfl f s) rfl hscalar, exec_ruled_trap (x := execSlide f s) rfl hB,
      exec_ruled_trap (x := execVote f s) rfl hvote, exec_ruled_trap (x := execBallot f s) rfl hscalar,
      exec_ruled_trap (x := execRdlane f s) rfl hB⟩
  · have huniform : operandChecks (fun c n => noScalar c n || wantsUniform c c.opB 3 n) c = some (c.illegalOperand 3) := by
      rw [operandChecks_uniformB, hs, hB]; rfl
    refine ⟨exec_ruled_trap (x := execSlide f s) rfl huniform, fun hm => ?_, exec_ruled_trap (x := execRdlane f s) rfl huniform⟩
    refine exec_ruled_trap (x := execVote f s) rfl ?_
    rw [operandChecks_vote, hs, if_neg (by decide), if_pos ⟨hm, hB⟩]

/-- Settles O12: each word's results by its own lemma (`computes_ruled`), the write of one lane by `Wrote`. -/
theorem crossLane : Obligations.CrossLane := ⟨crossLane_results, writeLane⟩

end Sys2Proof.Machine

namespace Sys2Proof.Machine

open Sys2Proof.Spec

/-! ## What a control word leaves of its group (06, R134) -/

section
variable {c : Ctx} {opc : Nat} {f : Fields} {names : Ctx → List Nat} {own : Ctx → Nat → Bool} {s u : State} {G T : Group}

/-- A control word whose effect left its group `G` has issued as `T`: the names that LAST frees are unmapped, the latch ages, nothing is
pushed where both slots are live, and the windows count one issue (05, R105, R106, R108, R111); slots, stack and loops are the effect's. -/
structure Issued (c : Ctx) (G T : Group) : Prop where
  frame : T = { G with vregs := T.vregs, latch := T.latch, windows := T.windows, lastB := c.b, issued := true, issuedAt := some c.s.now,
                       went := true, stall := 0, spill := .none, granted := 0 }
  kept  : ∀ n, n ∉ lastFrees c → T.vregs.find? n = G.vregs.find? n
  freed : ∀ n, n ∈ lastFrees c → T.vregs.find? n = none
  same  : lastFrees c = [] → T.vregs = G.vregs
  latch : G.bothLive = true → G.latch = [] → T.latch = []
  dests : T.windows.map (·.dests) = G.windows.map (·.dests)

theorem countIssue_dests (g : Group) (b : Bool) (n : Nat) : (g.countIssue b n).windows.map (·.dests) = g.windows.map (·.dests) := by
  unfold Group.countIssue
  split
  · rfl
  · have hone : ∀ x ∈ g.windows.zipIdx, (if x.1.frozen || n ≤ x.2 then x.1
        else if b then { x.1 with remB := x.1.remB.map (· - 1) } else { x.1 with remA := x.1.remA.map (· - 1) }).dests = x.1.dests := by
      intro x _
      split_ifs <;> rfl
    rw [List.map_map]
    refine (List.map_congr_left hone).trans ?_
    rw [← List.zipIdx_map_fst 0 g.windows, List.map_map, List.zipIdx_map_fst]
    rfl

/-- Where no window is done, counting an issue closes none. -/
theorem closeDue_dests {g : Group} (hw : NoneDone g.windows) (b : Bool) (n : Nat) :
    (g.countIssue b n).closeDue.windows.map (·.dests) = g.windows.map (·.dests) := by
  rw [closeDue_calm (countIssue_done b n hw), countIssue_dests]

/-- A short-latency word opens no window and closes none (05, R111). -/
theorem retire_dests {g : Group} {n : Nat} (hll : Forms.longLatency c.opc = false) (hw : NoneDone g.windows) :
    (g.retire c n).windows.map (·.dests) = g.windows.map (·.dests) := by
  have hfreed (ns : List Nat) : (if ns.isEmpty then g else g.freeNames ns (writtenNames c) c.act).windows = g.windows := by
    rw [freeNames_frame]
    split <;> rfl
  unfold Group.retire
  simp only [hll, Bool.false_and, Bool.false_eq_true, if_false]
  refine (closeDue_dests (fun w hmem => hw w ?_) _ _).trans (congrArg _ (hfreed _))
  exact hfreed _ ▸ hmem

theorem issued_of_retire {n : Nat} (hll : Forms.longLatency c.opc = false) (hd : (roles c.opc c.f).d = false) (hn : c.f.never = false)
    (hc : G.captured c.b = none) (hw : NoneDone G.windows) : Issued c G (G.retire c n) := by
  obtain ⟨ws, hretire⟩ := retire_short (n := n) hll hn hw hc
  obtain ⟨hkept, hfreed⟩ := freeNames_onlyFreed (c := c) (g := G) (m := c.act) (writtenNames_noDest hd)
  refine ⟨by rw [hretire], fun m hm => by rw [hretire]; exact hkept m hm, fun m hm => by rw [hretire]; exact hfreed m hm, fun hnone => ?_,
    fun hboth hla => ?_, retire_dests hll hw⟩
  · rw [hretire, hnone]
    rfl
  · have hpushes (vr : Tbl VReg) : heldPushes c { G with vregs := vr } = [] := if_pos hboth
    rw [hretire, hpushes, hla]
    rfl

/-- The effect of a control word on its group `G`: lanes, last results, latch, stack, loops and slots alone, and no window is to close. -/
structure Turns (c : Ctx) (G : Group) : Prop where
  frame : G = { c.g with exited := G.exited, latch := G.latch, q0 := G.q0, q1 := G.q1, windows := G.windows, stack := G.stack,
                         loops := G.loops, slotA := G.slotA, slotB := G.slotB }
  done  : NoneDone G.windows

/-- State `u` is the word's own but for its group, which is `G`. -/
structure Holds (c : Ctx) (u : State) (G : Group) : Prop where
  found    : u.groups.find? c.k = some G
  untraced : u.tracer c.g = none
  rest     : ∀ T, u.setGroup c.k T = c.s.setGroup c.k T

theorem holds_self (h : Calm opc f names s c own) : Holds c c.s c.g := ⟨h.group, h.tracer, fun _ => rfl⟩

theorem holds_setGroup (h : Calm opc f names s c own) : Holds c (c.s.setGroup c.k G) G :=
  ⟨Tbl.find?_set_self _ _ _, h.tracer, fun _ => setGroup_setGroup _ _ _ _⟩

/-- What brings a word's group up to date leaves no trace of a group that is not traced (17, R388). -/
theorem retireGroup_untraced (hu : Holds c u G) (ha : G.ended = false) (φ : Group → Group) :
    ((u.retireGroup c φ).traceIssue c.g ((u.retireGroup c φ).group c.k) c.b c.any) = c.s.setGroup c.k (φ (G.retire c c.g.windows.length)) := by
  have hretired : u.retireGroup c φ = u.setGroup c.k (φ (G.retire c c.g.windows.length)) := by simp [State.retireGroup, hu.found, ha]
  have htracer : (u.setGroup c.k (φ (G.retire c c.g.windows.length))).tracer c.g = none := hu.untraced
  rw [hretired, State.traceIssue, htracer]
  exact hu.rest _

theorem issued_of_turns (h : Calm opc f names s c own) (hll : Forms.longLatency opc = false) (hd : (roles opc f).d = false)
    (hG : Turns c G) : Issued c G (G.retire c c.g.windows.length) := by
  obtain ⟨-, -, -, rfl, rfl⟩ := ctx_group h.ctx
  exact issued_of_retire hll hd h.run (by rw [Group.captured, hG.frame]; exact h.fresh) hG.done

theorem Turns.ended (h : Calm opc f names s c own) (hG : Turns c G) : G.ended = false := by
  rw [hG.frame]
  exact h.alive

theorem Issued.setSlot (hT : Issued c G T) (pc : Word) :
    Issued c (G.setSlot c.b { G.slot c.b with pc := pc }) (T.setSlot c.b { T.slot c.b with pc := pc }) := by
  have hslot : T.slot c.b = G.slot c.b := by rw [hT.frame]; rfl
  have hboth : (G.setSlot c.b { G.slot c.b with pc := pc }).bothLive = G.bothLive := by cases hb : c.b <;> rfl
  refine ⟨?_, ?_, ?_, ?_, ?_, ?_⟩
  · rw [hslot, setSlot_frame T, setSlot_frame G, hT.frame]
    cases c.b <;> rfl
  · rw [setSlot_frame T, setSlot_frame G]
    exact hT.kept
  · rw [setSlot_frame T]
    exact hT.freed
  · rw [setSlot_frame T, setSlot_frame G]
    exact hT.same
  · rw [hboth, setSlot_frame T, setSlot_frame G]
    exact hT.latch
  · rw [setSlot_frame T, setSlot_frame G]
    exact hT.dests

/-- A taken transfer of control goes to its target (06, R134). -/
theorem settle_goto (h : Calm opc f names s c own) (hll : Forms.longLatency opc = false) (hd : (roles opc f).d = false)
    (hu : Holds c u G) (hG : Turns c G) (pc : Word) :
    ∃ T, Issued c (G.setSlot c.b { G.slot c.b with pc := pc }) T ∧ settle c c.s (.goto u pc) = c.s.setGroup c.k T :=
  ⟨_, (issued_of_turns h hll hd hG).setSlot pc, retireGroup_untraced hu (hG.ended h) fun g => g.setSlot c.b { g.slot c.b with pc := pc }⟩

/-- A word that has itself set the slots moves none (06, R123, R140). -/
theorem settle_moved (h : Calm opc f names s c own) (hll : Forms.longLatency opc = false) (hd : (roles opc f).d = false)
    (hu : Holds c u G) (hG : Turns c G) : ∃ T, Issued c G T ∧ settle c c.s (.moved u) = c.s.setGroup c.k T :=
  ⟨_, issued_of_turns h hll hd hG, retireGroup_untraced hu (hG.ended h) id⟩

theorem turns_setSlot (h : Calm opc f names s c own) (ls : List LoopLevel) (st : List StackEntry) (p : PcSlot) :
    Turns c (({ c.g with loops := ls, stack := st } : Group).setSlot c.b p) := by
  unfold Group.setSlot
  split
  · exact ⟨rfl, h.windows⟩
  · exact ⟨rfl, h.windows⟩

/-- A word that changed no more than its slot, the loop levels and the stack has gone on. -/
theorem Issued.goes {ls : List LoopLevel} {L : Nat → LoopLevel} {st : List StackEntry} {p : PcSlot}
    (hT : Issued c (({ c.g with loops := ls, stack := st } : Group).setSlot c.b p) T) (hL : ∀ n, n < 3 → ls.getD n {} = L n) :
    Goes c (c.s.setGroup c.k T) p L st := by
  obtain ⟨hframe, hkept, hfreed, -, -, -⟩ := hT
  have hset := setSlot_frame ({ c.g with loops := ls, stack := st } : Group) c.b p
  have hslot := slot_setSlot ({ c.g with loops := ls, stack := st } : Group) c.b p
  have hother := slot_setSlot_not ({ c.g with loops := ls, stack := st } : Group) c.b p
  generalize ({ c.g with loops := ls, stack := st } : Group).setSlot c.b p = G at *
  constructor
  case machine => rfl
  case others => exact fun j hj => setGroup_others _ _ _ hj
  all_goals rw [after_setGroup]
  case group => rw [OnlyPath, hframe, hset]
  case regs => exact ⟨fun n hn => by rw [hkept n hn, hset], hfreed⟩
  case files => rw [hframe, hset]; exact ⟨rfl, rfl⟩
  case slot => rw [hframe]; exact hslot
  case other => rw [hframe]; exact hother
  case loops => rw [hframe, hset]; exact hL
  case stack => rw [hframe, hset]

theorem goes_goto {ls : List LoopLevel} {L : Nat → LoopLevel} {st : List StackEntry} {p : PcSlot} (h : Calm opc f names s c own)
    (hll : Forms.longLatency opc = false) (hd : (roles opc f).d = false)
    (hu : Holds c u (({ c.g with loops := ls, stack := st } : Group).setSlot c.b p)) (hL : ∀ n, n < 3 → ls.getD n {} = L n) (pc : Word) :
    Goes c (settle c c.s (.goto u pc)) { p with pc := pc } L st := by
  obtain ⟨T, hT, hsettle⟩ := settle_goto h hll hd hu (turns_setSlot h ls st p) pc
  have hset (g : Group) : (g.setSlot c.b p).setSlot c.b { (g.setSlot c.b p).slot c.b with pc := pc } = g.setSlot c.b { p with pc := pc } := by
    cases c.b <;> rfl
  rw [hset] at hT
  rw [hsettle]
  exact hT.goes hL

/-- A transfer of control alone. -/
theorem goes_to (h : Calm opc f names s c own) (hll : Forms.longLatency opc = false) (hd : (roles opc f).d = false) (pc : Word) :
    Goes c (settle c c.s (.goto c.s pc)) { c.slot with pc := pc } (keepLoops c) c.g.stack := by
  have hself : c.g.setSlot c.b c.slot = c.g := setSlot_slot c.g c.b
  refine goes_goto (ls := c.g.loops) (p := c.slot) h hll hd ?_ (fun _ _ => rfl) pc
  show Holds c c.s (c.g.setSlot c.b c.slot)
  rw [hself]
  exact holds_self h

/-- At no END of a loop stands a control word that transfers control (06, R132). -/
theorem loopAt_control (h : Calm opc f names s c own) (hopc : endAllowed opc = false) : loopAt c.g c.pc = none := by
  have hend := h.atEnd
  rw [endMisuse] at hend
  generalize loopAt c.g c.pc = x at hend
  cases x with
  | none => rfl
  | some x => simp [hopc] at hend

/-- A control word that does not transfer control goes on to the next word. -/
theorem goes_on (h : Calm opc f names s c own) (hopc : endAllowed opc = false) (hll : Forms.longLatency opc = false)
    (hd : (roles opc f).d = false) : Goes c (settle c c.s (.next c.s)) { c.slot with pc := c.pc + 12 } (keepLoops c) c.g.stack := by
  have hloop := loopAt_control h hopc
  have hgoes := goes_settle h hll hd
  have hpc : nextPc c = c.pc + 12 := by rw [nextPc, hloop]
  have hloops : nextLoops c = keepLoops c := funext fun n => by rw [nextLoops, hloop]
  rwa [hpc, hloops] at hgoes

/-- A target counts instructions from the word (06, R134). -/
theorem target_eq_instrs (c : Ctx) (x : BitVec 16) : target c x = instrs c x.toInt := by
  rw [target, instrs, word, w32, uv, BitVec.ofInt_add, BitVec.ofInt_natCast, BitVec.ofNat_toNat, BitVec.setWidth_eq]

end

/-! ## `call`, `callx` and `ret` (06, R139, R140) -/

section
variable {f : Fields} {s : State} {c : Ctx}

theorem pushEntry_of_room {s : State} {g : Group} (h : g.stack.length < 4) (e : StackEntry) :
    pushEntry s g e = .ok s { g with stack := e :: g.stack } := by
  unfold pushEntry
  split
  · next hst => simp [hst] at h
  · rfl

theorem noRoom_eq_false {n : Nat} (h : c.g.depth + n ≤ 4 + c.record.stackN) : noRoom c n = false := by
  simpa [noRoom] using h

theorem firstTrap_one {b : Bool} (h : b = false) (x : TrapInfo) : firstTrap [(b, x)] = none := by
  simp [firstTrap, h]

/-- The return entry that a call pushes (06, R139). -/
def returnEntry (c : Ctx) : StackEntry :=
  { kind := .ret, tag := if c.b then .slotB else .slotA, fmt := 0, rpc := c.slot.rpc, pc := c.pc + 12, mask := c.slot.owned }

theorem goes_callTo {opc : Nat} {own : Ctx → Nat → Bool} (h : Calm opc f noNames s c own) (hll : Forms.longLatency opc = false)
    (hd : (roles opc f).d = false) (hroom : c.g.stack.length < 4) (t : Word) :
    Goes c (settle c c.s (callTo c t)) { c.slot with pc := t, rpc := 0xFFFFFFFF } (keepLoops c) (returnEntry c :: c.g.stack) := by
  have hcall : callTo c t = .goto (c.s.setGroup c.k (({ c.g with loops := c.g.loops, stack := returnEntry c :: c.g.stack } : Group).setSlot c.b
      { c.slot with rpc := rpcNone })) t := by
    rw [callTo, pushEntry_of_room hroom]
    rfl
  rw [hcall]
  exact goes_goto h hll hd (holds_setGroup h) (fun _ _ => rfl) t

theorem exec_call_eq (f : Fields) (s : State) : exec (.call f) s = .next (issue 0x005 f (fun c => firstTrap [(noRoom c 1, c.stackFull)])
    noNames (fun c => callTo c (target c f.aux)) s) := rfl

theorem exec_call (h : Calm 0x005 f noNames s c) (hdepth : c.g.depth + 1 ≤ 4 + c.record.stackN) (hroom : c.g.stack.length < 4) :
    ∃ t, exec (.call f) s = .next t ∧
      Goes c t { c.slot with pc := instrs c f.aux.toInt, rpc := 0xFFFFFFFF } (keepLoops c) (returnEntry c :: c.g.stack) := by
  rw [exec_call_eq, issue_calm h h.form (firstTrap_one (noRoom_eq_false hdepth) _), target_eq_instrs]
  exact ⟨_, rfl, goes_callTo h rfl rfl hroom _⟩

theorem exec_callx_eq (f : Fields) (s : State) : exec (.callx f) s = .next (issue 0x006 f
    (fun c => firstTrap [(noRoom c 1, c.stackFull)]) noNames
    (fun c => if unaligned (c.srcA.at 0) then targetFault c (c.srcA.at 0) c.act else callTo c (c.srcA.at 0)) s uniformA) := rfl

theorem operandChecks_uniformA (hA : vectorValued c.g c.b c.opA = false) : operandChecks uniformA c = none := by
  simp [operandChecks_eq, uniformA, hA]

theorem exec_callx (h : Calm 0x006 f noNames s c) (hdepth : c.g.depth + 1 ≤ 4 + c.record.stackN) (hroom : c.g.stack.length < 4)
    (hA : vectorValued c.g c.b c.opA = false) (haligned : (xA c 0).toNat % 12 = 0) : ∃ t, exec (.callx f) s = .next t ∧
      Goes c t { c.slot with pc := xA c 0, rpc := 0xFFFFFFFF } (keepLoops c) (returnEntry c :: c.g.stack) := by
  have htarget : unaligned (c.srcA.at 0) = false := by
    unfold xA at haligned
    simp [unaligned, haligned]
  rw [exec_callx_eq, issue_own_calm h (firstTrap_one (noRoom_eq_false hdepth) _) (operandChecks_uniformA hA), htarget]
  exact ⟨_, rfl, goes_callTo h rfl rfl hroom _⟩

theorem exec_ret_eq (f : Fields) (s : State) : exec (.ret f) s = .next (issue 0x007 f
    (fun c => firstTrap
      [(match topEntry c.s c.g c.b with | some (_, some e) => e.kind != .ret | some (_, none) => false | none => true, c.illegalConv),
       (popsLoop c.g, c.loopMisuse)])
    noNames
    (fun c =>
      match topEntry c.s c.g c.b with
      | some (i, some e) =>
        match removeEntry c.s c.g i with
        | .ok s g =>
          let m := e.mask &&& g.liveLanes
          .moved (s.setGroup c.k (g.setSlot c.b { g.slot c.b with pc := e.pc, rpc := e.rpc, owned := m, active := m, join := m == 0 }))
        | r => stackFails c r
      | some (i, none) => stackFails c (unreadEntry c.s c.g i)
      | none => .trap c.illegalConv) s) := rfl

/-- An entry on chip goes without the spill region where the stack keeps one on chip or has none in the region (06, R121). -/
theorem removeEntry_on_chip {s : State} {g : Group} {i : Nat} (hpops : popsLoop g = false) (hi : i < g.stack.length)
    (hone : 1 < g.stack.length ∨ g.deep = 0) : removeEntry s g i = .ok s { g with stack := g.stack.eraseIdx i } := by
  have hchip : ((g.stack.eraseIdx i).isEmpty && g.deep != 0) = false := by
    rcases hone with hone | hdeep
    · have hlength : (g.stack.eraseIdx i).length = g.stack.length - 1 := List.length_eraseIdx_of_lt hi
      cases hst : g.stack.eraseIdx i with
      | nil => rw [hst, List.length_nil] at hlength; omega
      | cons e es => rfl
    · simp [hdeep]
  simp [removeEntry, hpops, hi, hchip]

theorem popsLoop_eq_false {g : Group} (h : ∀ l ∈ g.loops, l.opened = true → l.depth < g.depth) : popsLoop g = false := by
  simp only [popsLoop, List.any_eq_false, Bool.and_eq_true, decide_eq_true_eq, not_and, Nat.not_lt]
  exact fun l hl hopened => Nat.le_sub_one_of_lt (h l hl hopened)

theorem exec_ret (h : Calm 0x007 f noNames s c) {i : Nat} {e : StackEntry} (htop : topEntry c.s c.g c.b = some (i, some e))
    (hkind : e.kind = .ret) (hi : i < c.g.stack.length) (hone : 1 < c.g.stack.length ∨ c.g.deep = 0)
    (hloops : ∀ l ∈ c.g.loops, l.opened = true → l.depth < c.g.depth) : ∃ t, exec (.ret f) s = .next t ∧
      let m := e.mask &&& c.g.liveLanes
      Goes c t { c.slot with pc := e.pc, rpc := e.rpc, owned := m, active := m, join := m == 0 } (keepLoops c) (c.g.stack.eraseIdx i) := by
  have hpops := popsLoop_eq_false hloops
  rw [exec_ret_eq, issue_calm h h.form (by simp [firstTrap, htop, hkind, hpops]), htop]
  dsimp only
  rw [removeEntry_on_chip hpops hi hone]
  obtain ⟨T, hT, hsettle⟩ := settle_moved h rfl rfl (holds_setGroup h) (turns_setSlot h c.g.loops (c.g.stack.eraseIdx i)
    { c.slot with pc := e.pc, rpc := e.rpc, owned := e.mask &&& c.g.liveLanes, active := e.mask &&& c.g.liveLanes,
                  join := e.mask &&& c.g.liveLanes == 0 })
  exact ⟨_, rfl, hsettle ▸ hT.goes fun _ _ => rfl⟩

end

/-- Settles O18: each word transfers control by `goes_goto` or `settle_moved`, after one push or pop on chip. -/
theorem callsAndReturns : Obligations.CallsAndReturns := by
  intro f s c entry room
  exact ⟨fun h ⟨hdepth, hroom⟩ => exec_call h hdepth hroom, fun h ⟨hdepth, hroom⟩ => exec_callx h hdepth hroom,
    fun h _ _ htop hkind hi hone hloops => exec_ret h htop hkind hi hone hloops⟩

end Sys2Proof.Machine

namespace Sys2Proof.Machine

open Sys2Proof.Spec

/-! ## `loop`, `lbrk` and the END of a loop body (06, R130–R132, R142, R143) -/

section
variable {f : Fields} {s : State} {c : Ctx}

theorem innermost_lt {g : Group} {n : Nat} {l : LoopLevel} (h : innermost g = some (n, l)) : n < 3 := by
  obtain ⟨m, hm, hl⟩ := List.exists_of_findSome?_eq_some h
  dsimp only at hl
  split at hl
  · cases hl
    simp only [List.mem_cons, List.not_mem_nil, or_false] at hm
    omega
  · cases hl

/-- Loop level `n` after level `m` is set. -/
theorem setLoop_getD {g : Group} {n m : Nat} (hn : n < 3) (l : LoopLevel) :
    (g.setLoop m l).loops.getD n {} = if n = m then l else g.loops.getD n {} := by
  simp [Group.setLoop, List.getD, hn]

/-- The lowest closed level is the one below which every level is open (06, R130). -/
theorem lowestClosed_eq {n : Nat} (hn : n < 3) (hopen : ∀ m, m < n → (keepLoops c m).opened = true) (hclosed : (keepLoops c n).opened = false) :
    lowestClosed c.g = n := by
  show ([0, 1, 2].find? fun m => !(keepLoops c m).opened).getD 3 = n
  match n, hn with
  | 0, _ => simp [List.find?, hclosed]
  | 1, _ => simp [List.find?, hopen 0, hclosed]
  | 2, _ => simp [List.find?, hopen 0, hopen 1, hclosed]

theorem pc_add_word (c : Ctx) (n : Nat) : c.pc + word (12 * n) = instrs c n := by
  rw [instrs, word, w32, uv, BitVec.ofInt_add, BitVec.ofInt_natCast, BitVec.ofNat_toNat, BitVec.setWidth_eq]

/-- A word that opens or closes a loop level and goes to `pc`. -/
theorem goes_setLoop {opc n : Nat} {l : LoopLevel} {own : Ctx → Nat → Bool} (h : Calm opc f noNames s c own)
    (hll : Forms.longLatency opc = false) (hd : (roles opc f).d = false) (pc : Word) :
    Goes c (settle c c.s (.goto (c.s.setGroup c.k (c.g.setLoop n l)) pc)) { c.slot with pc := pc }
      (fun m => if m = n then l else keepLoops c m) c.g.stack := by
  have hset : c.g.setLoop n l =
      ({ c.g with loops := (c.g.setLoop n l).loops, stack := c.g.stack } : Group).setSlot c.b c.slot := (setSlot_slot (c.g.setLoop n l) c.b).symm
  refine goes_goto h hll hd ?_ (fun m hm => setLoop_getD hm l) pc
  rw [← hset]
  exact holds_setGroup h

theorem exec_loop_eq (f : Fields) (s : State) : exec (.loop f) s = .next (issue 0x009 f
    (fun c => firstTrap [(c.g.inh || f.fn.toNat != lowestClosed c.g || c.g.live true, c.loopMisuse)]) noNames
    (fun c =>
      let n := c.srcA.at 0
      if n = 0 then .goto c.s (c.pc + word (12 * (f.aux.toNat + 1)))
      else
        .goto (c.s.setGroup c.k (c.g.setLoop f.fn.toNat
          { opened := true, count := n, start := c.pc + 12, stop := c.pc + word (12 * f.aux.toNat), depth := c.g.depth }))
          (c.pc + 12)) s uniformA) := rfl

theorem exec_loop (h : Calm 0x009 f noNames s c) (hA : vectorValued c.g c.b c.opA = false) (hinh : c.g.inh = false)
    (hlive : c.g.live true = false) (hlowest : lowestClosed c.g = f.fn.toNat) :
    (xA c 0 = 0 → ∃ t, exec (.loop f) s = .next t ∧ Goes c t { c.slot with pc := instrs c (f.aux.toNat + 1) } (keepLoops c) c.g.stack) ∧
    (xA c 0 ≠ 0 → ∃ t, exec (.loop f) s = .next t ∧ Goes c t { c.slot with pc := c.pc + 12 }
      (fun n => if n = f.fn.toNat then { opened := true, count := xA c 0, start := c.pc + 12, stop := instrs c f.aux.toNat, depth := c.g.depth }
                else keepLoops c n) c.g.stack) := by
  have hchecks : firstTrap [(c.g.inh || f.fn.toNat != lowestClosed c.g || c.g.live true, c.loopMisuse)] = none :=
    firstTrap_one (by simp [hinh, hlive, hlowest]) _
  rw [exec_loop_eq, issue_own_calm h hchecks (operandChecks_uniformA hA)]
  unfold xA
  refine ⟨fun h0 => ?_, fun h0 => ?_⟩
  · simp only [if_pos h0]
    rw [← Int.natCast_one, ← Int.natCast_add, pc_add_word]
    exact ⟨_, rfl, goes_to h rfl rfl _⟩
  · simp only [if_neg h0]
    rw [pc_add_word]
    exact ⟨_, rfl, goes_setLoop h rfl rfl _⟩

theorem exec_lbrk_eq (f : Fields) (s : State) : exec (.lbrk f) s = .next (issue 0x00A f
    (fun c => firstTrap
      [(c.any && c.act != c.slot.active, c.illegalConv),
       (c.g.inh || c.g.live true || (match innermost c.g with | some (_, l) => c.g.depth != l.depth | none => true), c.loopMisuse)])
    noNames
    (fun c =>
      match innermost c.g with
      | some (n, l) => if c.any then .goto (c.s.setGroup c.k (c.g.setLoop n {})) (l.stop + 12) else .next c.s
      | none => .next c.s) s) := rfl

theorem exec_lbrk (h : Calm 0x00A f noNames s c) (hinh : c.g.inh = false) (hlive : c.g.live true = false) {n : Nat} {l : LoopLevel}
    (hin : innermost c.g = some (n, l)) (hdepth : c.g.depth = l.depth) :
    (c.any = false → ∃ t, exec (.lbrk f) s = .next t ∧ Goes c t { c.slot with pc := c.pc + 12 } (keepLoops c) c.g.stack) ∧
    (c.any = true → c.act = c.slot.active → ∃ t, exec (.lbrk f) s = .next t ∧
      Goes c t { c.slot with pc := l.stop + 12 } (fun m => if m = n then {} else keepLoops c m) c.g.stack) := by
  refine ⟨fun hany => ?_, fun hany hact => ?_⟩
  · rw [exec_lbrk_eq, issue_calm h h.form (by simp [firstTrap, hany, hinh, hlive, hin, hdepth])]
    simp only [hin, hany, Bool.false_eq_true, if_false]
    exact ⟨_, rfl, goes_on h rfl rfl rfl⟩
  · rw [exec_lbrk_eq, issue_calm h h.form (by simp [firstTrap, hact, hinh, hlive, hin, hdepth])]
    simp only [hin, hany, if_true]
    exact ⟨_, rfl, goes_setLoop h rfl rfl _⟩

/-- The slot has moved on from the word, and the loop action is taken (06, R131). -/
structure MovesOn (c : Ctx) (t : State) : Prop where
  pc    : ((after c t).slot c.b).pc = nextPc c
  loops : ∀ n, n < 3 → (after c t).loops.getD n {} = nextLoops c n

/-- A word that computes moves on, with lanes active or with none. -/
theorem movesOn_alu {x : Host.Outcome State Fault Refusal} {opc ctr : Nat} {ka kb kc : Imm} {op : Word → Word → Word → Sat}
    (hx : x = alu opc f ctr ka kb kc op s) (h : Calm opc f destName s c)
    (hll : Forms.longLatency opc = false) (hd : (roles opc f).d = true) (hs : (roles opc f).dIsSrc = false) (hctr : ctr < 63) :
    ∃ t, x = .next t ∧ MovesOn c t := by
  rw [hx, alu, issue_calm h h.form rfl]
  cases hany : c.any with
  | false =>
    have hidle := idles_settle h hll hd hs hany
    rw [giveLanes_idle hany]
    exact ⟨_, rfl, by rw [hidle.slot], hidle.loops⟩
  | true =>
    have hresult := settle_giveLanes h hll hd hs hany hctr fun l => op ((typed ka c.opA false c.srcA).at l)
      ((typed kb c.opB f.imm32 c.srcB).at l) ((typed kc c.opC false c.srcC).at l)
    obtain ⟨hs', -⟩ := ctx_group h.ctx
    rw [hs']
    exact ⟨_, rfl, hresult.regs.pc, hresult.regs.loops⟩

theorem Goes.movesOn {t : State} {p : PcSlot} {st : List StackEntry} (h : Goes c t p (nextLoops c) st) (hpc : p.pc = nextPc c) :
    MovesOn c t :=
  ⟨by rw [h.slot, hpc], h.loops⟩

theorem nextPc_end {n : Nat} {l : LoopLevel} (h : loopAt c.g c.pc = some (n, l)) :
    nextPc c = if 1 < l.count.toNat then l.start else l.stop + 12 := by
  rw [nextPc, h]

theorem nextLoops_end {n : Nat} {l : LoopLevel} (h : loopAt c.g c.pc = some (n, l)) (m : Nat) :
    nextLoops c m = if m = n then (if 1 < l.count.toNat then { l with count := l.count - 1 } else {}) else keepLoops c m := by
  rw [nextLoops, h]

/-- The computing words that the statement names move on. -/
theorem movesOn_listed {i : Instr} {opc : Nat} (hi : (i, opc) ∈ [(Instr.iadd f, 0x040), (.mov f, 0x062), (.fadd f, 0x0C0), (.pand f, 0x150)])
    (h : Calm opc f destName s c) : ∃ t, exec i s = .next t ∧ MovesOn c t := by
  simp only [List.mem_cons, Prod.mk.injEq, List.not_mem_nil, or_false] at hi
  rcases hi with ⟨rfl, rfl⟩ | ⟨rfl, rfl⟩ | ⟨rfl, rfl⟩ | ⟨rfl, rfl⟩
  · exact movesOn_alu (x := execIadd f s) rfl h rfl rfl rfl (by decide)
  · exact movesOn_alu (x := execMov f s) rfl h rfl rfl rfl (by decide)
  · exact movesOn_alu (x := execFadd f s) rfl h rfl rfl rfl (by decide)
  · exact movesOn_alu (x := predOp 0x150 f and s) rfl h rfl rfl rfl (by decide)

end

/-- Settles O19: `loop` and `lbrk` by the level that they set, and at END by the loop action of any word that moves on. -/
theorem loops : Obligations.Loops := by
  intro f s c
  refine ⟨fun h hA hinh hlive hn hopen hclosed => exec_loop h hA hinh hlive (lowestClosed_eq hn hopen hclosed),
    fun h hinh hlive n l hin hdepth => exec_lbrk h hinh hlive hin hdepth, fun n l hend => ?_⟩
  have hpc := nextPc_end hend
  have hloops := nextLoops_end hend
  rw [← hpc]
  simp only [← hloops]
  refine ⟨exec_nop, fun h => ?_, fun i opc hi h => ?_⟩
  · obtain ⟨t, hexec, hgoes⟩ := exec_yield h
    obtain ⟨hpc, hlevels⟩ := Goes.movesOn hgoes rfl
    exact ⟨t, hexec, hpc, hlevels⟩
  · obtain ⟨t, hexec, hpc, hlevels⟩ := movesOn_listed hi h
    exact ⟨t, hexec, hpc, hlevels⟩

end Sys2Proof.Machine

namespace Sys2Proof.Machine

open Sys2Proof.Spec

/-! ## `exit` (06, R128, R141) -/

section
variable {f : Fields} {s : State} {c : Ctx} {G T : Group}

theorem exec_exit_eq (f : Fields) (s : State) : exec (.exit f) s = .next (issue 0x008 f noChecks noNames
    (fun c => if c.any then exitLanes c c.s c.act else .next c.s) s) := rfl

/-- What an open window delivers to vector names and predicates in the lanes `m` is dropped (06, R128). -/
def WinDest.without (m : LaneMask) (d : WinDest) : WinDest :=
  match d.name with
  | .s _ => d
  | .special _ => d
  | _ => { d with lanes := d.lanes &&& ~~~m }

/-- The group once the lanes `m` have exited, outside a handler. -/
def Group.without (g : Group) (m : LaneMask) : Group :=
  { g with exited := g.exited ||| m, windows := g.windows.map fun w => { w with dests := w.dests.map (WinDest.without m) } }

theorem WinDest.without_lanes {m : LaneMask} {d : WinDest} (hname : ∃ n, (d.without m).name = .v n ∨ (d.without m).name = .p n) :
    (d.without m).lanes &&& m = 0 := by
  have hsplit (x : LaneMask) : (x &&& ~~~m) &&& m = 0 := by
    rw [BitVec.and_assoc, BitVec.and_comm (~~~m), BitVec.and_not_self]
    exact BitVec.and_zero
  unfold without at hname ⊢
  split
  · next hd => rw [hd] at hname; obtain ⟨n, hname | hname⟩ := hname <;> simp [hd] at hname
  · next hd => rw [hd] at hname; obtain ⟨n, hname | hname⟩ := hname <;> simp [hd] at hname
  · exact hsplit _

/-- Lanes leave a slot that keeps others: parked lanes come back where none is left active (06, R128). -/
def PcSlot.keepLanes (p : PcSlot) (m : LaneMask) : PcSlot :=
  { p with owned := p.owned &&& ~~~m, active := if p.active &&& ~~~m = 0 then p.owned &&& ~~~m else p.active &&& ~~~m }

/-- An `exit` outside a handler, of a group that does not become dormant by it. -/
theorem exitLanes_outside (hg : c.s.group c.k = c.g) (hinh : c.g.inh = false) (hpop : c.slot.owned &&& ~~~c.act = 0 → c.record.pop = false) :
    exitLanes c c.s c.act =
      if c.slot.owned &&& ~~~c.act ≠ 0 then .next (c.s.setGroup c.k ((c.g.without c.act).setSlot c.b (c.slot.keepLanes c.act)))
      else
        let g := (c.g.without c.act).setSlot c.b { c.slot with owned := 0, active := 0, join := true }
        match arrive true g.arriveFuel c.s g c.b with
        | .ok s g => .moved (s.setGroup c.k g)
        | .stop why _ _ _ => stackFails c why := by
  have hout : (c.g.inh = true) = False := by simp [hinh]
  unfold exitLanes
  rw [hg]
  simp only [hout, if_false, bne_iff_ne]
  by_cases howned : c.slot.owned &&& ~~~c.act ≠ 0
  · rw [if_pos howned]
    exact if_pos howned
  · rw [if_neg howned]
    refine (if_neg howned).trans ?_
    simp only [hpop (not_not.1 howned), Bool.and_false, Bool.false_eq_true, if_false]
    rfl

/-- A slot left with no lane and nothing on its stack is empty (06, R124). -/
theorem arrive_empty {s : State} {g : Group} {b : Bool} {n : Nat} (hstack : g.stack = []) (hdeep : g.deep = 0)
    (howned : (g.slot b).owned = 0) (hjoin : (g.slot b).join = true) : arrive true (n + 1) s g b = .ok s (g.setSlot b {}) := by
  have htop : topEntry s g b = none := by simp [topEntry, State.entries, hstack, hdeep]
  simp [arrive, PcSlot.vacant, howned, hjoin, htop]

theorem exitLanes_all (hg : c.s.group c.k = c.g) (hinh : c.g.inh = false) (howned : c.slot.owned &&& ~~~c.act = 0)
    (hstack : c.g.stack = []) (hdeep : c.g.deep = 0) (hpop : c.record.pop = false) :
    exitLanes c c.s c.act = .moved (c.s.setGroup c.k ((c.g.without c.act).setSlot c.b {})) := by
  rw [exitLanes_outside hg hinh fun _ => hpop, if_neg (not_not.2 howned)]
  have hset := setSlot_frame (c.g.without c.act) c.b { c.slot with owned := 0, active := 0, join := true }
  have hslot := slot_setSlot (c.g.without c.act) c.b { c.slot with owned := 0, active := 0, join := true }
  have hempty : ((c.g.without c.act).setSlot c.b { c.slot with owned := 0, active := 0, join := true }).setSlot c.b {} =
      (c.g.without c.act).setSlot c.b {} := by cases c.b <;> rfl
  generalize (c.g.without c.act).setSlot c.b { c.slot with owned := 0, active := 0, join := true } = x at *
  dsimp only
  rw [Group.arriveFuel, arrive_empty (by rw [hset]; exact hstack) (by rw [hset]; exact hdeep) (by rw [hslot]) (by rw [hslot])]
  dsimp only
  rw [hempty]

theorem turns_without (h : Calm 0x008 f noNames s c) (p : PcSlot) : Turns c ((c.g.without c.act).setSlot c.b p) := by
  have hdone : NoneDone (c.g.without c.act).windows := fun w hw => by
    obtain ⟨w', hw', rfl⟩ := List.mem_map.1 hw
    exact h.windows w' hw'
  rw [setSlot_frame]
  exact ⟨rfl, hdone⟩

/-- What an `exit` of the active lanes leaves, whatever becomes of the slot. -/
structure Left (c : Ctx) (t : State) : Prop where
  machine : t = { c.s with groups := t.groups }
  others  : ∀ j, j ≠ c.k → t.groups.find? j = c.s.groups.find? j
  exited  : (after c t).exited = c.g.exited ||| c.act
  vregs   : (after c t).vregs = c.g.vregs
  sregs   : (after c t).sregs = c.g.sregs
  preds   : (after c t).preds = c.g.preds
  other   : (after c t).slot (!c.b) = c.g.slot (!c.b)
  stack   : (after c t).stack = c.g.stack
  count   : (after c t).windows.length = c.g.windows.length
  drops   : ∀ w ∈ (after c t).windows, ∀ d ∈ w.dests, (∃ n, d.name = .v n ∨ d.name = .p n) → d.lanes &&& c.act = 0

theorem lastFrees_exit (h : Calm 0x008 f noNames s c) : lastFrees c = [] :=
  lastFrees_of_noSources (by rw [h.opc_eq]; rfl)

/-- An `exit` that has issued has left the slot's lanes, whatever becomes of the slot itself. -/
theorem Issued.left {p : PcSlot} (hfrees : lastFrees c = []) (hT : Issued c ((c.g.without c.act).setSlot c.b p) T) :
    Left c (c.s.setGroup c.k T) := by
  have hset := setSlot_frame (c.g.without c.act) c.b p
  have hslot := slot_setSlot_not (c.g.without c.act) c.b p
  obtain ⟨hframe, -, -, hsame, -, hdests⟩ := hT
  generalize (c.g.without c.act).setSlot c.b p = G at *
  have hwindows : G.windows = (c.g.without c.act).windows := by rw [hset]
  rw [hwindows] at hdests
  constructor
  case machine => rfl
  case others => exact fun j hj => setGroup_others _ _ _ hj
  all_goals rw [after_setGroup]
  case exited => rw [hframe, hset]; rfl
  case vregs => rw [hsame hfrees, hset]; rfl
  case sregs => rw [hframe, hset]; rfl
  case preds => rw [hframe, hset]; rfl
  case other => rw [hframe]; exact hslot
  case stack => rw [hframe, hset]; rfl
  case count =>
    simpa [Group.without] using congrArg List.length hdests
  case drops =>
    intro w hw d hd hname
    have hmem : w.dests ∈ (c.g.without c.act).windows.map (·.dests) := hdests ▸ List.mem_map_of_mem hw
    obtain ⟨w₁, hw₁, hd₁⟩ := List.mem_map.1 hmem
    obtain ⟨w₂, -, rfl⟩ := List.mem_map.1 hw₁
    rw [← hd₁] at hd
    obtain ⟨d', -, rfl⟩ := List.mem_map.1 hd
    exact WinDest.without_lanes hname

/-- A control word that neither stands at END nor transfers control goes on to the next word, whatever its effect on its slot. -/
theorem settle_on {opc : Nat} {names : Ctx → List Nat} {own : Ctx → Nat → Bool} {u : State} (h : Calm opc f names s c own)
    (hopc : endAllowed opc = false) (hll : Forms.longLatency opc = false) (hd : (roles opc f).d = false) (hu : Holds c u G) (hG : Turns c G)
    (hloops : G.loops = c.g.loops) :
    ∃ T, Issued c (G.setSlot c.b { G.slot c.b with pc := c.pc + 12 }) T ∧ settle c c.s (.next u) = c.s.setGroup c.k T := by
  have hT := issued_of_turns h hll hd hG
  have hsettle := settle_untraced hu.found (hG.ended h) hu.untraced
  rw [hu.rest] at hsettle
  generalize G.retire c c.g.windows.length = T at *
  have hat : loopAt T c.pc = none := by
    rw [← loopAt_control h hopc]
    refine loopAt_congr ?_ ?_ _
    · rw [hT.frame, hG.frame]
    · rw [hT.frame]; exact hloops
  have hadvance : T.advance c.b c.pc = T.setSlot c.b { T.slot c.b with pc := c.pc + 12 } := by rw [Group.advance, hat]
  exact ⟨_, hT.setSlot _, hadvance ▸ hsettle⟩

theorem exec_exit (h : Calm 0x008 f noNames s c) (hany : c.any = true) (hinh : c.g.inh = false) :
    (c.slot.owned &&& ~~~c.act ≠ 0 → ∃ t, exec (.exit f) s = .next t ∧ Left c t ∧
      (after c t).slot c.b = { c.slot.keepLanes c.act with pc := c.pc + 12 }) ∧
    (c.slot.owned &&& ~~~c.act = 0 → c.g.stack = [] → c.g.deep = 0 → c.record.pop = false →
      ∃ t, exec (.exit f) s = .next t ∧ Left c t ∧ (after c t).slot c.b = {}) := by
  have hfrees := lastFrees_exit h
  rw [exec_exit_eq, issue_calm h h.form rfl, if_pos hany]
  refine ⟨fun howned => ?_, fun howned hstack hdeep hpop => ?_⟩
  · rw [exitLanes_outside h.group_eq hinh fun h0 => absurd h0 howned, if_pos howned]
    obtain ⟨T, hT, hsettle⟩ := settle_on h rfl rfl rfl (holds_setGroup h) (turns_without h (c.slot.keepLanes c.act))
      (by rw [setSlot_frame]; rfl)
    have hset : ((c.g.without c.act).setSlot c.b (c.slot.keepLanes c.act)).setSlot c.b
        { ((c.g.without c.act).setSlot c.b (c.slot.keepLanes c.act)).slot c.b with pc := c.pc + 12 } =
        (c.g.without c.act).setSlot c.b { c.slot.keepLanes c.act with pc := c.pc + 12 } := by cases c.b <;> rfl
    rw [hset] at hT
    refine ⟨_, rfl, hsettle ▸ hT.left hfrees, ?_⟩
    rw [hsettle, after_setGroup, hT.frame]
    exact slot_setSlot _ _ _
  · rw [exitLanes_all h.group_eq hinh howned hstack hdeep hpop]
    obtain ⟨T, hT, hsettle⟩ := settle_moved h rfl rfl (holds_setGroup h) (turns_without h {})
    refine ⟨_, rfl, hsettle ▸ hT.left hfrees, ?_⟩
    rw [hsettle, after_setGroup, hT.frame]
    exact slot_setSlot _ _ _

theorem exec_exit_idle (h : Calm 0x008 f noNames s c) (hany : c.any = false) :
    ∃ t, exec (.exit f) s = .next t ∧ Goes c t { c.slot with pc := c.pc + 12 } (keepLoops c) c.g.stack := by
  rw [exec_exit_eq, issue_calm h h.form rfl, hany]
  exact ⟨_, rfl, goes_on h rfl rfl rfl⟩

end

/-- Settles O20: lanes that exit leave the masks of their slot and what the open windows hold for them (`Issued.left`). -/
theorem exits : Obligations.Exits := by
  intro f s c h
  refine ⟨exec_exit_idle h, ?_⟩
  intro hany hinh owned left gone
  have hgone {t : State} (hleft : Left c t) : gone t :=
    let ⟨hmachine, hothers, hexited, hvregs, hsregs, hpreds, hother, hstack, hcount, hdrops⟩ := hleft
    ⟨hmachine, hothers, hexited, hvregs, hsregs, hpreds, hother, hstack, hcount, hdrops⟩
  obtain ⟨hsome, hall⟩ := exec_exit h hany hinh
  refine ⟨fun howned => ?_, fun howned hstack hdeep _ hpop => ?_⟩
  · obtain ⟨t, hexec, hleft, hslot⟩ := hsome howned
    exact ⟨t, hexec, hgone hleft, hslot⟩
  · obtain ⟨t, hexec, hleft, hslot⟩ := hall howned hstack hdeep hpop
    exact ⟨t, hexec, hgone hleft, hslot⟩

end Sys2Proof.Machine

namespace Sys2Proof.Machine

open Sys2Proof.Spec

/-! ## The paths of a branch (06, R123, step 1) -/

/-- A lane joins the path of its next PC, or begins one. -/
def addLane (next : Nat → Word) (ps : List (Word × LaneMask)) (l : Nat) : List (Word × LaneMask) :=
  if ps.any (·.1 == next l) then ps.map fun p => if p.1 == next l then (p.1, p.2 ||| BitVec.ofNat 96 (2 ^ l)) else p
  else ps ++ [(next l, BitVec.ofNat 96 (2 ^ l))]

theorem pathsOf_eq (owned : LaneMask) (next : Nat → Word) : pathsOf owned next = (lanesOf owned).foldl (addLane next) [] := rfl

/-- `ps` are the paths of the lanes `seen` by next PC: a lane of the earlier of two paths lies below every lane of the later. -/
structure Parted (next : Nat → Word) (seen : List Nat) (ps : List (Word × LaneMask)) : Prop where
  nodup : (ps.map (·.1)).Nodup
  lanes : ∀ p ∈ ps, ∀ l, p.2.getLsbD l = (decide (l ∈ seen) && decide (next l = p.1))
  cover : ∀ l ∈ seen, ∃ p ∈ ps, p.1 = next l
  some  : ∀ p ∈ ps, ∃ l ∈ seen, next l = p.1
  order : ps.Pairwise fun p q => ∃ i ∈ seen, next i = p.1 ∧ ∀ j ∈ seen, next j = q.1 → i < j

section
variable {next : Nat → Word} {seen : List Nat} {ps : List (Word × LaneMask)} {l : Nat}

theorem laneBit_getLsbD (hl : l < 96) (i : Nat) : (BitVec.ofNat 96 (2 ^ l)).getLsbD i = decide (i = l) := by
  rw [BitVec.getLsbD_ofNat, Nat.testBit_two_pow]
  by_cases hi : i = l
  · simp [hi, hl]
  · simp [hi, Ne.symm hi]

/-- The lanes of a path once lane `l`, above all that were seen, has been added. -/
theorem order_snoc (hnew : ∀ i ∈ seen, i < l) {a b : Word} (h : ∃ i ∈ seen, next i = a ∧ ∀ j ∈ seen, next j = b → i < j) :
    ∃ i ∈ seen ++ [l], next i = a ∧ ∀ j ∈ seen ++ [l], next j = b → i < j := by
  obtain ⟨i, hi, ha, hlow⟩ := h
  refine ⟨i, List.mem_append_left _ hi, ha, fun j hj hb => ?_⟩
  rcases List.mem_append.1 hj with hj | hj
  · exact hlow j hj hb
  · rw [List.mem_singleton.1 hj]
    exact hnew i hi

theorem Parted.join (h : Parted next seen ps) (hl : l < 96) (hnew : ∀ i ∈ seen, i < l) (hany : ∃ p ∈ ps, p.1 = next l) :
    Parted next (seen ++ [l]) (ps.map fun p => if p.1 == next l then (p.1, p.2 ||| BitVec.ofNat 96 (2 ^ l)) else p) := by
  have hfst : ∀ p ∈ ps, (if p.1 == next l then (p.1, p.2 ||| BitVec.ofNat 96 (2 ^ l)) else p).1 = p.1 := fun p _ => by split <;> rfl
  obtain ⟨hnodup, hlanes, hcover, hsome, horder⟩ := h
  refine ⟨?_, fun p' hp' i => ?_, fun i hi => ?_, fun p' hp' => ?_, ?_⟩
  · rw [List.map_map]
    exact (List.map_congr_left hfst).symm ▸ hnodup
  · obtain ⟨p, hp, rfl⟩ := List.mem_map.1 hp'
    have hold := hlanes p hp i
    split
    · next he =>
      rw [beq_iff_eq] at he
      rw [BitVec.getLsbD_or, laneBit_getLsbD hl, hold]
      by_cases hi : i = l
      · simp [hi, he]
      · simp [hi]
    · next he =>
      rw [hold]
      by_cases hi : i = l
      · subst hi
        have hne : next i ≠ p.1 := fun heq => he (beq_iff_eq.2 heq.symm)
        simp [hne]
      · simp [hi]
  · obtain ⟨p, hp, hpc⟩ : ∃ p ∈ ps, p.1 = next i := by
      rcases List.mem_append.1 hi with hi | hi
      · exact hcover i hi
      · rwa [List.mem_singleton.1 hi]
    exact ⟨_, List.mem_map_of_mem hp, (hfst p hp).trans hpc⟩
  · obtain ⟨p, hp, rfl⟩ := List.mem_map.1 hp'
    obtain ⟨i, hi, hpc⟩ := hsome p hp
    exact ⟨i, List.mem_append_left _ hi, hpc.trans (hfst p hp).symm⟩
  · rw [List.pairwise_map]
    refine horder.imp_of_mem fun hp hq h => ?_
    rw [hfst _ hp, hfst _ hq]
    exact order_snoc hnew h

theorem Parted.begin (h : Parted next seen ps) (hl : l < 96) (hnew : ∀ i ∈ seen, i < l) (hnone : ∀ p ∈ ps, p.1 ≠ next l) :
    Parted next (seen ++ [l]) (ps ++ [(next l, BitVec.ofNat 96 (2 ^ l))]) := by
  obtain ⟨hnodup, hlanes, hcover, hsome, horder⟩ := h
  have hother : ∀ i ∈ seen, next i ≠ next l := fun i hi heq => by
    obtain ⟨p, hp, hpc⟩ := hcover i hi
    exact hnone p hp (hpc.trans heq)
  refine ⟨?_, fun p hp i => ?_, fun i hi => ?_, fun p hp => ?_, ?_⟩
  · rw [List.map_append, List.nodup_append]
    refine ⟨hnodup, List.nodup_singleton _, fun a ha b hb => ?_⟩
    obtain ⟨p, hp, rfl⟩ := List.mem_map.1 ha
    rw [List.mem_singleton.1 hb]
    exact hnone p hp
  · rcases List.mem_append.1 hp with hold | hold
    · rw [hlanes p hold i]
      by_cases hi : i = l
      · subst hi
        have hne : next i ≠ p.1 := fun heq => hnone p hold heq.symm
        simp [hne]
      · simp [hi]
    · rw [List.mem_singleton.1 hold]
      dsimp only
      rw [laneBit_getLsbD hl]
      by_cases hi : i = l
      · simp [hi]
      · by_cases hseen : i ∈ seen
        · simp [hi, hseen, hother i hseen]
        · simp [hi, hseen]
  · rcases List.mem_append.1 hi with hi | hi
    · obtain ⟨p, hp, hpc⟩ := hcover i hi
      exact ⟨p, List.mem_append_left _ hp, hpc⟩
    · rw [List.mem_singleton.1 hi]
      exact ⟨_, List.mem_append_right _ (List.mem_singleton_self _), rfl⟩
  · rcases List.mem_append.1 hp with hp | hp
    · obtain ⟨i, hi, hpc⟩ := hsome p hp
      exact ⟨i, List.mem_append_left _ hi, hpc⟩
    · rw [List.mem_singleton.1 hp]
      exact ⟨l, List.mem_append_right _ (List.mem_singleton_self _), rfl⟩
  · rw [List.pairwise_append]
    refine ⟨horder.imp fun h => order_snoc hnew h, List.pairwise_singleton _ _, fun p hp q hq => ?_⟩
    obtain ⟨i, hi, hpc⟩ := hsome p hp
    rw [List.mem_singleton.1 hq]
    refine ⟨i, List.mem_append_left _ hi, hpc, fun j hj hlast => ?_⟩
    rcases List.mem_append.1 hj with hj | hj
    · exact absurd hlast (hother j hj)
    · rw [List.mem_singleton.1 hj]
      exact hnew i hi

theorem Parted.addLane (h : Parted next seen ps) (hl : l < 96) (hnew : ∀ i ∈ seen, i < l) :
    Parted next (seen ++ [l]) (addLane next ps l) := by
  unfold Machine.addLane
  split
  · next hany => exact h.join hl hnew (by simpa using hany)
  · next hnone => exact h.begin hl hnew fun p hp hpc => hnone (List.any_eq_true.2 ⟨p, hp, beq_iff_eq.2 hpc⟩)

theorem Parted.foldl {ls : List Nat} (h : Parted next seen ps) (hls : ∀ l ∈ ls, l < 96) (hnew : ∀ l ∈ ls, ∀ i ∈ seen, i < l)
    (hsorted : ls.Pairwise (· < ·)) : Parted next (seen ++ ls) (ls.foldl (Machine.addLane next) ps) := by
  induction ls generalizing seen ps with
  | nil => rwa [List.append_nil]
  | cons l ls ih =>
    obtain ⟨hlow, hsorted⟩ := List.pairwise_cons.1 hsorted
    have hstep := h.addLane (hls l List.mem_cons_self) (hnew l List.mem_cons_self)
    have hrest := ih hstep (fun j hj => hls j (List.mem_cons_of_mem _ hj)) (fun j hj i hi => ?_) hsorted
    · rwa [List.append_assoc] at hrest
    · rcases List.mem_append.1 hi with hi | hi
      · exact hnew j (List.mem_cons_of_mem _ hj) i hi
      · rw [List.mem_singleton.1 hi]
        exact hlow j hj

end

section
variable {owned : LaneMask} {next : Nat → Word} {ps : List (Word × LaneMask)}

theorem mem_lanesOf {m : LaneMask} {l : Nat} : l ∈ lanesOf m ↔ m.getLsbD l = true := by
  simp only [lanesOf, List.mem_filter, List.mem_range, and_iff_right_iff_imp]
  exact BitVec.lt_of_getLsbD

/-- The paths of a branch are the sets of the owned lanes by next PC (06, R123, step 1). -/
theorem parted_pathsOf (owned : LaneMask) (next : Nat → Word) : Parted next (lanesOf owned) (pathsOf owned next) := by
  have hnone : Parted next [] [] := ⟨List.nodup_nil, by simp, by simp, by simp, List.Pairwise.nil⟩
  have hsorted : (lanesOf owned).Pairwise (· < ·) := List.pairwise_lt_range.filter _
  exact hnone.foldl (fun l hl => BitVec.lt_of_getLsbD (mem_lanesOf.1 hl)) (by simp) hsorted

theorem Parted.mask_ne_zero {seen : List Nat} (h : Parted next seen ps) : ∀ p ∈ ps, p.2 ≠ 0 := fun p hp hzero => by
  obtain ⟨l, hl, hpc⟩ := h.some p hp
  have hlane := h.lanes p hp l
  rw [hzero, decide_eq_true hl, decide_eq_true hpc] at hlane
  simp at hlane

theorem pathsOfABranch : partPathsOfABranch := by
  intro owned next ps lowest
  have h := parted_pathsOf owned next
  have hlanes (p) (hp : p ∈ ps) (l : Nat) : p.2.getLsbD l = (owned.getLsbD l && decide (next l = p.1)) := by
    rw [h.lanes p hp l, Bool.eq_iff_iff]
    simp [mem_lanesOf]
  refine ⟨h.nodup, hlanes, fun l hl => h.cover l (mem_lanesOf.2 hl), h.mask_ne_zero, h.order.imp_of_mem ?_⟩
  rintro p q hp hq ⟨k, hk, hpc, hlow⟩ i j ⟨-, hleast⟩ ⟨hj, -⟩
  have hjq := h.lanes q hq j
  rw [hj] at hjq
  simp only [Bool.true_eq, Bool.and_eq_true, decide_eq_true_eq] at hjq
  have hkj : k < j := hlow j hjq.1 hjq.2
  have hik : i ≤ k := Nat.le_of_not_lt fun hki => by
    have hnot := hleast k hki
    rw [h.lanes p hp k, decide_eq_true hk, decide_eq_true hpc] at hnot
    cases hnot
  exact Nat.lt_of_le_of_lt hik hkj

end

end Sys2Proof.Machine

namespace Sys2Proof.Machine

open Sys2Proof.Spec

/-! ## Divergence (06, R123) -/

section
variable {c : Ctx} {opc : Nat} {f : Fields} {own : Ctx → Nat → Bool} {s : State} {r : Word} {p q : Word × LaneMask}
  {ps : List (Word × LaneMask)}

theorem pushAll_of_room {s : State} {g : Group} {es : List StackEntry} (h : g.stack.length + es.length ≤ 4) :
    pushAll s g es = .ok s { g with stack := es.reverse ++ g.stack } := by
  induction es generalizing g with
  | nil => rfl
  | cons e es ih =>
    rw [List.length_cons] at h
    rw [pushAll, pushEntry_of_room (by omega), List.reverse_cons, List.append_assoc]
    exact ih (by rw [List.length_cons]; omega)

/-- The join entry of a divergence: of the group where it fills the other slot, else of the slot (06, R123). -/
def joinEntry (c : Ctx) (r : Word) : StackEntry :=
  { kind := .join, tag := if (c.g.slot (!c.b)).vacant then .group else if c.b then .slotB else .slotA, fmt := c.slot.fmt, rpc := c.slot.rpc,
    pc := r, mask := c.slot.owned }

/-- The paths of a divergence that wait on the stack. -/
def waiting (c : Ctx) (q : Word × LaneMask) (ps : List (Word × LaneMask)) : List (Word × LaneMask) :=
  if (c.g.slot (!c.b)).vacant then ps else q :: ps

/-- The group whose slot takes the path `p`, with the others on the stack. -/
def stacked (c : Ctx) (p q : Word × LaneMask) (ps : List (Word × LaneMask)) (r : Word) : Group :=
  { c.g with stack := (waiting c q ps).map (pathEntry c r) ++ joinEntry c r :: c.g.stack }.setSlot c.b (pathSlot c r p)

/-- The group that has diverged (06, R123; 05, R108, R112). -/
def diverged (c : Ctx) (p q : Word × LaneMask) (ps : List (Word × LaneMask)) (r : Word) : Group :=
  if (c.g.slot (!c.b)).vacant then (((stacked c p q ps r).setSlot (!c.b) (pathSlot c r q)).emptyFiles).shareWindows c.b
  else stacked c p q ps r

theorem diverge_of_room (hroom : c.g.stack.length + pushed c ps ≤ 4) :
    diverge c (p :: q :: ps) r = .moved (c.s.setGroup c.k (diverged c p q ps r)) := by
  have hpushed : 1 + (waiting c q ps).length = pushed c ps := by
    unfold waiting pushed
    split
    · rfl
    · rw [List.length_cons]; omega
  have hpush : pushAll c.s c.g (joinEntry c r :: (waiting c q ps).reverse.map (pathEntry c r)) =
      .ok c.s { c.g with stack := (waiting c q ps).map (pathEntry c r) ++ joinEntry c r :: c.g.stack } := by
    rw [pushAll_of_room (by rw [List.length_cons, List.length_map, List.length_reverse]; omega), List.reverse_cons, List.map_reverse,
      List.reverse_reverse, List.append_assoc]
    rfl
  show (match pushAll c.s c.g (joinEntry c r :: (waiting c q ps).reverse.map (pathEntry c r)) with
    | .ok s g => Res.moved (s.setGroup c.k (if (c.g.slot (!c.b)).vacant then
        (((g.setSlot c.b (pathSlot c r p)).setSlot (!c.b) (pathSlot c r q)).emptyFiles).shareWindows c.b else g.setSlot c.b (pathSlot c r p)))
    | x => stackFails c x) = _
  rw [hpush]
  rfl

theorem shareWindows_done {g : Group} (h : NoneDone g.windows) (b : Bool) : NoneDone (g.shareWindows b).windows := by
  intro w hw
  obtain ⟨w', hw', rfl⟩ := List.mem_map.1 hw
  have hdone := h w' hw'
  split_ifs <;> exact hdone

theorem shareWindows_frame (g : Group) (b : Bool) : g.shareWindows b = { g with windows := (g.shareWindows b).windows } := rfl

theorem stacked_frame (c : Ctx) (p q : Word × LaneMask) (ps : List (Word × LaneMask)) (r : Word) : stacked c p q ps r =
    { c.g with stack := (waiting c q ps).map (pathEntry c r) ++ joinEntry c r :: c.g.stack, slotA := (stacked c p q ps r).slotA,
               slotB := (stacked c p q ps r).slotB } := by
  rw [stacked, setSlot_frame]

/-- What a divergence leaves of its group where the other slot is empty. -/
theorem diverged_vacant (hfree : (c.g.slot (!c.b)).vacant = true) : ∃ ws, diverged c p q ps r =
    ({ (stacked c p q ps r).setSlot (!c.b) (pathSlot c r q) with latch := [], q0 := none, q1 := none, windows := ws } : Group) ∧
      ((∀ w ∈ c.g.windows, w.done = false) → NoneDone ws) := by
  rw [diverged, if_pos hfree, shareWindows_frame]
  refine ⟨_, rfl, fun h => shareWindows_done (fun w hw => h w ?_) _⟩
  rwa [Group.emptyFiles, setSlot_frame, stacked_frame] at hw

theorem diverged_occupied (hfree : (c.g.slot (!c.b)).vacant = false) : diverged c p q ps r = stacked c p q ps r := by
  rw [diverged, hfree]
  rfl

theorem turns_diverged (h : Calm opc f noNames s c own) : Turns c (diverged c p q ps r) := by
  cases hfree : (c.g.slot (!c.b)).vacant with
  | true =>
    obtain ⟨ws, hdiverged, hdone⟩ := diverged_vacant (p := p) (q := q) (ps := ps) (r := r) hfree
    rw [hdiverged, setSlot_frame, stacked_frame]
    exact ⟨rfl, hdone h.windows⟩
  | false =>
    rw [diverged_occupied hfree, stacked_frame]
    exact ⟨rfl, h.windows⟩

/-- A word that has diverged has split its slot (06, R123). -/
theorem Issued.splits {T : Group} (hT : Issued c (diverged c p q ps r) T) (hp : p.2 ≠ 0) (hq : q.2 ≠ 0) :
    Splits c (c.s.setGroup c.k T) p q ps r := by
  obtain ⟨hframe, hkept, hfreed, -, hlatch, -⟩ := hT
  have hmine : (stacked c p q ps r).slot c.b = pathSlot c r p := slot_setSlot _ _ _
  have hother : (stacked c p q ps r).slot (!c.b) = c.g.slot (!c.b) := slot_setSlot_not _ _ _
  have hstacked := stacked_frame c p q ps r
  cases hfree : (c.g.slot (!c.b)).vacant with
  | true =>
    have hwaiting : waiting c q ps = ps := if_pos hfree
    have hjoin : joinEntry c r = { kind := .join, tag := .group, fmt := c.slot.fmt, rpc := c.slot.rpc, pc := r, mask := c.slot.owned } := by
      rw [joinEntry, hfree]; rfl
    rw [hwaiting, hjoin] at hstacked
    obtain ⟨ws, hdiverged, -⟩ := diverged_vacant (p := p) (q := q) (ps := ps) (r := r) hfree
    have hslots : ((stacked c p q ps r).setSlot (!c.b) (pathSlot c r q)).slot c.b = pathSlot c r p := by
      have := slot_setSlot_not (stacked c p q ps r) (!c.b) (pathSlot c r q)
      rwa [Bool.not_not, hmine] at this
    have hfilled := slot_setSlot (stacked c p q ps r) (!c.b) (pathSlot c r q)
    have hset := setSlot_frame (stacked c p q ps r) (!c.b) (pathSlot c r q)
    generalize (stacked c p q ps r).setSlot (!c.b) (pathSlot c r q) = G at *
    generalize stacked c p q ps r = S at *
    have hboth : G.bothLive = true := by
      have hlive (b : Bool) : G.live b = true := by
        rcases Bool.eq_or_eq_not b c.b with rfl | rfl
        · rw [Group.live, hslots]; simpa [pathSlot] using hp
        · rw [Group.live, hfilled]; simpa [pathSlot] using hq
      rw [Group.bothLive, hlive, hlive]; rfl
    rw [hdiverged] at hframe hkept hlatch
    constructor
    case machine => rfl
    case others => exact fun j hj => setGroup_others _ _ _ hj
    all_goals rw [after_setGroup]
    case group => rw [OnlyPath, hframe, hset, hstacked]
    case regs => exact ⟨fun n hn => by rw [hkept n hn, hset, hstacked], hfreed⟩
    case loops => intro n _; rw [hframe, hset, hstacked]; rfl
    case first => rw [hframe]; exact hslots
    case second =>
      intro _
      refine ⟨by rw [hframe]; exact hfilled, hlatch hboth rfl, by rw [hframe], by rw [hframe], by rw [hframe, hset, hstacked]⟩
    case third => exact fun h => absurd (hfree.symm.trans h) (by decide)
  | false =>
    have hwaiting : waiting c q ps = q :: ps := by rw [waiting, hfree]; rfl
    have hjoin : joinEntry c r = { kind := .join, tag := if c.b then .slotB else .slotA, fmt := c.slot.fmt, rpc := c.slot.rpc, pc := r,
                                   mask := c.slot.owned } := by
      rw [joinEntry, hfree]; rfl
    rw [hwaiting, hjoin] at hstacked
    rw [diverged_occupied hfree] at hframe hkept
    generalize stacked c p q ps r = S at *
    constructor
    case machine => rfl
    case others => exact fun j hj => setGroup_others _ _ _ hj
    all_goals rw [after_setGroup]
    case group => rw [OnlyPath, hframe, hstacked]
    case regs => exact ⟨fun n hn => by rw [hkept n hn, hstacked], hfreed⟩
    case loops => intro n _; rw [hframe, hstacked]; rfl
    case first => rw [hframe]; exact hmine
    case second => exact fun h => absurd (hfree.symm.trans h) (by decide)
    case third =>
      intro _
      refine ⟨by rw [hframe]; exact hother, by rw [hframe, hstacked], by rw [hframe, hstacked], by rw [hframe, hstacked]⟩

theorem settle_diverge (h : Calm opc f noNames s c own) (hll : Forms.longLatency opc = false) (hd : (roles opc f).d = false)
    (hroom : c.g.stack.length + pushed c ps ≤ 4) (hp : p.2 ≠ 0) (hq : q.2 ≠ 0) :
    Splits c (settle c c.s (diverge c (p :: q :: ps) r)) p q ps r := by
  obtain ⟨T, hT, hsettle⟩ := settle_moved h hll hd (holds_setGroup h) (turns_diverged (p := p) (q := q) (ps := ps) (r := r) h)
  rw [diverge_of_room hroom, hsettle]
  exact hT.splits hp hq

theorem pushesFor_eq (c : Ctx) (ps : List (Word × LaneMask)) : pushesFor c (ps.length + 2) = pushed c ps := by
  rw [pushesFor, if_neg (by omega), pushed]
  split <;> omega

end

end Sys2Proof.Machine

namespace Sys2Proof.Machine

open Sys2Proof.Spec

/-! ## `bra`, `brc` and `brx` (06, R136–R138) -/

section
variable {owned act : LaneMask} {next : Nat → Word} {x y : Word} {p : Word × LaneMask}

theorem exists_lane {m : LaneMask} (h : m ≠ 0) : ∃ l, m.getLsbD l = true := by
  obtain ⟨l, hl⟩ := List.exists_mem_of_length_pos (Nat.pos_of_ne_zero (lanes_ne_zero h))
  exact ⟨l, mem_lanesOf.1 hl⟩

/-- A path's PC is the next PC of an owned lane, and its mask is that of the lanes with that next PC. -/
theorem mem_pathsOf (hp : p ∈ pathsOf owned next) :
    (∃ l, owned.getLsbD l = true ∧ next l = p.1) ∧ ∀ l, p.2.getLsbD l = (owned.getLsbD l && decide (next l = p.1)) := by
  obtain ⟨l, hl, hpc⟩ := (parted_pathsOf owned next).some p hp
  exact ⟨⟨l, mem_lanesOf.1 hl, hpc⟩, (pathsOfABranch owned next).2.1 p hp⟩

theorem path_of_lane {l : Nat} (hl : owned.getLsbD l = true) : ∃ p ∈ pathsOf owned next, p.1 = next l :=
  (parted_pathsOf owned next).cover l (mem_lanesOf.2 hl)

theorem pathsOf_zero (next : Nat → Word) : pathsOf 0 next = [] := by
  have hnone : lanesOf 0 = [] := List.eq_nil_iff_forall_not_mem.2 fun l hl => by simpa using mem_lanesOf.1 hl
  rw [pathsOf_eq, hnone]
  rfl

/-- Owned lanes with one next PC make one path. -/
theorem pathsOf_one (howned : owned ≠ 0) (h : ∀ l, owned.getLsbD l = true → next l = x) : pathsOf owned next = [(x, owned)] := by
  have hpc : ∀ p ∈ pathsOf owned next, p = (x, owned) := fun p hp => by
    obtain ⟨⟨l, hl, hx⟩, hmask⟩ := mem_pathsOf hp
    have h1 : p.1 = x := hx.symm.trans (h l hl)
    refine Prod.ext h1 (BitVec.eq_of_getLsbD_eq fun i _ => ?_)
    rw [hmask i, h1]
    cases hi : owned.getLsbD i with
    | false => rfl
    | true => simp [h i hi]
  obtain ⟨l, hl⟩ := exists_lane howned
  obtain ⟨p, hp, -⟩ := path_of_lane (next := next) hl
  have hnodup := (parted_pathsOf owned next).nodup
  match hps : pathsOf owned next with
  | [] => rw [hps] at hp; cases hp
  | [q] => rw [hpc q (by rw [hps]; exact List.mem_singleton_self _)]
  | q :: r :: _ =>
    have hqr : q = r := (hpc q (by simp [hps])).trans (hpc r (by simp [hps])).symm
    rw [hps, hqr] at hnodup
    simp at hnodup

theorem owned_of_active (hsub : act &&& ~~~owned = 0) {l : Nat} (hl : act.getLsbD l = true) : owned.getLsbD l = true := by
  have hnot := congrArg (BitVec.getLsbD · l) hsub
  simp only [BitVec.getLsbD_and, BitVec.getLsbD_not, hl, BitVec.lt_of_getLsbD hl, decide_true, Bool.true_and] at hnot
  simpa using hnot

/-- The paths of a branch whose active lanes go to `x` and whose other owned lanes go to `y`. -/
theorem mem_pathsOf_two (hxy : x ≠ y) (hsub : act &&& ~~~owned = 0)
    (hp : p ∈ pathsOf owned (fun l => if act.getLsbD l then x else y)) : p = (x, act) ∨ p = (y, owned &&& ~~~act) := by
  obtain ⟨⟨l, -, hpc⟩, hmask⟩ := mem_pathsOf hp
  by_cases hl : act.getLsbD l = true
  · rw [if_pos hl] at hpc
    refine .inl (Prod.ext hpc.symm (BitVec.eq_of_getLsbD_eq fun i _ => ?_))
    rw [hmask i, ← hpc]
    by_cases hi : act.getLsbD i = true
    · simp [hi, owned_of_active hsub hi]
    · simp [hi, hxy.symm]
  · rw [if_neg hl] at hpc
    refine .inr (Prod.ext hpc.symm (BitVec.eq_of_getLsbD_eq fun i hlt => ?_))
    rw [hmask i, ← hpc]
    simp [hlt, hxy]

/-- Owned lanes with two next PCs make two paths, that of the lowest owned lane first. -/
theorem pathsOf_two (hxy : x ≠ y) (hsub : act &&& ~~~owned = 0) (hact : act ≠ 0) (hrest : owned &&& ~~~act ≠ 0) :
    ∃ p q, pathsOf owned (fun l => if act.getLsbD l then x else y) = [p, q] ∧
      ∀ l, (∀ i, i < l → owned.getLsbD i = false) → owned.getLsbD l = true →
        if act.getLsbD l then p = (x, act) ∧ q = (y, owned &&& ~~~act) else p = (y, owned &&& ~~~act) ∧ q = (x, act) := by
  have hmem : ∀ p ∈ pathsOf owned (fun l => if act.getLsbD l then x else y), p = (x, act) ∨ p = (y, owned &&& ~~~act) :=
    fun p hp => mem_pathsOf_two hxy hsub hp
  obtain ⟨i, hi⟩ := exists_lane hact
  obtain ⟨j, hj⟩ := exists_lane hrest
  rw [BitVec.getLsbD_and, BitVec.getLsbD_not, Bool.and_eq_true, Bool.and_eq_true, Bool.not_eq_true'] at hj
  obtain ⟨hjowned, -, hjact⟩ := hj
  obtain ⟨p, hp, hpx⟩ := path_of_lane (next := fun l => if act.getLsbD l then x else y) (owned_of_active hsub hi)
  obtain ⟨q, hq, hqy⟩ := path_of_lane (next := fun l => if act.getLsbD l then x else y) hjowned
  simp only [hi, if_true] at hpx
  simp only [hjact, Bool.false_eq_true, if_false] at hqy
  obtain rfl := (hmem p hp).resolve_right fun he => hxy (hpx.symm.trans (congrArg Prod.fst he))
  obtain rfl := (hmem q hq).resolve_left fun he => hxy ((congrArg Prod.fst he).symm.trans hqy)
  have hparted := parted_pathsOf owned (fun l => if act.getLsbD l then x else y)
  have htwo : (pathsOf owned fun l => if act.getLsbD l then x else y).Perm [(x, act), (y, owned &&& ~~~act)] := by
    refine (List.perm_ext_iff_of_nodup hparted.nodup.of_map (by simp [hxy])).2 fun r => ⟨fun hr => ?_, fun hr => ?_⟩
    · simpa using hmem r hr
    · rcases List.mem_pair.1 hr with rfl | rfl
      · exact hp
      · exact hq
  have hfirst {a b : Word × LaneMask} (hab : pathsOf owned (fun l => if act.getLsbD l then x else y) = [a, b]) {l : Nat}
      (hlow : ∀ i, i < l → owned.getLsbD i = false) (hl : owned.getLsbD l = true) : (if act.getLsbD l then x else y) ≠ b.1 := fun hb => by
    have horder := hparted.order
    rw [hab] at horder
    obtain ⟨k, hk, -, hbelow⟩ := (List.pairwise_cons.1 horder).1 b (List.mem_singleton_self _)
    have hnot := hlow k (hbelow l (mem_lanesOf.2 hl) hb)
    rw [mem_lanesOf.1 hk] at hnot
    cases hnot
  rcases List.perm_pair.1 htwo with hab | hab
  · refine ⟨_, _, hab, fun l hlow hl => ?_⟩
    by_cases ha : act.getLsbD l = true
    · rw [if_pos ha]
      exact ⟨rfl, rfl⟩
    · exact absurd (if_neg ha) (hfirst hab hlow hl)
  · refine ⟨_, _, hab, fun l hlow hl => ?_⟩
    by_cases ha : act.getLsbD l = true
    · exact absurd (if_pos ha) (hfirst hab hlow hl)
    · rw [if_neg ha]
      exact ⟨rfl, rfl⟩

end

section
variable {c : Ctx} {f : Fields} {s : State} {r x : Word} {next : Nat → Word} {own : Ctx → Nat → Bool} {opc : Nat}

theorem leavesLoop_eq_false {ts : List Word} (h : ∀ t ∈ ts, stays c t) : leavesLoop c ts = false := by
  unfold leavesLoop
  split
  · next n l hin =>
    rw [Bool.and_assoc, ← Bool.not_eq_true]
    simp only [Bool.and_eq_true, List.any_eq_true, Bool.not_eq_true', decide_eq_true_eq, not_and, not_exists]
    rintro hinh ⟨hstart, hstop⟩ t ht
    simp [h t ht n l hin hinh hstart hstop]
  · rfl

theorem exec_bra_eq (f : Fields) (s : State) : exec (.bra f) s = .next (issue 0x002 f
    (fun c => firstTrap [(leavesLoop c [target c f.aux], c.loopMisuse)]) noNames (fun c => .goto c.s (target c f.aux)) s) := rfl

theorem exec_bra (h : Calm 0x002 f noNames s c) (hstays : stays c (instrs c f.aux.toInt)) : ∃ t, exec (.bra f) s = .next t ∧
    Goes c t { c.slot with pc := instrs c f.aux.toInt } (keepLoops c) c.g.stack := by
  rw [← target_eq_instrs] at hstays ⊢
  have hleaves : leavesLoop c [target c f.aux] = false := leavesLoop_eq_false (by simpa using hstays)
  rw [exec_bra_eq, issue_calm h h.form (firstTrap_one hleaves _)]
  exact ⟨_, rfl, goes_to h rfl rfl _⟩

/-- Owned lanes with one next PC jump there; a slot without lanes goes on. -/
theorem goes_one (h : Calm opc f noNames s c own) (hopc : endAllowed opc = false) (hll : Forms.longLatency opc = false)
    (hd : (roles opc f).d = false) (hnext : ∀ l, c.slot.owned.getLsbD l = true → next l = x) (hnone : c.slot.owned = 0 → x = c.pc + 12) :
    (pathsOf c.slot.owned next).length < 2 ∧
      Goes c (settle c c.s (diverge c (pathsOf c.slot.owned next) r)) { c.slot with pc := x } (keepLoops c) c.g.stack := by
  by_cases howned : c.slot.owned = 0
  · rw [howned, pathsOf_zero, hnone howned]
    exact ⟨by decide, goes_on h hopc hll hd⟩
  · rw [pathsOf_one howned hnext]
    exact ⟨Nat.one_lt_two, goes_to h hll hd x⟩

theorem pushesFor_one {n : Nat} (h : n < 2) : pushesFor c n = 0 := if_pos h

theorem exec_brc_eq (f : Fields) (s : State) : exec (.brc f) s = .next (issue 0x003 f
    (fun c => firstTrap [(f.bh == 3 && c.any && c.act != c.slot.owned, c.illegalConv),
                         (c.any && leavesLoop c [target c f.aux], c.loopMisuse),
                         (noRoom c (pushesFor c (brcPaths c).length), c.stackFull)])
    noNames (fun c => diverge c (brcPaths c) (target c f.b)) s) := rfl

theorem firstTrap_three {a b d : Bool} {x y z : TrapInfo} (ha : a = false) (hb : b = false) (hd : d = false) :
    firstTrap [(a, x), (b, y), (d, z)] = none := by
  simp [firstTrap, ha, hb, hd]

theorem brcPaths_eq (h : Calm opc f noNames s c own) :
    brcPaths c = pathsOf c.slot.owned fun l => if c.act.getLsbD l then instrs c f.aux.toInt else c.pc + 12 := by
  obtain ⟨-, -, -, -, rfl⟩ := ctx_group h.ctx
  rw [brcPaths, target_eq_instrs]

/-- A `brc` whose owned lanes all go to `x`. -/
theorem exec_brc_one (h : Calm 0x003 f noNames s c) (hbh : (f.bh == 3 && c.any && c.act != c.slot.owned) = false)
    (hstays : (c.any && leavesLoop c [target c f.aux]) = false) (hdepth : c.g.depth ≤ 4 + c.record.stackN)
    (hnext : ∀ l, c.slot.owned.getLsbD l = true → (if c.act.getLsbD l then instrs c f.aux.toInt else c.pc + 12) = x)
    (hnone : c.slot.owned = 0 → x = c.pc + 12) : ∃ t, exec (.brc f) s = .next t ∧
      Goes c t { c.slot with pc := x } (keepLoops c) c.g.stack := by
  obtain ⟨hlength, hgoes⟩ := goes_one (r := target c f.b) h rfl rfl rfl hnext hnone
  rw [← brcPaths_eq h] at hlength hgoes
  have hroom : noRoom c (pushesFor c (brcPaths c).length) = false := by
    rw [pushesFor_one hlength]
    exact noRoom_eq_false hdepth
  rw [exec_brc_eq, issue_calm h h.form (firstTrap_three hbh hstays hroom)]
  exact ⟨_, rfl, hgoes⟩

theorem any_eq_false (h : c.any = false) (l : Nat) : c.act.getLsbD l = false := by
  have hact : c.act = 0 := by simpa [Ctx.any] using h
  rw [hact]
  exact BitVec.getLsbD_zero

theorem exec_brc_none (h : Calm 0x003 f noNames s c) (hany : c.any = false) (hdepth : c.g.depth ≤ 4 + c.record.stackN) :
    ∃ t, exec (.brc f) s = .next t ∧ Goes c t { c.slot with pc := c.pc + 12 } (keepLoops c) c.g.stack :=
  exec_brc_one h (by simp [hany]) (by simp [hany]) hdepth (fun l _ => by simp [any_eq_false hany l]) fun _ => rfl

theorem exec_brc_all (h : Calm 0x003 f noNames s c) (hsub : c.act &&& ~~~c.slot.owned = 0) (hany : c.any = true)
    (hstays : stays c (instrs c f.aux.toInt))
    (hall : c.slot.owned &&& ~~~c.act = 0 ∨ (instrs c f.aux.toInt = c.pc + 12 ∧ f.bh ≠ 3)) (hdepth : c.g.depth ≤ 4 + c.record.stackN) :
    ∃ t, exec (.brc f) s = .next t ∧ Goes c t { c.slot with pc := instrs c f.aux.toInt } (keepLoops c) c.g.stack := by
  have hleaves : leavesLoop c [target c f.aux] = false := leavesLoop_eq_false (by simpa [target_eq_instrs] using hstays)
  have hact : c.act ≠ 0 := by simpa [Ctx.any] using hany
  have hequal (h0 : c.slot.owned &&& ~~~c.act = 0) : c.act = c.slot.owned := BitVec.eq_of_getLsbD_eq fun i _ => by
    rw [Bool.eq_iff_iff]
    exact ⟨owned_of_active hsub, owned_of_active h0⟩
  refine exec_brc_one h ?_ (by rw [hleaves, Bool.and_false]) hdepth (fun l hl => ?_) fun h0 => ?_
  · rcases hall with h0 | ⟨-, hbh⟩
    · simp [hequal h0]
    · rw [beq_eq_false_iff_ne.2 hbh]
      rfl
  · rcases hall with h0 | ⟨hpc, -⟩
    · rw [hequal h0, if_pos hl]
    · rw [hpc, ite_self]
  · obtain ⟨l, hl⟩ := exists_lane hact
    have howned := owned_of_active hsub hl
    rw [h0] at howned
    simp at howned

theorem exec_brc_split (h : Calm 0x003 f noNames s c) (hsub : c.act &&& ~~~c.slot.owned = 0) (hany : c.any = true)
    (hstays : stays c (instrs c f.aux.toInt)) (hrest : c.slot.owned &&& ~~~c.act ≠ 0) (htwo : instrs c f.aux.toInt ≠ c.pc + 12) (hbh : f.bh ≠ 3)
    (hdepth : c.g.depth + pushed c [] ≤ 4 + c.record.stackN) (hroom : c.g.stack.length + pushed c [] ≤ 4) :
    ∃ t p q, exec (.brc f) s = .next t ∧ Splits c t p q [] (instrs c f.b.toInt) ∧
      ∀ l, (∀ i, i < l → c.slot.owned.getLsbD i = false) → c.slot.owned.getLsbD l = true →
        if c.act.getLsbD l then p = (instrs c f.aux.toInt, c.act) ∧ q = (c.pc + 12, c.slot.owned &&& ~~~c.act)
        else p = (c.pc + 12, c.slot.owned &&& ~~~c.act) ∧ q = (instrs c f.aux.toInt, c.act) := by
  have hleaves : leavesLoop c [target c f.aux] = false := leavesLoop_eq_false (by simpa [target_eq_instrs] using hstays)
  have hact : c.act ≠ 0 := by simpa [Ctx.any] using hany
  obtain ⟨p, q, hpaths, hlowest⟩ := pathsOf_two htwo hsub hact hrest
  have hmask := (parted_pathsOf c.slot.owned fun l => if c.act.getLsbD l then instrs c f.aux.toInt else c.pc + 12).mask_ne_zero
  rw [hpaths] at hmask
  rw [← brcPaths_eq h] at hpaths
  have hfits : noRoom c (pushesFor c (brcPaths c).length) = false := by
    rw [hpaths]
    exact noRoom_eq_false (pushesFor_eq c [] ▸ hdepth)
  rw [exec_brc_eq, issue_calm h h.form (firstTrap_three (by rw [beq_eq_false_iff_ne.2 hbh]; rfl) (by rw [hleaves, Bool.and_false]) hfits), hpaths, target_eq_instrs]
  exact ⟨_, p, q, rfl, settle_diverge h rfl rfl hroom (hmask p (by simp)) (hmask q (by simp)), hlowest⟩

theorem branches_partBranches : partBranches := by
  intro f s c
  exact ⟨exec_bra, fun h hsub => ⟨exec_brc_none h, exec_brc_all h hsub, exec_brc_split h hsub⟩⟩

theorem exec_brx_eq (f : Fields) (s : State) : exec (.brx f) s = .next (issue 0x004 f
    (fun c => firstTrap [(f.bh == 3 && decide (2 ≤ (brxPaths c).length), c.illegalConv),
                         (leavesLoop c ((lanesOf c.act).map c.srcA.at), c.loopMisuse),
                         (noRoom c (pushesFor c (brxPaths c).length), c.stackFull)])
    noNames
    (fun c =>
      let bad := (lanesOf c.act).filter fun l => unaligned (c.srcA.at l)
      match bad with
      | l :: _ => targetFault c (c.srcA.at l) (maskOf c.g.width bad.contains)
      | [] => diverge c (brxPaths c) (target c f.b)) s) := rfl

/-- A `brx` whose targets are all aligned and do not leave the loop, and whose paths the stack has room for. -/
theorem exec_brx (h : Calm 0x004 f noNames s c)
    (htargets : ∀ l, c.act.getLsbD l = true → (xA c l).toNat % 12 = 0 ∧ stays c (xA c l))
    (hbh : 2 ≤ (brxPaths c).length → f.bh ≠ 3) (hdepth : c.g.depth + pushesFor c (brxPaths c).length ≤ 4 + c.record.stackN) :
    exec (.brx f) s = .next (settle c c.s (diverge c (brxPaths c) (instrs c f.b.toInt))) := by
  have hbad : (lanesOf c.act).filter (fun l => unaligned (c.srcA.at l)) = [] := by
    refine List.filter_eq_nil_iff.2 fun l hl => ?_
    have haligned := (htargets l (mem_lanesOf.1 hl)).1
    unfold xA at haligned
    simp [unaligned, haligned]
  have hleaves : leavesLoop c ((lanesOf c.act).map c.srcA.at) = false := leavesLoop_eq_false fun t ht => by
    obtain ⟨l, hl, rfl⟩ := List.mem_map.1 ht
    exact (htargets l (mem_lanesOf.1 hl)).2
  have hhint : (f.bh == 3 && decide (2 ≤ (brxPaths c).length)) = false := by
    by_cases hlength : 2 ≤ (brxPaths c).length
    · rw [beq_eq_false_iff_ne.2 (hbh hlength)]
      rfl
    · simp [hlength]
  rw [exec_brx_eq, issue_calm h h.form (firstTrap_three hhint hleaves (noRoom_eq_false hdepth))]
  simp only [hbad, target_eq_instrs]

theorem branches_partIndexedBranches : partIndexedBranches := by
  intro f s c h R paths htargets
  have hpaths : brxPaths c = paths := rfl
  refine ⟨fun p hp hdepth => ?_, fun p q ps hp hbh hdepth hroom => ?_⟩
  · rw [hp] at hpaths
    rw [exec_brx h htargets (by simp [hpaths]) (by rw [hpaths]; exact hdepth), hpaths]
    exact ⟨_, rfl, goes_to h rfl rfl _⟩
  · have hmask := (parted_pathsOf c.slot.owned fun l => if c.act.getLsbD l then xA c l else c.pc + 12).mask_ne_zero
    change ∀ p ∈ paths, p.2 ≠ 0 at hmask
    rw [hp] at hpaths hmask
    rw [exec_brx h htargets (fun _ => hbh) (by rw [hpaths]; exact pushesFor_eq c ps ▸ hdepth), hpaths]
    exact ⟨_, rfl, settle_diverge h rfl rfl hroom (hmask p (by simp)) (hmask q (by simp))⟩

end

/-- Settles O21: the paths by the fold that makes them (`parted_pathsOf`), a divergence into them by `settle_diverge`. -/
theorem branches : Obligations.Branches := ⟨branches_partBranches, branches_partIndexedBranches, pathsOfABranch⟩

end Sys2Proof.Machine

namespace Sys2Proof.Machine

/-! ## A page of a function's stage-2 space translates whole (03, R63) -/

section
variable {a b : Nat}

theorem bitsOf_of_page (h : a / 65536 = b / 65536) {hi lo : Nat} (hlo : 16 ≤ lo) : bitsOf a hi lo = bitsOf b hi lo := by
  obtain ⟨k, rfl⟩ := Nat.exists_eq_add_of_le hlo
  rw [bitsOf, bitsOf, Nat.shiftRight_add, Nat.shiftRight_add, Nat.shiftRight_eq_div_pow a 16, Nat.shiftRight_eq_div_pow b 16, h]

theorem index_of_page (h : a / 65536 = b / 65536) (stage level : Nat) : Xlat.index stage level a = Xlat.index stage level b := by
  unfold Xlat.index
  split <;> exact bitsOf_of_page h (by omega)

theorem div_pow_of_page (h : a / 65536 = b / 65536) {n : Nat} (hn : 16 ≤ n) : a / 2 ^ n = b / 2 ^ n := by
  obtain ⟨k, rfl⟩ := Nat.exists_eq_add_of_le hn
  rw [pow_add, ← Nat.div_div_eq_div_mul, ← Nat.div_div_eq_div_mul]
  exact congrArg (· / 2 ^ k) h

theorem le_tableShift (level : Nat) : 16 ≤ Xlat.tableShift level := by
  unfold Xlat.tableShift
  split <;> decide

theorem le_pageShift (level : Nat) : 16 ≤ Xlat.pageShift level := by
  unfold Xlat.pageShift
  split <;> decide

/-- A leaf gives two addresses of one page places in one page. -/
theorem leaf_of_page (h : a / 65536 = b / 65536) (x : Nat) {n : Nat} (hn : 16 ≤ n) :
    (x * 2 ^ n + a % 2 ^ n) / 65536 = (x * 2 ^ n + b % 2 ^ n) / 65536 := by
  obtain ⟨k, rfl⟩ := Nat.exists_eq_add_of_le hn
  have hpage : ∀ c, (x * 2 ^ (16 + k) + c % 2 ^ (16 + k)) / 65536 = x * 2 ^ k + c / 65536 % 2 ^ k := fun c => by
    rw [pow_add, ← Nat.mod_mul_right_div_self, mul_left_comm]
    exact Nat.mul_add_div (by decide) _ _
  rw [hpage, hpage, h]

theorem walk_of_page (h : a / 65536 = b / 65536) (rd : Nat → Nat → Except XFault Nat) (stage : Nat) {p e l : Nat} (levels : List Nat) (t : Nat)
    (hw : Xlat.walk rd stage a levels t = .ok (p, e, l)) : ∃ q, Xlat.walk rd stage b levels t = .ok (q, e, l) ∧ q / 65536 = p / 65536 := by
  induction levels generalizing t with
  | nil => cases hw
  | cons level rest ih =>
    rw [Xlat.walk, index_of_page h] at hw
    rw [Xlat.walk]
    split at hw
    · cases hw
    next x hx =>
      dsimp only
      split_ifs at hw ⊢ with hv hm ht
      · exact ih _ hw
      · cases hw
        exact ⟨_, rfl, leaf_of_page h.symm _ (le_pageShift _)⟩

namespace State

variable {s : State} {vmid die : Nat}

theorem readTable2_of_page (h : a / 65536 = b / 65536) : s.readTable2 die vmid a = s.readTable2 die vmid b := by
  funext level p
  rw [readTable2, readTable2, walkHit, walkHit, div_pow_of_page h (le_tableShift level)]

theorem walk2_of_page (h : a / 65536 = b / 65536) {p e l : Nat} (hw : s.walk2 die vmid a = .ok (p, e, l)) :
    ∃ q, s.walk2 die vmid b = .ok (q, e, l) ∧ q / 65536 = p / 65536 := by
  unfold walk2 at hw ⊢
  dsimp only at hw ⊢
  split_ifs at hw ⊢ with ha hv hb
  · omega
  · split at hw
    · cases hw
    next x hx =>
      cases hw
      rw [readTable2_of_page h] at hx
      obtain ⟨q, hq, hpage⟩ := walk_of_page h _ _ _ _ hx
      exact ⟨q, by rw [hq], hpage⟩

theorem mapCause_of_page (h : a / 65536 = b / 65536) : s.mapCause vmid a = s.mapCause vmid b := by
  rw [mapCause, mapCause, rangeOf, rangeOf, h]

/-- A stage-2 translation to device memory for a write holds of the whole page. -/
theorem translate2_of_page (h : a / 65536 = b / 65536) {x : Xlat} (ha : s.translate2 vmid a .write = .ok x) (hk : x.kind = 0) :
    ∃ y, s.translate2 vmid b .write = .ok y ∧ y.kind = 0 := by
  unfold translate2 at ha ⊢
  split at ha
  · cases ha
  next p e l hw =>
    obtain ⟨q, hq, hpage⟩ := walk2_of_page h hw
    have hmap : s.mapCause vmid (p / 65536 * 65536 + a % 2 ^ 16) = s.mapCause vmid (q / 65536 * 65536 + b % 2 ^ 16) :=
      mapCause_of_page (by omega)
    rw [hq]
    unfold permit at ha ⊢
    dsimp only at ha ⊢
    rw [hmap] at ha
    split_ifs at ha ⊢ with _ _ hkind
    · cases ha
      exact absurd hk (by simpa using hkind)
    · cases hm : s.mapCause vmid (q / 65536 * 65536 + b % 2 ^ 16) with
      | none => exact ⟨_, rfl, by simpa using hkind⟩
      | some c =>
        rw [hm] at ha
        split at ha
        · next hnone => cases hnone
        · cases ha
        · cases ha

theorem translateFunc_of_page {fn : Nat} (h : a / 65536 = b / 65536) {x : Xlat} (ha : s.translateFunc fn a .write = .ok x) (hk : x.kind = 0) :
    ∃ y, s.translateFunc fn b .write = .ok y ∧ y.kind = 0 := by
  unfold translateFunc at ha ⊢
  split at ha
  · cases ha
  · exact translate2_of_page h ha hk

/-- Bytes whose addresses all lie in one page of device memory have their cells. -/
theorem ringCells_of_page {fn : Nat} {at_ : Nat → Nat} {x : Xlat} (ha : s.translateFunc fn a .write = .ok x) (hk : x.kind = 0) (bs : List Byte) (i : Nat)
    (hpage : ∀ j, j < i + bs.length → a / 65536 = at_ j / 65536) : ∃ cs, s.ringCells fn at_ i bs = .ok cs := by
  induction bs generalizing i with
  | nil => exact ⟨[], rfl⟩
  | cons v bs ih =>
    obtain ⟨y, hy, hkind⟩ := translateFunc_of_page (hpage i (by simp)) ha hk
    obtain ⟨cs, hcs⟩ := ih (i + 1) fun j hj => hpage j (by simp; omega)
    simp only [ringCells, hy, hkind, hcs, bne_self_eq_false, Bool.false_eq_true, if_false]
    exact ⟨_, rfl⟩

/-- A record is written where its ring lies in one page of device memory. -/
theorem ringWrite_of_page {fn : Nat} {at_ : Nat → Nat} {bs : List Byte} {x : Xlat}
    (ha : (s.ringWalked fn at_ bs.length).translateFunc fn a .write = .ok x) (hk : x.kind = 0) (hpage : ∀ j, j < bs.length → a / 65536 = at_ j / 65536) :
    ∃ u, s.ringWrite fn at_ bs = some u := by
  obtain ⟨cs, hcs⟩ := ringCells_of_page ha hk bs 0 fun j hj => hpage j (by omega)
  exact ⟨_, by rw [ringWrite, hcs]⟩

end State

end

/-! ## Packets to the base dies go out in the order in which they are sent (10, R233)

Of the packets that the walks before a record have sent, a machine without launches still has each in its place once the record is written. -/

/-- From `s`, where no launch waits for a counter, to `t` packets have only been added behind those of `s`. -/
structure Sends (s t : State) : Prop where
  none    : s.launches = [] → t.launches = []
  packets : s.launches = [] → s.bdq <+: t.bdq

namespace Sends

variable {s t u : State}

theorem refl (s : State) : Sends s s := ⟨id, fun _ => List.prefix_refl _⟩

theorem trans (h : Sends s t) (h' : Sends t u) : Sends s u :=
  ⟨fun hs => h'.none (h.none hs), fun hs => (h.packets hs).trans (h'.packets (h.none hs))⟩

theorem of_same (hl : t.launches = s.launches) (hb : t.bdq = s.bdq) : Sends s t := ⟨hl.trans, fun _ => hb ▸ List.prefix_refl _⟩

theorem foldl {α : Type} {f : State → α → State} (hf : ∀ s x, Sends s (f s x)) (xs : List α) (s : State) : Sends s (xs.foldl f s) := by
  induction xs generalizing s with
  | nil => exact refl s
  | cons x xs ih => exact (hf s x).trans (ih _)

end Sends

namespace State

variable {s u : State}

theorem sends_setFunc (s : State) (fn : Nat) (f : Func) : Sends s (s.setFunc fn f) := .of_same rfl rfl

theorem sends_noteBlock (s : State) (fn ipa n : Nat) : Sends s (s.noteBlock fn ipa n) := by
  unfold noteBlock
  dsimp only
  split
  · exact sends_setFunc _ _ _
  · split <;> exact sends_setFunc _ _ _

theorem sends_noteBlocks (fuel : Nat) (s : State) (fn ipa n : Nat) : Sends s (noteBlocks fuel s fn ipa n) := by
  induction fuel generalizing s ipa n with
  | zero => exact .refl s
  | succ fuel ih =>
    unfold noteBlocks
    split
    · exact .refl s
    · exact (sends_noteBlock _ _ _ _).trans (ih _ _ _)

theorem sends_healLine (s : State) (cells : List Host.Cell) (bad : List Nat) : Sends s (s.healLine cells bad) := by
  unfold healLine
  repeat' split
  all_goals exact .of_same rfl rfl

theorem sends_strikeWindows (s : State) (owner : Option Nat) (cells : List Host.Cell) : Sends s (s.strikeWindows owner cells) := .of_same rfl rfl

theorem sends_sendInvals (s : State) (from_ : Option Nat) (cells : List Host.Cell) : Sends s (s.sendInvals from_ cells) := .of_same rfl rfl

theorem sends_wakeSleepers (s : State) (cells : List Host.Cell) : Sends s (s.wakeSleepers cells) := .of_same rfl rfl

theorem sends_homeLand (s : State) (from_ owner : Option Nat) (cells : List Host.Cell) (bad : List Nat) : Sends s (s.homeLand from_ owner cells bad) := by
  unfold homeLand
  split
  · exact .refl s
  · have hsend : ∀ pa req, Sends s (s.send pa req bad) := fun _ _ => ⟨id, fun _ => List.prefix_append _ _⟩
    exact ((hsend _ _).trans (sends_healLine _ _ _)).trans ((sends_strikeWindows _ _ _).trans ((sends_sendInvals _ _ _).trans (sends_wakeSleepers _ _)))

theorem sends_noteCounters (s : State) (lines : List Nat) : Sends s (s.noteCounters lines) := by
  have hquiet : s.launches = [] → s.noteCounters lines = s := fun h => by simp [noteCounters, h]
  exact ⟨fun h => by rw [hquiet h, h], fun h => by rw [hquiet h]⟩

theorem sends_homeWrites (s : State) (from_ owner : Option Nat) (cells : List Host.Cell) : Sends s (s.homeWrites from_ owner cells) :=
  .foldl (fun _ _ => (sends_homeLand _ _ _ _ _).trans (sends_noteCounters _ _)) _ _

/-- The packets of the walks stand before those of the record itself. -/
theorem sends_ringWrite {fn : Nat} {at_ : Nat → Nat} {bs : List Byte} (h : s.ringWrite fn at_ bs = some u) : Sends (s.ringWalked fn at_ bs.length) u := by
  unfold ringWrite at h
  dsimp only at h
  split at h
  · cases h
  · cases h
    refine Sends.trans (.foldl (fun s c => ?_) _ _) (sends_homeWrites _ _ _ _)
    split
    · exact sends_noteBlocks _ _ _ _ _
    · exact .refl s

end State

/-! ## A record read back from a core that stands out of order (17, R390; 10, R236)

The table of the cores lists core 1 before core 0. The record's group is of core 0, and wakes a bank of it: core 0 is then listed before core 1,
and the reductions that both buffer of a line which the walk reads merge in the other order. -/

/-- A reduction that a core buffers of the line of the root table: it ORs 0 to word `i`, and changes nothing. -/
def rootReduction (i : Nat) : SiltLine := { line := 8192, op := 4, float := false, signed := false, words := [(i, 0)], owners := [] }

/-- The group whose record is read: halted, with one register, in bank 0, of no lanes. -/
def recordGroup : Group :=
  { team := 0, grpid := 0, width := 0, core := 0, sched := 0, units := [0], halted := true, vregs := [(0, { vals := [], poison := 0 })] }

/-- Function 0 maps its first GiB by two table entries, and the record goes to its byte 0x1000_4000. -/
def unorderedCores : State :=
  { mem := [(1048576, 3), (1048578, 17), (1114112, 13)]
    ranges := [(0, { enable := true, limit := 16383 })]
    vmids := [(0, { valid := true, root := 1048576 })]
    funcs := [(0, { dbgArg := 0x10004000, logEnable := true })]
    teams := [(0, { launch := 0, teamid := 0, resident := true })]
    groups := [(0, recordGroup)]
    cores := [(1, { silt := [rootReduction 5] }), (0, { drowsy := [0], silt := [rootReduction 4] })] }

/-- DBG_CMD with GO and command 5, of core 0 and group slot 0. -/
def readRecord : Nat := 2 ^ 63 + 5 * 2 ^ 56

/-- The machine once DBG_CMD has taken the command's fields. -/
abbrev commandTaken : State := unorderedCores.setFunc 0 (dbgFields (unorderedCores.func 0) readRecord)

/-- The machine from which the command writes the record: the group's banks are awake. -/
def awakeCores : State := commandTaken.wakeBanks 0 recordGroup.inBank

/-- The bytes of the record lie one after the other. -/
def recordAt (i : Nat) : Nat := 0x10004000 + i

theorem length_record : (groupRecordBytes recordGroup).length = 2048 := by decide +kernel

theorem recordAt_page (j : Nat) (hj : j < (groupRecordBytes recordGroup).length) : 0x10004000 / 65536 = recordAt j / 65536 := by
  rw [length_record] at hj
  unfold recordAt
  omega

/-- The packets of the walks: core 1 merges first where core 0 stands behind it in the table, and core 0 where it has been woken. -/
theorem walked_packets :
    (unorderedCores.ringWalked 0 recordAt 2048).launches = [] ∧ (awakeCores.ringWalked 0 recordAt 2048).launches = [] ∧
    ((unorderedCores.ringWalked 0 recordAt 2048).bdq.head?.map (·.req)) = some (.atom 1048596 4 false false 0) ∧
    ((awakeCores.ringWalked 0 recordAt 2048).bdq.head?.map (·.req)) = some (.atom 1048592 4 false false 0) := by decide +kernel

theorem walked_translates :
    (unorderedCores.ringWalked 0 recordAt 2048).translateFunc 0 0x10004000 .write = .ok { pa := 0x10004000, kind := 0, vdn := 0, log := false, ipa := 0x10004000, level := 1 } ∧
    (awakeCores.ringWalked 0 recordAt 2048).translateFunc 0 0x10004000 .write = .ok { pa := 0x10004000, kind := 0, vdn := 0, log := false, ipa := 0x10004000, level := 1 } := by
  constructor <;> decide +kernel

theorem recordTarget : dbgTarget unorderedCores 0 0 0 = some (0, recordGroup) := by decide

theorem recordWaits_unorderedCores : recordWaits unorderedCores 0 readRecord = false := by decide +kernel

theorem exec_readRecord {v : State} (hv : awakeCores.ringWrite 0 recordAt (groupRecordBytes recordGroup) = some v) :
    exec (.dbgReadRecord 0 readRecord) unorderedCores = .next v := by
  change execDbgReadRecord 0 readRecord unorderedCores = _
  rw [execDbgReadRecord, recordWaits_unorderedCores]
  have hgo : (!unorderedCores.answers 0 || (unorderedCores.func 0).dbgGo || !bitOf readRecord 63 || bitsOf readRecord 59 56 != 5) = false := by decide
  have htarget : dbgTarget commandTaken 0 (bitsOf readRecord 42 32) (bitsOf readRecord 29 24) = some (0, recordGroup) := by decide
  have hread : (groupHalted commandTaken recordGroup && recordGroup.stable) = true := by decide
  have hmade : (commandTaken.wakeBanks recordGroup.core recordGroup.inBank).ringWrite 0 (fun i => (commandTaken.func 0).dbgArg + i) (groupRecordBytes recordGroup) =
      some v := hv
  simp only [dbgCommand, hgo, htarget, hread, hmade, Bool.false_eq_true, if_false, if_true, Option.getD_some]

/-- The first packet to a base die of a record's write is that of its walks. -/
theorem head_ringWrite {s u : State} {bs : List Byte} {req : BdReq} (hw : s.ringWrite 0 recordAt bs = some u)
    (hl : (s.ringWalked 0 recordAt bs.length).launches = []) (hreq : (s.ringWalked 0 recordAt bs.length).bdq.head?.map (·.req) = some req) :
    u.bdq.head?.map (·.req) = some req := by
  obtain ⟨ps, hps⟩ := (State.sends_ringWrite hw).packets hl
  rw [← hps, List.head?_append]
  cases hb : (s.ringWalked 0 recordAt bs.length).bdq.head? with
  | none => rw [hb] at hreq; cases hreq
  | some p => rwa [hb] at hreq

theorem not_partDebugCommands : ¬ Spec.partDebugCommands := by
  intro h
  obtain ⟨hl, hl', hfirst, hfirst'⟩ := walked_packets
  obtain ⟨hx, hx'⟩ := walked_translates
  rw [← length_record] at hl hl' hfirst hfirst' hx hx'
  obtain ⟨u, hu⟩ := State.ringWrite_of_page hx rfl recordAt_page
  obtain ⟨v, hv⟩ := State.ringWrite_of_page hx' rfl recordAt_page
  obtain ⟨-, hcmds⟩ := h unorderedCores 0 readRecord rfl (by decide) rfl
  obtain ⟨-, -, -, -, -, hread⟩ := hcmds 0 recordTarget
  obtain ⟨t, ht, hsame, -⟩ := hread u (by decide) (by decide) (by decide) (by decide +kernel) hu
  cases (exec_readRecord hv).symm.trans ht
  have hbdq : v.bdq = u.bdq := hsame ▸ rfl
  have hlast := head_ringWrite hv hl' hfirst'
  rw [hbdq, head_ringWrite hu hl hfirst] at hlast
  exact absurd hlast (by decide)

/-- Refutes O55: its third part says that `DBG_READ_RECORD` leaves the machine of the record's write as made from the state before the command,
functions and cores apart. The command wakes the group's banks before it writes; where the table of cores is out of order, which the part does not
rule out, that lists the group's core anew, before the others, and the reductions of a line that the walk reads reach the base die in another order
(`walked_packets`). -/
theorem not_stopAndObserve : ¬ Obligations.StopAndObserve := by
  rintro ⟨-, -, hdebug⟩
  exact not_partDebugCommands hdebug

end Sys2Proof.Machine

namespace Sys2Proof.Float

open Sys2Proof.Spec

/-! ## The magnitudes of a format (07, R152) -/

/-- The significand of a magnitude pattern. -/
def Format.sig (f : Format) (p : Nat) : Nat := if p / 2 ^ f.mbits = 0 then p else 2 ^ f.mbits + p % 2 ^ f.mbits

/-- The exponent of the last place of a magnitude pattern. -/
def Format.place (f : Format) (p : Nat) : Int := ((max (p / 2 ^ f.mbits) 1 : Nat) : Int) - f.bias - f.mbits

/-- The magnitude that a pattern without its sign stands for, the patterns beyond the largest finite one counted on. -/
def Format.mag (f : Format) (p : Nat) : ℚ := f.sig p * 2 ^ f.place p

/-- Halfway between the magnitudes of a pattern and of the next. -/
def Format.mid (f : Format) (p : Nat) : ℚ := (f.sig p + 1 / 2) * 2 ^ f.place p

theorem Format.mag_succ (f : Format) (p : Nat) : f.mag (p + 1) = (f.sig p + 1) * 2 ^ f.place p := by
  have hpos : 0 < 2 ^ f.mbits := Nat.two_pow_pos _
  have hdecomp := Nat.div_add_mod p (2 ^ f.mbits)
  have hlt : p % 2 ^ f.mbits < 2 ^ f.mbits := Nat.mod_lt _ hpos
  unfold Format.mag
  by_cases hlast : p % 2 ^ f.mbits + 1 = 2 ^ f.mbits
  · -- the next pattern begins a binade
    have hnext : p + 1 = 2 ^ f.mbits * (p / 2 ^ f.mbits + 1) := by rw [Nat.mul_succ]; omega
    have hdiv : (p + 1) / 2 ^ f.mbits = p / 2 ^ f.mbits + 1 := by rw [hnext, Nat.mul_div_cancel_left _ hpos]
    have hmod : (p + 1) % 2 ^ f.mbits = 0 := by rw [hnext, Nat.mul_mod_right]
    have hsig : f.sig (p + 1) = 2 ^ f.mbits := by simp [Format.sig, hdiv, hmod]
    by_cases hsub : p / 2 ^ f.mbits = 0
    · have hp : p + 1 = 2 ^ f.mbits := by rw [hnext, hsub]; simp
      have hplace : f.place (p + 1) = f.place p := by simp [Format.place, hdiv, hsub]
      rw [hsig, hplace, Format.sig, if_pos hsub, ← hp]
      push_cast
      rfl
    · have hplace : f.place (p + 1) = f.place p + 1 := by
        have hone : 1 ≤ p / 2 ^ f.mbits := Nat.pos_of_ne_zero hsub
        rw [Format.place, Format.place, hdiv, max_eq_left hone, max_eq_left (Nat.le_succ_of_le hone)]
        push_cast
        ring
      have hcast : ((p % 2 ^ f.mbits : Nat) : ℚ) + 1 = 2 ^ f.mbits := by exact_mod_cast hlast
      rw [hsig, hplace, Format.sig, if_neg hsub, zpow_add_one₀ two_ne_zero]
      push_cast at hcast ⊢
      linear_combination (-(2 : ℚ) ^ f.place p) * hcast
  · have hsame : (p + 1) / 2 ^ f.mbits = p / 2 ^ f.mbits := by
      rw [Nat.div_eq_of_lt_le]
      · rw [Nat.mul_comm]; omega
      · rw [Nat.add_mul, Nat.mul_comm]; omega
    have hmod : (p + 1) % 2 ^ f.mbits = p % 2 ^ f.mbits + 1 := by
      have := Nat.div_add_mod (p + 1) (2 ^ f.mbits)
      rw [hsame] at this
      omega
    have hsig : f.sig (p + 1) = f.sig p + 1 := by
      simp only [Format.sig, hsame, hmod]
      split <;> omega
    rw [hsig, Format.place, Format.place, hsame]
    push_cast
    rfl

theorem Format.mag_strictMono (f : Format) : StrictMono f.mag := by
  refine strictMono_nat_of_lt_succ fun p => ?_
  have hplace : (0 : ℚ) < 2 ^ f.place p := by positivity
  rw [f.mag_succ, Format.mag]
  linarith

theorem Format.mag_zero (f : Format) : f.mag 0 = 0 := by simp [Format.mag, Format.sig]

theorem Format.mag_nonneg (f : Format) (p : Nat) : 0 ≤ f.mag p := by unfold Format.mag; positivity

/-- Half a place above a pattern is as far from it as from the next. -/
theorem Format.mid_eq (f : Format) (p : Nat) : f.mid p = (f.mag p + f.mag (p + 1)) / 2 := by
  rw [f.mag_succ, Format.mid, Format.mag]
  ring


/-! ## The rounding of a magnitude (07, R157) -/

/-- The pattern of `t` places of size 2^q. -/
def Format.encode (f : Format) (t : Nat) (q : Int) : Nat :=
  if t < 2 ^ f.mbits then t else (q + f.mbits + f.bias).toNat * 2 ^ f.mbits + (t - 2 ^ f.mbits)

/-- `t` places of size 2^q are a significand of the format: below a power of two by one bit more than the fraction has, and subnormal at the
least exponent alone. -/
structure Format.Fits (f : Format) (t : Nat) (q : Int) : Prop where
  lt    : t < 2 ^ (f.mbits + 1)
  least : 1 - (f.bias : Int) - f.mbits ≤ q
  sub   : t < 2 ^ f.mbits → q = 1 - (f.bias : Int) - f.mbits

theorem Format.sig_encode {f : Format} {t : Nat} {q : Int} (h : f.Fits t q) : f.sig (f.encode t q) = t ∧ f.place (f.encode t q) = q := by
  obtain ⟨hlt, hleast, hsub⟩ := h
  have hpos : 0 < 2 ^ f.mbits := Nat.two_pow_pos _
  unfold Format.encode
  split
  · rename_i hs
    have hdiv : t / 2 ^ f.mbits = 0 := Nat.div_eq_of_lt hs
    rw [Format.sig, Format.place, hdiv, hsub hs]
    exact ⟨rfl, by simp⟩
  · rename_i hs
    generalize hE : (q + f.mbits + f.bias).toNat = E
    have hone : 1 ≤ E := by omega
    have hrest : t - 2 ^ f.mbits < 2 ^ f.mbits := by rw [Nat.pow_succ] at hlt; omega
    have hdiv : (E * 2 ^ f.mbits + (t - 2 ^ f.mbits)) / 2 ^ f.mbits = E := by
      rw [Nat.mul_comm, Nat.mul_add_div hpos, Nat.div_eq_of_lt hrest, Nat.add_zero]
    have hmod : (E * 2 ^ f.mbits + (t - 2 ^ f.mbits)) % 2 ^ f.mbits = t - 2 ^ f.mbits := by
      rw [Nat.mul_comm, Nat.mul_add_mod, Nat.mod_eq_of_lt hrest]
    rw [Format.sig, Format.place, hdiv, hmod, if_neg (by omega), max_eq_left hone]
    exact ⟨by omega, by omega⟩

/-- One place more, carried into the exponent where the significand overflows, is the next pattern. -/
theorem Format.encode_succ {f : Format} {t : Nat} {q : Int} (h : f.Fits t q) :
    (if t + 1 = 2 ^ (f.mbits + 1) then f.encode (2 ^ f.mbits) (q + 1) else f.encode (t + 1) q) = f.encode t q + 1 := by
  obtain ⟨hlt, hleast, hsub⟩ := h
  have hpos : 0 < 2 ^ f.mbits := Nat.two_pow_pos _
  rw [Nat.pow_succ] at hlt ⊢
  unfold Format.encode
  by_cases hcarry : t + 1 = 2 ^ f.mbits * 2
  · have hE : (q + 1 + f.mbits + f.bias).toNat = (q + f.mbits + f.bias).toNat + 1 := by omega
    rw [if_pos hcarry, if_neg (Nat.lt_irrefl _), if_neg (by omega), hE, Nat.add_mul]
    omega
  · rw [if_neg hcarry]
    by_cases hs : t < 2 ^ f.mbits
    · by_cases hlast : t + 1 = 2 ^ f.mbits
      · have hE : (q + f.mbits + f.bias).toNat = 1 := by rw [hsub hs]; omega
        rw [if_neg (by omega), if_pos hs, hE]
        omega
      · rw [if_pos (by omega), if_pos hs]
    · rw [if_neg (by omega), if_neg hs]
      omega

theorem Format.encode_odd {f : Format} (hbits : 0 < f.mbits) (t : Nat) (q : Int) : f.encode t q % 2 = t % 2 := by
  obtain ⟨k, hk⟩ : ∃ k, 2 ^ f.mbits = 2 * k := ⟨2 ^ (f.mbits - 1), by rw [← Nat.pow_succ']; congr; omega⟩
  unfold Format.encode
  split
  · rfl
  · rw [hk, Nat.mul_left_comm]
    omega

/-- The end of a rounding to magnitude pattern `p` (07, Table 7.7). -/
def finish (mode : Mode) (f : Format) (neg : Bool) (p : Nat) : Nat := if f.maxPat < p then overflow f mode neg else signed f neg p

/-- The magnitude `a`, not below that of pattern `p` and below that of the next, rounds up to the next (07, Table 7.6). -/
def Ups (mode : Mode) (f : Format) (neg : Bool) (p : Nat) (a : ℚ) : Prop :=
  match mode with
  | .rne => f.mid p < a ∨ (a = f.mid p ∧ p % 2 = 1)
  | .rz => False
  | .rdn => neg = true ∧ f.mag p < a
  | .rup => neg = false ∧ f.mag p < a

/-- A rounding goes down to the pattern below the magnitude or up to the next. -/
structure Rounds (mode : Mode) (f : Format) (neg : Bool) (a : ℚ) (x : Nat) (p : Nat) : Prop where
  below : f.mag p ≤ a
  above : a < f.mag (p + 1)
  taken : (¬Ups mode f neg p a ∧ x = finish mode f neg p) ∨ (Ups mode f neg p a ∧ x = finish mode f neg (p + 1))

/-- What truncation drops decides whether the magnitude rounds up. -/
theorem roundsUp_iff {mode : Mode} {f : Format} {neg : Bool} {t rem k : Nat} {q : Int} {a : ℚ} (hbits : 0 < f.mbits) (hfit : f.Fits t q)
    (ha : a = (t + rem / 2 ^ k) * 2 ^ q) : roundsUp mode neg (t % 2 == 1) rem k false = true ↔ Ups mode f neg (f.encode t q) a := by
  obtain ⟨hsig, hplace⟩ := Format.sig_encode hfit
  have hq : (0 : ℚ) < 2 ^ q := by positivity
  have hk : (0 : ℚ) < 2 ^ k := by positivity
  have hmore : f.mag (f.encode t q) < a ↔ rem ≠ 0 := by
    rw [Format.mag, hsig, hplace, ha, mul_lt_mul_iff_left₀ hq, lt_add_iff_pos_right, div_pos_iff_of_pos_right hk, Nat.cast_pos, Nat.pos_iff_ne_zero]
  have habove : f.mid (f.encode t q) < a ↔ 2 ^ k < 2 * rem := by
    rw [Format.mid, hsig, hplace, ha, mul_lt_mul_iff_left₀ hq, add_lt_add_iff_left, div_lt_div_iff₀ two_pos hk, one_mul, mul_comm]
    exact_mod_cast Iff.rfl
  have htie : a = f.mid (f.encode t q) ↔ 2 * rem = 2 ^ k := by
    rw [Format.mid, hsig, hplace, ha, mul_left_inj' hq.ne', add_right_inj, div_eq_div_iff hk.ne' two_ne_zero, one_mul, mul_comm]
    exact_mod_cast Iff.rfl
  cases mode with
  | rne => simp [roundsUp, Ups, habove, htie, Format.encode_odd hbits]
  | rz => simp [roundsUp, Ups]
  | rdn => simp [roundsUp, Ups, hmore]
  | rup => simp [roundsUp, Ups, hmore]


/-- A number lies between the powers of two of its leading bit and the next. -/
theorem two_zpow_log2 {man : Nat} (hman : man ≠ 0) (exp : Int) :
    (2 : ℚ) ^ (exp + Nat.log2 man) ≤ man * 2 ^ exp ∧ (man : ℚ) * 2 ^ exp < 2 ^ (exp + Nat.log2 man + 1) := by
  have hexp : (0 : ℚ) < 2 ^ exp := by positivity
  have hlow : (2 : ℚ) ^ Nat.log2 man ≤ man := by exact_mod_cast Nat.log2_self_le hman
  have hhigh : (man : ℚ) < 2 ^ (Nat.log2 man + 1) := by exact_mod_cast Nat.lt_log2_self
  rw [add_assoc, zpow_add₀ two_ne_zero, zpow_add₀ two_ne_zero, mul_comm, mul_comm (man : ℚ)]
  exact ⟨mul_le_mul_of_nonneg_right (by exact_mod_cast hlow) hexp.le |>.trans_eq (mul_comm _ _),
    mul_lt_mul_of_pos_left (by exact_mod_cast hhigh) hexp⟩

/-- The size of the last place that a rounding of man·2^exp keeps (07, R157). -/
def Format.quantum (f : Format) (man : Nat) (exp : Int) : Int := max (exp + Nat.log2 man) (1 - f.bias) - f.mbits

theorem Format.fits_quantum (f : Format) {man t : Nat} {exp : Int} (hman : man ≠ 0) (hlow : (t : ℚ) * 2 ^ f.quantum man exp ≤ man * 2 ^ exp)
    (hhigh : (man : ℚ) * 2 ^ exp < (t + 1) * 2 ^ f.quantum man exp) : f.Fits t (f.quantum man exp) := by
  obtain ⟨hleast, hmost⟩ := two_zpow_log2 hman exp
  have hq : (0 : ℚ) < 2 ^ f.quantum man exp := by positivity
  have hpow (n : Nat) : ((2 ^ n : Nat) : ℚ) * 2 ^ f.quantum man exp = 2 ^ ((n : Int) + f.quantum man exp) := by
    rw [zpow_add₀ two_ne_zero]
    push_cast
    rw [zpow_natCast]
  refine ⟨?_, ?_, fun hsub => ?_⟩
  · have hlt : (t : ℚ) * 2 ^ f.quantum man exp < (2 ^ (f.mbits + 1) : Nat) * 2 ^ f.quantum man exp := by
      calc (t : ℚ) * 2 ^ f.quantum man exp ≤ man * 2 ^ exp := hlow
        _ < 2 ^ (exp + Nat.log2 man + 1) := hmost
        _ ≤ 2 ^ (((f.mbits + 1 : Nat) : Int) + f.quantum man exp) := zpow_le_zpow_right₀ one_le_two (by unfold Format.quantum; push_cast; omega)
        _ = _ := (hpow _).symm
    exact_mod_cast lt_of_mul_lt_mul_right hlt hq.le
  · unfold Format.quantum
    omega
  · have hnext : ((t + 1 : Nat) : ℚ) ≤ (2 ^ f.mbits : Nat) := by exact_mod_cast hsub
    have hlt : (2 : ℚ) ^ (exp + Nat.log2 man) < 2 ^ ((f.mbits : Int) + f.quantum man exp) := by
      calc (2 : ℚ) ^ (exp + Nat.log2 man) ≤ man * 2 ^ exp := hleast
        _ < ((t + 1 : Nat) : ℚ) * 2 ^ f.quantum man exp := by push_cast; exact hhigh
        _ ≤ (2 ^ f.mbits : Nat) * 2 ^ f.quantum man exp := mul_le_mul_of_nonneg_right hnext hq.le
        _ = _ := hpow _
    have := (zpow_lt_zpow_iff_right₀ one_lt_two).1 hlt
    unfold Format.quantum at this ⊢
    omega

/-- The places that a rounding keeps, and what it drops. -/
theorem truncation (man : Nat) (exp q : Int) : ∃ t rem k : Nat, rem < 2 ^ k ∧ (man : ℚ) * 2 ^ exp = (t + rem / 2 ^ k) * 2 ^ q ∧
    ∀ mode neg, (if q ≤ exp then man * 2 ^ (exp - q).toNat
      else if roundsUp mode neg ((man >>> (q - exp).toNat) % 2 == 1) (man % 2 ^ (q - exp).toNat) (q - exp).toNat false
        then man >>> (q - exp).toNat + 1 else man >>> (q - exp).toNat) =
      if roundsUp mode neg (t % 2 == 1) rem k false then t + 1 else t := by
  by_cases hexact : q ≤ exp
  · obtain ⟨j, hj⟩ : ∃ j : Nat, exp = j + q := ⟨(exp - q).toNat, by omega⟩
    refine ⟨man * 2 ^ (exp - q).toNat, 0, 0, by decide, ?_, fun mode neg => ?_⟩
    · rw [show (exp - q).toNat = j by omega, hj, zpow_add₀ two_ne_zero, zpow_natCast]
      push_cast
      ring
    · rw [if_pos hexact]
      cases mode <;> simp [roundsUp]
  · obtain ⟨k, hk⟩ : ∃ k : Nat, q = k + exp := ⟨(q - exp).toNat, by omega⟩
    have hkeep : (q - exp).toNat = k := by omega
    refine ⟨man / 2 ^ k, man % 2 ^ k, k, Nat.mod_lt _ (Nat.two_pow_pos _), ?_, fun mode neg => ?_⟩
    · have hsplit : ((man / 2 ^ k : Nat) : ℚ) * 2 ^ k + (man % 2 ^ k : Nat) = man := by exact_mod_cast Nat.div_add_mod' man (2 ^ k)
      have hne : (2 : ℚ) ^ k ≠ 0 := by positivity
      rw [hk, zpow_add₀ two_ne_zero, zpow_natCast, ← mul_assoc, add_mul, div_mul_cancel₀ _ hne, hsplit]
    · rw [if_neg hexact, hkeep, Nat.shiftRight_eq_div_pow]

theorem Format.mid_pos (f : Format) (p : Nat) : 0 < f.mid p := by unfold Format.mid; positivity

/-- What the rounding of a value rounds to. -/
theorem round_rounds (mode : Mode) {f : Format} (hbits : 0 < f.mbits) (neg : Bool) (man : Nat) (exp : Int) :
    ∃ p, Rounds mode f neg (man * 2 ^ exp) (round mode f neg man exp) p := by
  by_cases hman : man = 0
  · subst hman
    have hsucc := f.mag_strictMono Nat.zero_lt_one
    rw [f.mag_zero] at hsucc
    refine ⟨0, by simp [f.mag_zero], by simpa using hsucc, .inl ⟨?_, ?_⟩⟩
    · have hmid := f.mid_pos 0
      cases mode <;> simp [Ups, f.mag_zero, hmid.le, hmid.ne]
    · simp [round, finish]
  · obtain ⟨t, rem, k, hrem, ha, hkeep⟩ := truncation man exp (f.quantum man exp)
    have hq : (0 : ℚ) < 2 ^ f.quantum man exp := by positivity
    have hk : (0 : ℚ) < 2 ^ k := by positivity
    have hfrac : (rem : ℚ) / 2 ^ k < 1 := by rw [div_lt_one hk]; exact_mod_cast hrem
    have hnonneg : (0 : ℚ) ≤ rem / 2 ^ k := by positivity
    have hlow : (t : ℚ) * 2 ^ f.quantum man exp ≤ man * 2 ^ exp := by
      rw [ha]; exact mul_le_mul_of_nonneg_right (by linarith) hq.le
    have hhigh : (man : ℚ) * 2 ^ exp < (t + 1) * 2 ^ f.quantum man exp := by
      rw [ha]; exact mul_lt_mul_of_pos_right (by linarith) hq
    have hfit := f.fits_quantum hman hlow hhigh
    obtain ⟨hsig, hplace⟩ := Format.sig_encode hfit
    refine ⟨f.encode t (f.quantum man exp), by rw [Format.mag, hsig, hplace]; exact hlow, by rw [f.mag_succ, hsig, hplace]; exact hhigh, ?_⟩
    have hround : round mode f neg man exp = finish mode f neg
        (if roundsUp mode neg (t % 2 == 1) rem k false then f.encode t (f.quantum man exp) + 1 else f.encode t (f.quantum man exp)) := by
      have hzero : (man == 0 && !false) = false := by simp [hman]
      rw [round, hzero]
      simp only [Bool.false_eq_true, if_false]
      rw [show max (exp + (Nat.log2 man : Int)) (1 - (f.bias : Int)) - f.mbits = f.quantum man exp from rfl, hkeep]
      split
      · rw [← Format.encode_succ hfit]
        simp only [beq_iff_eq]
        split <;> rfl
      · have hcarry : (t == 2 ^ (f.mbits + 1)) = false := by simpa using hfit.lt.ne
        simp only [hcarry, Bool.false_eq_true, if_false]
        rfl
    rw [hround, ← roundsUp_iff hbits hfit ha]
    split
    · rename_i h; exact .inr ⟨h, rfl⟩
    · rename_i h; exact .inl ⟨h, rfl⟩


/-! ## The values of patterns (07, R151, R152, Table 7.3) -/

/-- The formats of a lane have a fraction, and their finite magnitudes are those up to the largest. -/
structure Format.Lawful (f : Format) : Prop where
  frac   : 0 < f.mbits
  most   : f.maxPat < 2 ^ (f.width - 1)
  inf    : f.ieee = true ∨ f.saturates = false → f.maxPat + 1 < 2 ^ (f.width - 1)
  nan    : f.nanPat < 2 ^ f.width
  finite : ∀ p, p < 2 ^ (f.width - 1) → (f.ieee = true → p / 2 ^ f.mbits ≠ 2 ^ f.ebits - 1) → (f = e4m3 → p ≠ 127) → p ≤ f.maxPat
  beyond : f.ieee = true → (f.maxPat + 1) / 2 ^ f.mbits = 2 ^ f.ebits - 1

theorem lawful_of_mem {f : Format} (h : f ∈ formats) : f.Lawful := by
  simp only [formats, List.mem_cons, List.not_mem_nil, or_false] at h
  rcases h with rfl | rfl | rfl | rfl | rfl | rfl
  · exact ⟨by decide, by decide, by decide, by decide, fun p hp hieee _ => by
      have := hieee rfl; simp only [f32, Format.width] at *; omega, by decide⟩
  · exact ⟨by decide, by decide, by decide, by decide, fun p hp hieee _ => by
      have := hieee rfl; simp only [bf16, Format.width] at *; omega, by decide⟩
  · exact ⟨by decide, by decide, by decide, by decide, fun p hp hieee _ => by
      have := hieee rfl; simp only [f16, Format.width] at *; omega, by decide⟩
  · exact ⟨by decide, by decide, by decide, by decide, fun p hp _ hnan => by
      have := hnan rfl; simp only [e4m3, Format.width] at *; omega, by decide⟩
  · exact ⟨by decide, by decide, by decide, by decide, fun p hp hieee _ => by
      have := hieee rfl; simp only [e5m2, Format.width] at *; omega, by decide⟩
  · exact ⟨by decide, by decide, by decide, by decide, fun p hp _ _ => by simp only [e2m1, Format.width] at *; omega, by decide⟩

/-- The magnitude pattern of a pattern: the bits below the sign. -/
def Format.low (f : Format) (x : Nat) : Nat := x % 2 ^ (f.width - 1)

theorem value_eq {f : Format} (hbits : 0 < f.mbits) (x : Nat) : value f x =
    if f.ieee && f.low x / 2 ^ f.mbits == 2 ^ f.ebits - 1 then (if f.low x % 2 ^ f.mbits == 0 then .inf (bitOf x (f.width - 1)) else .nan)
    else if f == e4m3 && f.low x == 127 then .nan
    else .fin (bitOf x (f.width - 1)) (f.sig (f.low x)) (f.place (f.low x)) := by
  have hwidth : f.width - 1 = f.mbits + f.ebits := by simp only [Format.width]; omega
  have hexp : bitsOf x (f.width - 2) f.mbits = f.low x / 2 ^ f.mbits := by
    rw [bitsOf_eq, Format.low, hwidth, Nat.pow_add, Nat.mod_mul_right_div_self]
    have hspan : f.width - 2 + 1 - f.mbits = f.ebits := by simp only [Format.width]; omega
    rw [hspan]
  have hfrac : x % 2 ^ f.mbits = f.low x % 2 ^ f.mbits := by
    rw [Format.low, hwidth, Nat.pow_add, Nat.mod_mul_right_mod]
  have hnan : (f == e4m3 && x % 128 == 127) = (f == e4m3 && f.low x == 127) := by
    by_cases h : f = e4m3
    · subst h; rfl
    · rw [beq_eq_false_iff_ne.2 h]
      rfl
  rw [value]
  simp only [hexp, hfrac, hnan]
  generalize f.low x = p at *
  split
  · rfl
  · split
    · rfl
    · by_cases hsub : p / 2 ^ f.mbits = 0
      · have hp : p % 2 ^ f.mbits = p := Nat.mod_eq_of_lt (Nat.lt_of_div_eq_zero (Nat.two_pow_pos _) hsub)
        simp [hsub, hp, Format.sig, Format.place]
      · have hone : 1 ≤ p / 2 ^ f.mbits := Nat.pos_of_ne_zero hsub
        simp [hsub, Format.sig, Format.place, hone]

theorem value_finite {f : Format} (hf : f.Lawful) {x : Nat} {n : Bool} {m : Nat} {e : Int} (h : value f x = .fin n m e) :
    f.low x ≤ f.maxPat ∧ n = bitOf x (f.width - 1) ∧ m = f.sig (f.low x) ∧ e = f.place (f.low x) := by
  rw [value_eq hf.frac] at h
  split at h
  · split at h <;> cases h
  · rename_i hieee
    split at h
    · cases h
    · rename_i hnan
      cases h
      refine ⟨hf.finite _ (Nat.mod_lt _ (Nat.two_pow_pos _)) (fun hi => ?_) (fun he => ?_), rfl, rfl, rfl⟩
      · simpa [hi] using hieee
      · simpa [he] using hnan

/-- The sign of a rational. -/
def sign (n : Bool) : ℚ := if n then -1 else 1

theorem rat_fin (n : Bool) (m : Nat) (e : Int) : rat (.fin n m e) = some (sign n * (m * 2 ^ e)) := by
  rw [rat, sign, mul_assoc]

theorem rat_value {f : Format} (hf : f.Lawful) {x : Nat} {r : ℚ} (h : rat (value f x) = some r) :
    f.low x ≤ f.maxPat ∧ r = sign (bitOf x (f.width - 1)) * f.mag (f.low x) := by
  match hv : value f x, h with
  | .fin n m e, h =>
    obtain ⟨hmost, rfl, rfl, rfl⟩ := value_finite hf hv
    rw [rat_fin] at h
    exact ⟨hmost, (Option.some.inj h).symm⟩

theorem low_signed {f : Format} (n : Bool) {p : Nat} (hp : p < 2 ^ (f.width - 1)) : f.low (signed f n p) = p := by
  rw [Format.low, signed, Nat.add_mul_mod_self_right, Nat.mod_eq_of_lt hp]

theorem sign_signed {f : Format} (n : Bool) {p : Nat} (hp : p < 2 ^ (f.width - 1)) : bitOf (signed f n p) (f.width - 1) = n := by
  rw [bitOf, signed, Nat.shiftRight_eq_div_pow, Nat.add_mul_div_right _ _ (Nat.two_pow_pos _), Nat.div_eq_of_lt hp]
  cases n <;> rfl

theorem signed_low {f : Format} {x : Nat} (hx : x < 2 ^ f.width) : signed f (bitOf x (f.width - 1)) (f.low x) = x := by
  have hw : f.width = f.width - 1 + 1 := by simp only [Format.width]; omega
  have hbit : x / 2 ^ (f.width - 1) < 2 := by
    rw [Nat.div_lt_iff_lt_mul (Nat.two_pow_pos _), ← Nat.pow_succ', ← Nat.succ_eq_add_one] at *
    rwa [hw] at hx
  have hsplit := Nat.mod_add_div x (2 ^ (f.width - 1))
  have hsign : b2n (bitOf x (f.width - 1)) = x / 2 ^ (f.width - 1) := by
    rw [bitOf, Nat.shiftRight_eq_div_pow]
    generalize x / 2 ^ (f.width - 1) = b at *
    interval_cases b <;> rfl
  rw [signed, hsign, Format.low, Nat.mul_comm, hsplit]


/-! ## What a rounding gives (07, Tables 7.6 and 7.7) -/

theorem finish_of_le {f : Format} {p : Nat} (mode : Mode) (n : Bool) (hp : p ≤ f.maxPat) : finish mode f n p = signed f n p :=
  if_neg (Nat.not_lt.2 hp)

theorem finish_of_lt {f : Format} {p : Nat} (mode : Mode) (n : Bool) (hp : f.maxPat < p) : finish mode f n p = overflow f mode n := if_pos hp

/-- An overflow gives the largest magnitude, or in a format that has infinities the pattern beyond it. -/
theorem overflow_cases (f : Format) (mode : Mode) (n : Bool) :
    overflow f mode n = signed f n f.maxPat ∨ (f.saturates = false ∧ overflow f mode n = signed f n (f.maxPat + 1)) := by
  cases hsat : f.saturates with
  | true => simp [overflow, hsat]
  | false => cases mode <;> cases n <;> simp [overflow, hsat]

theorem overflow_saturates {f : Format} (h : f.saturates = true) (mode : Mode) (n : Bool) : overflow f mode n = signed f n f.maxPat := by
  simp [overflow, h]

/-- A finite result of a rounding to pattern `p` is that pattern, or the largest magnitude below it. -/
theorem rat_finish {f : Format} (hf : f.Lawful) {mode : Mode} {n : Bool} {p : Nat} {r : ℚ} (h : rat (value f (finish mode f n p)) = some r) :
    f.low (finish mode f n p) = min p f.maxPat ∧ r = sign n * f.mag (min p f.maxPat) := by
  obtain ⟨hmost, hr⟩ := rat_value hf h
  have hclamp : finish mode f n p = signed f n (min p f.maxPat) := by
    rcases Nat.lt_or_ge f.maxPat p with hlt | hle
    · rw [Nat.min_eq_right hlt.le]
      rw [finish_of_lt mode n hlt] at hmost ⊢
      rcases overflow_cases f mode n with hx | ⟨hsat, hx⟩
      · exact hx
      · rw [hx, low_signed n (hf.inf (.inr hsat))] at hmost
        omega
    · rw [Nat.min_eq_left hle, finish_of_le mode n hle]
  have hlt : min p f.maxPat < 2 ^ (f.width - 1) := lt_of_le_of_lt (Nat.min_le_right _ _) hf.most
  rw [hclamp, low_signed n hlt, sign_signed n hlt] at hr
  exact ⟨by rw [hclamp, low_signed n hlt], hr⟩

/-- The pattern that a rounding takes, before its end. -/
theorem Rounds.result {mode : Mode} {f : Format} {n : Bool} {a : ℚ} {x p : Nat} (h : Rounds mode f n a x p) : ∃ p', x = finish mode f n p' ∧
    (p' = p ∧ ¬Ups mode f n p a ∨ p' = p + 1 ∧ Ups mode f n p a) := by
  rcases h.taken with ⟨hup, hx⟩ | ⟨hup, hx⟩
  · exact ⟨p, hx, .inl ⟨rfl, hup⟩⟩
  · exact ⟨p + 1, hx, .inr ⟨rfl, hup⟩⟩

/-- The magnitude of a pattern is the pattern's own rounding. -/
theorem Rounds.exact {mode : Mode} {f : Format} {n : Bool} {x p p' : Nat} (h : Rounds mode f n (f.mag p') x p) : x = finish mode f n p' := by
  obtain rfl : p = p' := by
    have hle := f.mag_strictMono.le_iff_le.1 h.below
    have hlt := f.mag_strictMono.lt_iff_lt.1 h.above
    omega
  have hmid : f.mag p < f.mid p := by
    have := f.mag_strictMono (Nat.lt_succ_self p)
    rw [f.mid_eq]
    linarith
  rcases h.taken with ⟨-, hx⟩ | ⟨hup, -⟩
  · exact hx
  · cases mode with
    | rne => rcases hup with hup | ⟨hup, -⟩ <;> linarith
    | rz => exact absurd hup id
    | rdn => exact absurd hup.2 (lt_irrefl _)
    | rup => exact absurd hup.2 (lt_irrefl _)

theorem roundingKeepsExactValues : partRoundingKeepsExactValues := by
  intro f hmem mode x n m e hx hv
  have hf := lawful_of_mem hmem
  obtain ⟨hmost, rfl, rfl, rfl⟩ := value_finite hf hv
  obtain ⟨p, h⟩ := round_rounds mode hf.frac (bitOf x (f.width - 1)) (f.sig (f.low x)) (f.place (f.low x))
  rw [h.exact (p' := f.low x), finish_of_le _ _ hmost, signed_low hx]

/-- A mode that rounds values of this sign toward zero does not go beyond the magnitude, and one that rounds them away from zero does not
stay below it. -/
theorem Rounds.directed {mode : Mode} {f : Format} {n : Bool} {a : ℚ} {x p : Nat} (h : Rounds mode f n a x p) : ∃ p', x = finish mode f n p' ∧
    (mode = .rz ∨ mode = .rdn ∧ n = false ∨ mode = .rup ∧ n = true → f.mag p' ≤ a) ∧
    (mode = .rdn ∧ n = true ∨ mode = .rup ∧ n = false → a ≤ f.mag p') := by
  obtain ⟨p', hx, ⟨rfl, hup⟩ | ⟨rfl, hup⟩⟩ := h.result
  · refine ⟨p', hx, fun _ => h.below, fun haway => ?_⟩
    by_contra hlt
    rcases haway with ⟨rfl, rfl⟩ | ⟨rfl, rfl⟩ <;> exact hup ⟨rfl, not_le.1 hlt⟩
  · refine ⟨p + 1, hx, fun htoward => ?_, fun _ => h.above.le⟩
    rcases htoward with rfl | ⟨rfl, rfl⟩ | ⟨rfl, rfl⟩ <;> simp [Ups] at hup

theorem abs_sign_mul (n : Bool) {a : ℚ} (ha : 0 ≤ a) : |sign n * a| = a := by
  cases n <;> simp [sign, abs_of_nonneg ha]

theorem directedRounding : partDirectedRounding := by
  intro f hmem n m e r q hq
  have hf := lawful_of_mem hmem
  have ha : (0 : ℚ) ≤ m * 2 ^ e := by positivity
  rw [rat_fin] at hq
  obtain rfl := Option.some.inj hq
  have small {mode : Mode} {p : Nat} (hlow : f.low (finish mode f n p) = min p f.maxPat) (h : f.low (finish mode f n p) < f.maxPat) :
      min p f.maxPat = p := by omega
  refine ⟨fun hr => ?_, fun hr hsmall => ?_, fun hr hsmall => ?_⟩
  · obtain ⟨p, h⟩ := round_rounds .rz hf.frac n m e
    obtain ⟨p', hx, htoward, -⟩ := h.directed
    obtain ⟨-, rfl⟩ := rat_finish hf (hx ▸ hr)
    rw [abs_sign_mul n (f.mag_nonneg _), abs_sign_mul n ha]
    exact (f.mag_strictMono.monotone (Nat.min_le_left _ _)).trans (htoward (.inl rfl))
  · obtain ⟨p, h⟩ := round_rounds .rdn hf.frac n m e
    obtain ⟨p', hx, htoward, haway⟩ := h.directed
    obtain ⟨hlow, rfl⟩ := rat_finish hf (hx ▸ hr)
    rw [small hlow (hx ▸ hsmall)]
    cases n with
    | false => simpa [sign] using htoward (.inr (.inl ⟨rfl, rfl⟩))
    | true => simpa [sign] using haway (.inl ⟨rfl, rfl⟩)
  · obtain ⟨p, h⟩ := round_rounds .rup hf.frac n m e
    obtain ⟨p', hx, htoward, haway⟩ := h.directed
    obtain ⟨hlow, rfl⟩ := rat_finish hf (hx ▸ hr)
    rw [small hlow (hx ▸ hsmall)]
    cases n with
    | false => simpa [sign] using haway (.inr ⟨rfl, rfl⟩)
    | true => simpa [sign] using htoward (.inr (.inr ⟨rfl, rfl⟩))

/-- Rounding to nearest takes a pattern that none is nearer than, and of two that are equally near the even one. -/
theorem Rounds.nearest {f : Format} {n : Bool} {a : ℚ} {x p : Nat} (h : Rounds .rne f n a x p) :
    ∃ p', x = finish .rne f n p' ∧ p ≤ p' ∧ p' ≤ p + 1 ∧
    ∀ y, |a - f.mag p'| ≤ |a - f.mag y| ∧ (|a - f.mag p'| = |a - f.mag y| → y ≠ p' → p' % 2 = 0) := by
  have hmid := f.mid_eq p
  have hbelow := h.below
  have habove := h.above
  have far (y : Nat) : y ≤ p ∧ |a - f.mag y| = a - f.mag y ∧ f.mag y ≤ f.mag p ∨
      p + 1 ≤ y ∧ |a - f.mag y| = f.mag y - a ∧ f.mag (p + 1) ≤ f.mag y := by
    rcases Nat.lt_or_ge p y with hy | hy
    · have hmono := f.mag_strictMono.monotone hy
      refine .inr ⟨hy, ?_, hmono⟩
      rw [abs_sub_comm, abs_of_nonneg]
      exact sub_nonneg.2 (habove.le.trans hmono)
    · have hmono := f.mag_strictMono.monotone hy
      refine .inl ⟨hy, abs_of_nonneg ?_, hmono⟩
      exact sub_nonneg.2 (hmono.trans hbelow)
  have inj {y z : Nat} (hyz : f.mag y = f.mag z) : y = z := f.mag_strictMono.injective hyz
  obtain ⟨p', hx, ⟨rfl, hup⟩ | ⟨rfl, hup⟩⟩ := h.result
  · obtain ⟨hle, htie⟩ : a ≤ f.mid p' ∧ (a = f.mid p' → p' % 2 = 0) := by
      simp only [Ups, not_or, not_and, not_lt] at hup
      exact ⟨hup.1, fun he => by have := hup.2 he; omega⟩
    refine ⟨p', hx, le_rfl, Nat.le_succ _, fun y => ?_⟩
    rw [abs_of_nonneg (sub_nonneg.2 hbelow)]
    rcases far y with ⟨-, hy, hmono⟩ | ⟨-, hy, hmono⟩
    · exact ⟨by linarith, fun he hne => absurd (inj (by linarith)) hne⟩
    · exact ⟨by linarith, fun he _ => htie (by linarith)⟩
  · obtain ⟨hge, htie⟩ : f.mid p ≤ a ∧ (a = f.mid p → (p + 1) % 2 = 0) := by
      rcases hup with hup | ⟨he, hodd⟩
      · exact ⟨hup.le, fun he => absurd he hup.ne'⟩
      · exact ⟨he.ge, fun _ => by omega⟩
    refine ⟨p + 1, hx, Nat.le_succ _, le_rfl, fun y => ?_⟩
    rw [abs_sub_comm, abs_of_nonneg (sub_nonneg.2 habove.le)]
    rcases far y with ⟨-, hy, hmono⟩ | ⟨-, hy, hmono⟩
    · exact ⟨by linarith, fun he _ => htie (by linarith)⟩
    · exact ⟨by linarith, fun he hne => absurd (inj (by linarith)) hne⟩

/-- The same of the magnitudes of a format, where the result is the largest of them on overflow. -/
theorem Rounds.nearest_finite {f : Format} {n : Bool} {a : ℚ} {x p : Nat} (h : Rounds .rne f n a x p) : ∃ p', x = finish .rne f n p' ∧
    ∀ y, y ≤ f.maxPat → |a - f.mag (min p' f.maxPat)| ≤ |a - f.mag y| ∧
      (|a - f.mag (min p' f.maxPat)| = |a - f.mag y| → y ≠ min p' f.maxPat → min p' f.maxPat % 2 = 0) := by
  obtain ⟨p', hx, hle, hge, hnear⟩ := h.nearest
  refine ⟨p', hx, fun y hy => ?_⟩
  rcases Nat.lt_or_ge f.maxPat p' with hlt | hmost
  · rw [Nat.min_eq_right hlt.le]
    have hmost : f.mag f.maxPat ≤ a := (f.mag_strictMono.monotone (by omega)).trans h.below
    have hmono := f.mag_strictMono.monotone hy
    rw [abs_of_nonneg (sub_nonneg.2 hmost), abs_of_nonneg (sub_nonneg.2 (hmono.trans hmost))]
    exact ⟨by linarith, fun he hne => absurd (f.mag_strictMono.injective (by linarith)) hne⟩
  · rw [Nat.min_eq_left hmost]
    exact hnear y

/-- A value of the other sign is no nearer than zero. -/
theorem abs_sign_sub (n k : Bool) {a b : ℚ} (ha : 0 ≤ a) (hb : 0 ≤ b) : |sign n * a - sign k * b| = if n = k then |a - b| else a + b := by
  cases n <;> cases k <;> simp only [sign, reduceCtorEq, if_true, if_false, Bool.false_eq_true]
  · rw [one_mul, one_mul]
  · rw [show (1 : ℚ) * a - -1 * b = a + b by ring, abs_of_nonneg (by positivity)]
  · rw [show (-1 : ℚ) * a - 1 * b = -(a + b) by ring, abs_neg, abs_of_nonneg (by positivity)]
  · rw [show (-1 : ℚ) * a - -1 * b = -(a - b) by ring, abs_neg]

theorem nearestRounding : partNearestRounding := by
  intro f hmem n m e y r q u x hq hr hu
  have hf := lawful_of_mem hmem
  have ha : (0 : ℚ) ≤ m * 2 ^ e := by positivity
  rw [rat_fin] at hq
  obtain rfl := Option.some.inj hq
  obtain ⟨p, h⟩ := round_rounds .rne hf.frac n m e
  obtain ⟨p', hx, hnear⟩ := h.nearest_finite
  obtain ⟨hlow, rfl⟩ := rat_finish hf ((congrArg (fun x => rat (value f x)) hx).symm.trans hr)
  obtain ⟨hy, rfl⟩ := rat_value hf hu
  have heven : f.low x = min p' f.maxPat := (congrArg f.low hx).trans hlow
  have hodd : min p' f.maxPat % 2 = 0 → x % 2 = 0 := by
    rw [← heven, Format.low, Nat.mod_mod_of_dvd]
    · exact id
    · exact dvd_pow_self 2 (by simp only [Format.width]; have := hf.frac; omega)
  obtain ⟨hle, htie⟩ := hnear _ hy
  obtain ⟨hle0, htie0⟩ := hnear 0 (Nat.zero_le _)
  rw [f.mag_zero, sub_zero, abs_of_nonneg ha] at hle0 htie0
  have hnonneg := f.mag_nonneg (f.low y)
  rw [abs_sign_sub n n ha (f.mag_nonneg _), if_pos rfl, abs_sign_sub n _ ha hnonneg]
  split
  · rename_i hsign
    refine ⟨hle, fun he hne => hodd (htie he fun hsame => hne ?_)⟩
    rw [hsame, hsign]
  · refine ⟨by linarith, fun he hne => hodd (htie0 (by linarith) fun hzero => hne ?_)⟩
    have hy0 : f.mag (f.low y) = 0 := by linarith
    rw [← hzero, hy0, f.mag_zero, mul_zero, mul_zero]


/-- A value beyond the largest magnitude overflows in each directed mode: where its mode takes it toward zero, the largest magnitude is what an
overflow gives. -/
theorem Rounds.overflows {mode : Mode} {f : Format} {n : Bool} {a : ℚ} {x p : Nat} (h : Rounds mode f n a x p) (hmost : f.mag f.maxPat < a)
    (hmode : mode ≠ .rne) : x = overflow f mode n := by
  have hle : f.maxPat ≤ p := Nat.lt_succ_iff.1 (f.mag_strictMono.lt_iff_lt.1 (hmost.trans h.above))
  obtain ⟨p', rfl, ⟨rfl, hup⟩ | ⟨rfl, hup⟩⟩ := h.result
  · rcases Nat.eq_or_lt_of_le hle with rfl | hlt
    · rw [finish_of_le _ _ le_rfl]
      cases mode with
      | rne => exact absurd rfl hmode
      | rz => simp [overflow]
      | rdn =>
        have hn : n = false := by simpa [Ups, hmost] using hup
        simp [overflow, hn]
      | rup =>
        have hn : n = true := by simpa [Ups, hmost] using hup
        simp [overflow, hn]
    · exact finish_of_lt _ _ hlt
  · exact finish_of_lt _ _ (Nat.lt_succ_of_le hle)

theorem Rounds.saturates {mode : Mode} {f : Format} {n : Bool} {a : ℚ} {x p : Nat} (h : Rounds mode f n a x p) (hmost : f.mag f.maxPat < a)
    (hsat : f.saturates = true) : x = signed f n f.maxPat := by
  have hle : f.maxPat ≤ p := Nat.lt_succ_iff.1 (f.mag_strictMono.lt_iff_lt.1 (hmost.trans h.above))
  obtain ⟨p', rfl, hp'⟩ := h.result
  rcases Nat.eq_or_lt_of_le (show f.maxPat ≤ p' by omega) with rfl | hlt
  · exact finish_of_le _ _ le_rfl
  · rw [finish_of_lt _ _ hlt, overflow_saturates hsat]

/-- From half a step beyond the largest magnitude, whose pattern is odd, nearest overflows. -/
theorem Rounds.nearest_overflows {f : Format} {n : Bool} {a : ℚ} {x p : Nat} (h : Rounds .rne f n a x p) (hmost : f.mid f.maxPat ≤ a)
    (hodd : f.maxPat % 2 = 1) : x = overflow f .rne n := by
  have hsucc := f.mag_strictMono (Nat.lt_succ_self f.maxPat)
  have hle : f.maxPat ≤ p := by
    refine Nat.lt_succ_iff.1 (f.mag_strictMono.lt_iff_lt.1 (lt_of_lt_of_le ?_ (hmost.trans h.above.le)))
    rw [f.mid_eq]
    linarith
  obtain ⟨p', rfl, ⟨rfl, hup⟩ | ⟨rfl, hup⟩⟩ := h.result
  · refine finish_of_lt _ _ (lt_of_le_of_ne hle fun he => hup ?_)
    rw [← he]
    exact hmost.lt_or_eq.imp id fun h => ⟨h.symm, hodd⟩
  · exact finish_of_lt _ _ (Nat.lt_succ_of_le hle)

/-- Half-precision and wider formats have infinities to overflow to, and a largest magnitude of odd pattern; the others saturate. -/
theorem wide_iff {f : Format} (h : f ∈ formats) :
    (f ∈ [f32, bf16, f16] ↔ f.saturates = false) ∧ (f.saturates = false → f.maxPat % 2 = 1) := by
  simp only [formats, List.mem_cons, List.not_mem_nil, or_false] at h
  rcases h with rfl | rfl | rfl | rfl | rfl | rfl <;> decide

theorem overflow_result : partOverflow := by
  intro f hmem n m e q M E most wide hq hmax
  have hf := lawful_of_mem hmem
  obtain ⟨hwide, hodd⟩ := wide_iff hmem
  have ha : (0 : ℚ) ≤ m * 2 ^ e := by positivity
  rw [rat_fin] at hq
  obtain rfl := Option.some.inj hq
  obtain ⟨-, -, rfl, rfl⟩ := value_finite hf hmax
  have hlow : f.low f.maxPat = f.maxPat := Nat.mod_eq_of_lt hf.most
  have hsigned : signed f n f.maxPat = most := by cases n <;> simp [signed, b2n, most, Nat.add_comm]
  have hbeyond : signed f n (f.maxPat + 1) = most + 1 := by rw [← hsigned, signed, signed]; omega
  rw [hlow, abs_sign_mul n ha]
  refine ⟨fun hlt => ?_, fun hw hhalf => ?_⟩
  · have spills (mode : Mode) (hmode : mode ≠ .rne) : round mode f n m e = overflow f mode n := by
      obtain ⟨p, h⟩ := round_rounds mode hf.frac n m e
      exact h.overflows hlt hmode
    refine ⟨?_, fun hw => ?_, fun hw => ?_⟩
    · rw [spills .rz nofun, ← hsigned]
      simp [overflow]
    · have hsat := hwide.1 hw
      rw [spills .rdn nofun, spills .rup nofun, ← hbeyond, ← hsigned]
      cases n <;> simp [overflow, hsat]
    · have hsat : f.saturates = true := by
        rw [← Bool.not_eq_false]
        exact mt hwide.2 hw
      obtain ⟨p, h⟩ := round_rounds .rne hf.frac n m e
      rw [spills .rdn nofun, spills .rup nofun, h.saturates hlt hsat, overflow_saturates hsat, overflow_saturates hsat]
      exact ⟨hsigned, hsigned, hsigned⟩
  · have hsat := hwide.1 hw
    obtain ⟨p, h⟩ := round_rounds .rne hf.frac n m e
    rw [h.nearest_overflows hhalf (hodd hsat), ← hbeyond]
    simp [overflow, hsat]

/-- Settles O13: every rounding goes to the pattern below the magnitude or to the next (`round_rounds`), as `Ups` says of each mode. -/
theorem rounding : Obligations.Rounding := ⟨roundingKeepsExactValues, directedRounding, nearestRounding, overflow_result⟩

end Sys2Proof.Float

namespace Sys2Proof.Float

open Sys2Proof.Spec

/-! ## Exact sums and products (07, R157, R158) -/

theorem sign_ne_zero (n : Bool) : sign n ≠ 0 := by cases n <;> simp [sign]

theorem sign_xor (n k : Bool) : sign (xor n k) = sign n * sign k := by cases n <;> cases k <;> simp [sign]

/-- A signed magnitude is a zero where its significand is. -/
theorem sign_mul_eq_zero {n : Bool} {m : Nat} {e : Int} : sign n * ((m : ℚ) * 2 ^ e) = 0 ↔ m = 0 := by
  simp [sign_ne_zero, zpow_ne_zero]

theorem isZero_fin {n : Bool} {m : Nat} {e : Int} : IsZero (.fin n m e) ↔ m = 0 := by
  rw [IsZero, rat_fin, Option.some.injEq, sign_mul_eq_zero]

theorem toInt_eq_sign (n : Bool) (m : Nat) : (toInt n m : ℚ) = sign n * m := by cases n <;> simp [toInt, sign]

/-- A value on an exponent not above its own. -/
theorem toInt_shifted (n : Bool) (m : Nat) {e e' : Int} (h : e' ≤ e) :
    (toInt n (m * 2 ^ (e - e').toNat) : ℚ) * 2 ^ e' = sign n * (m * 2 ^ e) := by
  obtain ⟨k, hk⟩ : ∃ k : Nat, e = k + e' := ⟨(e - e').toNat, by omega⟩
  rw [toInt_eq_sign, show (e - e').toNat = k by omega, hk, zpow_add₀ two_ne_zero, zpow_natCast]
  push_cast
  ring

theorem sign_natAbs (s : Int) : sign (decide (s < 0)) * (s.natAbs : ℚ) = s := by
  have hcast : ((s.natAbs : Nat) : ℚ) = ((|s| : Int) : ℚ) := by rw [Int.abs_eq_natAbs]; rfl
  rcases lt_or_ge s 0 with h | h
  · rw [hcast, abs_of_neg h, decide_eq_true h]
    simp [sign]
  · rw [hcast, abs_of_nonneg h, decide_eq_false (not_lt.2 h)]
    simp [sign]

/-- The exact sum of two values, and the sign that it has as a zero. -/
theorem add_fin (mode : Mode) (n1 : Bool) (m1 : Nat) (e1 : Int) (n2 : Bool) (m2 : Nat) (e2 : Int) :
    ∃ n m e, add mode (.fin n1 m1 e1) (.fin n2 m2 e2) = .fin n m e ∧
      sign n * ((m : ℚ) * 2 ^ e) = sign n1 * (m1 * 2 ^ e1) + sign n2 * (m2 * 2 ^ e2) ∧
      (m = 0 → n = zeroSum mode (sign n1 * (m1 * 2 ^ e1)) n1 n2) := by
  have h1 := toInt_shifted n1 m1 (min_le_left e1 e2)
  have h2 := toInt_shifted n2 m2 (min_le_right e1 e2)
  rw [add, align]
  simp only
  generalize toInt n1 (m1 * 2 ^ (e1 - min e1 e2).toNat) = x at *
  generalize toInt n2 (m2 * 2 ^ (e2 - min e1 e2).toNat) = y at *
  have hsum : ((x + y : Int) : ℚ) * 2 ^ min e1 e2 = sign n1 * (m1 * 2 ^ e1) + sign n2 * (m2 * 2 ^ e2) := by
    rw [← h1, ← h2]
    push_cast
    ring
  split
  · rename_i hzero
    rw [hzero, Int.cast_zero, zero_mul] at hsum
    have hboth : m1 = 0 → m2 = 0 := by
      rw [← sign_mul_eq_zero (n := n1) (e := e1), ← sign_mul_eq_zero (n := n2) (e := e2)]
      intro h
      linarith
    split
    · rename_i hsame
      simp only [Bool.and_eq_true, beq_iff_eq] at hsame
      obtain ⟨⟨hm1, -⟩, hn⟩ := hsame
      exact ⟨n1, 0, 0, rfl, by simpa using hsum, fun _ => by rw [zeroSum, if_pos ⟨sign_mul_eq_zero.2 hm1, hn⟩]⟩
    · rename_i hother
      simp only [Bool.and_eq_true, beq_iff_eq, not_and] at hother
      refine ⟨mode == .rdn, 0, 0, rfl, by simpa using hsum, fun _ => ?_⟩
      rw [zeroSum, if_neg]
      · exact beq_eq_decide _ _
      · rintro ⟨hp, hn⟩
        have hm1 := sign_mul_eq_zero.1 hp
        exact hother ⟨hm1, hboth hm1⟩ hn
  · rename_i hne
    refine ⟨decide (x + y < 0), (x + y).natAbs, min e1 e2, rfl, ?_, fun h => absurd (Int.natAbs_eq_zero.1 h) hne⟩
    rw [← mul_assoc, sign_natAbs, hsum]

theorem round_zero (mode : Mode) (f : Format) (n : Bool) (e : Int) : round mode f n 0 e = zeroPat f n := by
  cases n <;> simp [round, signed, b2n, zeroPat]

/-- The rounded exact sum of two finite values. -/
theorem sum_finite (mode : Mode) (f : Format) {a b : FVal} {p q : ℚ} (ha : rat a = some p) (hb : rat b = some q) :
    Rounded mode f (p + q) (roundVal mode f (add mode a b)) ∧
      (p + q = 0 → roundVal mode f (add mode a b) = zeroPat f (zeroSum mode p (negative a) (negative b))) := by
  match a, b, ha, hb with
  | .fin n1 m1 e1, .fin n2 m2 e2, ha, hb =>
    rw [rat_fin] at ha hb
    obtain rfl := Option.some.inj ha
    obtain rfl := Option.some.inj hb
    obtain ⟨n, m, e, hadd, hval, hsign⟩ := add_fin mode n1 m1 e1 n2 m2 e2
    rw [hadd, ← hval]
    refine ⟨⟨.fin n m e, rat_fin n m e, rfl⟩, fun hzero => ?_⟩
    obtain rfl := sign_mul_eq_zero.1 hzero
    rw [roundVal, round_zero, hsign rfl]
    rfl

theorem isSum_add (mode : Mode) (f : Format) (a b : FVal) : IsSum mode f a b (roundVal mode f (add mode a b)) := by
  match a, b with
  | .nan, _ => rfl
  | .inf _, .nan => rfl
  | .fin _ _ _, .nan => rfl
  | .inf p, .inf q =>
    rw [add]
    show _ = if p = q then _ else _
    split <;> rfl
  | .inf _, .fin _ _ _ => rfl
  | .fin _ _ _, .inf _ => rfl
  | .fin n1 m1 e1, .fin n2 m2 e2 => exact ⟨_, _, rat_fin _ _ _, rat_fin _ _ _, sum_finite mode f (rat_fin _ _ _) (rat_fin _ _ _)⟩

theorem rat_mul (n1 : Bool) (m1 : Nat) (e1 : Int) (n2 : Bool) (m2 : Nat) (e2 : Int) :
    rat (mul (.fin n1 m1 e1) (.fin n2 m2 e2)) = some (sign n1 * (m1 * 2 ^ e1) * (sign n2 * (m2 * 2 ^ e2))) := by
  rw [mul, rat_fin, sign_xor, zpow_add₀ two_ne_zero]
  push_cast
  congr 1
  ring

theorem isProduct_mul (mode : Mode) (f : Format) (a b : FVal) : IsProduct mode f a b (roundVal mode f (mul a b)) := by
  match a, b with
  | .nan, _ => rfl
  | .inf _, .nan => rfl
  | .fin _ _ _, .nan => rfl
  | .inf p, .inf q => cases p <;> cases q <;> rfl
  | .inf p, .fin n m _ =>
    rw [mul]
    show _ = if m = 0 then _ else _
    split
    · rfl
    · cases p <;> cases n <;> rfl
  | .fin n m _, .inf p =>
    rw [mul]
    show _ = if m = 0 then _ else _
    split
    · rfl
    · cases p <;> cases n <;> rfl
  | .fin n1 m1 e1, .fin n2 m2 e2 =>
    refine ⟨_, _, rat_fin _ _ _, rat_fin _ _ _, ⟨_, rat_mul _ _ _ _ _ _, rfl⟩, fun hzero => ?_⟩
    have hm : m1 * m2 = 0 := by
      rcases mul_eq_zero.1 hzero with h | h
      · rw [sign_mul_eq_zero.1 h, Nat.zero_mul]
      · rw [sign_mul_eq_zero.1 h, Nat.mul_zero]
    rw [mul, hm, roundVal, round_zero]
    cases n1 <;> cases n2 <;> rfl

/-- The product of two values of which none is a NaN, and of which none is a zero where the other is infinite. -/
theorem mul_inf {a b : FVal} (hnan : a ≠ .nan ∧ b ≠ .nan) (hbad : ¬((IsInf a ∧ IsZero b) ∨ (IsZero a ∧ IsInf b)))
    (hinf : IsInf a ∨ IsInf b) :
    mul a b = .inf (negative a != negative b) := by
  match a, b with
  | .nan, _ => exact absurd rfl hnan.1
  | .inf _, .nan => exact absurd rfl hnan.2
  | .fin _ _ _, .nan => exact absurd rfl hnan.2
  | .inf p, .inf q => cases p <;> cases q <;> rfl
  | .inf p, .fin n m _ =>
    have hm : m ≠ 0 := fun hm => hbad (.inl ⟨by cases p <;> simp [IsInf], isZero_fin.2 hm⟩)
    rw [mul, if_neg hm]
    cases p <;> cases n <;> rfl
  | .fin n m _, .inf p =>
    have hm : m ≠ 0 := fun hm => hbad (.inr ⟨isZero_fin.2 hm, by cases p <;> simp [IsInf]⟩)
    rw [mul, if_neg hm]
    cases p <;> cases n <;> rfl
  | .fin _ _ _, .fin _ _ _ => simp [IsInf] at hinf

theorem mul_bad {a b : FVal} (hbad : (IsInf a ∧ IsZero b) ∨ (IsZero a ∧ IsInf b)) : mul a b = .nan := by
  match a, b with
  | .nan, _ => rfl
  | .inf _, .nan => rfl
  | .fin _ _ _, .nan => rfl
  | .inf p, .inf q => simp [IsZero, rat] at hbad
  | .inf p, .fin n m _ =>
    rcases hbad with ⟨-, hzero⟩ | ⟨hzero, -⟩
    · rw [mul, if_pos (isZero_fin.1 hzero)]
    · simp [IsZero, rat] at hzero
  | .fin n m _, .inf p =>
    rcases hbad with ⟨-, hzero⟩ | ⟨hzero, -⟩
    · simp [IsZero, rat] at hzero
    · rw [mul, if_pos (isZero_fin.1 hzero)]
  | .fin _ _ _, .fin _ _ _ => simp [IsInf] at hbad

theorem add_nan (mode : Mode) (a : FVal) : add mode a .nan = .nan := by cases a <;> rfl

theorem mul_nan (a : FVal) : mul a .nan = .nan := by cases a <;> rfl

theorem fma_nan (mode : Mode) {a b z : FVal}
    (h : (a = .nan ∨ b = .nan ∨ z = .nan) ∨ (IsInf a ∧ IsZero b) ∨ (IsZero a ∧ IsInf b)) : fma mode a b z = .nan := by
  rcases h with (rfl | rfl | rfl) | hbad
  · rfl
  · rw [fma, mul_nan]; rfl
  · rw [fma, add_nan]
  · rw [fma, mul_bad hbad]; rfl

/-- An infinite product stays, but against an infinity of the other sign. -/
theorem add_inf (mode : Mode) (f : Format) (s : Bool) {z : FVal} (hz : z ≠ .nan) :
    roundVal mode f (add mode (.inf s) z) = if z = .inf (!s) then f.nanPat else roundVal mode f (.inf s) := by
  match z with
  | .nan => exact absurd rfl hz
  | .inf t => cases s <;> cases t <;> rfl
  | .fin _ _ _ => rfl

theorem fin_of_not {a : FVal} (hnan : a ≠ .nan) (hinf : ¬IsInf a) : ∃ n m e, a = .fin n m e := by
  match a with
  | .nan => exact absurd rfl hnan
  | .inf t => exact absurd (by cases t <;> simp [IsInf]) hinf
  | .fin n m e => exact ⟨n, m, e, rfl⟩

theorem isFused_fma (mode : Mode) (f : Format) (a b z : FVal) : IsFused mode f a b z (roundVal mode f (fma mode a b z)) := by
  refine ⟨fun h => by rw [fma_nan mode h]; rfl, fun hnan hbad hinf => ?_, fun hnan hinfA hinfB hinfZ => ?_, fun p q r hp hq hr => ?_⟩
  · obtain ⟨ha, hb, hz⟩ := by simpa only [not_or] using hnan
    rw [fma, mul_inf ⟨ha, hb⟩ hbad hinf]
    exact add_inf mode f _ hz
  · obtain ⟨ha, hb, -⟩ := by simpa only [not_or] using hnan
    obtain ⟨n1, m1, e1, rfl⟩ := fin_of_not ha hinfA
    obtain ⟨n2, m2, e2, rfl⟩ := fin_of_not hb hinfB
    rcases hinfZ with rfl | rfl <;> rfl
  · match a, b, hp, hq with
    | .fin n1 m1 e1, .fin n2 m2 e2, hp, hq =>
      rw [rat_fin] at hp hq
      obtain rfl := Option.some.inj hp
      obtain rfl := Option.some.inj hq
      have hsum := sum_finite mode f (rat_mul n1 m1 e1 n2 m2 e2) hr
      have hs : negative (mul (.fin n1 m1 e1) (.fin n2 m2 e2)) = (negative (.fin n1 m1 e1) != negative (.fin n2 m2 e2)) := by
        cases n1 <;> cases n2 <;> rfl
      rwa [hs] at hsum

end Sys2Proof.Float

namespace Sys2Proof.Float

open Sys2Proof.Spec

/-! ## Results are patterns of their format -/

theorem signed_lt {f : Format} (n : Bool) {p : Nat} (hp : p < 2 ^ (f.width - 1)) : signed f n p < 2 ^ f.width := by
  have hw : 2 ^ f.width = 2 ^ (f.width - 1) * 2 := by rw [← Nat.pow_succ]; simp only [Format.width]; congr 1; omega
  rw [hw, signed]
  cases n <;> simp only [b2n, Bool.false_eq_true, if_true, if_false] <;> omega

theorem finish_lt {f : Format} (hf : f.Lawful) (mode : Mode) (n : Bool) (p : Nat) : finish mode f n p < 2 ^ f.width := by
  rcases Nat.lt_or_ge f.maxPat p with hlt | hle
  · rw [finish_of_lt mode n hlt]
    rcases overflow_cases f mode n with hx | ⟨hsat, hx⟩
    · rw [hx]
      exact signed_lt n hf.most
    · rw [hx]
      exact signed_lt n (hf.inf (.inr hsat))
  · rw [finish_of_le mode n hle]
    exact signed_lt n (lt_of_le_of_lt hle hf.most)

theorem roundVal_lt {f : Format} (hf : f.Lawful) (mode : Mode) (v : FVal) : roundVal mode f v < 2 ^ f.width := by
  match v with
  | .nan => exact hf.nan
  | .inf n =>
    rw [roundVal]
    split
    · rename_i h
      exact signed_lt n (hf.inf (.inl (Bool.and_eq_true_iff.1 h).2))
    · split
      · exact signed_lt n hf.most
      · rename_i h
        exact signed_lt n (hf.inf (.inr (Bool.eq_false_iff.2 h)))
  | .fin n m e =>
    obtain ⟨p, h⟩ := round_rounds mode hf.frac n m e
    obtain ⟨p', hx, -⟩ := h.result
    rw [roundVal, hx]
    exact finish_lt hf mode n p'

end Sys2Proof.Float

namespace Sys2Proof.Machine

open Sys2Proof.Spec

/-! ## Words that compute each lane from its own sources (08, R172–R175) -/

section
variable {f : Fields} {opc : Nat} {s : State} {c : Ctx}

/-- A word whose result in each lane is right, and which flags the lanes it should, computes. -/
theorem computes_alu {i : Instr} (e : State → Host.Outcome State Fault Refusal) {ctr : Nat} {ka kb kc : Imm} {op : Word → Word → Word → Sat}
    {P : Ctx → Nat → Word → Prop} {S : Ctx → Nat → Bool} (hexec : exec i = e) (halu : ∀ s, e s = alu opc f ctr ka kb kc op s)
    (hll : Forms.longLatency opc = false)
    (hd : (roles opc f).d = true) (hs : (roles opc f).dIsSrc = false) (hctr : ctr < 63)
    (hright : ∀ s c, Calm opc f destName s c → ∀ l,
      let r := op ((typed ka c.opA false c.srcA).at l) ((typed kb c.opB f.imm32 c.srcB).at l) ((typed kc c.opC false c.srcC).at l)
      P c l r.value ∧ r.sat = S c l) : Computes i opc f ctr always P S := by
  intro s c h _ hany
  have hresult := settle_giveLanes h hll hd hs hany hctr fun l => op ((typed ka c.opA false c.srcA).at l)
    ((typed kb c.opB f.imm32 c.srcB).at l) ((typed kc c.opC false c.srcC).at l)
  rw [funext fun l => (hright s c h l).2] at hresult
  obtain ⟨hs', -⟩ := ctx_group h.ctx
  rw [hexec, halu, alu, issue_calm h h.form rfl, hs']
  exact ⟨_, _, rfl, hresult, fun l => (hright s c h l).1⟩

/-- A pattern of 32 bits is a word. -/
theorem pat_toNat {x : Nat} (h : x < 2 ^ 32) : (pat x).value.toNat = x := by
  rw [pat, BitVec.toNat_ofNat, Nat.mod_eq_of_lt h]

theorem lawful_f32 : Float.f32.Lawful := Float.lawful_of_mem (by simp [formats])

theorem roundVal_f32_toNat (mode : Float.Mode) (v : Float.FVal) :
    (pat (Float.roundVal mode Float.f32 v)).value.toNat = Float.roundVal mode Float.f32 v :=
  pat_toNat (Float.roundVal_lt lawful_f32 mode v)

/-- Settles O5: each result is the rounded value of the model's exact sum, product, or product and sum. -/
theorem fp32Arithmetic : Obligations.Fp32Arithmetic := by
  intro f v m
  refine ⟨?_, ?_, ?_, ?_⟩
  · refine computes_alu (execFadd f) rfl (fun _ => rfl) rfl rfl rfl (by decide) fun s c h l => ⟨?_, rfl⟩
    obtain ⟨-, -, -, -, rfl⟩ := ctx_group h.ctx
    rw [Float.addPat, roundVal_f32_toNat]
    exact Float.isSum_add _ _ _ _
  · refine computes_alu (execFsub f) rfl (fun _ => rfl) rfl rfl rfl (by decide) fun s c h l => ⟨?_, rfl⟩
    obtain ⟨-, -, -, -, rfl⟩ := ctx_group h.ctx
    rw [Float.subPat, roundVal_f32_toNat]
    exact Float.isSum_add _ _ _ _
  · refine computes_alu (execFmul f) rfl (fun _ => rfl) rfl rfl rfl (by decide) fun s c h l => ⟨?_, rfl⟩
    obtain ⟨-, -, -, -, rfl⟩ := ctx_group h.ctx
    rw [Float.mulPat, roundVal_f32_toNat]
    exact Float.isProduct_mul _ _ _ _
  · refine computes_alu (execFfma f) rfl (fun _ => rfl) rfl rfl rfl (by decide) fun s c h l => ⟨?_, rfl⟩
    obtain ⟨-, -, -, -, rfl⟩ := ctx_group h.ctx
    rw [Float.fmaPat, roundVal_f32_toNat]
    exact Float.isFused_fma _ _ _ _ _

end

end Sys2Proof.Machine

namespace Sys2Proof.Machine

open Sys2Proof.Spec

/-! ## Integers of a type (07, R147–R149) -/

theorem bitOf_top {w x : Nat} (hw : 0 < w) (hx : x < 2 ^ w) : bitOf x (w - 1) = decide (2 ^ (w - 1) ≤ x) := by
  obtain ⟨n, rfl⟩ : ∃ n, w = n + 1 := ⟨w - 1, by omega⟩
  rw [Nat.pow_succ] at hx
  rw [bitOf, Nat.add_sub_cancel, Nat.shiftRight_eq_div_pow]
  by_cases h : 2 ^ n ≤ x
  · rw [show x / 2 ^ n = 1 from Nat.div_eq_of_lt_le (by omega) (by omega), decide_eq_true h]
    rfl
  · rw [Nat.div_eq_of_lt (not_le.1 h), decide_eq_false h]
    rfl

/-- The model's value of an element is the value that the element stands for. -/
theorem valT_elem (t : Nat) (x : Word) (k : Nat) : valT t (elem (tw t) x k) = ev t x k := by
  obtain ⟨hw, -⟩ := tw_pos t
  have hlt : x.toNat / 2 ^ (tw t * k) % 2 ^ tw t < 2 ^ tw t := Nat.mod_lt _ (Nat.two_pow_pos _)
  rw [valT, show intWidth t = tw t from rfl, elem_eq hw, ev, valBits, intSigned, bitOf_top hw hlt]
  generalize x.toNat / 2 ^ (tw t * k) % 2 ^ tw t = e at *
  have hcast : ((2 : Int) ^ (tw t - 1) ≤ (e : Int)) ↔ 2 ^ (tw t - 1) ≤ e := by exact_mod_cast Iff.rfl
  by_cases h4 : t < 4
  · by_cases h : 2 ^ (tw t - 1) ≤ e
    · simp [h4, h, hcast]
    · simp [h4, h, hcast]
  · simp [h4]

/-- A word is its own element of a 32-bit type. -/
theorem valT_word {t : Nat} (ht : tw t = 32) (x : Word) : valT t x.toNat = ev t x 0 := by
  rw [← valT_elem, ht, elem_eq (by decide), Nat.mul_zero, Nat.pow_zero, Nat.div_one, Nat.mod_eq_of_lt x.isLt]

theorem valT_signed (x : Word) : valT 0 x.toNat = sv x := by
  rw [valT_word rfl, ev, sv, BitVec.toInt_eq_toNat_cond, show tw 0 = 32 from rfl]
  simp only [Nat.mul_zero, Nat.pow_zero, Nat.div_one, Nat.mod_eq_of_lt x.isLt]
  split_ifs <;> omega

theorem intLo_eq (t : Nat) : intLo t = lo t := by
  unfold intLo lo intSigned
  simp only [decide_eq_true_eq]
  split
  · push_cast; rfl
  · rfl

theorem intHi_eq (t : Nat) : intHi t = hi t := by
  unfold intHi hi intSigned
  simp only [decide_eq_true_eq]
  split <;> push_cast <;> rfl

theorem lo_nonpos (t : Nat) : lo t ≤ 0 := by
  have hpow : (0 : Int) < 2 ^ (tw t - 1) := pow_pos (by decide) _
  unfold lo
  split <;> omega

theorem hi_nonneg (t : Nat) : 0 ≤ hi t := by
  have hhalf : (0 : Int) < 2 ^ (tw t - 1) := pow_pos (by decide) _
  have hfull : (0 : Int) < 2 ^ tw t := pow_pos (by decide) _
  unfold hi
  split <;> omega

theorem lo_le_hi (t : Nat) : lo t ≤ hi t := (lo_nonpos t).trans (hi_nonneg t)

/-- `sat_t` takes a value to the nearest of its type, and reports one that it changed (07, R148, R149). -/
theorem satT_eq (t : Nat) (x : Int) : satT t x = (clampI (lo t) (hi t) x, decide (x < lo t) || decide (hi t < x)) := by
  have hle := lo_le_hi t
  rw [satT, intLo_eq, intHi_eq, clampI]
  split
  · rename_i h
    rw [min_eq_right (by omega), max_eq_left h.le, decide_eq_true h, Bool.true_or]
  · rename_i h
    rw [decide_eq_false h, Bool.false_or]
    split
    · rename_i h'
      rw [min_eq_left h'.le, max_eq_right hle, decide_eq_true h']
    · rename_i h'
      rw [min_eq_right (not_lt.1 h'), max_eq_right (not_lt.1 h), decide_eq_false h']

theorem satOr_value (b : Bool) (t : Nat) (x : Int) : (satOr b t x).value = w32 (if b then clampI (lo t) (hi t) x else x) := by
  cases b
  · rfl
  · simp only [satOr, if_true, satT_eq]
    rfl

theorem satOr_sat (b : Bool) (t : Nat) (x : Int) : (satOr b t x).sat = (b && (decide (x < lo t) || decide (hi t < x))) := by
  cases b
  · rfl
  · simp only [satOr, if_true, satT_eq, Bool.true_and]

theorem sv_range (x : Word) : -2 ^ 31 ≤ sv x ∧ sv x < 2 ^ 31 := ⟨BitVec.le_toInt x, BitVec.toInt_lt⟩

/-! ## Sources of 32-bit words (08, R172) -/

section
variable {f : Fields} {opc : Nat} {s : State} {c : Ctx}

/-- An immediate source is one value, but where a reissued word captured another. -/
theorem source_imm (hfresh : c.g.captured c.b = none) {x : BitVec 16} (himm : (Opnd.of x).isImm = true) :
    ∃ y, source c.s c.g c.b c.f x = .uniform y := by
  rw [Opnd.isImm, beq_iff_eq] at himm
  have hnamed : rawSource c.s c.g c.b (Opnd.of x) = .uniform (word (valBits true 8 (Opnd.of x).index)) := by
    rw [rawSource, hfresh, namedSource, himm]
    rfl
  rw [source, hnamed]
  exact ⟨_, rfl⟩

theorem typed_plain_of_uniform {o : Opnd} {b : Bool} {v : Value} (h : o.isImm = true → b = false → ∃ y, v = .uniform y) (l : Nat) :
    (typed .plain o b v).at l = v.at l := by
  unfold typed
  split
  · rename_i himm
    rw [Bool.and_eq_true, Bool.not_eq_true'] at himm
    obtain ⟨y, rfl⟩ := h himm.1 himm.2
    rw [uniform_at, uniform_at]
    exact uniform_at 0
  · rfl

theorem typed_plain_A (hfresh : c.g.captured c.b = none) (l : Nat) : (typed .plain c.opA false c.srcA).at l = xA c l :=
  typed_plain_of_uniform (fun himm _ => source_imm hfresh himm) l

theorem typed_plain_B (hfresh : c.g.captured c.b = none) (l : Nat) : (typed .plain c.opB c.f.imm32 c.srcB).at l = xB c l :=
  typed_plain_of_uniform (fun himm h32 => by rw [Ctx.srcB, h32]; exact source_imm hfresh himm) l

theorem typed_plain_C (hfresh : c.g.captured c.b = none) (l : Nat) : (typed .plain c.opC false c.srcC).at l = xC c l :=
  typed_plain_of_uniform (fun himm _ => source_imm hfresh himm) l

/-- An integer operation on whole words. -/
theorem computes_words {i : Instr} (e : State → Host.Outcome State Fault Refusal) {op : Word → Word → Word → Sat}
    {P : Ctx → Nat → Word → Prop} {S : Ctx → Nat → Bool} (hexec : exec i = e)
    (halu : ∀ s, e s = alu opc f ctrInt .plain .plain .plain op s) (hll : Forms.longLatency opc = false) (hd : (roles opc f).d = true)
    (hs : (roles opc f).dIsSrc = false)
    (hright : ∀ s c, Calm opc f destName s c → ∀ l, P c l (op (xA c l) (xB c l) (xC c l)).value ∧ (op (xA c l) (xB c l) (xC c l)).sat = S c l) :
    Computes i opc f ctrInt always P S := by
  refine computes_alu e hexec halu hll hd hs (by decide) fun s c h l => ?_
  have hwords := hright s c h l
  obtain ⟨-, -, -, -, rfl⟩ := ctx_group h.ctx
  rw [typed_plain_A h.fresh, typed_plain_B h.fresh, typed_plain_C h.fresh]
  exact hwords

/-- A word that no condition of Table 5.10 stops is one of its entry's forms. -/
theorem fnOk_of_check {opc : Nat} (h : Forms.check opc f = none) : Forms.fnOk opc f = some true := by
  unfold Forms.check at h
  split at h
  · cases h
  · rename_i good hgood
    cases good
    · simp at h
    · exact hgood

theorem fnOk_of_calm {names : Ctx → List Nat} {own : Ctx → Nat → Bool} (h : Calm opc f names s c own) : Forms.fnOk opc f = some true := by
  have hform := h.form
  obtain ⟨-, -, -, rfl, rfl⟩ := ctx_group h.ctx
  unfold formTrap at hform
  split at hform
  · cases hform
  · cases hform
  · rename_i hcheck
    exact fnOk_of_check hcheck

/-- The types of a plain form (08, Table 8.1). -/
theorem type_mem_of_calm {v : Forms.VForm} {names : Ctx → List Nat} {own : Ctx → Nat → Bool} (h : Calm opc f names s c own)
    (hv : Forms.fnOk opc f = some (Forms.vfn v f)) (hne : v.types.isEmpty = false) : f.type ∈ v.types := by
  have hfn := fnOk_of_calm h
  rw [hv] at hfn
  simp only [Option.some.injEq, Forms.vfn, hne, Bool.and_eq_true, Bool.false_eq_true, if_false] at hfn
  obtain ⟨⟨⟨⟨ht, -⟩, -⟩, -⟩, -⟩ := hfn
  exact List.contains_iff_mem.1 ht

theorem computes_iabs (f : Fields) : Computes (.iabs f) 0x047 f ctrInt always
    (fun c l x => x = w32 (if f.x then min |sv (xA c l)| (2 ^ 31 - 1) else |sv (xA c l)|))
    (fun c l => f.x && decide (sv (xA c l) = -2 ^ 31)) := by
  refine computes_words (execIabs f) rfl (fun _ => rfl) rfl rfl rfl fun s c h l => ?_
  obtain ⟨hlow, hhigh⟩ := sv_range (xA c l)
  rw [satOr_value, satOr_sat, valT_signed, ← Int.abs_eq_natAbs]
  generalize sv (xA c l) = y at *
  have hlo : lo 0 = -2 ^ 31 := rfl
  have hhi : hi 0 = 2 ^ 31 - 1 := rfl
  constructor
  · rw [clampI, hlo, hhi, max_eq_right (by have := abs_nonneg y; omega), min_comm]
  · congr 1
    rw [hlo, hhi, Bool.eq_iff_iff]
    simp only [Bool.or_eq_true, decide_eq_true_eq]
    have := abs_nonneg y
    rcases abs_cases y with ⟨he, -⟩ | ⟨he, -⟩ <;> omega

theorem computes_ineg (f : Fields) : Computes (.ineg f) 0x048 f ctrInt always
    (fun c l x => x = w32 (if f.x then min (-sv (xA c l)) (2 ^ 31 - 1) else -sv (xA c l)))
    (fun c l => f.x && decide (sv (xA c l) = -2 ^ 31)) := by
  refine computes_words (execIneg f) rfl (fun _ => rfl) rfl rfl rfl fun s c h l => ?_
  obtain ⟨hlow, hhigh⟩ := sv_range (xA c l)
  rw [satOr_value, satOr_sat, valT_signed]
  generalize sv (xA c l) = y at *
  have hlo : lo 0 = -2 ^ 31 := rfl
  have hhi : hi 0 = 2 ^ 31 - 1 := rfl
  constructor
  · rw [clampI, hlo, hhi, max_eq_right (by omega), min_comm]
  · congr 1
    rw [hlo, hhi, Bool.eq_iff_iff]
    simp only [Bool.or_eq_true, decide_eq_true_eq]
    omega

theorem computes_imulh (f : Fields) : Computes (.imulh f) 0x045 f ctrInt always
    (fun c l x => x = w32 (⌊((ev f.type (xA c l) 0 * ev f.type (xB c l) 0 : Int) : ℚ) / 2 ^ 32⌋)) := by
  refine computes_words (execImulh f) rfl (fun _ => rfl) rfl rfl rfl fun s c h l => ⟨?_, rfl⟩
  have ht : tw f.type = 32 := by
    have hmem := type_mem_of_calm h (v := { types := [0, 4], imm := true }) rfl rfl
    simp only [List.mem_cons, List.not_mem_nil, or_false] at hmem
    rcases hmem with ht | ht <;> rw [ht] <;> rfl
  have hfloor (y : Int) : ⌊(y : ℚ) / 2 ^ 32⌋ = y / ((2 ^ 32 : Nat) : Int) := by
    rw [← Rat.floor_intCast_div_natCast]
    norm_num
  rw [valT_word ht, valT_word ht, hfloor]
  rfl

theorem w32_uv (x : Word) : w32 (uv x) = x := by
  rw [w32, uv, BitVec.ofInt_natCast, BitVec.ofNat_toNat, BitVec.setWidth_eq]

theorem w32_add (x y : Int) : w32 (x + y) = w32 x + w32 y := BitVec.ofInt_add _ _

theorem w32_mul (x y : Int) : w32 (x * y) = w32 x * w32 y := BitVec.ofInt_mul _ _

theorem w32_sub (x y : Int) : w32 (x - y) = w32 x - w32 y := by
  rw [Int.sub_eq_add_neg, w32_add, BitVec.sub_eq_add_neg]
  exact congrArg _ BitVec.ofInt_neg

/-- Settles O1: wrapping arithmetic is that of bit vectors, and what saturates is clamped to INT32. -/
theorem integerArithmetic : Obligations.IntegerArithmetic := by
  intro f
  refine ⟨?_, ?_, ?_, computes_imulh f, ?_, computes_iabs f, computes_ineg f⟩
  · refine computes_words (execIadd f) rfl (fun _ => rfl) rfl rfl rfl fun s c h l => ⟨?_, rfl⟩
    rw [w32_add, w32_uv, w32_uv]
    rfl
  · refine computes_words (execIsub f) rfl (fun _ => rfl) rfl rfl rfl fun s c h l => ⟨?_, rfl⟩
    rw [w32_sub, w32_uv, w32_uv]
    rfl
  · refine computes_words (execImul f) rfl (fun _ => rfl) rfl rfl rfl fun s c h l => ⟨?_, rfl⟩
    rw [w32_mul, w32_uv, w32_uv]
    rfl
  · refine computes_words (execImad f) rfl (fun _ => rfl) rfl rfl rfl fun s c h l => ⟨?_, rfl⟩
    rw [w32_add, w32_mul, w32_uv, w32_uv, w32_uv]
    rfl

end

end Sys2Proof.Machine

namespace Sys2Proof.Machine

open Sys2Proof.Spec

/-! ## Packed halves (08, R188) -/

section
variable {f : Fields} {opc : Nat} {s : State} {c : Ctx}

/-- Each half of a packed result is that of the halves of the sources. -/
theorem halves_half {op : Nat → Nat → Nat → Nat} (hlt : ∀ x y z, op x y z < 2 ^ 16) (a b d : Word) {k : Nat} (hk : k < 2) :
    (halves op a b d).value.toNat / 2 ^ (16 * k) % 2 ^ 16 =
      op (a.toNat / 2 ^ (16 * k) % 2 ^ 16) (b.toNat / 2 ^ (16 * k) % 2 ^ 16) (d.toNat / 2 ^ (16 * k) % 2 ^ 16) := by
  rw [halves, plainSat, ofElems_elem (by simp) hk]
  simp only [← elem_eq (w := 16) (by decide)]
  have hk : k = 0 ∨ k = 1 := by omega
  rcases hk with rfl | rfl <;> exact Nat.mod_eq_of_lt (hlt _ _ _)

/-- A packed half-precision operation of two or three sources. -/
theorem computes_halves {i : Instr} (e : State → Host.Outcome State Fault Refusal) {kc : Fields → Imm} {v : Forms.VForm}
    {exact : Float.FVal → Float.FVal → Float.FVal → Float.FVal} {P : Float.FVal → Float.FVal → Float.FVal → Nat → Prop}
    (hexec : exec i = e) (halu : ∀ s, e s = alu opc f ctrHalf (.half f.type) (.half f.type) (kc f)
      (halves fun a b d => Float.roundVal (rm f) (Float.ofType f.type) (exact (Float.value (Float.ofType f.type) a)
        (Float.value (Float.ofType f.type) b) (Float.value (Float.ofType f.type) d))) s)
    (hll : Forms.longLatency opc = false) (hd : (roles opc f).d = true) (hs : (roles opc f).dIsSrc = false)
    (hv : Forms.fnOk opc f = some (Forms.vfn v f)) (htypes : v.types = [9, 10])
    (hright : ∀ a b d, P a b d (Float.roundVal (rm f) (Float.ofType f.type) (exact a b d))) :
    Computes i opc f ctrHalf always (fun c l x => ∀ k, k < 2 →
      P (Float.value (Float.ofType f.type) (hA c k l)) (Float.value (Float.ofType f.type) (hB c k l))
        (Float.value (Float.ofType f.type) (((typed (kc c.f) c.opC false c.srcC).at l).toNat / 2 ^ (16 * k) % 2 ^ 16))
        (x.toNat / 2 ^ (16 * k) % 2 ^ 16)) := by
  refine computes_alu e hexec halu hll hd hs (by decide) fun s c h l => ⟨fun k hk => ?_, rfl⟩
  have hlt (w : Float.FVal) : Float.roundVal (rm f) (Float.ofType f.type) w < 2 ^ 16 := by
    have hmem := type_mem_of_calm h hv (by rw [htypes]; rfl)
    rw [htypes] at hmem
    simp only [List.mem_cons, List.not_mem_nil, or_false] at hmem
    rcases hmem with ht | ht <;> rw [ht] <;> exact Float.roundVal_lt (Float.lawful_of_mem (by decide)) _ _
  obtain ⟨-, -, -, -, rfl⟩ := ctx_group h.ctx
  rw [halves_half (fun _ _ _ => hlt _) _ _ _ hk]
  exact hright _ _ _

/-- Settles O7: each half is rounded alone, by the sums and products of its format. -/
theorem packedHalves : Obligations.PackedHalves := by
  intro f fm v m half
  refine ⟨?_, ?_, ?_⟩
  · exact computes_halves (exact := fun a b _ => Float.add m a b) (kc := fun _ => .plain) (P := fun a b _ => IsSum m fm a b) (execHadd2 f)
      rfl (fun _ => rfl) rfl rfl rfl
      (v := { types := [9, 10], imm := true, rm := true }) rfl rfl fun _ _ _ => Float.isSum_add _ _ _ _
  · exact computes_halves (exact := fun a b _ => Float.mul a b) (kc := fun _ => .plain) (P := fun a b _ => IsProduct m fm a b) (execHmul2 f)
      rfl (fun _ => rfl) rfl rfl rfl
      (v := { types := [9, 10], imm := true, rm := true }) rfl rfl fun _ _ _ => Float.isProduct_mul _ _ _ _
  · exact computes_halves (exact := Float.fma m) (kc := fun f => .half f.type) (P := IsFused m fm) (execHfma2 f) rfl (fun _ => rfl) rfl rfl rfl
      (v := { types := [9, 10], rm := true, srcs := 3 }) rfl rfl fun _ _ _ => Float.isFused_fma _ _ _ _ _

/-! ## `rand` (07, R169; 08, R193) -/

/-- The lane's counter and round words of `rand`, as the model forms them. -/
def randCounter (c : Ctx) (l : Nat) : Nat × Nat :=
  (if c.record.pop then c.g.lin.getD l 0 % 2 ^ 32 else (c.team.teamid * c.record.slots * 32 + c.g.grpid * c.g.width + l) % 2 ^ 32,
    if c.record.pop then c.g.lin.getD l 0 / 2 ^ 32 else 0xFFFFFFFF)

theorem randCounter_eq (c : Ctx) (l : Nat) : randCounter c l =
    if c.record.pop then (c.g.lin.getD l 0 % 2 ^ 32, c.g.lin.getD l 0 / 2 ^ 32)
    else ((c.team.teamid * (32 * c.record.slots) + c.g.grpid * c.g.width + l) % 2 ^ 32, 2 ^ 32 - 1) := by
  rw [randCounter, Nat.mul_assoc, Nat.mul_comm c.record.slots]
  split <;> rfl

/-- The number of a lane's draw: A, or the immediate of the word. -/
theorem randDraw_eq (f : Fields) (v : Value) (l : Nat) :
    ((if f.imm32 then Value.uniform f.immediate else v).at l).toNat = if f.imm32 then f.immediate.toNat else (v.at l).toNat := by
  split
  · rw [uniform_at]
  · rfl

/-- Settles O9: the counter's words are those of the model. -/
theorem randomWords : Obligations.RandomWords := by
  intro f
  refine ⟨?_, fun s c h hscalar => exec_ruled_trap (x := execRand f s) rfl (by rw [operandChecks_noScalar_eq, hscalar]; rfl) h⟩
  refine computes_ruled (r := fun c l => BitVec.ofNat 32 (philoxWord (philox c.record.key ((randCounter c l).1, (randCounter c l).2,
      ((if f.imm32 then Value.uniform f.immediate else c.srcA).at l).toNat, 0)) f.mode))
    (fun s => rfl) rfl rfl rfl (by decide) (fun c hD => operandChecks_noScalar hD) fun s c _ _ _ l => ?_
  intro n lane ctr
  rw [randDraw_eq, randCounter_eq]
  cases hpop : c.record.pop <;> simp only [ctr, hpop] <;> rfl

end

end Sys2Proof.Machine

namespace Sys2Proof.Float

open Sys2Proof.Spec

/-! ## Integers from values (07, R160, Table 7.6) -/

/-- The magnitude `a`, from `t` on and below the next integer, goes up to the next. -/
def UpsInt (mode : Mode) (neg : Bool) (t : Nat) (a : ℚ) : Prop :=
  match mode with
  | .rne => t + 1 / 2 < a ∨ (a = t + 1 / 2 ∧ t % 2 = 1)
  | .rz => False
  | .rdn => neg = true ∧ (t : ℚ) < a
  | .rup => neg = false ∧ (t : ℚ) < a

/-- The integer that a magnitude is rounded to is the one below or the next. -/
theorem integral_cases (mode : Mode) (neg : Bool) (man : Nat) (exp : Int) :
    ∃ t : Nat, (t : ℚ) ≤ man * 2 ^ exp ∧ (man : ℚ) * 2 ^ exp < t + 1 ∧
    (integral mode neg man exp = t ∧ ¬UpsInt mode neg t (man * 2 ^ exp) ∨
      integral mode neg man exp = t + 1 ∧ UpsInt mode neg t (man * 2 ^ exp)) := by
  obtain ⟨t, rem, k, hrem, ha, hkeep⟩ := truncation man exp 0
  have hk : (0 : ℚ) < 2 ^ k := by positivity
  have hfrac : (rem : ℚ) / 2 ^ k < 1 := by rw [div_lt_one hk]; exact_mod_cast hrem
  have hnonneg : (0 : ℚ) ≤ rem / 2 ^ k := by positivity
  have hmore : (0 : ℚ) < rem / 2 ^ k ↔ rem ≠ 0 := by
    rw [div_pos_iff_of_pos_right hk, Nat.cast_pos, Nat.pos_iff_ne_zero]
  have habove : (1 / 2 : ℚ) < rem / 2 ^ k ↔ 2 ^ k < 2 * rem := by
    rw [div_lt_div_iff₀ two_pos hk, one_mul, mul_comm]
    exact_mod_cast Iff.rfl
  have htie : (rem : ℚ) / 2 ^ k = 1 / 2 ↔ 2 * rem = 2 ^ k := by
    rw [div_eq_div_iff hk.ne' two_ne_zero, one_mul, mul_comm]
    exact_mod_cast Iff.rfl
  have hup : roundsUp mode neg (t % 2 == 1) rem k false = true ↔ UpsInt mode neg t (t + rem / 2 ^ k) := by
    cases mode <;> simp only [roundsUp, UpsInt, add_lt_add_iff_left, add_right_inj, lt_add_iff_pos_right, hmore, habove, htie] <;> simp
  have hint := hkeep mode neg
  simp only [sub_zero, zero_sub] at hint
  rw [zpow_zero, mul_one] at ha
  refine ⟨t, by rw [ha]; linarith, by rw [ha]; linarith, ?_⟩
  rw [integral, hint, ha, ← hup]
  split
  · rename_i h; exact .inr ⟨rfl, h⟩
  · rename_i h; exact .inl ⟨rfl, h⟩

theorem abs_sub_toInt (neg : Bool) (a : ℚ) (n : Nat) : |sign neg * a - (toInt neg n : ℚ)| = |a - n| := by
  rw [toInt_eq_sign, ← mul_sub]
  cases neg
  · rw [sign, if_neg (by decide), one_mul]
  · rw [sign, if_pos rfl, neg_one_mul, abs_neg]

theorem toInt_even {neg : Bool} {n : Nat} (h : n % 2 = 0) : toInt neg n % 2 = 0 := by
  cases neg <;> simp only [toInt, Bool.false_eq_true, if_true, if_false] <;> omega

/-- A value's integer is the one that its mode names (07, Table 7.6). -/
theorem roundsTo_integral (mode : Mode) (neg : Bool) (man : Nat) (exp : Int) :
    RoundsTo mode (sign neg * (man * 2 ^ exp)) (toInt neg (integral mode neg man exp)) := by
  obtain ⟨t, hlow, hhigh, hcases⟩ := integral_cases mode neg man exp
  have ha : (0 : ℚ) ≤ man * 2 ^ exp := by positivity
  generalize integral mode neg man exp = n at *
  generalize (man : ℚ) * 2 ^ exp = a at *
  have hfloor : ⌊a⌋ = (t : Int) := Int.floor_eq_iff.2 ⟨hlow, hhigh⟩
  have hceil (hmore : (t : ℚ) < a) : ⌈a⌉ = (t : Int) + 1 := Int.ceil_eq_iff.2 ⟨by push_cast; linarith, by push_cast; exact hhigh.le⟩
  have hceil' (hmore : ¬(t : ℚ) < a) : ⌈a⌉ = (t : Int) := Int.ceil_eq_iff.2 ⟨by push_cast; linarith, not_lt.1 hmore⟩
  cases mode with
  | rne =>
    show |_| ≤ _ ∧ (|_| = _ → _)
    rw [abs_sub_toInt]
    rcases hcases with ⟨rfl, hup⟩ | ⟨rfl, hup⟩
    · simp only [UpsInt, not_or, not_and, not_lt] at hup
      obtain ⟨hhalf, htie⟩ := hup
      rw [abs_of_nonneg (sub_nonneg.2 hlow)]
      exact ⟨by linarith, fun he => toInt_even (by have := htie (by linarith); omega)⟩
    · rw [abs_sub_comm, abs_of_nonneg (by push_cast; linarith)]
      push_cast
      rcases hup with hup | ⟨hup, hodd⟩
      · exact ⟨by linarith, fun he => absurd he (by linarith)⟩
      · exact ⟨by linarith, fun _ => toInt_even (by omega)⟩
  | rz =>
    obtain ⟨rfl, -⟩ := hcases.resolve_right fun h => h.2
    cases neg with
    | false =>
      rw [sign, if_neg (by decide), one_mul]
      exact ⟨fun _ => hfloor.symm, fun hneg => absurd ha (not_le.2 hneg)⟩
    | true =>
      rw [sign, if_pos rfl, neg_one_mul]
      refine ⟨fun hzero => ?_, fun _ => ?_⟩
      · rw [Int.floor_neg, hceil' (by have := n.cast_nonneg (α := ℚ); linarith)]
        rfl
      · rw [Int.ceil_neg, hfloor]
        rfl
  | rdn =>
    show toInt neg n = ⌊_⌋
    cases neg with
    | false =>
      obtain ⟨rfl, -⟩ := hcases.resolve_right fun h => absurd h.2.1 (by decide)
      rw [sign, if_neg (by decide), one_mul, hfloor]
      rfl
    | true =>
      rw [sign, if_pos rfl, neg_one_mul, Int.floor_neg]
      rcases hcases with ⟨rfl, hup⟩ | ⟨rfl, -, hup⟩
      · rw [hceil' fun h => hup ⟨rfl, h⟩]
        rfl
      · rw [hceil hup]
        rfl
  | rup =>
    show toInt neg n = ⌈_⌉
    cases neg with
    | true =>
      obtain ⟨rfl, -⟩ := hcases.resolve_right fun h => absurd h.2.1 (by decide)
      rw [sign, if_pos rfl, neg_one_mul, Int.ceil_neg, hfloor]
      rfl
    | false =>
      rw [sign, if_neg (by decide), one_mul]
      rcases hcases with ⟨rfl, hup⟩ | ⟨rfl, -, hup⟩
      · rw [hceil' fun h => hup ⟨rfl, h⟩]
        rfl
      · rw [hceil hup]
        rfl

end Sys2Proof.Float

namespace Sys2Proof.Machine

open Sys2Proof.Spec

/-! ## The elements of a conversion (08, R191, R192) -/

/-- The element of A that element `k` of D is converted from, of `ns` and `nd` elements a lane. -/
def convSource (ns nd el k : Nat) : Nat := if ns < nd then k - ns * el else if nd < ns then nd * el + k else k

/-- Element `k` of D is one that the conversion fills. -/
def ConvFills (ns nd el k : Nat) : Prop := k < nd ∧ (ns < nd → ns * el ≤ k ∧ k < ns * el + ns)

theorem perLane_cases (t : Nat) : Forms.perLane t = 1 ∨ Forms.perLane t = 2 ∨ Forms.perLane t = 4 ∨ Forms.perLane t = 8 := by
  unfold Forms.perLane
  split_ifs <;> decide

theorem perLane_fits (t : Nat) : 0 < 32 / Forms.perLane t ∧ 32 / Forms.perLane t * Forms.perLane t = 32 := by
  rcases perLane_cases t with h | h | h | h <;> rw [h] <;> decide

/-- Element `k` of a word of `n` elements (07, Table 7.2). -/
def laneElem (n : Nat) (x : Word) (k : Nat) : Nat := x.toNat / 2 ^ (32 / n * k) % 2 ^ (32 / n)

theorem elem_lane (t : Nat) (x : Word) (k : Nat) : elem (32 / Forms.perLane t) x k = laneElem (Forms.perLane t) x k :=
  elem_eq (perLane_fits t).1 x k

theorem narrowing_iff {f : Fields} : narrowing f = true ↔ Forms.perLane f.sel < Forms.perLane f.type := decide_eq_true_iff

section
variable {f : Fields} {conv : Nat → Nat × Bool} {a d : Word} {k : Nat}

/-- A lane of D of a narrowing conversion. -/
theorem convLane_narrow (h : Forms.perLane f.sel < Forms.perLane f.type) (hk : k < Forms.perLane f.type) :
    laneElem (Forms.perLane f.type) (convLane f conv a d).value k =
      if Forms.perLane f.sel * f.aux.toNat ≤ k ∧ k < Forms.perLane f.sel * f.aux.toNat + Forms.perLane f.sel then
        (conv (laneElem (Forms.perLane f.sel) a (k - Forms.perLane f.sel * f.aux.toNat))).1 % 2 ^ (32 / Forms.perLane f.type)
      else laneElem (Forms.perLane f.type) d k := by
  obtain ⟨hpos, hfit⟩ := perLane_fits f.type
  rw [laneElem, convLane]
  simp only [h, if_true, elem_lane]
  rw [ofElems_elem (by rw [List.length_map, List.length_range, hfit]) (by rwa [List.length_map, List.length_range])]
  rw [List.getElem_map, List.getElem_range]
  split
  · rename_i hin
    rw [List.getD_eq_getElem _ _ (by rw [List.length_map, List.length_range]; omega), List.getElem_map, List.getElem_range]
  · exact Nat.mod_mod _ _

/-- Where the source has as many elements or more, its index follows from the slice alone where it has more. -/
theorem sourceIndex_wide {ns nd i : Nat} (h : ¬ns < nd) : (if ns = nd then k else nd * i + k) = if nd < ns then nd * i + k else k := by
  rcases Nat.lt_or_eq_of_le (Nat.le_of_not_lt h) with hlt | rfl
  · rw [if_neg hlt.ne', if_pos hlt]
  · rw [if_pos rfl, if_neg (lt_irrefl _)]

/-- A lane of D of a conversion that does not narrow. -/
theorem convLane_wide (h : ¬Forms.perLane f.sel < Forms.perLane f.type) (hk : k < Forms.perLane f.type) :
    laneElem (Forms.perLane f.type) (convLane f conv a d).value k =
      (conv (laneElem (Forms.perLane f.sel) a (convSource (Forms.perLane f.sel) (Forms.perLane f.type) f.aux.toNat k))).1 %
        2 ^ (32 / Forms.perLane f.type) := by
  obtain ⟨hpos, hfit⟩ := perLane_fits f.type
  rw [laneElem, convLane]
  simp only [h, if_false, elem_lane]
  rw [ofElems_elem (by rw [List.length_map, List.length_map, List.length_range, hfit]) (by rwa [List.length_map, List.length_map, List.length_range])]
  rw [List.getElem_map, List.getElem_map, List.getElem_range, convSource, if_neg h]
  congr 4
  exact sourceIndex_wide h

theorem convLane_filled (hk : ConvFills (Forms.perLane f.sel) (Forms.perLane f.type) f.aux.toNat k) :
    laneElem (Forms.perLane f.type) (convLane f conv a d).value k =
      (conv (laneElem (Forms.perLane f.sel) a (convSource (Forms.perLane f.sel) (Forms.perLane f.type) f.aux.toNat k))).1 %
        2 ^ (32 / Forms.perLane f.type) := by
  by_cases h : Forms.perLane f.sel < Forms.perLane f.type
  · rw [convLane_narrow h hk.1, if_pos (hk.2 h), convSource, if_pos h]
  · exact convLane_wide h hk.1

theorem convLane_kept (hk : k < Forms.perLane f.type) (hnot : ¬ConvFills (Forms.perLane f.sel) (Forms.perLane f.type) f.aux.toNat k) :
    Forms.perLane f.sel < Forms.perLane f.type ∧
      laneElem (Forms.perLane f.type) (convLane f conv a d).value k = laneElem (Forms.perLane f.type) d k := by
  have h : Forms.perLane f.sel < Forms.perLane f.type := by
    by_contra h
    exact hnot ⟨hk, fun h' => absurd h' h⟩
  exact ⟨h, by rw [convLane_narrow h hk, if_neg fun hin => hnot ⟨hk, fun _ => hin⟩]⟩

/-- A conversion sets SAT where one of the elements that it fills does. -/
theorem convLane_sat (hslice : Forms.perLane f.sel < Forms.perLane f.type →
      Forms.perLane f.sel * f.aux.toNat + Forms.perLane f.sel ≤ Forms.perLane f.type) :
    (convLane f conv a d).sat = (List.range (Forms.perLane f.type)).any fun k =>
      decide (Forms.perLane f.sel < Forms.perLane f.type →
        Forms.perLane f.sel * f.aux.toNat ≤ k ∧ k < Forms.perLane f.sel * f.aux.toNat + Forms.perLane f.sel) &&
      (conv (laneElem (Forms.perLane f.sel) a (convSource (Forms.perLane f.sel) (Forms.perLane f.type) f.aux.toNat k))).2 := by
  rw [convLane, Bool.eq_iff_iff]
  simp only [elem_lane]
  generalize Forms.perLane f.sel = ns at *
  generalize Forms.perLane f.type = nd at *
  by_cases h : ns < nd
  · simp only [h, if_true, convSource, List.any_map, List.any_eq_true, List.mem_range, Function.comp, Bool.and_eq_true, decide_eq_true_eq,
      true_implies]
    constructor
    · rintro ⟨k, hk, hsat⟩
      have := hslice h
      exact ⟨ns * f.aux.toNat + k, by omega, by omega, by rwa [Nat.add_sub_cancel_left]⟩
    · rintro ⟨k, -, hin, hsat⟩
      exact ⟨k - ns * f.aux.toNat, by omega, hsat⟩
  · simp only [h, if_false, convSource, List.any_map, List.any_eq_true, List.mem_range, Function.comp, false_implies, decide_true, Bool.true_and]
    refine exists_congr fun k => and_congr_right fun _ => ?_
    rw [sourceIndex_wide h]

end

end Sys2Proof.Machine

namespace Sys2Proof.Machine

open Sys2Proof.Spec

section
variable {f : Fields} {opc : Nat} {s : State} {c : Ctx}

/-- A word that gives a result in each active lane, whose operand rules let it pass, and which flags the lanes it should, computes. -/
theorem computes_flagged {i : Instr} {ctr : Nat} {own : Ctx → Nat → Bool} {cond : Ctx → Prop} {P : Ctx → Nat → Word → Prop}
    {S : Ctx → Nat → Bool} {r : Ctx → Nat → Sat} (hexec : ∀ s, exec i s = .next (ruled opc f own (fun c => giveLanes c ctr (r c)) s))
    (hll : Forms.longLatency opc = false) (hd : (roles opc f).d = true) (hs : (roles opc f).dIsSrc = false) (hctr : ctr < 63)
    (hown : ∀ s c, Calm opc f destName s c → cond c → operandChecks own c = none)
    (hright : ∀ s c, Calm opc f destName s c → cond c → ∀ l, P c l (r c l).value ∧ (r c l).sat = S c l) : Computes i opc f ctr cond P S := by
  intro s c h hcond hany
  have hresult := settle_giveLanes h hll hd hs hany hctr (r c)
  rw [funext fun l => (hright s c h hcond l).2] at hresult
  obtain ⟨hs', -⟩ := ctx_group h.ctx
  rw [hexec, ruled_calm h (hown s c h hcond), hs']
  exact ⟨_, _, rfl, hresult, fun l => (hright s c h hcond l).1⟩

theorem operandChecks_conv : operandChecks convOperands c =
    if c.opD.isPred || (narrowing c.f && c.opD.isQ0) then some (c.illegalOperand 1)
    else if c.opA.isImm then some (c.illegalOperand 2) else none := by
  simp [operandChecks_eq, convOperands, fieldsBad]

/-- The lane of D that a conversion keeps elements of is D's own. -/
theorem rawSource_fresh {g : Group} {b : Bool} (hfresh : g.captured b = none) (s : State) (o : Opnd) : rawSource s g b o = namedSource s g b o := by
  rw [rawSource, hfresh]
  rfl

/-- The types of a conversion lie apart, and its slice is one of the wider element's (08, R192, Table 8.12). -/
structure ConvForm (f : Fields) (into from_ : List Nat) : Prop where
  into  : f.type ∈ into
  from_ : f.sel ∈ from_
  slice : f.aux.toNat < max (Forms.perLane f.sel) (Forms.perLane f.type) / min (Forms.perLane f.sel) (Forms.perLane f.type)

theorem ConvForm.slice_fits {into from_ : List Nat} (h : ConvForm f into from_) (hn : Forms.perLane f.sel < Forms.perLane f.type) :
    Forms.perLane f.sel * f.aux.toNat + Forms.perLane f.sel ≤ Forms.perLane f.type := by
  have hslice := h.slice
  rw [max_eq_right hn.le, min_eq_left hn.le] at hslice
  calc Forms.perLane f.sel * f.aux.toNat + Forms.perLane f.sel = Forms.perLane f.sel * (f.aux.toNat + 1) := by ring
    _ ≤ Forms.perLane f.sel * (Forms.perLane f.type / Forms.perLane f.sel) := Nat.mul_le_mul_left _ hslice
    _ ≤ Forms.perLane f.type := Nat.mul_div_le _ _

/-- A conversion computes: what it fills is right, and the rest of D is kept. -/
theorem computes_conversion {i : Instr} (e : State → Host.Outcome State Fault Refusal) {conv : Nat → Nat × Bool}
    {Q : Ctx → Nat → Nat → Word → Prop} {S : Ctx → Nat → Bool}
    {into from_ : List Nat} (hexec : exec i = e) (hconv : ∀ s, e s = conversion opc f conv s)
    (hll : Forms.longLatency opc = false) (hd : (roles opc f).d = true) (hs : (roles opc f).dIsSrc = false)
    (hform : Forms.fnOk opc f = some true → ConvForm f into from_)
    (hright : ConvForm f into from_ → ∀ c l k x, ConvFills (Forms.perLane f.sel) (Forms.perLane f.type) f.aux.toNat k →
      laneElem (Forms.perLane f.type) x k =
        (conv (laneElem (Forms.perLane f.sel) (xA c l) (convSource (Forms.perLane f.sel) (Forms.perLane f.type) f.aux.toNat k))).1 %
          2 ^ (32 / Forms.perLane f.type) → Q c l k x)
    (hsat : ∀ c l, ((List.range (Forms.perLane f.type)).any fun k =>
      decide (Forms.perLane f.sel < Forms.perLane f.type →
        Forms.perLane f.sel * f.aux.toNat ≤ k ∧ k < Forms.perLane f.sel * f.aux.toNat + Forms.perLane f.sel) &&
      (conv (laneElem (Forms.perLane f.sel) (xA c l) (convSource (Forms.perLane f.sel) (Forms.perLane f.type) f.aux.toNat k))).2) = S c l) :
    Computes i opc f ctrFloat
      (fun c => c.opD.isPred = false ∧ (Forms.perLane f.sel < Forms.perLane f.type → c.opD.isQ0 = false) ∧ c.opA.isImm = false)
      (fun c l x => (∀ k, k < Forms.perLane f.type → ¬ConvFills (Forms.perLane f.sel) (Forms.perLane f.type) f.aux.toNat k →
          laneElem (Forms.perLane f.type) x k = laneElem (Forms.perLane f.type) ((namedSource c.s c.g c.b c.opD).at l) k) ∧
        ∀ k, ConvFills (Forms.perLane f.sel) (Forms.perLane f.type) f.aux.toNat k → Q c l k x)
      S := by
  refine computes_flagged (own := convOperands) (r := fun c l => convLane f conv (c.srcA.at l)
    (if narrowing f then (rawSource c.s c.g c.b c.opD).at l else 0)) (fun s => by rw [hexec, hconv]; rfl) hll hd hs (by decide)
    (fun s c h ⟨hpred, hq0, himm⟩ => ?_) fun s c h _ l => ?_
  · obtain ⟨-, -, -, -, rfl⟩ := ctx_group h.ctx
    have hnarrow : (narrowing c.f && c.opD.isQ0) = false := Bool.and_eq_false_imp.2 fun hn => hq0 (narrowing_iff.1 hn)
    rw [operandChecks_conv, hpred, hnarrow, himm]
    rfl
  · have hfields := hform (fnOk_of_calm h)
    refine ⟨⟨fun k hk hnot => ?_, fun k hk => hright hfields c l k _ hk (convLane_filled hk)⟩, (convLane_sat hfields.slice_fits).trans (hsat c l)⟩
    obtain ⟨hn, hkept⟩ := convLane_kept (conv := conv) (a := c.srcA.at l) hk hnot
    rw [hkept, if_pos (narrowing_iff.2 hn), rawSource_fresh h.fresh]

end

end Sys2Proof.Machine

namespace Sys2Proof.Machine

open Sys2Proof.Spec

section
variable {f : Fields}

theorem float_type {t : Nat} (h : t ∈ Forms.floatTypes) : (Float.ofType t).Lawful ∧ (Float.ofType t).width = 32 / Forms.perLane t := by
  simp only [Forms.floatTypes, List.mem_cons, List.not_mem_nil, or_false] at h
  rcases h with rfl | rfl | rfl | rfl | rfl | rfl <;> exact ⟨Float.lawful_of_mem (by decide), rfl⟩

theorem int_type {t : Nat} (h : t ∈ Forms.intTypes) : tw t = 32 / Forms.perLane t := by
  simp only [Forms.intTypes, List.mem_cons, List.not_mem_nil, or_false] at h
  rcases h with rfl | rfl | rfl | rfl | rfl | rfl <;> rfl

theorem wide_float_type {t : Nat} (h : t ∈ [8, 9, 10]) : t ∈ Forms.floatTypes := by
  simp only [List.mem_cons, List.not_mem_nil, or_false] at h
  rcases h with rfl | rfl | rfl <;> decide

/-- An element of a packed integer type by its place in the lane. -/
theorem ev_eq_valT {t : Nat} (h : t ∈ Forms.intTypes) (x : Word) (k : Nat) : valT t (laneElem (Forms.perLane t) x k) = ev t x k := by
  rw [← elem_lane, ← int_type h, valT_elem]

/-- The rounding of an integer, 0 as +0 (07, R159). -/
theorem rounded_ofInt (mode : Float.Mode) (fm : Float.Format) (x : Int) : Rounded mode fm x (Float.ofInt mode fm x) := by
  refine ⟨.fin (decide (x < 0)) x.natAbs 0, ?_, rfl⟩
  rw [Float.rat_fin, zpow_zero, mul_one, Float.sign_natAbs]

theorem ofInt_zero (mode : Float.Mode) (fm : Float.Format) : Float.ofInt mode fm 0 = 0 := by
  rw [Float.ofInt]
  exact Float.round_zero mode fm false 0

/-- An element that holds the pattern of a value of its type has that value. -/
theorem ev_of_wrap {t : Nat} {x : Word} {k : Nat} {y : Int} (hx : x.toNat / 2 ^ (tw t * k) % 2 ^ tw t = wrapBits (tw t) y) (hlo : lo t ≤ y)
    (hhi : y ≤ hi t) : ev t x k = y := by
  have hhalf : (0 : Int) < 2 ^ (tw t - 1) := pow_pos (by decide) _
  have hfull : (2 : Int) ^ tw t = 2 * 2 ^ (tw t - 1) := by rw [← pow_succ', Nat.sub_add_cancel (tw_pos t).1]
  have hwrap : ((wrapBits (tw t) y : Nat) : Int) = y % 2 ^ tw t := by
    rw [wrapBits, Int.toNat_of_nonneg (Int.emod_nonneg _ (by positivity))]
    push_cast
    rfl
  rw [ev, hx, hwrap]
  rw [lo] at hlo
  rw [hi] at hhi
  rw [hfull] at hhi ⊢
  split at hlo
  · rename_i h4
    rw [if_pos h4] at hhi
    rcases lt_or_ge y 0 with hneg | hpos
    · rw [← Int.add_mul_emod_self_left y _ 1, mul_one, Int.emod_eq_of_lt (by omega) (by omega), if_pos ⟨h4, by omega⟩]
      omega
    · rw [Int.emod_eq_of_lt hpos (by omega), if_neg (by omega)]
  · rename_i h4
    rw [if_neg h4] at hhi
    rw [Int.emod_eq_of_lt hlo (by omega), if_neg fun h => h4 h.1]

/-- The integer of a value that is a number, clamped to the type (07, R160). -/
theorem toInteger_fin (mode : Float.Mode) (t : Nat) (n : Bool) (m : Nat) (e : Int) :
    (Float.toInteger mode (.fin n m e) (intLo t) (intHi t)).1 = clampI (lo t) (hi t) (Float.toInt n (Float.integral mode n m e)) := by
  have hsat := satT_eq t (Float.toInt n (Float.integral mode n m e))
  exact congrArg Prod.fst hsat

theorem toInteger_range (mode : Float.Mode) (v : Float.FVal) (t : Nat) :
    lo t ≤ (Float.toInteger mode v (intLo t) (intHi t)).1 ∧ (Float.toInteger mode v (intLo t) (intHi t)).1 ≤ hi t := by
  match v with
  | .nan => exact ⟨lo_nonpos t, hi_nonneg t⟩
  | .inf n =>
    have hle := lo_le_hi t
    show lo t ≤ (if n then intLo t else intHi t) ∧ (if n then intLo t else intHi t) ≤ hi t
    rw [intLo_eq, intHi_eq]
    split <;> omega
  | .fin n m e =>
    rw [toInteger_fin]
    exact ⟨le_max_left _ _, max_le (lo_le_hi t) (min_le_left _ _)⟩

end

end Sys2Proof.Machine

namespace Sys2Proof.Machine

open Sys2Proof.Spec

/-! ## `cvt`, `i2f` and `f2i` (08, R191, R192) -/

section
variable {f : Fields}

theorem convForm_cvt (h : Forms.fnOk 0x0F0 f = some true) : ConvForm f Forms.floatTypes Forms.floatTypes ∧ f.type ≠ f.sel := by
  have hfn : (Forms.floatTypes.contains f.type && Forms.floatTypes.contains f.sel && f.type != f.sel && !f.x && !f.imm32 && Forms.convIndex f) = true :=
    Option.some.inj h
  simp only [Bool.and_eq_true, List.contains_iff_mem, bne_iff_ne] at hfn
  obtain ⟨⟨⟨⟨⟨hinto, hfrom⟩, hne⟩, -⟩, -⟩, hindex⟩ := hfn
  exact ⟨⟨hinto, hfrom, of_decide_eq_true hindex⟩, hne⟩

theorem convForm_i2f (h : Forms.fnOk 0x0F1 f = some true) : ConvForm f [8, 9, 10] Forms.intTypes := by
  have hfn : ([8, 9, 10].contains f.type && Forms.intTypes.contains f.sel && !f.x && !f.imm32 && Forms.convIndex f) = true := Option.some.inj h
  simp only [Bool.and_eq_true, List.contains_iff_mem] at hfn
  obtain ⟨⟨⟨⟨hinto, hfrom⟩, -⟩, -⟩, hindex⟩ := hfn
  exact ⟨hinto, hfrom, of_decide_eq_true hindex⟩

theorem convForm_f2i (h : Forms.fnOk 0x0F2 f = some true) : ConvForm f Forms.intTypes [8, 9, 10] := by
  have hfn : (Forms.intTypes.contains f.type && [8, 9, 10].contains f.sel && !f.x && !f.imm32 && Forms.convIndex f) = true := Option.some.inj h
  simp only [Bool.and_eq_true, List.contains_iff_mem] at hfn
  obtain ⟨⟨⟨⟨hinto, hfrom⟩, -⟩, -⟩, hindex⟩ := hfn
  exact ⟨hinto, hfrom, of_decide_eq_true hindex⟩

/-- No integer type is a floating one. -/
theorem int_ne_float {t u : Nat} (ht : t ∈ Forms.intTypes) (hu : u ∈ [8, 9, 10]) : t ≠ u := by
  rintro rfl
  simp only [Forms.intTypes, List.mem_cons, List.not_mem_nil, or_false] at ht hu
  omega

/-- A rounded pattern fits its element. -/
theorem roundVal_fits {t : Nat} (ht : t ∈ Forms.floatTypes) (mode : Float.Mode) (v : Float.FVal) :
    Float.roundVal mode (Float.ofType t) v % 2 ^ (32 / Forms.perLane t) = Float.roundVal mode (Float.ofType t) v := by
  obtain ⟨hlawful, hwidth⟩ := float_type ht
  rw [← hwidth]
  exact Nat.mod_eq_of_lt (Float.roundVal_lt hlawful mode v)

/-- What `f2i` leaves in an element of a value (07, R160). -/
theorem f2i_element {t k : Nat} {x : Word} {v : Float.FVal} (mode : Float.Mode) (ht : t ∈ Forms.intTypes) :
    laneElem (Forms.perLane t) x k = wrapBits (intWidth t) (Float.toInteger mode v (intLo t) (intHi t)).1 % 2 ^ (32 / Forms.perLane t) →
    match v with
    | .nan => ev t x k = 0
    | .inf s => ev t x k = if s then lo t else hi t
    | w => ∃ q y, rat w = some q ∧ RoundsTo mode q y ∧ ev t x k = clampI (lo t) (hi t) y := by
  intro hx
  have hev : ev t x k = (Float.toInteger mode v (intLo t) (intHi t)).1 := by
    obtain ⟨hlo, hhi⟩ := toInteger_range mode v t
    refine ev_of_wrap ?_ hlo hhi
    have hwidth := int_type ht
    rw [laneElem, ← hwidth] at hx
    rw [hx]
    refine Nat.mod_eq_of_lt ?_
    rw [wrapBits, Int.toNat_lt (Int.emod_nonneg _ (by positivity))]
    exact Int.emod_lt_of_pos _ (by positivity)
  match v with
  | .nan => exact hev
  | .inf s =>
    rw [hev, ← intLo_eq, ← intHi_eq]
    rfl
  | .fin n m e => exact ⟨_, _, Float.rat_fin n m e, Float.roundsTo_integral mode n m e, hev.trans (toInteger_fin mode t n m e)⟩

/-- What `i2f` leaves in an element of an integer (07, R159). -/
theorem i2f_element {t u k j : Nat} {x a : Word} (mode : Float.Mode) (ht : t ∈ [8, 9, 10]) (hu : u ∈ Forms.intTypes)
    (hx : laneElem (Forms.perLane t) x k =
      Float.ofInt mode (Float.ofType t) (valT u (laneElem (Forms.perLane u) a j)) % 2 ^ (32 / Forms.perLane t)) :
    Rounded mode (Float.ofType t) (ev u a j) (laneElem (Forms.perLane t) x k) ∧ (ev u a j = 0 → laneElem (Forms.perLane t) x k = 0) := by
  have hround : laneElem (Forms.perLane t) x k = Float.ofInt mode (Float.ofType t) (ev u a j) := by
    rw [hx, ev_eq_valT hu]
    exact roundVal_fits (wide_float_type ht) mode (.fin (decide (ev u a j < 0)) (ev u a j).natAbs 0)
  rw [hround]
  exact ⟨rounded_ofInt _ _ _, fun hzero => by rw [hzero, ofInt_zero]⟩

/-- A conversion's operand rules trap by D before A (08, R201). -/
theorem conversion_traps {x : Host.Outcome State Fault Refusal} {opc : Nat} {conv : Nat → Nat × Bool} {s : State} {c : Ctx}
    (hx : x = conversion opc f conv s) (h : Calm opc f destName s c) :
    (c.opD.isPred = true ∨ (Forms.perLane f.sel < Forms.perLane f.type ∧ c.opD.isQ0 = true) → x = .next (s.takeTrap c.k (c.illegalOperand 1))) ∧
      (c.opD.isPred = false → ¬(Forms.perLane f.sel < Forms.perLane f.type ∧ c.opD.isQ0 = true) → c.opA.isImm = true →
        x = .next (s.takeTrap c.k (c.illegalOperand 2))) := by
  have hchecks := operandChecks_conv (c := c)
  have hbad : (narrowing c.f && c.opD.isQ0) = true ↔ Forms.perLane f.sel < Forms.perLane f.type ∧ c.opD.isQ0 = true := by
    obtain ⟨-, -, -, -, rfl⟩ := ctx_group h.ctx
    rw [Bool.and_eq_true, narrowing_iff]
  rw [← hbad, ← Bool.or_eq_true]
  refine ⟨fun hD => ?_, fun hpred hq0 hA => ?_⟩
  · rw [if_pos hD] at hchecks
    exact exec_ruled_trap hx hchecks h
  · rw [if_neg (by rw [hpred, Bool.false_or]; exact hq0), if_pos hA] at hchecks
    exact exec_ruled_trap hx hchecks h

/-- The types of a conversion differ, and its element index is below the ratio of the element counts (08, R192). -/
theorem conversion_form {i : Instr} (hi : i ∈ [Instr.cvt f, .i2f f, .f2i f]) (hwf : i.wellFormed = true) :
    f.aux.toNat < max (Forms.perLane f.sel) (Forms.perLane f.type) / min (Forms.perLane f.sel) (Forms.perLane f.type) ∧ f.type ≠ f.sel := by
  simp only [List.mem_cons, List.not_mem_nil, or_false] at hi
  rcases hi with rfl | rfl | rfl
  · obtain ⟨hform, hne⟩ := convForm_cvt (fnOk_of_check ((wellFormed_iff_check rfl).1 hwf))
    exact ⟨hform.slice, hne⟩
  · have hform := convForm_i2f (fnOk_of_check ((wellFormed_iff_check rfl).1 hwf))
    exact ⟨hform.slice, (int_ne_float hform.from_ hform.into).symm⟩
  · have hform := convForm_f2i (fnOk_of_check ((wellFormed_iff_check rfl).1 hwf))
    exact ⟨hform.slice, int_ne_float hform.into hform.from_⟩

/-- No element of a conversion to a floating format is flagged. -/
theorem none_flagged (n : Nat) (p : Nat → Bool) : ((List.range n).any fun k => p k && false) = false := by simp

/-- Settles O8: each element that a conversion fills comes from its own source element (`convLane_filled`), and the others are D's. -/
theorem conversions : Obligations.Conversions := by
  intro f ns nd index el source filled m from_ into plain kept
  refine ⟨?_, ?_, ?_, fun s c i opc hi h => ?_, fun i hi hwf => conversion_form hi hwf⟩
  · exact computes_conversion (execCvt f) (i := .cvt f)
      (Q := fun c l k x => el nd x k = Float.roundVal m into (Float.value from_ (el ns (xA c l) (source k))))
      rfl (fun _ => rfl) rfl rfl rfl (fun h => (convForm_cvt h).1)
      (fun hform c l k x _ hx => hx.trans (roundVal_fits hform.into _ _)) fun c l => none_flagged _ _
  · exact computes_conversion (execI2f f) (i := .i2f f)
      (Q := fun c l k x => Rounded m into (ev f.sel (xA c l) (source k)) (el nd x k) ∧ (ev f.sel (xA c l) (source k) = 0 → el nd x k = 0))
      rfl (fun _ => rfl) rfl rfl rfl convForm_i2f
      (fun hform c l k x _ hx => i2f_element m hform.into hform.from_ hx) fun c l => none_flagged _ _
  · exact computes_conversion (execF2i f) (i := .f2i f)
      (Q := fun c l k x => match Float.value from_ (el ns (xA c l) (source k)) with
        | .nan => ev f.type x k = 0
        | .inf s => ev f.type x k = if s then lo f.type else hi f.type
        | w => ∃ q y, rat w = some q ∧ RoundsTo m q y ∧ ev f.type x k = clampI (lo f.type) (hi f.type) y) rfl (fun _ => rfl) rfl rfl rfl convForm_f2i
      (fun hform c l k x _ hx => f2i_element m hform.into hx) fun c l => by rw [intLo_eq, intHi_eq]; rfl
  · simp only [List.mem_cons, Prod.mk.injEq, List.not_mem_nil, or_false] at hi
    rcases hi with ⟨rfl, rfl⟩ | ⟨rfl, rfl⟩ | ⟨rfl, rfl⟩
    · exact conversion_traps (x := execCvt f s) rfl h
    · exact conversion_traps (x := execI2f f s) rfl h
    · exact conversion_traps (x := execF2i f s) rfl h

end

end Sys2Proof.Machine

namespace Sys2Proof.Machine

open Sys2Proof.Spec

/-! ## The words of vector names (05, R105) -/

section
variable {g P : Group} {m : LaneMask} {d k n l : Nat}

/-- The lanes of `m` of name `n` take the words `p`. -/
def writeName (m : LaneMask) (g : Group) (n : Nat) (p : Nat → Word) : Group := (g.dropShadow (.v n)).putVec n m p

/-- The lanes of `m` of `k` names from `d` on take the words `p`. -/
def writeNames (m : LaneMask) (g : Group) (d k : Nat) (p : Nat → Nat → Word) : Group :=
  (List.range k).foldl (fun g j => writeName m g (d + j) (p j)) g

/-- `P` is `g` but for the vector names and for what open windows would deliver to them. -/
structure NamesOnly (g P : Group) : Prop where
  frame : P = { g with vregs := P.vregs, windows := P.windows }
  done  : NoneDone g.windows → NoneDone P.windows

theorem NamesOnly.width (h : NamesOnly g P) : P.width = g.width := by rw [h.frame]

theorem namesOnly_refl (g : Group) : NamesOnly g g := ⟨rfl, id⟩

theorem namesOnly_writeName (h : NamesOnly g P) (p : Nat → Word) : NamesOnly g (writeName m P n p) := by
  refine ⟨?_, fun hdone => dropShadow_done _ (h.done hdone)⟩
  rw [writeName, Group.putVec, dropShadow_frame, h.frame]

theorem writeNames_succ (p : Nat → Nat → Word) : writeNames m g d (k + 1) p = writeName m (writeNames m g d k p) (d + k) (p k) := by
  rw [writeNames, List.range_succ, List.foldl_append]
  rfl

theorem namesOnly_writeNames (g : Group) (m : LaneMask) (d k : Nat) (p : Nat → Nat → Word) : NamesOnly g (writeNames m g d k p) := by
  induction k with
  | zero => exact namesOnly_refl g
  | succ k ih => rw [writeNames_succ]; exact namesOnly_writeName ih _

theorem find?_writeName_ne (p : Nat → Word) {j : Nat} (h : j ≠ n) : (writeName m g n p).vregs.find? j = g.vregs.find? j := by
  rw [writeName, Group.putVec]
  exact (Tbl.find?_set_ne _ _ h).trans (by rw [dropShadow_vregs])

theorem vreg_writeName_self (p : Nat → Word) (hl : l < g.width) :
    ((writeName m g n p).vreg n).vals.getD l 0 = if m.getLsbD l then p l else (g.vreg n).vals.getD l 0 := by
  rw [writeName, vreg_putVec_self _ _ _ _ _ (by rw [dropShadow_width]; exact hl), dropShadow_vreg]

theorem vreg_writeName_ne (p : Nat → Word) {j : Nat} (h : j ≠ n) : (writeName m g n p).vreg j = g.vreg j := by
  rw [Group.vreg, Group.vreg, Tbl.getD, Tbl.getD, find?_writeName_ne p h, (namesOnly_writeName (namesOnly_refl g) p).width]

theorem find?_writeNames_ne (p : Nat → Nat → Word) {i : Nat} (h : i < d ∨ d + k ≤ i) :
    (writeNames m g d k p).vregs.find? i = g.vregs.find? i := by
  induction k with
  | zero => rfl
  | succ k ih => rw [writeNames_succ, find?_writeName_ne _ (by omega), ih (by omega)]

theorem vreg_writeNames_lane (p : Nat → Nat → Word) {j : Nat} (hj : j < k) (hm : m.getLsbD l = true) (hl : l < g.width) :
    ((writeNames m g d k p).vreg (d + j)).vals.getD l 0 = p j l := by
  induction k with
  | zero => cases hj
  | succ k ih =>
    rw [writeNames_succ]
    by_cases h : j = k
    · subst h
      rw [vreg_writeName_self _ (by rw [(namesOnly_writeNames g m d j p).width]; exact hl), hm, if_pos rfl]
    · rw [vreg_writeName_ne _ (by omega), ih (by omega)]

end

/-! ## Words put together of parts -/

/-- One byte of a word is replaced, and the others stand. -/
theorem byte_setByte (w : Word) {b k : Nat} (x : Nat) (hb : b < 4) (hk : k < 4) :
    (setByte w b x).toNat / 2 ^ (8 * k) % 256 = if k = b then x % 256 else w.toNat / 2 ^ (8 * k) % 256 := by
  have hw := w.isLt
  rw [setByte, BitVec.toNat_ofNat, putBits, show 8 * b + 7 + 1 - 8 * b = 8 by omega, Nat.shiftRight_eq_div_pow]
  interval_cases b <;> interval_cases k <;> simp only [Nat.reduceMul, Nat.reduceAdd, Nat.reducePow, Nat.reduceEqDiff, if_true, if_false] <;> omega

/-- The bytes that are replaced one after the other are as they were given. -/
theorem byte_setBytes (w : Word) (y : Nat → Nat) {n b : Nat} (hn : n ≤ 4) (hb : b < n) :
    ((List.range n).foldl (fun w b => setByte w b (y b)) w).toNat / 2 ^ (8 * b) % 256 = y b % 256 := by
  induction n with
  | zero => cases hb
  | succ n ih =>
    rw [List.range_succ, List.foldl_append, List.foldl_cons, List.foldl_nil, byte_setByte _ _ (by omega) (by omega)]
    split_ifs with h
    · rw [h]
    · exact ih (by omega) (by omega)

theorem sum_words_lt (y : Nat → Word) (n : Nat) : ((List.range n).map fun k => (y k).toNat * 2 ^ (32 * k)).sum < 2 ^ (32 * n) := by
  induction n with
  | zero => simp
  | succ n ih =>
    have hlast : (y n).toNat * 2 ^ (32 * n) ≤ (2 ^ 32 - 1) * 2 ^ (32 * n) := Nat.mul_le_mul_right _ (by have := (y n).isLt; omega)
    rw [List.range_succ, List.map_append, List.sum_append, List.map_singleton, List.sum_singleton, Nat.mul_succ, Nat.pow_add]
    omega

/-- Each 32-bit word of a number put together from words. -/
theorem sum_words_word (y : Nat → Word) {n k : Nat} (hk : k < n) :
    ((List.range n).map fun k => (y k).toNat * 2 ^ (32 * k)).sum / 2 ^ (32 * k) % 2 ^ 32 = (y k).toNat := by
  induction n with
  | zero => cases hk
  | succ n ih =>
    rw [List.range_succ, List.map_append, List.sum_append, List.map_singleton, List.sum_singleton]
    rcases Nat.lt_succ_iff_lt_or_eq.1 hk with h | rfl
    · obtain ⟨j, rfl⟩ : ∃ j, n = k + j + 1 := ⟨n - k - 1, by omega⟩
      have hsplit : (y (k + j + 1)).toNat * 2 ^ (32 * (k + j + 1)) = 2 ^ (32 * k) * (2 ^ 32 * (2 ^ (32 * j) * (y (k + j + 1)).toNat)) := by
        ring
      rw [hsplit, Nat.add_mul_div_left _ _ (Nat.two_pow_pos _), Nat.add_mul_mod_self_left, ih h]
    · rw [Nat.add_mul_div_right _ _ (Nat.two_pow_pos _), Nat.div_eq_of_lt (sum_words_lt y k), Nat.zero_add, Nat.mod_eq_of_lt (y k).isLt]

/-! ## Metering (17, R381) -/

section
variable {c : Ctx} {G : Group} {t : State}

theorem addCounter_ne {t : Tbl Nat} {i j n : Nat} (hj : j < 63) (h : j ≠ i) : (addCounter t i n).getD j 0 = t.getD j 0 := by
  simp only [addCounter]
  split_ifs
  · rfl
  · rw [Tbl.getD_set_ne _ _ _ (by omega), Tbl.getD_set_ne _ _ _ h]
  · rw [Tbl.getD_set_ne _ _ _ h]

theorem count_ne {s : State} {l i j n : Nat} (hj : j < 63) (h : j ≠ i) :
    ((s.count l i n).launch l).ctrs.getD j 0 = (s.launch l).ctrs.getD j 0 := by
  unfold State.count
  split
  · rfl
  · rw [State.setLaunch_launch_self]
    exact addCounter_ne hj h

/-- A word that counts once has counted what it says. -/
theorem counted_of_count {ctr n : Nat} (hctr : ctr < 63) (hn : n ≠ 0)
    (ht : t.launches = ((c.s.setGroup c.k G).count c.launchKey ctr n).launches) : Counted c t [(ctr, n)] := by
  obtain ⟨-, -, hmeters⟩ := count_frame (c.s.setGroup c.k G) c.launchKey ctr n
  have hlaunch (l : Nat) : t.launch l = ((c.s.setGroup c.k G).count c.launchKey ctr n).launch l := by rw [State.launch, ht]; rfl
  refine ⟨fun l => by rw [hlaunch]; exact hmeters l, fun hstopped i hi => ?_⟩
  rw [hlaunch]
  by_cases h : i = ctr
  · subst h
    simp only [List.filter, beq_self_eq_true, List.map_cons, List.map_nil, List.sum_cons, List.sum_nil, Nat.add_zero, if_neg hn]
    exact count_self hi hn hstopped
  · have hnot : (ctr == i) = false := beq_eq_false_iff_ne.2 (Ne.symm h)
    simp only [List.filter, hnot, List.map_nil, List.sum_nil, if_true]
    exact count_ne hi h

theorem count_setGroup_untraced {opc : Nat} {f : Fields} {names : Ctx → List Nat} {own : Ctx → Nat → Bool} {s : State}
    (h : Calm opc f names s c own) (ctr n : Nat) : ((c.s.setGroup c.k G).count c.launchKey ctr n).tracer c.g = none := by
  obtain ⟨-, hframe, hmeters⟩ := count_frame (c.s.setGroup c.k G) c.launchKey ctr n
  rw [← h.tracer]
  refine tracer_congr ?_ ?_ ?_ hmeters <;> (rw [hframe]; rfl)

end

end Sys2Proof.Machine

namespace Sys2Proof.Machine

open Sys2Proof.Spec

/-! ## `ldcb` (09, R225) -/

section
variable {f : Fields} {s : State} {c : Ctx}

/-- The codebook that `ldcb` reads: lanes 0 to 7 of A. -/
def ldcbBook (c : Ctx) : Nat := ((List.range 8).map fun k => (lanev c c.opA c.srcA (k : Nat)).toNat * 2 ^ (32 * k)).sum

/-- The group with its codebook loaded. -/
def ldcbPut (c : Ctx) : Group := { c.g with cbs := c.g.cbs.set c.f.fn.toNat (ldcbBook c) }

theorem exec_ldcb_eq (f : Fields) (s : State) : exec (.ldcb f) s = .next (issue 0x191 f noChecks noNames
    (fun c => if !c.any then .next c.s else .next (c.count ctrInt 1 (c.s.setGroup c.k { c.g with cbs := c.g.cbs.set f.fn.toNat (ldcbBook c) })))
    s fun c n => n == 2 && !c.opA.isVec) := rfl

theorem ldcbBook_word (hvec : c.opA.isVec = true) {k : Nat} (hk : k < 8) : ldcbBook c / 2 ^ (32 * k) % 2 ^ 32 =
    if c.g.width ≤ k ∨ c.g.exited.getLsbD k = true then 0 else (xA c k).toNat := by
  rw [ldcbBook, sum_words_word (fun k => lanev c c.opA c.srcA (k : Nat)) hk, lanev_natCast]
  simp only [hvec, true_or, true_and]
  split_ifs <;> rfl

/-- A calm `ldcb` with a lane active leaves its group with the codebook, retired and past the word. -/
theorem exec_ldcb_calm (h : Calm 0x191 f noNames s c) (hany : c.any = true) (hvec : c.opA.isVec = true) :
    ∃ T, Issued c (ldcbPut c) T ∧
      exec (.ldcb f) s = .next ((c.count ctrInt 1 (c.s.setGroup c.k (ldcbPut c))).setGroup c.k (T.advance c.b c.pc)) := by
  have hown : operandChecks (fun c n => n == 2 && !c.opA.isVec) c = none := by simp [operandChecks_eq, hvec]
  have hopc := h.opc_eq
  have hroles : (roles c.opc c.f).d = false := by rw [hopc]; rfl
  have hll : Forms.longLatency c.opc = false := by rw [hopc]; rfl
  have hfields : c.f = f := by obtain ⟨-, -, -, -, rfl⟩ := ctx_group h.ctx; rfl
  have hgroup : (c.count ctrInt 1 (c.s.setGroup c.k (ldcbPut c))).groups.find? c.k = some (ldcbPut c) := by
    rw [Ctx.count, (count_frame _ _ _ _).1]
    exact Tbl.find?_set_self _ _ _
  refine ⟨_, issued_of_retire (n := c.g.windows.length) hll hroles h.never h.fresh h.windows, ?_⟩
  rw [exec_ldcb_eq, issue_own_calm h rfl hown, hany, ← hfields]
  exact congrArg _ (settle_untraced hgroup h.alive (count_setGroup_untraced h _ _))

/-- The PC after a word that leaves the loops to the loop action (06, R131). -/
theorem advance_slot_of_issued {G T : Group} (hT : Issued c G T) (hinh : G.inh = c.g.inh) (hloops : G.loops = c.g.loops)
    (hslot : G.slot c.b = c.slot) : (T.advance c.b c.pc).slot c.b = { c.slot with pc := nextPc c } := by
  have hat : loopAt T c.pc = loopAt c.g c.pc := by
    refine loopAt_congr ?_ ?_ _ <;> rw [hT.frame]
    · exact hinh
    · exact hloops
  have hslotT : T.slot c.b = c.slot := by rw [← hslot, hT.frame]; rfl
  rw [(advance_slot T c.b c.pc).1, hat, hslotT]
  rfl

theorem loadsCodebook (hany : c.any = true) (h : Calm 0x191 f noNames s c) (hvec : c.opA.isVec = true) : ∃ t, exec (.ldcb f) s = .next t ∧
    (∀ k, k < 8 → (after c t).cbs.getD f.fn.toNat 0 / 2 ^ (32 * k) % 2 ^ 32 =
      if c.g.width ≤ k ∨ c.g.exited.getLsbD k = true then 0 else (xA c k).toNat) ∧
    (∀ n, n ≠ f.fn.toNat → (after c t).cbs.getD n 0 = c.g.cbs.getD n 0) ∧ OnlyFreed c (after c t) ∧ Alone c t ∧
    t = { c.s with groups := t.groups, launches := t.launches } ∧ (after c t).sregs = c.g.sregs ∧ (after c t).preds = c.g.preds ∧
    (after c t).slot c.b = { c.slot with pc := nextPc c } ∧ Counted c t [(ctrInt, 1)] := by
  obtain ⟨T, hT, hexec⟩ := exec_ldcb_calm h hany hvec
  obtain ⟨hgroups, hframe, -⟩ := count_frame (c.s.setGroup c.k (ldcbPut c)) c.launchKey ctrInt 1
  obtain ⟨-, -, -, -, rfl⟩ := ctx_group h.ctx
  have hpast : T.advance c.b c.pc = { T with loops := _, slotA := _, slotB := _ } := advance_frame T c.b c.pc
  have hcbs : (T.advance c.b c.pc).cbs = c.g.cbs.set c.f.fn.toNat (ldcbBook c) := by rw [hpast, hT.frame]; rfl
  refine ⟨_, hexec, ?_⟩
  rw [after_setGroup, hcbs]
  refine ⟨fun k hk => ?_, fun n hn => Tbl.getD_set_ne _ _ _ hn, ?_, fun j hj => ?_, ?_, ?_, ?_,
    advance_slot_of_issued hT rfl rfl rfl, counted_of_count (by decide) one_ne_zero rfl⟩
  · rw [Tbl.getD_set_self, ldcbBook_word hvec hk]
  · rw [hpast]
    exact ⟨hT.kept, hT.freed⟩
  · rw [setGroup_others _ _ _ hj, Ctx.count, hgroups]
    exact setGroup_others _ _ _ hj
  · rw [Ctx.count, hframe]
    rfl
  · rw [hpast, hT.frame]; rfl
  · rw [hpast, hT.frame]; rfl

end

end Sys2Proof.Machine

namespace Sys2Proof.Machine

open Sys2Proof.Spec

/-! ## `qnt` (09, R224) -/

section
variable {f : Fields} {s : State} {c : Ctx}

/-- Block `b` of lane `l` of A. -/
def qntBlock (c : Ctx) (l b : Nat) : List Nat := (List.range 32).map fun k => ((c.g.vreg (c.opA.index + 32 * b + k)).vals.getD l 0).toNat

/-- The scale that a block is given. -/
def qntScaleAt (f : Fields) (c : Ctx) (l b : Nat) : Nat :=
  qntScale (Float.ofType f.type) (bitOf f.fn.toNat 4) (fmtUthr c.slot.fmt) (fmtSthr c.slot.fmt) (qntBlock c l b)

/-- The elements of a block that underflow. -/
def qntUnderflows (f : Fields) (c : Ctx) (l b : Nat) : Nat := Float.underflows (Float.ofType f.type) (qntScaleAt f c l b) (qntBlock c l b)

/-- Element `i` of a lane's blocks. -/
def qntElement (f : Fields) (c : Ctx) (l i : Nat) : Nat :=
  Float.quantElem (Float.ofType f.type) (qntScaleAt f c l (i / 32)) ((qntBlock c l (i / 32)).getD (i % 32) 0)

/-- The elements of name `j` of D's block. -/
def qntWord (f : Fields) (c : Ctx) (j l : Nat) : Word :=
  ofElems (32 / qntPer f) ((List.range (qntPer f)).map fun i => qntElement f c l (qntPer f * j + i))

/-- Name `r` with a byte for each block. -/
def qntBytes (f : Fields) (c : Ctx) (r : Nat) (y : Nat → Nat → Nat) (l : Nat) : Word :=
  (List.range (qntBlocks f)).foldl (fun w b => setByte w b (y l b)) ((c.g.vreg r).vals.getD l 0)

/-- The elements of the active lanes that underflow. -/
def qntTotal (f : Fields) (c : Ctx) : Nat := ((lanesOf c.act).map fun l => ((List.range (qntBlocks f)).map (qntUnderflows f c l)).sum).sum

/-- The group with its elements, scales and counts written. -/
def qntWritten (f : Fields) (c : Ctx) : Group :=
  writeName c.act (writeName c.act (writeNames c.act c.g c.opD.index (qntNames f) (qntWord f c)) c.opB.index
    (qntBytes f c c.opB.index (qntScaleAt f c))) c.opC.index (qntBytes f c c.opC.index (qntUnderflows f c))

/-- The group that `qnt` leaves before it retires. -/
def qntPut (f : Fields) (c : Ctx) : Group := { qntWritten f c with uflow := countUp (qntWritten f c).uflow (qntTotal f c) }

theorem exec_qnt_eq (f : Fields) (s : State) : exec (.qnt f) s = .next (issue 0x190 f noChecks
    (fun c => (List.range (qntNames f)).map (c.opD.index + ·) ++ [c.opB.index, c.opC.index])
    (fun c => if !c.any then .next c.s else .next (c.count ctrFloat c.lanes (c.s.setGroup c.k (qntPut f c)))) s qntOperands) := rfl

/-! ### The operands of `qnt` -/

/-- The A of a word of legal form has no bit that the word's entry forbids (05, R109). -/
theorem bannedBits_ok {own : Ctx → Nat → Bool} (hform : formTrap c own = none) (ha : (roles c.opc c.f).a = true) :
    bannedBits c.opc c.opA = false := by
  unfold formTrap at hform
  split at hform
  · cases hform
  · cases hform
  · split at hform
    · cases hform
    rw [Option.map_eq_none_iff] at hform
    unfold operandFault at hform
    obtain ⟨hA, -⟩ := sources_of_first hform
    simp only [Bool.or_eq_false_iff, Bool.and_eq_false_imp] at hA
    exact (hA.1 ha).1.2

/-- No name is freed, and nothing is pushed, by the sources of `qnt`: LAST and HOLD are forbidden on A (09, R224). -/
theorem qnt_sources {names : Ctx → List Nat} (h : Calm 0x190 f names s c) : lastFrees c = [] ∧ sourceHolds c = [] := by
  have hbanned := bannedBits_ok h.form (by rw [h.opc_eq]; rfl)
  rw [h.opc_eq] at hbanned
  obtain ⟨hhold, -, hlast⟩ : c.opA.hold = false ∧ c.opA.perm = 0 ∧ c.opA.last = false := by
    simpa [bannedBits, and_assoc] using hbanned
  have hroles : roles c.opc c.f = { b := false, auxOwn := true, shifts := false } := by rw [h.opc_eq]; rfl
  simp [lastFrees, sourceHolds, hroles, hhold, hlast]

/-- B and C of `qnt` are no names of D's block, and D has no HOLD (09, R224). -/
structure QntApart (f : Fields) (c : Ctx) : Prop where
  hold : c.opD.hold = false
  b    : c.opB.index < c.opD.index ∨ c.opD.index + qntNames f ≤ c.opB.index
  c    : c.opC.index < c.opD.index ∨ c.opD.index + qntNames f ≤ c.opC.index

theorem qntApart_of_operands (h : qntOperands c 1 = false) : QntApart c.f c := by
  simp only [qntOperands, fieldsBad, share, List.any_cons, List.any_nil, beq_self_eq_true, Bool.true_and, Bool.or_eq_false_iff,
    Bool.and_eq_false_iff, decide_eq_false_iff_not] at h
  obtain ⟨⟨⟨⟨⟨-, hhold⟩, -⟩, hb⟩, hx⟩, -⟩ := h
  exact ⟨hhold, by omega, by omega⟩

theorem qntPer_eq (f : Fields) : qntPer f ∣ 32 ∧ 0 < qntPer f := by
  unfold qntPer
  split_ifs <;> decide

theorem qntBlocks_eq (f : Fields) : qntBlocks f = f.fn.toNat / 32 % 4 + 1 := by
  rw [qntBlocks, Fields.fnBits, bitsOf_eq]
  rfl

theorem qntBlocks_le (f : Fields) : qntBlocks f ≤ 4 := by
  rw [qntBlocks_eq]
  omega

/-! ### What `qnt` writes -/

theorem qntWritten_only (f : Fields) (c : Ctx) : NamesOnly c.g (qntWritten f c) :=
  namesOnly_writeName (namesOnly_writeName (namesOnly_writeNames _ _ _ _ _) _) _

theorem effect_qntPut {names : Ctx → List Nat} (h : Calm 0x190 f names s c) : Effect c (qntPut f c) := by
  have hW := qntWritten_only f c
  refine ⟨?_, hW.done h.windows⟩
  rw [qntPut, hW.frame]

theorem qntWritten_kept {n : Nat} (hd : n < c.opD.index ∨ c.opD.index + qntNames f ≤ n) (hb : n ≠ c.opB.index) (hx : n ≠ c.opC.index) :
    (qntWritten f c).vregs.find? n = c.g.vregs.find? n := by
  rw [qntWritten, find?_writeName_ne _ hx, find?_writeName_ne _ hb, find?_writeNames_ne _ hd]

/-- A name of D's block. -/
theorem qntWritten_name (hapart : QntApart f c) {l j : Nat} (hact : c.act.getLsbD l = true) (hl : l < c.g.width) (hj : j < qntNames f) :
    ((qntWritten f c).vreg (c.opD.index + j)).vals.getD l 0 = qntWord f c j l := by
  obtain ⟨-, hb, hx⟩ := hapart
  rw [qntWritten, vreg_writeName_ne _ (by omega), vreg_writeName_ne _ (by omega), vreg_writeNames_lane _ hj hact hl]

/-- An element of D's block. -/
theorem qntWritten_element (hapart : QntApart f c) {l i : Nat} (hact : c.act.getLsbD l = true) (hl : l < c.g.width)
    (hi : i < 32 * qntBlocks f) :
    (((qntWritten f c).vreg (c.opD.index + i / qntPer f)).vals.getD l 0).toNat / 2 ^ (32 / qntPer f * (i % qntPer f)) % 2 ^ (32 / qntPer f) =
      qntElement f c l i % 2 ^ (32 / qntPer f) := by
  obtain ⟨hdvd, hpos⟩ := qntPer_eq f
  have hname : i / qntPer f < qntNames f := Nat.div_lt_div_of_lt_of_dvd (hdvd.mul_right _) hi
  have hfit : 32 / qntPer f * qntPer f = 32 := Nat.div_mul_cancel hdvd
  rw [qntWritten_name hapart hact hl hname, qntWord,
    ofElems_elem (by rw [List.length_map, List.length_range, hfit]) (by simpa using Nat.mod_lt _ hpos), List.getElem_map, List.getElem_range,
    Nat.div_add_mod]

theorem qntBytes_byte (f : Fields) (c : Ctx) (r : Nat) (y : Nat → Nat → Nat) (l : Nat) {b : Nat} (hb : b < qntBlocks f) :
    (qntBytes f c r y l).toNat / 2 ^ (8 * b) % 256 = y l b % 256 := byte_setBytes _ (y l) (qntBlocks_le f) hb

/-- A scale in B's bytes. -/
theorem qntWritten_scale {l b : Nat} (hact : c.act.getLsbD l = true) (hl : l < c.g.width) (hb : b < qntBlocks f)
    (hbc : c.opB.index ≠ c.opC.index) :
    (((qntWritten f c).vreg c.opB.index).vals.getD l 0).toNat / 2 ^ (8 * b) % 256 = qntScaleAt f c l b % 256 := by
  rw [qntWritten, vreg_writeName_ne _ hbc, vreg_writeName_self _ (by rw [(namesOnly_writeNames _ _ _ _ _).width]; exact hl), hact, if_pos rfl,
    qntBytes_byte _ _ _ _ _ hb]

/-- A count in C's bytes. -/
theorem qntWritten_count {l b : Nat} (hact : c.act.getLsbD l = true) (hl : l < c.g.width) (hb : b < qntBlocks f) :
    (((qntWritten f c).vreg c.opC.index).vals.getD l 0).toNat / 2 ^ (8 * b) % 256 = qntUnderflows f c l b % 256 := by
  rw [qntWritten, vreg_writeName_self _ (by rw [(namesOnly_writeName (namesOnly_writeNames _ _ _ _ _) _).width]; exact hl), hact, if_pos rfl,
    qntBytes_byte _ _ _ _ _ hb]

theorem countUp_toNat (v : Word) (n : Nat) : (countUp v n).toNat = min (v.toNat + n) (2 ^ 32 - 1) := by
  rw [countUp, BitVec.toNat_ofNat, Nat.mod_eq_of_lt (by omega)]
  rfl

/-- A calm `qnt` with a lane active retires what it wrote, and counts its lanes. -/
theorem exec_qnt_calm (h : Calm 0x190 f (fun c => (List.range (qntNames f)).map (c.opD.index + ·) ++ [c.opB.index, c.opC.index]) s c)
    (hops : ∀ n, qntOperands c n = false) (hany : c.any = true) :
    ∃ T t, exec (.qnt f) s = .next t ∧ Retired c (qntPut f c) T ∧ OnlyGroup c t ∧ after c t = T ∧ Counted c t [(ctrFloat, c.lanes)] := by
  obtain ⟨T, t, hT, hsettle, honly, hafter, hlaunches⟩ := settle_counted h rfl (effect_qntPut h) ctrFloat c.lanes
  have hlanes : c.lanes ≠ 0 := lanes_ne_zero (by simpa [Ctx.any] using hany)
  refine ⟨T, t, ?_, hT, honly, hafter, counted_of_count (by decide) hlanes hlaunches⟩
  rw [exec_qnt_eq, issue_calm h (formTrap_eq_none h.form hops) rfl, hany]
  exact congrArg _ hsettle

theorem Retired.latch_qnt {T : Group} {names : Ctx → List Nat} (h : Calm 0x190 f names s c) (hhold : c.opD.hold = false)
    (hT : Retired c (qntPut f c) T) : T.latch = latched c [] := by
  have hroles : (roles c.opc c.f).d = true ∧ (roles c.opc c.f).dIsSrc = false := by rw [h.opc_eq]; exact ⟨rfl, rfl⟩
  have hslots (b : Bool) : ((qntPut f c).slot b).owned = (c.g.slot b).owned := by
    rw [qntPut, (qntWritten_only f c).frame]
    rfl
  rw [hT.latch (dest_ok h.form hroles.1 hroles.2), heldPushes_ok h.form hroles.1 hroles.2 (hT.bothLive hslots), (qnt_sources h).2, hhold]
  rfl

/-- Settles O23: `qnt` writes names and counts (`qntWritten`), and retires; `ldcb` loads its book. -/
theorem quantiseAndCodebooks : Obligations.QuantiseAndCodebooks := by
  intro f s c hany t' per blocks v x
  refine ⟨fun h hops => ?_, fun h hvec => loadsCodebook hany h hvec⟩
  obtain rfl : c.f = f := by obtain ⟨-, -, -, -, rfl⟩ := ctx_group h.ctx; rfl
  obtain ⟨T, t, hexec, hT, honly, rfl, hcounted⟩ := exec_qnt_calm h hops hany
  have hblocks : blocks = qntBlocks c.f := (qntBlocks_eq _).symm
  have hscale : x = qntScaleAt c.f c := by
    funext l b
    rw [qntScaleAt, bitOf_eq_testBit]
    rfl
  clear_value x
  subst hscale
  have hapart := qntApart_of_operands (hops 1)
  have hW := qntWritten_only c.f c
  have hwidth : (after c t).width = (qntWritten c.f c).width := by rw [hT.frame]; rfl
  have hvregs : (after c t).vregs = (qntWritten c.f c).vregs := hT.vregs_kept (qnt_sources h).1
  have hvreg := vreg_congr hvregs hwidth
  refine ⟨t, hexec, honly, hT.group_result (effect_qntPut h), fun l hact hl => ⟨fun i hi => ?_, fun b hb => ⟨fun hbc => ?_, ?_⟩⟩,
    fun n hd hb hx => ?_, ?_, ?_, ?_, ?_, hT.latch_qnt h hapart.hold, hT.loops, ?_, hcounted⟩
  · rw [hvreg]
    exact qntWritten_element hapart hact hl (hblocks ▸ hi)
  · rw [hvreg]
    exact qntWritten_scale hact hl (hblocks ▸ hb) hbc
  · rw [hvreg]
    exact qntWritten_count hact hl (hblocks ▸ hb)
  · rw [hvregs]
    rw [hblocks] at hd
    exact qntWritten_kept hd hb hx
  · have huflow : (after c t).uflow = countUp c.g.uflow (qntTotal c.f c) := by rw [hT.frame, qntPut, hW.frame]
    rw [huflow, countUp_toNat, qntTotal, ← hblocks]
    rfl
  · rw [hT.frame, qntPut, hW.frame]
  · rw [hT.frame, qntPut, hW.frame]
  · rw [hT.frame, qntPut, hW.frame]
  · rw [hT.slot, qntPut, hW.frame]
    rfl

end

end Sys2Proof.Machine

namespace Sys2Proof.Machine

open Sys2Proof.Spec

/-! ## Forms of plain words (08, Table 8.1) -/

section
variable {f : Fields} {opc : Nat}

/-- What the FN of a plain form says: its types, and which fields it leaves 0. -/
structure PlainFn (v : Forms.VForm) (f : Fields) : Prop where
  untyped : v.types = [] → f.type = 0
  typed   : v.types ≠ [] → f.type ∈ v.types
  mode    : v.rm = false → f.mode = 0
  imm32   : v.imm = false → f.imm32 = false

theorem plainFn_of_vfn {v : Forms.VForm} (h : Forms.vfn v f = true) : PlainFn v f := by
  simp only [Forms.vfn, Bool.and_eq_true] at h
  obtain ⟨⟨⟨⟨ht, hm⟩, -⟩, -⟩, himm⟩ := h
  constructor <;> intro hv
  · simpa [hv] using ht
  · simpa [hv] using ht
  · simpa [hv] using hm
  · simpa [hv] using himm

/-- A legal instruction of opcode `opc` has one of the entry's forms. -/
theorem fnOk_of_wellFormed {i : Instr} (hword : Forms.wordOf i = some (opc, f)) (h : i.wellFormed = true) : Forms.fnOk opc f = some true :=
  fnOk_of_check ((wellFormed_iff_check hword).1 h)

/-- A legal instruction of a plain form has an FN of that form. -/
theorem plainFn_of_wellFormed {i : Instr} {v : Forms.VForm} (hword : Forms.wordOf i = some (opc, f)) (h : i.wellFormed = true)
    (hv : Forms.fnOk opc f = some (Forms.vfn v f)) : PlainFn v f :=
  plainFn_of_vfn (Option.some.inj (hv.symm.trans (fnOk_of_wellFormed hword h)))

/-- A legal instruction leaves 0 each operand field that its entry does not use. -/
theorem fieldsOk_of_wellFormed {i : Instr} (hword : Forms.wordOf i = some (opc, f)) (h : i.wellFormed = true) : Forms.fieldsOk opc f = true := by
  have hcheck := (wellFormed_iff_check hword).1 h
  rw [Forms.check, fnOk_of_check hcheck] at hcheck
  simp only at hcheck
  split_ifs at hcheck with h1 h2 h3 hfields
  simpa using hfields

/-! ## Compare, select and move (08, R183) -/

theorem flag_value (b : Bool) : (flag b).value = if b then 1 else 0 := rfl

theorem flag_eq_one_iff (b : Bool) : (flag b).value = 1 ↔ b = true := by cases b <;> decide

theorem flag_eq (b : Bool) : (flag b).value = 0 ∨ (flag b).value = 1 := by cases b <;> decide

/-- The form of `icmp` (08, Table 8.5). -/
theorem icmp_form (h : Forms.fnOk 0x060 f = some true) : (f.type = 0 ∨ f.type = 4) ∧ f.sel < 6 := by
  have hfn : ([0, 4].contains f.type && f.mode == 0 && decide (f.sel < 6) && !f.x) = true := Option.some.inj h
  simp only [Bool.and_eq_true, List.contains_iff_mem, List.mem_cons, List.not_mem_nil, or_false, decide_eq_true_eq] at hfn
  obtain ⟨⟨⟨ht, -⟩, hsel⟩, -⟩ := hfn
  exact ⟨ht, hsel⟩

/-- A type of whole words is 32 bits wide. -/
theorem tw_word {t : Nat} (h : t = 0 ∨ t = 4) : tw t = 32 := by rcases h with rfl | rfl <;> rfl

theorem computes_icmp (f : Fields) : Computes (.icmp f) 0x060 f ctrInt always
    (fun c l x =>
      let a := ev f.type (xA c l) 0
      let b := ev f.type (xB c l) 0
      (f.sel = 0 → (x = 1 ↔ a = b)) ∧ (f.sel = 1 → (x = 1 ↔ a ≠ b)) ∧ (f.sel = 2 → (x = 1 ↔ a < b)) ∧
      (f.sel = 3 → (x = 1 ↔ a ≤ b)) ∧ (f.sel = 4 → (x = 1 ↔ b < a)) ∧ (f.sel = 5 → (x = 1 ↔ b ≤ a)) ∧ (x = 0 ∨ x = 1)) := by
  refine computes_words (execIcmp f) rfl (fun _ => rfl) rfl rfl rfl fun s c h l => ⟨?_, rfl⟩
  obtain ⟨ht, -⟩ := icmp_form (fnOk_of_calm h)
  intro a b
  rw [valT_word (tw_word ht), valT_word (tw_word ht)]
  refine ⟨?_, ?_, ?_, ?_, ?_, ?_, flag_eq _⟩ <;> intro hsel <;> rw [flag_eq_one_iff, hsel] <;> simp [intCond, a, b]

theorem immediate_toNat (f : Fields) : f.immediate.toNat = f.b.toNat * 2 ^ 16 + f.aux.toNat := by
  rw [Fields.immediate, BitVec.toNat_append, ← Nat.shiftLeft_add_eq_or_of_lt f.aux.isLt, Nat.shiftLeft_eq]

/-- The form of `movi`: bit 11 of FN, and no A (08, R183). -/
theorem movi_form (h : (Instr.movi f).wellFormed = true) : f.imm32 = true ∧ f.a = 0 := by
  have hfn : (f.fn == 0x800) = true := Option.some.inj (fnOk_of_wellFormed (opc := 0x063) rfl h)
  have ha : (f.a == 0) = true := fieldsOk_of_wellFormed (opc := 0x063) rfl h
  exact ⟨by rw [Fields.imm32, beq_iff_eq.1 hfn]; rfl, beq_iff_eq.1 ha⟩

end

/-- Settles O4: the condition of `icmp` is that of its type's values, and the other words give a source or the immediate itself. -/
theorem compareSelectMove : Obligations.CompareSelectMove := by
  intro f
  refine ⟨computes_icmp f, ?_, ?_, ?_, fun h => icmp_form (fnOk_of_wellFormed rfl h), fun i hi hwf => ?_, movi_form⟩
  · exact computes_words (execSel f) rfl (fun _ => rfl) rfl rfl rfl fun s c h l => ⟨rfl, rfl⟩
  · exact computes_words (execMov f) rfl (fun _ => rfl) rfl rfl rfl fun s c h l => ⟨rfl, rfl⟩
  · exact computes_words (execMovi f) rfl (fun _ => rfl) rfl rfl rfl fun s c h l => ⟨immediate_toNat f, rfl⟩
  · simp only [List.mem_cons, List.not_mem_nil, or_false] at hi
    rcases hi with rfl | rfl <;> exact (plainFn_of_wellFormed rfl hwf rfl).imm32 rfl

end Sys2Proof.Machine

namespace Sys2Proof.Machine

open Sys2Proof.Spec

/-! ## Bits, shifts and bit fields (08, R182) -/

/-- The floor of an integer over a power of two. -/
theorem floor_div_two_pow (y : Int) (n : Nat) : ⌊(y : ℚ) / 2 ^ n⌋ = y / ((2 ^ n : Nat) : Int) := by
  rw [← Rat.floor_intCast_div_natCast, Nat.cast_pow, Nat.cast_ofNat]

/-- An integer in range is the signed value of its word. -/
theorem sv_w32 {y : Int} (hlo : -2 ^ 31 ≤ y) (hhi : y < 2 ^ 31) : sv (w32 y) = y := by
  rw [sv, w32, BitVec.toInt_ofInt]
  exact Int.bmod_eq_of_le (by omega) (by omega)

theorem shl_toNat (a : Word) (n : Nat) : (if n < 32 then a <<< n else 0).toNat = a.toNat * 2 ^ n % 2 ^ 32 := by
  split
  · rw [BitVec.toNat_shiftLeft, Nat.shiftLeft_eq]
  · rename_i h
    obtain ⟨k, rfl⟩ := Nat.exists_eq_add_of_le (not_lt.1 h)
    rw [Nat.pow_add, Nat.mul_left_comm, Nat.mul_mod_right]
    rfl

theorem shr_toNat (a : Word) (n : Nat) : (if n < 32 then a >>> n else 0).toNat = a.toNat / 2 ^ n := by
  split
  · rw [BitVec.toNat_ushiftRight, Nat.shiftRight_eq_div_pow]
  · rename_i h
    have hle : 2 ^ 32 ≤ 2 ^ n := Nat.pow_le_pow_right (by decide) (not_lt.1 h)
    exact (Nat.div_eq_of_lt (a.isLt.trans_le hle)).symm

/-- A quotient by a positive number keeps the range of a word. -/
theorem ediv_range {y : Int} {n : Nat} (hlo : -2 ^ 31 ≤ y) (hhi : y < 2 ^ 31) (hn : 0 < n) : -2 ^ 31 ≤ y / n ∧ y / n < 2 ^ 31 := by
  have hn' : (0 : Int) < n := by exact_mod_cast hn
  constructor
  · rw [Int.le_ediv_iff_mul_le hn']
    nlinarith
  · rw [Int.ediv_lt_iff_lt_mul hn']
    nlinarith

theorem shiftArith_value (a b : Word) : sv (shiftArith a b) = ⌊(sv a : ℚ) / 2 ^ min b.toNat 31⌋ := by
  obtain ⟨hlo, hhi⟩ := sv_range a
  obtain ⟨hlo', hhi'⟩ := ediv_range hlo hhi (Nat.two_pow_pos (min b.toNat 31))
  rw [floor_div_two_pow, shiftArith, valT_signed]
  exact sv_w32 hlo' hhi'

theorem rotateLeft_bit (a b : Word) {i : Nat} (hi : i < 32) : (rotateLeft a b).getLsbD ((i + b.toNat) % 32) = a.getLsbD i := by
  rw [rotateLeft, BitVec.getLsbD_rotateLeft]
  have hb : b.toNat % 32 < 32 := Nat.mod_lt _ (by decide)
  rw [Nat.mod_mod]
  by_cases h : i + b.toNat % 32 < 32
  · rw [show (i + b.toNat) % 32 = i + b.toNat % 32 by omega, decide_eq_false (by omega), cond_false, decide_eq_true h, Bool.true_and,
      Nat.add_sub_cancel]
  · rw [show (i + b.toNat) % 32 = i + b.toNat % 32 - 32 by omega, decide_eq_true (by omega), cond_true]
    congr 1
    omega

/-- A field of bits, extracted (08, R182). -/
theorem bitField_eq (signed : Bool) (a b : Word) :
    let pos := b.toNat % 256
    let len := min (b.toNat / 256 % 256) 32
    let y := ⌊((if signed then sv a else uv a : Int) : ℚ) / 2 ^ pos⌋ % 2 ^ len
    bitField signed a b = if len = 0 then 0 else w32 (if signed = true ∧ 2 ^ (len - 1) ≤ y then y - 2 ^ len else y) := by
  intro pos len y
  have hpos : bitsOf b.toNat 7 0 = pos := bitsOf_low _ _
  have hlen : bitsOf b.toNat 15 8 = b.toNat / 256 % 256 := bitsOf_budget _
  have hwide : valBits signed 32 a.toNat = if signed then sv a else uv a := by
    cases signed
    · rfl
    · exact valT_signed a
  rw [bitField, hpos, hlen, hwide, ← floor_div_two_pow]
  simp only [Nat.cast_pow, Nat.cast_ofNat]
  change (if len = 0 then 0 else word (valBits signed len y.toNat)) = _
  split
  · rfl
  · rename_i hne
    have hy : ((y.toNat : Nat) : Int) = y := Int.toNat_of_nonneg (Int.emod_nonneg _ (by positivity))
    have hlt : y.toNat < 2 ^ len := by
      rw [Int.toNat_lt (Int.emod_nonneg _ (by positivity))]
      exact_mod_cast Int.emod_lt_of_pos _ (by positivity)
    have htop : 2 ^ (len - 1) ≤ y.toNat ↔ (2 : Int) ^ (len - 1) ≤ y := by
      rw [← hy]
      exact_mod_cast Iff.rfl
    simp only [valBits, bitOf_top (Nat.pos_of_ne_zero hne) hlt, Bool.and_eq_true, decide_eq_true_eq, htop, hy]
    push_cast
    rfl

/-- The low `len` bits from bit `pos` on. -/
theorem mask_testBit (pos len i : Nat) : ((2 ^ len - 1) * 2 ^ pos).testBit i = (decide (pos ≤ i) && decide (i < pos + len)) := by
  rw [Nat.testBit_mul_two_pow, Nat.testBit_two_pow_sub_one]
  by_cases h : pos ≤ i
  · simp only [h, decide_true, Bool.true_and, decide_eq_decide]
    omega
  · simp [h]

theorem bitInsert_bit (a b d : Word) {i : Nat} (hi : i < 32) :
    let pos := d.toNat % 256
    let len := min (d.toNat / 256 % 256) 32
    (bitInsert a b d).getLsbD i = if pos ≤ i ∧ i < pos + len then a.getLsbD (i - pos) else b.getLsbD i := by
  intro pos len
  have hpos : bitsOf d.toNat 7 0 = pos := bitsOf_low _ _
  have hlen : bitsOf d.toNat 15 8 = d.toNat / 256 % 256 := bitsOf_budget _
  have hmask : (BitVec.ofNat 32 ((2 ^ len - 1) * 2 ^ pos)).getLsbD i = (decide (pos ≤ i) && decide (i < pos + len)) := by
    rw [BitVec.getLsbD_ofNat, decide_eq_true hi, Bool.true_and, mask_testBit]
  have hfield : (BitVec.ofNat 32 (a.toNat * 2 ^ pos)).getLsbD i = (decide (pos ≤ i) && a.getLsbD (i - pos)) := by
    rw [BitVec.getLsbD_ofNat, decide_eq_true hi, Bool.true_and, Nat.testBit_mul_two_pow, BitVec.testBit_toNat]
  rw [bitInsert, hpos, hlen]
  change (b &&& ~~~BitVec.ofNat 32 ((2 ^ len - 1) * 2 ^ pos) ||| _ &&& BitVec.ofNat 32 ((2 ^ len - 1) * 2 ^ pos)).getLsbD i = _
  rw [BitVec.getLsbD_or, BitVec.getLsbD_and, BitVec.getLsbD_and, BitVec.getLsbD_not, hmask, hfield, decide_eq_true hi, Bool.true_and]
  by_cases h : pos ≤ i ∧ i < pos + len
  · simp [h]
  · rw [if_neg h, ← Bool.decide_and, decide_eq_false h]
    simp

theorem popCount_eq (x : Word) (n : Nat) : popCount x.toNat n = ((List.range n).filter fun i => x.getLsbD i).length := by
  induction n with
  | zero => rfl
  | succ n ih =>
    rw [popCount, ih, bitOf_eq_testBit, BitVec.testBit_toNat, List.range_succ, List.filter_append, List.length_append, Nat.add_comm]
    cases h : x.getLsbD n <;> simp [h, b2n]

theorem popCount_toNat (x : Word) : (BitVec.ofNat 32 (popCount x.toNat 32)).toNat = ((List.range 32).filter fun i => x.getLsbD i).length := by
  rw [popCount_eq, BitVec.toNat_ofNat, Nat.mod_eq_of_lt]
  exact lt_of_le_of_lt (List.length_filter_le _ _) (by simp)

theorem leadingZeros_zero : BitVec.ofNat 32 (leadingZeros 0) = 32 := by decide

theorem leadingZeros_toNat {a : Word} (ha : a ≠ 0) :
    let x := BitVec.ofNat 32 (leadingZeros a)
    x.toNat < 32 ∧ 2 ^ (31 - x.toNat) ≤ a.toNat ∧ a.toNat < 2 ^ (32 - x.toNat) := by
  have hne : a.toNat ≠ 0 := fun h => ha (BitVec.eq_of_toNat_eq h)
  have hlog : Nat.log2 a.toNat < 32 := (Nat.log2_lt hne).2 a.isLt
  have hx : (BitVec.ofNat 32 (leadingZeros a)).toNat = 31 - Nat.log2 a.toNat := by
    rw [leadingZeros, if_neg hne, BitVec.toNat_ofNat, Nat.mod_eq_of_lt (by omega)]
  intro x
  rw [show x.toNat = _ from hx, show 31 - (31 - Nat.log2 a.toNat) = Nat.log2 a.toNat by omega, show 32 - (31 - Nat.log2 a.toNat) = Nat.log2 a.toNat + 1 by omega]
  exact ⟨by omega, Nat.log2_self_le hne, Nat.lt_log2_self⟩

theorem bitReverse_bit (a : Word) {i : Nat} (hi : i < 32) : (bitReverse a).getLsbD i = a.getLsbD (31 - i) := by
  rw [bitReverse, BitVec.getLsbD_ofNat, maskFold_testBit 32 fun i => bitOf a.toNat (31 - i)]
  rw [bitOf_eq_testBit, BitVec.testBit_toNat, decide_eq_true hi, Bool.true_and, Bool.true_and]

section
variable {f : Fields}

theorem computes_bfe (f : Fields) : Computes (.bfe f) 0x058 f ctrInt always
    (fun c l x =>
      let pos := (xB c l).toNat % 256
      let len := min ((xB c l).toNat / 256 % 256) 32
      let a : Int := if f.type = 0 then sv (xA c l) else uv (xA c l)
      let y := ⌊(a : ℚ) / 2 ^ pos⌋ % 2 ^ len
      x = if len = 0 then 0 else w32 (if f.type = 0 ∧ 2 ^ (len - 1) ≤ y then y - 2 ^ len else y)) := by
  refine computes_words (execBfe f) rfl (fun _ => rfl) rfl rfl rfl fun s c h l => ⟨?_, rfl⟩
  have hfield := bitField_eq (f.type == 0) (xA c l) (xB c l)
  simp only [beq_iff_eq] at hfield
  exact hfield

/-- A word of two sources whose result in each lane has the bits that `bit` names. -/
theorem computes_bitwise {i : Instr} {opc : Nat} (e : State → Host.Outcome State Fault Refusal) {op : Word → Word → Word} {bit : Bool → Bool → Bool}
    (hexec : exec i = e) (halu : ∀ s, e s = alu opc f ctrInt .plain .plain .plain (fun a b _ => plainSat (op a b)) s)
    (hll : Forms.longLatency opc = false) (hd : (roles opc f).d = true) (hs : (roles opc f).dIsSrc = false)
    (hbit : ∀ a b k, (op a b).getLsbD k = bit (a.getLsbD k) (b.getLsbD k)) :
    Computes i opc f ctrInt always (fun c l x => ∀ k, x.getLsbD k = bit ((xA c l).getLsbD k) ((xB c l).getLsbD k)) :=
  computes_words e hexec halu hll hd hs fun _ _ _ _ => ⟨hbit _ _, rfl⟩

/-- The words of logic, shifts and bit fields have plain forms: only `bfe` takes a type, and those of one or three sources no immediate. -/
theorem logic_forms (f : Fields) :
    (∀ i ∈ [Instr.bitAnd f, .bitOr f, .bitXor f, .bitNot f, .shl f, .shr f, .sar f, .rot f, .bfi f, .popc f, .clz f, .brev f],
      i.wellFormed = true → f.type = 0) ∧
    ((Instr.bfe f).wellFormed = true → f.type = 4 ∨ f.type = 0) ∧
    ∀ i ∈ [Instr.bitNot f, .bfi f, .popc f, .clz f, .brev f], i.wellFormed = true → f.imm32 = false := by
  refine ⟨fun i hi h => ?_, fun h => ?_, fun i hi h => ?_⟩
  · simp only [List.mem_cons, List.not_mem_nil, or_false] at hi
    rcases hi with rfl | rfl | rfl | rfl | rfl | rfl | rfl | rfl | rfl | rfl | rfl | rfl <;> exact (plainFn_of_wellFormed rfl h rfl).untyped rfl
  · have hmem := (plainFn_of_wellFormed (v := { types := [4, 0], imm := true }) rfl h rfl).typed (by decide)
    simpa only [List.mem_cons, List.not_mem_nil, or_false] using hmem
  · simp only [List.mem_cons, List.not_mem_nil, or_false] at hi
    rcases hi with rfl | rfl | rfl | rfl | rfl <;> exact (plainFn_of_wellFormed rfl h rfl).imm32 rfl

theorem logicAndBitFields_results : partLogicAndBitFields := by
  intro f
  refine ⟨?_, ?_, ?_, ?_, ?_, ?_, ?_, ?_, computes_bfe f, ?_, ?_, ?_, ?_, logic_forms f⟩
  · exact computes_bitwise (bit := and) (execBitAnd f) rfl (fun _ => rfl) rfl rfl rfl fun _ _ _ => BitVec.getLsbD_and
  · exact computes_bitwise (bit := or) (execBitOr f) rfl (fun _ => rfl) rfl rfl rfl fun _ _ _ => BitVec.getLsbD_or
  · exact computes_bitwise (bit := bne) (execBitXor f) rfl (fun _ => rfl) rfl rfl rfl fun _ _ _ => BitVec.getLsbD_xor
  · refine computes_words (execBitNot f) rfl (fun _ => rfl) rfl rfl rfl fun s c h l => ⟨fun i hi => ?_, rfl⟩
    exact BitVec.getLsbD_not.trans (by rw [decide_eq_true hi, Bool.true_and])
  · exact computes_words (execShl f) rfl (fun _ => rfl) rfl rfl rfl fun s c h l => ⟨shl_toNat _ _, rfl⟩
  · exact computes_words (execShr f) rfl (fun _ => rfl) rfl rfl rfl fun s c h l => ⟨shr_toNat _ _, rfl⟩
  · exact computes_words (execSar f) rfl (fun _ => rfl) rfl rfl rfl fun s c h l => ⟨shiftArith_value _ _, rfl⟩
  · exact computes_words (execRot f) rfl (fun _ => rfl) rfl rfl rfl fun s c h l => ⟨fun _ hi => rotateLeft_bit _ _ hi, rfl⟩
  · exact computes_words (execBfi f) rfl (fun _ => rfl) rfl rfl rfl fun s c h l => ⟨fun _ hi => bitInsert_bit _ _ _ hi, rfl⟩
  · exact computes_words (execPopc f) rfl (fun _ => rfl) rfl rfl rfl fun s c h l => ⟨popCount_toNat _, rfl⟩
  · refine computes_words (execClz f) rfl (fun _ => rfl) rfl rfl rfl fun s c h l => ⟨⟨fun hzero => ?_, leadingZeros_toNat⟩, rfl⟩
    rw [hzero]
    exact leadingZeros_zero
  · exact computes_words (execBrev f) rfl (fun _ => rfl) rfl rfl rfl fun s c h l => ⟨fun _ hi => bitReverse_bit _ hi, rfl⟩

/-! ## Predicate logic (08, R200) -/

theorem mode_testBit (f : Fields) : (f.mode % 2 == 1) = f.mode.testBit 0 ∧ decide (2 ≤ f.mode) = f.mode.testBit 1 := by
  have hlt : f.mode < 4 := by
    rw [Fields.mode, bitsOf_eq]
    omega
  generalize f.mode = m at *
  interval_cases m <;> decide

/-- A predicate operation acts on bit 0 of each source, inverted where its bit of MODE is set. -/
theorem computes_predOp {i : Instr} {opc : Nat} {op : Bool → Bool → Bool} {P : Bool → Bool → Word → Prop} (hexec : ∀ s, exec i s = predOp opc f op s)
    (hll : Forms.longLatency opc = false) (hd : (roles opc f).d = true) (hs : (roles opc f).dIsSrc = false)
    (hright : ∀ p q, P p q (if op p q then 1 else 0)) :
    Computes i opc f ctrInt always (fun c l x =>
      P ((xA c l).getLsbD 0 != f.mode.testBit 0) ((xB c l).getLsbD 0 != f.mode.testBit 1) x) := by
  obtain ⟨hA, hB⟩ := mode_testBit f
  refine computes_words (predOp opc f op) (funext hexec) (fun _ => rfl) hll hd hs fun s c h l => ⟨?_, rfl⟩
  rw [flag_value, hA, hB]
  exact hright _ _

theorem predicateLogic : partPredicateLogic := by
  intro f p q
  refine ⟨?_, ?_, ?_, ?_, fun h => (plainFn_of_wellFormed rfl h rfl).mode rfl, fun i hi h => ?_⟩
  · exact computes_predOp (op := and) (P := fun p q x => x = if p = true ∧ q = true then 1 else 0) (fun _ => rfl) rfl rfl rfl (by decide)
  · exact computes_predOp (op := or) (P := fun p q x => x = if p = true ∨ q = true then 1 else 0) (fun _ => rfl) rfl rfl rfl (by decide)
  · exact computes_predOp (op := xor) (P := fun p q x => x = if p = q then 0 else 1) (fun _ => rfl) rfl rfl rfl (by decide)
  · exact computes_predOp (op := fun p _ => !p) (P := fun p _ x => x = if p = true then 0 else 1) (fun _ => rfl) rfl rfl rfl (by decide)
  · simp only [List.mem_cons, List.not_mem_nil, or_false] at hi
    rcases hi with rfl | rfl | rfl | rfl <;> exact (plainFn_of_wellFormed rfl h rfl).imm32 rfl

end

/-- Settles O11: each operation by its own lemma on words, bit by bit or on values, and what the words may name by their plain forms. -/
theorem logicAndBitFields : Obligations.LogicAndBitFields := ⟨logicAndBitFields_results, predicateLogic⟩

end Sys2Proof.Machine

namespace Sys2Proof.Machine

open Sys2Proof.Spec

/-! ## Packed integers, element by element (07, Table 7.2; 08, R177) -/

/-- Element `k` of an element-wise result is the operation's, where that is a value of the type. -/
theorem elemwise_elem (t : Nat) (op : Int → Int → Int × Bool) (a b : Word) {k : Nat} (hk : k < 32 / tw t)
    (hlo : lo t ≤ (op (ev t a k) (ev t b k)).1) (hhi : (op (ev t a k) (ev t b k)).1 ≤ hi t) :
    ev t (elemwise t op a b).value k = (op (ev t a k) (ev t b k)).1 := by
  obtain ⟨-, hfit⟩ := tw_pos t
  refine ev_of_wrap ?_ hlo hhi
  rw [elemwise]
  simp only [perWord, show intWidth t = tw t from rfl, valT_elem]
  rw [ofElems_elem (by simp [hfit]) (by simpa using hk)]
  simp only [List.getElem_map, List.getElem_range]
  refine Nat.mod_eq_of_lt ?_
  rw [wrapBits, Int.toNat_lt (Int.emod_nonneg _ (by positivity))]
  exact Int.emod_lt_of_pos _ (by positivity)

theorem elemwise_sat (t : Nat) (op : Int → Int → Int × Bool) (a b : Word) :
    (elemwise t op a b).sat = (List.range (32 / tw t)).any fun k => (op (ev t a k) (ev t b k)).2 := by
  rw [elemwise]
  simp only [perWord, show intWidth t = tw t from rfl, valT_elem, List.any_map]
  rfl

/-- The value of an element is one of its type (07, R147, R148). -/
theorem ev_range (t : Nat) (x : Word) (k : Nat) : lo t ≤ ev t x k ∧ ev t x k ≤ hi t := by
  have hlt : x.toNat / 2 ^ (tw t * k) % 2 ^ tw t < 2 ^ tw t := Nat.mod_lt _ (Nat.two_pow_pos _)
  have hfull : (2 : Int) ^ tw t = 2 * 2 ^ (tw t - 1) := by rw [← pow_succ', Nat.sub_add_cancel (tw_pos t).1]
  have hlt' : ((x.toNat / 2 ^ (tw t * k) % 2 ^ tw t : Nat) : Int) < 2 ^ tw t := by exact_mod_cast hlt
  rw [ev, lo, hi]
  generalize x.toNat / 2 ^ (tw t * k) % 2 ^ tw t = e at *
  generalize (2 : Int) ^ (tw t - 1) = p at *
  split_ifs <;> omega

/-- A packed word of two sources, whose elements stay in their type. -/
theorem computes_elemwise {f : Fields} {i : Instr} {opc : Nat} (e : State → Host.Outcome State Fault Refusal) {op : Int → Int → Int × Bool}
    (hexec : exec i = e) (halu : ∀ s, e s = alu opc f ctrInt (immOf f) (immOf f) .plain (fun a b _ => elemwise f.type op a b) s)
    (hll : Forms.longLatency opc = false) (hd : (roles opc f).d = true) (hs : (roles opc f).dIsSrc = false)
    (hin : ∀ x y, lo f.type ≤ x ∧ x ≤ hi f.type → lo f.type ≤ y ∧ y ≤ hi f.type → lo f.type ≤ (op x y).1 ∧ (op x y).1 ≤ hi f.type) :
    Computes i opc f ctrInt always
      (fun c l x => ∀ k, k < 32 / tw f.type → ev f.type x k = (op (ev f.type (pA c l) k) (ev f.type (pB c l) k)).1)
      (fun c l => (List.range (32 / tw f.type)).any fun k => (op (ev f.type (pA c l) k) (ev f.type (pB c l) k)).2) := by
  refine computes_alu e hexec halu hll hd hs (by decide) fun s c h l => ?_
  obtain ⟨-, -, -, -, rfl⟩ := ctx_group h.ctx
  refine ⟨fun k hk => ?_, elemwise_sat _ _ _ _⟩
  obtain ⟨hlo, hhi⟩ := hin _ _ (ev_range _ (pA c l) k) (ev_range _ (pB c l) k)
  exact elemwise_elem _ _ _ _ hk hlo hhi

theorem clampI_range {a b : Int} (h : a ≤ b) (x : Int) : a ≤ clampI a b x ∧ clampI a b x ≤ b :=
  ⟨le_max_left _ _, max_le h (min_le_left _ _)⟩

/-- No element of a minimum or a maximum is flagged. -/
theorem any_false (n : Nat) : ((List.range n).any fun _ => false) = false := by simp

theorem computes_imin (f : Fields) : Computes (.imin f) 0x049 f ctrInt always
    (fun c l x => ∀ k, k < 32 / tw f.type → ev f.type x k = min (ev f.type (pA c l) k) (ev f.type (pB c l) k)) := by
  have hmin := computes_elemwise (f := f) (i := .imin f) (execImin f) rfl (fun _ => rfl) rfl rfl rfl
    (fun x y hx hy => ⟨le_min hx.1 hy.1, (min_le_left _ _).trans hx.2⟩)
  simpa only [any_false] using hmin

theorem computes_imax (f : Fields) : Computes (.imax f) 0x04A f ctrInt always
    (fun c l x => ∀ k, k < 32 / tw f.type → ev f.type x k = max (ev f.type (pA c l) k) (ev f.type (pB c l) k)) := by
  have hmax := computes_elemwise (f := f) (i := .imax f) (execImax f) rfl (fun _ => rfl) rfl rfl rfl
    (fun x y hx hy => ⟨hx.1.trans (le_max_left _ _), max_le hx.2 hy.2⟩)
  simpa only [any_false] using hmax

theorem computes_addsat (f : Fields) : Computes (.addsat f) 0x04B f ctrInt always
    (fun c l x => ∀ k, k < 32 / tw f.type →
      ev f.type x k = clampI (lo f.type) (hi f.type) (ev f.type (pA c l) k + ev f.type (pB c l) k))
    (fun c l => (List.range (32 / tw f.type)).any fun k =>
      let y := ev f.type (pA c l) k + ev f.type (pB c l) k
      decide (y < lo f.type) || decide (hi f.type < y)) := by
  have hadd := computes_elemwise (f := f) (i := .addsat f) (execAddsat f) rfl (fun _ => rfl) rfl rfl rfl
    (fun x y _ _ => by rw [satT_eq]; exact clampI_range (lo_le_hi _) _)
  simpa only [satT_eq] using hadd

/-! ## Products of elements, and the rounding shift (08, R179–R181) -/

/-- An integer clamped to INT32 is the signed value of its word. -/
theorem sv_w32_clamp (y : Int) : sv (w32 (clampI (-2 ^ 31) (2 ^ 31 - 1) y)) = clampI (-2 ^ 31) (2 ^ 31 - 1) y := by
  obtain ⟨hlo, hhi⟩ := clampI_range (a := -2 ^ 31) (b := 2 ^ 31 - 1) (by decide) y
  exact sv_w32 hlo (by omega)

theorem computes_pmad2 (f : Fields) : Computes (.pmad2 f) 0x04C f ctrInt always
    (fun c l x =>
      sv x = clampI (-2 ^ 31) (2 ^ 31 - 1) (sv (xC c l) + ev 1 (pA c l) 0 * ev 1 (pB c l) 0 + ev 1 (pA c l) 1 * ev 1 (pB c l) 1))
    (fun c l =>
      let y := sv (xC c l) + ev 1 (pA c l) 0 * ev 1 (pB c l) 0 + ev 1 (pA c l) 1 * ev 1 (pB c l) 1
      decide (y < -2 ^ 31) || decide (2 ^ 31 - 1 < y)) := by
  refine computes_alu (execPmad2 f) rfl (fun _ => rfl) rfl rfl rfl (by decide) fun s c h l => ?_
  have hfresh := h.fresh
  obtain ⟨-, -, -, -, rfl⟩ := ctx_group h.ctx
  intro r
  have hsum : r = satOr true 0 (sv (xC c l) + ev 1 (pA c l) 0 * ev 1 (pB c l) 0 + ev 1 (pA c l) 1 * ev 1 (pB c l) 1) := by
    rw [← valT_elem, ← valT_elem, ← valT_elem, ← valT_elem, ← valT_signed, ← typed_plain_C hfresh]
    rfl
  rw [hsum, satOr_value, satOr_sat]
  exact ⟨sv_w32_clamp _, rfl⟩

/-- The shift that rounds half up is the floor of the quotient and a half (08, R180). -/
theorem roundShift_eq (a b : Word) :
    let n := b.toNat % 32
    roundShift a b = ⌊(sv a : ℚ) / 2 ^ n + if n = 0 then 0 else 1 / 2⌋ := by
  intro n
  rw [roundShift, valT_signed]
  change (if n = 0 then sv a else (sv a + ((2 ^ (n - 1) : Nat) : Int)) / ((2 ^ n : Nat) : Int)) = _
  by_cases h : n = 0
  · rw [if_pos h, if_pos h, h, pow_zero, div_one, add_zero, Int.floor_intCast]
  · rw [if_neg h, if_neg h, ← floor_div_two_pow]
    congr 1
    have htwo : (2 : ℚ) ^ n = 2 * 2 ^ (n - 1) := by rw [← pow_succ', Nat.sub_add_cancel (Nat.pos_of_ne_zero h)]
    have hpos : (2 : ℚ) ^ (n - 1) ≠ 0 := by positivity
    rw [htwo]
    push_cast
    field_simp

theorem computes_rshr (f : Fields) : Computes (.rshr f) 0x04D f ctrInt always
    (fun c l x =>
      let n := (xB c l).toNat % 32
      x = w32 (clampI (lo f.type) (hi f.type) ⌊(sv (xA c l) : ℚ) / 2 ^ n + if n = 0 then 0 else 1 / 2⌋))
    (fun c l =>
      let n := (xB c l).toNat % 32
      let y := ⌊(sv (xA c l) : ℚ) / 2 ^ n + if n = 0 then 0 else 1 / 2⌋
      decide (y < lo f.type) || decide (hi f.type < y)) := by
  refine computes_words (execRshr f) rfl (fun _ => rfl) rfl rfl rfl fun s c h l => ?_
  rw [satOr_value, satOr_sat, roundShift_eq]
  exact ⟨rfl, rfl⟩

theorem computes_dp4 (f : Fields) : Computes (.dp4 f) 0x04E f ctrInt always
    (fun c l x =>
      let t := if f.type = 2 then 0 else 4
      let y := ev t (xC c l) 0 + ev f.type (pA c l) 0 * ev f.type (pB c l) 0 + ev f.type (pA c l) 1 * ev f.type (pB c l) 1 +
        ev f.type (pA c l) 2 * ev f.type (pB c l) 2 + ev f.type (pA c l) 3 * ev f.type (pB c l) 3
      x = w32 (if f.x then clampI (lo t) (hi t) y else y))
    (fun c l =>
      let t := if f.type = 2 then 0 else 4
      let y := ev t (xC c l) 0 + ev f.type (pA c l) 0 * ev f.type (pB c l) 0 + ev f.type (pA c l) 1 * ev f.type (pB c l) 1 +
        ev f.type (pA c l) 2 * ev f.type (pB c l) 2 + ev f.type (pA c l) 3 * ev f.type (pB c l) 3
      f.x && (decide (y < lo t) || decide (hi t < y))) := by
  refine computes_alu (execDp4 f) rfl (fun _ => rfl) rfl rfl rfl (by decide) fun s c h l => ?_
  have hmem := type_mem_of_calm h (v := { types := [2, 6], x := true, srcs := 3 }) rfl rfl
  have hfresh := h.fresh
  obtain ⟨-, -, -, -, rfl⟩ := ctx_group h.ctx
  intro r
  have hbyte : tw c.f.type = 8 := by
    simp only [List.mem_cons, List.not_mem_nil, or_false] at hmem
    rcases hmem with ht | ht <;> rw [ht] <;> rfl
  have hword : tw (if c.f.type = 2 then 0 else 4) = 32 := tw_word (by split <;> decide)
  have hdot : r = satOr c.f.x (if c.f.type = 2 then 0 else 4) (ev (if c.f.type = 2 then 0 else 4) (xC c l) 0 +
      ev c.f.type (pA c l) 0 * ev c.f.type (pB c l) 0 + ev c.f.type (pA c l) 1 * ev c.f.type (pB c l) 1 +
      ev c.f.type (pA c l) 2 * ev c.f.type (pB c l) 2 + ev c.f.type (pA c l) 3 * ev c.f.type (pB c l) 3) := by
    simp only [← valT_elem c.f.type, ← valT_word hword, hbyte, ← typed_plain_C hfresh]
    rfl
  rw [hdot, satOr_value, satOr_sat]
  exact ⟨rfl, rfl⟩

/-- Settles O2: the packed words element by element (`computes_elemwise`), the others by the exact integer that they saturate. -/
theorem packedArithmetic : Obligations.PackedArithmetic := fun f =>
  ⟨computes_imin f, computes_imax f, computes_addsat f, computes_pmad2 f, computes_rshr f, computes_dp4 f⟩

end Sys2Proof.Machine

namespace Sys2Proof.Float

open Sys2Proof.Spec

/-! ## Comparison, minimum and maximum (08, R185, R186) -/

theorem compare_swap (a b : FVal) : compare b a = (compare a b).map Ordering.swap := by
  match a, b with
  | .nan, .nan => rfl
  | .nan, .inf _ => rfl
  | .nan, .fin _ _ _ => rfl
  | .inf _, .nan => rfl
  | .fin _ _ _, .nan => rfl
  | .inf p, .inf q => cases p <;> cases q <;> rfl
  | .inf p, .fin _ _ _ => cases p <;> rfl
  | .fin _ _ _, .inf q => cases q <;> rfl
  | .fin n1 m1 e1, .fin n2 m2 e2 =>
    simp only [compare, align, min_comm e2 e1, Option.map_some, Option.some.injEq]
    exact Std.OrientedCmp.eq_swap

theorem compare_self {a : FVal} (h : a ≠ .nan) : compare a a = some .eq := by
  match a with
  | .nan => exact absurd rfl h
  | .inf p => cases p <;> rfl
  | .fin n m e =>
    simp only [compare, align, Option.some.injEq]
    exact Std.ReflCmp.compare_self

/-- Two numbers compare. -/
theorem compare_isSome {a b : FVal} (ha : a ≠ .nan) (hb : b ≠ .nan) : ∃ o, compare a b = some o := by
  match a, b with
  | .nan, _ => exact absurd rfl ha
  | .inf _, .nan => exact absurd rfl hb
  | .fin _ _ _, .nan => exact absurd rfl hb
  | .inf _, .inf _ => exact ⟨_, rfl⟩
  | .inf _, .fin _ _ _ => exact ⟨_, rfl⟩
  | .fin _ _ _, .inf _ => exact ⟨_, rfl⟩
  | .fin _ _ _, .fin _ _ _ => exact ⟨_, rfl⟩

/-- Of two numbers that compare as `o`, the one that is taken: `b` where `a` is wrong, or where both are equal and `a` has the wrong sign. -/
theorem isLeast_pick {wrong o : Ordering} {zero : Bool → Bool → Bool} {a b : Nat} {drop : Bool} (ha : value f32 a ≠ .nan) (hb : value f32 b ≠ .nan)
    (ho : compare (value f32 a) (value f32 b) = some o) (hw : wrong ≠ .eq)
    (hdrop : (if drop then b.testBit 31 else a.testBit 31) = zero (a.testBit 31) (b.testBit 31)) :
    IsLeast wrong zero a b (if o == wrong || (o == .eq && drop) then b else a) := by
  have hswap : compare (value f32 b) (value f32 a) = some o.swap := by rw [compare_swap, ho]; rfl
  have hself {v : FVal} (hv : v ≠ .nan) : compare v v ≠ some wrong := by rw [compare_self hv]; simpa using hw.symm
  rw [Spec.IsLeast]
  simp only [ha, hb, if_false, ho, Option.some.injEq]
  split
  · rename_i hpick
    rw [Bool.or_eq_true, beq_iff_eq, Bool.and_eq_true, beq_iff_eq] at hpick
    refine ⟨.inr rfl, ?_, hself hb, fun heq => ?_⟩
    · rw [hswap]
      rcases hpick with rfl | ⟨rfl, -⟩
      · cases o with
        | eq => exact absurd rfl hw
        | lt => decide
        | gt => decide
      · simpa using hw.symm
    · rcases hpick with rfl | ⟨-, rfl⟩
      · exact absurd heq hw
      · exact hdrop
  · rename_i hkeep
    rw [Bool.or_eq_true, not_or, beq_iff_eq, Bool.and_eq_true, beq_iff_eq] at hkeep
    refine ⟨.inl rfl, hself ha, by rw [ho]; simpa using hkeep.1, fun heq => ?_⟩
    rw [Bool.eq_false_of_not_eq_true fun hd => hkeep.2 ⟨heq, hd⟩] at hdrop
    exact hdrop

theorem isNan_eq (f : Format) (x : Nat) : isNan f x = decide (value f x = .nan) := beq_eq_decide _ _

/-- A NaN is no number: the other source is taken, and of two NaNs the canonical one (08, R185). -/
theorem isLeast_of_numbers {wrong : Ordering} {zero : Bool → Bool → Bool} {a b x y : Nat}
    (hx : x = if isNan f32 a then if isNan f32 b then f32.nanPat else b else if isNan f32 b then a else y)
    (hy : value f32 a ≠ .nan → value f32 b ≠ .nan → IsLeast wrong zero a b y) : IsLeast wrong zero a b x := by
  simp only [isNan_eq, decide_eq_true_eq] at hx
  by_cases ha : value f32 a = .nan
  · simp only [Spec.IsLeast, ha, if_true]
    by_cases hb : value f32 b = .nan
    · simp only [ha, hb, if_true] at hx ⊢
      exact hx
    · simpa only [ha, hb, if_true, if_false] using hx
  · by_cases hb : value f32 b = .nan
    · simpa [Spec.IsLeast, ha, hb] using hx
    · rw [if_neg ha, if_neg hb] at hx
      rw [hx]
      exact hy ha hb

theorem lessPat_eq {a b : Nat} {o : Ordering} (ho : compare (value f32 a) (value f32 b) = some o) :
    lessPat f32 a b = (o == .lt || (o == .eq && (a.testBit 31 && !b.testBit 31))) := by
  rw [lessPat, ho]
  cases o <;> simp [bitOf_eq_testBit, Format.width, f32]

theorem isLeast_minPat (a b : Nat) : IsLeast .gt (· || ·) a b (minPat f32 a b) := by
  refine isLeast_of_numbers rfl fun ha hb => ?_
  obtain ⟨o, ho⟩ := compare_isSome ha hb
  have hswap : compare (value f32 b) (value f32 a) = some o.swap := by rw [compare_swap, ho]; rfl
  have hpick := isLeast_pick (wrong := .gt) (zero := (· || ·)) (drop := b.testBit 31 && !a.testBit 31) ha hb ho (by decide)
    (by cases a.testBit 31 <;> cases b.testBit 31 <;> rfl)
  rw [lessPat_eq hswap]
  cases o <;> exact hpick

theorem isLeast_maxPat (a b : Nat) : IsLeast .lt (· && ·) a b (maxPat f32 a b) := by
  refine isLeast_of_numbers rfl fun ha hb => ?_
  obtain ⟨o, ho⟩ := compare_isSome ha hb
  rw [lessPat_eq ho]
  exact isLeast_pick ha hb ho (by decide) (by cases a.testBit 31 <;> cases b.testBit 31 <;> rfl)

/-- A minimum or a maximum is one of its sources, or the canonical NaN. -/
theorem minPat_lt {a b : Nat} (ha : a < 2 ^ 32) (hb : b < 2 ^ 32) : minPat f32 a b < 2 ^ 32 := by
  unfold minPat
  split_ifs
  · exact Machine.lawful_f32.nan
  all_goals assumption

theorem maxPat_lt {a b : Nat} (ha : a < 2 ^ 32) (hb : b < 2 ^ 32) : maxPat f32 a b < 2 ^ 32 := by
  unfold maxPat
  split_ifs
  · exact Machine.lawful_f32.nan
  all_goals assumption

/-! ## The class of a number (08, R187, Table 8.8) -/

theorem value_f32 (a : Nat) : value f32 a =
    if bitsOf a 30 23 = 255 then (if a % 2 ^ 23 = 0 then .inf (a.testBit 31) else .nan)
    else if bitsOf a 30 23 = 0 then .fin (a.testBit 31) (a % 2 ^ 23) (-149)
    else .fin (a.testBit 31) (2 ^ 23 + a % 2 ^ 23) ((bitsOf a 30 23 : Int) - 150) := by
  have hne : (f32 == e4m3) = false := by decide
  rw [← bitOf_eq_testBit, value, hne, Bool.false_and]
  simp only [show f32.ieee = true from rfl, show f32.width = 32 from rfl, show f32.mbits = 23 from rfl, show f32.ebits = 8 from rfl,
    show f32.bias = 127 from rfl, Bool.true_and, beq_iff_eq, Bool.false_eq_true, if_false]
  rw [show ((bitsOf a 30 23 : Nat) : Int) - (127 : Nat) - (23 : Nat) = bitsOf a 30 23 - 150 by push_cast; ring]
  rfl

theorem classPat_eq (a : Nat) : ∃ k, k < 10 ∧ classPat a = 2 ^ k ∧
    match value f32 a with
    | .nan => k = if a.testBit 22 then 9 else 8
    | .inf n => k = if n then 0 else 7
    | .fin n m _ =>
      if m = 0 then k = if n then 3 else 4
      else if m < 2 ^ 23 then k = if n then 2 else 5
      else k = if n then 1 else 6 := by
  rw [value_f32, classPat]
  simp only [bitOf_eq_testBit, beq_iff_eq]
  by_cases hall : bitsOf a 30 23 = 255
  · simp only [hall, if_true]
    by_cases hm : a % 2 ^ 23 = 0
    · simp only [hm, if_true]
      exact ⟨_, by split <;> decide, by split <;> rfl, rfl⟩
    · simp only [hm, if_false]
      exact ⟨_, by split <;> decide, by split <;> rfl, rfl⟩
  · simp only [hall, if_false]
    by_cases hsub : bitsOf a 30 23 = 0
    · simp only [hsub, if_true]
      by_cases hm : a % 2 ^ 23 = 0
      · simp only [hm, if_true]
        exact ⟨_, by split <;> decide, by split <;> rfl, rfl⟩
      · simp only [hm, if_false, Nat.mod_lt a (Nat.two_pow_pos 23), if_true]
        exact ⟨_, by split <;> decide, by split <;> rfl, rfl⟩
    · simp only [hsub, if_false]
      have hm : ¬2 ^ 23 + a % 2 ^ 23 = 0 := by omega
      have hnormal : ¬2 ^ 23 + a % 2 ^ 23 < 2 ^ 23 := by omega
      simp only [hm, hnormal, if_false]
      exact ⟨_, by split <;> decide, by split <;> rfl, rfl⟩

/-! ## Rounding to an integer (08, R184; 07, Table 7.6) -/

/-- The value of a signed magnitude pattern. -/
theorem rat_value_signed (n : Bool) {p : Nat} (hp : p ≤ f32.maxPat) : rat (value f32 (signed f32 n p)) = some (sign n * f32.mag p) := by
  have hlow : p < 2 ^ (f32.width - 1) := hp.trans_lt Machine.lawful_f32.most
  have hfinite : (f32.low (signed f32 n p) / 2 ^ f32.mbits == 2 ^ f32.ebits - 1) = false := by
    rw [low_signed n hlow, beq_eq_false_iff_ne]
    simp only [f32] at hp ⊢
    omega
  rw [value_eq Machine.lawful_f32.frac, hfinite, Bool.and_false, show (f32 == e4m3) = false by decide, Bool.false_and, low_signed n hlow,
    sign_signed n hlow]
  exact rat_fin _ _ _

/-- An integer below 2^24 is a magnitude of FP32. -/
theorem mag_of_natural {k : Nat} (hk : k < 2 ^ 24) : ∃ p, p ≤ f32.maxPat ∧ f32.mag p = k := by
  by_cases hzero : k = 0
  · exact ⟨0, Nat.zero_le _, by rw [hzero, f32.mag_zero, Nat.cast_zero]⟩
  · have hlog : Nat.log2 k < 24 := (Nat.log2_lt hzero).2 hk
    obtain ⟨j, hj⟩ := Nat.exists_eq_add_of_le (Nat.le_of_lt_succ hlog)
    have hlow : 2 ^ 23 ≤ k * 2 ^ j := by
      rw [hj, Nat.pow_add]
      exact Nat.mul_le_mul_right _ (Nat.log2_self_le hzero)
    have hhigh : k * 2 ^ j < 2 ^ 24 := by
      rw [show 24 = Nat.log2 k + 1 + j by omega, Nat.pow_add]
      exact Nat.mul_lt_mul_of_pos_right Nat.lt_log2_self (Nat.two_pow_pos j)
    have hfits : f32.Fits (k * 2 ^ j) (-j) := by
      refine ⟨hhigh, ?_, fun hsub => absurd hsub (not_lt.2 hlow)⟩
      simp only [f32]
      omega
    obtain ⟨hsig, hplace⟩ := Format.sig_encode hfits
    have hmag : f32.mag (f32.encode (k * 2 ^ j) (-j)) = k := by
      rw [Format.mag, hsig, hplace, zpow_neg, zpow_natCast]
      push_cast
      field_simp
    refine ⟨_, ?_, hmag⟩
    have hmost : (k : ℚ) < f32.mag f32.maxPat := by
      have hbig : f32.mag f32.maxPat = ((2 ^ 24 - 1 : Nat) : ℚ) * 2 ^ (104 : Int) := by
        rw [Format.mag, show f32.sig f32.maxPat = 2 ^ 24 - 1 by decide, show f32.place f32.maxPat = 104 by decide]
      have hk' : (k : ℚ) < 2 ^ 24 := by exact_mod_cast hk
      rw [hbig]
      refine hk'.trans ?_
      norm_num
    rw [← hmag] at hmost
    exact (f32.mag_strictMono.lt_iff_lt.1 hmost).le

/-- An integer of FP32 is its own rounding. -/
theorem round_natural (mode : Mode) (n : Bool) {k : Nat} (hk : k < 2 ^ 24) :
    ∃ p, p ≤ f32.maxPat ∧ f32.mag p = k ∧ round mode f32 n k 0 = signed f32 n p := by
  obtain ⟨p, hp, hmag⟩ := mag_of_natural hk
  obtain ⟨r, hround⟩ := round_rounds mode Machine.lawful_f32.frac n k 0
  rw [zpow_zero, mul_one, ← hmag] at hround
  exact ⟨p, hp, hmag, hround.exact.trans (finish_of_le _ _ hp)⟩

theorem sig_lt (f : Format) (p : Nat) : f.sig p < 2 ^ (f.mbits + 1) := by
  have hmod : p % 2 ^ f.mbits < 2 ^ f.mbits := Nat.mod_lt _ (Nat.two_pow_pos _)
  rw [Format.sig, Nat.pow_succ]
  split
  · rename_i h
    have := Nat.lt_of_div_eq_zero (Nat.two_pow_pos _) h
    omega
  · omega

/-- The integer that a number with a fraction is rounded to is one of FP32. -/
theorem integral_lt (mode : Mode) (n : Bool) {m : Nat} {e : Int} (hm : m < 2 ^ 24) (he : e < 0) : integral mode n m e < 2 ^ 24 := by
  obtain ⟨t, hlow, -, hcases⟩ := integral_cases mode n m e
  have hhalf : (m : ℚ) * 2 ^ e ≤ m * 2 ^ (-1 : Int) := mul_le_mul_of_nonneg_left (zpow_le_zpow_right₀ one_le_two (by omega)) (Nat.cast_nonneg m)
  have ht : 2 * t ≤ m := by
    have : (2 * t : ℚ) ≤ m := by
      rw [zpow_neg_one] at hhalf
      linarith
    exact_mod_cast this
  rcases hcases with ⟨h, -⟩ | ⟨h, -⟩ <;> omega

/-- A number without a fraction is its own integer. -/
theorem toInt_integral (mode : Mode) (n : Bool) (m : Nat) {e : Int} (he : 0 ≤ e) :
    (toInt n (integral mode n m e) : ℚ) = sign n * (m * 2 ^ e) := by
  rw [integral, if_pos he, toInt_eq_sign]
  push_cast
  rw [← zpow_natCast, Int.toNat_of_nonneg he]

/-- What `fround` gives for a number: an integer of the mode, with the sign kept (08, R184). -/
theorem roundPat_fin (mode : Mode) {a : Nat} {n : Bool} {m : Nat} {e : Int} (hv : value f32 a = .fin n m e) :
    (roundPat mode f32 a).testBit 31 = a.testBit 31 ∧
      ∃ q y, rat (.fin n m e) = some q ∧ RoundsTo mode q y ∧ rat (value f32 (roundPat mode f32 a)) = some (y : ℚ) := by
  obtain ⟨-, hn, hm, -⟩ := value_finite Machine.lawful_f32 hv
  have hrounds := roundsTo_integral mode n m e
  by_cases he : 0 ≤ e
  · have hx : roundPat mode f32 a = a := by simp only [roundPat, hv, he, if_true]
    rw [hx]
    refine ⟨rfl, _, _, rat_fin n m e, hrounds, ?_⟩
    rw [hv, rat_fin, toInt_integral mode n m he]
  · have hlt : integral mode n m e < 2 ^ 24 := integral_lt mode n (hm ▸ sig_lt f32 _) (not_le.1 he)
    obtain ⟨p, hp, hmag, hround⟩ := round_natural .rne n hlt
    have hx : roundPat mode f32 a = signed f32 n p := by simp only [roundPat, hv, he, if_false, hround]
    rw [hx, ← bitOf_eq_testBit, ← bitOf_eq_testBit]
    refine ⟨(sign_signed n (hp.trans_lt Machine.lawful_f32.most)).trans hn, _, _, rat_fin n m e, hrounds, ?_⟩
    rw [rat_value_signed n hp, hmag, toInt_eq_sign]

theorem roundPat_lt (mode : Mode) {a : Nat} (ha : a < 2 ^ 32) : roundPat mode f32 a < 2 ^ 32 := by
  unfold roundPat
  split
  · exact Machine.lawful_f32.nan
  · exact ha
  · split
    · exact ha
    · exact roundVal_lt Machine.lawful_f32 .rne (.fin _ _ _)

end Sys2Proof.Float

namespace Sys2Proof.Machine

open Sys2Proof.Spec

/-! ## FP32 words on patterns (08, R184–R187) -/

/-- The eight conditions of a comparison (08, Table 8.7). -/
theorem condPat_iff (fm : Float.Format) (cc a b : Nat) :
    let o := Float.compare (Float.value fm a) (Float.value fm b)
    let holds : Prop := Float.condPat fm cc a b = true
    (cc = 0 → (holds ↔ o = some .eq)) ∧ (cc = 1 → (holds ↔ o ≠ some .eq)) ∧ (cc = 2 → (holds ↔ o = some .lt)) ∧
      (cc = 3 → (holds ↔ o = some .lt ∨ o = some .eq)) ∧ (cc = 4 → (holds ↔ o = some .gt)) ∧
      (cc = 5 → (holds ↔ o = some .gt ∨ o = some .eq)) ∧ (cc = 6 → (holds ↔ o ≠ none)) ∧ (cc = 7 → (holds ↔ o = none)) := by
  refine ⟨?_, ?_, ?_, ?_, ?_, ?_, ?_, ?_⟩ <;> rintro rfl <;> simp [Float.condPat, Option.isSome_iff_ne_none]

/-- Settles O6: minimum and maximum by the order of two numbers (`isLeast_pick`), and the integer of `fround` by the rounding of a magnitude. -/
theorem fp32CompareAndRound : Obligations.Fp32CompareAndRound := by
  intro f v
  refine ⟨?_, ?_, ?_, ?_, ?_⟩
  · refine computes_alu (execFmin f) rfl (fun _ => rfl) rfl rfl rfl (by decide) fun s c h l => ⟨?_, rfl⟩
    obtain ⟨-, -, -, -, rfl⟩ := ctx_group h.ctx
    rw [pat_toNat (Float.minPat_lt (BitVec.isLt _) (BitVec.isLt _))]
    exact Float.isLeast_minPat _ _
  · refine computes_alu (execFmax f) rfl (fun _ => rfl) rfl rfl rfl (by decide) fun s c h l => ⟨?_, rfl⟩
    obtain ⟨-, -, -, -, rfl⟩ := ctx_group h.ctx
    rw [pat_toNat (Float.maxPat_lt (BitVec.isLt _) (BitVec.isLt _))]
    exact Float.isLeast_maxPat _ _
  · refine computes_alu (execFcmp f) rfl (fun _ => rfl) rfl rfl rfl (by decide) fun s c h l => ⟨⟨flag_eq _, ?_⟩, rfl⟩
    obtain ⟨-, -, -, -, rfl⟩ := ctx_group h.ctx
    simp only [flag_eq_one_iff]
    exact condPat_iff Float.f32 c.f.sel (fA c l) (fB c l)
  · refine computes_alu (execFclass f) rfl (fun _ => rfl) rfl rfl rfl (by decide) fun s c h l => ⟨?_, rfl⟩
    obtain ⟨k, hk, hx, hclass⟩ := Float.classPat_eq (fA c l)
    have hlt : Float.classPat (fA c l) < 2 ^ 32 := hx ▸ Nat.pow_lt_pow_right (by decide) (by omega)
    exact ⟨k, hk, (pat_toNat hlt).trans hx, hclass⟩
  · refine computes_alu (execFround f) rfl (fun _ => rfl) rfl rfl rfl (by decide) fun s c h l => ⟨?_, rfl⟩
    have hx := pat_toNat (Float.roundPat_lt (rm f) (a := fA c l) (BitVec.isLt _))
    cases hv : v (fA c l) with
    | nan =>
      have hround : Float.roundPat (rm f) Float.f32 (fA c l) = 0x7FC00000 := by rw [Float.roundPat, show Float.value _ _ = _ from hv]; rfl
      exact BitVec.eq_of_toNat_eq (hx.trans hround)
    | inf n =>
      have hround : Float.roundPat (rm f) Float.f32 (fA c l) = fA c l := by rw [Float.roundPat, show Float.value _ _ = _ from hv]
      exact hx.trans hround
    | fin n m e =>
      obtain ⟨hsign, q, y, hq, hrounds, hy⟩ := Float.roundPat_fin (rm f) hv
      rw [← hx] at hsign hy
      exact ⟨hsign, q, y, hq, hrounds, hy⟩

end Sys2Proof.Machine

namespace Sys2Proof.Machine

open Sys2Proof.Spec

/-! ## The operations of a reduction (08, R198, Table 8.14) -/

section
variable {f : Fields}

/-- The operations on whole words are those of a combination. -/
theorem reduceOp_word (h : ¬f.type = 8) (x y : Word) : reduceOp f x y = combine f.sel false (f.type == 0) x y := if_neg h

theorem combine_type {t : Nat} (ht : t = 0 ∨ t = 4) (x : Word) : valT (if (t == 0) = true then 0 else 4) x.toNat = ev t x 0 := by
  have htype : (if (t == 0) = true then 0 else 4) = t := by rcases ht with rfl | rfl <;> rfl
  rw [htype, valT_word (tw_word ht)]

theorem ev_combine_min {t : Nat} (ht : t = 0 ∨ t = 4) (x y : Word) : ev t (combine 1 false (t == 0) x y) 0 = min (ev t x 0) (ev t y 0) := by
  simp only [combine, combine_type ht, Bool.false_eq_true, if_false]
  split
  · rename_i h; exact (min_eq_right h.le).symm
  · rename_i h; exact (min_eq_left (not_lt.1 h)).symm

theorem ev_combine_max {t : Nat} (ht : t = 0 ∨ t = 4) (x y : Word) : ev t (combine 2 false (t == 0) x y) 0 = max (ev t x 0) (ev t y 0) := by
  simp only [combine, combine_type ht, Bool.false_eq_true, if_false]
  split
  · rename_i h; exact (max_eq_right h.le).symm
  · rename_i h; exact (max_eq_left (not_lt.1 h)).symm

/-- The identities of the least and the greatest value are the ends of the type. -/
theorem ev_word_ends {t : Nat} (ht : t = 0 ∨ t = 4) : ev t (word (intHi t)) 0 = hi t ∧ ev t (word (intLo t)) 0 = lo t := by
  rcases ht with rfl | rfl <;> decide

theorem reductionOperations : partReductionOperations := by
  intro f r x v y
  refine ⟨fun ht => ?_, fun ht => ⟨fun hsel => ?_, fun hsel => ?_, fun hsel => ?_⟩⟩
  · have h8 : ¬f.type = 8 := by omega
    obtain ⟨hhi, hlo⟩ := ev_word_ends ht
    have hy : y = combine f.sel false (f.type == 0) r x := reduceOp_word h8 r x
    refine ⟨fun hsel => ?_, fun hsel => ?_, fun hsel => ?_, fun hsel => ?_, fun hsel => ?_, fun hsel => ?_, fun hsel => ?_, fun hsel => ?_,
      fun hsel => ?_, fun hsel => ?_⟩
    · rw [hy, w32_add, w32_uv, w32_uv, hsel]
      rfl
    · rw [hy, hsel, ev_combine_min ht]
    · rw [hy, hsel, ev_combine_max ht]
    · rw [hy, hsel]
      exact fun _ => BitVec.getLsbD_and
    · rw [hy, hsel]
      exact fun _ => BitVec.getLsbD_or
    · rw [hy, hsel]
      exact fun _ => BitVec.getLsbD_xor
    · rcases hsel with h | h | h <;> simp [reduceId, h, h8]
    · simpa [reduceId, hsel, h8] using hhi
    · simpa [reduceId, hsel, h8] using hlo
    · simp [reduceId, hsel]
  · have hy : y = (pat (Float.roundVal (rm f) Float.f32 (Float.add (rm f) (v r.toNat) (v x.toNat)))).value := by
      simp only [y, reduceOp, ht, if_true, hsel]
      rfl
    rw [hy, roundVal_f32_toNat]
    exact ⟨Float.isSum_add _ _ _ _, by simp [reduceId, ht, hsel]⟩
  · have hy : y = (pat (Float.minPat Float.f32 r.toNat x.toNat)).value := by
      simp only [y, reduceOp, ht, if_true, hsel]
      rfl
    rw [hy, pat_toNat (Float.minPat_lt r.isLt x.isLt)]
    exact ⟨Float.isLeast_minPat _ _, by simp [reduceId, ht, hsel]⟩
  · have hy : y = (pat (Float.maxPat Float.f32 r.toNat x.toNat)).value := by
      simp only [y, reduceOp, ht, if_true, hsel]
      rfl
    rw [hy, pat_toNat (Float.maxPat_lt r.isLt x.isLt)]
    exact ⟨Float.isLeast_maxPat _ _, by simp [reduceId, ht, hsel]⟩

/-! ## `redux` and `scan` (08, R198) -/

theorem lanesOf_sorted (m : LaneMask) : (lanesOf m).Pairwise (· < ·) := List.pairwise_lt_range.filter _

/-- The lanes whose combination `scan` gives lane `l`. -/
def scanned (f : Fields) (l i : Nat) : Bool := if f.x then decide (i < l) else decide (i ≤ l)

/-- The result of a lane combines the lanes before it, and with EXCL clear the lane itself (08, R198). -/
theorem prefixes_find (a : Value) (l : Nat) {ls : List Nat} (hsorted : ls.Pairwise (· < ·)) (hl : l ∈ ls) (r : Word) :
    (prefixes f a r ls).find? (·.1 == l) = some (l, (ls.filter (scanned f l)).foldl (fun r i => reduceOp f r (a.at i)) r) := by
  induction ls generalizing r with
  | nil => cases hl
  | cons k ks ih =>
    obtain ⟨hfirst, hrest⟩ := List.pairwise_cons.1 hsorted
    rw [prefixes, List.find?_cons]
    by_cases hk : k = l
    · subst hk
      have hnone : ks.filter (scanned f k) = [] := List.filter_eq_nil_iff.2 fun i hi => by
        have := hfirst i hi
        rw [scanned]
        split <;> simp <;> omega
      rw [List.filter_cons, hnone]
      cases hx : f.x <;> simp [scanned, hx]
    · have hmem : l ∈ ks := (List.mem_cons.1 hl).resolve_left fun h => hk h.symm
      have hbefore : scanned f l k = true := by
        have := hfirst l hmem
        rw [scanned]
        split <;> simp <;> omega
      rw [beq_eq_false_iff_ne.2 hk, ih hrest hmem, List.filter_cons, if_pos hbefore, List.foldl_cons]

/-- A reduction takes INT32, UINT32 or FP32, an operation of its type, and a rounding mode for the FP32 sum alone (08, R198). -/
theorem reduction_form {i : Instr} (hi : i ∈ [Instr.redux f, .scan f]) (h : i.wellFormed = true) :
    (f.type = 0 ∨ f.type = 4 ∨ f.type = 8) ∧ f.sel < (if f.type = 8 then 3 else 6) ∧ (f.mode ≠ 0 → f.type = 8 ∧ f.sel = 0) := by
  have hfn : ([0, 4, 8].contains f.type && decide (f.sel < if f.type = 8 then 3 else 6) && (f.mode == 0 || (f.type == 8 && f.sel == 0))) = true := by
    simp only [List.mem_cons, List.not_mem_nil, or_false] at hi
    rcases hi with rfl | rfl
    · have hform := Option.some.inj (fnOk_of_wellFormed (opc := 0x144) rfl h)
      obtain ⟨⟨hfn, -⟩, -⟩ := by simpa only [Bool.and_eq_true] using hform
      simpa only [Bool.and_eq_true] using hfn
    · have hform := Option.some.inj (fnOk_of_wellFormed (opc := 0x145) rfl h)
      obtain ⟨hfn, -⟩ := by simpa only [Bool.and_eq_true] using hform
      simpa only [Bool.and_eq_true] using hfn
  simp only [Bool.and_eq_true, Bool.or_eq_true, List.contains_iff_mem, List.mem_cons, List.not_mem_nil, or_false, decide_eq_true_eq,
    beq_iff_eq] at hfn
  obtain ⟨⟨htype, hsel⟩, hmode⟩ := hfn
  exact ⟨htype, hsel, hmode.resolve_left⟩

/-- The result of `scan` in a lane. -/
def scanLane (f : Fields) (c : Ctx) (l : Nat) : Word :=
  (((prefixes f (reduceSrc c) (reduceId f) (lanesOf c.act)).find? (·.1 == l)).map (·.2)).getD 0

theorem exec_scan_eq (f : Fields) (s : State) :
    exec (.scan f) s = .next (ruled 0x145 f noScalar (fun c => giveLanes c (reduceCtr f) fun l => plainSat (scanLane f c l)) s) := rfl

theorem scanLane_eq {c : Ctx} {l : Nat} (hl : c.act.getLsbD l = true) : scanLane f c l =
    ((lanesOf c.act).filter (scanned f l)).foldl (fun r i => reduceOp f r ((reduceSrc c).at i)) (reduceId f) := by
  rw [scanLane, prefixes_find _ _ (lanesOf_sorted _) (mem_lanesOf.2 hl)]
  rfl

theorem reductions_results : partReductions := by
  intro f ctr a
  have hctr : ctr < 63 := by simp only [ctr]; split <;> decide
  refine ⟨?_, ?_, fun s c hs => ?_, fun i hi h => reduction_form hi h⟩
  · refine computes_ruled (r := fun c _ => match lanesOf c.act with
      | [] => 0
      | l :: ls => ls.foldl (fun r x => reduceOp f r ((reduceSrc c).at x)) ((reduceSrc c).at l)) (fun s => rfl) rfl rfl rfl hctr
      (fun c hD => operandChecks_noScalar hD) fun s c h _ hany _ => ?_
    obtain ⟨-, -, -, -, rfl⟩ := ctx_group h.ctx
    obtain ⟨l, ls, hlanes⟩ := List.exists_cons_of_ne_nil (lanesOf_ne_nil hany)
    refine ⟨l, ls, hlanes, ?_⟩
    rw [hlanes, List.foldl_map]
    rfl
  · refine computes_ruled (r := scanLane f) (exec_scan_eq f) rfl rfl rfl hctr (fun c hD => operandChecks_noScalar hD) fun s c h _ _ l hl _ => ?_
    obtain ⟨-, -, -, -, rfl⟩ := ctx_group h.ctx
    exact scanLane_eq hl
  · have hscalar : operandChecks noScalar c = some (c.illegalOperand 1) := by rw [operandChecks_noScalar_eq, hs]; rfl
    exact ⟨exec_ruled_trap (x := execRedux f s) rfl hscalar, exec_ruled_trap (x := execScan f s) rfl hscalar⟩

end

/-- Settles O14: the operations by their types, and the combination that `scan` gives each lane by `prefixes_find`. -/
theorem reductions : Obligations.Reductions := ⟨reductionOperations, reductions_results⟩

end Sys2Proof.Machine

namespace Sys2Proof.Machine

open Sys2Proof.Spec

/-! ## The carry forms (08, R178) -/

section
variable {f : Fields} {opc : Nat} {s : State} {c : Ctx} {G T : Group} {op : Word → Word → Bool → Word × Bool}

theorem addCarry_eq (a b : Word) (cin : Bool) :
    addCarry a b cin = (w32 (uv a + uv b + b2n cin), decide (2 ^ 32 ≤ uv a + uv b + (b2n cin : Int))) := by
  have hsum : uv a + uv b + (b2n cin : Int) = ((a.toNat + b.toNat + b2n cin : Nat) : Int) := by simp only [uv]; push_cast; rfl
  rw [addCarry, hsum, w32, BitVec.ofInt_natCast]
  simp only [Prod.mk.injEq, true_and, decide_eq_decide]
  omega

theorem subBorrow_eq (a b : Word) (cin : Bool) :
    subBorrow a b cin = (w32 (uv a - uv b - b2n cin), decide (uv a - uv b - (b2n cin : Int) < 0)) := rfl

/-- The result and the carry of a lane of a carry form; the carry in is the predicate's old bit where X is set. -/
def carryLane (f : Fields) (op : Word → Word → Bool → Word × Bool) (c : Ctx) (l : Nat) : Word × Bool :=
  op (xA c l) (xB c l) (f.x && (c.g.pred (f.sel % 8)).getLsbD l)

/-- The group with D and predicate `cp` written, of the lanes' results and carries. -/
def carryPut (c : Ctx) (cp : Nat) (r : Nat → Word × Bool) : Group :=
  ((putDest c.g c.b c.act c.opD (.lanes c.g.width fun l => (r l).1)).dropShadow (.p cp)).putPred cp c.act (maskOf c.g.width fun l => (r l).2)

theorem carryForm_eq (opc : Nat) (f : Fields) (op : Word → Word → Bool → Word × Bool) (s : State) : carryForm opc f op s =
    .next (ruled opc f vectorOnly (fun c => if !c.any then .next c.s
      else .next (c.count ctrInt c.lanes (c.s.setGroup c.k (carryPut c (f.sel % 8) (carryLane f op c))))) s) := rfl

/-- What a carry form leaves of registers before it retires: D's lanes and the predicate's, and nothing else. -/
structure CarryPut (c : Ctx) (cp : Nat) (r : Nat → Word × Bool) (G : Group) : Prop where
  frame : G = { c.g with vregs := G.vregs, preds := G.preds, windows := G.windows }
  done  : NoneDone G.windows
  vecs  : ∀ n, n ≠ c.opD.index → G.vregs.find? n = c.g.vregs.find? n
  preds : ∀ n, n ≠ cp → n < 7 → G.preds.getD n 0 = c.g.preds.getD n 0
  vec   : ∀ l, l < c.g.width → (G.vreg c.opD.index).vals.getD l 0 = if c.act.getLsbD l then (r l).1 else (c.g.vreg c.opD.index).vals.getD l 0
  pred  : ∀ l, l < c.g.width → l < 96 → (G.pred cp).getLsbD l = if c.act.getLsbD l then (r l).2 else (c.g.pred cp).getLsbD l

theorem carryPut_put {cp : Nat} (hcp : cp < 7) (hvec : c.opD.isVec = true) (hdone : NoneDone c.g.windows) (r : Nat → Word × Bool) :
    CarryPut c cp r (carryPut c cp r) := by
  have hcls : c.opD.cls = 0 := beq_iff_eq.1 hvec
  have hpred : c.opD.isPred = false := by rw [Opnd.isPred, hcls]; rfl
  have hW := wrote_vec (c := c) (m := c.act) (R := fun l => (r l).1) hcls
  have hPdone : NoneDone (putDest c.g c.b c.act c.opD (.lanes c.g.width fun l => (r l).1)).windows := putDest_done hdone
  rw [carryPut]
  generalize putDest c.g c.b c.act c.opD (.lanes c.g.width fun l => (r l).1) = P at *
  have hdrop := dropShadow_frame P (.p cp)
  have hdropped := dropShadow_done (.p cp) hPdone
  generalize P.dropShadow (.p cp) = Q at *
  have hQpred (n : Nat) (hn : n < 7) : Q.preds.getD n 0 = c.g.preds.getD n 0 := by
    rw [hdrop]
    exact hW.preds n (fun h => by rw [hpred] at h; cases h.1) hn
  have hold : Q.pred cp = c.g.pred cp := by rw [Group.pred, Group.pred, if_neg (by omega), if_neg (by omega), hQpred cp hcp]
  refine ⟨?_, hdropped, fun n hn => ?_, fun n hn hlt => ?_, fun l hl => ?_, fun l hl hl' => ?_⟩
  · rw [Group.putPred, hdrop, hW.frame]
  · rw [Group.putPred, hdrop]
    exact hW.vecs n fun h => hn h.2.symm
  · rw [preds_putPred_ne hlt hn]
    exact hQpred n hlt
  · rw [vreg_congr (g' := P) (by rw [Group.putPred, hdrop]) (by rw [Group.putPred, hdrop])]
    exact hW.vec hvec l hl
  · rw [pred_putPred hcp, hold]
    simp only [BitVec.getLsbD_or, BitVec.getLsbD_and, BitVec.getLsbD_not, maskOf_getLsbD _ _ hl', hl, hl', decide_true, Bool.true_and]
    cases c.act.getLsbD l <;> simp

theorem CarryPut.effect {cp : Nat} {r : Nat → Word × Bool} (h : CarryPut c cp r G) : Effect c G := by
  refine ⟨?_, h.done⟩
  rw [h.frame]

/-- What a carry form leaves: D and pCP in the active lanes, and the frame of any issued word. -/
structure Carried (c : Ctx) (t : State) (cp : Nat) (r : Nat → Word × Bool) : Prop where
  machine : OnlyGroup c t
  group   : OnlyResult c (after c t)
  active  : ∀ l, l < c.g.width → l < 96 → c.act.getLsbD l = true →
    ((after c t).vreg c.opD.index).vals.getD l 0 = (r l).1 ∧ ((after c t).pred cp).getLsbD l = (r l).2
  idle    : ∀ l, l < c.g.width → l < 96 → c.act.getLsbD l = false →
    ((after c t).vreg c.opD.index).vals.getD l 0 = (if c.opD.index ∈ lastFrees c then 0 else (c.g.vreg c.opD.index).vals.getD l 0) ∧
      ((after c t).pred cp).getLsbD l = (c.g.pred cp).getLsbD l
  vecs    : ∀ n, n ≠ c.opD.index → n ∉ lastFrees c → (after c t).vregs.find? n = c.g.vregs.find? n
  preds   : ∀ n, n ≠ cp → n < 7 → (after c t).preds.getD n 0 = c.g.preds.getD n 0
  loops   : ∀ n, n < 3 → (after c t).loops.getD n {} = nextLoops c n
  latch   : (after c t).latch = latched c (sourceHolds c ++ if c.opD.hold then [namedSource c.s (after c t) c.b c.opD] else [])
  slot    : (after c t).slot c.b = { c.slot with pc := nextPc c }
  other   : (after c t).slot (!c.b) = c.g.slot (!c.b)
  kept    : after c t = { after c t with sregs := c.g.sregs, spoison := c.g.spoison, sat := c.g.sat, uflow := c.g.uflow, mflush := c.g.mflush,
                                         mwrap := c.g.mwrap, q0 := c.g.q0, q1 := c.g.q1 }
  meter   : Metered c ctrInt t

/-- A lane of a vector name that the word wrote, once LAST has freed what it names. -/
theorem Retired.vreg_written (hT : Retired c G T) {n l : Nat} (hn : n ∈ writtenNames c) (hl : l < G.width) :
    (T.vreg n).vals.getD l 0 = if n ∈ lastFrees c ∧ c.act.getLsbD l = false then 0 else (G.vreg n).vals.getD l 0 := by
  rw [← freeNames_lane hn hl]
  refine congrArg (·.vals.getD l 0) (vreg_congr hT.vregs ?_ n)
  rw [hT.frame, freeNames_frame]

theorem carryForm_carried (h : Calm opc f destName s c) (hany : c.any = true) (hvec : c.opD.isVec = true) (hcp : f.sel % 8 < 7)
    (hll : Forms.longLatency opc = false) (hd : (roles opc f).d = true) (hs : (roles opc f).dIsSrc = false) :
    ∃ t, carryForm opc f op s = .next t ∧ Carried c t (f.sel % 8) (carryLane f op c) := by
  have hput := carryPut_put hcp hvec h.windows (carryLane f op c)
  rw [carryForm_eq, ruled_calm h (operandChecks_vectorOnly hvec), hany]
  simp only [Bool.not_true, Bool.false_eq_true, if_false]
  generalize carryPut c (f.sel % 8) (carryLane f op c) = G at *
  obtain ⟨-, t, hT, hsettle, honly, rfl, hlaunches⟩ := settle_counted h hll hput.effect ctrInt c.lanes
  have hcount (hstopped) := count_self (s := c.s.setGroup c.k G) (l := c.launchKey) (by decide : ctrInt < 63)
    (lanes_ne_zero (by simpa [Ctx.any] using hany)) hstopped
  obtain ⟨-, -, -, hopc, hf⟩ := ctx_group h.ctx
  rw [← hopc, ← hf] at hd hs
  have hwritten : c.opD.index ∈ writtenNames c := by simp [writtenNames, hany, destName, hd, hs, hvec]
  have hlatch := hT.latch (dest_ok h.form hd hs)
  rw [heldPushes_ok h.form hd hs (hT.bothLive fun b => by rw [hput.frame]; rfl)] at hlatch
  have hwidth : G.width = c.g.width := by rw [hput.frame]
  have hslot (b : Bool) : G.slot b = c.g.slot b := by rw [hput.frame]; rfl
  have hpred : (after c t).pred (f.sel % 8) = G.pred (f.sel % 8) := pred_congr (by rw [hT.frame]) (by rw [hT.frame]) _
  refine ⟨t, by rw [← hsettle], ?_⟩
  constructor
  case machine => exact honly
  case group => exact hT.group_result hput.effect
  case active =>
    intro l hl hl' hact
    rw [hT.vreg_written hwritten (hwidth ▸ hl), hpred, hput.vec l hl, hput.pred l hl hl', hact]
    simp
  case idle =>
    intro l hl hl' hact
    rw [hT.vreg_written hwritten (hwidth ▸ hl), hpred, hput.vec l hl, hput.pred l hl hl', hact]
    simp
  case vecs =>
    intro n hn hfree
    rw [hT.vregs, find?_freeNames_not hfree]
    exact hput.vecs n hn
  case preds =>
    intro n hn hlt
    rw [hT.frame]
    exact hput.preds n hn hlt
  case loops => exact hT.loops
  case latch => exact hlatch
  case slot => rw [hT.slot, hslot]; rfl
  case other => rw [hT.other, hslot]
  case kept => rw [hT.frame, hput.frame]
  case meter =>
    intro hstopped
    rw [isScalar_of_isVec hvec, State.launch, hlaunches]
    exact hcount hstopped

/-- The forms of `iaddc` and `isubb`: CP 7 is reserved (08, R178). -/
theorem carry_form (h : (f.type == 4 && f.mode == 0 && decide (f.sel < 7)) = true) : f.type = 4 ∧ f.sel < 7 := by
  simp only [Bool.and_eq_true, decide_eq_true_eq, beq_iff_eq] at h
  obtain ⟨⟨htype, -⟩, hsel⟩ := h
  exact ⟨htype, hsel⟩

theorem carry_trap (h : Calm opc f destName s c) (hvec : c.opD.isVec = false) :
    carryForm opc f op s = .next (s.takeTrap c.k (c.illegalOperand 1)) :=
  exec_ruled_trap (carryForm_eq opc f op s) (by simp [operandChecks_eq, vectorOnly, hvec]) h

end

/-- Settles O3: a carry form by what it writes (`carryPut_put`) and by the word's retirement (`carryForm_carried`). -/
theorem carryForms : Obligations.CarryForms := by
  intro f s c cp cin carries
  have hcin (l : Nat) : (b2n (f.x && (c.g.pred cp).getLsbD l) : Int) = cin l := by
    simp only [cin, b2n, Bool.and_eq_true]
    split <;> rfl
  have right {i : Instr} {opc : Nat} {op : Word → Word → Bool → Word × Bool} {y : Nat → Int} {out : Int → Bool} (hany : c.any = true)
      (hvec : c.opD.isVec = true) (hexec : exec i s = carryForm opc f op s) (hll : Forms.longLatency opc = false) (hd : (roles opc f).d = true)
      (hs : (roles opc f).dIsSrc = false) (hfn : Forms.fnOk opc f = some (f.type == 4 && f.mode == 0 && decide (f.sel < 7)))
      (hop : ∀ l, carryLane f op c l = (w32 (y l), out (y l))) : carries i opc y out := fun h => by
    obtain ⟨-, hsel⟩ := carry_form (Option.some.inj (hfn.symm.trans (fnOk_of_calm h)))
    obtain ⟨t, ht, hC⟩ := carryForm_carried (op := op) h hany hvec (Nat.mod_lt_of_lt hsel) hll hd hs
    have hkept := hC.kept
    refine ⟨t, hexec.trans ht, hC.machine, hC.group, fun l hl hl' => ⟨fun hact => ?_, hC.idle l hl hl'⟩, hC.vecs, hC.preds, ?_, ?_, hC.loops, hC.latch,
      ?_, ?_, ?_, ?_, ?_, ?_, hC.slot, hC.other, hC.meter⟩
    · have hlane := hC.active l hl hl' hact
      rwa [hop] at hlane
    all_goals rw [hkept]
  refine ⟨fun hany hvec => ⟨?_, ?_⟩, fun hvec => ⟨fun h => ?_, fun h => ?_⟩, fun i hi h => ?_⟩
  · refine right (i := .iaddc f) (opc := 0x041) (op := addCarry) (y := fun l => uv (xA c l) + uv (xB c l) + cin l)
      (out := fun y => decide (2 ^ 32 ≤ y)) hany hvec rfl rfl rfl rfl rfl fun l => ?_
    rw [← hcin]
    exact addCarry_eq _ _ _
  · refine right (i := .isubb f) (opc := 0x043) (op := subBorrow) (y := fun l => uv (xA c l) - uv (xB c l) - cin l)
      (out := fun y => decide (y < 0)) hany hvec rfl rfl rfl rfl rfl fun l => ?_
    rw [← hcin]
    exact subBorrow_eq _ _ _
  · exact carry_trap (op := addCarry) h hvec
  · exact carry_trap (op := subBorrow) h hvec
  · simp only [List.mem_cons, List.not_mem_nil, or_false] at hi
    rcases hi with rfl | rfl
    · exact carry_form (Option.some.inj (fnOk_of_wellFormed (opc := 0x041) rfl h))
    · exact carry_form (Option.some.inj (fnOk_of_wellFormed (opc := 0x043) rfl h))

end Sys2Proof.Machine

namespace Sys2Proof.Machine

open Sys2Proof.Spec

/-! ## MMAs enter the matrix queue (09, R204, R211, R212) -/

section
variable {f : Fields} {opc : Nat} {s u : State} {c : Ctx}

theorem tileField_eq (f : Fields) : tileField f = f.fn.toNat % 8 := by simp [tileField, Fields.fnBits, bitsOf_eq]

theorem mmaK_eq (f : Fields) : mmaK f = 32 * (f.fn.toNat / 16 % 128 + 1) := by simp [mmaK, Fields.fnBits, bitsOf_eq]

theorem fmtA_eq (w : Word) : fmtA w = w.toNat % 16 := by simp [fmtA, bitsOf_eq]

theorem fmtB_eq (w : Word) : fmtB w = w.toNat / 16 % 16 := bitsOf_eq _ _ _

theorem fmtCbA_eq (w : Word) : fmtCbA w = w.toNat / 256 % 4 := bitsOf_eq _ _ _

theorem fmtCbB_eq (w : Word) : fmtCbB w = w.toNat / 1024 % 4 := bitsOf_eq _ _ _

/-- A group that begins a wait of no row of Table 4.2, for no fault, stands at its word and nothing else happens (04, R86, R87). -/
theorem settle_stay (hfault : (u.group c.k).faulted = false) (hrow : State.rowTwo (u.group c.k) = false) : settle c s (.stay u) = u := by
  simp only [settle, hfault, Bool.and_false, Bool.false_eq_true, if_false, State.swapWaiting, hrow]

/-- What an MMA puts into the matrix queue (09, R211, R212). -/
def mmaEntry (opc : Nat) (f : Fields) (c : Ctx) : MqEntry :=
  { group := c.k, launch := c.launchKey, opc := opc, tile := tileField f, zero := bitOf f.fn.toNat 3, k := mmaK f, afmt := fmtA c.slot.fmt,
    bfmt := fmtB c.slot.fmt, scaled := fmtScaled c.slot.fmt, row := (c.srcB.at 0).toNat, abook := c.g.cbs.getD (fmtCbA c.slot.fmt) 0,
    bbook := c.g.cbs.getD (fmtCbB c.slot.fmt) 0 }

theorem mmaForm_eq (opc : Nat) (f : Fields) (s : State) : mmaForm opc f s = .next (issue opc f mmaChecks noNames
    (fun c => if !c.any then .next c.s else .stay ((enqueue c.s c.g.core (mmaEntry opc f c)).startWait c .mma 0x0B)) s mmaOperands) := rfl

/-- An MMA that passes its checks is queued, and its group waits for the pre-phase. -/
theorem mmaForm_queues (h : Calm opc f noNames s c) (hany : c.any = true) (hchecks : mmaChecks c = none) (hown : ∀ n, mmaOperands c n = false) :
    mmaForm opc f s = .next ((enqueue c.s c.g.core (mmaEntry opc f c)).startWait c .mma 0x0B) := by
  have hwaits : (((enqueue c.s c.g.core (mmaEntry opc f c)).startWait c .mma 0x0B).group c.k).wait = .mma := by
    rw [State.startWait, State.setGroup_group_self]
  rw [mmaForm_eq, issue_calm h (formTrap_eq_none h.form hown) hchecks, hany]
  exact congrArg _ (settle_stay (by rw [Group.faulted, hwaits]) (by rw [State.rowTwo, hwaits]))

theorem core_enqueue_self (s : State) (k : Nat) (e : MqEntry) :
    (enqueue s k e).core k = { s.core k with mq := (s.core k).mq ++ [{ e with serial := s.serial + 1 }] } := State.setCore_core_self _ _ _

theorem core_enqueue_ne (s : State) {k j : Nat} (e : MqEntry) (h : j ≠ k) : (enqueue s k e).core j = s.core j := State.setCore_core_ne _ _ h

end

/-- Settles O22: each form of MMA queues its entry (`mmaForm_queues`), whose fields are those of the word and of the format register. -/
theorem matrixInstructionsQueue : Obligations.MatrixInstructionsQueue := by
  intro f s c hany hchecks hown fmt queues
  have right {i : Instr} {opc : Nat} (hexec : exec i s = mmaForm opc f s) : queues i opc := fun h => by
    have hgroup : (enqueue c.s c.g.core (mmaEntry opc f c)).group c.k = c.g := h.group_eq
    have hcore : ((enqueue c.s c.g.core (mmaEntry opc f c)).startWait c .mma 0x0B).core c.g.core = _ := core_enqueue_self _ _ _
    have hbook {m n : Nat} (hn : m = n) : c.g.cbs.getD m 0 = c.g.cbs.getD n 0 := by rw [hn]
    refine ⟨_, { mmaEntry opc f c with serial := c.s.serial + 1 }, hexec.trans (mmaForm_queues h hany hchecks hown), ?_,
      fun j hj => setGroup_others _ _ _ hj, rfl, fun j hj => core_enqueue_ne _ _ hj, by rw [hcore]; rfl, rfl, rfl, rfl, tileField_eq f,
      bitOf_eq_testBit _ _, mmaK_eq f, fmtA_eq _, fmtB_eq _, bitOf_eq_testBit _ _, rfl, hbook (fmtCbA_eq _), hbook (fmtCbB_eq _), rfl, rfl⟩
    rw [StandsAt, State.startWait, after_setGroup, hgroup]
  exact ⟨right rfl, right rfl, right rfl⟩

end Sys2Proof.Machine

namespace Sys2Proof.Machine

open Sys2Proof.Spec

/-! ## Tiles of a core (09, R203, R204) -/

section
variable {s : State} {c : Ctx} {n : Nat}

theorem tileOf_setTile_self (s : State) (k n : Nat) (T : Tile) : tileOf (setTile s k n T) k n = T := by
  rw [tileOf, setTile, State.setCore_core_self, Tbl.getD_set_self]

theorem tileOf_setTile_ne (s : State) (k : Nat) {n m : Nat} (T : Tile) (h : m ≠ n) : tileOf (setTile s k n T) k m = tileOf s k m := by
  rw [tileOf, setTile, State.setCore_core_self, Tbl.getD_set_ne _ _ _ h, tileOf]

theorem core_setTile_self (s : State) (k n : Nat) (T : Tile) :
    (setTile s k n T).core k = { s.core k with tiles := (s.core k).tiles.set n T } := State.setCore_core_self _ _ _

/-- What a change of tile `n` of the word's core leaves. -/
theorem onlyTile_setTile {t : State} {T : Tile} (hothers : Alone c t)
    (ht : t = { setTile c.s c.g.core n T with groups := t.groups, launches := t.launches }) : OnlyTile c t n ∧ tileOf t c.g.core n = T := by
  have hcore (j : Nat) : t.core j = (setTile c.s c.g.core n T).core j := by rw [ht]; rfl
  have htile (m : Nat) : tileOf t c.g.core m = tileOf (setTile c.s c.g.core n T) c.g.core m := by rw [tileOf, hcore, tileOf]
  refine ⟨⟨?_, hothers, fun j hj => ?_, ?_, fun m hm => ?_⟩, ?_⟩
  · have hcores : t.cores = (setTile c.s c.g.core n T).cores := by rw [ht]
    rw [hcores]
    exact ht
  · rw [hcore]
    exact State.setCore_core_ne _ _ hj
  · rw [hcore, setTile, State.setCore_core_self]
    rfl
  · rw [htile, tileOf_setTile_ne _ _ _ hm]
  · rw [htile, tileOf_setTile_self]

/-- A tile that is free or the team's own passes the check of its owner (09, R203). -/
theorem tileForeign_eq_false (h : (tileOf c.s c.g.core n).owner = none ∨ (tileOf c.s c.g.core n).owner = some c.g.team) :
    tileForeign c n = false := by
  rcases h with h | h <;> simp [tileForeign, h]

theorem tileCheck_passes (h : (tileOf c.s c.g.core n).owner = none ∨ (tileOf c.s c.g.core n).owner = some c.g.team) :
    firstTrap [tileCheck c n] = none :=
  firstTrap_one (by rw [tileForeign_eq_false h, Bool.and_false]) _

/-- Of a tile that is ready, no entry of the queue but the group's own held one is in the way (09, R204, R223). -/
theorem tileBusy_eq_false (h : TileReady c n) : tileBusy c n = false := by
  rw [tileBusy, List.any_eq_false]
  intro e he
  have hnot := List.mem_takeWhile_imp he
  rw [beq_iff_eq]
  intro htile
  obtain ⟨hopc, hgroup⟩ := h.2 e (List.takeWhile_subset _ he) htile
  simp [ownHeld, hopc, hgroup] at hnot

/-- A word that finds its tile ready acts on it at once, as its team's. -/
theorem afterTile_ready (hany : c.any = true) (h : TileReady c n) (k : Tile → Res) :
    afterTile c n k = k ((tileOf c.s c.g.core n).claim c.g.team) := by
  simp only [afterTile, hany, tileBusy_eq_false h, Bool.not_true, Bool.false_eq_true, if_false]

/-- The element that a lane names (09, R219). -/
theorem laneCell_eq (c : Ctx) (l : Nat) : laneCell c l = accCell c l := by
  rw [laneCell, viewCell, bitOf_eq_testBit]
  rfl

end

/-! ## `accz` (09, R220) -/

section
variable {f : Fields} {s : State} {c : Ctx}

/-- The tile of an `accz.rel` is claimed and its entry queued, to be released in its turn. -/
def accReleased (f : Fields) (c : Ctx) : State :=
  setTile (enqueue c.s c.g.core { group := c.k, launch := c.launchKey, opc := 0x188, tile := tileField f }) c.g.core (tileField f)
    ((tileOf c.s c.g.core (tileField f)).claim c.g.team)

/-- A group's tracer does not go by what stands in the cores. -/
theorem tracer_of_cores (s : State) (cs : Tbl Core) (n : Nat) (g : Group) : State.tracer { s with cores := cs, serial := n } g = s.tracer g := rfl

theorem tracer_setTile (s : State) (k n : Nat) (T : Tile) (g : Group) : (setTile s k n T).tracer g = s.tracer g := rfl

theorem accReleased_frame (f : Fields) (c : Ctx) :
    accReleased f c = { c.s with cores := (accReleased f c).cores, serial := c.s.serial + 1 } := rfl

theorem tileOf_enqueue (s : State) (k : Nat) (e : MqEntry) (n : Nat) : tileOf (enqueue s k e) k n = tileOf s k n := by
  rw [tileOf, core_enqueue_self]
  rfl

/-- The entry stands last in the queue, and the tile is the team's. -/
theorem accReleased_core (f : Fields) (c : Ctx) :
    ((accReleased f c).core c.g.core).mq = (here c).mq ++
      [{ serial := c.s.serial + 1, group := c.k, launch := c.launchKey, opc := 0x188, tile := tileField f }] ∧
    tileOf (accReleased f c) c.g.core (tileField f) = (tileOf c.s c.g.core (tileField f)).claim c.g.team ∧
    ∀ j, j ≠ tileField f → tileOf (accReleased f c) c.g.core j = tileOf c.s c.g.core j := by
  refine ⟨?_, tileOf_setTile_self _ _ _ _, fun j hj => ?_⟩
  · rw [accReleased, core_setTile_self, core_enqueue_self]
    rfl
  · rw [accReleased, tileOf_setTile_ne _ _ _ hj, tileOf_enqueue]

theorem exec_accz_eq (f : Fields) (s : State) : exec (.accz f) s = .next (issue 0x188 f (fun c => firstTrap [tileCheck c (tileField f)]) noNames
    (fun c => if bitOf f.fn.toNat 3 then
        if !c.any then .next c.s
        else if (c.s.core c.g.core).mq.any fun e => e.tile == tileField f && !e.multiplying then .wait c.s 0x0B
        else .next (accReleased f c)
      else afterTile c (tileField f) fun t => .next (setTile c.s c.g.core (tileField f) { t with elems := [], poison := [] })) s) := rfl

theorem exec_accz_release (h : Calm 0x188 f noNames s c) (hany : c.any = true) (hrel : f.fn.toNat.testBit 3 = true)
    (howner : (tileOf c.s c.g.core (tileField f)).owner = none ∨ (tileOf c.s c.g.core (tileField f)).owner = some c.g.team)
    (hqueue : ∀ e ∈ (here c).mq, e.tile = tileField f → e.multiplying = true) :
    ∃ g, exec (.accz f) s = .next ((accReleased f c).setGroup c.k g) ∧ Passes c ((accReleased f c).setGroup c.k g) := by
  have hfree : ((c.s.core c.g.core).mq.any fun e => e.tile == tileField f && !e.multiplying) = false := by
    rw [List.any_eq_false]
    intro e he hbusy
    simp only [Bool.and_eq_true, beq_iff_eq, Bool.not_eq_true'] at hbusy
    exact Bool.false_ne_true (hbusy.2.symm.trans (hqueue e he hbusy.1))
  obtain ⟨g, hsettle, hpasses⟩ := passes_settle (s' := accReleased f c) h rfl rfl
    (by rw [accReleased_frame]; exact h.group) (by rw [accReleased_frame, tracer_of_cores]; exact h.tracer)
  refine ⟨g, ?_, hpasses⟩
  rw [exec_accz_eq, issue_calm h h.form (tileCheck_passes howner)]
  simp only [bitOf_eq_testBit, hrel, hany, hfree, if_true, Bool.not_true, Bool.false_eq_true, if_false, hsettle]

theorem exec_accz_clear (h : Calm 0x188 f noNames s c) (hany : c.any = true) (hrel : f.fn.toNat.testBit 3 = false)
    (hready : TileReady c (tileField f)) : ∃ t, exec (.accz f) s = .next t ∧ Passes c t ∧ OnlyTile c t (tileField f) ∧ t.launches = c.s.launches ∧
      tileOf t c.g.core (tileField f) = { owner := some c.g.team } := by
  obtain ⟨g, hsettle, hpasses⟩ := passes_settle (s' := setTile c.s c.g.core (tileField f) { owner := some c.g.team }) h rfl rfl h.group h.tracer
  obtain ⟨honly, htile⟩ := onlyTile_setTile (t := (setTile c.s c.g.core (tileField f) { owner := some c.g.team }).setGroup c.k g)
    (fun j hj => setGroup_others _ _ _ hj) rfl
  refine ⟨_, ?_, hpasses, honly, rfl, htile⟩
  rw [exec_accz_eq, issue_calm h h.form (tileCheck_passes hready.1)]
  simp only [bitOf_eq_testBit, hrel, Bool.false_eq_true, if_false, afterTile_ready hany hready]
  exact congrArg _ hsettle

end

end Sys2Proof.Machine

namespace Sys2Proof.Machine

open Sys2Proof.Spec

/-! ## `accwr` (09, R219, R222) -/

namespace Tile

variable {t T : Tile} {cell : Nat → Option Nat} {x : Nat → Word}

theorem elems_put_self (t : Tile) (e : Nat) (w : Word) : (t.put e w).elems.getD e 0 = w := by
  unfold put
  dsimp only
  split
  · next h => rw [Tbl.getD_erase_self, h]
  · rw [Tbl.getD_set_self]

theorem elems_put_ne (t : Tile) {e i : Nat} (w : Word) (h : i ≠ e) : (t.put e w).elems.getD i 0 = t.elems.getD i 0 := by
  unfold put
  dsimp only
  split
  · rw [Tbl.getD_erase_ne _ _ h]
  · rw [Tbl.getD_set_ne _ _ _ h]

theorem poison_put (t : Tile) (e : Nat) (w : Word) : (t.put e w).poison = t.poison.erase e := rfl

/-- A word written into the element that each of some lanes names. -/
def putLanes (cell : Nat → Option Nat) (x : Nat → Word) (ls : List Nat) (t : Tile) : Tile :=
  ls.foldl (fun t l => match cell l with | some e => t.put e (x l) | none => t) t

theorem putLanes_cons_some {l e : Nat} (h : cell l = some e) (ls : List Nat) (t : Tile) :
    putLanes cell x (l :: ls) t = putLanes cell x ls (t.put e (x l)) := by
  simp only [putLanes, List.foldl_cons, h]

theorem putLanes_cons_none {l : Nat} (h : cell l = none) (ls : List Nat) (t : Tile) : putLanes cell x (l :: ls) t = putLanes cell x ls t := by
  simp only [putLanes, List.foldl_cons, h]

/-- The lanes `ls` have written their words: each element named holds its lane's word and is not poisoned, and no other has changed. -/
structure HasPut (cell : Nat → Option Nat) (x : Nat → Word) (ls : List Nat) (t T : Tile) : Prop where
  owner  : T.owner = t.owner
  poison : T.poison ⊆ t.poison
  named  : ∀ l ∈ ls, ∀ e, cell l = some e → T.elems.getD e 0 = x l ∧ e ∉ T.poison
  kept   : ∀ e, (∀ l ∈ ls, cell l ≠ some e) → T.elems.getD e 0 = t.elems.getD e 0

/-- A lane that names no element writes none. -/
theorem HasPut.cons_none {l : Nat} {ls : List Nat} (h : HasPut cell x ls t T) (hl : cell l = none) : HasPut cell x (l :: ls) t T where
  owner := h.owner
  poison := h.poison
  named := by
    intro i hi e he
    rcases List.mem_cons.1 hi with rfl | hi
    · rw [hl] at he
      cases he
    · exact h.named i hi e he
  kept := fun e he => h.kept e fun i hi => he i (List.mem_cons_of_mem _ hi)

/-- What a lane writes stands, where no later lane names its element. -/
theorem HasPut.cons_some {l e : Nat} {ls : List Nat} (h : HasPut cell x ls (t.put e (x l)) T) (hl : cell l = some e) (hnd : t.poison.Nodup)
    (honce : ∀ i ∈ ls, cell i ≠ some e) : HasPut cell x (l :: ls) t T where
  owner := h.owner
  poison := fun _ hi => List.mem_of_mem_erase (h.poison hi)
  named := by
    intro i hi e' he'
    rcases List.mem_cons.1 hi with rfl | hi
    · obtain rfl : e = e' := Option.some.inj (hl.symm.trans he')
      exact ⟨(h.kept e honce).trans (elems_put_self t e _), fun hp => (hnd.mem_erase_iff.1 (h.poison hp)).1 rfl⟩
    · exact h.named i hi e' he'
  kept := fun i hi =>
    (h.kept i fun j hj => hi j (List.mem_cons_of_mem _ hj)).trans (elems_put_ne t _ fun hne => hi l List.mem_cons_self (hne ▸ hl))

theorem hasPut_putLanes {ls : List Nat} (hnd : t.poison.Nodup) (honce : ls.Pairwise fun l i => ∀ e, cell l = some e → cell i ≠ some e) :
    HasPut cell x ls t (putLanes cell x ls t) := by
  induction ls generalizing t with
  | nil => exact ⟨rfl, fun _ h => h, fun _ h => absurd h List.not_mem_nil, fun _ _ => rfl⟩
  | cons l ls ih =>
    obtain ⟨hfirst, hrest⟩ := List.pairwise_cons.1 honce
    cases hl : cell l with
    | none =>
      rw [putLanes_cons_none hl]
      exact (ih hnd hrest).cons_none hl
    | some e =>
      rw [putLanes_cons_some hl]
      exact (ih (hnd.erase e) hrest).cons_some hl hnd fun i hi => hfirst i hi e hl

end Tile

section
variable {f : Fields} {s : State} {c : Ctx}

/-- No two lanes name one element (09, R219). -/
theorem accCell_injective {l i e : Nat} (hl : accCell c l = some e) (hi : accCell c i = some e) : l = i := by
  simp only [accCell, Option.ite_none_left_eq_some, Option.some.injEq] at hl hi
  obtain ⟨hle, hl⟩ := hl
  obtain ⟨hie, hi⟩ := hi
  split_ifs at hl hi <;> omega

theorem accCells_once (c : Ctx) (m : LaneMask) : (lanesOf m).Pairwise fun l i => ∀ e, accCell c l = some e → accCell c i ≠ some e :=
  (lanesOf_sorted m).imp fun hlt _ hl hi => Nat.ne_of_lt hlt (accCell_injective hl hi)

/-! ### Counters (17, R381, R382) -/

theorem count_groups (c : Ctx) (ctr n : Nat) (u : State) : (c.count ctr n u).groups = u.groups := (count_frame u c.launchKey ctr n).1

/-- Metering changes the counters of launches alone. -/
theorem count_launches (c : Ctx) (ctr n : Nat) (u : State) : c.count ctr n u = { u with launches := (c.count ctr n u).launches } :=
  (count_frame u c.launchKey ctr n).2.1

theorem count_tracer (c : Ctx) (ctr n : Nat) (u : State) (g : Group) : (c.count ctr n u).tracer g = u.tracer g := by
  obtain ⟨-, -, hmeters⟩ := count_frame u c.launchKey ctr n
  exact tracer_congr (by rw [count_launches]; rfl) (by rw [count_launches]) (by rw [count_launches]) hmeters

theorem counted_nil {t : State} (h : t.launches = c.s.launches) : Counted c t [] := by
  have hlaunch (l : Nat) : t.launch l = c.s.launch l := by rw [State.launch, h]; rfl
  refine ⟨fun l => by rw [hlaunch], fun _ i _ => ?_⟩
  rw [hlaunch]
  rfl

/-- A counter of which nothing has been counted yet counts. -/
theorem counted_count {u : State} {ns : List (Nat × Nat)} {ctr : Nat} (h : Counted c u ns) (hctr : ctr < 63) (hnew : ∀ x ∈ ns, x.1 ≠ ctr)
    (hfuncs : u.funcs = c.s.funcs) (hvmids : u.vmids = c.s.vmids) (n : Nat) : Counted c (c.count ctr n u) ((ctr, n) :: ns) := by
  obtain ⟨hframe, hcounts⟩ := h
  obtain ⟨-, -, hmeters⟩ := count_frame u c.launchKey ctr n
  refine ⟨fun l => by rw [Ctx.count, hmeters l, hframe l], fun hstopped i hi => ?_⟩
  have hrun : (u.func (u.vmidFunc (u.launch c.launchKey).vmid)).stopped = false := by
    rw [hframe c.launchKey, State.func, State.vmidFunc, State.vm, hfuncs, hvmids]
    exact hstopped
  have hold := hcounts hstopped i hi
  dsimp only at hold ⊢
  by_cases hne : i = ctr
  · subst hne
    have hnone : ns.filter (fun x => x.1 == i) = [] := List.filter_eq_nil_iff.2 fun x hx => by simpa using hnew x hx
    rw [hnone] at hold
    simp only [List.filter_cons, beq_self_eq_true, if_true, hnone, List.map_cons, List.map_nil, List.sum_cons, List.sum_nil, Nat.add_zero] at hold ⊢
    by_cases hn : n = 0
    · subst hn
      rw [if_pos rfl, ← hold, Ctx.count, State.count, if_pos (by rfl)]
    · rw [if_neg hn, Ctx.count, count_self hi hn hrun, hold]
  · have hnot : (ctr == i) = false := beq_eq_false_iff_ne.2 (Ne.symm hne)
    simp only [List.filter_cons, hnot, Bool.false_eq_true, if_false]
    rw [Ctx.count, count_ne hi hne, hold]

/-! ### The word -/

/-- The tile, claimed, with the words of the active lanes in it. -/
def accWritten (f : Fields) (c : Ctx) : Tile :=
  Tile.putLanes (laneCell c) (fun l => c.srcA.at l) (lanesOf c.act) ((tileOf c.s c.g.core (tileField f)).claim c.g.team)

theorem exec_accwr_eq (f : Fields) (s : State) : exec (.accwr f) s = .next (issue 0x18A f (fun c => firstTrap [tileCheck c (tileField f)]) noNames
    (fun c => afterTile c (tileField f) fun t =>
      .next (c.count 11 c.lanes (setTile c.s c.g.core (tileField f) (Tile.putLanes (laneCell c) (fun l => c.srcA.at l) (lanesOf c.act) t)))) s
    fun c => fieldsBad [uniformRule c c.opB 3]) := rfl

theorem exec_accwr (h : Calm 0x18A f noNames s c) (hany : c.any = true) (hready : TileReady c (tileField f)) (hB : vectorValued c.g c.b c.opB = false) :
    ∃ t, exec (.accwr f) s = .next t ∧ Passes c t ∧ OnlyTile c t (tileField f) ∧ Counted c t [(11, c.lanes)] ∧
      tileOf t c.g.core (tileField f) = accWritten f c := by
  obtain ⟨g, hsettle, hpasses⟩ := passes_settle (s' := c.count 11 c.lanes (setTile c.s c.g.core (tileField f) (accWritten f c))) h rfl rfl
    (by rw [count_groups]; exact h.group) (by rw [count_tracer]; exact h.tracer)
  obtain ⟨honly, htile⟩ := onlyTile_setTile (n := tileField f) (T := accWritten f c)
    (t := (c.count 11 c.lanes (setTile c.s c.g.core (tileField f) (accWritten f c))).setGroup c.k g)
    (fun j hj => (setGroup_others _ _ _ hj).trans (by rw [count_groups]; rfl)) (by rw [count_launches]; rfl)
  have hcounted : Counted c (setTile c.s c.g.core (tileField f) (accWritten f c)) [] := counted_nil rfl
  refine ⟨_, ?_, hpasses, honly, counted_count hcounted (by decide) (by simp) rfl rfl _, htile⟩
  rw [exec_accwr_eq, issue_calm h (formTrap_eq_none h.form (fieldsBad_eq_false (by simpa [uniformRule] using hB))) (tileCheck_passes hready.1)]
  simp only [afterTile_ready hany hready]
  exact congrArg _ hsettle

end

end Sys2Proof.Machine

namespace Sys2Proof.Machine

open Sys2Proof.Spec

/-! ## Long-latency words that open their window (05, R105, R111) -/

section
variable {f : Fields} {opc : Nat} {names : Ctx → List Nat} {own : Ctx → Nat → Bool} {s u : State} {c : Ctx} {g : Group} {ws : List Window} {w : Window}

theorem map_zipIdx_concat {α β : Type} (φ : α × Nat → β) (xs : List α) (x : α) :
    (xs ++ [x]).zipIdx.map φ = xs.zipIdx.map φ ++ [φ (x, xs.length)] := by
  simp [List.zipIdx_append]

/-- A change of the window after the first ones leaves those. -/
theorem map_zipIdx_last {α : Type} (φ : α → α) (xs : List α) (x : α) :
    ((xs ++ [x]).zipIdx.map fun (y, i) => if i = xs.length then φ y else y) = xs ++ [φ x] := by
  rw [map_zipIdx_concat]
  refine congrArg₂ (· ++ ·) ?_ (congrArg (fun y => [y]) (if_pos rfl))
  refine List.ext_getElem (by simp) fun i hi hi' => ?_
  rw [List.getElem_map, List.getElem_zipIdx]
  exact if_neg (by omega)

/-- LAST frees its names when the window that the word has opened closes (05, R105). -/
theorem frees_of_opened (hg : g.windows = ws ++ [w]) (hfrees : w.frees = []) (fs written : List Nat) (m : LaneMask) :
    (if fs.isEmpty then g
      else if true && decide (ws.length < g.windows.length) then
        { g with windows := g.windows.zipIdx.map fun (w, i) => if i = ws.length then { w with frees := fs } else w }
      else g.freeNames fs written m) = { g with windows := ws ++ [{ w with frees := fs }] } := by
  rw [hg, map_zipIdx_last (fun w : Window => { w with frees := fs })]
  split
  · next h =>
    rw [List.isEmpty_iff.1 h, ← hfrees, ← hg]
  · rw [if_pos (by simp)]

/-- Counting an issue leaves the window that the word itself has opened. -/
theorem countIssue_concat (hg : g.windows = ws ++ [w]) (b : Bool) :
    ∃ vs, vs.length = ws.length ∧ g.countIssue b ws.length = { g with windows := vs ++ [w] } := by
  refine ⟨ws.zipIdx.map fun (w, i) => if w.frozen || ws.length ≤ i then w
      else if b then { w with remB := w.remB.map (· - 1) } else { w with remA := w.remA.map (· - 1) }, by simp, ?_⟩
  unfold Group.countIssue
  rw [if_neg (by simp [hg]), hg, map_zipIdx_concat]
  simp

/-- What a long-latency word leaves of its group `g`, in which it has opened the window `w` behind `ws`. -/
theorem retire_opened (hll : Forms.longLatency c.opc = true) (hn : c.f.never = false) (hcap : g.captured c.b = none)
    (hg : g.windows = ws ++ [w]) (hfrees : w.frees = []) (hdone : NoneDone g.windows) :
    ∃ vs la, vs.length = ws.length ∧
      g.retire c ws.length = Group.marked { g with latch := la, windows := vs ++ [{ w with frees := lastFrees c }] } c := by
  have hfreed := frees_of_opened hg hfrees (lastFrees c) (writtenNames c) c.act
  unfold Group.retire
  simp only [hn, hll, Bool.false_eq_true, if_false]
  rw [hfreed]
  simp only [capture_fresh hcap]
  generalize pushLatch _ _ _ = la
  have hdone' : NoneDone (ws ++ [{ w with frees := lastFrees c }]) := by
    intro x hx
    rw [hg] at hdone
    rcases List.mem_append.1 hx with hx | hx
    · exact hdone x (List.mem_append_left _ hx)
    · rw [List.mem_singleton.1 hx]
      exact hdone w (List.mem_append_right _ (List.mem_singleton_self w))
  obtain ⟨vs, hlen, hcount⟩ := countIssue_concat
    (g := Group.marked { g with latch := la, windows := ws ++ [{ w with frees := lastFrees c }] } c) rfl c.b
  exact ⟨vs, la, hlen, (closeDue_calm (g := Group.countIssue _ c.b ws.length) (countIssue_done
    (g := Group.marked { g with latch := la, windows := ws ++ [{ w with frees := lastFrees c }] } c) _ _ hdone')).trans hcount⟩

/-- The window that a long-latency word opens (05, R111). -/
def openedWindow (c : Ctx) (ds : List WinDest) (tally : List (Nat × Nat)) : Window :=
  { opc := c.opc, remA := if c.b then none else some c.f.la.toNat, remB := if c.b then some c.f.la.toNat else none, done := false, held := 0,
    dests := ds, frees := lastFrees c, tally := tally }

/-- A word that has opened its window moves past itself, and the window stands open last. -/
theorem opens_settle (h : Calm opc f names s c own) (hll : Forms.longLatency opc = true) (ds : List WinDest) (tally : List (Nat × Nat))
    (hu : u.groups.find? c.k = some (c.g.openWindow c.opc c.f.la.toNat c.b ds tally)) (htracer : u.tracer c.g = none) :
    ∃ T, settle c c.s (.next u) = u.setGroup c.k T ∧ Opens c (u.setGroup c.k T) (openedWindow c ds tally) := by
  have hopc := h.opc_eq
  have hdone : NoneDone (c.g.openWindow c.opc c.f.la.toNat c.b ds tally).windows := by
    intro x hx
    rcases List.mem_append.1 hx with hx | hx
    · exact h.windows x hx
    · rw [List.mem_singleton.1 hx]
  obtain ⟨vs, la, hlen, hretire⟩ := retire_opened (c := c) (g := c.g.openWindow c.opc c.f.la.toNat c.b ds tally) (ws := c.g.windows)
    (by rw [hopc]; exact hll) h.never h.fresh rfl rfl hdone
  generalize hR : Group.marked _ c = R at hretire
  have hat : loopAt R c.pc = loopAt c.g c.pc := loopAt_congr (by rw [← hR]; rfl) (by rw [← hR]; rfl) _
  have hslotR (b : Bool) : R.slot b = c.g.slot b := by rw [← hR]; rfl
  obtain ⟨hslot, hother⟩ := advance_slot R c.b c.pc
  have hloops := advance_loops R c.b c.pc
  have hframe := advance_frame R c.b c.pc
  have hloopsR : R.loops = c.g.loops := by rw [← hR]; rfl
  rw [hat, hslotR] at hslot
  rw [hslotR] at hother
  simp only [hat, hloopsR] at hloops
  refine ⟨R.advance c.b c.pc, ?_, ?_⟩
  · rw [← hretire]
    exact settle_untraced hu h.alive htracer
  have hkept : after c (u.setGroup c.k (R.advance c.b c.pc)) = R.advance c.b c.pc := after_setGroup _ _ _
  constructor
  case word => exact ⟨rfl, by cases hb : c.b <;> simp [openedWindow, hb], rfl⟩
  case still => exact ⟨rfl, rfl, rfl⟩
  all_goals rw [hkept]
  case group =>
    rw [OnlyPath, hframe, ← hR]
    rfl
  case regs => rw [hframe, ← hR]; rfl
  case files => rw [hframe, ← hR]; exact ⟨rfl, rfl⟩
  case slot => exact hslot
  case other => exact hother
  case loops => exact hloops
  case stack => rw [hframe, ← hR]; rfl
  case last =>
    have hwindows : (R.advance c.b c.pc).windows = vs ++ [openedWindow c ds tally] := by rw [hframe, ← hR]; rfl
    rw [hwindows]
    exact ⟨List.getLast?_concat, by rw [List.length_append, hlen]; rfl⟩

end

/-! ## `accrd` (09, R219, R221) -/

section
variable {f : Fields} {s : State} {c : Ctx}

/-- The word of each lane's element, +0 where it names none. -/
def accLane (c : Ctx) (t : Tile) (l : Nat) : Word := ((laneCell c l).map fun e => t.elems.getD e 0).getD 0

/-- The lanes whose element is poisoned (15, R341). -/
def accPoisoned (c : Ctx) (t : Tile) : LaneMask := maskOf c.g.width fun l => c.act.getLsbD l && ((laneCell c l).map t.poison.contains).getD false

/-- The group with the window of `accrd` open. -/
def accOpened (f : Fields) (c : Ctx) (s : State) (ds : List WinDest) : State :=
  s.setGroup c.k ((s.group c.k).openWindow c.opc f.la.toNat c.b ds [(11, c.lanes)])

theorem exec_accrd_eq (f : Fields) (s : State) : exec (.accrd f) s = .next (issue 0x189 f (fun c => firstTrap [tileCheck c (tileField f)]) destName
    (fun c => if !c.any then .next (accOpened f c c.s [])
      else afterTile c (tileField f) fun t =>
        if accPoisoned c t != 0 then .trap { c.trap 9 with mask := accPoisoned c t }
        else .next (accOpened f c (setTile c.s c.g.core (tileField f) t) [windowDest c (.lanes c.g.width (accLane c t))])) s
    fun c => fieldsBad [(1, !c.opD.isVec), uniformRule c c.opB 3]) := rfl

theorem lanes_getD (w : Nat) (r : Nat → Word) {l : Nat} (hl : l < w) : (Value.lanes w r).vals.getD l 0 = r l := by
  simp [Value.lanes, List.getD, hl]

theorem maskOf_eq_zero {w : Nat} {p : Nat → Bool} (h : ∀ l, p l = false) : maskOf w p = 0 := by
  apply BitVec.eq_of_getLsbD_eq
  intro l hl
  rw [maskOf_getLsbD _ _ hl, h l, Bool.and_false]
  simp

theorem accPoisoned_eq_zero {t : Tile} (h : ∀ l e, c.act.getLsbD l = true → accCell c l = some e → e ∉ t.poison) : accPoisoned c t = 0 :=
  maskOf_eq_zero fun l => by
    cases hact : c.act.getLsbD l
    · rfl
    · rw [laneCell_eq]
      cases hcell : accCell c l with
      | none => rfl
      | some e => simpa using h l e hact hcell

theorem exec_accrd (h : Calm 0x189 f destName s c) (hany : c.any = true) (hready : TileReady c (tileField f)) (hD : c.opD.isVec = true)
    (hB : vectorValued c.g c.b c.opB = false)
    (hclean : ∀ l e, c.act.getLsbD l = true → accCell c l = some e → e ∉ (tileOf c.s c.g.core (tileField f)).poison) :
    ∃ t, exec (.accrd f) s = .next t ∧ Opens c t (openedWindow c [windowDest c (.lanes c.g.width (accLane c (tileOf c.s c.g.core (tileField f))))]
        [(11, c.lanes)]) ∧
      OnlyTile c t (tileField f) ∧ t.launches = c.s.launches ∧
      tileOf t c.g.core (tileField f) = (tileOf c.s c.g.core (tileField f)).claim c.g.team := by
  obtain ⟨-, -, -, -, hf⟩ := ctx_group h.ctx
  have hown : ∀ n, fieldsBad [(1, !c.opD.isVec), uniformRule c c.opB 3] n = false := fieldsBad_eq_false (by simp [uniformRule, hD, hB])
  have hpoison : accPoisoned c ((tileOf c.s c.g.core (tileField f)).claim c.g.team) = 0 := accPoisoned_eq_zero hclean
  generalize hT : (tileOf c.s c.g.core (tileField f)).claim c.g.team = T at hpoison
  have hlane : accLane c (tileOf c.s c.g.core (tileField f)) = accLane c T := by rw [← hT]; rfl
  rw [hlane]
  generalize hds : [windowDest c (.lanes c.g.width (accLane c T))] = ds
  have hgroup : (setTile c.s c.g.core (tileField f) T).group c.k = c.g := h.group_eq
  have htracer : (setTile c.s c.g.core (tileField f) T).tracer c.g = none := by rw [tracer_setTile, h.tracer]
  obtain ⟨G, hsettle, hopens⟩ := opens_settle (u := accOpened f c (setTile c.s c.g.core (tileField f) T) ds) h rfl ds [(11, c.lanes)]
    (by rw [accOpened, hgroup, hf]; exact Tbl.find?_set_self _ _ _) htracer
  obtain ⟨honly, htile⟩ := onlyTile_setTile (n := tileField f) (T := T)
    (t := (accOpened f c (setTile c.s c.g.core (tileField f) T) ds).setGroup c.k G)
    (fun j hj => (setGroup_others _ _ _ hj).trans (setGroup_others _ _ _ hj)) rfl
  refine ⟨_, ?_, hopens, honly, rfl, htile⟩
  rw [exec_accrd_eq, issue_calm h (formTrap_eq_none h.form hown) (tileCheck_passes hready.1)]
  simp only [hany, Bool.not_true, Bool.false_eq_true, if_false, afterTile_ready hany hready, hT, hpoison, bne_self_eq_false, hds]
  exact congrArg _ hsettle

end

/-! ## The accumulator words (09, R219–R222) -/

theorem accumulators_words : Spec.partAccumulators := by
  intro f s c n old
  have hn : n = tileField f := (tileField_eq f).symm
  clear_value n
  subst hn
  refine ⟨fun h hany hrel howner hqueue => ?_, fun hany hready => ⟨fun h hrel => exec_accz_clear h hany hrel hready, fun h hB hnd => ?_,
    fun h hD hB hclean => ?_⟩⟩
  · obtain ⟨g, hexec, hpasses⟩ := exec_accz_release h hany hrel howner hqueue
    obtain ⟨hmq, htile, hothers⟩ := accReleased_core f c
    have hlaunches : (accReleased f c).launches = c.s.launches := by rw [accReleased_frame]
    have hmem : (accReleased f c).mem = c.s.mem := by rw [accReleased_frame]
    generalize accReleased f c = u at hexec hpasses hmq htile hothers hlaunches hmem
    exact ⟨_, _, hexec, hpasses, hlaunches, hmq, rfl, rfl, rfl, hmem, htile, hothers⟩
  · obtain ⟨t, hexec, hpasses, honly, hcounted, htile⟩ := exec_accwr h hany hready hB
    have hput := Tile.hasPut_putLanes (cell := accCell c) (x := fun l => c.srcA.at l) (t := old.claim c.g.team) hnd (accCells_once c c.act)
    rw [accWritten, funext (laneCell_eq c)] at htile
    rw [← htile] at hput
    exact ⟨t, hexec, hpasses, honly, hcounted, hput.owner, fun l e hl he => hput.named l (mem_lanesOf.2 hl) e he,
      fun e he => hput.kept e fun l hl => he l (mem_lanesOf.1 hl)⟩
  · obtain ⟨t, hexec, hopens, honly, hlaunches, htile⟩ := exec_accrd h hany hready hD hB hclean
    refine ⟨t, _, _, hexec, hopens, honly, hlaunches, htile, rfl, rfl, ?_, rfl, rfl, fun l hl => ?_⟩
    · rw [windowDest, if_pos hD]
    · rw [windowDest, lanes_getD _ _ hl, accLane, laneCell_eq]

end Sys2Proof.Machine

namespace Sys2Proof.Machine

open Sys2Proof.Spec

/-! ## Plain stores in a core's L1 (10, R229; 12, R270, R271, R276, R288) -/

/-- Cells laid later lie over those laid earlier. -/
theorem overlay_append (cs ds : List Host.Cell) (old : Nat → Byte) : overlay (cs ++ ds) old = overlay ds (overlay cs old) := by
  funext a
  simp only [overlay, List.reverse_append, List.find?_append]
  cases ds.reverse.find? fun x => x.1 == a <;> rfl

/-- What a table lists once cells have been listed one after the other. -/
theorem find?_foldl_set_cells (cs : List Host.Cell) (m : Tbl Byte) (a : Nat) :
    Tbl.find? (cs.foldl (fun m x => Tbl.set m x.1 x.2) m) a = ((cs.reverse.find? fun x => x.1 == a).map (·.2)).or (m.find? a) := by
  induction cs generalizing m with
  | nil => rfl
  | cons x cs ih =>
    rw [List.foldl_cons, ih, List.reverse_cons, List.find?_append]
    cases cs.reverse.find? fun x => x.1 == a with
    | some y => rfl
    | none =>
      by_cases hx : x.1 = a
      · subst hx
        simp
      · simp [beq_eq_false_iff_ne.2 hx, Tbl.find?_set_ne _ _ (Ne.symm hx)]

/-- From `s` to `t` core `k` has stored cells, in `n` lines at most, that stay dirty in its L1: its own view of memory has them, every home is as
it was, and besides only what a store moves has changed: waits that it wakes, window words that it makes stale, and the marks of the L1. -/
structure StoredL1 (k : Nat) (s t : State) (n : Nat) (cells : List Host.Cell) : Prop where
  machine : t = { s with groups := t.groups, cores := t.cores, teams := t.teams }
  asleep  : ∀ j, t.group j = { s.group j with wait := (t.group j).wait }
  awake   : ∀ j g, s.groups.find? j = some g → g.wait = .none → t.groups.find? j = some g
  teams   : ∀ j, t.team j = { s.team j with windows := (t.team j).windows }
  others  : ∀ j, j ≠ k → t.core j = s.core j
  core    : t.core k = { s.core k with l1 := (t.core k).l1, l1Poison := (t.core k).l1Poison, misses := (t.core k).misses, logs := (t.core k).logs }
  lines   : (t.core k).misses.length ≤ (s.core k).misses.length + n
  bytes   : t.coreByte k = overlay cells (s.coreByte k)

namespace StoredL1

variable {k n m : Nat} {s t u : State} {cs ds : List Host.Cell}

theorem refl (k : Nat) (s : State) : StoredL1 k s s 0 [] :=
  ⟨rfl, fun _ => rfl, fun _ _ h _ => h, fun _ => rfl, fun _ _ => rfl, rfl, Nat.le_refl _, rfl⟩

theorem trans (h₁ : StoredL1 k s t n cs) (h₂ : StoredL1 k t u m ds) : StoredL1 k s u (n + m) (cs ++ ds) where
  machine := by rw [h₂.machine, h₁.machine]
  asleep j := by rw [h₂.asleep j, h₁.asleep j]
  awake j g hg hw := h₂.awake j g (h₁.awake j g hg hw) hw
  teams j := by rw [h₂.teams j, h₁.teams j]
  others j hj := (h₂.others j hj).trans (h₁.others j hj)
  core := by rw [h₂.core, h₁.core]
  lines := by have := h₁.lines; have := h₂.lines; omega
  bytes := by rw [h₂.bytes, h₁.bytes, overlay_append]

theorem silt (h : StoredL1 k s t n cs) : (t.core k).silt = (s.core k).silt := by rw [h.core]

/-- Room for lines that is there before the store is there after it, but for the lines stored. -/
theorem room (h : StoredL1 k s t n cs) (hroom : (s.core k).lines.length + (s.core k).misses.length + (n + m) ≤ State.l1Lines (s.core k).split) :
    (t.core k).lines.length + (t.core k).misses.length + m ≤ State.l1Lines (t.core k).split := by
  have hlines := h.lines
  have hheld : (t.core k).lines = (s.core k).lines := by rw [h.core]
  have hsplit : (t.core k).split = (s.core k).split := by rw [h.core]
  rw [hheld, hsplit]
  omega

theorem mono (h : StoredL1 k s t n cs) (hn : n ≤ m) : StoredL1 k s t m cs :=
  { h with lines := h.lines.trans (Nat.add_le_add_left hn _) }

end StoredL1

/-! ### Groups and windows that a store reaches -/

/-- What a store of core `k` does to a group that sleeps on a line of its cells (12, R288). -/
def Group.wokenByStore (g : Group) (k : Nat) (cells : List Host.Cell) : Group :=
  match g.wait with
  | .waita w =>
    if !w.sp && !w.notify && g.core == k && cells.any (fun x => lineOf x.1 == lineOf w.place) then { g with wait := .waita { w with woken := true } }
    else g
  | _ => g

theorem Group.wokenByStore_frame (g : Group) (k : Nat) (cells : List Host.Cell) :
    g.wokenByStore k cells = { g with wait := (g.wokenByStore k cells).wait } := by
  unfold wokenByStore
  split
  · split <;> rfl
  · rfl

theorem Group.wokenByStore_awake {g : Group} (h : g.wait = .none) (k : Nat) (cells : List Host.Cell) : g.wokenByStore k cells = g := by
  unfold wokenByStore
  rw [h]

/-- What a store of core `k` does to a team's windows (12, R276). -/
def Team.staleBy (x : Team) (k : Nat) (cells : List Host.Cell) : Team :=
  if x.windows.isEmpty || (x.core != k && x.core + 1 != k) then x else { x with windows := x.windows.map (State.LoamWindow.stale cells) }

theorem Team.staleBy_frame (x : Team) (k : Nat) (cells : List Host.Cell) : x.staleBy k cells = { x with windows := (x.staleBy k cells).windows } := by
  unfold staleBy
  split <;> rfl

namespace State

/-- What a store of core `k` does besides: windows are stale and sleepers wake (12, R276, R288). -/
def seen (s : State) (k : Nat) (cells : List Host.Cell) : State := (s.staleWindows k cells).wakeOwn k cells

theorem seen_eq (s : State) (k : Nat) (cells : List Host.Cell) : s.seen k cells =
    { s with groups := s.groups.mapVals fun _ g => g.wokenByStore k cells, teams := s.teams.mapVals fun _ x => x.staleBy k cells } := rfl

theorem seen_group (s : State) (k : Nat) (cells : List Host.Cell) (j : Nat) : (s.seen k cells).group j = (s.group j).wokenByStore k cells := by
  rw [seen_eq]
  exact Tbl.getD_mapVals (fun _ (g : Group) => g.wokenByStore k cells) s.groups j rfl

theorem seen_team (s : State) (k : Nat) (cells : List Host.Cell) (j : Nat) : (s.seen k cells).team j = (s.team j).staleBy k cells := by
  rw [seen_eq]
  exact Tbl.getD_mapVals (fun _ (x : Team) => x.staleBy k cells) s.teams j rfl

theorem seen_awake {s : State} {j : Nat} {g : Group} (hg : s.groups.find? j = some g) (hw : g.wait = .none) (k : Nat) (cells : List Host.Cell) :
    (s.seen k cells).groups.find? j = some g := by
  rw [seen_eq]
  dsimp only
  rw [Tbl.find?_mapVals, hg, Option.map_some, Group.wokenByStore_awake hw]

end State

/-- A core's own view of a byte goes by its dirty bytes and by the homes. -/
theorem coreByte_eq (s : State) (k : Nat) : s.coreByte k = fun a => (Tbl.find? (s.core k).l1 a).getD (s.homeByte a) := by
  funext a
  unfold State.coreByte
  cases Tbl.find? (s.core k).l1 a <;> rfl

section

variable {k n : Nat} {s : State}

/-- The core with cells among its dirty bytes. -/
def Core.dirtied (x : Core) (cells : List Host.Cell) : Core :=
  { x with l1 := cells.foldl (fun m x => Tbl.set m x.1 x.2) x.l1, l1Poison := x.l1Poison.filter fun w => !cells.any fun x => x.1 / 4 == w }

theorem storedL1_dirtied (s : State) (k : Nat) (cells : List Host.Cell) :
    StoredL1 k s ((s.setCore k ((s.core k).dirtied cells)).seen k cells) 0 cells := by
  have hself : ((s.setCore k ((s.core k).dirtied cells)).seen k cells).core k = (s.core k).dirtied cells := State.setCore_core_self _ _ _
  refine ⟨rfl, fun j => ?_, fun j g hg hw => State.seen_awake hg hw _ _, fun j => ?_, fun j hj => State.setCore_core_ne _ _ hj, ?_, ?_, ?_⟩
  · rw [State.seen_group]
    exact Group.wokenByStore_frame _ _ _
  · rw [State.seen_team]
    exact Team.staleBy_frame _ _ _
  · rw [hself]
    rfl
  · rw [hself]
    exact Nat.le_refl _
  · have hhome (a : Nat) : ((s.setCore k ((s.core k).dirtied cells)).seen k cells).homeByte a = s.homeByte a := rfl
    rw [coreByte_eq, coreByte_eq, hself]
    funext a
    rw [hhome, Core.dirtied, find?_foldl_set_cells, overlay]
    cases (cells.reverse.find? fun x => x.1 == a) <;> rfl

/-- Marks of the L1's lines change no byte. -/
theorem storedL1_marks {x : Core} (hx : x = { s.core k with misses := x.misses, logs := x.logs })
    (hn : x.misses.length ≤ (s.core k).misses.length + n) : StoredL1 k s (s.setCore k x) n [] := by
  have hself := State.setCore_core_self s k x
  refine ⟨rfl, fun _ => rfl, fun _ _ h _ => h, fun _ => rfl, fun j hj => State.setCore_core_ne _ _ hj, ?_, ?_, ?_⟩
  · rw [hself, hx]
  · rw [hself]
    exact hn
  · have hl1 : x.l1 = (s.core k).l1 := by rw [hx]
    rw [coreByte_eq, coreByte_eq, hself, hl1]
    rfl

/-! ### The lines of a store -/

theorem mergeSilt_none {l : Nat} (h : ∀ y ∈ (s.core k).silt, y.line ≠ l) : s.mergeSilt k (fun x => x.line == l) = s := by
  have hnone : (s.core k).silt.filter (fun x => x.line == l) = [] := List.filter_eq_nil_iff.2 fun y hy => by simpa using h y hy
  have hland : s.siltLand k (fun x => x.line == l) = s := by
    rw [State.siltLand]
    simp only [List.filter_reverse, hnone]
    rfl
  rw [State.mergeSilt, hland, hnone]
  rfl

/-- A line that the L1 has room for takes one place at most, and no other line leaves. -/
theorem storedL1_noteLine {l : Nat} (hroom : (s.core k).lines.length + (s.core k).misses.length + 1 ≤ State.l1Lines (s.core k).split) :
    StoredL1 k s (s.noteLine k l) 1 [] := by
  simp only [State.noteLine]
  split
  · exact (StoredL1.refl k s).mono (Nat.zero_le 1)
  · rw [if_pos (by exact hroom)]
    exact storedL1_marks rfl (by simp)

theorem storedL1_logLine (s : State) (k pa : Nat) (log : Option (Nat × Nat)) : StoredL1 k s (s.logLine k pa log) 0 [] := by
  simp only [State.logLine]
  split
  · exact storedL1_marks rfl (Nat.le_refl _)
  · split
    · exact storedL1_marks rfl (Nat.le_refl _)
    · exact .refl k s

/-- A line is made ready for a store: reductions buffered of it go home, the L1 asks for it, and its page is noted where it is logged. -/
def State.readyLine (k first : Nat) (log : Option (Nat × Nat)) (s : State) (l : Nat) : State :=
  ((s.mergeSilt k fun x => x.line == l).noteLine k l).logLine k (max first (128 * l)) (log.map fun x => (x.1, x.2 + (max first (128 * l) - first)))

theorem storeL1_eq (s : State) (k : Nat) (cells : List Host.Cell) (log : Option (Nat × Nat)) : s.storeL1 k cells log =
    (fun u : State => (u.setCore k ((u.core k).dirtied cells)).seen k cells)
      (((cells.map fun x => lineOf x.1).eraseDups).foldl (State.readyLine k (((cells.head?).map Prod.fst).getD 0) log) s) := rfl

theorem storedL1_readyLine {first l : Nat} {log : Option (Nat × Nat)} (hsilt : ∀ y ∈ (s.core k).silt, y.line ≠ l)
    (hroom : (s.core k).lines.length + (s.core k).misses.length + 1 ≤ State.l1Lines (s.core k).split) :
    StoredL1 k s (State.readyLine k first log s l) 1 [] := by
  rw [State.readyLine, mergeSilt_none hsilt]
  exact (storedL1_noteLine hroom).trans (storedL1_logLine _ _ _ _)

theorem storedL1_readyLines {first : Nat} {log : Option (Nat × Nat)} {ls : List Nat} (hsilt : ∀ y ∈ (s.core k).silt, y.line ∉ ls)
    (hroom : (s.core k).lines.length + (s.core k).misses.length + ls.length ≤ State.l1Lines (s.core k).split) :
    StoredL1 k s (ls.foldl (State.readyLine k first log) s) ls.length [] := by
  induction ls generalizing s with
  | nil => exact .refl k s
  | cons l ls ih =>
    rw [List.length_cons] at hroom
    have hfirst : StoredL1 k s (State.readyLine k first log s l) 1 [] :=
      storedL1_readyLine (fun y hy he => hsilt y hy (he ▸ List.mem_cons_self)) (by omega)
    have hrest := ih (s := State.readyLine k first log s l) (fun y hy hin => hsilt y (hfirst.silt ▸ hy) (List.mem_cons_of_mem _ hin))
      (hfirst.room (by omega))
    rw [List.foldl_cons, List.length_cons, Nat.add_comm]
    exact hfirst.trans hrest

/-- A plain store, where the L1 has room for its lines and buffers no reduction of them. -/
theorem storedL1_storeL1 {cells : List Host.Cell} (log : Option (Nat × Nat)) (hsilt : ∀ y ∈ (s.core k).silt, ∀ x ∈ cells, y.line ≠ lineOf x.1)
    (hn : ((cells.map fun x => lineOf x.1).eraseDups).length ≤ n)
    (hroom : (s.core k).lines.length + (s.core k).misses.length + n ≤ State.l1Lines (s.core k).split) :
    StoredL1 k s (s.storeL1 k cells log) n cells := by
  rw [storeL1_eq]
  have hlines : StoredL1 k s (((cells.map fun x => lineOf x.1).eraseDups).foldl (State.readyLine k (((cells.head?).map Prod.fst).getD 0) log) s) _ [] :=
    storedL1_readyLines (fun y hy hin => by
      obtain ⟨x, hx, hline⟩ := List.mem_map.1 (List.mem_eraseDups.1 hin)
      exact hsilt y hy x hx hline.symm) (by omega)
  exact (hlines.trans (storedL1_dirtied _ k cells)).mono hn

end

end Sys2Proof.Machine

namespace Sys2Proof.Machine

open Sys2Proof.Spec

/-! ## Stores of several pieces -/

section

variable {k n : Nat} {s : State}

theorem nodup_eraseDups {α : Type} [DecidableEq α] (xs : List α) : xs.eraseDups.Nodup := by
  induction hlen : xs.length using Nat.strong_induction_on generalizing xs with
  | _ m ih =>
    cases xs with
    | nil => exact List.nodup_nil
    | cons x xs =>
      rw [List.eraseDups_cons, List.nodup_cons]
      refine ⟨fun hx => ?_, ih _ ?_ _ rfl⟩
      · simpa using (List.mem_filter.1 (List.mem_eraseDups.1 hx)).2
      · rw [← hlen, List.length_cons]
        exact Nat.lt_succ_of_le (List.length_filter_le _ _)

theorem mem_linesOf {pa i n : Nat} (hi : i < n) : lineOf (pa + i) ∈ State.linesOf pa n := by
  unfold State.linesOf
  rw [if_neg (by omega)]
  refine List.mem_map.2 ⟨lineOf (pa + i) - lineOf pa, List.mem_range.2 ?_, ?_⟩ <;> unfold lineOf <;> omega

/-- The cells of a piece lie in the piece's lines. -/
theorem line_of_mem_cellsAt_take {x : Host.Cell} {pa n : Nat} {bs : List Byte} (h : x ∈ cellsAt pa (bs.take n)) : lineOf x.1 ∈ State.linesOf pa n := by
  obtain ⟨i, hi, hx⟩ := exists_of_mem_cellsAt_take h
  rw [hx]
  exact mem_linesOf hi

theorem length_lines_le (pa n : Nat) (bs : List Byte) :
    (((cellsAt pa (bs.take n)).map fun x => lineOf x.1).eraseDups).length ≤ (State.linesOf pa n).length := by
  refine ((nodup_eraseDups _).subperm fun l hl => ?_).length_le
  obtain ⟨x, hx, rfl⟩ := List.mem_map.1 (List.mem_eraseDups.1 hl)
  exact line_of_mem_cellsAt_take hx

/-- The cells of a piece of memory for the bytes from an offset on. -/
def pieceCells (bytes : List Byte) (x : (Nat × Nat × Option Nat) × (Nat × Nat × Nat)) : List Host.Cell :=
  cellsAt x.1.1 ((bytes.drop x.2.2.2).take x.1.2.1)

/-- Core `k` stores the bytes of a piece, logged by function `fn` where its page is logged. -/
def storePiece (k fn : Nat) (bytes : List Byte) (s : State) (x : (Nat × Nat × Option Nat) × (Nat × Nat × Nat)) : State :=
  s.storeL1 k (pieceCells bytes x) (x.1.2.2.map fun ipa => (fn, ipa))

theorem storedL1_pieces (fn : Nat) (bytes : List Byte) {ps : List (Nat × Nat × Option Nat)} (qs : List (Nat × Nat × Nat))
    (hsilt : ∀ p ∈ ps, ∀ y ∈ (s.core k).silt, y.line ∉ State.linesOf p.1 p.2.1)
    (hroom : (s.core k).lines.length + (s.core k).misses.length + (ps.map fun p => (State.linesOf p.1 p.2.1).length).sum ≤
      State.l1Lines (s.core k).split) :
    StoredL1 k s ((ps.zip qs).foldl (storePiece k fn bytes) s) (ps.map fun p => (State.linesOf p.1 p.2.1).length).sum
      ((ps.zip qs).flatMap (pieceCells bytes)) := by
  induction ps generalizing s qs with
  | nil => exact .refl k s
  | cons p ps ih =>
    cases qs with
    | nil => exact (StoredL1.refl k s).mono (Nat.zero_le _)
    | cons q qs =>
      rw [List.map_cons, List.sum_cons] at hroom ⊢
      have hfirst : StoredL1 k s (storePiece k fn bytes s (p, q)) (State.linesOf p.1 p.2.1).length (pieceCells bytes (p, q)) :=
        storedL1_storeL1 _ (fun y hy x hx he => hsilt p List.mem_cons_self y hy (he ▸ line_of_mem_cellsAt_take hx)) (length_lines_le _ _ _) (by omega)
      exact hfirst.trans (ih qs (fun p hp y hy => hsilt p (List.mem_cons_of_mem _ hp) y (hfirst.silt ▸ hy)) (hfirst.room hroom))

end

/-! ## `accst` (09, R223) -/

section

variable {f : Fields} {s : State} {c : Ctx}

/-- The tile of an `accst`. -/
def accstTile (f : Fields) : Nat := f.fnBits 6 4

theorem accstTile_eq (f : Fields) : accstTile f = f.fn.toNat / 16 % 8 := by simp [accstTile, Fields.fnBits, bitsOf_eq]

/-- The bytes of the tile, row by row. -/
def accstBytes (f : Fields) (t : Tile) : List Byte :=
  (List.range 8192).flatMap fun e => toBytes (accstWidth f.type) (accstPat f.type (t.elems.getD e 0))

/-- The tile is the team's, and the place that a held `accst` of the group kept in the queue is given up. -/
def accstClaimed (f : Fields) (c : Ctx) : State :=
  let t := setTile c.s c.g.core (accstTile f) ((tileOf c.s c.g.core (accstTile f)).claim c.g.team)
  t.setCore c.g.core { t.core c.g.core with mq := (here c).mq.filter fun e => !ownHeld c.k e }

/-- The pieces of memory of the rows that `accst` stores. -/
def accstRows (f : Fields) (c : Ctx) : List (Nat × Nat × Nat) := accstPieces (pairValue c c.opA) (c.srcB.at 0).toNat (accstWidth f.type)

/-- The tile is stored over the places `ps`. -/
def accstStored (f : Fields) (c : Ctx) (ps : List (Nat × Nat × Option Nat)) : State :=
  (ps.zip (accstRows f c)).foldl
    (storePiece c.g.core (c.s.vmidFunc c.launch.vmid) (accstBytes f (tileOf c.s c.g.core (accstTile f)))) (accstClaimed f c)

/-- An `accst` may store at once: its group is whole, its tile ready and clean, its operands legal, its rows translate to `ps`, and nothing there
stops it or makes it wait (09, R223). -/
structure AccstRuns (f : Fields) (c : Ctx) (ps : List (Nat × Nat × Option Nat)) : Prop where
  whole   : Whole c
  ready   : TileReady c (accstTile f)
  clean   : (tileOf c.s c.g.core (accstTile f)).poison = []
  pair    : c.opA.isScalar = true ∧ c.opA.index ≤ 58 ∧ c.opA.index % 2 = 0
  pitch   : vectorValued c.g c.b c.opB = false
  aligned : pairValue c c.opA % 16 = 0 ∧ (c.srcB.at 0).toNat % 16 = 0 ∧ 128 * accstWidth f.type ≤ (c.srcB.at 0).toNat
  places  : c.s.intervals c.g.core c.asid .write ((accstRows f c).map fun p => (p.1, p.2.1)) = .ok ps
  walked  : c.s.walkedAll c.g.core c.asid ((accstRows f c).map (·.1)) = c.s
  left    : ∀ p ∈ ps, ∀ r, c.s.rangeOf p.1 = some r → r.2.exhausted = false
  free    : ∀ p ∈ ps, c.s.rangeBlocked (some c.g.core) p.1 p.2.1 = false ∧ (p.2.2 = none ∨ c.s.logHolds (c.s.vmidFunc c.launch.vmid) = false)

theorem who_calm {opc : Nat} {names : Ctx → List Nat} {own : Ctx → Nat → Bool} (h : Calm opc f names s c own) :
    (c.s.who c.k).asid = c.asid ∧ (c.s.who c.k).vmid = c.launch.vmid := by
  simp only [State.who, h.group_eq]
  exact ⟨rfl, rfl⟩

theorem exec_accst_settles (h : Calm 0x18B f noNames s c) (hany : c.any = true) {ps : List (Nat × Nat × Option Nat)} (hruns : AccstRuns f c ps) :
    exec (.accst f) s = .next (settle c c.s (.next (c.count 11 1 (c.count 13 (8192 * accstWidth f.type) (accstStored f c ps))))) := by
  obtain ⟨⟨hconverged, hact⟩, hready, hpoison, ⟨hA, hindex, heven⟩, hB, ⟨haddr, hpitch, hwide⟩, hplaces, hwalked, hleft, hfree⟩ := hruns
  obtain ⟨hasid, hvmid⟩ := who_calm h
  have hown : ∀ n, fieldsBad [(2, !(c.opA.isScalar && decide (c.opA.index ≤ 58) && c.opA.index % 2 == 0)), uniformRule c c.opB 3] n = false :=
    fieldsBad_eq_false (by simp [uniformRule, hA, hindex, heven, hB])
  have hchecks : firstTrap [wholeGroup c, tileCheck c (accstTile f)] = none := by
    simp [firstTrap, wholeGroup, hconverged, hact, tileCheck, tileForeign_eq_false hready.1]
  have hfit : (pairValue c c.opA % 16 != 0 || (c.srcB.at 0).toNat % 16 != 0 || decide ((c.srcB.at 0).toNat < 128 * accstWidth f.type)) = false := by
    simp [haddr, hpitch, hwide]
  have hstay : c.walked ((accstRows f c).map (·.1)) = c := by rw [Ctx.walked, hwalked]
  have hexhausted : (ps.any fun p => ((c.s.rangeOf p.1).map (·.2.exhausted)).getD false) = false := List.any_eq_false.2 fun p hp => by
    cases hr : c.s.rangeOf p.1 with
    | none => simp
    | some r => simp [hleft p hp r hr]
  have hblocked : (ps.any fun p => c.s.rangeBlocked (some c.g.core) p.1 p.2.1) = false := List.any_eq_false.2 fun p hp => by simp [(hfree p hp).1]
  have hlogs : ((ps.any fun p => p.2.2.isSome) && c.s.logHolds (c.s.vmidFunc c.launch.vmid)) = false := by
    rw [Bool.and_eq_false_imp, List.any_eq_true]
    rintro ⟨p, hp, hsome⟩
    rcases (hfree p hp).2 with hnone | hheld
    · rw [hnone] at hsome
      cases hsome
    · exact hheld
  rw [accstRows] at hplaces hstay
  change execAccst f s = _
  rw [execAccst, issue_calm h (formTrap_eq_none h.form hown) hchecks, ← accstTile, afterTile_ready hany hready]
  have hclean : ((tileOf c.s c.g.core (accstTile f)).claim c.g.team).poison.isEmpty = true := by rw [Tile.claim, hpoison]; rfl
  simp only [hfit, hstay, hasid, hvmid, hplaces, hexhausted, hblocked, hlogs, hclean, Bool.not_true, Bool.false_eq_true, if_false]
  rfl

theorem accstClaimed_frame (f : Fields) (c : Ctx) : accstClaimed f c = { c.s with cores := (accstClaimed f c).cores } := rfl

theorem core_accstClaimed (f : Fields) (c : Ctx) : (accstClaimed f c).core c.g.core = { here c with
    tiles := (here c).tiles.set (accstTile f) ((tileOf c.s c.g.core (accstTile f)).claim c.g.team), mq := (here c).mq.filter fun e => !ownHeld c.k e } := by
  rw [accstClaimed, State.setCore_core_self, core_setTile_self]
  rfl

theorem core_accstClaimed_ne (f : Fields) (c : Ctx) {j : Nat} (h : j ≠ c.g.core) : (accstClaimed f c).core j = c.s.core j :=
  (State.setCore_core_ne _ _ h).trans (State.setCore_core_ne _ _ h)

end

/-! ## Words that store -/

theorem StoredL1.tracer {k n : Nat} {s t : State} {cs : List Host.Cell} (h : StoredL1 k s t n cs) (g : Group) : t.tracer g = s.tracer g := by
  have hlaunch (l : Nat) : t.launch l = s.launch l := by rw [h.machine]; rfl
  have hfunc (v : Nat) : t.func v = s.func v := by rw [h.machine]; rfl
  have hvmid (v : Nat) : t.vmidFunc v = s.vmidFunc v := by rw [h.machine]; rfl
  have hteam : (t.team g.team).launch = (s.team g.team).launch ∧ (t.team g.team).teamid = (s.team g.team).teamid := by
    rw [h.teams]
    exact ⟨rfl, rfl⟩
  simp only [State.tracer, hteam.1, hteam.2, hlaunch, hfunc, hvmid]

section

variable {opc : Nat} {f : Fields} {names : Ctx → List Nat} {own : Ctx → Nat → Bool} {s u v w : State} {c : Ctx} {n : Nat} {cells : List Host.Cell}

/-- A word whose store, metered as `w`, is all its effect but for its own core's marks moves past itself. -/
theorem passes_stored (h : Calm opc f names s c own) (hll : Forms.longLatency opc = false) (hd : (roles opc f).d = false)
    (hu : u = { c.s with cores := u.cores }) (hv : StoredL1 c.g.core u v n cells) (hw : w = { v with launches := w.launches })
    (htracer : w.tracer c.g = v.tracer c.g) :
    ∃ g, settle c c.s (.next w) = w.setGroup c.k g ∧ Passes c (w.setGroup c.k g) ∧ OnlyWoken c (w.setGroup c.k g) ∧
      (w.setGroup c.k g).mem = c.s.mem ∧ (w.setGroup c.k g).bdq = c.s.bdq ∧ (∀ j, (w.setGroup c.k g).core j = v.core j) ∧
      (w.setGroup c.k g).coreByte c.g.core = overlay cells (u.coreByte c.g.core) := by
  have hfind : w.groups.find? c.k = some c.g := by
    rw [hw]
    exact hv.awake c.k c.g (by rw [hu]; exact h.group) h.awake
  have huntraced : w.tracer c.g = none := by
    rw [htracer, hv.tracer, hu, ← h.tracer]
    rfl
  obtain ⟨g, hsettle, hpasses⟩ := passes_settle h hll hd hfind huntraced
  refine ⟨g, hsettle, hpasses, fun j hj => ?_, ?_, ?_, fun j => ?_, ?_⟩
  · have hkept : (w.setGroup c.k g).group j = v.group j := by
      rw [State.group, Tbl.getD, setGroup_others _ _ _ hj, hw]
      rfl
    rw [hkept, hv.asleep j, hu]
    rfl
  · change w.mem = _
    rw [hw, hv.machine, hu]
  · change w.bdq = _
    rw [hw, hv.machine, hu]
  · change w.core j = _
    rw [hw]
    rfl
  · rw [← hv.bytes, hw]
    rfl

theorem counted_setGroup {ns : List (Nat × Nat)} (h : Counted c w ns) (k : Nat) (g : Group) : Counted c (w.setGroup k g) ns := h

end

end Sys2Proof.Machine

namespace Sys2Proof.Machine

open Sys2Proof.Spec

section

variable {f : Fields} {s : State} {c : Ctx} {ps : List (Nat × Nat × Option Nat)}

theorem accstWidth_eq (t : Nat) : accstWidth t = if t = 8 ∨ t = 0 then 4 else 2 := by simp [accstWidth]

/-- The pattern of an element goes by the width that its type has in memory. -/
theorem accstPat_eq (t : Nat) (x : Word) :
    accstPat t x = if accstWidth t = 4 then x.toNat else Float.convert .rne Float.f32 (Float.ofType t) x.toNat := by
  simp only [accstPat, accstWidth]
  split <;> rfl

theorem coreByte_accstClaimed (f : Fields) (c : Ctx) : (accstClaimed f c).coreByte c.g.core = c.s.coreByte c.g.core := by
  have hl1 : ((accstClaimed f c).core c.g.core).l1 = (c.s.core c.g.core).l1 := by rw [core_accstClaimed]; rfl
  have hhome (a : Nat) : (accstClaimed f c).homeByte a = c.s.homeByte a := by rw [accstClaimed_frame]; rfl
  simp only [coreByte_eq, hl1, hhome]

/-- The L1 has room for every line of the places, and buffers no reduction of them. -/
theorem storedL1_accst (hsilt : ∀ p ∈ ps, ∀ y ∈ (here c).silt, y.line ∉ State.linesOf p.1 p.2.1)
    (hroom : Spec.Room c (ps.map fun p => (State.linesOf p.1 p.2.1).length).sum) :
    StoredL1 c.g.core (accstClaimed f c) (accstStored f c ps) (ps.map fun p => (State.linesOf p.1 p.2.1).length).sum
      ((ps.zip (accstRows f c)).flatMap (pieceCells (accstBytes f (tileOf c.s c.g.core (accstTile f))))) := by
  refine storedL1_pieces _ _ _ ?_ ?_ <;> rw [core_accstClaimed]
  · exact hsilt
  · exact hroom

/-- What an `accst` that may store at once leaves (09, R223; 11, R246). -/
theorem exec_accst (h : Calm 0x18B f noNames s c) (hany : c.any = true) (hruns : AccstRuns f c ps)
    (hsilt : ∀ p ∈ ps, ∀ y ∈ (here c).silt, y.line ∉ State.linesOf p.1 p.2.1)
    (hroom : Spec.Room c (ps.map fun p => (State.linesOf p.1 p.2.1).length).sum) :
    ∃ t, exec (.accst f) s = .next t ∧ Passes c t ∧ OnlyWoken c t ∧ t.mem = c.s.mem ∧ t.bdq = c.s.bdq ∧
      (∀ j, j ≠ c.g.core → t.core j = c.s.core j) ∧
      tileOf t c.g.core (accstTile f) = (tileOf c.s c.g.core (accstTile f)).claim c.g.team ∧
      Counted c t [(11, 1), (13, 8192 * accstWidth f.type)] ∧
      t.coreByte c.g.core = overlay ((ps.zip (accstRows f c)).flatMap (pieceCells (accstBytes f (tileOf c.s c.g.core (accstTile f)))))
        (c.s.coreByte c.g.core) := by
  have hexec := exec_accst_settles h hany hruns
  have hstored := storedL1_accst (f := f) hsilt hroom
  generalize accstStored f c ps = v at hexec hstored
  have hframe : v = { c.s with groups := v.groups, cores := v.cores, teams := v.teams } := by rw [hstored.machine, accstClaimed_frame]
  have hcounted : Counted c (c.count 11 1 (c.count 13 (8192 * accstWidth f.type) v)) [(11, 1), (13, 8192 * accstWidth f.type)] := by
    have hnone : Counted c v [] := counted_nil (by rw [hframe])
    have hbytes := counted_count (ctr := 13) hnone (by decide) (by simp) (by rw [hframe]) (by rw [hframe]) (8192 * accstWidth f.type)
    exact counted_count hbytes (by decide) (by simp) (by rw [count_launches, hframe]) (by rw [count_launches, hframe]) 1
  have hmetered : c.count 11 1 (c.count 13 (8192 * accstWidth f.type) v) =
      { v with launches := (c.count 11 1 (c.count 13 (8192 * accstWidth f.type) v)).launches } := by
    rw [count_launches c 11, count_launches c 13]
  have htracer : (c.count 11 1 (c.count 13 (8192 * accstWidth f.type) v)).tracer c.g = v.tracer c.g := by rw [count_tracer, count_tracer]
  generalize c.count 11 1 (c.count 13 (8192 * accstWidth f.type) v) = w at hexec hcounted hmetered htracer
  obtain ⟨g, hsettle, hpasses, hwoken, hmem, hbdq, hcores, hbyte⟩ := passes_stored h rfl rfl (accstClaimed_frame f c) hstored hmetered htracer
  rw [hsettle] at hexec
  refine ⟨_, hexec, hpasses, hwoken, hmem, hbdq, fun j hj => ?_, ?_, counted_setGroup hcounted _ _, ?_⟩
  · rw [hcores, hstored.others j hj, core_accstClaimed_ne _ _ hj]
  · rw [tileOf, hcores, hstored.core, core_accstClaimed, Tbl.getD_set_self]
  · rw [hbyte, coreByte_accstClaimed]

end

theorem accumulators_store : Spec.partAccumulatorStore := by
  intro f s c h hany hwhole n w addr pitch old pat bytes fn hready hpoison hA hindex heven hB haddr hpitch hwide ps hps hwalked hleft hfree hsilt hroom
  have hn : n = accstTile f := (accstTile_eq f).symm
  have hw : w = accstWidth f.type := (accstWidth_eq f.type).symm
  clear_value w n
  subst hn hw
  have hbytes : bytes = accstBytes f old := by
    refine congrArg (fun φ => (List.range 8192).flatMap φ) (funext fun e => ?_)
    rw [accstPat_eq]
  obtain ⟨t, hexec, hpasses, hwoken, hmem, hbdq, hcores, htile, hcounted, hbyte⟩ := exec_accst h hany
    ⟨hwhole, hready, hpoison, ⟨hA, hindex, heven⟩, hB, ⟨haddr, hpitch, hwide⟩, hps, hwalked, hleft, hfree⟩ hsilt hroom
  refine ⟨t, hexec, hpasses, hwoken, hmem, hbdq, hcores, htile, hcounted, fun a => ?_⟩
  rw [hbytes, hbyte]
  rfl

/-- Settles O26: the words on a ready tile by `accumulators_words`, the store of a whole tile by what its plain stores leave (`StoredL1`). -/
theorem accumulators : Obligations.Accumulators := ⟨accumulators_words, accumulators_store⟩

end Sys2Proof.Machine

namespace Sys2Proof.Machine

/-! ## The memory of the base dies stays canonical (10, R229, R233)

Only a write or an atomic that reaches a base die, a range that is enabled or disabled, and boot change the memory of the base dies: of every
other function of the state, one lemma says that it leaves `mem` as it was, in the order of the model's definitions. -/

@[simp] theorem State.ite_mem {p : Prop} [Decidable p] (s t : State) : (if p then s else t).mem = if p then s.mem else t.mem := apply_ite _ _ _ _

@[simp] theorem State.ite_fst_mem {α : Type} {p : Prop} [Decidable p] (s t : State × α) :
    (if p then s else t).1.mem = if p then s.1.mem else t.1.mem := apply_ite (fun x : State × α => x.1.mem) _ _ _

@[simp] theorem State.foldl_mem {α : Type} {f : State → α → State} (hf : ∀ s x, (f s x).mem = s.mem) (xs : List α) (s : State) :
    (xs.foldl f s).mem = s.mem := by
  induction xs generalizing s with
  | nil => rfl
  | cons x xs ih => exact (ih _).trans (hf s x)

@[simp] theorem State.foldl_fst_mem {α β : Type} {f : State × β → α → State × β} (hf : ∀ p x, (f p x).1.mem = p.1.mem) (xs : List α)
    (p : State × β) : (xs.foldl f p).1.mem = p.1.mem := by
  induction xs generalizing p with
  | nil => rfl
  | cons x xs ih => exact (ih _).trans (hf p x)

theorem State.getD_mem {m : List Host.Cell} {o : Option State} {s : State} (hs : s.mem = m) (ho : ∀ t, o = some t → t.mem = m) :
    (o.getD s).mem = m := by
  cases o with
  | none => exact hs
  | some t => exact ho t rfl

/-- What a pair's first part is known of holds of the state that the pair was found to be. -/
theorem State.mem_of_fst {α : Type} {m : List Host.Cell} {p : State × α} {t : State} {a : α} (hp : p.1.mem = m) (h : p = (t, a)) : t.mem = m := by
  rwa [h] at hp

/-- The memory of the base dies is `m` in whatever state an instruction's entry answers. -/
def Res.MemIs (m : List Host.Cell) : Res → Prop
  | .next s => s.mem = m
  | .goto s _ => s.mem = m
  | .moved s => s.mem = m
  | .trap _ => True
  | .wait s _ => s.mem = m
  | .stay s => s.mem = m

/-- The same of a stack operation, of an arrival, of an engine's read and of a counter's step. -/
def StackOp.MemIs (m : List Host.Cell) : StackOp → Prop
  | .ok s _ => s.mem = m
  | _ => True

def Arrival'.MemIs (m : List Host.Cell) : Arrival' → Prop
  | .ok s _ => s.mem = m
  | .stop _ s _ _ => s.mem = m

def EngineRead.MemIs (m : List Host.Cell) : EngineRead → Prop
  | .waits s => s.mem = m
  | .fault s _ _ => s.mem = m
  | .ok s _ => s.mem = m

def ReadA.MemIs (m : List Host.Cell) : ReadA → Prop
  | .waits s => s.mem = m
  | .fault _ _ => True
  | .ok s _ _ _ _ => s.mem = m

def Bump.MemIs (m : List Host.Cell) : Bump → Prop
  | .waits s => s.mem = m
  | .fault s _ => s.mem = m
  | .ok s => s.mem = m

theorem EngineRead.MemIs.of_eq {m : List Host.Cell} {x y : EngineRead} (hx : x.MemIs m) (h : x = y) : y.MemIs m := h ▸ hx

@[simp] theorem State.send_mem (s : State) (pa : Nat) (req : BdReq) (bad : List Nat) : (s.send pa req bad).mem = s.mem :=
  (State.keepsRest_send _ _ _ _).mem

@[simp] theorem State.healLine_mem (s : State) (cells : List Host.Cell) (bad : List Nat) : (s.healLine cells bad).mem = s.mem :=
  (State.keepsRest_healLine _ _ _).mem

@[simp] theorem State.strikeWindows_mem (s : State) (owner : Option Nat) (cells : List Host.Cell) : (s.strikeWindows owner cells).mem = s.mem :=
  (State.keepsRest_strikeWindows _ _ _).mem

@[simp] theorem State.sendInvals_mem (s : State) (from_ : Option Nat) (cells : List Host.Cell) : (s.sendInvals from_ cells).mem = s.mem :=
  (State.keepsRest_sendInvals _ _ _).mem

@[simp] theorem State.wakeSleepers_mem (s : State) (cells : List Host.Cell) : (s.wakeSleepers cells).mem = s.mem :=
  (State.keepsRest_wakeSleepers _ _).mem

@[simp] theorem State.homeLand_mem (s : State) (from_ owner : Option Nat) (cells : List Host.Cell) (bad : List Nat) :
    (s.homeLand from_ owner cells bad).mem = s.mem :=
  (State.keepsRest_homeLand _ _ _ _ _).mem

@[simp] theorem State.noteBlock_mem (s : State) (fn ipa n : Nat) : (s.noteBlock fn ipa n).mem = s.mem := (State.keepsRest_noteBlock _ _ _ _).mem

@[simp] theorem State.noteBlocks_mem (a : Nat) (s : State) (b c d : Nat) : (State.noteBlocks a s b c d).mem = s.mem :=
  (State.keepsRest_noteBlocks _ _ _ _ _).mem

@[simp] theorem State.noteLog_mem (s : State) (fn ipa n : Nat) : (s.noteLog fn ipa n).mem = s.mem := (State.keepsRest_noteLog _ _ _ _).mem

@[simp] theorem State.noteCore_mem (s : State) (c line : Nat) (cells : List Host.Cell) : (s.noteCore c line cells).mem = s.mem :=
  (State.keepsRest_noteCore _ _ _ _).mem

@[simp] theorem State.flushLand_mem (s : State) (c : Nat) (p : Nat → Bool) : (s.flushLand c p).mem = s.mem := (State.keepsRest_flushLand _ _ _).mem

@[simp] theorem State.sendAtom_mem (s : State) (pa op : Nat) (float signed : Bool) (x : Word) (cells : List Host.Cell) :
    (s.sendAtom pa op float signed x cells).mem = s.mem := by rfl

@[simp] theorem State.wordLand_mem (s : State) (line : SiltLine) (i : Nat) (x : Word) : (s.wordLand line i x).mem = s.mem :=
  (State.keepsRest_wordLand _ _ _ _).mem

@[simp] theorem State.registerNarrow_mem (s : State) (c line : Nat) : (s.registerNarrow c line).mem = s.mem :=
  (State.keepsRest_registerNarrow _ _ _).mem

@[simp] theorem State.siltLand_mem (s : State) (c : Nat) (p : SiltLine → Bool) : (s.siltLand c p).mem = s.mem :=
  (State.keepsRest_siltLand _ _ _).mem

@[simp] theorem State.publishLand_mem (s : State) (c : Nat) : (s.publishLand c).mem = s.mem := (State.keepsRest_publishLand _ _).mem

@[simp] theorem State.lineLand_mem (s : State) (line : Nat) : (s.lineLand line).mem = s.mem := (State.keepsRest_lineLand _ _).mem

@[simp] theorem State.readLine_mem (s : State) (line : Nat) : (s.readLine line).mem = s.mem := (State.keepsRest_readLine _ _).mem

@[simp] theorem State.counterMet_mem (s : State) (lines : List Nat) (got : Bool) (place : Option Nat) (value : Nat) :
    (s.counterMet lines got place value).1.mem = s.mem :=
  (State.keepsRest_counterMet _ _ _ _ _).mem

@[simp] theorem State.noteCounters_mem (s : State) (lines : List Nat) : (s.noteCounters lines).mem = s.mem := (State.keepsRest_noteCounters _ _).mem

@[simp] theorem State.homeWrite_mem (s : State) (from_ owner : Option Nat) (cells : List Host.Cell) (bad : List Nat) :
    (s.homeWrite from_ owner cells bad).mem = s.mem :=
  (State.keepsRest_homeWrite _ _ _ _ _).mem

@[simp] theorem State.homeWrites_mem (s : State) (from_ owner : Option Nat) (cells : List Host.Cell) : (s.homeWrites from_ owner cells).mem = s.mem :=
  (State.keepsRest_homeWrites _ _ _ _).mem

@[simp] theorem State.mergeLine_mem (s : State) (line : Nat) : (s.mergeLine line).mem = s.mem := (State.keepsRest_mergeLine _ _).mem

@[simp] theorem State.touch_mem (s : State) (line : Nat) : (s.touch line).mem = s.mem := by
  simp [touch]

@[simp] theorem State.touchAll_mem (s : State) (as : List Nat) : (s.touchAll as).mem = s.mem := (State.keepsRest_touchAll _ _).mem

@[simp] theorem State.walked2_mem (s : State) (vmid ipa : Nat) : (s.walked2 vmid ipa).mem = s.mem := by
  simp [walked2]

@[simp] theorem State.walkedFunc_mem (s : State) (f ipa : Nat) : (s.walkedFunc f ipa).mem = s.mem := (State.keepsRest_walkedFunc _ _ _).mem

@[simp] theorem State.ringWalked_mem (s : State) (fn : Nat) (at_ : Nat → Nat) (n : Nat) : (s.ringWalked fn at_ n).mem = s.mem :=
  (State.keepsRest_ringWalked _ _ _ _).mem

theorem State.ringWrite_mem {s t : State} {fn : Nat} {at_ : Nat → Nat} {bs : List Byte} (h : s.ringWrite fn at_ bs = some t) : t.mem = s.mem :=
  (State.keepsRest_ringWrite h).mem

@[simp] theorem State.logError_mem (s : State) (r : ErrorRec) : (s.logError r).mem = s.mem := by
  unfold logError
  dsimp only
  split
  · rfl
  · split
    · rfl
    · split
      · rfl
      · next h => exact (ringWrite_mem h :)

@[simp] theorem State.coreError_mem (s : State) (core : Nat) (poison : Bool) : (s.coreError core poison).mem = s.mem := by
  simp [coreError]

@[simp] theorem State.corrected_mem (s : State) (r : ErrorRec) : (s.corrected r).mem = s.mem := by
  simp [corrected]

@[simp] theorem State.upset_mem (s : State) (a : Upset) : (s.upset a).mem = s.mem := by
  unfold upset
  dsimp only
  repeat' split
  all_goals simp

@[simp] theorem State.updateFlash_mem (s : State) (image : List (List Byte)) (version : Nat) : (s.updateFlash image version).mem = s.mem := by rfl

@[simp] theorem State.setSched_mem (s : State) (core i : Nat) (x : Sched) : (s.setSched core i x).mem = s.mem := by rfl

@[simp] theorem State.applyDue_mem (s : State) (core i : Nat) (e : Nat × Nat) : (s.applyDue core i e).mem = s.mem := by
  unfold applyDue
  dsimp only
  repeat' split
  all_goals simp

@[simp] theorem State.endCycle_mem (s : State) (core i : Nat) : (s.endCycle core i).mem = s.mem := by
  simp [endCycle]

@[simp] theorem State.endCycles_mem (s : State) : (s.endCycles).mem = s.mem := by
  simp [endCycles]

@[simp] theorem State.elapse_mem (s : State) (n : Nat) : (s.elapse n).mem = s.mem := by
  simp [elapse]

@[simp] theorem State.beginReset_mem (s : State) (n cause : Nat) : (s.beginReset n cause).mem = s.mem := by
  simp [beginReset]

@[simp] theorem State.postReq_mem (s : State) (n q : Nat) (r : WorkReq) : (s.postReq n q r).mem = s.mem := by rfl

@[simp] theorem sendRun_mem (s : State) (h : Nat) : (sendRun s h).mem = s.mem := by
  unfold sendRun
  dsimp only
  repeat' split
  all_goals simp

@[simp] theorem sendMarl_mem (s : State) (h : Nat) (req : BdReq) : (sendMarl s h req).mem = s.mem := by rfl

@[simp] theorem marlAdvance_mem (s : State) (h : Nat) : (marlAdvance s h).mem = s.mem := by
  unfold marlAdvance
  dsimp only
  repeat' split
  all_goals simp

@[simp] theorem marlStop_mem (s : State) (h : Nat) : (marlStop s h).mem = s.mem := by rfl

@[simp] theorem State.joinSched_mem (s : State) (k : Nat) : (s.joinSched k).mem = s.mem := by
  simp [joinSched]

theorem State.traceBytes_mem {s t : State} {fn : Nat} {bs : List Byte} (h : s.traceBytes fn bs = some t) : t.mem = s.mem :=
  (State.keepsRest_traceBytes h).mem

@[simp] theorem State.emit_mem (s : State) (g after : Group) (r : List Byte) : (s.emit g after r).mem = s.mem := (State.keepsRest_emit _ _ _ _).mem

@[simp] theorem State.traceMasks_mem (s : State) (before after : Group) : (s.traceMasks before after).mem = s.mem :=
  (State.keepsRest_traceMasks _ _ _).mem

@[simp] theorem State.leaveSched_mem (s : State) (k : Nat) : (s.leaveSched k).mem = s.mem := by rfl

@[simp] theorem writeImage_mem (s : State) (fn : Nat) (place : Option (Nat × Nat)) (bs : List Byte) (off : Nat) :
    (writeImage s fn place bs off).mem = s.mem := by
  unfold writeImage
  split
  · rfl
  · exact State.getD_mem rfl fun _ => State.ringWrite_mem

@[simp] theorem spillGroup_mem (s : State) (k : Nat) : (spillGroup s k).mem = s.mem := by
  simp [spillGroup]

@[simp] theorem State.spillIfShort_mem (s : State) (k : Nat) : (s.spillIfShort k).mem = s.mem := by
  simp [spillIfShort]

@[simp] theorem closePass_mem (s : State) (l : Nat) : (closePass s l).mem = s.mem := by
  unfold closePass
  simp only [State.setLaunch_mem]
  rw [State.foldl_mem fun _ _ => State.setTeam_mem _ _ _]
  refine State.foldl_mem (fun s x => ?_) _ _
  repeat' split
  all_goals simp

@[simp] theorem State.logFullSet_mem (s : State) (fn : Nat) : (s.logFullSet fn).mem = s.mem := by rfl

theorem spillsHeld_mem {s t : State} (l : Nat) (h : t.mem = s.mem) : (spillsHeld s l t).mem = s.mem := by
  simp [spillsHeld, h]

@[simp] theorem State.count_mem (s : State) (l i n : Nat) : (s.count l i n).mem = s.mem := by
  simp [count]

@[simp] theorem State.traceStop_mem (s : State) (g : Group) (x : Nat) : (s.traceStop g x).mem = s.mem := by
  simp [traceStop]

@[simp] theorem State.startWait_mem (s : State) (c : Ctx) (w : Wait) (n : Nat) : (s.startWait c w n).mem = s.mem := rfl

@[simp] theorem State.closeLog_mem (s : State) (fn : Nat) : (s.closeLog fn).mem = s.mem := by
  simp [closeLog]

@[simp] theorem State.narrowRelease_mem (s : State) (c : Nat) : (s.narrowRelease c).mem = s.mem := by
  simp [narrowRelease]

@[simp] theorem State.flushBytes_mem (s : State) (c : Nat) (p : Nat → Bool) : (s.flushBytes c p).mem = s.mem := by
  simp [flushBytes]

@[simp] theorem State.flushAll_mem (s : State) (c : Nat) : (s.flushAll c).mem = s.mem := (State.keepsRest_flushAll _ _).mem

@[simp] theorem State.setWindow_mem (s : State) (t i : Nat) (f : LoamWindow → LoamWindow) : (s.setWindow t i f).mem = s.mem := by rfl

@[simp] theorem State.mergeSilt_mem (s : State) (c : Nat) (p : SiltLine → Bool) : (s.mergeSilt c p).mem = s.mem := by
  simp [mergeSilt]

@[simp] theorem State.flushLine_mem (s : State) (c line : Nat) : (s.flushLine c line).mem = s.mem := by
  simp [flushLine]

@[simp] theorem State.writeBack_mem (s : State) (by_ t i : Nat) : (s.writeBack by_ t i).mem = s.mem := by
  unfold writeBack
  simp only [count_mem, setWindow_mem]
  refine foldl_mem (fun s j => ?_) _ _
  simp only [registerNarrow_mem, homeWrite_mem]
  rw [foldl_mem fun _ _ => by simp]
  split <;> simp

@[simp] theorem State.writeBackAll_mem (s : State) (by_ t : Nat) : (s.writeBackAll by_ t).mem = s.mem := by
  simp [writeBackAll]

@[simp] theorem State.release?_mem (s : State) (w : Who) (wide sys : Bool) : (s.release? w wide sys).1.mem = s.mem := by
  simp [release?]

theorem afterRelease_memIs {m : List Host.Cell} {c : Ctx} (hc : c.s.mem = m) (wide sys : Bool) (stall : Nat) {k : State → Res}
    (hk : ∀ s, s.mem = m → (k s).MemIs m) : (afterRelease c wide sys stall k).MemIs m := by
  have hrelease := State.release?_mem c.s (c.s.who c.k) wide sys
  unfold afterRelease
  split <;> rename_i h <;> rw [h, hc] at hrelease
  · exact hk _ hrelease
  · exact hrelease

theorem arriveNow_memIs {m : List Host.Cell} {c : Ctx} (hc : c.s.mem = m) (id : Nat) {k : State → Barrier → Res}
    (hk : ∀ s b, s.mem = m → (k s b).MemIs m) : (arriveNow c id k).MemIs m := by
  unfold arriveNow
  dsimp only
  split
  · trivial
  · exact afterRelease_memIs hc _ _ _ fun s hs => hk _ _ hs

@[simp] theorem State.swapOut_mem (s : State) (k : Nat) : (s.swapOut k).mem = s.mem := by
  simp [swapOut]

@[simp] theorem State.swapWaiting_mem (s : State) (k : Nat) : (s.swapWaiting k).mem = s.mem := by
  simp [swapWaiting]

@[simp] theorem waitHere_mem (c : Ctx) (s : State) (n : Nat) : (waitHere c s n).mem = s.mem := by
  simp [waitHere]

@[simp] theorem State.endLaunch_mem (s : State) (l status : Nat) : (s.endLaunch l status).mem = s.mem := by
  simp [endLaunch]

@[simp] theorem State.takeTrap_mem (s : State) (k : Nat) (i : TrapInfo) : (s.takeTrap k i).mem = s.mem := by
  simp [takeTrap]

@[simp] theorem State.traceIssue_mem (s : State) (before after : Group) (b any : Bool) : (s.traceIssue before after b any).mem = s.mem := by
  unfold traceIssue
  repeat' split
  all_goals simp

@[simp] theorem State.retireGroup_mem (s : State) (c : Ctx) (f : Group → Group) : (s.retireGroup c f).mem = s.mem := by
  unfold retireGroup
  split <;> simp

/-- An instruction that is settled leaves the memory of the base dies as its entry left it. -/
theorem settle_mem {m : List Host.Cell} {c : Ctx} {s : State} {r : Res} (hs : s.mem = m) (hr : r.MemIs m) : (settle c s r).mem = m := by
  cases r <;> simp only [settle, Res.MemIs] at hr ⊢
  case stay => split <;> simp [hs, hr]
  all_goals simp [hs, hr]

@[simp] theorem State.waitCtx_mem (s : State) (k : Nat) : (s.waitCtx k).s.mem = s.mem := rfl

theorem State.endWait_mem (s : State) (k : Nat) {run : Ctx → Res} (hrun : ∀ c, c.s.mem = s.mem → (run c).MemIs s.mem) :
    (s.endWait k run).mem = s.mem := by
  have hsettled := settle_mem (c := s.waitCtx k) (s.waitCtx_mem k) (hrun _ (s.waitCtx_mem k))
  simp only [endWait, ite_mem, setGroup_mem, hsettled, ite_self]

@[simp] theorem arriveNext_mem (s : State) (id k : Nat) : (arriveNext s id k).mem = s.mem := by
  refine s.endWait_mem k fun c hc => arriveNow_memIs hc _ fun t b ht => ?_
  split
  · exact ht
  · exact ht

@[simp] theorem State.release_mem (s : State) (k : Nat) : (s.release k).mem = s.mem := s.endWait_mem k fun _ hc => hc

@[simp] theorem State.publish_mem (s : State) (c : Nat) : (s.publish c).mem = s.mem := by
  simp [publish]

@[simp] theorem completeBarrier_mem (s : State) (t id : Nat) : (completeBarrier s t id).mem = s.mem := by
  unfold completeBarrier
  dsimp only
  repeat' split
  all_goals simp

@[simp] theorem testPhases_mem (n : Nat) (s : State) (t id : Nat) : (testPhases n s t id).mem = s.mem := by
  induction n generalizing s with
  | zero => rfl
  | succ n ih => rw [testPhases, State.ite_mem, ih, completeBarrier_mem, ite_self]

@[simp] theorem testBarrier_mem (s : State) (t id : Nat) : (testBarrier s t id).mem = s.mem := by
  simp [testBarrier]

@[simp] theorem testBarriers_mem (s : State) (t : Nat) : (testBarriers s t).mem = s.mem := State.foldl_mem (fun s i => testBarrier_mem s t i) _ _

@[simp] theorem State.resetWindows_mem (s : State) (t : Nat) : (s.resetWindows t).mem = s.mem := by
  simp [resetWindows]

@[simp] theorem State.wakeScratch_mem (s : State) (k off n : Nat) : (s.wakeScratch k off n).mem = s.mem := by rfl

@[simp] theorem State.zeroScratch_mem (s : State) (t : Nat) : (s.zeroScratch t).mem = s.mem := by
  simp [zeroScratch]

@[simp] theorem writeAncestors_mem (s : State) (l : Nat) (c : Commit) (olds : List Nat) : (writeAncestors s l c olds).mem = s.mem := by
  refine State.foldl_fst_mem (fun p x => ?_) _ _
  dsimp only
  split <;> simp

@[simp] theorem endCommit_mem (s : State) (l : Nat) (c : Commit) : (endCommit s l c).mem = s.mem := by
  simp [endCommit]
  rw [State.foldl_mem fun _ _ => State.setGroup_mem _ _ _]
  split <;> simp

@[simp] theorem ancestorWaits_mem (s : State) (l : Nat) (c : Commit) : (ancestorWaits s l c).1.mem = s.mem := by
  simp [ancestorWaits]

@[simp] theorem State.report_mem (s : State) (fn : Nat) (r : FaultRec) : (s.report fn r).1.mem = s.mem := by rfl

@[simp] theorem State.hold_mem (s : State) (fn : Nat) (r : FaultRec) (at_ : HeldAt) : (s.hold fn r at_).1.mem = s.mem := by rfl

@[simp] theorem ancestorFault_mem (s : State) (l : Nat) (x : XFault) (addr : Nat) : (ancestorFault s l x addr).mem = s.mem := by rfl

@[simp] theorem State.walked_mem (s : State) (core asid va : Nat) : (s.walked core asid va).mem = s.mem := by
  simp [walked]

@[simp] theorem State.walkedAll_mem (s : State) (core asid : Nat) (vas : List Nat) : (s.walkedAll core asid vas).mem = s.mem := by
  simp [walkedAll]

@[simp] theorem trapArrived_mem (s : State) (l : Nat) (info : TrapInfo) : (trapArrived s l info).mem = s.mem := by
  simp [trapArrived]

@[simp] theorem beginCommit_mem (s : State) (l : Nat) : (beginCommit s l).mem = s.mem := by
  unfold beginCommit
  dsimp only
  repeat' split
  all_goals simp

@[simp] theorem State.spWrite_mem (s : State) (k off : Nat) (bs : List Byte) : (s.spWrite k off bs).mem = s.mem := by rfl

@[simp] theorem State.markWindow_mem (s : State) (k off n : Nat) : (s.markWindow k off n).mem = s.mem := by
  refine foldl_mem (fun s o => ?_) _ _
  split <;> simp

@[simp] theorem State.spStore_mem (s : State) (k off : Nat) (bs : List Byte) : (s.spStore k off bs).mem = s.mem := by
  simp [spStore]

@[simp] theorem setHead_mem (s : State) (core : Nat) (c : CopyCmd) : (setHead s core c).mem = s.mem := by rfl

@[simp] theorem holdCopy_mem (s : State) (core : Nat) (c : CopyCmd) (x : XFault) (access addr : Nat) :
    (holdCopy s core c x access addr).mem = s.mem := by rfl

@[simp] theorem writeKaolin_mem (s : State) (core team off : Nat) (bs : List (Byte × Bool)) : (writeKaolin s core team off bs).mem = s.mem := by rfl

@[simp] theorem takeLine_mem (s : State) (line : Nat) : (takeLine s line).mem = s.mem := by
  simp [takeLine]

@[simp] theorem writePiece_mem (s : State) (core fn : Nat) (c : CopyCmd) (bs : List (Byte × Bool)) (a : Piece) :
    (writePiece s core fn c bs a).mem = s.mem := by
  unfold writePiece
  repeat' split
  all_goals simp

@[simp] theorem writePieces_mem (s : State) (core fn : Nat) (c : CopyCmd) (bs : List (Byte × Bool)) (ps : List Piece) :
    (writePieces s core fn c bs ps).mem = s.mem := by
  simp [writePieces]

@[simp] theorem State.spPublish_mem (s : State) (c k off n : Nat) : (s.spPublish c k off n).mem = s.mem := by
  simp [spPublish]

@[simp] theorem settleLine_mem (s : State) (core line : Nat) : (settleLine s core line).mem = s.mem := by
  simp [settleLine]

@[simp] theorem targetWaits_mem (s : State) (core fn : Nat) (c : CopyCmd) (ps : List Piece) : (targetWaits s core fn c ps).1.mem = s.mem := by
  refine State.foldl_fst_mem (fun p x => ?_) _ _
  cases x <;> simp

@[simp] theorem State.askFill_mem (s : State) (k off n : Nat) : (s.askFill k off n).1.mem = s.mem := by
  refine foldl_fst_mem (fun p o => ?_) _ _
  dsimp only
  split <;> simp

@[simp] theorem sourceWaits_mem (s : State) (core : Nat) (ps : List Piece) : (sourceWaits s core ps).1.mem = s.mem := by
  refine State.foldl_fst_mem (fun p x => ?_) _ _
  cases x <;> simp

@[simp] theorem copyWalked_mem (s : State) (core : Nat) (c : CopyCmd) (rs : List (Nat × Nat)) : (copyWalked s core c rs).mem = s.mem := by
  simp [copyWalked]

@[simp] theorem reply_mem (s : State) (p : BdPacket) (data : List Byte) (poison : List Nat) (granule : Nat) (dirty : Bool) :
    (reply s p data poison granule dirty).mem = s.mem := by rfl

@[simp] theorem State.dirtyCells_mem (s : State) (cells : List Host.Cell) : (s.dirtyCells cells).mem = s.mem := by
  simp [dirtyCells]

@[simp] theorem replaceAtoms_mem (s : State) (cells : List Host.Cell) : (replaceAtoms s cells).mem = s.mem := by rfl

@[simp] theorem exhaust_mem (s : State) (n : Nat) : (exhaust s n).mem = s.mem := by rfl

@[simp] theorem countChunk_mem (s : State) (n chunk : Nat) : (countChunk s n chunk).mem = s.mem := by
  simp [countChunk]

@[simp] theorem landed_mem (s : State) (cells : List Host.Cell) : (landed s cells).mem = s.mem := by
  simp only [landed, replaceAtoms_mem, State.dirtyCells_mem]
  refine State.foldl_mem (fun s c => ?_) _ _
  split <;> simp

@[simp] theorem meetErrors_mem (s : State) (atom : Nat) : (meetErrors s atom).mem = s.mem := by
  simp [meetErrors]

@[simp] theorem markPoison_mem (bad : List Nat) (s : State) : (markPoison bad s).mem = s.mem := by
  simp [markPoison]

@[simp] theorem dropEntry_mem (s : State) (core serial : Nat) : (dropEntry s core serial).mem = s.mem := by rfl

@[simp] theorem setTile_mem (s : State) (core n : Nat) (t : Tile) : (setTile s core n t).mem = s.mem := by rfl

@[simp] theorem restoreGroup_mem (s : State) (k : Nat) : (restoreGroup s k).mem = s.mem := by
  unfold restoreGroup
  dsimp only
  repeat' split
  all_goals simp

@[simp] theorem spillUntil_mem (core k need fuel : Nat) (s : State) : (spillUntil core k need fuel s).mem = s.mem := by
  induction fuel generalizing s with
  | zero => rfl
  | succ fuel ih =>
    unfold spillUntil
    repeat' split
    all_goals simp [ih]

@[simp] theorem State.forgetLaunch_mem (s : State) (k : Nat) : (s.forgetLaunch k).mem = s.mem := by rfl

@[simp] theorem State.engineWalked_mem (s : State) (asid : Nat) (ps : List (Nat × Nat)) : (s.engineWalked asid ps).mem = s.mem := by
  simp [engineWalked]

@[simp] theorem State.setStage_mem (s : State) (l : Nat) (st : Stage) : (s.setStage l st).mem = s.mem := by rfl

@[simp] theorem recordFinal_mem (s : State) (q index : Nat) : (recordFinal s q index).mem = s.mem := by rfl

@[simp] theorem finalSteps_recordFinalOf_mem (s : State) (k : Nat) : (finalSteps.recordFinalOf s k).mem = s.mem := by
  simp [finalSteps.recordFinalOf]

@[simp] theorem State.engineWriteAt_mem (s : State) (fn : Nat) (ps : List (Nat × Nat × Option Nat)) (bs : List Byte) :
    (s.engineWriteAt fn ps bs).1.mem = s.mem := by
  have hfold := foldl_fst_mem (f := fun (acc : State × List Byte) (p : Nat × Nat × Option Nat) =>
      let s := match p.2.2 with | some ipa => acc.1.noteLog fn ipa p.2.1 | none => acc.1
      (((linesOf p.1 p.2.1).foldl mergeLine s).homeWrites none none (cellsAt p.1 (acc.2.take p.2.1)), acc.2.drop p.2.1))
    (fun acc p => by
      simp only [homeWrites_mem]
      rw [foldl_mem fun _ _ => mergeLine_mem _ _]
      split <;> simp) ps (s, bs)
  unfold engineWriteAt
  split
  · rfl
  · split
    · simp
    · exact hfold

@[simp] theorem finalWrite_mem (s : State) (l : Launch) (addr : Nat) (bs : List Byte) (access : Nat) (at_ : HeldAt) :
    (finalWrite s l addr bs access at_).1.mem = s.mem := by
  unfold finalWrite
  dsimp only
  repeat' split
  all_goals simp

theorem appendReport_mem {s t : State} {r : ReportReq} {n : Nat} (h : appendReport s r n = some t) : t.mem = s.mem := by
  unfold appendReport at h
  dsimp only at h
  split at h
  · cases h
  · obtain ⟨u, hu, rfl⟩ := Option.map_eq_some_iff.mp h
    rw [← State.ringWrite_mem hu]
    exact (State.ite_mem _ _).trans (ite_self _)

@[simp] theorem reportFull_mem (s : State) : (reportFull s).mem = s.mem := by rfl

theorem State.engineRead_memIs (s : State) (asid va n : Nat) : (s.engineRead asid va n).MemIs s.mem := by
  have hlines (ps : List (Nat × Nat × Option Nat)) (u : State) :
      (ps.foldl (fun s p => (linesOf p.1 p.2.1).foldl (fun s l => (s.mergeLine l).readLine l) s) u).mem = u.mem :=
    foldl_mem (fun s p => foldl_mem (fun s l => by simp) _ _) _ _
  unfold engineRead
  dsimp only
  split
  · exact engineWalked_mem _ _ _
  · split
    · exact engineWalked_mem _ _ _
    · exact (hlines _ _).trans (engineWalked_mem _ _ _)

@[simp] theorem finalSteps_mem (fuel : Nat) (s : State) (k : Nat) : (finalSteps fuel s k).mem = s.mem := by
  induction fuel generalizing s with
  | zero => rfl
  | succ fuel ih =>
    have hwrite {u t : State} {l : Launch} {a : Nat} {bs : List Byte} {acc : Nat} {h : HeldAt} {b : Bool}
        (hf : finalWrite u l a bs acc h = (t, b)) : t.mem = u.mem := State.mem_of_fst (finalWrite_mem ..) hf
    unfold finalSteps
    dsimp only
    split
    · repeat' split
      · simp [ih]
      · simp
      · simp
      · next h => simpa [ih] using appendReport_mem h
    · split
      · rfl
      · split
        · next h => exact hwrite h
        · next h => simpa [ih] using hwrite h
    · split
      · simp [ih]
      · split
        · rfl
        · split
          · simp
          · have hread := State.engineRead_memIs (s.closeLog (s.vmidFunc (s.launch k).vmid)) (s.launch k).asid (s.launch k).record.sigAddr 8
            rw [State.closeLog_mem] at hread
            split <;> rename_i h <;> rw [h] at hread
            · exact hread
            · exact (State.hold_mem _ _ _ _).trans hread
            · split <;> rename_i h
              · exact (hwrite h).trans hread
              · simpa [ih] using (hwrite h).trans hread
    · split <;> simp

@[simp] theorem takeSplit_mem (s : State) (core split : Nat) : (takeSplit s core split).mem = s.mem := by
  simp [takeSplit]

@[simp] theorem placeTeam_mem (s : State) (l teamid : Nat) (sp : Spot) (block : Nat) : (placeTeam s l teamid sp block).mem = s.mem := by
  simp [placeTeam]

@[simp] theorem placeTeams_mem (l : Nat) (sps : List Spot) (s : State) (t : Nat) : (placeTeams l sps s t).mem = s.mem := by
  induction sps generalizing s t with
  | nil => rfl
  | cons sp sps ih => simp [placeTeams, ih]

@[simp] theorem setCursor_mem (s : State) (part cursor : Nat) : (setCursor s part cursor).mem = s.mem := by rfl

@[simp] theorem checkHeads_mem (fuel : Nat) (s : State) (q : Nat) : (checkHeads fuel s q).mem = s.mem := by
  induction fuel generalizing s with
  | zero => rfl
  | succ fuel ih =>
    unfold checkHeads
    repeat' split
    all_goals simp [ih]

@[simp] theorem nextHead_mem (s : State) (q : Nat) : (nextHead s q).mem = s.mem := by
  simp [nextHead]

@[simp] theorem chooseEvicted_mem (s : State) (ts : List Nat) : (chooseEvicted s ts).mem = s.mem :=
  State.foldl_mem (fun _ _ => State.setTeam_mem _ _ _) _ _

@[simp] theorem State.traceReturn_mem (s : State) (fn : Nat) : (s.traceReturn fn).mem = s.mem := by
  unfold traceReturn
  extract_lets f gap bs
  clear_value gap bs
  split
  · rfl
  · split
    · rfl
    · next h => exact (State.setFunc_mem _ _ _).trans (traceBytes_mem h)

@[simp] theorem drainReports_mem (fuel : Nat) (s : State) : (drainReports fuel s).mem = s.mem := by
  induction fuel generalizing s with
  | zero => rfl
  | succ fuel ih =>
    unfold drainReports
    split
    · rfl
    · split
      · exact reportFull_mem s
      · next h => rw [ih]; exact (appendReport_mem h :)

@[simp] theorem State.tlbiDone_mem (s : State) (x : Tlbi) : (s.tlbiDone x).mem = s.mem := by rfl

@[simp] theorem State.dropTlb_mem (s : State) (x : Tlbi) : (s.dropTlb x).mem = s.mem := by rfl

theorem State.ctx_state {s : State} {opc : Nat} {f : Fields} {c : Ctx} (h : s.ctx opc f = some c) : c.s = s := by
  obtain ⟨g, -, rfl⟩ := Option.map_eq_some_iff.1 h
  rfl

/-- An instruction leaves the memory of the base dies as its entry does. -/
theorem issue_mem (opc : Nat) (f : Fields) (checks : Ctx → Option TrapInfo) (names : Ctx → List Nat) {run : Ctx → Res} (s : State)
    (own : Ctx → Nat → Bool) (hrun : ∀ c, c.s.mem = s.mem → (run c).MemIs s.mem) : (issue opc f checks names run s own).mem = s.mem := by
  unfold issue
  split
  · rfl
  · next c hc =>
    have hs : c.s.mem = s.mem := by rw [State.ctx_state hc]
    repeat' split
    · simp
    · simp
    · exact settle_mem rfl rfl
    · simp
    · exact settle_mem rfl rfl
    · simp
    · exact settle_mem rfl (hrun c hs)

theorem haltAfter_memIs {m : List Host.Cell} {c : Ctx} (hc : c.s.mem = m) : (haltAfter c).MemIs m := hc

@[simp] theorem State.wakeSlot_mem (s : State) (q : Nat) : (s.wakeSlot q).mem = s.mem := by rfl

@[simp] theorem State.testOverrun_mem (s : State) (q : Nat) : (s.testOverrun q).mem = s.mem := by
  simp [testOverrun]

@[simp] theorem State.dropNotify_mem (s : State) : (s.dropNotify).mem = s.mem := by rfl

@[simp] theorem State.notify_mem (s : State) (vmid q value : Nat) : (s.notify vmid q value).mem = s.mem := by
  simp [notify]

@[simp] theorem State.holdGroup_mem (s : State) (k : Nat) (r : FaultRec) (replay : Replay) : (s.holdGroup k r replay).mem = s.mem := by rfl

theorem holdWhole_memIs {m : List Host.Cell} (c : Ctx) {s : State} (hs : s.mem = m) (x : XFault) (access addr : Nat) :
    (holdWhole c s x access addr).MemIs m := by
  simp [holdWhole, Res.MemIs, hs]

@[simp] theorem Ctx.walked_mem (c : Ctx) (vas : List Nat) : (c.walked vas).s.mem = c.s.mem := by
  simp [Ctx.walked]

theorem writeBackRange_memIs {m : List Host.Cell} {c : Ctx} (hc : c.s.mem = m) {k : State → List (Nat × Nat) → State}
    (hk : ∀ s rs, s.mem = m → (k s rs).mem = m) : (writeBackRange c k).MemIs m := by
  unfold writeBackRange
  dsimp only
  repeat' split
  · exact hc
  · simpa [Res.MemIs] using hc
  · exact hk _ _ (by simpa using hc)

theorem giveResult_memIs {m : List Host.Cell} {c : Ctx} (hc : c.s.mem = m) (v : Value) : (giveResult c v).MemIs m := by
  unfold giveResult
  split <;> exact hc

@[simp] theorem State.returnTrap_mem (s : State) (k : Nat) : (s.returnTrap k).mem = s.mem := by
  unfold returnTrap
  dsimp only
  repeat' split
  all_goals simp

theorem queryWord_memIs {m : List Host.Cell} {c : Ctx} (hc : c.s.mem = m) (x : Word) (tally : List (Nat × Nat)) : (queryWord c x tally).MemIs m := hc

@[simp] theorem Ctx.count_mem (c : Ctx) (i n : Nat) (s : State) : (c.count i n s).mem = s.mem := State.count_mem _ _ _ _

@[simp] theorem State.holdSpill_mem (s : State) (k : Nat) (b : Bool) (opc : Nat) (f : Fields) (x : XFault) (a : Access) (j : Nat)
    (capture : Option Capture) :
    
    (s.holdSpill k b opc f x a j capture).mem = s.mem := by rfl

theorem stackFails_memIs {m : List Host.Cell} {c : Ctx} (hc : c.s.mem = m) (x : StackOp) : (stackFails c x).MemIs m := by
  cases x <;> simp [stackFails, Res.MemIs, hc]

@[simp] theorem testGbar_mem (s : State) (l : Nat) : (testGbar s l).mem = s.mem := by
  simp [testGbar]

@[simp] theorem State.staleWindows_mem (s : State) (c : Nat) (cells : List Host.Cell) : (s.staleWindows c cells).mem = s.mem := by rfl

@[simp] theorem State.wakeOwn_mem (s : State) (c : Nat) (cells : List Host.Cell) : (s.wakeOwn c cells).mem = s.mem := by rfl

@[simp] theorem State.logLine_mem (s : State) (c pa : Nat) (log : Option (Nat × Nat)) : (s.logLine c pa log).mem = s.mem := by
  unfold logLine
  repeat' split
  all_goals simp

@[simp] theorem State.noteLine_mem (s : State) (c line : Nat) : (s.noteLine c line).mem = s.mem := by
  unfold noteLine
  repeat' split
  all_goals simp

@[simp] theorem State.storeL1_mem (s : State) (c : Nat) (cells : List Host.Cell) (log : Option (Nat × Nat)) :
    (s.storeL1 c cells log).mem = s.mem := by
  simp [storeL1]

@[simp] theorem State.spillWrite_mem (s : State) (g : Group) (j e : Nat) : (s.spillWrite g j e).mem = s.mem := by
  unfold spillWrite
  repeat' split
  all_goals simp

@[simp] theorem shiftDown_mem (s : State) (g : Group) (n j : Nat) : (shiftDown s g n j).mem = s.mem := by
  induction n generalizing s j with
  | zero => rfl
  | succ n ih =>
    unfold shiftDown
    split <;> simp [ih]

theorem StackOp.MemIs.of_ok {m : List Host.Cell} {x : StackOp} {t : State} {g : Group} (hx : x.MemIs m) (h : x = .ok t g) : t.mem = m := by
  rwa [h] at hx

theorem spillFault_memIs {m : List Host.Cell} {s : State} {g : Group} {xs : List (Access × Nat)} {x : StackOp} (h : spillFault s g xs = some x) :
    x.MemIs m := by
  obtain ⟨a, -, ha⟩ := List.exists_of_findSome?_eq_some h
  split at ha <;> cases ha
  trivial

theorem spillFault_getD_memIs {m : List Host.Cell} (s : State) (g : Group) (xs : List (Access × Nat)) {x : StackOp} (hx : x.MemIs m) :
    ((spillFault s g xs).getD x).MemIs m := by
  cases h : spillFault s g xs with
  | none => exact hx
  | some y => exact spillFault_memIs h

theorem removeEntry_memIs (s : State) (g : Group) (i : Nat) : (removeEntry s g i).MemIs s.mem := by
  have hshift (xs : List (Access × Nat)) (n j : Nat) (g' : Group) : ((spillFault s g xs).getD (.ok (shiftDown s g n j) g')).MemIs s.mem :=
    spillFault_getD_memIs _ _ _ (shiftDown_mem _ _ _ _)
  unfold removeEntry
  dsimp only
  split
  · trivial
  · split
    · split
      · split
        · trivial
        · split
          · next h => exact spillFault_memIs h
          · split <;> trivial
      · rfl
    · split
      · trivial
      · exact hshift _ _ _ _

theorem popThen_memIs (s : State) (before g : Group) (b : Bool) (i : Nat) {k : State → Group → Arrival'}
    (hk : ∀ t g, t.mem = s.mem → (k t g).MemIs s.mem) : (popThen s before g b i k).MemIs s.mem := by
  have hremove := removeEntry_memIs s g i
  unfold popThen
  split
  · next h => rw [h] at hremove; exact hk _ _ hremove
  · rfl

theorem joinNow_memIs (s : State) (before g : Group) (b : Bool) {k : State → Group → Arrival'}
    (hk : ∀ t g, t.mem = s.mem → (k t g).MemIs s.mem) : (joinNow s before g b k).MemIs s.mem := by
  unfold joinNow
  repeat' split
  · rfl
  · exact popThen_memIs _ _ _ _ _ fun t g ht => hk _ _ ht
  · rfl

theorem arrive_memIs {m : List Host.Cell} (gone : Bool) (fuel : Nat) {s : State} (hs : s.mem = m) (g : Group) (b : Bool) :
    (arrive gone fuel s g b).MemIs m := by
  induction fuel generalizing s g b with
  | zero => exact hs
  | succ fuel ih =>
    subst hs
    unfold arrive
    dsimp only
    split
    · rfl
    · split
      · rfl
      · rfl
      · split
        · exact joinNow_memIs _ _ _ _ fun t g ht => ih ht _ _
        · split
          · rfl
          · exact popThen_memIs _ _ _ _ _ fun t g ht => by split <;> exact ih ht _ _

theorem exitLanes_memIs {m : List Host.Cell} {c : Ctx} {s : State} (hc : c.s.mem = m) (hs : s.mem = m) (lanes : LaneMask) :
    (exitLanes c s lanes).MemIs m := by
  unfold exitLanes
  extract_lets g m' g₁ g₂ sl owned act dorm g₃ g₄ g₅

  split
  · exact (State.setGroup_mem _ _ _).trans hs
  · have harrive := arrive_memIs true g₅.arriveFuel hs g₅ c.b
    cases h : arrive true g₅.arriveFuel s g₅ c.b <;> rw [h] at harrive
    · simp only [Res.MemIs, State.ite_mem, testGbar_mem, testBarriers_mem, State.setGroup_mem, ite_self]
      exact harrive
    · exact stackFails_memIs hc _

@[simp] theorem State.fillWord_mem (s : State) (t : Team) (k off pa : Nat) : (s.fillWord t k off pa).mem = s.mem := by
  simp [fillWord]

@[simp] theorem State.bindPiece_mem (s : State) (t : Nat) (p : Nat × Nat) : (s.bindPiece t p).1.mem = s.mem := by
  refine foldl_fst_mem (fun q x => foldl_fst_mem (fun q j => ?_) _ _) _ _
  have hpublish (cs : List Nat) (s : State) : (cs.foldl (fun s c => s.publish c) s).mem = s.mem := foldl_mem (fun s c => s.publish_mem c) _ _
  dsimp only
  split <;> simp [hpublish]

@[simp] theorem State.writeLock_mem (s : State) (k va pa x : Nat) : (s.writeLock k va pa x).mem = s.mem := by
  unfold writeLock
  dsimp only
  repeat' split
  all_goals simp

@[simp] theorem State.rangesWalked_mem (s : State) (core asid : Nat) (rs : List (Nat × Nat)) : (s.rangesWalked core asid rs).mem = s.mem := by
  simp [rangesWalked]

@[simp] theorem State.grantLock_mem (s : State) (k pa : Nat) (h : Holding) : (s.grantLock k pa h).1.mem = s.mem := by
  simp [grantLock]

@[simp] theorem State.passLock_mem (s : State) (k va pa : Nat) : (s.passLock k va pa).mem = s.mem := by
  unfold passLock
  dsimp only
  repeat' split
  all_goals simp

@[simp] theorem State.dropLock_mem (s : State) (k pa va : Nat) : (s.dropLock k pa va).mem = s.mem := by
  simp [dropLock]

theorem Res.memIs_ite {m : List Host.Cell} {p : Prop} [Decidable p] {r r' : Res} (hr : r.MemIs m) (hr' : r'.MemIs m) :
    (if p then r else r').MemIs m := by
  split
  · exact hr
  · exact hr'

theorem lockRequest_memIs {m : List Host.Cell} {c : Ctx} (hc : c.s.mem = m)
    {granted : State → Nat → Res} {refused : State → Nat → Holding → Res}
    (hgranted : ∀ s n, s.mem = m → (granted s n).MemIs m) (hrefused : ∀ s pa h, s.mem = m → (refused s pa h).MemIs m) :
    (lockRequest c granted refused).MemIs m := by
  have hwalked (va : Nat) : (if va % 64 = 0 then c.walked [va] else c).s.mem = m := by split <;> simp [hc]
  generalize hf : lockRequest = f
  delta lockRequest at hf
  subst hf
  beta_reduce
  extract_lets va c' fn
  obtain ⟨d, hd, hdc⟩ : ∃ d : Ctx, d.s.mem = m ∧ d = c' := ⟨_, hwalked va, rfl⟩
  rw [← hdc]
  split
  · exact holdWhole_memIs _ hd _ _ _
  · next y _ =>
    extract_lets s₁ s₂ found s₃
    have hs₃ : s₃.mem = m := by simpa [s₃, s₂, s₁] using hd
    split
    · exact hd
    · split
      · exact (State.logFullSet_mem _ _).trans hd
      · generalize found = x
        rcases x with ⟨x, a⟩ | ⟨pa, h⟩
        · exact holdWhole_memIs _ hs₃ _ _ _
        · dsimp only
          split
          · exact hgranted _ _ ((s₃.grantLock_mem _ _ _).trans hs₃)
          · refine Res.memIs_ite ?_ ?_
            · exact hgranted s₃ 8 hs₃
            · exact hrefused s₃ pa h hs₃

@[simp] theorem waitaRead_mem (s : State) (core : Nat) (w : WaitaWait) : (waitaRead s core w).1.mem = s.mem := by
  have hask := fun k off n => (State.askFill_mem (s.spPublish core k off n) k off n).trans (s.spPublish_mem core k off n)
  unfold waitaRead
  dsimp only
  generalize (if w.wide = true then 8 else 4) = n
  repeat' split
  case h_1 h => exact State.mem_of_fst (hask _ _ _) h
  case h_2 h => exact State.mem_of_fst (hask _ _ _) h
  all_goals simp

theorem arriveBarrier_memIs {m : List Host.Cell} {c : Ctx} (hc : c.s.mem = m) {k : State → Barrier → Res}
    (hk : ∀ s b, s.mem = m → (k s b).MemIs m) : (arriveBarrier c k).MemIs m := by
  unfold arriveBarrier
  dsimp only
  split
  · exact hc
  · exact arriveNow_memIs hc _ hk

@[simp] theorem State.holdLanes_mem (s : State) (k : Nat) (r : Replay) (access : Nat) (out : LanesOut) :
    (s.holdLanes k r access out).mem = s.mem := by
  unfold holdLanes
  repeat' split
  all_goals simp

@[simp] theorem State.countAll_mem (s : State) (l : Nat) (ts : List (Nat × Nat)) : (s.countAll l ts).mem = s.mem := by
  simp [countAll]

@[simp] theorem State.spNote_mem (s : State) (c k off n : Nat) : (s.spNote c k off n).mem = s.mem := by
  simp [spNote]

@[simp] theorem State.wakeLines_mem (s : State) (cells : List Host.Cell) : (s.wakeLines cells).mem = s.mem := by
  simp [wakeLines]

@[simp] theorem State.homeAtom_mem (s : State) (from_ : Option Nat) (pa : Nat) (op : LaneOp) (y x : Word) :
    (s.homeAtom from_ pa op y x).mem = s.mem := by
  unfold homeAtom
  repeat' split
  all_goals simp

@[simp] theorem State.siltRed_mem (s : State) (w : Who) (pa op : Nat) (float signed : Bool) (x : Word) :
    (s.siltRed w pa op float signed x).mem = s.mem := by
  unfold siltRed
  dsimp only
  repeat' split
  all_goals simp

@[simp] theorem State.perform_mem (s : State) (w : Who) (m : LaneForm) (r : Replay) (x : ReplayLane) (a : Target) :
    (s.perform w m r x a).1.mem = s.mem := by
  unfold perform
  dsimp only
  repeat' split
  all_goals simp

@[simp] theorem State.performAll_mem (w : Who) (m : LaneForm) (r : Replay) (xs : List ReplayLane) (s : State) (out : LanesOut) :
    (performAll w m r xs s out).1.mem = s.mem := by
  induction xs generalizing s out with
  | nil => rfl
  | cons x xs ih =>
    unfold performAll
    split <;> simp [ih]

@[simp] theorem State.runLanes_mem (s : State) (k : Nat) (r : Replay) : (s.runLanes k r).mem = s.mem := by
  simp [runLanes]

@[simp] theorem State.prepared_mem (s : State) (w : Who) (m : LaneForm) (a : Target) : (s.prepared w m a).1.mem = s.mem := by
  unfold prepared
  repeat' split
  all_goals simp

@[simp] theorem State.laneWalked_mem (s : State) (w : Who) (m : LaneForm) (addr : Nat) : (s.laneWalked w m addr).mem = s.mem := by
  simp [laneWalked]

@[simp] theorem State.lanesWait_mem (s : State) (w : Who) (m : LaneForm) (xs : List ReplayLane) : (s.lanesWait w m xs).1.mem = s.mem := by
  refine foldl_fst_mem (fun p x => ?_) _ _
  dsimp only
  split <;> simp

theorem laneAccess_memIs {m : List Host.Cell} {c : Ctx} (hc : c.s.mem = m) (ask : Nat → Option ReplayLane) : (laneAccess c ask).MemIs m := by
  have hwait := (State.lanesWait_mem c.s (c.s.who c.k) (laneForm c.opc c.f) ((accessLanes c).filterMap ask)).trans hc
  unfold laneAccess
  dsimp only
  split
  · next h => exact State.mem_of_fst hwait h
  · next h =>
    have hs := State.mem_of_fst hwait h
    split
    · exact hs
    · simp only [Res.MemIs, State.ite_mem, State.runLanes_mem, State.setGroup_mem, ite_self]
      exact hs

@[simp] theorem State.useLeave_mem (s : State) (core k : Nat) : (s.useLeave core k).mem = s.mem := by rfl

@[simp] theorem State.askLeave_mem (s : State) (core k n : Nat) : (s.askLeave core k n).1.mem = s.mem := by
  simp [askLeave]

theorem syncWindows_memIs {m : List Host.Cell} {c : Ctx} (hc : c.s.mem = m) {k : State → State} (hk : ∀ s, s.mem = m → (k s).mem = m) :
    (syncWindows c k).MemIs m := by
  unfold syncWindows
  dsimp only
  repeat' split
  case isFalse.isFalse.isFalse => exact hk _ (by simpa using hc)
  all_goals simpa [Res.MemIs] using hc

theorem State.registerWindow_mem {s t : State} {w : Who} {sp gb len : Nat} {writable : Bool} (h : s.registerWindow w sp gb len writable = .ok t) :
    t.mem = s.mem := by
  unfold registerWindow at h
  dsimp only at h
  repeat' split at h
  all_goals cases h
  rfl

@[simp] theorem enqueue_mem (s : State) (core : Nat) (e : MqEntry) : (enqueue s core e).mem = s.mem := by rfl

theorem afterTile_memIs {m : List Host.Cell} {c : Ctx} (hc : c.s.mem = m) (n : Nat) {k : Tile → Res} (hk : ∀ t, (k t).MemIs m) :
    (afterTile c n k).MemIs m := by
  unfold afterTile
  repeat' split
  · exact hc
  · exact hc
  · exact hk _

theorem giveLanes_memIs {m : List Host.Cell} {c : Ctx} (hc : c.s.mem = m) (ctr : Nat) (r : Nat → Sat) : (giveLanes c ctr r).MemIs m := by
  unfold giveLanes
  split
  · exact hc
  · simpa [Res.MemIs] using hc

theorem ruled_mem (opc : Nat) (f : Fields) (own : Ctx → Nat → Bool) {run : Ctx → Res} (s : State)
    (hrun : ∀ c, c.s.mem = s.mem → (run c).MemIs s.mem) : (ruled opc f own run s).mem = s.mem := issue_mem _ _ _ _ _ _ hrun

theorem pushEntry_memIs (s : State) (g : Group) (e : StackEntry) : (pushEntry s g e).MemIs s.mem := by
  unfold pushEntry
  repeat' split
  · exact spillFault_getD_memIs _ _ _ (State.spillWrite_mem _ _ _ _)
  · trivial
  · rfl

theorem callTo_memIs {m : List Host.Cell} {c : Ctx} (hc : c.s.mem = m) (t : Word) : (callTo c t).MemIs m := by
  unfold callTo
  dsimp only
  split
  · next h => exact ((pushEntry_memIs _ _ _).of_ok h).trans hc
  · exact stackFails_memIs hc _

theorem targetFault_memIs {m : List Host.Cell} {c : Ctx} (hc : c.s.mem = m) (t : Word) (lanes : LaneMask) : (targetFault c t lanes).MemIs m := by
  simp [targetFault, Res.MemIs, hc]

theorem pushAll_memIs (es : List StackEntry) (s : State) (g : Group) : (pushAll s g es).MemIs s.mem := by
  induction es generalizing s g with
  | nil => rfl
  | cons e es ih =>
    have hpush := pushEntry_memIs s g e
    unfold pushAll
    split
    · next h => rw [h] at hpush; rw [← (hpush : _ = s.mem)]; exact ih _ _
    · exact hpush

theorem diverge_memIs {m : List Host.Cell} {c : Ctx} (hc : c.s.mem = m) (paths : List (Word × LaneMask)) (r : Word) :
    (diverge c paths r).MemIs m := by
  unfold diverge
  split
  · exact hc
  · exact hc
  · dsimp only
    split
    · next h => exact ((pushAll_memIs _ _ _).of_ok h).trans hc
    · exact stackFails_memIs hc _

@[simp] theorem abandonPhases_mem (s : State) (mine : Nat → Bool) : (abandonPhases s mine).mem = s.mem := by rfl

@[simp] theorem State.wakeBanks_mem (s : State) (core : Nat) (woken : Nat → Bool) : (s.wakeBanks core woken).mem = s.mem := by
  simp [wakeBanks]

theorem dbgCommand_mem (s : State) (func value cmd : Nat) {act : State → Nat → Group → Option State}
    (hact : ∀ {u k g t}, act u k g = some t → t.mem = u.mem) : (dbgCommand s func value cmd act).mem = s.mem := by
  unfold dbgCommand
  dsimp only
  split
  · rfl
  · split
    · rfl
    · next h => exact State.getD_mem rfl fun t ht => (hact ht).trans rfl

@[simp] theorem haltGroup_mem (s : State) (func k : Nat) : (haltGroup s func k).mem = s.mem := by
  simp [haltGroup]

@[simp] theorem askReport_mem (s : State) (r : ReportReq) : (askReport s r).mem = s.mem := by
  simp [askReport]

@[simp] theorem rptCmdFields_mem (s : State) (value : Nat) : (rptCmdFields s value).mem = s.mem := by rfl

@[simp] theorem rptRefuse_mem (s : State) : (rptRefuse s).mem = s.mem := by rfl

@[simp] theorem cutLaunches_mem (s : State) (n : Nat) : (cutLaunches s n).mem = s.mem := by
  simp [cutLaunches]

@[simp] theorem testEvict_mem (s : State) (func : Nat) : (testEvict s func).mem = s.mem := by
  simp [testEvict]

@[simp] theorem testRestored_mem (s : State) (func : Nat) : (testRestored s func).mem = s.mem := by
  simp [testRestored]

@[simp] theorem testEvicts_mem (s : State) : (testEvicts s).mem = s.mem := by
  simp [testEvicts]

@[simp] theorem changeReqs_mem (s : State) (p q : Nat) (f : WorkReq → Option WorkReq) : (changeReqs s p q f).mem = s.mem := by rfl

@[simp] theorem setReq_mem (s : State) (p q : Nat) (r : WorkReq) : (setReq s p q r).mem = s.mem := by rfl

@[simp] theorem stallReq_mem (s : State) (p q : Nat) (r : WorkReq) (x : XFault) (access addr : Nat) :
    (stallReq s p q r x access addr).mem = s.mem := by rfl

@[simp] theorem testFences_mem (s : State) : (testFences s).mem = s.mem := by
  refine State.foldl_mem (fun s x => ?_) _ _
  dsimp only
  split
  · split <;> simp
  · rfl

@[simp] theorem dropReq_mem (s : State) (p q serial : Nat) : (dropReq s p q serial).mem = s.mem := by
  simp [dropReq]

theorem bump_memIs (s : State) (asid addr : Nat) : (bump s asid addr).MemIs s.mem := by
  unfold bump
  dsimp only
  split
  · simp [Bump.MemIs]
  · split
    · simp [Bump.MemIs]
    · have hread := ((s.closeLog (s.vmidFunc (s.space asid).vmid)).engineWalked asid [(addr, 8)]).engineRead_memIs asid addr 8
      split <;> rename_i h <;> rw [h] at hread <;> simp only [EngineRead.MemIs, State.engineWalked_mem, State.closeLog_mem] at hread
      · exact hread
      · exact hread
      · split <;> rename_i h <;> exact (State.mem_of_fst (State.engineWriteAt_mem ..) h).trans hread

@[simp] theorem finishReq_mem (s : State) (p q serial : Nat) : (finishReq s p q serial).mem = s.mem := by
  unfold finishReq
  split
  · rfl
  · split
    · rfl
    · dsimp only
      generalize (if _ = 0 then _ else _ : Nat) = addr
      have hbump := bump_memIs s (s.net p).asid addr
      split
      · rfl
      · split
        · split <;> simp
        · split <;> rename_i h <;> rw [h] at hbump
          · exact hbump
          · exact hbump
          · replace hbump : _ = s.mem := hbump
            split <;> simpa using hbump

@[simp] theorem deliverPeer_mem (s : State) (p q : Nat) (r : WorkReq) (x : PeerLane) (words : List Word) :
    (deliverPeer s p q r x words).mem = s.mem := by
  unfold deliverPeer
  repeat' split
  all_goals simp

@[simp] theorem endReq_mem (s : State) (p q serial code : Nat) : (endReq s p q serial code).mem = s.mem := by
  unfold endReq
  repeat' split
  all_goals simp

@[simp] theorem cutNet_mem (s : State) (p : Nat) : (cutNet s p).mem = s.mem := by
  simp [cutNet]

@[simp] theorem State.giveTags_mem (s : State) : s.giveTags.mem = s.mem := by
  refine foldl_mem (fun s i => ?_) _ _
  split
  · split <;> rfl
  · rfl

@[simp] theorem cutRound_mem (n : Nat) (s : State) (h : Nat) : (cutRound n s h).mem = s.mem := by
  simp [cutRound]

@[simp] theorem freeLockWord_mem (s : State) (pa : Nat) : (freeLockWord s pa).mem = s.mem := by
  simp [freeLockWord]

@[simp] theorem resetCores_mem (s : State) (n : Nat) : (resetCores s n).mem = s.mem := by rfl

@[simp] theorem releaseHalts_mem (s : State) (n : Nat) : (releaseHalts s n).mem = s.mem := State.foldl_mem (fun _ _ => State.setFunc_mem _ _ _) _ _

@[simp] theorem resetPart_mem (s : State) (n : Nat) : (resetPart s n).mem = s.mem := by
  simp [resetPart]

@[simp] theorem enableQueue_mem (s : State) (q : Nat) (x : Queue) (taken cons prod : Nat) : (enableQueue s q x taken cons prod).mem = s.mem := by rfl

@[simp] theorem restoreQueues_mem (s : State) (func : Nat) : (restoreQueues s func).mem = s.mem := by
  simp [restoreQueues]

@[simp] theorem resumeNets_mem (s : State) (func : Nat) : (resumeNets s func).mem = s.mem := by
  simp [resumeNets]

@[simp] theorem renumber_mem (news : List (Held × Nat)) (func : Nat) (s : State) : (renumber news func s).mem = s.mem := by rfl

@[simp] theorem recordAgain_mem (s : State) (func : Nat) : (recordAgain s func).mem = s.mem := by
  simp [recordAgain]

@[simp] theorem putNet_mem (s : State) (func k : Nat) (n : NetRest) (reqs : List (Nat × WorkReq)) (ctrs : Tbl Nat) (seq hash : Nat) :
    (putNet s func k n reqs ctrs seq hash).mem = s.mem := by
  simp [putNet]

@[simp] theorem putNets_mem (s : State) (func k : Nat) (nets : List NetRest) (bs : List Byte) : (putNets s func k nets bs).mem = s.mem := by
  simp [putNets]

@[simp] theorem readImage_mem (s : State) (fn : Nat) (place : Option (Nat × Nat)) (n off : Nat) : (readImage s fn place n off).1.mem = s.mem := by
  unfold readImage
  dsimp only
  repeat' split
  all_goals simp

@[simp] theorem putTeam_mem (s : State) (func k : Nat) (r : LaunchRec) (p : TeamPlace) : (putTeam s func k r p).mem = s.mem := by
  unfold putTeam
  dsimp only
  split
  · simp
  · split <;> rename_i h <;> have hs := State.mem_of_fst (readImage_mem ..) h <;> exact hs

@[simp] theorem putArriving_mem (s : State) (func k : Nat) (a : Arriving) : (putArriving s func k a).mem = s.mem := by
  unfold putArriving
  extract_lets x p s₁ s₂ s₃ s₄
  have h₁ : s₁.mem = s.mem := by simp [s₁]
  have h₂ : s₂.mem = s.mem := by simp [s₂, h₁]
  have h₃ : s₃.mem = s.mem := (State.foldl_mem (fun s y => State.setGroup_mem _ _ _) _ _).trans h₂
  have h₄ : s₄.mem = s.mem := by
    unfold s₄
    split
    · exact (putNets_mem _ _ _ _ _).trans h₃
    · exact (State.foldl_mem (fun s n => putNet_mem _ _ _ _ _ _ _ _) _ _).trans h₃
  refine (State.foldl_mem (fun s h => ?_) _ _).trans h₄
  dsimp only
  split <;> rfl

@[simp] theorem readQueueBlock_mem (s : State) (func b off : Nat) : (readQueueBlock s func b off).1.mem = s.mem := by
  unfold readQueueBlock
  split <;> rename_i h <;> have hs := State.mem_of_fst (readImage_mem ..) h
  · exact hs
  · split <;> rename_i h <;> exact (State.mem_of_fst (readImage_mem ..) h).trans hs

@[simp] theorem poolSections_mem (s : State) (func : Nat) : (poolSections s func).1.mem = s.mem := by
  refine State.foldl_fst_mem (fun acc b => ?_) _ _
  split <;> rename_i h <;> exact State.mem_of_fst (readImage_mem ..) h

@[simp] theorem readSections_mem (s : State) (func : Nat) : (readSections s func).1.mem = s.mem := by
  refine (State.foldl_fst_mem (fun acc x => ?_) _ _).trans (poolSections_mem s func)
  split
  next b format n y =>
    have hblock : (match acc.2.2 with | some q => (acc.1, some q) | none => readQueueBlock acc.1 func b n).1.mem = acc.1.mem := by
      split
      · rfl
      · exact readQueueBlock_mem _ _ _ _
    split
    next ht =>
      replace ht := State.mem_of_fst hblock ht
      split <;> rename_i h <;> have hs := (State.mem_of_fst (readImage_mem ..) h).trans ht
      · exact hs
      · split <;> exact hs

@[simp] theorem takeIncoming_mem (s : State) (func : Nat) : (takeIncoming s func).mem = s.mem := by
  simp [takeIncoming]

@[simp] theorem dropSections_mem (s : State) (func : Nat) : (dropSections s func).mem = s.mem := by
  simp [dropSections]

@[simp] theorem resumeGroups_mem (s : State) (func : Nat) : (resumeGroups s func).mem = s.mem := by rfl

@[simp] theorem takeSection_mem (s : State) (func l : Nat) : (takeSection s func l).mem = s.mem := by
  unfold takeSection
  dsimp only
  split <;> rename_i h <;> have hs := State.mem_of_fst (readImage_mem ..) h
  · exact hs
  · split
    · exact hs
    · split <;> rename_i h <;> have hs' := (State.mem_of_fst (readImage_mem ..) h).trans hs
      · exact hs'
      · split <;> simpa using hs'

@[simp] theorem writeSections_mem (s : State) (func n : Nat) : (writeSections s func n).mem = s.mem := by
  unfold writeSections
  repeat' split
  all_goals simp

@[simp] theorem writeTeamRecord_mem (s : State) (fn k : Nat) : (writeTeamRecord s fn k).mem = s.mem := by
  simp [writeTeamRecord]

@[simp] theorem saveTeam_mem (s : State) (t : Nat) : (saveTeam s t).mem = s.mem := by
  simp [saveTeam]

@[simp] theorem freeCore_mem (s : State) (t core : Nat) : (freeCore s t core).mem = s.mem := by rfl

@[simp] theorem freeTeam_mem (s : State) (t : Nat) : (freeTeam s t).mem = s.mem := by
  simp [freeTeam]

@[simp] theorem saveFunc_mem (s : State) (func : Nat) : (saveFunc s func).mem = s.mem := by
  simp [saveFunc]

@[simp] theorem trySave_mem (s : State) (func : Nat) : (trySave s func).mem = s.mem := by
  simp [trySave]

@[simp] theorem abandon_mem (s : State) (t : Nat) : (abandon s t).mem = s.mem := by rfl

@[simp] theorem quiesce_mem (s : State) (func : Nat) : (quiesce s func).mem = s.mem := by
  simp [quiesce]
  rw [State.foldl_mem fun _ _ => State.setNet_mem _ _ _]
  simp

@[simp] theorem marlGo_mem (s : State) (h mode value : Nat) : (marlGo s h mode value).mem = s.mem := by
  simp [marlGo]

@[simp] theorem endHeld_mem (s : State) (l : Nat) : (endHeld s l).mem = s.mem := by
  simp [endHeld]

@[simp] theorem changeRx_mem (s : State) (p page : Nat) (f : RxMsg → RxMsg) : (changeRx s p page f).mem = s.mem := by rfl

@[simp] theorem abandonFinal_mem (s : State) (l : Nat) (status : Bool) : (abandonFinal s l status).mem = s.mem := by
  simp [abandonFinal]

@[simp] theorem skipRecord_mem (s : State) (q : Nat) : (skipRecord s q).mem = s.mem := by rfl

@[simp] theorem changeCopy_mem (s : State) (h : Held) (f : CopyCmd → Option CopyCmd) : (changeCopy s h f).mem = s.mem := by rfl

@[simp] theorem asyncTrap_mem (s : State) (k : Nat) (i : TrapInfo) : (asyncTrap s k i).mem = s.mem := by
  simp [asyncTrap]

@[simp] theorem ackTrap_mem (s : State) (h : Held) : (ackTrap s h).mem = s.mem := by
  unfold ackTrap
  repeat' split
  all_goals simp

@[simp] theorem ackEnd_mem (s : State) (h : Held) : (ackEnd s h).mem = s.mem := by
  unfold ackEnd
  dsimp only
  repeat' split
  all_goals simp

@[simp] theorem ackRetry_mem (s : State) (h : Held) : (ackRetry s h).mem = s.mem := by
  unfold ackRetry
  repeat' split
  all_goals simp

@[simp] theorem actOn_mem (s : State) (h : Held) (action : Nat) : (actOn s h action).mem = s.mem := by
  unfold actOn
  repeat' split
  all_goals simp

@[simp] theorem actKept_mem (s : State) (t : Nat) : (actKept s t).mem = s.mem := by
  simp [actKept]

@[simp] theorem loadCore_mem (s : State) (t core : Nat) (second : Bool) (c : SavedCore) : (loadCore s t core second c).mem = s.mem := by rfl

@[simp] theorem restoreTeam_mem (s : State) (t : Nat) (sp : Spot) (windows : List LoamWindow) (locks : List (Nat × List Holding)) :
    (restoreTeam s t sp windows locks).mem = s.mem := by
  unfold restoreTeam
  extract_lets x kept copies s₁ s₂ s₃ s₄ s₅ s₆ s₇ s₈ s₉
  have h₄ : s₄.mem = s.mem := by
    simp only [s₄, s₃, s₂, s₁]
    rw [State.foldl_mem fun _ _ => loadCore_mem _ _ _ _ _, State.zeroScratch_mem, State.setTeam_mem, State.foldl_mem fun _ _ => takeSplit_mem _ _ _]
  have h₅ : s₅.mem = s.mem := (State.foldl_mem (fun s b => by dsimp only; split <;> [rfl; (split <;> simp)]) _ _).trans h₄
  have h₆ : s₆.mem = s.mem := (State.foldl_mem (fun s b => by dsimp only; split <;> [(split <;> simp); rfl]) _ _).trans h₅
  have h₈ : s₈.mem = s.mem := (State.foldl_mem (fun s c => State.setCore_mem _ _ _) _ _).trans h₆
  have h₉ : s₉.mem = s.mem := (State.foldl_mem (fun s g => by split <;> simp) _ _).trans h₈
  rw [testGbar_mem, testBarriers_mem, actKept_mem, h₉]

@[simp] theorem imageWalked_mem (s : State) (core asid : Nat) (ws : List LoamWindow) (gs : List (Nat × Group)) :
    (imageWalked s core asid ws gs).mem = s.mem := by
  simp [imageWalked]

@[simp] theorem putImage_mem (s : State) (t : Nat) (x : TeamImage) : (putImage s t x).mem = s.mem := by rfl

@[simp] theorem takeImage_mem (s : State) (t : Nat) : (takeImage s t).mem = s.mem := by
  unfold takeImage
  dsimp only
  split <;> rename_i h <;> have hs := State.mem_of_fst (readImage_mem ..) h
  · exact hs
  · split <;> simpa using hs

@[simp] theorem evictTeam_mem (s : State) (t : Nat) : (evictTeam s t).mem = s.mem := by
  simp [evictTeam]

@[simp] theorem setPacket_mem (s : State) (p q : Nat) (r : WorkReq) (x : SentPkt) : (setPacket s p q r x).mem = s.mem := by rfl

@[simp] theorem State.wire_mem (s : State) (mask : Nat) (out : Nat → Out) : (s.wire mask out).mem = s.mem := by rfl

@[simp] theorem payloadAgain_mem (s : State) (p : Nat) (r : WorkReq) (x : SentPkt) : (payloadAgain s p r x).1.mem = s.mem := by
  unfold payloadAgain
  dsimp only
  split
  · rfl
  · split
    · rfl
    · have hread := s.engineRead_memIs (s.net p).asid (r.laddr + x.pkt * r.packet) (min r.packet (r.length - x.pkt * r.packet))
      split <;> rename_i h <;> rw [h] at hread <;> exact hread

@[simp] theorem sendPacket_mem (s : State) (p q serial k : Nat) (f : SentPkt → SentPkt) : (sendPacket s p q serial k f).mem = s.mem := by
  unfold sendPacket
  split
  · rfl
  · split
    · rfl
    · split <;> rename_i h <;> have hs := State.mem_of_fst (payloadAgain_mem ..) h
      · exact hs
      · simpa using hs

@[simp] theorem movedAnswer_mem (s : State) (pid queue msg : Nat) (a : Answer) : (movedAnswer s pid queue msg a).mem = s.mem := by
  unfold movedAnswer
  dsimp only
  repeat' split
  all_goals simp

@[simp] theorem countNet_mem (s : State) (pid i n : Nat) : (countNet s pid i n).mem = s.mem := by
  simp [countNet]

@[simp] theorem notReady_mem (s : State) (p : NetPacket) : (notReady s p).mem = s.mem := by rfl

@[simp] theorem setRx_mem (s : State) (pid : Nat) (m : RxMsg) : (setRx s pid m).mem = s.mem := by rfl

@[simp] theorem arrivalFault_mem (s : State) (p : NetPacket) (m : RxMsg) (x : XFault) (access addr : Nat) :
    (arrivalFault s p m x access addr).mem = s.mem := by
  simp [arrivalFault]

@[simp] theorem refusePacket_mem (s : State) (p : NetPacket) : (refusePacket s p).mem = s.mem := by rfl

@[simp] theorem respond_mem (s : State) (p : NetPacket) (bs : List Byte) : (respond s p bs).mem = s.mem := by
  simp [respond]

/-- The memory of the base dies is `m` in whatever state an access of the target engine answers. -/
def Reach.MemIs {α : Type} (m : List Host.Cell) : Reach α → Prop
  | .waits s => s.mem = m
  | .fault s => s.mem = m
  | .ok s _ => s.mem = m

theorem Reach.MemIs.of_eq {α : Type} {m : List Host.Cell} {x y : Reach α} (hx : x.MemIs m) (h : x = y) : y.MemIs m := h ▸ hx

theorem targetRead_memIs (s : State) (p : NetPacket) (m : RxMsg) (addr n access : Nat) : (targetRead s p m addr n access).MemIs s.mem := by
  have hread := s.engineRead_memIs (s.net p.pid).asid addr n
  unfold targetRead
  split
  · simp [Reach.MemIs]
  · split <;> rename_i h <;> rw [h] at hread
    · exact hread
    · exact (arrivalFault_mem _ _ _ _ _ _).trans hread
    · exact hread

theorem targetWrite_memIs (s : State) (p : NetPacket) (m : RxMsg) (addr : Nat) (bs : List Byte) : (targetWrite s p m addr bs).MemIs s.mem := by
  unfold targetWrite
  dsimp only
  split
  · simp [Reach.MemIs]
  · split
    · simp [Reach.MemIs]
    · split <;> rename_i h <;> exact (State.mem_of_fst (State.engineWriteAt_mem ..) h).trans (State.engineWalked_mem _ _ _)

theorem targetBump_memIs (s : State) (p : NetPacket) (m : RxMsg) (addr : Nat) : (targetBump s p m addr).MemIs s.mem := by
  have hbump := bump_memIs s (s.net p.pid).asid addr
  unfold targetBump
  split
  · simp [Reach.MemIs]
  · split <;> rename_i h <;> rw [h] at hbump
    · exact hbump
    · exact (arrivalFault_mem _ _ _ _ _ _).trans hbump
    · exact hbump

theorem targetCount_memIs (s : State) (p : NetPacket) (m : RxMsg) : (targetCount s p m).MemIs s.mem := by
  unfold targetCount
  split
  · rfl
  · exact targetBump_memIs _ _ _ _

@[simp] theorem serveAtomic_mem (s : State) (p : NetPacket) (m : RxMsg) : (serveAtomic s p m).mem = s.mem := by
  have hatomic {t : State} (ht : t.mem = s.mem) (old : Word) (fn : Nat) (ps : List (Nat × Nat × Option Nat)) :
      (match targetAtomic p old with | none => (t, true) | some y => t.engineWriteAt fn ps (toBytes 4 y.toNat)).1.mem = s.mem := by
    split
    · exact ht
    · exact (State.engineWriteAt_mem _ _ _ _).trans ht
  unfold serveAtomic
  split
  · simp
  · split
    · simp
    · dsimp only
      split
      · simp
      · have hread := targetRead_memIs (s.engineWalked (s.net p.pid).asid [(p.raddr, 4)]) p m p.raddr 4 2
        rw [State.engineWalked_mem] at hread
        split <;> rename_i h <;> rw [h] at hread
        · exact hread
        · exact hread
        · split <;> rename_i h <;> have hs := State.mem_of_fst (hatomic hread _ _ _) h
          · exact hs
          · simpa using hs

@[simp] theorem serveGet_mem (s : State) (p : NetPacket) (m : RxMsg) : (serveGet s p m).mem = s.mem := by
  have hread := targetRead_memIs s p m p.raddr p.length 0
  unfold serveGet
  split <;> rename_i h <;> rw [h] at hread <;> replace hread : _ = s.mem := hread
  · exact hread
  · exact hread
  · split <;> simpa using hread

@[simp] theorem ackPlaced_mem (s : State) (p : NetPacket) (placed : List Nat) : (ackPlaced s p placed).mem = s.mem := by rfl

@[simp] theorem completeMessage_mem (s : State) (p : NetPacket) (m : RxMsg) : (completeMessage s p m).mem = s.mem := by
  have hcount (t : State) (m : RxMsg) (ht : t.mem = s.mem) : (match targetCount t p m with
      | .waits s => setRx s p.pid m
      | .fault s => s
      | .ok s _ => countNet (ackPlaced (setRx s p.pid { m with counted := true, pages := [] }) p m.placed) p.pid 15 p.length).mem = s.mem := by
    have hreach := targetCount_memIs t p m
    split <;> rename_i h <;> rw [h, ht] at hreach <;> replace hreach : _ = s.mem := hreach <;> simpa using hreach
  unfold completeMessage
  dsimp only
  split
  · exact hcount s m rfl
  · generalize hwalk : (if p.rctr = 0 then s else s.engineWalked (s.net p.pid).asid [(p.rctr, 8)]) = u
    have hu : u.mem = s.mem := by rw [← hwalk]; split <;> simp
    split
    · next t ht =>
      split at ht
      · cases ht
      · split at ht
        · cases ht; simpa using hu
        · cases ht
    · have hwrite := targetWrite_memIs u p m
      split <;> rename_i h <;> have hs := ((hwrite _ _).of_eq h : _ = u.mem).trans hu
      · simpa using hs
      · exact hs
      · split <;> rename_i h' <;> have hs' := ((targetBump_memIs ..).of_eq h' : _ = _).trans hs
        · simpa using hs'
        · exact hs'
        · exact hcount _ _ hs'

@[simp] theorem placePacket_mem (s : State) (p : NetPacket) (m : RxMsg) (addr : Nat) : (placePacket s p m addr).mem = s.mem := by
  have hwrite := targetWrite_memIs s p m addr p.data
  have hplaced : (if m.placed.contains p.pkt && p.mode != .rudi then .ok s () else targetWrite s p m addr p.data : Reach Unit).MemIs s.mem := by
    split
    · rfl
    · exact hwrite
  unfold placePacket
  dsimp only
  split
  · split
    · split <;> rename_i h <;> rw [h] at hwrite <;> replace hwrite : _ = s.mem := hwrite <;> simpa using hwrite
    · simp
  · split <;> rename_i h <;> rw [h] at hplaced <;> replace hplaced : _ = s.mem := hplaced
    · simpa using hplaced
    · exact hplaced
    · split <;> simpa using hplaced

@[simp] theorem placeSend_mem (s : State) (p : NetPacket) (m : RxMsg) : (placeSend s p m).mem = s.mem := by
  have hread := targetRead_memIs s p m (s.net p.pid).rxProd 16 1
  unfold placeSend
  dsimp only
  split
  · simp
  · split
    · simp
    · split <;> rename_i h <;> rw [h] at hread <;> replace hread : _ = s.mem := hread
      · exact hread
      · exact hread
      · split <;> simpa using hread

@[simp] theorem localWalked_mem (s : State) (asid : Nat) (r : WorkReq) : (localWalked s asid r).mem = s.mem := by
  simp [localWalked]

@[simp] theorem launchPackets_mem (s : State) (p q : Nat) (r : WorkReq) (pkts : List SentPkt) : (launchPackets s p q r pkts).mem = s.mem := by
  simp [launchPackets]

@[simp] theorem waitaWalked_mem (s : State) (core asid : Nat) (w : WaitaWait) : (waitaWalked s core asid w).mem = s.mem := by
  simp [waitaWalked]

@[simp] theorem ackRecall_mem (s : State) (core line : Nat) : (ackRecall s core line).mem = s.mem := by
  unfold ackRecall
  repeat' split
  all_goals simp

@[simp] theorem dropCopy_mem (s : State) (core line : Nat) : (dropCopy s core line).mem = s.mem := by
  simp [dropCopy]

@[simp] theorem joinRun_mem (s : State) (h pa : Nat) (bs : List Byte) : (joinRun s h pa bs).mem = s.mem := by
  unfold joinRun
  dsimp only
  repeat' split
  all_goals simp

@[simp] theorem marlReply_mem (s : State) (r : BdReply) : (marlReply s r).mem = s.mem := by
  unfold marlReply
  dsimp only
  repeat' split
  all_goals simp

@[simp] theorem setEntry_mem (s : State) (core : Nat) (e : MqEntry) : (setEntry s core e).mem = s.mem := by rfl

@[simp] theorem mmaStall_mem (k : Nat) (s : State) (n : Nat) : (mmaStall k s n).mem = s.mem := by rfl

/-- The memory of the base dies is `m` in whatever state the reading of operand A answers. -/
theorem ReadA.MemIs.of_eq {m : List Host.Cell} {x y : ReadA} (hx : x.MemIs m) (h : x = y) : y.MemIs m := h ▸ hx

theorem readScratchA_memIs (c : Ctx) (e : MqEntry) : (readScratchA c e).MemIs c.s.mem := by
  unfold readScratchA
  dsimp only
  split
  · trivial
  · split
    · trivial
    · split
      · rfl
      · split <;> rename_i h <;> exact State.mem_of_fst (State.askFill_mem ..) h

theorem readVectorA_memIs (c : Ctx) (e : MqEntry) : (readVectorA c e).MemIs c.s.mem := by rfl

theorem readGlobalA_memIs (c : Ctx) (e : MqEntry) : (readGlobalA c e).MemIs c.s.mem := by
  unfold readGlobalA
  dsimp only
  split
  · trivial
  · split
    · trivial
    · split
      · rfl
      · exact State.foldl_mem (fun s l => by simp) _ _

theorem readA_memIs (c : Ctx) (e : MqEntry) :
    (match e.opc with | 0x180 => readScratchA c e | 0x181 => readVectorA c e | _ => readGlobalA c e).MemIs c.s.mem := by
  split
  · exact readScratchA_memIs c e
  · exact readVectorA_memIs c e
  · exact readGlobalA_memIs c e

@[simp] theorem walkedA_mem (c : Ctx) (e : MqEntry) : (walkedA c e).s.mem = c.s.mem := by
  unfold walkedA
  dsimp only
  split
  · rfl
  · exact Ctx.walked_mem _ _

@[simp] theorem mmaFault_mem (c : Ctx) (e : MqEntry) (x : XFault) (addr : Nat) : (mmaFault c e x addr).mem = c.s.mem := by
  simp [mmaFault, holdWhole]

@[simp] theorem mmaGo_mem (s : State) (k : Nat) (c : Ctx) (e : MqEntry) : (mmaGo s k c e).mem = s.mem := by
  unfold mmaGo
  dsimp only
  split
  · simp
  · split <;> rename_i h <;> have hs := State.mem_of_fst (State.askLeave_mem ..) h
    · simpa using hs
    · split
      · simpa using hs
      · refine (State.endWait_mem _ _ fun c hc => ?_).trans ?_
        · simpa [Res.MemIs] using hc
        · simpa using hs

@[simp] theorem mmaStart_mem (s : State) (k : Nat) : (mmaStart s k).mem = s.mem := by
  unfold mmaStart
  dsimp only
  split
  · rfl
  · next e _ =>
    split
    · rfl
    · split
      · simp
      · split
        · simp
        · generalize hc : walkedA { s.waitCtx k with s := setEntry s (s.group k).core { e with stage := true } } { e with stage := true } = c
          have hcm : c.s.mem = s.mem := by rw [← hc]; exact walkedA_mem _ _
          have hread := (readA_memIs c { e with stage := true }).of_eq rfl
          rw [hcm] at hread
          split <;> rename_i h <;> replace hread := hread.of_eq h
          · exact (mmaStall_mem _ _ _).trans hread
          · repeat' split
            all_goals simp [hcm]
          · replace hread : _ = s.mem := hread
            repeat' split
            all_goals simp [hread, hcm]

@[simp] theorem dropLocks_mem (s : State) (k : Nat) : (dropLocks s k).mem = s.mem := by
  simp [dropLocks]

@[simp] theorem endGroup_mem (s : State) (k : Nat) : (endGroup s k).mem = s.mem := by
  simp [endGroup]

theorem writeBackSaved_mem {s u : State} {t : Nat} (h : writeBackSaved s t = some u) : u.mem = s.mem := by
  unfold writeBackSaved at h
  dsimp only at h
  split at h
  · cases h
  · cases h
    refine (State.count_mem _ _ _ _).trans ((State.setTeam_mem _ _ _).trans (State.foldl_mem (fun s d => ?_) _ _))
    split <;> simp

theorem State.appendRange_mem {s t : State} {fn : Nat} (h : s.appendRange fn = some t) : t.mem = s.mem := by
  unfold appendRange at h
  dsimp only at h
  split at h
  · cases h
  · split at h
    · cases h
    · obtain ⟨u, hu, rfl⟩ := Option.map_eq_some_iff.1 h
      exact (setFunc_mem _ _ _).trans (ringWrite_mem hu)

@[simp] theorem State.appendRanges_mem (n : Nat) (s : State) (fn : Nat) : (State.appendRanges n s fn).mem = s.mem := by
  induction n generalizing s with
  | zero => rfl
  | succ n ih =>
    unfold appendRanges
    split
    · rfl
    · next h => exact (ih _).trans (appendRange_mem h)

theorem State.logReleased_mem {s t : State} {fn : Nat} (h : s.logReleased fn = some t) : t.mem = s.mem := by
  unfold logReleased at h
  dsimp only at h
  split at h
  · cases h; simp
  · cases h

@[simp] theorem State.spillTouch_mem (s : State) (g : Group) (a : Access) (j : Nat) : (s.spillTouch g a j).1.mem = s.mem := by
  unfold spillTouch
  dsimp only
  repeat' split
  all_goals simp

@[simp] theorem State.fetchFault_mem (s : State) (k : Nat) (g : Group) (b : Bool) (x : XFault × Nat) : (s.fetchFault k g b x).mem = s.mem := by rfl

@[simp] theorem State.fillLoopBuffer_mem (s : State) (g : Group) (pc : Nat) (ws : List (Nat × List Byte)) :
    (s.fillLoopBuffer g pc ws).mem = s.mem := by
  simp [fillLoopBuffer]

@[simp] theorem State.fillIcache_mem (s : State) (core pa : Nat) : (s.fillIcache core pa).mem = s.mem := by
  simp [fillIcache]

@[simp] theorem State.fetchInto_mem (s : State) (k : Nat) (g : Group) (b : Bool) (ws : List (Nat × List Byte)) :
    (s.fetchInto k g b ws).mem = s.mem := by
  simp [fetchInto]

@[simp] theorem State.bundleWalked_mem (s : State) (g : Group) (pc : Nat) : (s.bundleWalked g pc).mem = s.mem := by
  simp [bundleWalked]

@[simp] theorem State.fetched_mem (s : State) (k : Nat) (g : Group) (b : Bool) : (s.fetched k g b).1.mem = s.mem := by
  unfold fetched
  dsimp only
  repeat' split
  all_goals simp

@[simp] theorem ackError_mem (s : State) (func : Nat) : (ackError s func).mem = s.mem := by rfl

@[simp] theorem acknowledge_mem (s : State) (func seq action : Nat) : (acknowledge s func seq action).mem = s.mem := by
  unfold acknowledge
  repeat' split
  all_goals simp

@[simp] theorem tlbiStart_mem (s : State) (func value kind : Nat) : (tlbiStart s func value kind).mem = s.mem := by
  simp [tlbiStart]

@[simp] theorem testWait_mem (s : State) (k : Nat) (l : Launch) (got : Bool) (place : Option Nat) (addr value : Nat) :
    (testWait s k l got place addr value).1.mem = s.mem := by
  have hread := s.engineRead_memIs l.asid addr 8
  unfold testWait
  split
  · rfl
  · split <;> rename_i h <;> rw [h] at hread
    · exact hread
    · exact (State.hold_mem _ _ _ _).trans hread
    · exact hread

@[simp] theorem State.testTrip_mem (s : State) : (s.testTrip).mem = s.mem := by
  simp [testTrip]

@[simp] theorem State.clearCore_mem (s : State) (c : Nat) : (s.clearCore c).mem = s.mem := by
  simp [clearCore]

@[simp] theorem vmidWrite_mem (s : State) (n word value : Nat) : (vmidWrite s n word value).mem = s.mem := by rfl

@[simp] theorem spaceWrite_mem (s : State) (func n word value : Nat) : (spaceWrite s func n word value).mem = s.mem := by
  simp [spaceWrite]

@[simp] theorem registerWrite_mem (s : State) (func offset value : Nat) : (registerWrite s func offset value).mem = s.mem := by
  simp [registerWrite]

@[simp] theorem coreRead_mem (s : State) (offset : Nat) : (coreRead s offset).1.mem = s.mem := by
  unfold coreRead
  dsimp only
  repeat' split
  all_goals simp

@[simp] theorem bar0Read_mem (s : State) (func offset : Nat) : (bar0Read s func offset).1.mem = s.mem := by
  simp [bar0Read]

@[simp] theorem State.haltStep_mem (s : State) (k : Nat) : (s.haltStep k).mem = s.mem := by
  simp [haltStep]

@[simp] theorem State.noteIssue_mem (s : State) (k : Nat) : (s.noteIssue k).mem = s.mem := by rfl

@[simp] theorem State.afterIssue_mem (s : State) (k : Nat) : (s.afterIssue k).mem = s.mem := by
  unfold afterIssue
  repeat' split
  all_goals simp

@[simp] theorem State.holdPeer_mem (s : State) (k p : Nat) (r : WorkReq) : (s.holdPeer k p r).mem = s.mem := by
  unfold holdPeer
  repeat' split
  all_goals simp

theorem State.dueAsync_mem {s t : State} {k : Nat} {g : Group} (h : s.dueAsync k g = some t) : t.mem = s.mem := by
  unfold dueAsync at h
  split at h
  · cases h
  · split at h
    · cases h
    · cases h; simp

@[simp] theorem State.reissue_mem (s : State) (k : Nat) (r : Replay) : (s.reissue k r).mem = s.mem := by
  unfold reissue
  split <;> rename_i h <;> have hs := State.mem_of_fst (State.lanesWait_mem ..) h <;> simpa using hs

@[simp] theorem State.reissueHeld_mem (s : State) (k : Nat) (g : Group) (r : Replay) : (s.reissueHeld k g r).1.mem = s.mem := by
  unfold reissueHeld
  repeat' split
  all_goals simp

theorem State.arriveBoth_mem {s t : State} {k : Nat} {g : Group} {b : Bool} (h : s.arriveBoth k g = some (t, b)) : t.mem = s.mem := by
  have hrun (b : Bool) : (match arrive false g.arriveFuel s g b with
      | .ok s h => ((s.setGroup k { h with spill := .none }).traceMasks g { h with spill := .none }, true)
      | .stop why s h b =>
        let s := (s.setGroup k h).traceMasks g h
        let trap (code : Nat) : State := s.takeTrap k { code := code, pc := (h.slot b).pc, mask := (h.slot b).active, slotB := b }
        (match why with
          | .loop => trap 6
          | .broken => trap 3
          | .fault x a j => s.holdSpill k b 0 {} x a j
          | _ => s.setGroup k { h with spill := .wanted, stall := 0x11 }, false)).1.mem = s.mem := by
    have harrive := arrive_memIs false g.arriveFuel rfl g b (s := s)
    split <;> rename_i h <;> rw [h] at harrive <;> replace harrive : _ = s.mem := harrive
    · simpa using harrive
    · dsimp only
      split <;> simpa using harrive
  unfold arriveBoth at h
  dsimp only at h
  split at h
  · exact mem_of_fst (hrun false) (Option.some.inj h)
  · split at h
    · exact mem_of_fst (hrun true) (Option.some.inj h)
    · cases h

@[simp] theorem State.comesTo_mem (s : State) (k : Nat) : (s.comesTo k).1.mem = s.mem := by
  unfold comesTo
  split
  · rfl
  · split
    · rfl
    · split
      · split
        · next h => split at h <;> [exact dueAsync_mem h; cases h]
        · simp
      · split
        · simp
        · split
          · next h => exact dueAsync_mem h
          · split
            · next h => exact arriveBoth_mem h
            · split
              · dsimp only
                split <;> simp
              · split
                · rfl
                · split <;> rename_i h <;> have hs := mem_of_fst (fetched_mem ..) h
                  · simpa using hs
                  · dsimp only
                    split <;> simpa using hs

@[simp] theorem State.prepare_mem (s : State) (k : Nat) : (s.prepare k).1.mem = s.mem := by
  have hcomes := s.comesTo_mem k
  unfold prepare
  split
  · next h =>
    split
    · simp
    · exact mem_of_fst hcomes h
  · exact hcomes

/-! ### What the entries of the instructions answer -/

/-- An entry's outcome leaves the memory of the base dies as it was. -/
def MemKept (m : List Host.Cell) : Host.Outcome State Fault Refusal → Prop
  | .next s => s.mem = m
  | _ => True

theorem alu_memKept (opc : Nat) (f : Fields) (ctr : Nat) (ka kb kc : Imm) (op : Word → Word → Word → Sat) (s : State)
    (checks : Ctx → Option TrapInfo) :
    MemKept s.mem (alu opc f ctr ka kb kc op s checks) := issue_mem _ _ _ _ _ _ fun _ hc => giveLanes_memIs hc _ _

theorem predOp_memKept (opc : Nat) (f : Fields) (op : Bool → Bool → Bool) (s : State) : MemKept s.mem (predOp opc f op s) :=
  alu_memKept _ _ _ _ _ _ _ _ _

theorem carryForm_memKept (opc : Nat) (f : Fields) (op : Word → Word → Bool → Word × Bool) (s : State) :
    MemKept s.mem (carryForm opc f op s) :=
  ruled_mem _ _ _ _ fun _ hc => Res.memIs_ite hc (by simpa [Res.MemIs] using hc)

theorem conversion_memKept (opc : Nat) (f : Fields) (conv : Nat → Nat × Bool) (s : State) : MemKept s.mem (conversion opc f conv s) :=
  ruled_mem _ _ _ _ fun _ hc => giveLanes_memIs hc _ _

theorem special_memKept (opc : Nat) (f : Fields) (op : Nat → Nat) (s : State) : MemKept s.mem (special opc f op s) :=
  issue_mem _ _ _ _ _ _ fun _ hc => (State.setGroup_mem _ _ _).trans hc

theorem mmaForm_memKept (opc : Nat) (f : Fields) (s : State) : MemKept s.mem (mmaForm opc f s) :=
  issue_mem _ _ _ _ _ _ fun _ hc => Res.memIs_ite hc (by simpa [Res.MemIs] using hc)

theorem copyForm_memKept (opc : Nat) (form : CopyForm) (f : Fields) (s : State) : MemKept s.mem (copyForm opc form f s) := by
  refine issue_mem _ _ _ _ _ _ fun c hc => Res.memIs_ite hc ?_
  have hfill (k off n : Nat) (p : Prop) [Decidable p] : (if p then c.s.askFill k off n else (c.s, false)).1.mem = s.mem := by
    split
    · exact (State.askFill_mem _ _ _ _).trans hc
    · exact hc
  have hleave (core k n : Nat) (p : Prop) [Decidable p] : (if p then c.s.askLeave core k n else (c.s, true)).1.mem = s.mem := by
    split
    · exact (State.askLeave_mem _ _ _ _).trans hc
    · exact hc
  dsimp only
  split
  · exact holdWhole_memIs _ hc _ _ _
  · refine Res.memIs_ite (hfill _ _ _ _) (Res.memIs_ite hc (Res.memIs_ite (hleave _ _ _ _) ?_))
    simp only [Res.MemIs, State.setCore_mem]
    split
    · exact (State.useLeave_mem _ _ _).trans ((State.askLeave_mem _ _ _ _).trans hc)
    · exact hc

theorem atomForm_memKept (opc n : Nat) (f : Fields) (s : State) : MemKept s.mem (atomForm opc n f s) :=
  issue_mem _ _ _ _ _ _ fun _ hc => Res.memIs_ite (afterRelease_memIs hc _ _ _ fun _ hs => laneAccess_memIs hs _) (laneAccess_memIs hc _)

theorem loadForm_memKept (opc : Nat) (f : Fields) (s : State) : MemKept s.mem (loadForm opc f s) :=
  issue_mem _ _ _ _ _ _ fun _ hc => laneAccess_memIs hc _

theorem storeForm_memKept (opc : Nat) (f : Fields) (s : State) : MemKept s.mem (storeForm opc f s) :=
  issue_mem _ _ _ _ _ _ fun _ hc => laneAccess_memIs hc _

@[simp] theorem execSpdmRequest_memKept (req : SpdmRequest) (s : State) : MemKept s.mem (execSpdmRequest req s) := by
  show State.mem _ = _
  repeat' split
  all_goals simp

@[simp] theorem execMgmtCoreRead_memKept (r : HostRead) (s : State) : MemKept s.mem (execMgmtCoreRead r s) := by
  simp [MemKept, execMgmtCoreRead]

@[simp] theorem execRegisterWrite_memKept (func offset value : Nat) (s : State) : MemKept s.mem (execRegisterWrite func offset value s) := by
  simp [MemKept, execRegisterWrite]

@[simp] theorem execPartCtlWrite_memKept (n value : Nat) (s : State) : MemKept s.mem (execPartCtlWrite n value s) := by
  simp [MemKept, execPartCtlWrite]

@[simp] theorem execPclkCtlWrite_memKept (n value : Nat) (s : State) : MemKept s.mem (execPclkCtlWrite n value s) := by
  simp [MemKept, execPclkCtlWrite]

@[simp] theorem execThermalSample_memKept (temp : Nat) (s : State) : MemKept s.mem (execThermalSample temp s) := by
  simp [MemKept, execThermalSample]

@[simp] theorem execThermCtlWrite_memKept (value : Nat) (s : State) : MemKept s.mem (execThermCtlWrite value s) := by
  simp [MemKept, execThermCtlWrite]

@[simp] theorem execNotifyWrite_memKept (func offset width value : Nat) (s : State) : MemKept s.mem (execNotifyWrite func offset width value s) := by
  show State.mem _ = _
  repeat' split
  all_goals simp

@[simp] theorem execTakeRecord_memKept (queue : Nat) (s : State) : MemKept s.mem (execTakeRecord queue s) := by
  have hread := s.engineRead_memIs (s.queue queue).asid (ringAddr (s.queue queue) (s.queue queue).taken) 128
  show State.mem _ = _
  split
  · rfl
  · split
    · simp
    · split <;> rename_i h <;> rw [h] at hread <;> replace hread : _ = s.mem := hread
      · exact hread
      · simpa using hread
      · simpa using hread

@[simp] theorem execDependenceWait_memKept (queue : Nat) (s : State) : MemKept s.mem (execDependenceWait queue s) := by
  unfold execDependenceWait
  show State.mem _ = _
  dsimp only
  repeat' split
  all_goals simp

@[simp] theorem execApertureAccess_memKept (func offset len : Nat) (data : Option (List Byte)) (s : State) :
    MemKept s.mem (execApertureAccess func offset len data s) := by
  unfold execApertureAccess
  show State.mem _ = _
  dsimp only
  repeat' split
  all_goals simp

@[simp] theorem execQueueEnable_memKept (queue value : Nat) (s : State) : MemKept s.mem (execQueueEnable queue value s) := by
  simp [MemKept, execQueueEnable]

@[simp] theorem execQueueDisable_memKept (queue : Nat) (s : State) : MemKept s.mem (execQueueDisable queue s) := by
  simp [MemKept, execQueueDisable]

@[simp] theorem execTlbiCmdVmid_memKept (func value : Nat) (s : State) : MemKept s.mem (execTlbiCmdVmid func value s) := by
  simp [MemKept, execTlbiCmdVmid]

@[simp] theorem execTlbiCmdAsid_memKept (func value : Nat) (s : State) : MemKept s.mem (execTlbiCmdAsid func value s) := by
  simp [MemKept, execTlbiCmdAsid]

@[simp] theorem execTlbiCmdAsidVa_memKept (func value : Nat) (s : State) : MemKept s.mem (execTlbiCmdAsidVa func value s) := by
  simp [MemKept, execTlbiCmdAsidVa]

@[simp] theorem execTlbiCmdS2Range_memKept (func value : Nat) (s : State) : MemKept s.mem (execTlbiCmdS2Range func value s) := by
  simp [MemKept, execTlbiCmdS2Range]

@[simp] theorem execTlbiCmdAll_memKept (func value : Nat) (s : State) : MemKept s.mem (execTlbiCmdAll func value s) := by
  simp [MemKept, execTlbiCmdAll]

@[simp] theorem execTlbiCmdRefused_memKept (func value : Nat) (s : State) : MemKept s.mem (execTlbiCmdRefused func value s) := by
  simp [MemKept, execTlbiCmdRefused]

@[simp] theorem execTlbiComplete_memKept (func : Nat) (s : State) : MemKept s.mem (execTlbiComplete func s) := by
  simp [MemKept, execTlbiComplete]

@[simp] theorem execWalkComplete_memKept (core asid page : Nat) (s : State) : MemKept s.mem (execWalkComplete core asid page s) := by
  show State.mem _ = _
  repeat' split
  all_goals simp

@[simp] theorem execFqBaseWrite_memKept (func value : Nat) (s : State) : MemKept s.mem (execFqBaseWrite func value s) := by
  simp [MemKept, execFqBaseWrite]

@[simp] theorem execFqCtlWrite_memKept (func value : Nat) (s : State) : MemKept s.mem (execFqCtlWrite func value s) := by
  simp [MemKept, execFqCtlWrite]

@[simp] theorem execFqConsWrite_memKept (func value : Nat) (s : State) : MemKept s.mem (execFqConsWrite func value s) := by
  simp [MemKept, execFqConsWrite]

@[simp] theorem execFaultRecordWrite_memKept (func : Nat) (s : State) : MemKept s.mem (execFaultRecordWrite func s) := by
  show State.mem _ = _
  split
  · rfl
  · split
    · rfl
    · split
      · simp
      · dsimp only
        split
        · simp
        · split
          · simp
          · next hwrite =>
            split
            · simp
            · next hlog => simpa [State.logReleased_mem hlog] using State.ringWrite_mem hwrite

@[simp] theorem execFqAckRetry_memKept (func seq : Nat) (s : State) : MemKept s.mem (execFqAckRetry func seq s) := by
  simp [MemKept, execFqAckRetry]

@[simp] theorem execFqAckTrap_memKept (func seq : Nat) (s : State) : MemKept s.mem (execFqAckTrap func seq s) := by
  simp [MemKept, execFqAckTrap]

@[simp] theorem execFqAckEnd_memKept (func seq : Nat) (s : State) : MemKept s.mem (execFqAckEnd func seq s) := by
  simp [MemKept, execFqAckEnd]

@[simp] theorem execFqAckInvalid_memKept (func value : Nat) (s : State) : MemKept s.mem (execFqAckInvalid func value s) := by
  simp [MemKept, execFqAckInvalid]

@[simp] theorem execActiveSetRotate_memKept (core sched : Nat) (s : State) : MemKept s.mem (execActiveSetRotate core sched s) := by
  show State.mem _ = _
  repeat' split
  all_goals simp

@[simp] theorem execInstructionFetch_memKept (group : Nat) (slotB : Bool) (s : State) : MemKept s.mem (execInstructionFetch group slotB s) := by
  show State.mem _ = _
  split
  · rfl
  · dsimp only
    split
    · rfl
    · split
      · rfl
      · split <;> rename_i h <;> have hs := State.mem_of_fst (State.fetched_mem ..) h
        · split <;> simpa using hs
        · exact hs

@[simp] theorem execLongLatencyComplete_memKept (group window : Nat) (s : State) : MemKept s.mem (execLongLatencyComplete group window s) := by
  show State.mem _ = _
  repeat' split
  all_goals simp

@[simp] theorem execStackSpillAccess_memKept (group : Nat) (s : State) : MemKept s.mem (execStackSpillAccess group s) := by
  have htouch (g : Group) (xs : List (Access × Nat)) :
      (xs.foldl (fun (s, w) a => let (s, x) := State.spillTouch s g a.1 a.2; (s, w || x)) (s, false)).1.mem = s.mem :=
    State.foldl_fst_mem (fun p a => by simp) _ _
  show State.mem _ = _
  split
  · rfl
  · split
    · rfl
    · split <;> rename_i h <;> have hs := State.mem_of_fst (htouch _ _) h <;> simpa using hs

@[simp] theorem execYieldRelease_memKept (group : Nat) (slotB : Bool) (s : State) : MemKept s.mem (execYieldRelease group slotB s) := by
  unfold execYieldRelease
  show State.mem _ = _
  dsimp only
  repeat' split
  all_goals simp

@[simp] theorem execTrapEntry_memKept (group : Nat) (s : State) : MemKept s.mem (execTrapEntry group s) := by
  show State.mem _ = _
  repeat' split
  all_goals simp

@[simp] theorem execAsyncTrapDeliver_memKept (group : Nat) (s : State) : MemKept s.mem (execAsyncTrapDeliver group s) := by
  show State.mem _ = _
  split
  · rfl
  · split
    · rfl
    · split
      · simp
      · split
        · exact State.getD_mem rfl fun _ => State.dueAsync_mem
        · rfl

@[simp] theorem execGroupEnd_memKept (group : Nat) (s : State) : MemKept s.mem (execGroupEnd group s) := by
  show State.mem _ = _
  split
  · rfl
  · split
    · rfl
    · split
      · simp
      · split
        · rfl
        · split
          · split
            · rfl
            · next hback =>
              have hback := writeBackSaved_mem hback
              split
              · simpa using hback
              · next hlog => simpa using (State.logReleased_mem hlog).trans hback
          · split <;> rename_i h <;> have hs := State.mem_of_fst (State.release?_mem ..) h <;> simpa using hs

@[simp] theorem execTeamExit_memKept (team : Nat) (s : State) : MemKept s.mem (execTeamExit team s) := by
  have hrelease (gs : List (Nat × Group)) :
      (gs.foldl (fun (s, b) g => let (s, ok) := s.release? (s.who g.1) true true; (s, b && ok)) (s, true)).1.mem = s.mem :=
    State.foldl_fst_mem (fun p g => by simp) _ _
  show State.mem _ = _
  split
  · rfl
  · split
    · split
      · rfl
      · next hback => simpa using writeBackSaved_mem hback
    · dsimp only
      split
      · rfl
      · split <;> rename_i h <;> have hs := State.mem_of_fst (hrelease _) h
        · exact hs
        · have hend (gs : List (Nat × Group)) (t : State) : (gs.foldl (fun s g => if g.2.ended then s else endGroup s g.1) t).mem = t.mem :=
            State.foldl_mem (fun s g => by split <;> simp) _ _
          split <;> simp [hend, hs]

@[simp] theorem execMmaMultiplyStart_memKept (group : Nat) (s : State) : MemKept s.mem (execMmaMultiplyStart group s) := by
  simp [MemKept, execMmaMultiplyStart]

@[simp] theorem execAccTileRelease_memKept (core tile : Nat) (s : State) : MemKept s.mem (execAccTileRelease core tile s) := by
  show State.mem _ = _
  repeat' split
  all_goals simp

@[simp] theorem execRangeRekey_memKept (n : Nat) (s : State) : MemKept s.mem (execRangeRekey n s) := by
  simp [MemKept, execRangeRekey]

@[simp] theorem execRekeyComplete_memKept (n : Nat) (s : State) : MemKept s.mem (execRekeyComplete n s) := by
  simp [MemKept, execRekeyComplete]

@[simp] theorem execBaseDieReply_memKept (stack tag : Nat) (s : State) : MemKept s.mem (execBaseDieReply stack tag s) := by
  show State.mem _ = _
  repeat' split
  all_goals simp

@[simp] theorem execHomeWriteArrive_memKept (core line : Nat) (s : State) : MemKept s.mem (execHomeWriteArrive core line s) := by
  simp [MemKept, execHomeWriteArrive]

@[simp] theorem execNarrowHolderPublish_memKept (core line : Nat) (s : State) : MemKept s.mem (execNarrowHolderPublish core line s) := by
  simp [MemKept, execNarrowHolderPublish]

@[simp] theorem execSiltMerge_memKept (core line : Nat) (s : State) : MemKept s.mem (execSiltMerge core line s) := by
  simp [MemKept, execSiltMerge]

@[simp] theorem execInvalidationReceive_memKept (core line : Nat) (s : State) : MemKept s.mem (execInvalidationReceive core line s) := by
  simp [MemKept, execInvalidationReceive]

@[simp] theorem execLineFill_memKept (core line : Nat) (s : State) : MemKept s.mem (execLineFill core line s) := by
  simp [MemKept, execLineFill]

@[simp] theorem execWindowFill_memKept (team word : Nat) (s : State) : MemKept s.mem (execWindowFill team word s) := by
  show State.mem _ = _
  repeat' split
  all_goals simp

@[simp] theorem execLogCtlWrite_memKept (func value : Nat) (s : State) : MemKept s.mem (execLogCtlWrite func value s) := by
  simp [MemKept, execLogCtlWrite]

@[simp] theorem execLogRecordAppend_memKept (func : Nat) (s : State) : MemKept s.mem (execLogRecordAppend func s) := by
  show State.mem _ = _
  split
  · rfl
  · split
    · simp
    · exact State.getD_mem rfl fun _ => State.appendRange_mem

@[simp] theorem execWaitaWake_memKept (group : Nat) (s : State) : MemKept s.mem (execWaitaWake group s) := by
  show State.mem _ = _
  split
  · rfl
  · split
    · split
      · rfl
      · dsimp only
        split
        · split
          · simp
          · exact (State.endWait_mem _ _ fun c hc => holdWhole_memIs c hc _ _ _).trans (waitaWalked_mem _ _ _ _)
        · split <;> rename_i h <;> have hs := (State.mem_of_fst (waitaRead_mem ..) h).trans (waitaWalked_mem ..)
          · exact hs
          · split
            · exact (State.endWait_mem _ _ fun _ hc => giveResult_memIs hc _).trans hs
            · simpa using hs
    · rfl

@[simp] theorem execWaitaTimeout_memKept (group : Nat) (s : State) : MemKept s.mem (execWaitaTimeout group s) := by
  show State.mem _ = _
  split
  · rfl
  · split
    · split
      · exact State.endWait_mem _ _ fun _ hc => giveResult_memIs hc _
      · rfl
    · rfl

@[simp] theorem execVdnCommit_memKept (n value : Nat) (s : State) : MemKept s.mem (execVdnCommit n value s) := rfl

@[simp] theorem execNetctxArm_memKept (n : Nat) (s : State) : MemKept s.mem (execNetctxArm n s) := by
  simp [MemKept, execNetctxArm]

@[simp] theorem execNetctxInvalidate_memKept (n : Nat) (s : State) : MemKept s.mem (execNetctxInvalidate n s) := by
  simp [MemKept, execNetctxInvalidate]

@[simp] theorem execForwardTimerExpire_memKept (n : Nat) (s : State) : MemKept s.mem (execForwardTimerExpire n s) := by
  simp [MemKept, execForwardTimerExpire]

@[simp] theorem execWrStart_memKept (pid queue : Nat) (s : State) : MemKept s.mem (execWrStart pid queue s) := by
  show State.mem _ = _
  split
  · rfl
  · split
    · simp
    · split
      · rfl
      · next r _ =>
        dsimp only
        split
        · split <;> simp
        · split
          · split <;> simp
          · split
            · simp
            · split
              · simp
              · split
                · simp
                · have hread := (localWalked s (s.net pid).asid r).engineRead_memIs (s.net pid).asid r.laddr r.length
                  rw [localWalked_mem] at hread
                  split
                  · split <;> rename_i h <;> rw [h] at hread <;> replace hread : _ = s.mem := hread <;> simpa using hread
                  · simp

@[simp] theorem execPacketReceive_memKept (packet : NetPacket) (s : State) : MemKept s.mem (execPacketReceive packet s) := by
  show State.mem _ = _
  repeat' split
  all_goals simp

@[simp] theorem execPacketAckReceive_memKept (ack : NetAck) (s : State) : MemKept s.mem (execPacketAckReceive ack s) := by
  show State.mem _ = _
  repeat' split
  all_goals simp

@[simp] theorem execResponseReceive_memKept (resp : NetResponse) (s : State) : MemKept s.mem (execResponseReceive resp s) := by
  show State.mem _ = _
  split
  · simp
  · next r _ =>
    split
    · rfl
    · dsimp only
      generalize (if r.op = 1 then WorkReq.packets r.length r.packet else 1) = total
      split
      · rfl
      · split
        · simp
        · split
          · simp
          · split <;> rename_i h <;> have hs := (State.mem_of_fst (State.engineWriteAt_mem ..) h).trans (State.engineWalked_mem ..)
            · exact hs
            · split <;> simpa using hs

@[simp] theorem execNotReadyReceive_memKept (pid queue msg pkt : Nat) (s : State) : MemKept s.mem (execNotReadyReceive pid queue msg pkt s) := by
  show State.mem _ = _
  repeat' split
  all_goals simp

@[simp] theorem execRetransmitTimeout_memKept (pid queue msg pkt : Nat) (s : State) : MemKept s.mem (execRetransmitTimeout pid queue msg pkt s) := by
  show State.mem _ = _
  repeat' split
  all_goals simp

@[simp] theorem execMovedReceive_memKept (pid queue msg pkt : Nat) (s : State) : MemKept s.mem (execMovedReceive pid queue msg pkt s) := by
  show State.mem _ = _
  repeat' split
  all_goals simp

@[simp] theorem execMovedRecheck_memKept (pid queue msg pkt : Nat) (s : State) : MemKept s.mem (execMovedRecheck pid queue msg pkt s) := by
  show State.mem _ = _
  repeat' split
  all_goals simp

@[simp] theorem execEvictCmd_memKept (func value : Nat) (s : State) : MemKept s.mem (execEvictCmd func value s) := by
  unfold execEvictCmd
  show State.mem _ = _
  dsimp only
  repeat' split
  all_goals simp

@[simp] theorem execTeamEvict_memKept (team : Nat) (s : State) : MemKept s.mem (execTeamEvict team s) := by
  simp [MemKept, execTeamEvict]

@[simp] theorem execTeamRestore_memKept (team : Nat) (s : State) : MemKept s.mem (execTeamRestore team s) := by
  unfold execTeamRestore
  show State.mem _ = _
  dsimp only
  repeat' split
  all_goals simp

@[simp] theorem execMarlCopyRound_memKept (stack value : Nat) (s : State) : MemKept s.mem (execMarlCopyRound stack value s) := by
  simp [MemKept, execMarlCopyRound]

@[simp] theorem execMarlClearRound_memKept (stack value : Nat) (s : State) : MemKept s.mem (execMarlClearRound stack value s) := by
  simp [MemKept, execMarlClearRound]

@[simp] theorem execMarlDrainRound_memKept (stack value : Nat) (s : State) : MemKept s.mem (execMarlDrainRound stack value s) := by
  simp [MemKept, execMarlDrainRound]

@[simp] theorem execVfQuiesce_memKept (w : VfctlWrite) (s : State) : MemKept s.mem (execVfQuiesce w s) := by
  show State.mem _ = _
  repeat' split
  all_goals simp

@[simp] theorem execQuiesceComplete_memKept (func : Nat) (s : State) : MemKept s.mem (execQuiesceComplete func s) := by
  simp [MemKept, execQuiesceComplete]

@[simp] theorem execVfSave_memKept (w : VfctlWrite) (s : State) : MemKept s.mem (execVfSave w s) := by
  show State.mem _ = _
  repeat' split
  all_goals simp

@[simp] theorem execSaveComplete_memKept (func : Nat) (s : State) : MemKept s.mem (execSaveComplete func s) := by
  simp [MemKept, execSaveComplete]

@[simp] theorem execVfResume_memKept (w : VfctlWrite) (s : State) : MemKept s.mem (execVfResume w s) := by
  show State.mem _ = _
  repeat' split
  all_goals simp

@[simp] theorem execVfRestore_memKept (w : VfctlWrite) (s : State) : MemKept s.mem (execVfRestore w s) := by
  show State.mem _ = _
  repeat' split
  all_goals simp

@[simp] theorem execVfctlRefused_memKept (func value : Nat) (s : State) : MemKept s.mem (execVfctlRefused func value s) := by
  simp [MemKept, execVfctlRefused]

@[simp] theorem execPartitionReset_memKept (part cause : Nat) (s : State) : MemKept s.mem (execPartitionReset part cause s) := by
  simp [MemKept, execPartitionReset]

@[simp] theorem execScrubAtom_memKept (stack atom : Nat) (s : State) : MemKept s.mem (execScrubAtom stack atom s) := by
  show State.mem _ = _
  repeat' split
  all_goals simp

@[simp] theorem execErrCtlWrite_memKept (value : Nat) (s : State) : MemKept s.mem (execErrCtlWrite value s) := rfl

@[simp] theorem execBankDrowsy_memKept (core bank : Nat) (s : State) : MemKept s.mem (execBankDrowsy core bank s) := by
  simp [MemKept, execBankDrowsy]

@[simp] theorem execRptCmdLaunch_memKept (value : Nat) (s : State) : MemKept s.mem (execRptCmdLaunch value s) := by
  unfold execRptCmdLaunch
  show State.mem _ = _
  dsimp only
  repeat' split
  all_goals simp

@[simp] theorem execRptCmdNetctx_memKept (value : Nat) (s : State) : MemKept s.mem (execRptCmdNetctx value s) := by
  simp [MemKept, execRptCmdNetctx]

@[simp] theorem execRptCmdRefused_memKept (value : Nat) (s : State) : MemKept s.mem (execRptCmdRefused value s) := by
  simp [MemKept, execRptCmdRefused]

@[simp] theorem execJobCmd_memKept (value : Nat) (s : State) : MemKept s.mem (execJobCmd value s) := by
  simp [MemKept, execJobCmd]

@[simp] theorem execRptCtlWrite_memKept (value : Nat) (s : State) : MemKept s.mem (execRptCtlWrite value s) := by
  simp [MemKept, execRptCtlWrite]

@[simp] theorem execProfCtlWrite_memKept (func value : Nat) (s : State) : MemKept s.mem (execProfCtlWrite func value s) := by
  simp [MemKept, execProfCtlWrite]

@[simp] theorem execTrcCtlWrite_memKept (func value : Nat) (s : State) : MemKept s.mem (execTrcCtlWrite func value s) := by
  simp [MemKept, execTrcCtlWrite]

@[simp] theorem execSampleTick_memKept (core sched : Nat) (s : State) : MemKept s.mem (execSampleTick core sched s) := by
  unfold execSampleTick
  extract_lets log
  clear_value log
  show State.mem _ = _
  split
  · rfl
  · split
    · rfl
    · dsimp only
      split
      · simp
      · split
        · simp
        · split
          · simp
          · split
            · simp
            · next h => simpa using State.ringWrite_mem h

@[simp] theorem execDbgHalt_memKept (func value : Nat) (s : State) : MemKept s.mem (execDbgHalt func value s) := by
  show State.mem _ = _
  split
  · split
    · rfl
    · dsimp only
      split
      · simp
      · split
        · rfl
        · split <;> simp
  · refine dbgCommand_mem _ _ _ _ fun {u k g t} h => ?_
    cases h
    split <;> simp

@[simp] theorem execDbgResume_memKept (func value : Nat) (s : State) : MemKept s.mem (execDbgResume func value s) :=
  dbgCommand_mem _ _ _ _ fun h => by
    cases h
    exact State.setGroup_mem _ _ _

@[simp] theorem execDbgStep_memKept (func value : Nat) (s : State) : MemKept s.mem (execDbgStep func value s) :=
  dbgCommand_mem _ _ _ _ fun h => by
    cases h
    split <;> simp

theorem focusLane_mem {s t : State} {k : Nat} {g : Group} {b : Bool} {lane j : Nat} (h : focusLane s k g b lane j = some t) : t.mem = s.mem := by
  have hpush (p : Prop) [Decidable p] (g : Group) (es : List StackEntry) : (if p then pushAll s g es else .needs : StackOp).MemIs s.mem := by
    split
    · exact pushAll_memIs _ _ _
    · trivial
  unfold focusLane at h
  dsimp only at h
  split at h
  · next hp =>
    cases h
    simpa using (hpush _ _ _).of_ok hp
  · cases h

@[simp] theorem execDbgLaneFocus_memKept (func value : Nat) (s : State) : MemKept s.mem (execDbgLaneFocus func value s) :=
  dbgCommand_mem _ _ _ _ fun h => by
    dsimp only at h
    split at h
    · exact focusLane_mem h
    · cases h

@[simp] theorem execDbgReadRecord_memKept (func value : Nat) (s : State) : MemKept s.mem (execDbgReadRecord func value s) := by
  show State.mem _ = _
  split
  · simp
  · refine dbgCommand_mem _ _ _ _ fun h => ?_
    split at h
    · simpa using State.ringWrite_mem h
    · cases h

@[simp] theorem execDbgCmdRefused_memKept (func value : Nat) (s : State) : MemKept s.mem (execDbgCmdRefused func value s) := by
  simp [MemKept, execDbgCmdRefused]

@[simp] theorem execCstatWrite_memKept (core value : Nat) (s : State) : MemKept s.mem (execCstatWrite core value s) := by
  simp [MemKept, execCstatWrite]

@[simp] theorem execNop_memKept (f : Fields) (s : State) : MemKept s.mem (execNop f s) :=
  issue_mem _ _ _ _ _ _ fun _ hc => by simpa [Res.MemIs] using hc

@[simp] theorem execBra_memKept (f : Fields) (s : State) : MemKept s.mem (execBra f s) :=
  issue_mem _ _ _ _ _ _ fun _ hc => by simpa [Res.MemIs] using hc

@[simp] theorem execBrc_memKept (f : Fields) (s : State) : MemKept s.mem (execBrc f s) := issue_mem _ _ _ _ _ _ fun _ hc => diverge_memIs hc _ _

@[simp] theorem execBrx_memKept (f : Fields) (s : State) : MemKept s.mem (execBrx f s) := by
  refine issue_mem _ _ _ _ _ _ fun c hc => ?_
  dsimp only
  split
  · exact targetFault_memIs hc _ _
  · exact diverge_memIs hc _ _

@[simp] theorem execCall_memKept (f : Fields) (s : State) : MemKept s.mem (execCall f s) := issue_mem _ _ _ _ _ _ fun _ hc => callTo_memIs hc _

@[simp] theorem execCallx_memKept (f : Fields) (s : State) : MemKept s.mem (execCallx f s) :=
  issue_mem _ _ _ _ _ _ fun _ hc => Res.memIs_ite (targetFault_memIs hc _ _) (callTo_memIs hc _)

@[simp] theorem execRet_memKept (f : Fields) (s : State) : MemKept s.mem (execRet f s) := by
  refine issue_mem _ _ _ _ _ _ fun c hc => ?_
  dsimp only
  split
  · split
    · next h => exact (State.setGroup_mem _ _ _).trans (((removeEntry_memIs _ _ _).of_ok h).trans hc)
    · exact stackFails_memIs hc _
  · exact stackFails_memIs hc _
  · trivial

@[simp] theorem execExit_memKept (f : Fields) (s : State) : MemKept s.mem (execExit f s) :=
  issue_mem _ _ _ _ _ _ fun _ hc => Res.memIs_ite (exitLanes_memIs hc hc _) hc

@[simp] theorem execLoop_memKept (f : Fields) (s : State) : MemKept s.mem (execLoop f s) :=
  issue_mem _ _ _ _ _ _ fun _ hc => Res.memIs_ite hc (by simpa [Res.MemIs] using hc)

@[simp] theorem execLbrk_memKept (f : Fields) (s : State) : MemKept s.mem (execLbrk f s) := by
  refine issue_mem _ _ _ _ _ _ fun c hc => ?_
  split
  · exact Res.memIs_ite ((State.setGroup_mem _ _ _).trans hc) hc
  · exact hc

@[simp] theorem execYield_memKept (f : Fields) (s : State) : MemKept s.mem (execYield f s) :=
  issue_mem _ _ _ _ _ _ fun _ hc => by simpa [Res.MemIs] using hc

@[simp] theorem execSetfmt_memKept (f : Fields) (s : State) : MemKept s.mem (execSetfmt f s) :=
  issue_mem _ _ _ _ _ _ fun _ hc => by simpa [Res.MemIs] using hc

@[simp] theorem execGetfmt_memKept (f : Fields) (s : State) : MemKept s.mem (execGetfmt f s) :=
  issue_mem _ _ _ _ _ _ fun _ hc => giveResult_memIs hc _

@[simp] theorem execWrmask_memKept (f : Fields) (s : State) : MemKept s.mem (execWrmask f s) :=
  issue_mem _ _ _ _ _ _ fun _ hc => by simpa [Res.MemIs] using hc

@[simp] theorem execIadd_memKept (f : Fields) (s : State) : MemKept s.mem (execIadd f s) := alu_memKept _ _ _ _ _ _ _ _ _

@[simp] theorem execIaddc_memKept (f : Fields) (s : State) : MemKept s.mem (execIaddc f s) := by
  refine issue_mem _ _ _ _ _ _ fun c hc => ?_
  dsimp only
  repeat' split
  all_goals simpa [Res.MemIs] using hc

@[simp] theorem execIsub_memKept (f : Fields) (s : State) : MemKept s.mem (execIsub f s) := alu_memKept _ _ _ _ _ _ _ _ _

@[simp] theorem execIsubb_memKept (f : Fields) (s : State) : MemKept s.mem (execIsubb f s) := by
  refine issue_mem _ _ _ _ _ _ fun c hc => ?_
  dsimp only
  repeat' split
  all_goals simpa [Res.MemIs] using hc

@[simp] theorem execImul_memKept (f : Fields) (s : State) : MemKept s.mem (execImul f s) := alu_memKept _ _ _ _ _ _ _ _ _

@[simp] theorem execImulh_memKept (f : Fields) (s : State) : MemKept s.mem (execImulh f s) := alu_memKept _ _ _ _ _ _ _ _ _

@[simp] theorem execImad_memKept (f : Fields) (s : State) : MemKept s.mem (execImad f s) := alu_memKept _ _ _ _ _ _ _ _ _

@[simp] theorem execIabs_memKept (f : Fields) (s : State) : MemKept s.mem (execIabs f s) := alu_memKept _ _ _ _ _ _ _ _ _

@[simp] theorem execIneg_memKept (f : Fields) (s : State) : MemKept s.mem (execIneg f s) := alu_memKept _ _ _ _ _ _ _ _ _

@[simp] theorem execImin_memKept (f : Fields) (s : State) : MemKept s.mem (execImin f s) := alu_memKept _ _ _ _ _ _ _ _ _

@[simp] theorem execImax_memKept (f : Fields) (s : State) : MemKept s.mem (execImax f s) := alu_memKept _ _ _ _ _ _ _ _ _

@[simp] theorem execAddsat_memKept (f : Fields) (s : State) : MemKept s.mem (execAddsat f s) := alu_memKept _ _ _ _ _ _ _ _ _

@[simp] theorem execPmad2_memKept (f : Fields) (s : State) : MemKept s.mem (execPmad2 f s) := alu_memKept _ _ _ _ _ _ _ _ _

@[simp] theorem execRshr_memKept (f : Fields) (s : State) : MemKept s.mem (execRshr f s) := alu_memKept _ _ _ _ _ _ _ _ _

@[simp] theorem execDp4_memKept (f : Fields) (s : State) : MemKept s.mem (execDp4 f s) := alu_memKept _ _ _ _ _ _ _ _ _

@[simp] theorem execBitAnd_memKept (f : Fields) (s : State) : MemKept s.mem (execBitAnd f s) := alu_memKept _ _ _ _ _ _ _ _ _

@[simp] theorem execBitOr_memKept (f : Fields) (s : State) : MemKept s.mem (execBitOr f s) := alu_memKept _ _ _ _ _ _ _ _ _

@[simp] theorem execBitXor_memKept (f : Fields) (s : State) : MemKept s.mem (execBitXor f s) := alu_memKept _ _ _ _ _ _ _ _ _

@[simp] theorem execBitNot_memKept (f : Fields) (s : State) : MemKept s.mem (execBitNot f s) := alu_memKept _ _ _ _ _ _ _ _ _

@[simp] theorem execShl_memKept (f : Fields) (s : State) : MemKept s.mem (execShl f s) := alu_memKept _ _ _ _ _ _ _ _ _

@[simp] theorem execShr_memKept (f : Fields) (s : State) : MemKept s.mem (execShr f s) := alu_memKept _ _ _ _ _ _ _ _ _

@[simp] theorem execSar_memKept (f : Fields) (s : State) : MemKept s.mem (execSar f s) := alu_memKept _ _ _ _ _ _ _ _ _

@[simp] theorem execRot_memKept (f : Fields) (s : State) : MemKept s.mem (execRot f s) := alu_memKept _ _ _ _ _ _ _ _ _

@[simp] theorem execBfe_memKept (f : Fields) (s : State) : MemKept s.mem (execBfe f s) := alu_memKept _ _ _ _ _ _ _ _ _

@[simp] theorem execBfi_memKept (f : Fields) (s : State) : MemKept s.mem (execBfi f s) := alu_memKept _ _ _ _ _ _ _ _ _

@[simp] theorem execPopc_memKept (f : Fields) (s : State) : MemKept s.mem (execPopc f s) := alu_memKept _ _ _ _ _ _ _ _ _

@[simp] theorem execClz_memKept (f : Fields) (s : State) : MemKept s.mem (execClz f s) := alu_memKept _ _ _ _ _ _ _ _ _

@[simp] theorem execBrev_memKept (f : Fields) (s : State) : MemKept s.mem (execBrev f s) := alu_memKept _ _ _ _ _ _ _ _ _

@[simp] theorem execIcmp_memKept (f : Fields) (s : State) : MemKept s.mem (execIcmp f s) := alu_memKept _ _ _ _ _ _ _ _ _

@[simp] theorem execSel_memKept (f : Fields) (s : State) : MemKept s.mem (execSel f s) := alu_memKept _ _ _ _ _ _ _ _ _

@[simp] theorem execMov_memKept (f : Fields) (s : State) : MemKept s.mem (execMov f s) := alu_memKept _ _ _ _ _ _ _ _ _

@[simp] theorem execMovi_memKept (f : Fields) (s : State) : MemKept s.mem (execMovi f s) := alu_memKept _ _ _ _ _ _ _ _ _

@[simp] theorem execFadd_memKept (f : Fields) (s : State) : MemKept s.mem (execFadd f s) := alu_memKept _ _ _ _ _ _ _ _ _

@[simp] theorem execFsub_memKept (f : Fields) (s : State) : MemKept s.mem (execFsub f s) := alu_memKept _ _ _ _ _ _ _ _ _

@[simp] theorem execFmul_memKept (f : Fields) (s : State) : MemKept s.mem (execFmul f s) := alu_memKept _ _ _ _ _ _ _ _ _

@[simp] theorem execFfma_memKept (f : Fields) (s : State) : MemKept s.mem (execFfma f s) := alu_memKept _ _ _ _ _ _ _ _ _

@[simp] theorem execFmin_memKept (f : Fields) (s : State) : MemKept s.mem (execFmin f s) := alu_memKept _ _ _ _ _ _ _ _ _

@[simp] theorem execFmax_memKept (f : Fields) (s : State) : MemKept s.mem (execFmax f s) := alu_memKept _ _ _ _ _ _ _ _ _

@[simp] theorem execFcmp_memKept (f : Fields) (s : State) : MemKept s.mem (execFcmp f s) := alu_memKept _ _ _ _ _ _ _ _ _

@[simp] theorem execFclass_memKept (f : Fields) (s : State) : MemKept s.mem (execFclass f s) := alu_memKept _ _ _ _ _ _ _ _ _

@[simp] theorem execFround_memKept (f : Fields) (s : State) : MemKept s.mem (execFround f s) := alu_memKept _ _ _ _ _ _ _ _ _

@[simp] theorem execHadd2_memKept (f : Fields) (s : State) : MemKept s.mem (execHadd2 f s) := alu_memKept _ _ _ _ _ _ _ _ _

@[simp] theorem execHmul2_memKept (f : Fields) (s : State) : MemKept s.mem (execHmul2 f s) := alu_memKept _ _ _ _ _ _ _ _ _

@[simp] theorem execHfma2_memKept (f : Fields) (s : State) : MemKept s.mem (execHfma2 f s) := alu_memKept _ _ _ _ _ _ _ _ _

@[simp] theorem execRcp_memKept (f : Fields) (s : State) : MemKept s.mem (execRcp f s) := special_memKept _ _ _ _

@[simp] theorem execRsqrt_memKept (f : Fields) (s : State) : MemKept s.mem (execRsqrt f s) := special_memKept _ _ _ _

@[simp] theorem execSqrt_memKept (f : Fields) (s : State) : MemKept s.mem (execSqrt f s) := special_memKept _ _ _ _

@[simp] theorem execExp2_memKept (f : Fields) (s : State) : MemKept s.mem (execExp2 f s) := special_memKept _ _ _ _

@[simp] theorem execLog2_memKept (f : Fields) (s : State) : MemKept s.mem (execLog2 f s) := special_memKept _ _ _ _

@[simp] theorem execSin_memKept (f : Fields) (s : State) : MemKept s.mem (execSin f s) := special_memKept _ _ _ _

@[simp] theorem execCos_memKept (f : Fields) (s : State) : MemKept s.mem (execCos f s) := special_memKept _ _ _ _

@[simp] theorem execCvt_memKept (f : Fields) (s : State) : MemKept s.mem (execCvt f s) := issue_mem _ _ _ _ _ _ fun _ hc => giveLanes_memIs hc _ _

@[simp] theorem execI2f_memKept (f : Fields) (s : State) : MemKept s.mem (execI2f f s) := issue_mem _ _ _ _ _ _ fun _ hc => giveLanes_memIs hc _ _

@[simp] theorem execF2i_memKept (f : Fields) (s : State) : MemKept s.mem (execF2i f s) := issue_mem _ _ _ _ _ _ fun _ hc => giveLanes_memIs hc _ _

@[simp] theorem execRand_memKept (f : Fields) (s : State) : MemKept s.mem (execRand f s) := issue_mem _ _ _ _ _ _ fun _ hc => giveLanes_memIs hc _ _

@[simp] theorem execShfl_memKept (f : Fields) (s : State) : MemKept s.mem (execShfl f s) := issue_mem _ _ _ _ _ _ fun _ hc => giveLanes_memIs hc _ _

@[simp] theorem execSlide_memKept (f : Fields) (s : State) : MemKept s.mem (execSlide f s) := issue_mem _ _ _ _ _ _ fun _ hc => giveLanes_memIs hc _ _

@[simp] theorem execVote_memKept (f : Fields) (s : State) : MemKept s.mem (execVote f s) := issue_mem _ _ _ _ _ _ fun _ hc => giveLanes_memIs hc _ _

@[simp] theorem execBallot_memKept (f : Fields) (s : State) : MemKept s.mem (execBallot f s) :=
  issue_mem _ _ _ _ _ _ fun _ hc => giveLanes_memIs hc _ _

@[simp] theorem execRedux_memKept (f : Fields) (s : State) : MemKept s.mem (execRedux f s) := issue_mem _ _ _ _ _ _ fun _ hc => giveLanes_memIs hc _ _

@[simp] theorem execScan_memKept (f : Fields) (s : State) : MemKept s.mem (execScan f s) := issue_mem _ _ _ _ _ _ fun _ hc => giveLanes_memIs hc _ _

@[simp] theorem execRdlane_memKept (f : Fields) (s : State) : MemKept s.mem (execRdlane f s) :=
  issue_mem _ _ _ _ _ _ fun _ hc => giveLanes_memIs hc _ _

@[simp] theorem execWrlane_memKept (f : Fields) (s : State) : MemKept s.mem (execWrlane f s) := by
  refine issue_mem _ _ _ _ _ _ fun c hc => ?_
  dsimp only
  repeat' split
  all_goals simpa [Res.MemIs] using hc

@[simp] theorem execPand_memKept (f : Fields) (s : State) : MemKept s.mem (execPand f s) := issue_mem _ _ _ _ _ _ fun _ hc => giveLanes_memIs hc _ _

@[simp] theorem execPor_memKept (f : Fields) (s : State) : MemKept s.mem (execPor f s) := issue_mem _ _ _ _ _ _ fun _ hc => giveLanes_memIs hc _ _

@[simp] theorem execPxor_memKept (f : Fields) (s : State) : MemKept s.mem (execPxor f s) := issue_mem _ _ _ _ _ _ fun _ hc => giveLanes_memIs hc _ _

@[simp] theorem execPnot_memKept (f : Fields) (s : State) : MemKept s.mem (execPnot f s) := issue_mem _ _ _ _ _ _ fun _ hc => giveLanes_memIs hc _ _

@[simp] theorem execMmaS_memKept (f : Fields) (s : State) : MemKept s.mem (execMmaS f s) := mmaForm_memKept _ _ _

@[simp] theorem execMmaV_memKept (f : Fields) (s : State) : MemKept s.mem (execMmaV f s) := mmaForm_memKept _ _ _

@[simp] theorem execMmaG_memKept (f : Fields) (s : State) : MemKept s.mem (execMmaG f s) := mmaForm_memKept _ _ _

@[simp] theorem execAccz_memKept (f : Fields) (s : State) : MemKept s.mem (execAccz f s) :=
  issue_mem _ _ _ _ _ _ fun _ hc => Res.memIs_ite
    (Res.memIs_ite hc (Res.memIs_ite hc ((setTile_mem _ _ _ _).trans ((enqueue_mem _ _ _).trans hc))))
    (afterTile_memIs hc _ fun _ => (setTile_mem _ _ _ _).trans hc)

@[simp] theorem execAccrd_memKept (f : Fields) (s : State) : MemKept s.mem (execAccrd f s) :=
  issue_mem _ _ _ _ _ _ fun _ hc => Res.memIs_ite ((State.setGroup_mem _ _ _).trans hc)
    (afterTile_memIs hc _ fun _ => Res.memIs_ite trivial ((State.setGroup_mem _ _ _).trans ((setTile_mem _ _ _ _).trans hc)))

@[simp] theorem execAccwr_memKept (f : Fields) (s : State) : MemKept s.mem (execAccwr f s) :=
  issue_mem _ _ _ _ _ _ fun _ hc => afterTile_memIs hc _ fun _ => (Ctx.count_mem _ _ _ _).trans ((setTile_mem _ _ _ _).trans hc)

@[simp] theorem execAccst_memKept (f : Fields) (s : State) : MemKept s.mem (execAccst f s) := by
  refine issue_mem _ _ _ _ _ _ fun c hc => afterTile_memIs hc _ fun t => ?_
  have hwalked (p : Prop) [Decidable p] (vas : List Nat) : (if p then c else c.walked vas).s.mem = s.mem := by
    split
    · exact hc
    · exact (Ctx.walked_mem _ _).trans hc
  extract_lets +onlyGivenNames w addr pitch c'
  obtain ⟨d, hd, hdc⟩ : ∃ d : Ctx, d.s.mem = s.mem ∧ d = c' := ⟨_, hwalked _ _, rfl⟩
  rw [← hdc]
  extract_lets +onlyGivenNames who core claimed held
  have hclaimed : claimed.mem = s.mem := (setTile_mem _ _ _ _).trans hd
  have hheld (x : XFault) (a : Nat) : (held x a).MemIs s.mem := by
    refine holdWhole_memIs _ ?_ _ _ _
    split
    · exact hclaimed
    · exact (enqueue_mem _ _ _).trans hclaimed
  refine Res.memIs_ite trivial (Res.memIs_ite (hheld _ _) ?_)
  split
  · exact hheld _ _
  · extract_lets +onlyGivenNames fn
    refine Res.memIs_ite (hheld _ _) (Res.memIs_ite hd (Res.memIs_ite ((State.logFullSet_mem _ _).trans hd) ?_))
    extract_lets +onlyGivenNames bytes k u
    have hu : u.mem = s.mem := (State.foldl_mem (fun _ _ => State.storeL1_mem _ _ _ _) _ _).trans ((State.setCore_mem _ _ _).trans hclaimed)
    show (d.count 11 1 (d.count 13 (8192 * w) u)).mem = s.mem
    rw [Ctx.count_mem, Ctx.count_mem, hu]

@[simp] theorem execQnt_memKept (f : Fields) (s : State) : MemKept s.mem (execQnt f s) := by
  refine issue_mem _ _ _ _ _ _ fun c hc => ?_
  dsimp only
  repeat' split
  all_goals simpa [Res.MemIs] using hc

@[simp] theorem execLdcb_memKept (f : Fields) (s : State) : MemKept s.mem (execLdcb f s) :=
  issue_mem _ _ _ _ _ _ fun _ hc => Res.memIs_ite hc (by simpa [Res.MemIs] using hc)

@[simp] theorem execLd_memKept (f : Fields) (s : State) : MemKept s.mem (execLd f s) := issue_mem _ _ _ _ _ _ fun _ hc => laneAccess_memIs hc _

@[simp] theorem execSt_memKept (f : Fields) (s : State) : MemKept s.mem (execSt f s) := issue_mem _ _ _ _ _ _ fun _ hc => laneAccess_memIs hc _

@[simp] theorem execLds_memKept (f : Fields) (s : State) : MemKept s.mem (execLds f s) := issue_mem _ _ _ _ _ _ fun _ hc => laneAccess_memIs hc _

@[simp] theorem execSts_memKept (f : Fields) (s : State) : MemKept s.mem (execSts f s) := issue_mem _ _ _ _ _ _ fun _ hc => laneAccess_memIs hc _

@[simp] theorem execLdTensor_memKept (f : Fields) (s : State) : MemKept s.mem (execLdTensor f s) :=
  issue_mem _ _ _ _ _ _ fun _ hc => laneAccess_memIs hc _

@[simp] theorem execStTensor_memKept (f : Fields) (s : State) : MemKept s.mem (execStTensor f s) :=
  issue_mem _ _ _ _ _ _ fun _ hc => laneAccess_memIs hc _

@[simp] theorem execTset_memKept (f : Fields) (s : State) : MemKept s.mem (execTset f s) :=
  issue_mem _ _ _ _ _ _ fun _ hc => Res.memIs_ite hc (by simpa [Res.MemIs] using hc)

@[simp] theorem execPref_memKept (f : Fields) (s : State) : MemKept s.mem (execPref f s) :=
  issue_mem _ _ _ _ _ _ fun _ hc => by simpa [Res.MemIs] using hc

@[simp] theorem execWmap_memKept (f : Fields) (s : State) : MemKept s.mem (execWmap f s) := by
  refine issue_mem _ _ _ _ _ _ fun c hc => Res.memIs_ite hc ?_
  have hc' (vas : List Nat) : (c.walked vas).s.mem = s.mem := (Ctx.walked_mem _ _).trans hc
  dsimp only
  split
  · next h => exact (State.registerWindow_mem h).trans (hc' _)
  · exact holdWhole_memIs _ (hc' _) _ _ _

@[simp] theorem execWunmap_memKept (f : Fields) (s : State) : MemKept s.mem (execWunmap f s) :=
  issue_mem _ _ _ _ _ _ fun _ hc => syncWindows_memIs hc fun _ hs => (State.setTeam_mem _ _ _).trans hs

@[simp] theorem execWsync_memKept (f : Fields) (s : State) : MemKept s.mem (execWsync f s) :=
  issue_mem _ _ _ _ _ _ fun _ hc => syncWindows_memIs hc fun _ hs => hs

@[simp] theorem execWinv_memKept (f : Fields) (s : State) : MemKept s.mem (execWinv f s) :=
  issue_mem _ _ _ _ _ _ fun _ hc => Res.memIs_ite hc (by simpa [Res.MemIs] using hc)

@[simp] theorem execCpyG2s_memKept (f : Fields) (s : State) : MemKept s.mem (execCpyG2s f s) := copyForm_memKept _ _ _ _

@[simp] theorem execCpyS2g_memKept (f : Fields) (s : State) : MemKept s.mem (execCpyS2g f s) := copyForm_memKept _ _ _ _

@[simp] theorem execCpyG2k_memKept (f : Fields) (s : State) : MemKept s.mem (execCpyG2k f s) := copyForm_memKept _ _ _ _

@[simp] theorem execCpyS2k_memKept (f : Fields) (s : State) : MemKept s.mem (execCpyS2k f s) := copyForm_memKept _ _ _ _

@[simp] theorem execCpyS2s_memKept (f : Fields) (s : State) : MemKept s.mem (execCpyS2s f s) := copyForm_memKept _ _ _ _

@[simp] theorem execCpyGat_memKept (f : Fields) (s : State) : MemKept s.mem (execCpyGat f s) := copyForm_memKept _ _ _ _

@[simp] theorem execCpySct_memKept (f : Fields) (s : State) : MemKept s.mem (execCpySct f s) := copyForm_memKept _ _ _ _

@[simp] theorem execFence_memKept (f : Fields) (s : State) : MemKept s.mem (execFence f s) :=
  issue_mem _ _ _ _ _ _ fun _ hc => Res.memIs_ite (afterRelease_memIs hc _ _ _ fun _ hs => hs) hc

@[simp] theorem execAtom_memKept (f : Fields) (s : State) : MemKept s.mem (execAtom f s) := atomForm_memKept _ _ _ _

@[simp] theorem execAtomc_memKept (f : Fields) (s : State) : MemKept s.mem (execAtomc f s) := atomForm_memKept _ _ _ _

@[simp] theorem execRed_memKept (f : Fields) (s : State) : MemKept s.mem (execRed f s) := issue_mem _ _ _ _ _ _ fun _ hc => laneAccess_memIs hc _

@[simp] theorem execBarSync_memKept (f : Fields) (s : State) : MemKept s.mem (execBarSync f s) :=
  issue_mem _ _ _ _ _ _ fun _ hc => arriveBarrier_memIs hc fun _ _ hs => (testBarrier_mem _ _ _).trans hs

@[simp] theorem execBarArv_memKept (f : Fields) (s : State) : MemKept s.mem (execBarArv f s) :=
  issue_mem _ _ _ _ _ _ fun _ hc => arriveBarrier_memIs hc fun _ _ hs => (testBarrier_mem _ _ _).trans hs

@[simp] theorem execBarWt_memKept (f : Fields) (s : State) : MemKept s.mem (execBarWt f s) :=
  issue_mem _ _ _ _ _ _ fun _ hc => Res.memIs_ite hc (by simpa [Res.MemIs] using hc)

@[simp] theorem execGbar_memKept (f : Fields) (s : State) : MemKept s.mem (execGbar f s) :=
  issue_mem _ _ _ _ _ _ fun _ hc => afterRelease_memIs hc _ _ _ fun _ hs => by simpa [Res.MemIs] using hs

@[simp] theorem execWaita_memKept (f : Fields) (s : State) : MemKept s.mem (execWaita f s) := by
  refine issue_mem _ _ _ _ _ _ fun c hc => ?_
  have hwalked (p : Prop) [Decidable p] (a : Nat) : (if p then c else c.walked [a]).s.mem = s.mem := by
    split
    · exact hc
    · exact (Ctx.walked_mem _ _).trans hc
  dsimp only
  have hread (c : Ctx) (core : Nat) (w : WaitaWait) : (waitaRead c.s core w).1.mem = c.s.mem := waitaRead_mem _ _ _
  split
  · exact holdWhole_memIs _ (hwalked _ _) _ _ _
  · split <;> rename_i h <;> have hs := (State.mem_of_fst (waitaRead_mem ..) h).trans (hwalked _ _)
    · exact hs
    · exact Res.memIs_ite (giveResult_memIs hs _) (Res.memIs_ite (giveResult_memIs hs _) hs)

@[simp] theorem execLkacq_memKept (f : Fields) (s : State) : MemKept s.mem (execLkacq f s) :=
  issue_mem _ _ _ _ _ _ fun _ hc => lockRequest_memIs hc (fun _ _ hs => by simpa [Res.MemIs] using hs)
    fun _ _ _ hs => Res.memIs_ite hs hs

@[simp] theorem execLktry_memKept (f : Fields) (s : State) : MemKept s.mem (execLktry f s) :=
  issue_mem _ _ _ _ _ _ fun _ hc => lockRequest_memIs hc (fun _ _ hs => (State.setGroup_mem _ _ _).trans hs)
    fun _ _ _ hs => (State.setGroup_mem _ _ _).trans hs

@[simp] theorem execLkrel_memKept (f : Fields) (s : State) : MemKept s.mem (execLkrel f s) := by
  refine issue_mem _ _ _ _ _ _ fun c hc => ?_
  have hwalked (va : Nat) : (if va % 64 = 0 then c.walked [va] else c).s.mem = s.mem := by
    split
    · exact (Ctx.walked_mem _ _).trans hc
    · exact hc
  extract_lets +onlyGivenNames va c'
  obtain ⟨d, hd, hdc⟩ : ∃ d : Ctx, d.s.mem = s.mem ∧ d = c' := ⟨_, hwalked va, rfl⟩
  rw [← hdc]
  split
  · exact holdWhole_memIs _ hd _ _ _
  · extract_lets fn
    split
    · exact hd
    · split
      · exact (State.logFullSet_mem _ _).trans hd
      · exact afterRelease_memIs hd _ _ _ fun t ht => by simpa [Res.MemIs] using ht

@[simp] theorem execResample_memKept (f : Fields) (s : State) : MemKept s.mem (execResample f s) :=
  issue_mem _ _ _ _ _ _ fun _ hc => Res.memIs_ite hc (afterRelease_memIs hc _ _ _ fun _ hs => by simpa [Res.MemIs] using hs)

@[simp] theorem execReorder_memKept (f : Fields) (s : State) : MemKept s.mem (execReorder f s) :=
  issue_mem _ _ _ _ _ _ fun _ hc => afterRelease_memIs hc _ _ _ fun _ hs =>
    exitLanes_memIs hc ((Ctx.count_mem _ _ _ _).trans ((State.setLaunch_mem _ _ _).trans hs)) _

@[simp] theorem execPopq_memKept (f : Fields) (s : State) : MemKept s.mem (execPopq f s) := issue_mem _ _ _ _ _ _ fun _ hc => queryWord_memIs hc _ _

@[simp] theorem execLineage_memKept (f : Fields) (s : State) : MemKept s.mem (execLineage f s) := by
  refine issue_mem _ _ _ _ _ _ fun c hc => ?_
  dsimp only
  repeat' split
  all_goals simpa [Res.MemIs] using hc

@[simp] theorem execNwr_memKept (f : Fields) (s : State) : MemKept s.mem (execNwr f s) := by
  refine issue_mem _ _ _ _ _ _ fun _ hc => Res.memIs_ite hc (Res.memIs_ite (holdWhole_memIs _ hc _ _ _)
    (Res.memIs_ite (holdWhole_memIs _ hc _ _ _) ?_))
  split
  · exact holdWhole_memIs _ hc _ _ _
  · refine Res.memIs_ite hc (afterRelease_memIs hc _ _ _ fun t ht => ?_)
    have hfill (k off : Nat) : (if bitOf f.fn.toNat 4 then (t, false) else t.askFill k off 64).1.mem = s.mem := by
      split
      · exact ht
      · exact (State.askFill_mem _ _ _ _).trans ht
    dsimp only
    split <;> rename_i h <;> have hs := State.mem_of_fst (hfill _ _) h
    · exact hs
    · exact Res.memIs_ite hs ((State.postReq_mem _ _ _ _).trans hs)

@[simp] theorem execNfence_memKept (f : Fields) (s : State) : MemKept s.mem (execNfence f s) := by
  refine issue_mem _ _ _ _ _ _ fun c hc => ?_
  dsimp only
  repeat' split
  all_goals simpa [Res.MemIs] using hc

@[simp] theorem execNstat_memKept (f : Fields) (s : State) : MemKept s.mem (execNstat f s) := issue_mem _ _ _ _ _ _ fun _ hc => queryWord_memIs hc _ _

@[simp] theorem execTrap_memKept (f : Fields) (s : State) : MemKept s.mem (execTrap f s) := issue_mem _ _ _ _ _ _ fun _ hc => Res.memIs_ite trivial hc

@[simp] theorem execRte_memKept (f : Fields) (s : State) : MemKept s.mem (execRte f s) := by
  refine issue_mem _ _ _ _ _ _ fun c hc => ?_
  dsimp only
  repeat' split
  all_goals simpa [Res.MemIs] using hc

@[simp] theorem execBkpt_memKept (f : Fields) (s : State) : MemKept s.mem (execBkpt f s) :=
  issue_mem _ _ _ _ _ _ fun _ hc => Res.memIs_ite hc (Res.memIs_ite (haltAfter_memIs hc) trivial)

@[simp] theorem execRdsr_memKept (f : Fields) (s : State) : MemKept s.mem (execRdsr f s) := issue_mem _ _ _ _ _ _ fun _ hc => giveResult_memIs hc _

@[simp] theorem execWrsr_memKept (f : Fields) (s : State) : MemKept s.mem (execWrsr f s) := by
  refine issue_mem _ _ _ _ _ _ fun c hc => ?_
  dsimp only
  repeat' split
  all_goals simpa [Res.MemIs] using hc

@[simp] theorem execCwb_memKept (f : Fields) (s : State) : MemKept s.mem (execCwb f s) :=
  issue_mem _ _ _ _ _ _ fun _ hc => writeBackRange_memIs hc fun _ _ hs => hs

@[simp] theorem execCinv_memKept (f : Fields) (s : State) : MemKept s.mem (execCinv f s) :=
  issue_mem _ _ _ _ _ _ fun _ hc => writeBackRange_memIs hc fun _ _ hs => (State.setCore_mem _ _ _).trans ((State.flushBytes_mem _ _ _).trans hs)

@[simp] theorem execIcinv_memKept (f : Fields) (s : State) : MemKept s.mem (execIcinv f s) :=
  issue_mem _ _ _ _ _ _ fun _ hc => by simpa [Res.MemIs] using hc

@[simp] theorem execFbar_memKept (f : Fields) (s : State) : MemKept s.mem (execFbar f s) := by
  refine issue_mem _ _ _ _ _ _ fun c hc => ?_
  dsimp only
  repeat' split
  all_goals simpa [Res.MemIs] using hc

@[simp] theorem execLaunch_memKept (f : Fields) (s : State) : MemKept s.mem (execLaunch f s) :=
  issue_mem _ _ _ _ _ _ fun _ hc => Res.memIs_ite hc (afterRelease_memIs hc _ _ _ fun _ hs =>
    Res.memIs_ite (holdWhole_memIs _ hs _ _ _) ((State.notify_mem _ _ _ _).trans hs))

@[simp] theorem execMtrd_memKept (f : Fields) (s : State) : MemKept s.mem (execMtrd f s) := by
  refine issue_mem _ _ _ _ _ _ fun c hc => ?_
  dsimp only
  repeat' split
  all_goals simpa [Res.MemIs] using hc

@[simp] theorem execTmark_memKept (f : Fields) (s : State) : MemKept s.mem (execTmark f s) :=
  issue_mem _ _ _ _ _ _ fun _ hc => Res.memIs_ite ((State.emit_mem _ _ _ _).trans hc) hc

@[simp] theorem execHalt_memKept (f : Fields) (s : State) : MemKept s.mem (execHalt f s) :=
  issue_mem _ _ _ _ _ _ fun _ hc => Res.memIs_ite (haltAfter_memIs hc) hc

@[simp] theorem execTlbi_memKept (f : Fields) (s : State) : MemKept s.mem (execTlbi f s) := by
  refine issue_mem _ _ _ _ _ _ fun c hc => ?_
  dsimp only
  repeat' split
  all_goals simpa [Res.MemIs] using hc

@[simp] theorem execLogConsWrite_memKept (func value : Nat) (s : State) : MemKept s.mem (execLogConsWrite func value s) := by
  show State.mem _ = _
  repeat' split
  all_goals simp

@[simp] theorem execRptConsWrite_memKept (value : Nat) (s : State) : MemKept s.mem (execRptConsWrite value s) := by
  show State.mem _ = _
  simp

@[simp] theorem execTrcConsWrite_memKept (func value : Nat) (s : State) : MemKept s.mem (execTrcConsWrite func value s) := by
  show State.mem _ = _
  repeat' split
  all_goals simp

@[simp] theorem execClockStepSwitch_memKept (s : State) : MemKept s.mem (execClockStepSwitch s) := by
  show State.mem _ = _
  repeat' split
  all_goals simp

@[simp] theorem execGovernorWindow_memKept (s : State) : MemKept s.mem (execGovernorWindow s) := by
  show State.mem _ = _
  repeat' split
  all_goals simp

@[simp] theorem execTokenGrant_memKept (s : State) : MemKept s.mem (execTokenGrant s) := by
  show State.mem _ = _
  repeat' split
  all_goals simp

/-- The memory of the base dies is `m` in whatever state the check of an offer answers. -/
def Offer.MemIs (m : List Host.Cell) : Offer → Prop
  | .waits s => s.mem = m
  | .reject s _ => s.mem = m
  | .ok s _ _ => s.mem = m

theorem offerReads_memIs (s : State) (l : Launch) : (offerReads s l).MemIs s.mem := by
  unfold offerReads
  dsimp only
  split <;> rename_i h <;> have hs := (s.engineRead_memIs _ _ _).of_eq h <;> replace hs : _ = s.mem := hs
  · exact hs
  · exact hs
  · split
    · exact hs
    · split <;> rename_i h <;> have hs' := (State.engineRead_memIs _ _ _ _).of_eq h <;> replace hs' : _ = s.mem := hs'.trans hs
      · exact hs'
      · exact hs'
      · split <;> rename_i h <;> have hs := (State.engineRead_memIs _ _ _ _).of_eq h <;> replace hs : _ = s.mem := hs.trans hs' <;> exact hs

@[simp] theorem execHeadOffer_memKept (s : State) : MemKept s.mem (execHeadOffer s) := by
  have hreads := offerReads_memIs s
  show State.mem _ = _
  split
  · rfl
  · next l _ =>
    specialize hreads l
    split <;> rename_i h <;> rw [h] at hreads <;> replace hreads : _ = s.mem := hreads <;> simpa using hreads

@[simp] theorem execAdmissionDecision_memKept (s : State) : MemKept s.mem (execAdmissionDecision s) := by
  show State.mem _ = _
  repeat' split
  all_goals simp

@[simp] theorem execLaunchFinal_memKept (s : State) : MemKept s.mem (execLaunchFinal s) := by
  show State.mem _ = _
  repeat' split
  all_goals simp

@[simp] theorem execSpillGroups_memKept (s : State) : MemKept s.mem (execSpillGroups s) := by
  show State.mem _ = _
  repeat' split
  all_goals simp

@[simp] theorem execSpillRestore_memKept (s : State) : MemKept s.mem (execSpillRestore s) := by
  show State.mem _ = _
  repeat' split
  all_goals simp

@[simp] theorem execRegAllocGrant_memKept (s : State) : MemKept s.mem (execRegAllocGrant s) := by
  show State.mem _ = _
  repeat' split
  all_goals simp

@[simp] theorem execMmaComplete_memKept (s : State) : MemKept s.mem (execMmaComplete s) := by
  unfold execMmaComplete
  show State.mem _ = _
  dsimp only
  repeat' split
  all_goals simp

@[simp] theorem execBaseDieRd_memKept (s : State) : MemKept s.mem (execBaseDieRd s) := by
  show State.mem _ = _
  repeat' split
  all_goals simp

@[simp] theorem execBaseDieDtc_memKept (s : State) : MemKept s.mem (execBaseDieDtc s) := by
  show State.mem _ = _
  repeat' split
  all_goals simp

@[simp] theorem execCopyCommandBegin_memKept (s : State) : MemKept s.mem (execCopyCommandBegin s) := by
  show State.mem _ = _
  repeat' split
  all_goals simp

@[simp] theorem execCopyChunk_memKept (s : State) : MemKept s.mem (execCopyChunk s) := by
  have hsettle (ls : List Nat) (core : Nat) (t : State) : (ls.foldl (fun s x => settleLine s core x) t).mem = t.mem :=
    State.foldl_mem (fun s x => settleLine_mem _ _ _) _ _
  have hpublish (ps : List Piece) (core : Nat) (t : State) :
      (ps.foldl (fun s p => match p with | .sp k off n => s.spPublish core k off n | _ => s) t).mem = t.mem :=
    State.foldl_mem (fun s p => by split <;> simp) _ _
  have hread (ls : List Nat) (t : State) : (ls.foldl State.readLine t).mem = t.mem := State.foldl_mem (fun s x => State.readLine_mem _ _) _ _
  show State.mem _ = _
  split
  · rfl
  · extract_lets +onlyGivenNames lo hi l fn
    split
    · rfl
    · extract_lets +onlyGivenNames s₁
      have h₁ : s₁.mem = s.mem := copyWalked_mem _ _ _ _
      split
      · exact (holdCopy_mem _ _ _ _ _ _).trans h₁
      · split
        · exact (holdCopy_mem _ _ _ _ _ _).trans h₁
        · split <;> rename_i h <;> have hs := (State.mem_of_fst (sourceWaits_mem ..) h).trans h₁
          · exact hs
          · split <;> rename_i h <;> have hs' := (State.mem_of_fst (targetWaits_mem ..) h).trans hs
            · exact hs'
            · extract_lets +onlyGivenNames lines s₂ s₃ bs s₄ s₅ x
              have h₂ : s₂.mem = s.mem := (hsettle _ _ _).trans hs'
              have h₃ : s₃.mem = s.mem := (hpublish _ _ _).trans h₂
              have h₅ : s₅.mem = s.mem := (setHead_mem _ _ _).trans ((writePieces_mem _ _ _ _ _ _).trans ((hread _ _).trans h₃))
              repeat' split
              all_goals simp [h₅]

@[simp] theorem execCopyCompletion_memKept (s : State) : MemKept s.mem (execCopyCompletion s) := by
  show State.mem _ = _
  repeat' split
  all_goals simp

@[simp] theorem execResampleCommit_memKept (s : State) : MemKept s.mem (execResampleCommit s) := by
  show State.mem _ = _
  simp

@[simp] theorem execResampleCommitEnd_memKept (s : State) : MemKept s.mem (execResampleCommitEnd s) := by
  show State.mem _ = _
  split
  · rfl
  · split
    · rfl
    · split <;> rename_i h <;> have hs := State.mem_of_fst (ancestorWaits_mem ..) h
      · exact hs
      · dsimp only
        split
        · exact hs
        · exact (spillsHeld_mem _ (endCommit_mem _ _ _)).trans hs

@[simp] theorem execReorderPassClose_memKept (s : State) : MemKept s.mem (execReorderPassClose s) := by
  show State.mem _ = _
  split
  · exact spillsHeld_mem _ (closePass_mem _ _)
  · rfl

@[simp] theorem execMarlRoundEnd_memKept (s : State) : MemKept s.mem (execMarlRoundEnd s) := by
  show State.mem _ = _
  repeat' split
  all_goals simp

@[simp] theorem execDirectoryRecall_memKept (s : State) : MemKept s.mem (execDirectoryRecall s) := by
  show State.mem _ = _
  repeat' split
  all_goals simp

@[simp] theorem execDirectoryRebuild_memKept (s : State) : MemKept s.mem (execDirectoryRebuild s) := by
  show State.mem _ = _
  repeat' split
  all_goals simp

@[simp] theorem execRecallTimeout_memKept (s : State) : MemKept s.mem (execRecallTimeout s) := by
  show State.mem _ = _
  repeat' split
  all_goals simp

/-! ### What changes the memory of the base dies keeps it canonical (10, R229, R233) -/

theorem MemKept.canonical {s t : State} {o : Host.Outcome State Fault Refusal} (ho : MemKept s.mem o) (hs : s.Canonical) (h : o = .next t) :
    t.Canonical := by
  subst h
  exact (congrArg (Memory.wf · = true) (ho : t.mem = s.mem)).mpr hs

theorem State.Canonical.of_mem {s t : State} (hs : s.Canonical) (h : t.mem = s.mem) : t.Canonical :=
  (congrArg (Memory.wf · = true) h).mpr hs

theorem Tbl.sortedFrom_filter {α : Type} {lo : Nat} {t : Tbl α} (p : Nat × α → Bool) (h : Tbl.sortedFrom lo t = true) :
    Tbl.sortedFrom lo (t.filter p) = true := by
  induction t generalizing lo with
  | nil => rfl
  | cons x t ih =>
    simp only [Tbl.sortedFrom, Bool.and_eq_true, decide_eq_true_eq] at h
    obtain ⟨hlo, ht⟩ := h
    rw [List.filter_cons]
    split
    · simp only [Tbl.sortedFrom, Bool.and_eq_true, decide_eq_true_eq]
      exact ⟨hlo, ih ht⟩
    · exact Tbl.sortedFrom_mono (ih ht) (by omega)

theorem Memory.wf_filter {m : List Host.Cell} (p : Host.Cell → Bool) (h : Memory.wf m = true) : Memory.wf (m.filter p) = true := by
  rw [Memory.wf_iff] at h ⊢
  exact ⟨Tbl.sortedFrom_filter p h.1, fun c hc => h.2 c (List.mem_of_mem_filter hc)⟩

theorem State.Canonical.storageIn {s : State} (hs : s.Canonical) (r : RangeEntry) : (storageIn s r).Canonical := by
  unfold Machine.storageIn
  dsimp only
  split
  · exact hs
  · exact Memory.wf_writeAll _ hs

theorem State.Canonical.storageOut {s : State} (hs : s.Canonical) (r : RangeEntry) : (storageOut s r).Canonical :=
  Memory.wf_filter _ hs

theorem State.Canonical.execRangeEnable {s t : State} {n value : Nat} (hs : s.Canonical) (h : execRangeEnable n value s = .next t) : t.Canonical := by
  cases h
  split
  · exact hs
  · dsimp only
    split
    · exact State.Canonical.storageIn (hs.of_mem (State.setRange_mem _ _ _)) _
    · exact hs.of_mem (State.setRange_mem _ _ _)

theorem State.Canonical.execRangeDisable {s t : State} {n : Nat} (hs : s.Canonical) (h : execRangeDisable n s = .next t) : t.Canonical := by
  cases h
  split
  · exact hs
  · split
    · exact hs.of_mem (State.setRange_mem _ _ _)
    · exact (hs.storageOut _).of_mem (State.setRange_mem _ _ _)

/-- A write that reaches a base die leaves the memory canonical whatever else its landing does. -/
theorem State.Canonical.written {s t : State} {cells : List Host.Cell} (hs : s.Canonical) (h : t.mem = Memory.writeAll s.mem cells) : t.Canonical :=
  (congrArg (Memory.wf · = true) h).mpr (Memory.wf_writeAll cells hs)

theorem State.Canonical.execBaseDieWr {s t : State} (hs : s.Canonical) (h : execBaseDieWr s = .next t) : t.Canonical := by
  cases h
  split
  · split
    · split
      · exact hs
      · exact hs.written ((reply_mem _ _ _ _ _ _).trans ((markPoison_mem _ _).trans (landed_mem _ _)))
    · exact hs
  · exact hs

theorem State.Canonical.execBaseDieAtom {s t : State} (hs : s.Canonical) (h : execBaseDieAtom s = .next t) : t.Canonical := by
  cases h
  split
  · split
    · dsimp only
      split
      · exact hs
      · exact (hs.of_mem (meetErrors_mem s _)).written ((reply_mem _ _ _ _ _ _).trans (landed_mem _ _))
    · exact hs
  · exact hs

theorem moduleReset_canonical (s : State) : s.moduleReset.Canonical := reset_canonical

/-- The module's boot begins from the memory of reset, or goes on with what there is (00, R4). -/
theorem State.Canonical.execBoot {s t : State} (hs : s.Canonical) (h : execBoot s = .next t) : t.Canonical := by
  cases h
  extract_lets u v
  have hv : v.Canonical := by
    show u.Canonical
    unfold u
    split
    · exact moduleReset_canonical s
    · exact hs
  split
  · exact hv
  · exact hv

theorem State.Canonical.exec {s t : State} (hs : s.Canonical) (i : Instr) (h : exec i s = .next t) : t.Canonical := by
  cases i
  case rangeEnable n value => exact hs.execRangeEnable h
  case rangeDisable n => exact hs.execRangeDisable h
  case baseDieWr => exact hs.execBaseDieWr h
  case baseDieAtom => exact hs.execBaseDieAtom h
  case boot => exact hs.execBoot h
  all_goals exact MemKept.canonical (by simp [Machine.exec]) hs h

@[simp] theorem State.waitTried_mem (s : State) (k : Nat) (t : State) : (s.waitTried k t).mem = s.mem := by
  unfold waitTried
  split
  · rfl
  · exact setGroup_mem _ _ _

theorem State.Canonical.stepIssue {s t : State} (hs : s.Canonical) {k : Nat} (h : stepIssue s k = .next t) : t.Canonical := by
  unfold Machine.stepIssue at h
  split at h
  · next hprepare =>
    cases h
    exact hs.of_mem (State.mem_of_fst (State.prepare_mem s k) hprepare)
  · next u i hprepare =>
    have hu : u.Canonical := hs.of_mem (State.mem_of_fst (State.prepare_mem s k) hprepare)
    obtain ⟨v, hexec⟩ := exec_goes_on i u
    rw [hexec] at h
    cases h
    split
    · exact (hu.exec i hexec).of_mem (State.afterIssue_mem _ _)
    · exact hs.of_mem (State.waitTried_mem _ _ _)

theorem State.Canonical.runTurn {s t : State} (hs : s.Canonical) (x : Turn) (h : runTurn s x = .next t) : t.Canonical := by
  cases x with
  | issue k => exact hs.stepIssue h
  | event i place =>
    simp only [Machine.runTurn] at h
    split at h
    · exact State.Canonical.exec (s := { s with focus := place }) hs i h
    · cases h
      exact hs
  | elapse n =>
    cases h
    exact hs.of_mem (State.elapse_mem s n)
  | flash image version =>
    cases h
    exact hs.of_mem (State.updateFlash_mem s image version)
  | upset error =>
    cases h
    exact hs.of_mem (State.upset_mem s error)

/-- Settles O59: the memory of the base dies is changed only by the bytes that reach it, by a range that is enabled or disabled, and by
boot; each of them keeps it canonical. -/
theorem canonicalMemoryKept : Obligations.CanonicalMemoryKept := by
  intro s t hs h
  unfold step at h
  split at h
  · next rest _ => exact State.Canonical.runTurn (s := { s with agenda := rest }) hs _ h
  · exact State.Canonical.runTurn (s := { s with tick := s.tick + 1 }) hs _ h

end Sys2Proof.Machine

namespace Sys2Proof.Machine

open Sys2Proof.Spec

/-! ## The address map (10, R230, R231, R238–R240; 16, R373) -/

theorem find?_filter_keys {α : Type} (t : Tbl α) (p : Nat × α → Bool) {k : Nat} (hp : ∀ v, p (k, v) = true) :
    Tbl.find? (t.filter p) k = Tbl.find? t k := by
  induction t with
  | nil => rfl
  | cons x t ih =>
    obtain ⟨i, v⟩ := x
    rw [List.filter_cons]
    split
    · rw [Tbl.find?_cons, Tbl.find?_cons, ih]
    · next hx =>
      have hik : i ≠ k := fun h => hx (h ▸ hp v)
      rw [Tbl.find?_cons, if_neg hik, ih]

theorem Memory.read_filter (m : List Host.Cell) (p : Host.Cell → Bool) {a : Nat} (hp : ∀ b, p (a, b) = true) :
    Memory.read (m.filter p) a = Memory.read m a := congrArg (Option.getD · 0) (find?_filter_keys m p hp)

theorem overlay_cons (c : Host.Cell) (cs : List Host.Cell) (old : Nat → Byte) : overlay (c :: cs) old = overlay cs (overlay [c] old) :=
  overlay_append [c] cs old

/-- Bytes written one after the other read as they lie over what was there. -/
theorem Memory.read_writeAll (m cs : List Host.Cell) : Memory.read (Memory.writeAll m cs) = overlay cs (Memory.read m) := by
  induction cs generalizing m with
  | nil => rfl
  | cons c cs ih =>
    have hwrite : Memory.read (Memory.write m c.1 c.2) = overlay [c] (Memory.read m) := by
      funext a
      by_cases h : c.1 = a
      · subst h
        simp [overlay, Memory.read_write_self]
      · simp [overlay, h, Memory.read_write_ne m c.2 (Ne.symm h)]
    rw [overlay_cons, ← hwrite]
    exact ih _

@[simp] theorem State.range_setRange_self (s : State) (n : Nat) (r : RangeEntry) : (s.setRange n r).range n = r :=
  Tbl.getD_set_self s.ranges n r {}

theorem State.range_setRange_ne (s : State) {n j : Nat} (r : RangeEntry) (h : j ≠ n) : (s.setRange n r).range j = s.range j :=
  Tbl.getD_set_ne s.ranges r {} h

@[simp] theorem storageIn_range (s : State) (r : RangeEntry) (j : Nat) : (storageIn s r).range j = s.range j := by
  unfold storageIn
  dsimp only
  split <;> rfl

/-- With no byte of a range in storage, an enable brings none to its addresses. -/
theorem storageIn_of_cold_nil {s : State} (h : s.cold = []) (r : RangeEntry) : storageIn s r = s := by
  simp [storageIn, h]

/-- An enable sets ERR, and brings in what lay in storage where the range may be enabled. -/
theorem exec_rangeEnable {s : State} {n value : Nat} (hoff : (s.range n).enable = false) (hgo : value.testBit 0 = true) :
    exec (.rangeEnable n value) s = .next
      (let e := enableError s n (s.range n)
       let t := s.setRange n { s.range n with err := e, enable := e == 0 }
       if e = 0 then storageIn t (s.range n) else t) := by
  rw [← bitOf_eq_testBit] at hgo
  simp [exec, execRangeEnable, hoff, hgo]

theorem exec_rangeEnable_ok {s : State} {n value : Nat} (hoff : (s.range n).enable = false) (hgo : value.testBit 0 = true)
    (he : enableError s n (s.range n) = 0) :
    exec (.rangeEnable n value) s = .next (storageIn (s.setRange n { s.range n with err := 0, enable := true }) (s.range n)) := by
  rw [exec_rangeEnable hoff hgo, he]
  rfl

theorem enableError_eq_one {s : State} {n : Nat} {r : RangeEntry}
    (h : r.limit < r.base ∨ ∃ x ∈ s.ranges, x.1 ≠ n ∧ x.2.enable = true ∧ r.base ≤ x.2.limit ∧ x.2.base ≤ r.limit) : enableError s n r = 1 := by
  unfold enableError
  dsimp only
  rw [if_pos]
  rcases h with h | ⟨x, hx, hn, hon, hlo, hhi⟩
  · simp [h]
  · rw [Bool.or_eq_true]
    refine .inr (List.any_eq_true.2 ⟨x.2, List.mem_map.2 ⟨x, List.mem_filter.2 ⟨hx, ?_⟩, rfl⟩, ?_⟩)
    · simp [hn, hon]
    · simp [hlo, hhi]

theorem rangeEnable_laws (s : State) (n value : Nat) (hoff : (s.range n).enable = false) (hgo : value.testBit 0 = true) :
    let r := s.range n
    (enableError s n r = 0 → ∃ t, exec (.rangeEnable n value) s = .next t ∧ t.range n = { r with err := 0, enable := true } ∧
      (∀ j, j ≠ n → t.range j = s.range j) ∧ (s.cold = [] → t = s.setRange n { r with err := 0, enable := true })) ∧
    (r.limit < r.base ∨ (∃ x ∈ s.ranges, x.1 ≠ n ∧ x.2.enable = true ∧ r.base ≤ x.2.limit ∧ x.2.base ≤ r.limit) →
      exec (.rangeEnable n value) s = .next (s.setRange n { r with err := 1, enable := false })) := by
  intro r
  refine ⟨fun he => ?_, fun he => ?_⟩
  · refine ⟨_, exec_rangeEnable_ok hoff hgo he, ?_, fun j hj => ?_, fun hcold => ?_⟩
    · rw [storageIn_range, State.range_setRange_self]
    · rw [storageIn_range, State.range_setRange_ne s _ hj]
    · exact storageIn_of_cold_nil (s := s.setRange n _) hcold _
  · rw [exec_rangeEnable hoff hgo, enableError_eq_one he]
    rfl

theorem disableRefused_eq_false {s : State} {r : RangeEntry} (hkey : r.rekey = false)
    (hidle : ∀ l ∈ s.launches, l.2.part = r.part → l.2.stage ≠ .admitted ∧ ∀ c, l.2.stage ≠ .finishing c) : disableRefused s r = false := by
  simp only [disableRefused, hkey, Bool.false_or, List.any_eq_false, Bool.and_eq_true, beq_iff_eq, not_and]
  intro l hl hpart
  obtain ⟨hadmitted, hfinishing⟩ := hidle l hl hpart
  split
  · contradiction
  · next c hc => exact absurd hc (hfinishing c)
  · exact Bool.false_ne_true

theorem rangeDisable_laws (s : State) (n : Nat) (hon : (s.range n).enable = true) (hkey : (s.range n).rekey = false)
    (hidle : ∀ l ∈ s.launches, l.2.part = (s.range n).part → l.2.stage ≠ .admitted ∧ ∀ c, l.2.stage ≠ .finishing c) :
    ∃ t, exec (.rangeDisable n) s = .next t ∧ t.range n = { s.range n with err := 0, enable := false } ∧ (∀ j, j ≠ n → t.range j = s.range j) ∧
      ∀ a, ¬((s.range n).base ≤ a / 65536 ∧ a / 65536 ≤ (s.range n).limit) → Memory.read t.mem a = Memory.read s.mem a := by
  have hexec : exec (.rangeDisable n) s = .next ((storageOut s (s.range n)).setRange n { s.range n with err := 0, enable := false }) := by
    simp [exec, execRangeDisable, hon, disableRefused_eq_false hkey hidle]
  refine ⟨_, hexec, State.range_setRange_self _ _ _, fun j hj => State.range_setRange_ne _ _ hj, fun a ha => ?_⟩
  exact Memory.read_filter _ _ fun b => by simpa only [RangeEntry.holds, Bool.not_eq_true', ← Bool.not_eq_true, Bool.and_eq_true, decide_eq_true_eq] using ha

theorem rangeRekey_law (s : State) (n : Nat) (hon : (s.range n).enable = true) (hkey : (s.range n).rekey = false) :
    exec (.rangeRekey n) s = .next { s.setRange n { s.range n with rekey := true } with
      keys := s.keys.set (s.range n).keySlot (Config.rangeKey s.root.draws), root := { s.root with draws := s.root.draws + 1 } } := by
  simp [exec, execRangeRekey, hon, hkey]

/-- A range whose rekey is complete: its counters are 0, and no check of its chunks fails (10, R239, R240). -/
def rekeyed (s : State) (n : Nat) : State :=
  { s.setRange n { s.range n with rekey := false, exhausted := false } with
    confs := s.confs.mapVals fun k (b : ConfBlock) => if (s.range n).holds (k * 4096) then { minor := (b.chunks k).map fun c => (c, 0) } else b
    treeCount := s.treeCount.set n 0
    macBad := s.macBad.filter fun c => !(s.range n).holds (c * 64) }

theorem rekeyed_confs (s : State) (n : Nat) : (rekeyed s n).confs =
    s.confs.mapVals fun k (b : ConfBlock) => if (s.range n).holds (k * 4096) then { minor := (b.chunks k).map fun c => (c, 0) } else b := rfl

theorem rekeyComplete_laws (s : State) (n : Nat) (hkey : (s.range n).rekey = true) :
    let r := s.range n
    ∃ t, exec (.rekeyComplete n) s = .next t ∧ t.mem = s.mem ∧ t.range n = { r with rekey := false, exhausted := false } ∧
      (∀ b ∈ t.confs, r.base ≤ b.1 * 4096 / 65536 ∧ b.1 * 4096 / 65536 ≤ r.limit → b.2.major = 0 ∧ ∀ x ∈ b.2.minor, x.2 = 0) ∧
      ∀ b, ¬(r.base ≤ b * 4096 / 65536 ∧ b * 4096 / 65536 ≤ r.limit) → t.confs.find? b = s.confs.find? b := by
  intro r
  have hexec : exec (.rekeyComplete n) s = .next (rekeyed s n) := by
    simp only [exec, execRekeyComplete, hkey, Bool.not_true, Bool.false_eq_true, if_false]
    rfl
  refine ⟨_, hexec, rfl, State.range_setRange_self s n _, fun b hb hin => ?_, fun b hout => ?_⟩
  · obtain ⟨x, hx, rfl⟩ := List.mem_map.1 hb
    dsimp only
    rw [if_pos (by simpa [RangeEntry.holds] using hin)]
    exact ⟨rfl, fun y hy => by obtain ⟨c, -, rfl⟩ := List.mem_map.1 hy; rfl⟩
  · rw [rekeyed_confs, Tbl.find?_mapVals]
    have hholds : (s.range n).holds (b * 4096) = false := by
      rw [Bool.eq_false_iff]
      exact fun h => hout (by simpa [RangeEntry.holds] using h)
    cases s.confs.find? b with
    | none => rfl
    | some v => simp [hholds]

/-! ## Requests at a base die (10, R233; 16, R361) -/

/-- What a base die's own tables do not reach. -/
structure OffDie (s t : State) : Prop where
  focus   : t.focus = s.focus
  bdq     : t.bdq = s.bdq
  replies : t.replies = s.replies
  cores   : t.cores = s.cores
  groups  : t.groups = s.groups

theorem OffDie.refl (s : State) : OffDie s s := ⟨rfl, rfl, rfl, rfl, rfl⟩

theorem OffDie.trans {s t u : State} (h₁ : OffDie s t) (h₂ : OffDie t u) : OffDie s u :=
  ⟨h₂.focus.trans h₁.focus, h₂.bdq.trans h₁.bdq, h₂.replies.trans h₁.replies, h₂.cores.trans h₁.cores, h₂.groups.trans h₁.groups⟩

theorem OffDie.of_mem (s : State) (m : List Host.Cell) : OffDie s { s with mem := m } := ⟨rfl, rfl, rfl, rfl, rfl⟩

theorem OffDie.foldl {α : Type} {f : State → α → State} (hf : ∀ s x, OffDie s (f s x)) (xs : List α) (s : State) : OffDie s (xs.foldl f s) := by
  induction xs generalizing s with
  | nil => exact .refl s
  | cons x xs ih => exact (hf s x).trans (ih _)

theorem offDie_countChunk (s : State) (n chunk : Nat) : OffDie s (countChunk s n chunk) := by
  unfold countChunk
  dsimp only
  repeat' split
  all_goals exact ⟨rfl, rfl, rfl, rfl, rfl⟩

theorem offDie_landed (s : State) (cells : List Host.Cell) : OffDie s (landed s cells) := by
  have hcount (xs : List Nat) : OffDie s (xs.foldl (fun s c =>
      match s.rangeOf (64 * c) with | some (n, r) => if r.conf then countChunk s n c else s | none => s) s) := by
    refine OffDie.foldl (fun s c => ?_) _ _
    split
    · split
      · exact offDie_countChunk _ _ _
      · exact .refl s
    · exact .refl s
  have hdirty (t : State) : OffDie t (t.dirtyCells cells) := by
    refine OffDie.foldl (fun s g => ?_) _ _
    dsimp only
    split <;> exact ⟨rfl, rfl, rfl, rfl, rfl⟩
  exact ((hcount _).trans (hdirty _)).trans ⟨rfl, rfl, rfl, rfl, rfl⟩

theorem offDie_markPoison (bad : List Nat) (s : State) : OffDie s (markPoison bad s) := by
  unfold markPoison
  split <;> exact ⟨rfl, rfl, rfl, rfl, rfl⟩

theorem meetErrors_of_none {s : State} {atom : Nat} (hflip : atom ∉ s.atomFlipped) (hbad : atom ∉ s.atomBad) (hmac : atom / 2 ∉ s.macBad) :
    meetErrors s atom = s := by
  simp [meetErrors, hflip, hbad, hmac]

/-- A packet is off its stack's queue and answered. -/
def Answered (s t : State) (p : BdPacket) (data : List Byte) (poison : List Nat) (g : Nat) (dirty : Bool) : Prop :=
  t.bdq = s.bdq.eraseIdx s.focus ∧ t.replies = s.replies ++
    [{ die := p.die, stack := p.stack, tag := p.tag.getD 0, data := data, poison := poison, granule := g, dirty := dirty, marl := p.marl }]

theorem answered_reply {s t : State} (h : OffDie s t) (p : BdPacket) (data : List Byte) (poison : List Nat) (g : Nat) (dirty : Bool) :
    Answered s (reply t p data poison g dirty) p data poison g dirty := by
  refine ⟨?_, ?_⟩
  · show t.bdq.eraseIdx t.focus = _
    rw [h.bdq, h.focus]
  · show t.replies ++ _ = _
    rw [h.replies]

theorem baseDieWr_law {s : State} {p : BdPacket} (hp : received s = some p) {cells : List Host.Cell} (hreq : p.req = .wr cells)
    (hgo : writeWaits s cells = false) :
    ∃ t, exec .baseDieWr s = .next t ∧ Answered s t p [] [] 0 false ∧ (∀ a, Memory.read t.mem a = overlay cells (Memory.read s.mem) a) ∧
      t.cores = s.cores ∧ t.groups = s.groups := by
  have hexec : exec .baseDieWr s = .next (reply (markPoison p.bad (landed { s with mem := Memory.writeAll s.mem cells } cells)) p [] [] 0 false) := by
    simp [exec, execBaseDieWr, hp, hreq, hgo]
  have hoff : OffDie s (markPoison p.bad (landed { s with mem := Memory.writeAll s.mem cells } cells)) :=
    (OffDie.of_mem s _).trans ((offDie_landed _ _).trans (offDie_markPoison _ _))
  refine ⟨_, hexec, answered_reply hoff _ _ _ _ _, fun a => ?_, hoff.cores, hoff.groups⟩
  rw [reply_mem, markPoison_mem, landed_mem, Memory.read_writeAll]

theorem baseDieAtom_law {s : State} {p : BdPacket} (hp : received s = some p) {pa op : Nat} {float signed : Bool} {x : Word}
    (hreq : p.req = .atom pa op float signed x)
    (hgo : writeWaits s (cellsOf pa 4 (combine op float signed (BitVec.ofNat 32 (ofBytes (Memory.bytes s.mem pa 4))) x).toNat) = false)
    (hflip : pa / 32 ∉ s.atomFlipped) (hbad : pa / 32 ∉ s.atomBad) (hmac : pa / 64 ∉ s.macBad) :
    ∃ t, exec .baseDieAtom s = .next t ∧ Answered s t p (Memory.bytes s.mem pa 4) (if pa / 32 ∈ s.atomPoison then [0] else []) 0 false ∧
      ∀ a, Memory.read t.mem a =
        overlay (cellsOf pa 4 (combine op float signed (BitVec.ofNat 32 (ofBytes (Memory.bytes s.mem pa 4))) x).toNat) (Memory.read s.mem) a := by
  have hmac' : pa / 32 / 2 ∉ s.macBad := by rwa [Nat.div_div_eq_div_mul]
  generalize hcells : cellsOf pa 4 (combine op float signed (BitVec.ofNat 32 (ofBytes (Memory.bytes s.mem pa 4))) x).toNat = cells at hgo ⊢
  have hexec : exec .baseDieAtom s = .next (reply (landed { s with mem := Memory.writeAll s.mem cells } cells) p (Memory.bytes s.mem pa 4)
      (if pa / 32 ∈ s.atomPoison then [0] else []) 0 false) := by
    simp [exec, execBaseDieAtom, hp, hreq, hcells, hgo, meetErrors_of_none hflip hbad hmac', State.diePoisoned, hbad, hmac']
  have hoff : OffDie s (landed { s with mem := Memory.writeAll s.mem cells } cells) := (OffDie.of_mem s _).trans (offDie_landed _ _)
  refine ⟨_, hexec, answered_reply hoff _ _ _ _ _, fun a => ?_⟩
  rw [reply_mem, landed_mem, Memory.read_writeAll]

theorem baseDieRd_law {s : State} {p : BdPacket} (hp : received s = some p) {pa m : Nat} (hreq : p.req = .rd pa m)
    (hclean : ∀ i, i < m → pa / 32 + i ∉ s.atomFlipped ∧ pa / 32 + i ∉ s.atomBad ∧ (pa / 32 + i) / 2 ∉ s.macBad) :
    ∃ t, exec .baseDieRd s = .next t ∧ t = { s with bdq := t.bdq, replies := t.replies } ∧
      Answered s t p (Memory.bytes s.mem (pa / 32 * 32) (32 * m)) ((List.range m).filter fun i => s.atomPoison.contains (pa / 32 + i)) 0 false := by
  have hmeet : ((List.range m).map (pa / 32 + ·)).foldl meetErrors s = s := by
    refine List.foldlRecOn _ _ (motive := fun t => t = s) rfl fun t ht a ha => ?_
    obtain ⟨i, hi, rfl⟩ := List.mem_map.1 ha
    obtain ⟨hflip, hbad, hmac⟩ := hclean i (List.mem_range.1 hi)
    rw [ht, meetErrors_of_none hflip hbad hmac]
  have hpoison : (List.range m).filter (fun i => s.diePoisoned (pa / 32 + i)) = (List.range m).filter fun i => s.atomPoison.contains (pa / 32 + i) := by
    refine List.filter_congr fun i hi => ?_
    obtain ⟨-, hbad, hmac⟩ := hclean i (List.mem_range.1 hi)
    simp [State.diePoisoned, hbad, hmac]
  have hexec : exec .baseDieRd s = .next (reply s p (Memory.bytes s.mem (pa / 32 * 32) (32 * m))
      ((List.range m).filter fun i => s.atomPoison.contains (pa / 32 + i)) 0 false) := by
    simp only [exec, execBaseDieRd, hp, hreq, hmeet, hpoison]
  exact ⟨_, hexec, rfl, answered_reply (.refl s) _ _ _ _ _⟩

theorem baseDieDtc_law {s : State} {p : BdPacket} (hp : received s = some p) {g : Nat} (hreq : p.req = .dtc g) :
    ∃ t, exec .baseDieDtc s = .next t ∧ t = { s with bdq := t.bdq, replies := t.replies, dies := t.dies } ∧
      Answered s t p [] [] g ((s.die p.stack).dirty.contains g) ∧
      t.die p.stack = { s.die p.stack with dirty := (s.die p.stack).dirty.erase g } := by
  have hexec : exec .baseDieDtc s = .next (reply (s.setDie p.stack { s.die p.stack with dirty := (s.die p.stack).dirty.erase g }) p [] [] g
      ((s.die p.stack).dirty.contains g)) := by
    simp [exec, execBaseDieDtc, hp, hreq]
  have hoff : OffDie s (s.setDie p.stack { s.die p.stack with dirty := (s.die p.stack).dirty.erase g }) := ⟨rfl, rfl, rfl, rfl, rfl⟩
  exact ⟨_, hexec, rfl, answered_reply hoff _ _ _ _ _, Tbl.getD_set_self s.dies _ _ _⟩

/-- Where every packet has its tag, none is given. -/
theorem giveTags_of_tagged {s : State} (h : ∀ p ∈ s.bdq, p.tag ≠ none) : s.giveTags = s := by
  refine List.foldlRecOn _ _ (motive := fun t => t = s) rfl fun t ht i _ => ?_
  subst ht
  split
  · next p hp =>
    rw [if_neg]
    simpa using h p (List.mem_of_getElem? hp)
  · rfl

theorem baseDieReply_law {s : State} {x : BdReply} {stack tag : Nat}
    (hx : s.replies.find? (fun r => r.stack == stack && r.die * 4096 + r.tag == tag) = some x) (hmarl : x.marl = false)
    (htags : ∀ p ∈ s.bdq, p.tag ≠ none) :
    exec (.baseDieReply stack tag) s =
      .next { s with replies := s.replies.filter fun r => !(r.stack == stack && r.die * 4096 + r.tag == tag) } := by
  have hfind : s.replies.find? (BdReply.bears stack tag) = some x := hx
  have htagged := giveTags_of_tagged (s := { s with replies := s.replies.filter fun r => !r.bears stack tag }) htags
  simp only [exec, execBaseDieReply, hfind, hmarl, htagged]
  rfl

/-- Settles O51, a lemma for each clause: the registers of a range, and each request that a base die takes. -/
theorem addressMapAndBaseDies : Obligations.AddressMapAndBaseDies := by
  intro s n value
  refine ⟨rangeEnable_laws s n value, fun hon => ⟨rangeDisable_laws s n hon, rangeRekey_law s n hon⟩, rekeyComplete_laws s n,
    fun p hp => ⟨fun cells => baseDieWr_law hp, fun pa op float signed x => baseDieAtom_law hp, fun pa m => baseDieRd_law hp,
      fun g => baseDieDtc_law hp⟩, fun x stack tag => baseDieReply_law⟩

end Sys2Proof.Machine

namespace Sys2Proof.Machine

/-! ## What a write that reaches its home leaves to the rest: teams, launches and the invalidations under way

Of a team such a write can strike the words of its windows; of the launches it can find one eligible that waited for its counters; and no
invalidation on its way to a core is lost. -/

/-- From `s` to `t` no invalidation on its way is lost, no team has changed but for its windows, and no launch but one that waited;
and no L1 has come to hold a dirty byte. -/
structure HomeMoves (s t : State) : Prop where
  dry    : KeepsDry s t
  invals : ∀ c l, l ∈ (s.core c).invals → l ∈ (t.core c).invals
  team   : ∀ i y, s.teams.find? i = some y → ∃ z, t.teams.find? i = some z ∧ z = { y with windows := z.windows }
  launch : ∀ l x, s.launches.find? l = some x → ∃ y, t.launches.find? l = some y ∧ y.part = x.part ∧ (x.stage ≠ .waiting → y.stage = x.stage)

namespace HomeMoves

variable {s t u : State}

/-- Where the tables are as before, nothing is to be shown. -/
theorem of_tables (hc : t.cores = s.cores) (ht : t.teams = s.teams) (hl : t.launches = s.launches) : HomeMoves s t where
  dry := .of_cores hc
  invals c l h := by rwa [State.core, hc]
  team i y h := ⟨y, by rw [ht, h], rfl⟩
  launch l x h := ⟨x, by rw [hl, h], rfl, fun _ => rfl⟩

theorem refl (s : State) : HomeMoves s s := of_tables rfl rfl rfl

theorem trans (h₁ : HomeMoves s t) (h₂ : HomeMoves t u) : HomeMoves s u where
  dry := h₁.dry.trans h₂.dry
  invals c l h := h₂.invals c l (h₁.invals c l h)
  team i y h := by
    obtain ⟨z, hz, hzy⟩ := h₁.team i y h
    obtain ⟨w, hw, hwz⟩ := h₂.team i z hz
    exact ⟨w, hw, hwz.trans (by rw [hzy])⟩
  launch l x h := by
    obtain ⟨y, hy, hpart, hstage⟩ := h₁.launch l x h
    obtain ⟨z, hz, hpart', hstage'⟩ := h₂.launch l y hy
    exact ⟨z, hz, hpart'.trans hpart, fun hx => (hstage' (by rwa [hstage hx])).trans (hstage hx)⟩

theorem foldl {α : Type} {f : State → α → State} (hf : ∀ s x, HomeMoves s (f s x)) (xs : List α) (s : State) :
    HomeMoves s (xs.foldl f s) := by
  induction xs generalizing s with
  | nil => exact refl s
  | cons x xs ih => exact (hf s x).trans (ih _)

theorem setCore (s : State) (c : Nat) {k : Core} (hl1 : (s.core c).l1 = [] → k.l1 = []) (hk : ∀ l ∈ (s.core c).invals, l ∈ k.invals) :
    HomeMoves s (s.setCore c k) where
  dry := .setCore s c hl1
  invals j l h := by
    by_cases hj : j = c
    · subst hj; rw [State.setCore_core_self]; exact hk l h
    · rwa [State.setCore_core_ne s k hj]
  team i y h := ⟨y, h, rfl⟩
  launch l x h := ⟨x, h, rfl, fun _ => rfl⟩

/-- A launch that waited for its counters may take another stage. -/
theorem setLaunch (h : HomeMoves s t) {k : Nat} {x : Launch} (hk : (s.launch k).stage = .waiting) (hx : x.part = (s.launch k).part) :
    HomeMoves s (t.setLaunch k x) where
  dry := h.dry
  invals := h.invals
  team := h.team
  launch l y hy := by
    by_cases hl : l = k
    · subst hl
      have hlaunch : s.launch l = y := by rw [State.launch, Tbl.getD, hy, Option.getD_some]
      exact ⟨x, Tbl.find?_set_self _ _ _, by rw [hx, hlaunch], fun hstage => absurd (hlaunch ▸ hk) hstage⟩
    · obtain ⟨z, hz, hrest⟩ := h.launch l y hy
      exact ⟨z, (Tbl.find?_set_ne _ _ hl).trans hz, hrest⟩

end HomeMoves

namespace State

theorem homeMoves_setFunc (s : State) (fn : Nat) (f : Func) : HomeMoves s (s.setFunc fn f) := .of_tables rfl rfl rfl

theorem homeMoves_readLine (s : State) (line : Nat) : HomeMoves s (s.readLine line) := by
  unfold readLine
  dsimp only
  split
  · exact .refl s
  · exact .of_tables rfl rfl rfl

theorem homeMoves_healLine (s : State) (cells : List Host.Cell) (bad : List Nat) : HomeMoves s (s.healLine cells bad) := by
  rw [healLine_eq]
  exact .of_tables rfl rfl rfl

theorem homeMoves_strikeWindows (s : State) (owner : Option Nat) (cells : List Host.Cell) : HomeMoves s (s.strikeWindows owner cells) where
  dry := keepsDry_strikeWindows s owner cells
  invals _ _ h := h
  team i y h := by
    unfold strikeWindows
    rw [Tbl.find?_mapVals, h, Option.map_some]
    split
    · exact ⟨y, rfl, rfl⟩
    · exact ⟨_, rfl, rfl⟩
  launch l x h := ⟨x, h, rfl, fun _ => rfl⟩

/-- Lines added to a list of invalidations leave those that it has. -/
theorem mem_addInvals {l : Nat} (ls invals : List Nat) (h : l ∈ invals) :
    l ∈ ls.foldl (fun acc l => if acc.contains l then acc else acc ++ [l]) invals := by
  induction ls generalizing invals with
  | nil => exact h
  | cons x ls ih =>
    refine ih _ ?_
    dsimp only
    split
    · exact h
    · exact List.mem_append_left _ h

theorem homeMoves_sendInvals (s : State) (from_ : Option Nat) (cells : List Host.Cell) : HomeMoves s (s.sendInvals from_ cells) where
  dry := keepsDry_sendInvals s from_ cells
  invals c l h := by
    unfold sendInvals
    rw [core, Tbl.getD_mapVals _ _ _ (by split <;> rfl)]
    split
    · exact h
    · exact mem_addInvals _ _ h
  team i y h := ⟨y, h, rfl⟩
  launch l x h := ⟨x, h, rfl, fun _ => rfl⟩

theorem homeMoves_homeLand (s : State) (from_ owner : Option Nat) (cells : List Host.Cell) (bad : List Nat) :
    HomeMoves s (s.homeLand from_ owner cells bad) := by
  unfold homeLand
  split
  · exact .refl s
  · next c cs =>
    have hsend : HomeMoves s (s.send c.1 (.wr (c :: cs)) bad) := .of_tables rfl rfl rfl
    exact ((hsend.trans (homeMoves_healLine _ _ _)).trans (homeMoves_strikeWindows _ _ _)).trans
      ((homeMoves_sendInvals _ _ _).trans (.of_tables rfl rfl rfl))

theorem homeMoves_noteBlock (s : State) (fn ipa n : Nat) : HomeMoves s (s.noteBlock fn ipa n) := by
  unfold noteBlock
  dsimp only
  split
  · exact homeMoves_setFunc _ _ _
  · split <;> exact homeMoves_setFunc _ _ _

theorem homeMoves_noteLog (s : State) (fn ipa n : Nat) : HomeMoves s (s.noteLog fn ipa n) := by
  have hblocks : ∀ (fuel : Nat) (s : State) (ipa n : Nat), HomeMoves s (noteBlocks fuel s fn ipa n) := by
    intro fuel
    induction fuel with
    | zero => exact fun s _ _ => .refl s
    | succ fuel ih =>
      intro s ipa n
      unfold noteBlocks
      split
      · exact .refl s
      · exact (homeMoves_noteBlock _ _ _ _).trans (ih _ _ _)
  exact hblocks _ _ _ _

theorem homeMoves_noteCore (s : State) (c line : Nat) (cells : List Host.Cell) : HomeMoves s (s.noteCore c line cells) := by
  unfold noteCore
  split
  · exact homeMoves_noteLog _ _ _ _
  · exact .refl s

theorem homeMoves_registerNarrow (s : State) (c line : Nat) : HomeMoves s (s.registerNarrow c line) := by
  unfold registerNarrow
  dsimp only
  split
  · exact .refl s
  · exact .setCore _ _ id fun _ h => h

theorem homeMoves_flushLand (s : State) (c : Nat) (p : Nat → Bool) : HomeMoves s (s.flushLand c p) := by
  unfold flushLand
  dsimp only
  split
  · exact .refl s
  · refine .trans (.setCore s c (fun h => ?_) ?_) (.foldl (fun s l => ?_) _ _)
    · simp [h]
    · exact fun _ h => h
    exact (homeMoves_noteCore _ _ _ _).trans (homeMoves_homeLand _ _ _ _ _)

theorem homeMoves_wordLand (s : State) (line : SiltLine) (i : Nat) (x : Word) : HomeMoves s (s.wordLand line i x) := by
  unfold wordLand
  extract_lets pa old cells
  have hsend : HomeMoves s (s.sendAtom pa line.op line.float line.signed x cells) := .of_tables rfl rfl rfl
  exact (hsend.trans (homeMoves_strikeWindows _ _ _)).trans ((homeMoves_sendInvals _ _ _).trans (.of_tables rfl rfl rfl))

theorem homeMoves_siltLand (s : State) (c : Nat) (p : SiltLine → Bool) : HomeMoves s (s.siltLand c p) := by
  unfold siltLand
  dsimp only
  split
  · exact .refl s
  · refine .trans (.setCore s c ?_ ?_) (.foldl (fun s l => ?_) _ _)
    · exact id
    · exact fun _ h => h
    refine HomeMoves.trans ?_ (homeMoves_registerNarrow _ _ _)
    exact (homeMoves_flushLand _ _ _).trans (.foldl (fun s w => (homeMoves_noteCore _ _ _ _).trans (homeMoves_wordLand _ _ _ _)) _ _)

theorem homeMoves_publishLand (s : State) (c : Nat) : HomeMoves s (s.publishLand c) :=
  (homeMoves_flushLand _ _ _).trans (.setCore _ _ id fun _ h => h)

theorem homeMoves_lineLand (s : State) (line : Nat) : HomeMoves s (s.lineLand line) := by
  unfold lineLand
  dsimp only
  split
  · exact .refl s
  · exact (HomeMoves.foldl homeMoves_publishLand _ _).trans (.foldl (fun _ _ => homeMoves_siltLand _ _ _) _ _)

theorem homeMoves_counterMet (s : State) (lines : List Nat) (got : Bool) (place : Option Nat) (value : Nat) :
    HomeMoves s (s.counterMet lines got place value).1 := by
  unfold counterMet
  split
  · exact .refl s
  · split
    · exact .refl s
    · exact (homeMoves_lineLand _ _).trans (homeMoves_readLine _ _)

theorem homeMoves_noteCounters (s : State) (lines : List Nat) : HomeMoves s (s.noteCounters lines) := by
  unfold noteCounters
  split
  · exact .refl s
  · refine .foldl (fun s k => ?_) _ _
    dsimp only
    split
    · exact .refl s
    · next hwaits =>
      have hmet := (homeMoves_counterMet s lines (s.launch k).got0 (s.launch k).place0 (s.launch k).record.wait0V).trans
        (homeMoves_counterMet _ lines (s.launch k).got1 (s.launch k).place1 (s.launch k).record.wait1V)
      exact hmet.setLaunch (by simpa using hwaits) rfl

theorem homeMoves_homeWrite (s : State) (from_ owner : Option Nat) (cells : List Host.Cell) (bad : List Nat) :
    HomeMoves s (s.homeWrite from_ owner cells bad) :=
  (homeMoves_homeLand _ _ _ _ _).trans (homeMoves_noteCounters _ _)

theorem homeMoves_homeWrites (s : State) (from_ owner : Option Nat) (cells : List Host.Cell) :
    HomeMoves s (s.homeWrites from_ owner cells) :=
  .foldl (fun _ _ => homeMoves_homeWrite _ _ _ _ _) _ _

theorem homeMoves_mergeLine (s : State) (line : Nat) : HomeMoves s (s.mergeLine line) := by
  unfold mergeLine
  split
  · exact (homeMoves_lineLand _ _).trans (homeMoves_noteCounters _ _)
  · exact .refl s

theorem homeMoves_touchAll (s : State) (as : List Nat) : HomeMoves s (s.touchAll as) :=
  .foldl (fun _ _ => (homeMoves_mergeLine _ _).trans (homeMoves_readLine _ _)) _ _

theorem homeMoves_ringWalked (s : State) (fn : Nat) (at_ : Nat → Nat) (n : Nat) : HomeMoves s (s.ringWalked fn at_ n) := by
  refine .foldl (fun s i => ?_) _ _
  unfold walkedFunc
  split
  · exact .refl s
  · exact homeMoves_touchAll _ _

theorem homeMoves_ringWrite {s t : State} {fn : Nat} {at_ : Nat → Nat} {bs : List Byte} (h : s.ringWrite fn at_ bs = some t) :
    HomeMoves s t := by
  unfold ringWrite at h
  dsimp only at h
  split at h
  · cases h
  · cases h
    refine (homeMoves_ringWalked _ _ _ _).trans (HomeMoves.trans (.foldl (fun s c => ?_) _ _) (homeMoves_homeWrites _ _ _ _))
    split
    · exact homeMoves_noteLog _ _ _ _
    · exact .refl s

theorem homeMoves_emit (s : State) (g after : Group) (r : List Byte) : HomeMoves s (s.emit g after r) := by
  unfold emit
  split
  · exact .refl s
  · next fn _ =>
    extract_lets f lost since bs
    have hlost : HomeMoves s lost := homeMoves_setFunc _ _ _
    clear_value lost bs
    split
    · exact hlost
    · split
      · exact hlost
      · next h =>
        refine HomeMoves.trans ?_ (homeMoves_setFunc _ _ _)
        unfold traceBytes at h
        dsimp only at h
        split at h
        · cases h
        · obtain ⟨u, hu, rfl⟩ := Option.map_eq_some_iff.mp h
          exact (homeMoves_ringWrite hu).trans (homeMoves_setFunc _ _ _)

theorem homeMoves_traceMasks (s : State) (before after : Group) : HomeMoves s (s.traceMasks before after) := by
  refine .foldl (fun s x => ?_) _ _
  split
  · exact homeMoves_emit _ _ _ _
  · exact .refl s

/-- The error log's ring is written as any home; the rest of the log's record is the package's. -/
theorem homeMoves_logError (s : State) (r : ErrorRec) : HomeMoves s (s.logError r) := by
  have hlost : HomeMoves s { s with pkg := { s.pkg with errLost := true } } := .of_tables rfl rfl rfl
  unfold logError
  dsimp only
  split
  · exact hlost
  · split
    · exact hlost
    · split
      · exact hlost
      · next h => exact (homeMoves_ringWrite h).trans (.of_tables rfl rfl rfl)

end State

end Sys2Proof.Machine

namespace Sys2Proof.Machine

/-! ## The error log, and the parts of a package that its ring leaves (16, R375) -/

namespace State

/-- Beside what moves with memory's homes an error record changes the package's own registers and what it has sent. -/
theorem keepsRest_logError (s : State) (r : ErrorRec) :
    KeepsRest { s with pkg := (s.logError r).pkg, out := (s.logError r).out } (s.logError r) := by
  have key (t : State) (ht : s.logError r = t) : KeepsRest { s with pkg := t.pkg, out := t.out } t := by
    unfold logError at ht
    dsimp only at ht
    split at ht
    · subst ht; exact .of_cores rfl rfl
    · split at ht
      · subst ht; exact .of_cores rfl rfl
      · split at ht
        · subst ht; exact .of_cores rfl rfl
        · next u hu =>
          subst ht
          obtain ⟨hrest, hcores⟩ := keepsRest_ringWrite hu
          refine ⟨?_, hcores⟩
          have hrest' := congrArg (fun x : State => { x with
            pkg := { u.pkg with errProd := (s.pkg.errProd + 1) % 2 ^ 32, errSeq := s.pkg.errSeq + 1 }, out := u.out ++ [Out.msix 0 1] }) hrest
          exact hrest'
  exact key _ rfl

theorem logError_recalls (s : State) (r : ErrorRec) : (s.logError r).recalls = s.recalls := by
  have h := congrArg State.recalls (keepsRest_logError s r).1
  exact h

end State

/-! ## Lost directory entries (16, R371) -/

/-- The cores' table with an invalidation of `line` on its way to core `c`. -/
def recallAt (line : Nat) (t : Tbl Core) (c : Nat) : Tbl Core :=
  t.set c { t.getD c {} with invals := if (t.getD c {}).invals.contains line then (t.getD c {}).invals else (t.getD c {}).invals ++ [line] }

theorem mem_invals_recallAt_self (line : Nat) (t : Tbl Core) (c : Nat) : line ∈ ((recallAt line t c).getD c {}).invals := by
  rw [recallAt, Tbl.getD_set_self]
  dsimp only
  split
  · next h => simpa using h
  · simp

theorem mem_invals_recallAt {line : Nat} {t : Tbl Core} {j : Nat} (h : line ∈ (t.getD j {}).invals) (c : Nat) :
    line ∈ ((recallAt line t c).getD j {}).invals := by
  by_cases hj : j = c
  · subst hj; exact mem_invals_recallAt_self line t j
  · rwa [recallAt, Tbl.getD_set_ne _ _ _ hj]

theorem mem_invals_recalls {line : Nat} {cs : List Nat} {t : Tbl Core} {j : Nat} (h : j ∈ cs ∨ line ∈ (t.getD j {}).invals) :
    line ∈ ((cs.foldl (recallAt line) t).getD j {}).invals := by
  induction cs generalizing t with
  | nil => exact h.resolve_left (List.not_mem_nil)
  | cons c cs ih =>
    refine ih ?_
    rcases h with h | h
    · rcases List.mem_cons.1 h with rfl | h
      · exact .inr (mem_invals_recallAt_self line t j)
      · exact .inl h
    · exact .inr (mem_invals_recallAt h c)

/-- A lost entry's line is recalled from every core of its partition. -/
theorem execDirectoryRecall_recalls {s : State} {p : Nat} (hp : linePart s s.focus = some p) (hno : s.recalls.find? s.focus = none) :
    ∃ t, exec .directoryRecall s = .next t ∧ t.mem = s.mem ∧
      t.recalls.find? s.focus = some { cores := clusterCores (s.part p).clusters, since := s.now, part := p } ∧
      ∀ c ∈ clusterCores (s.part p).clusters, s.focus ∈ (t.core c).invals := by
  let u : State := { s with
    recalls := s.recalls.set s.focus { cores := clusterCores (s.part p).clusters, since := s.now, part := p }
    cores := (clusterCores (s.part p).clusters).foldl (recallAt s.focus) s.cores }
  obtain ⟨r, hr⟩ : ∃ r, exec .directoryRecall s = .next (u.logError r) := by
    show ∃ r, execDirectoryRecall s = _
    unfold execDirectoryRecall
    dsimp only
    rw [hp]
    dsimp only
    rw [hno]
    exact ⟨_, rfl⟩
  refine ⟨_, hr, State.logError_mem _ _, ?_, fun c hc => ?_⟩
  · rw [State.logError_recalls]
    exact Tbl.find?_set_self _ _ _
  · exact (State.homeMoves_logError u r).invals c _ (mem_invals_recalls (.inl hc))

/-- The entry is rebuilt once all have answered. -/
theorem execDirectoryRebuild_rebuilt {s : State} {r : Recall} (hr : s.recalls.find? s.focus = some r) (hc : r.cores = [])
    (hclaim : s.lineClaimed s.focus = false) : exec .directoryRebuild s = .next { s with recalls := s.recalls.erase s.focus } := by
  show execDirectoryRebuild s = _
  simp [execDirectoryRebuild, hr, hc, hclaim]

/-! ## A reset begins (16, R374) -/

namespace State

variable {s : State} {n : Nat}

/-- A partition that a reset takes: GO is 1, nothing of it runs, and its cores' multiplies and copies are gone. -/
theorem beginReset_begins (h : (s.part n).rstGo = false) (cause : Nat) :
    s.beginReset n cause = { s with parts := (s.beginReset n cause).parts, cores := (s.beginReset n cause).cores } ∧
      (s.beginReset n cause).part n = { s.part n with rstGo := true, rstNext := cause } ∧
      (∀ j, j ≠ n → (s.beginReset n cause).part j = s.part j) ∧ (s.beginReset n cause).partRuns n = false ∧
      (∀ c, coreIn s n c = true → ((s.beginReset n cause).core c).mq = [] ∧ ((s.beginReset n cause).core c).copies = []) ∧
      ∀ c, coreIn s n c = false → (s.beginReset n cause).core c = s.core c := by
  have heq : s.beginReset n cause = { s.setPart n { s.part n with rstGo := true, rstNext := cause } with
      cores := s.cores.mapVals fun c (k : Core) => if coreIn s n c then { k with mq := [], copies := [] } else k } := by
    rw [beginReset, h]
    rfl
  have hpart : (s.beginReset n cause).part n = { s.part n with rstGo := true, rstNext := cause } := by
    rw [heq]
    exact setPart_part_self _ _ _
  have hcore (c : Nat) : (s.beginReset n cause).core c = if coreIn s n c then { s.core c with mq := [], copies := [] } else s.core c := by
    rw [heq]
    exact Tbl.getD_mapVals (fun c (k : Core) => if coreIn s n c then { k with mq := [], copies := [] } else k) _ _ (by split <;> rfl)
  refine ⟨?_, hpart, fun j hj => ?_, ?_, fun c hc => ?_, fun c hc => ?_⟩
  · rw [heq]; rfl
  · rw [heq]
    exact setPart_part_ne _ _ hj
  · rw [partRuns, hpart]
    simp
  · rw [hcore, hc]
    exact ⟨rfl, rfl⟩
  · rw [hcore, hc]
    rfl

end State

/-- A recall that no one ends resets the partition. -/
theorem execRecallTimeout_begins {s : State} {r : Recall} (hr : s.recalls.find? s.focus = some r)
    (hopen : r.cores ≠ [] ∨ s.lineClaimed s.focus = true) (hdue : r.since + 120000 ≤ s.now) :
    exec .recallTimeout s = .next (s.beginReset r.part 1) := by
  have hwaits : (!r.cores.isEmpty || s.lineClaimed s.focus) = true := by
    rcases hopen with h | h
    · simp [h]
    · simp [h]
  show execRecallTimeout s = _
  simp [execRecallTimeout, hr, hwaits, hdue]

/-! ## Banks, the scrubber and the error log's register (16, R375, R377, R378) -/

theorem execBankDrowsy_drowsy {s : State} {core bank : Nat} (hbank : bank ∉ (s.core core).drowsy)
    (hidle : ∀ g ∈ s.groups, g.2.core = core → (s.team g.2.team).resident = true → g.2.inBank bank = true →
      ∀ at_, g.2.issuedAt = some at_ → at_ + 4096 ≤ s.now) :
    exec (.bankDrowsy core bank) s = .next (s.setCore core { s.core core with drowsy := (s.core core).drowsy ++ [bank] }) := by
  have hnone : (s.groups.any fun g => g.2.core == core && (s.team g.2.team).resident && g.2.inBank bank &&
      g.2.issuedAt.any fun t => decide (s.now < t + 4096)) = false := by
    refine List.any_eq_false.2 fun g hg hbusy => ?_
    simp only [Bool.and_eq_true, beq_iff_eq, Option.any_eq_true_iff_get, decide_eq_true_eq] at hbusy
    obtain ⟨⟨⟨hcore, hres⟩, hin⟩, hsome, hlt⟩ := hbusy
    have hle := hidle g hg hcore hres hin _ (Option.some_get hsome).symm
    omega
  show execBankDrowsy core bank s = _
  simp only [execBankDrowsy, hnone, List.contains_eq_mem, hbank, decide_false, Bool.or_self, Bool.false_eq_true, if_false]

/-- An error that an atom corrects is counted at the die of its stack. -/
theorem hbmError_die (s : State) (poison : Bool) (pa : Nat) : (hbmError s 3 poison pa).die = 8 + s.stackOf pa := by
  unfold hbmError State.stackOf
  split
  · next h => rw [h]; rfl
  · next h => rw [h]; rfl

/-- A scrubber that meets a flipped atom takes it in hand and counts the correction; without ERRCE nothing is logged. -/
theorem execScrubAtom_meets {s : State} {stack atom : Nat} (hdays : s.pkg.scrubDays ≠ 0) (hstack : s.stackOf (32 * atom) = stack)
    (hidle : (s.die stack).scrub = none) (hflip : atom ∈ s.atomFlipped) (hbad : atom ∉ s.atomBad) (hmac : atom / 2 ∉ s.macBad)
    (hce : s.pkg.errCe = false) :
    exec (.scrubAtom stack atom) s = .next ({ s with pkg := { s.pkg with
      ceCount := min (2 ^ 64 - 1) (s.pkg.ceCount + 1)
      dieCe := s.pkg.dieCe.set (8 + stack) (s.pkg.dieCe.getD (8 + stack) 0 + 1) } }.setDie stack
        { s.die stack with scrub := some (atom, false) }) := by
  have hmeets : meetErrors s atom = { s with pkg := { s.pkg with
      ceCount := min (2 ^ 64 - 1) (s.pkg.ceCount + 1)
      dieCe := s.pkg.dieCe.set (8 + stack) (s.pkg.dieCe.getD (8 + stack) 0 + 1) } } := by
    simp [meetErrors, State.corrected, hbmError_die, hstack, hflip, hbad, hmac, hce]
  show execScrubAtom stack atom s = _
  unfold execScrubAtom
  dsimp only
  rw [if_neg (by simp [hdays, hstack]), hidle, hmeets]
  dsimp only
  rw [if_pos (by simpa using hflip)]
  rfl

/-- The atom in hand is written back corrected. -/
theorem execScrubAtom_corrects {s : State} {stack atom : Nat} (hdays : s.pkg.scrubDays ≠ 0) (hstack : s.stackOf (32 * atom) = stack)
    (hheld : (s.die stack).scrub = some (atom, false)) :
    exec (.scrubAtom stack atom) s = .next { s.setDie stack { s.die stack with scrub := none } with
      atomFlipped := s.atomFlipped.filter fun a => a != atom } := by
  show execScrubAtom stack atom s = _
  unfold execScrubAtom
  dsimp only
  rw [if_neg (by simp [hdays, hstack]), hheld]
  simp [State.setDie]

theorem execErrCtlWrite_register (s : State) (value : Nat) : ∃ t, exec (.errCtlWrite value) s = .next t ∧ t = { s with pkg := t.pkg } ∧
    t.pkg = { s.pkg with
      errSize := max 6 (min 15 (value / 4096 % 16)), errCe := value.testBit 2, errLost := s.pkg.errLost && !value.testBit 1,
      errEnable := value.testBit 0, errProd := (if value.testBit 0 then 0 else s.pkg.errProd) } := by
  refine ⟨_, rfl, rfl, ?_⟩
  simp [clamp, bitsOf_eq, bitOf_eq_testBit]

end Sys2Proof.Machine

namespace Sys2Proof.Machine

/-! ## A reset ends (16, R374)

Each thing that a reset does leaves what those before it have done: a cleared core stays so, a team that has stopped stays so, a launch ends
once, and the table of partitions is the caller's. -/

/-- What R374 leaves of a core: nothing but its split, which is `split`. -/
def Core.Bare (split : Nat) (k : Core) : Prop :=
  k.l1 = [] ∧ k.lines = [] ∧ k.scratch = [] ∧ k.tiles = [] ∧ k.mq = [] ∧ k.copies = [] ∧ k.split = split

/-- From `s` to `t` a reset may have gone on. -/
structure Resets (s t : State) : Prop where
  parts  : t.parts = s.parts
  core   : ∀ c n, (s.core c).Bare n → (t.core c).Bare n
  team   : ∀ i y, s.teams.find? i = some y → ∃ z, t.teams.find? i = some z ∧ z.launch = y.launch ∧
    (y.resident = false → z.resident = false) ∧ (y.exited = true → z.exited = true)
  launch : ∀ l x, s.launches.find? l = some x → ∃ y, t.launches.find? l = some y ∧ y.part = x.part ∧
    (x.stage = .admitted → y.stage = .admitted ∨ y.stage = .finishing 3) ∧ (x.stage = .finishing 3 → y.stage = .finishing 3)

namespace Resets

variable {s t u : State}

theorem of_tables (hp : t.parts = s.parts) (hc : t.cores = s.cores) (ht : t.teams = s.teams) (hl : t.launches = s.launches) : Resets s t where
  parts := hp
  core c n h := by rwa [State.core, hc]
  team i y h := ⟨y, by rw [ht, h], rfl, id, id⟩
  launch l x h := ⟨x, by rw [hl, h], rfl, .inl, id⟩

theorem refl (s : State) : Resets s s := of_tables rfl rfl rfl rfl

theorem trans (h₁ : Resets s t) (h₂ : Resets t u) : Resets s u where
  parts := h₂.parts.trans h₁.parts
  core c n h := h₂.core c n (h₁.core c n h)
  team i y h := by
    obtain ⟨z, hz, hlaunch, hres, hexit⟩ := h₁.team i y h
    obtain ⟨w, hw, hlaunch', hres', hexit'⟩ := h₂.team i z hz
    exact ⟨w, hw, hlaunch'.trans hlaunch, hres' ∘ hres, hexit' ∘ hexit⟩
  launch l x h := by
    obtain ⟨y, hy, hpart, hadm, hfin⟩ := h₁.launch l x h
    obtain ⟨z, hz, hpart', hadm', hfin'⟩ := h₂.launch l y hy
    exact ⟨z, hz, hpart'.trans hpart, fun hx => (hadm hx).elim hadm' fun hy => .inr (hfin' hy), hfin' ∘ hfin⟩

theorem foldl {α : Type} {f : State → α → State} (hf : ∀ s x, Resets s (f s x)) (xs : List α) (s : State) : Resets s (xs.foldl f s) := by
  induction xs generalizing s with
  | nil => exact refl s
  | cons x xs ih => exact (hf s x).trans (ih _)

theorem foldl_pair {α β : Type} {f : State × β → α → State × β} (hf : ∀ acc x, Resets acc.1 (f acc x).1) (xs : List α) (acc : State × β) :
    Resets acc.1 (xs.foldl f acc).1 := by
  induction xs generalizing acc with
  | nil => exact refl _
  | cons x xs ih => exact (hf acc x).trans (ih _)

/-- What moves with memory's homes leaves a reset's work. -/
theorem of_home (hr : KeepsRest s t) (hm : HomeMoves s t) : Resets s t where
  parts := by
    have h := congrArg State.parts hr.1
    exact h
  core c n h := by
    obtain ⟨hl1, hlines, hscratch, htiles, hmq, hcopies, hsplit⟩ := h
    have hrest := hr.2 c
    exact ⟨hm.dry c hl1, (congrArg Core.lines hrest).trans hlines, (congrArg Core.scratch hrest).trans hscratch,
      (congrArg Core.tiles hrest).trans htiles, (congrArg Core.mq hrest).trans hmq, (congrArg Core.copies hrest).trans hcopies,
      (congrArg Core.split hrest).trans hsplit⟩
  team i y h := by
    obtain ⟨z, hz, hzy⟩ := hm.team i y h
    exact ⟨z, hz, by rw [hzy], fun hy => by rw [hzy]; exact hy, fun hy => by rw [hzy]; exact hy⟩
  launch l x h := by
    obtain ⟨y, hy, hpart, hstage⟩ := hm.launch l x h
    refine ⟨y, hy, hpart, fun hx => .inl ?_, fun hx => ?_⟩
    · exact (hstage (by rw [hx]; decide)).trans hx
    · exact (hstage (by rw [hx]; decide)).trans hx

/-- A launch may change besides, as long as it keeps its partition and its end. -/
theorem setLaunch (s : State) {l : Nat} {x : Launch} (hpart : x.part = (s.launch l).part)
    (hadm : (s.launch l).stage = .admitted → x.stage = .admitted ∨ x.stage = .finishing 3)
    (hfin : (s.launch l).stage = .finishing 3 → x.stage = .finishing 3) : Resets s (s.setLaunch l x) where
  parts := rfl
  core _ _ h := h
  team i y h := ⟨y, h, rfl, id, id⟩
  launch j y h := by
    by_cases hj : j = l
    · subst hj
      have hlaunch : s.launch j = y := by rw [State.launch, Tbl.getD, h, Option.getD_some]
      rw [hlaunch] at hpart hadm hfin
      exact ⟨x, Tbl.find?_set_self _ _ _, hpart, hadm, hfin⟩
    · exact ⟨y, (Tbl.find?_set_ne _ _ hj).trans h, rfl, .inl, id⟩

end Resets

namespace State

theorem resets_touchAll (s : State) (as : List Nat) : Resets s (s.touchAll as) :=
  .of_home (keepsRest_touchAll s as) (homeMoves_touchAll s as)

theorem resets_mergeLine (s : State) (line : Nat) : Resets s (s.mergeLine line) :=
  .of_home (keepsRest_mergeLine s line) (homeMoves_mergeLine s line)

theorem resets_readLine (s : State) (line : Nat) : Resets s (s.readLine line) :=
  .of_home (keepsRest_readLine s line) (homeMoves_readLine s line)

theorem resets_emit (s : State) (g after : Group) (r : List Byte) : Resets s (s.emit g after r) :=
  .of_home (keepsRest_emit s g after r) (homeMoves_emit s g after r)

theorem resets_traceMasks (s : State) (before after : Group) : Resets s (s.traceMasks before after) :=
  .of_home (keepsRest_traceMasks s before after) (homeMoves_traceMasks s before after)

theorem resets_setFunc (s : State) (fn : Nat) (f : Func) : Resets s (s.setFunc fn f) := .of_tables rfl rfl rfl rfl

theorem resets_setGroup (s : State) (k : Nat) (g : Group) : Resets s (s.setGroup k g) := .of_tables rfl rfl rfl rfl

theorem resets_setNet (s : State) (n : Nat) (x : NetCtx) : Resets s (s.setNet n x) := .of_tables rfl rfl rfl rfl

theorem resets_setDie (s : State) (n : Nat) (x : Stack) : Resets s (s.setDie n x) := .of_tables rfl rfl rfl rfl

theorem resets_logError (s : State) (r : ErrorRec) : Resets s (s.logError r) := by
  have htables : Resets s { s with pkg := (s.logError r).pkg, out := (s.logError r).out } := .of_tables rfl rfl rfl rfl
  refine htables.trans (.of_home (keepsRest_logError s r) ?_)
  have hm := homeMoves_logError s r
  exact ⟨hm.dry, hm.invals, hm.team, hm.launch⟩

theorem resets_count (s : State) (l i n : Nat) : Resets s (s.count l i n) := by
  unfold count
  split
  · exact .refl s
  · exact .setLaunch s rfl .inl id

/-! ### A request's end (14, R331): the counter that it raises, and the groups that wait for it -/

theorem resets_walkedAll (s : State) (core asid : Nat) (vas : List Nat) : Resets s (s.walkedAll core asid vas) := by
  refine .foldl (fun s va => ?_) _ _
  unfold walked
  split
  · exact .refl s
  · exact resets_touchAll _ _

theorem resets_closeLog (s : State) (fn : Nat) : Resets s (s.closeLog fn) := by
  unfold closeLog
  dsimp only
  split
  · exact .refl s
  · exact resets_setFunc _ _ _

theorem resets_noteLog (s : State) (fn ipa n : Nat) : Resets s (s.noteLog fn ipa n) :=
  .of_home (keepsRest_noteLog s fn ipa n) (homeMoves_noteLog s fn ipa n)

theorem resets_engineWriteAt (s : State) (fn : Nat) (ps : List (Nat × Nat × Option Nat)) (bs : List Byte) :
    Resets s (s.engineWriteAt fn ps bs).1 := by
  unfold engineWriteAt
  split
  · exact .refl s
  · split
    · exact resets_setFunc _ _ _
    · refine Resets.foldl_pair (fun acc p => ?_) ps (s, bs)
      dsimp only
      refine Resets.trans ?_ (.of_home (keepsRest_homeWrites _ _ _ _) (homeMoves_homeWrites _ _ _ _))
      refine Resets.trans ?_ (.foldl resets_mergeLine _ _)
      split
      · exact resets_noteLog _ _ _ _
      · exact .refl _

theorem resets_of_engineWriteAt {s t : State} {fn : Nat} {ps : List (Nat × Nat × Option Nat)} {bs : List Byte} {b : Bool}
    (h : s.engineWriteAt fn ps bs = (t, b)) : Resets s t := by
  have hwrite := resets_engineWriteAt s fn ps bs
  rwa [h] at hwrite

/-- The state that a read of the engines leaves. -/
def EngineRead.state : EngineRead → State
  | .waits s => s
  | .fault s _ _ => s
  | .ok s _ => s

theorem resets_engineRead (s : State) (asid va n : Nat) : Resets s (EngineRead.state (s.engineRead asid va n)) := by
  unfold engineRead
  extract_lets w
  have hw : Resets s w := resets_walkedAll _ _ _ _
  clear_value w
  split
  · exact hw
  · split
    · exact hw
    · refine hw.trans (.foldl (fun s p => .foldl (fun s l => ?_) _ _) _ _)
      exact (resets_mergeLine _ _).trans (resets_readLine _ _)

/-- Records of an instruction's trace leave a reset's work. -/
theorem resets_traceIssue (s : State) (before after : Group) (b any : Bool) : Resets s (s.traceIssue before after b any) := by
  unfold traceIssue
  split
  · exact .refl s
  · dsimp only
    split
    · exact ((resets_emit _ _ _ _).trans (resets_traceMasks _ _ _)).trans (resets_emit _ _ _ _)
    · exact (resets_emit _ _ _ _).trans (resets_traceMasks _ _ _)

theorem resets_retireGroup (s : State) (c : Ctx) (f : Group → Group) : Resets s (s.retireGroup c f) := by
  unfold retireGroup
  split
  · exact .refl s
  · split
    · exact .refl s
    · exact resets_setGroup _ _ _

/-- A group that goes on retires its instruction. -/
theorem resets_release (s : State) (k : Nat) : Resets s (s.release k) := by
  have hsettle : Resets s (settle (s.waitCtx k) (s.waitCtx k).s (.next (s.waitCtx k).s)) :=
    ((resets_setGroup s k _).trans (resets_retireGroup _ _ _)).trans (resets_traceIssue _ _ _ _ _)
  unfold release endWait
  dsimp only
  split
  · exact hsettle.trans (resets_setGroup _ _ _)
  · exact hsettle

end State

theorem resets_testFences (s : State) : Resets s (testFences s) := by
  refine .foldl (fun s k => ?_) _ _
  dsimp only
  split
  · split
    · exact .refl s
    · exact s.resets_release _
  · exact .refl s

theorem resets_changeReqs (s : State) (p q : Nat) (f : WorkReq → Option WorkReq) : Resets s (changeReqs s p q f) := s.resets_setNet _ _

theorem resets_dropReq (s : State) (p q serial : Nat) : Resets s (dropReq s p q serial) :=
  (resets_changeReqs _ _ _ _).trans (resets_testFences _)

/-- The state in which a counter's raise ends. -/
def Bump.state : Bump → State
  | .waits s => s
  | .fault s _ => s
  | .ok s => s

theorem resets_bump (s : State) (asid addr : Nat) : Resets s (bump s asid addr).state := by
  unfold bump
  extract_lets vmid fn w
  have hw : Resets s w := (s.resets_closeLog fn).trans (State.resets_walkedAll _ _ _ _)
  clear_value w
  split
  · exact hw
  · split
    · exact hw
    · have hread := w.resets_engineRead asid addr 8
      split
      · next h => rw [h] at hread; exact hw.trans hread
      · next h => rw [h] at hread; exact hw.trans hread
      · next h =>
        rw [h] at hread
        split
        · next hwrite => exact (hw.trans hread).trans (State.resets_of_engineWriteAt hwrite)
        · next hwrite => exact (hw.trans hread).trans (State.resets_of_engineWriteAt hwrite)

theorem resets_stallReq (s : State) (p q : Nat) (r : WorkReq) (x : XFault) (access addr : Nat) :
    Resets s (stallReq s p q r x access addr) := .of_tables rfl rfl rfl rfl

theorem resets_finishReq (s : State) (p q serial : Nat) : Resets s (finishReq s p q serial) := by
  have hleave (r : WorkReq) (code : Nat) (s : State) : Resets s (let s := dropReq s p q serial
      if code = 0 then (s.count r.launch 14 r.sent).count r.launch 15 r.received else s) := by
    refine (resets_dropReq s p q serial).trans ?_
    split
    · exact (State.resets_count _ _ _ _).trans (State.resets_count _ _ _ _)
    · exact .refl _
  unfold finishReq
  split
  · exact .refl s
  · next r _ =>
    split
    · exact .refl s
    · next code _ =>
      extract_lets addr leave
      split
      · exact .refl s
      · split
        · exact hleave r code s
        · have hbump := resets_bump s (s.net p).asid addr
          split
          · next h => rw [h] at hbump; exact hbump
          · next h => rw [h] at hbump; exact hbump.trans (resets_stallReq _ _ _ _ _ _ _)
          · next h => rw [h] at hbump; exact hbump.trans (hleave r code _)

/-- A request that fails ends without its peer's data. -/
theorem resets_endReq (s : State) (p q serial : Nat) : Resets s (endReq s p q serial 5) := by
  unfold endReq
  split
  · exact .refl s
  · split
    · exact .refl s
    · split
      · exact (State.resets_setDie _ _ _).trans (resets_dropReq _ _ _ _)
      · split
        · rw [if_neg (by decide)]
          split
          · exact resets_changeReqs _ _ _ _
          · exact resets_dropReq _ _ _ _
        · exact ((resets_changeReqs _ _ _ _).trans (State.resets_setNet _ _ _)).trans (resets_finishReq _ _ _ _)

end Sys2Proof.Machine

namespace Sys2Proof.Machine

/-! ## A partition that is reset (16, R374) -/

theorem resets_releaseHalts (s : State) (n : Nat) : Resets s (releaseHalts s n) := .foldl (fun _ _ => State.resets_setFunc _ _ _) _ _

theorem resets_freeLockWord (s : State) (pa : Nat) : Resets s (freeLockWord s pa) :=
  .of_home (State.keepsRest_homeWrite _ _ _ _ _) (State.homeMoves_homeWrite _ _ _ _ _)

theorem resets_giveTags (s : State) : Resets s s.giveTags := by
  refine .foldl (fun s i => ?_) _ _
  split
  · split
    · exact .of_tables rfl rfl rfl rfl
    · exact .refl s
  · exact .refl s

theorem resets_marlStop (s : State) (h : Nat) : Resets s (marlStop s h) := .of_tables rfl rfl rfl rfl

theorem resets_cutRound (n : Nat) (s : State) (h : Nat) : Resets s (cutRound n s h) := by
  unfold cutRound
  extract_lets d lost u v
  split
  · exact .refl s
  · have hdropped : Resets s u := .of_tables rfl rfl rfl rfl
    have htags : Resets u v := resets_giveTags u
    exact (hdropped.trans htags).trans ((State.resets_setDie v h _).trans (resets_marlStop _ h))

theorem resets_cutNet (s : State) (p : Nat) : Resets s (cutNet s p) := by
  unfold cutNet
  dsimp only
  exact (Resets.foldl (fun s (r : WorkReq) => resets_endReq s p 17 r.serial) _ _).trans (.of_tables rfl rfl rfl rfl)

theorem resets_testEvicts (s : State) : Resets s (testEvicts s) := by
  refine .foldl (fun s f => ?_) _ _
  have hevict : Resets s (testEvict s f.1) := by
    unfold testEvict
    dsimp only
    repeat' split
    · exact .refl s
    · exact .refl s
    · exact State.resets_setFunc _ _ _
  refine hevict.trans ?_
  unfold testRestored
  dsimp only
  split
  · exact .refl _
  · exact State.resets_setFunc _ _ _

/-- The launch of a reset partition ends with status 3, and what the others hold of it goes. -/
theorem endLaunch_resets {s : State} {l : Nat} (h : (s.launch l).ended = false) :
    ∃ t x, Resets s t ∧ Resets t (s.endLaunch l 3) ∧ t.launches.find? l = some x ∧ x.stage = .finishing 3 := by
  rw [State.endLaunch]
  dsimp only
  rw [if_neg (by simp [h])]
  refine ⟨_, _, ?_, .foldl (fun _ _ => State.resets_traceMasks _ _ _) _ _, Tbl.find?_set_self _ _ _, rfl⟩
  have hset := Resets.setLaunch s (l := l) (x := { s.launch l with
    stage := .finishing 3, arrived := [], commit := none, deposit := [], gbar := [] }) rfl (fun _ => .inr rfl) fun _ => rfl
  refine ⟨rfl, fun c n hc => ?_, hset.team, hset.launch⟩
  obtain ⟨hl1, hlines, hscratch, htiles, hmq, hcopies, hsplit⟩ := hc
  rw [State.core, Tbl.getD_mapVals _ _ _ rfl]
  refine ⟨hl1, hlines, hscratch, htiles, ?_, ?_, hsplit⟩
  · exact List.filter_eq_nil_iff.2 fun y hy => by rw [State.core] at hmq; simp [hmq] at hy
  · exact List.filter_eq_nil_iff.2 fun y hy => by rw [State.core] at hcopies; simp [hcopies] at hy

theorem endLaunch_of_ended {s : State} {l : Nat} (h : (s.launch l).ended = true) (status : Nat) : s.endLaunch l status = s := by
  unfold State.endLaunch
  dsimp only
  rw [if_pos h]

theorem resets_endLaunch (s : State) (l : Nat) : Resets s (s.endLaunch l 3) := by
  cases h : (s.launch l).ended with
  | true => rw [endLaunch_of_ended h]; exact .refl s
  | false =>
    obtain ⟨t, x, hst, hend, -, -⟩ := endLaunch_resets h
    exact hst.trans hend

/-- A launch that is admitted, or that has ended so before, has then ended with status 3. -/
theorem endLaunch_stage {s : State} {l : Nat} {x : Launch} (hx : s.launches.find? l = some x)
    (hstage : x.stage = .admitted ∨ x.stage = .finishing 3) : ∃ y, (s.endLaunch l 3).launches.find? l = some y ∧ y.stage = .finishing 3 := by
  have hlaunch : s.launch l = x := by rw [State.launch, Tbl.getD, hx, Option.getD_some]
  cases h : (s.launch l).ended with
  | true =>
    rw [endLaunch_of_ended h]
    refine ⟨x, hx, hstage.resolve_left fun hadm => ?_⟩
    rw [hlaunch, Launch.ended, hadm] at h
    cases h
  | false =>
    obtain ⟨t, y, -, hend, hy, hfin⟩ := endLaunch_resets h
    obtain ⟨z, hz, -, -, hkeep⟩ := hend.launch l y hy
    exact ⟨z, hz, hkeep hfin⟩

theorem endLaunches_stage {ls : List Nat} {s : State} {l : Nat} {x : Launch} (hx : s.launches.find? l = some x)
    (hstage : l ∈ ls ∧ (x.stage = .admitted ∨ x.stage = .finishing 3) ∨ x.stage = .finishing 3) :
    ∃ y, (ls.foldl (fun s l => s.endLaunch l 3) s).launches.find? l = some y ∧ y.stage = .finishing 3 := by
  induction ls generalizing s x with
  | nil => exact ⟨x, hx, hstage.resolve_left fun h => nomatch h.1⟩
  | cons k ls ih =>
    obtain ⟨y, hy, -, hadm, hfin⟩ := (resets_endLaunch s k).launch l x hx
    rcases hstage with ⟨hl, hopen⟩ | hend
    · rcases List.mem_cons.1 hl with rfl | hl
      · obtain ⟨z, hz, hzfin⟩ := endLaunch_stage hx hopen
        exact ih hz (.inr hzfin)
      · exact ih hy (.inl ⟨hl, hopen.elim hadm fun h => .inr (hfin h)⟩)
    · exact ih hy (.inr (hfin hend))

theorem Tbl.mem_of_find? {α : Type} {t : Tbl α} {k : Nat} {v : α} (h : t.find? k = some v) : (k, v) ∈ t := by
  induction t with
  | nil => cases h
  | cons p t ih =>
    rw [Tbl.find?_cons] at h
    split at h
    · next hk => cases h; cases hk; exact List.mem_cons_self
    · exact List.mem_cons_of_mem _ (ih h)

/-- A team as a reset of partition `n` leaves it. -/
def cutTeam (s : State) (n : Nat) (t : Team) : Team :=
  if partLaunch s n t.launch then
    { t with resident := false, evicted := false, stopping := false, exited := true, windows := [], barriers := [], image := none }
  else t

/-- The teams of the partition's launches stop and its launches end. -/
theorem cutLaunches_cuts (s : State) (n : Nat) : Resets s (cutLaunches s n) ∧ ∀ l x, s.launches.find? l = some x → x.part = n →
    (x.stage = .admitted ∨ x.stage = .finishing 3 → ∃ y, (cutLaunches s n).launches.find? l = some y ∧ y.stage = .finishing 3) ∧
    ∀ i y, s.teams.find? i = some y → y.launch = l →
      ∃ z, (cutLaunches s n).teams.find? i = some z ∧ z.resident = false ∧ z.exited = true := by
  unfold cutLaunches
  extract_lets mine cut
  have hteam (i : Nat) (y : Team) (hy : s.teams.find? i = some y) : cut.teams.find? i = some (cutTeam s n y) :=
    (Tbl.find?_mapVals (fun _ t => cutTeam s n t) s.teams i).trans (by rw [hy, Option.map_some])
  have hcut : Resets s cut := by
    refine ⟨rfl, fun _ _ h => h, fun i y hy => ?_, fun l x hx => ⟨x, hx, rfl, .inl, id⟩⟩
    refine ⟨_, hteam i y hy, ?_⟩
    unfold cutTeam
    split
    · exact ⟨rfl, fun _ => rfl, fun _ => rfl⟩
    · exact ⟨rfl, id, id⟩
  have hends : Resets cut (((s.launches.filter fun l => l.2.part == n).map Prod.fst).foldl (fun s l => s.endLaunch l 3) cut) :=
    .foldl resets_endLaunch _ _
  refine ⟨hcut.trans hends, fun l x hx hpart => ⟨fun hadm => ?_, fun i y hy hlaunch => ?_⟩⟩
  · refine endLaunches_stage (s := cut) hx (.inl ⟨?_, hadm⟩)
    exact List.mem_map.2 ⟨(l, x), List.mem_filter.2 ⟨Tbl.mem_of_find? hx, by simpa using hpart⟩, rfl⟩
  · have hmine : partLaunch s n y.launch = true := by
      have hl : s.launch l = x := by rw [State.launch, Tbl.getD, hx, Option.getD_some]
      simp [partLaunch, hlaunch, hl, hx, hpart]
    obtain ⟨z, hz, -, hres, hexit⟩ := hends.team i _ (hteam i y hy)
    rw [cutTeam, if_pos hmine] at hres hexit
    exact ⟨z, hz, hres rfl, hexit rfl⟩

theorem resetCores_core (s : State) (n c : Nat) :
    (resetCores s n).core c = if coreIn s n c then resetCore (s.core c) else s.core c :=
  Tbl.getD_mapVals (fun c k => if coreIn s n c then resetCore k else k) _ _ (by split <;> rfl)

theorem resets_resetCores (s : State) (n : Nat) : Resets s (resetCores s n) := by
  refine ⟨rfl, fun c m hc => ?_, fun i y hy => ⟨y, hy, rfl, id, id⟩, fun l x hx => ⟨x, hx, rfl, .inl, id⟩⟩
  rw [resetCores_core]
  split
  · obtain ⟨-, -, -, -, -, -, hsplit⟩ := hc
    exact ⟨rfl, rfl, rfl, rfl, rfl, rfl, hsplit⟩
  · exact hc

/-- The cores of the partition are cleared. -/
theorem resetCores_bare {s : State} {n c : Nat} (hc : coreIn s n c = true) : ((resetCores s n).core c).Bare (s.core c).split := by
  rw [resetCores_core, if_pos hc]
  exact ⟨rfl, rfl, rfl, rfl, rfl, rfl, rfl⟩

theorem bitOf_of_mem_clusterCores {m c : Nat} (h : c ∈ clusterCores m) : bitOf m (c / 48) = true := by
  obtain ⟨k, hk, hc⟩ := List.mem_flatMap.1 h
  split at hc
  · next hbit =>
    obtain ⟨i, hi, rfl⟩ := List.mem_map.1 hc
    have hdiv : (48 * k + i) / 48 = k := by have := List.mem_range.1 hi; omega
    rwa [hdiv]
  · cases hc

/-- The partition's entry as its reset leaves it. -/
def Part.afterReset (p : Part) : Part :=
  { p with rstGo := false, rstAuto := p.rstNext != 0, rstCause := p.rstNext, rstNext := 0, rstCount := min (2 ^ 32 - 1) (p.rstCount + 1),
           cursor := 0, claim := none, last := [131071, 131071, 131071, 131071] }

/-- What a reset does before the partition's launches end. -/
def resetFront (s : State) (n : Nat) : State :=
  let s' := (List.range 8).foldl (cutRound n) ((partLocks s n).foldl freeLockWord (resetCores (releaseHalts s n) n))
  ((s'.nets.map Prod.fst).filter (partNet s' n)).foldl cutNet s'

theorem resetPart_eq (s : State) (n : Nat) : resetPart s n =
    ((testEvicts (cutLaunches (resetFront s n) n)).setPart n
      ((testEvicts (cutLaunches (resetFront s n) n)).part n).afterReset).logError { cls := 7, part := n } := rfl

theorem releaseHalts_core (s : State) (n c : Nat) : (releaseHalts s n).core c = s.core c := by
  unfold releaseHalts
  generalize ((((partGroups s n).filter fun g => groupHalted s g.2 && !g.2.ended).map
    fun g => s.vmidFunc (s.launch (s.launchOf g.2)).vmid).eraseDups) = fns
  have h : ∀ (fns : List Nat) (s : State), (fns.foldl (fun s f => s.setFunc f { s.func f with dbgReleased := true }) s).cores = s.cores := by
    intro fns
    induction fns with
    | nil => exact fun _ => rfl
    | cons f fns ih => exact fun s => (ih _).trans rfl
  rw [State.core, h, State.core]

theorem resetFront_resets (s : State) (n : Nat) : Resets s (resetFront s n) ∧
    ∀ c, coreIn s n c = true → ((resetFront s n).core c).Bare (s.core c).split := by
  have hhalts := resets_releaseHalts s n
  have hrest : Resets (resetCores (releaseHalts s n) n) (resetFront s n) :=
    (Resets.foldl resets_freeLockWord _ _).trans ((Resets.foldl (resets_cutRound n) _ _).trans (.foldl resets_cutNet _ _))
  refine ⟨(hhalts.trans (resets_resetCores _ n)).trans hrest, fun c hc => hrest.core c _ ?_⟩
  have hin : coreIn (releaseHalts s n) n c = true := by rwa [coreIn, State.part, hhalts.parts]
  rw [← releaseHalts_core s n c]
  exact resetCores_bare hin

/-- A partition that is reset runs again, with its cores cleared, its launches ended and their teams stopped. -/
theorem resetPart_resets (s : State) (n : Nat) : ((resetPart s n).part n) = (s.part n).afterReset ∧
    (∀ c, coreIn s n c = true → ((resetPart s n).core c).Bare (s.core c).split) ∧
    ∀ l x, s.launches.find? l = some x → x.part = n →
      (x.stage = .admitted → ((resetPart s n).launch l).stage = .finishing 3) ∧
      ∀ i y, s.teams.find? i = some y → y.launch = l → ((resetPart s n).team i).resident = false ∧ ((resetPart s n).team i).exited = true := by
  obtain ⟨hfront, hbare⟩ := resetFront_resets s n
  obtain ⟨hcut, hcuts⟩ := cutLaunches_cuts (resetFront s n) n
  have hevicts := resets_testEvicts (cutLaunches (resetFront s n) n)
  have hparts := (hevicts.parts.trans hcut.parts).trans hfront.parts
  rw [resetPart_eq]
  generalize testEvicts (cutLaunches (resetFront s n) n) = u at hevicts hparts
  have hlog := (u.setPart n (u.part n).afterReset).resets_logError { cls := 7, part := n }
  refine ⟨?_, fun c hc => hlog.core c _ (hevicts.core c _ (hcut.core c _ (hbare c hc))), fun l x hx hpart => ⟨fun hadm => ?_, fun i y hy hl => ?_⟩⟩
  · rw [State.part, hlog.parts]
    refine (State.setPart_part_self u n _).trans ?_
    rw [State.part, hparts, State.part]
  all_goals
    obtain ⟨x', hx', hpart', hadm', -⟩ := hfront.launch l x hx
    obtain ⟨hend, hteams⟩ := hcuts l x' hx' (hpart'.trans hpart)
  · obtain ⟨z, hz, hfin⟩ := hend (hadm' hadm)
    obtain ⟨w, hw, -, -, hwfin⟩ := hevicts.launch l z hz
    obtain ⟨v, hv, -, -, hvfin⟩ := hlog.launch l w hw
    rw [State.launch, Tbl.getD, hv]
    exact hvfin (hwfin hfin)
  · obtain ⟨y', hy', hl', -, -⟩ := hfront.team i y hy
    obtain ⟨z, hz, hres, hexit⟩ := hteams i y' hy' (hl'.trans hl)
    obtain ⟨w, hw, -, hwres, hwexit⟩ := hevicts.team i z hz
    obtain ⟨v, hv, -, hvres, hvexit⟩ := hlog.team i w hw
    rw [State.team, Tbl.getD, hv]
    exact ⟨hvres (hwres hres), hvexit (hwexit hexit)⟩

end Sys2Proof.Machine

namespace Sys2Proof.Machine

/-- The half of O52 that holds: a recall, its end and its timeout; a reset's two steps; drowsy banks; the scrubber's two steps; the error log's
register. -/
theorem errorsAndResets : Spec.partErrorsAndResets := by
  intro s line reset begins
  have hbegins (n cause : Nat) (h : (s.part n).rstGo = false) : begins n cause (s.beginReset n cause) := State.beginReset_begins h cause
  refine ⟨fun p => execDirectoryRecall_recalls, fun r hr => ⟨execDirectoryRebuild_rebuilt hr, fun hopen hdue hgo => ?_⟩,
    fun n cause => ⟨fun hgo hcause => ?_, fun hgo => ?_⟩, fun core bank => execBankDrowsy_drowsy,
    fun stack atom hdays hstack => ⟨execScrubAtom_meets hdays hstack, execScrubAtom_corrects hdays hstack⟩, execErrCtlWrite_register s⟩
  · exact ⟨_, execRecallTimeout_begins hr hopen hdue, hbegins _ _ hgo⟩
  · refine ⟨_, ?_, hbegins n cause hgo⟩
    show execPartitionReset n cause s = _
    rw [execPartitionReset, hgo, if_neg (by decide), if_pos hcause]
  · refine ⟨resetPart s n, ?_, ?_⟩
    · show execPartitionReset n cause s = _
      rw [execPartitionReset, hgo, if_pos rfl]
    · obtain ⟨hpart, hcores, hlaunches⟩ := resetPart_resets s n
      have hcleared : ∀ c ∈ clusterCores (s.part n).clusters, ((resetPart s n).core c).Bare (s.core c).split :=
        fun c hc => hcores c (bitOf_of_mem_clusterCores hc)
      have hauto : (s.part n).afterReset.rstAuto = decide ((s.part n).rstNext ≠ 0) := by
        simp [Part.afterReset, bne, BEq.beq]
      refine ⟨resetPart_mem s n, ?_, ?_, ?_, ?_, ?_, hcleared, fun _ => hlaunches⟩
      · rw [hpart]; rfl
      · rw [hpart]; rfl
      · rw [hpart, hauto]
      · rw [hpart]; rfl
      · rw [hpart]; rfl

end Sys2Proof.Machine

namespace Sys2Proof.Machine

/-! ## Lines (10, R235; 16, R371): an invalidation, and a Silt line that names a word beyond its line

A Silt line of 128 bytes has 32 words, and a reduction lists a word of index below 32 (`State.siltRed`; 12, R278). The statement speaks of every state,
and its clause on invalidations does not ask for that, as its clause on merging Silt words does: a word of index 32 lands in the line behind, of
which the core holds a copy, and the home sends the core a new invalidation while it answers the old one. -/

/-- Core 0 holds lines 5 and 6, line 5 is being invalidated, and its Silt line of line 5 lists word 32: the first word of line 6. -/
def strayWord : State :=
  { cores := [(0, { lines := [5, 6], invals := [5],
                    silt := [{ line := 5, op := 0, float := false, signed := false, words := [(32, 1)], owners := [] }] })] }

/-- The core answers the invalidation of line 5, and one of line 6 is on its way. -/
theorem strayWord_invalidated : ∃ t, exec (.invalidationReceive 0 5) strayWord = .next t ∧ (t.core 0).invals = [6] := ⟨_, rfl, by decide +kernel⟩

theorem not_partLineEvents : ¬ Spec.partLineEvents := by
  intro h
  obtain ⟨-, hinvalidation, -⟩ := h strayWord 0 5 0 0
  obtain ⟨t, ht, -, hkept, -⟩ := hinvalidation (fun _ h => nomatch h) (by decide)
  obtain ⟨u, hu, hnew⟩ := strayWord_invalidated
  cases ht.symm.trans hu
  rw [hnew] at hkept
  exact absurd hkept (by decide)

/-- Refutes O52: where a Silt line lists a word beyond its own line, the invalidation of that line leaves one of the next line under way, so that
the invalidations left are not those that there were. Its second half holds (`errorsAndResets`). -/
theorem not_linesAndErrors : ¬ Obligations.LinesAndErrors := by
  rintro ⟨hlines, -⟩
  exact not_partLineEvents hlines

end Sys2Proof.Machine

namespace Sys2Proof.Machine

open Sys2Proof.Spec

/-! ## Windows (11, R257): a write-back past a Silt line that names a word beyond its line -/

/-- `wsync` of all windows of the team. -/
def syncAllWord : Fields := { fn := 2 }

/-- A window of two dirty words: the first has its home at the start of line 6, the second at the start of line 5. -/
def crossedWindow : LoamWindow :=
  { sp := 0, gb := 0, len := 8, writable := true, place := [768, 640], valid := [true, true], dirty := [true, true], log := [none, none] }

/-- A group of 32 lanes, all active. -/
def crossedGroup : Group :=
  { team := 0, grpid := 0, width := 32, core := 0, sched := 0, units := [0], slotA := { active := 0xFFFFFFFF, owned := 0xFFFFFFFF } }

/-- The team of that window and group, on a core whose Silt line of line 5 adds 1 to word 32: the first word of line 6. -/
def crossedState : State :=
  { groups := [(0, crossedGroup)], teams := [(0, { launch := 0, teamid := 0, resident := true, windows := [crossedWindow] })],
    cores := [(0, { silt := [{ line := 5, op := 0, float := false, signed := false, words := [(32, 1)], owners := [] }] })] }

/-- What the word sees as it issues. -/
def crossedCtx : Ctx :=
  { s := crossedState, k := 0, g := crossedGroup, b := false, opc := 0x1D2, f := syncAllWord, act := crossedGroup.active false syncAllWord }

theorem crossed_calm : Calm 0x1D2 syncAllWord noNames crossedState crossedCtx where
  ctx := rfl
  form := by decide +kernel
  atEnd := by decide +kernel
  run := by decide +kernel
  clean := by decide +kernel
  room := by decide +kernel
  regs := by decide +kernel
  untraced := by decide +kernel
  alive := rfl
  awake := rfl
  free := rfl
  windows := by decide +kernel
  fresh := by decide +kernel

/-- Nothing blocks a line of that core. -/
theorem crossed_unblocked (l : Nat) : crossedState.lineBlocked (some 0) l = false := rfl

theorem crossed_unlogged (j : Nat) : crossedWindow.log.getD j none = none := by
  rcases j with _ | _ | j
  all_goals rfl

theorem crossed_dirty {i : Nat} (h : i < 2) : crossedWindow.place.getD i 0 = 768 - 128 * i := by
  rcases i with _ | _ | i
  · rfl
  · rfl
  · omega

/-- The first word reaches its home, the second word's line is merged, and so the first word's home holds 1. -/
theorem crossed_synced : ∃ t, exec (.wsync syncAllWord) crossedState = .next t ∧ t.homeBytes 768 4 = [1, 0, 0, 0] := ⟨_, rfl, by decide +kernel⟩

/-- The scratchpad's word is 0. -/
theorem crossed_word : crossedState.spBytes 0 0 4 = [0, 0, 0, 0] := by decide

theorem not_partWindowsAreKept : ¬ Spec.partWindowsAreKept := by
  intro h
  obtain ⟨-, hsync, -⟩ := h syncAllWord crossedState crossedCtx (by decide) (.inl rfl)
  obtain ⟨t, ht, -, -, -, -, -, -, hlands⟩ := hsync crossed_calm
    ⟨fun w hw j _ => crossed_unblocked _, by decide +kernel, fun w hw j _ => by cases List.mem_singleton.1 hw; exact crossed_unlogged j⟩
  obtain ⟨u, hu, hhome⟩ := crossed_synced
  cases ht.symm.trans hu
  have hword := hlands (fun _ h => nomatch h) crossedWindow rfl
    (fun j hj _ => by rw [crossed_dirty hj]; change j < 2 at hj; omega)
    (fun i j hi _ hj _ hij => by rw [crossed_dirty hi, crossed_dirty hj]; change i < 2 at hi; change j < 2 at hj; omega) 0 (by decide) rfl
  exact absurd (hhome.symm.trans (hword.trans crossed_word)) (by decide)

/-- Refutes O32: where a Silt line lists a word beyond its own line, a window's word that has been written to its home there is added to as a later
word's line is merged, and its home does not end with what the window held. -/
theorem not_windowsAreRegistered : ¬ Obligations.WindowsAreRegistered := by
  rintro ⟨-, hkept⟩
  exact not_partWindowsAreKept hkept

end Sys2Proof.Machine

namespace Sys2Proof.Machine

open Sys2Proof.Spec

/-! ## Stores (11, R246): a page whose entry in a translation cache is not at a page's start -/

/-- `st` of a word of s2 at s8:s9 in every lane. -/
def skewedWord : Fields := { fn := 0x080, d := 0x000A, a := 0x0022, b := 0x0003 }

/-- An entry that places the page of address 0 two bytes before line 1. No walk fills one in: `State.walkBoth` ends at a page's start. -/
def skewedEntry : TlbEntry :=
  { asid := 0, vmid := 0, shift := 16, page := 0, pa := 126, kind := 0, vdn := 0, w1 := true, x1 := true, l1 := 0, w2 := true, x2 := true, l2 := 0,
    log := false, ipa := 0 }

/-- A group of 32 lanes, all active. -/
def skewedGroup : Group :=
  { team := 0, grpid := 0, width := 32, core := 0, sched := 0, units := [0], slotA := { active := 0xFFFFFFFF, owned := 0xFFFFFFFF } }

/-- The group's core holds that entry, and a Silt line of line 1. -/
def skewedState : State :=
  { groups := [(0, skewedGroup)], teams := [(0, { launch := 0, teamid := 0, resident := true })], ranges := [(0, { limit := 0x3FFF, enable := true })],
    spaces := [(0, { root := 0, vmid := 0, valid := true })], vmids := [(0, { root := 0, valid := true })],
    cores := [(0, { tlb := [skewedEntry],
                    silt := [{ line := 1, op := 0, float := false, signed := false, words := [(8, 1)], owners := [] }] })] }

/-- What the word sees as it issues. -/
def skewedCtx : Ctx :=
  { s := skewedState, k := 0, g := skewedGroup, b := false, opc := 0x1C1, f := skewedWord, act := skewedGroup.active false skewedWord }

theorem skewed_calm : Calm 0x1C1 skewedWord noNames skewedState skewedCtx where
  ctx := rfl
  form := by decide +kernel
  atEnd := by decide +kernel
  run := by decide +kernel
  clean := by decide +kernel
  room := by decide +kernel
  regs := by decide +kernel
  untraced := by decide +kernel
  alive := rfl
  awake := rfl
  free := rfl
  windows := by decide +kernel
  fresh := by decide +kernel

/-- Every lane's word is at address 0. -/
theorem skewed_addr {l : Nat} (h : l ∈ reaching skewedCtx) : laneAddr skewedCtx l = 0 := by
  revert l
  decide +kernel

/-- It lands at the last two bytes of line 0 and the first two of line 1. -/
theorem skewed_lands : Lands skewedCtx 0 (.mem 126 none) := ⟨rfl, by decide +kernel, rfl⟩

/-- No core buffers a reduction of line 0. -/
theorem skewed_noSilt : NoSilt skewedState 126 := by
  unfold NoSilt
  decide

/-- The store merges the Silt line of line 1: a packet is on its way to a base die. -/
theorem skewed_stored : ∃ t, exec (.st skewedWord) skewedState = .next t ∧ t.bdq.length = 1 := ⟨_, rfl, by decide +kernel⟩

/-- Refutes O25: a translation cache's entry that does not place its page at a page's start lets a word lie in two lines; the statement asks that no
reductions are buffered of the first alone, and those of the second reach their home as the store is made. -/
theorem not_storesWriteMemory : ¬ Obligations.StoresWriteMemory := by
  intro h
  obtain ⟨hst, -⟩ := h skewedWord skewedState skewedCtx
  obtain ⟨hmem, -⟩ := hst skewed_calm (by decide +kernel) (by decide +kernel)
  obtain ⟨t, ht, -, -, hframe, -⟩ := hmem (fun _ => 126) (fun _ => none) (by decide +kernel) (by unfold Spec.Room; decide +kernel) fun l hl a ha => by
    cases (congrArg some (skewed_addr hl)).symm.trans ha
    exact ⟨skewed_lands, skewed_noSilt⟩
  obtain ⟨u, hu, hsent⟩ := skewed_stored
  cases ht.symm.trans hu
  have hnone : t.bdq = [] := congrArg State.bdq hframe
  rw [hnone] at hsent
  exact absurd hsent (by decide)

end Sys2Proof.Machine
